-- ==== Sys2Proof/Word.lean ====
section
/-! DEFINITION. The word types of QNA 2.0 (R2, R10), the lanes of a course, and the sparse tables in which the state
holds its numbered parts. -/

namespace Sys2Proof

/-- A 32-bit register value. -/
abbrev Word := BitVec 32

/-- One byte of memory. -/
abbrev Byte := BitVec 8

/-- A 64-bit pair (R10): register n holds bits [31:0]. -/
abbrev DWord := BitVec 64

/-- A mask over the 32 lanes of a course; bit L stands for lane L. -/
abbrev LaneMask := BitVec 32

/-- The lanes of a course in ascending order (R9). -/
def lanes : List Nat := List.range 32

/-- A table keyed by numbers, in ascending order of keys. -/
abbrev Tab (α : Type) := List (Nat × α)

/-- The entry of a key, or d where the table lists none. -/
def Tab.get {α : Type} (d : α) : Tab α → Nat → α
  | [], _ => d
  | (k, v) :: t, n => if k = n then v else Tab.get d t n

/-- Is the key listed? -/
def Tab.has {α : Type} : Tab α → Nat → Bool
  | [], _ => false
  | (k, _) :: t, n => k == n || Tab.has t n

/-- The entry of a key, if the table lists one. -/
def Tab.find {α : Type} : Tab α → Nat → Option α
  | [], _ => none
  | (k, v) :: t, n => if k = n then some v else Tab.find t n

/-- Write the entry of a key: an existing entry is replaced, a new one is put in order. -/
def Tab.put {α : Type} : Tab α → Nat → α → Tab α
  | [], n, x => [(n, x)]
  | (k, v) :: t, n, x =>
    if k = n then (n, x) :: t
    else if n < k then (n, x) :: (k, v) :: t
    else (k, v) :: Tab.put t n x

/-- Remove the entry of a key. -/
def Tab.del {α : Type} : Tab α → Nat → Tab α
  | [], _ => []
  | (k, v) :: t, n => if k = n then Tab.del t n else (k, v) :: Tab.del t n

/-- Change every entry of a table. -/
def Tab.map {α : Type} (f : Nat → α → α) : Tab α → Tab α
  | [] => []
  | (k, v) :: t => (k, f k v) :: Tab.map f t

/-- Does some entry satisfy a test? -/
def Tab.any {α : Type} (p : Nat → α → Bool) : Tab α → Bool
  | [] => false
  | (k, v) :: t => p k v || Tab.any p t

/-- The keys of the entries that satisfy a test, ascending. -/
def Tab.keys {α : Type} (p : Nat → α → Bool) : Tab α → List Nat
  | [] => []
  | (k, v) :: t => if p k v then k :: Tab.keys p t else Tab.keys p t

/-- The least number that is no key of the table: the handle of a new entry. -/
def Tab.fresh {α : Type} (t : Tab α) : Nat := t.foldl (fun m e => max m (e.1 + 1)) 0

/-- Replace one element of a list by position; a position past the end changes nothing. -/
def setAt {α : Type} : List α → Nat → α → List α
  | [], _, _ => []
  | _ :: t, 0, x => x :: t
  | a :: t, n + 1, x => a :: setAt t n x

end Sys2Proof
end

