-- ==== Sys2Proof/Syntax.lean ====
section
/-! DEFINITION. The syntax of QNA 2.0: one constructor of Instr for every row of spec/opcode_table.json. The first part
of the rows are instruction words (R66–R105); the rest are the steps of the engines, the front end, the firmware and
the host port (95_what_each_step_holds.md), whose arguments name the item in flight that the step acts on, or carry
what comes in from outside the package. -/

namespace Sys2Proof

/-! ## The word head and the operands -/

/-- The head of a word, bits [63:46] but for the opcode (R67). -/
structure Head where
  /-- P, bit 63: issue jointly with the next word (R117). -/
  p : Bool
  /-- GAP, bits [62:60]. -/
  gap : BitVec 3
  /-- Y, bit 59: give way. -/
  y : Bool
  /-- E, bit 58: an empty source raises EMPTY_READ. -/
  e : Bool
  /-- MASK, bits [49:47]. -/
  mask : BitVec 3
  /-- MNEG, bit 46. -/
  mneg : Bool
  deriving DecidableEq, Repr

/-- The kind of a format-R operand (R71). -/
inductive Kind where
  | lane | unif | imm | special
  deriving DecidableEq, Repr

/-- A format-R operand: its kind and its 8-bit field. -/
structure Operand where
  kind : Kind
  field : BitVec 8
  deriving DecidableEq, Repr

/-- A word of format R without its opcode and FN (R70). -/
structure RWord where
  head : Head
  d : BitVec 8
  a : Operand
  b : Operand
  c : Operand
  /-- U: the uniform form. -/
  u : Bool
  deriving DecidableEq, Repr

/-- A word of format I (R70). -/
structure IWord where
  head : Head
  d : BitVec 8
  a : BitVec 8
  u : Bool
  imm : BitVec 24
  deriving DecidableEq, Repr

/-- A word of format K (R70). -/
structure KWord where
  head : Head
  d : BitVec 8
  u : Bool
  imm : BitVec 32
  deriving DecidableEq, Repr

/-- The access sizes of format M (R83). -/
inductive Size where
  | b8 | b16 | b32 | b64 | b128
  deriving DecidableEq, Repr

/-- A word of format M without its opcode and OP (R70). -/
structure MWord where
  head : Head
  ds : BitVec 8
  base : BitVec 8
  ch : BitVec 4
  size : Size
  /-- BK: the base is a uniform register. -/
  bk : Bool
  ofs : BitVec 16
  deriving DecidableEq, Repr

/-! ## Modifiers -/

/-- Conditions of BRA on a register compared with zero (R125). -/
inductive SignCond where
  | eq | ne | lt | ge | gt | le
  deriving DecidableEq, Repr

/-- Conditions of BRA on a mask register (R125). -/
inductive MaskCond where
  | set | clr | any | all | none
  deriving DecidableEq, Repr

/-- What BRA tests (R125): KIND, A and COND. -/
inductive BraTest where
  | always
  | lane (r : BitVec 8) (cc : SignCond)
  | unif (r : BitVec 8) (cc : SignCond)
  | mask (m : BitVec 8) (cc : MaskCond)
  deriving DecidableEq, Repr

/-- The engine paths of WAITC (R337, R339). -/
inductive EnginePath where
  | copy | mat | coll | xch
  deriving DecidableEq, Repr

/-- The part of a product that IMUL returns (R163). -/
inductive MulPart where
  | lo | hi | wide
  deriving DecidableEq, Repr

/-- Conditions of ICMP (R168). -/
inductive IntCond where
  | eq | ne | lt | le | gt | ge
  deriving DecidableEq, Repr

/-- How MOVI extends its immediate (R169). -/
inductive MoviExt where
  | w32 | s64 | z64
  deriving DecidableEq, Repr

/-- How IADD64 reads its second source (R170). -/
inductive Ext64 where
  | pair | zx | sx
  deriving DecidableEq, Repr

/-- Rounding modes (R184). -/
inductive Rnd where
  | rne | rz | ru | rd | rs
  deriving DecidableEq, Repr

/-- Conditions of FCMP (R195). -/
inductive FpCond where
  | eq | ne | lt | le | gt | ge | num | nan
  deriving DecidableEq, Repr

/-- The elements a packed word enables (R192, R197). -/
inductive PackPart where
  | both | lo | hi
  deriving DecidableEq, Repr

/-- Modes of SHFL (R211). -/
inductive ShflMode where
  | from | shift | rot | bfly
  deriving DecidableEq, Repr

/-- Segment codes (R207). -/
inductive Seg where
  | s32 | s16 | s8
  deriving DecidableEq, Repr

/-- Modes of VOTE (R212). -/
inductive VoteMode where
  | mask | count | first | some | every | same
  deriving DecidableEq, Repr

/-- Operations of REDUX and SCAN (R213). -/
inductive RedOp where
  | add | min | max | minU | maxU | and | or | xor | addF | minF | maxF
  deriving DecidableEq, Repr

/-- Scales of HDM (R217). -/
inductive HdmScale where
  | none | p2 | norm
  deriving DecidableEq, Repr

/-- Types of QMAX (R218). -/
inductive QmaxType where
  | f32 | f16 | bf16 | i32
  deriving DecidableEq, Repr

/-- Outputs of QSCALE (R219). -/
inductive QscaleOut where
  | e8m0 | f32 | p2
  deriving DecidableEq, Repr

/-- Widths of PACK and UNPACK (R222). -/
inductive PackWidth where
  | b4 | b8 | b16
  deriving DecidableEq, Repr

/-- Operations of ATOMS, ATOMX and ATOMG (R260). -/
inductive AtomOp where
  | add | min | max | minU | maxU | and | or | xor | exch | cas | addF
  deriving DecidableEq, Repr

/-- Operations of REDG (R298). -/
inductive RedgOp where
  | add | min | max | minU | maxU | addF
  deriving DecidableEq, Repr

/-- Widths of REDEEM (R272). -/
inductive RedeemWidth where
  | b32 | b64 | b128
  deriving DecidableEq, Repr

/-- Scopes (R325). -/
inductive Scope where
  | crs | team | clu | die | pkg | dom | sys
  deriving DecidableEq, Repr

/-- Types of COLL.ar (R396). -/
inductive CollType where
  | f32 | bf16 | i32 | x64
  deriving DecidableEq, Repr

/-- Operations of COLL.ar (R396). -/
inductive CollOp where
  | add | min | max
  deriving DecidableEq, Repr

/-- Directions of CPY (R352). -/
inductive CpyDir where
  | g2s | s2g | g2x | x2g | g2g
  deriving DecidableEq, Repr

/-- Lane sizes of CPY (R352). -/
inductive CpySize where
  | b32 | b64 | b128
  deriving DecidableEq, Repr

/-- Rounding modes of TCPY, FFMA and other words without .rs (R184). -/
inductive Rnd4 where
  | rne | rz | ru | rd
  deriving DecidableEq, Repr

/-- Format codes of MMA and MMAS (R371). -/
inductive MatFmt where
  | bf16 | f16 | e4m3 | e5m2 | fm0 | fm1 | fm2 | fm3
  deriving DecidableEq, Repr

/-- Functions of DMAP (R231). -/
inductive DmapFn where
  | neg | abs | exp | log | rcp | sqrt | tanh | sq
  deriving DecidableEq, Repr

/-- Moments of DMOM (R231). -/
inductive Moment where
  | m1 | m2 | m3 | m4
  deriving DecidableEq, Repr

/-! ## What travels between the parts of the package, to other packages and to the host -/

/-- A destination of a stream: a die, or the host destination of a package (R291). -/
structure Dest where
  chip : Nat
  die : Nat
  host : Bool
  deriving DecidableEq, Repr

/-- A stream: team, channel and destination (R291). The team is named by its package and its handle there. -/
structure StreamKey where
  chip : Nat
  team : Nat
  ch : Nat
  dest : Dest
  deriving DecidableEq, Repr

/-- One element of a store (R293): its virtual address, the place at its home, and its bytes. -/
structure StoreElem where
  va : Nat
  pa : Nat
  bytes : List Byte
  poisoned : Bool
  deriving DecidableEq, Repr

/-- One element of an atomic operation or a reduction (R301). -/
structure AtomElem where
  va : Nat
  pa : Nat
  lane : Nat
  x1 : Nat
  x2 : Nat
  deriving DecidableEq, Repr

/-- One lane's bytes of a read (R273, R353): the lane's place in the reader and its home. -/
structure ReadElem where
  va : Nat
  pa : Nat
  n : Nat
  lane : Nat
  deriving DecidableEq, Repr

/-- Who reads: a ticket's landing entry with its generation, or a transfer operation of a copy. -/
inductive Reader where
  | ticket (entry gen : Nat)
  | copy (id op : Nat)
  deriving DecidableEq, Repr

/-- The payload of a packet (R293, R296, R316, R318). -/
inductive PacketBody where
  | store (es : List StoreElem)
  | atom (op : AtomOp) (size : Nat) (reg : Nat) (es : List AtomElem)
  | reduce (op : RedgOp) (size : Nat) (es : List AtomElem)
  | read (reader : Reader) (es : List ReadElem)
  | close
  | reset
  | resync (u : Nat)
  deriving DecidableEq, Repr

/-- A packet of a stream (R294), with what its destination must know of its source (R314, R323). -/
structure Packet where
  key : StreamKey
  ctag : Nat
  die : Nat
  core : Nat
  gen : Nat
  seq : Nat
  rehome : Bool
  ntf : Option Nat
  body : PacketBody
  deriving DecidableEq, Repr

/-- An old value that an ATOMG read (R301): the packet, the lane, the value and its poison. -/
structure OldValue where
  seq : Nat
  lane : Nat
  value : Nat
  poisoned : Bool
  deriving DecidableEq, Repr

/-- A cumulative acknowledgement (R295): every packet up to upto, with the old values of its ATOMGs. -/
structure Ack where
  key : StreamKey
  gen : Nat
  upto : Nat
  olds : List OldValue
  deriving DecidableEq, Repr

/-- A refusal of a packet (R297, R312, R320, R296). -/
structure NetRefusal where
  key : StreamKey
  gen : Nat
  seq : Nat
  /-- The channel cause of R313; 0 for MOVED and RETRY. -/
  cause : Nat
  moved : Bool
  retry : Bool
  addr : Nat
  deriving DecidableEq, Repr

/-- A RESYNC-ACK (R318). -/
structure ResyncAck where
  key : StreamKey
  gen : Nat
  next : Nat
  olds : List OldValue
  /-- The cause with which the stream is stopped, if it is. -/
  stopped : Option Nat
  deriving DecidableEq, Repr

/-- Bytes that a read returns (R275): one lane's bytes and the 4-byte words of them, by offset, that are poisoned; and
the line they were read from, as it stood at its home, to refill a far line (R328): empty where none is refilled.
moment is when it stood so, by the reading package's count of events. refused marks the poison that a refused read lands. -/
structure ReadReturn where
  key : StreamKey
  reader : Reader
  lane : Nat
  va : Nat
  pa : Nat
  bytes : List Byte
  poison : List Nat
  line : List Byte
  linePoison : List Nat
  moment : Nat
  refused : Bool := false
  deriving DecidableEq, Repr

/-- One lane's bytes of a COLL.put on its way to another package (R400): its source, its destination and the counter
that it notifies. -/
structure CollPut where
  chip : Nat
  ctag : Nat
  dest : Dest
  va : Nat
  pa : Nat
  bytes : List Byte
  poison : List Nat
  ntf : Option Nat
  deriving DecidableEq, Repr

/-- One lane's request of a COLL.get to another package (R400): its source there and its length. -/
structure CollGet where
  chip : Nat
  ctag : Nat
  dest : Dest
  va : Nat
  pa : Nat
  len : Nat
  deriving DecidableEq, Repr

/-- What became of a token: its lane, its slot and STAT (R409). -/
structure TokenDone where
  lane : Nat
  slot : Nat
  stat : Nat
  deriving DecidableEq, Repr

/-- A message on the fabric, in flight. -/
inductive NetMsg where
  | packet (p : Packet)
  | ack (a : Ack)
  | refusal (r : NetRefusal)
  | resyncAck (r : ResyncAck)
  | data (d : ReadReturn)
  /-- A COLL.put for another package, and the answer to one from another package: 0, or the cause of R401. -/
  | put (w : CollPut)
  | putDone (w : CollPut) (cause : Nat)
  /-- The request of a COLL.get to another package, and the answer to one from another package: the bytes and the
  poisoned words by offset, or a cause of R401. -/
  | get (w : CollGet)
  | getDone (w : CollGet) (bytes : List Byte) (poison : List Nat) (cause : Nat)
  /-- The status of a token for the package that sent it. -/
  | tokenStatus (chip word : Nat) (d : TokenDone)
  deriving DecidableEq, Repr

/-- A token of XSEND on its way (R405–R408). Its bytes are read, and its number in its send list is given, when the
routing engine sends it. -/
structure Token where
  schip : Nat
  /-- The XSEND word at the sending package, and the lane. -/
  word : Nat
  lane : Nat
  ctag : Nat
  primChip : Nat
  primWin : Nat
  sec : Option (Nat × Nat)
  redir : Bool
  list : Nat
  seq : Nat
  tag : Nat
  index : Nat
  va : Nat
  size : Nat
  sent : Bool
  bytes : List Byte
  poison : List Nat
  deriving DecidableEq, Repr

/-- One member's chunk of a COLL.ar (R397, R401). -/
structure Chunk where
  rank : Nat
  ty : CollType
  op : CollOp
  key : Nat
  bytes : List Byte
  poison : List Nat
  deriving DecidableEq, Repr

/-- What a lane's work of a COLL receives from the other packages (R400): the bytes that a .get reads, or the chunks
of the members; and whether the remote side acknowledges, faulted or could not be reached. The bytes of an own host region
come in the same way. A COLL.put or the request
of a COLL.get that arrives from another package is work of that package's word. -/
structure CollInput where
  arrived : Option CollPut := none
  asked : Option CollGet := none
  bytes : List Byte := []
  poison : List Nat := []
  chunks : List Chunk := []
  /-- The remote side acknowledges what was sent to it. -/
  acked : Bool := false
  /-- 0, or the cause of R401 that the remote side reports. -/
  cause : Nat := 0
  deriving DecidableEq, Repr

/-- What the other member packages of a group do about a group entry (R391, R479): all accept it, one refuses it, or one
does not answer within 100 ms. -/
inductive GroupReply where
  | accepted | refused | silent
  deriving DecidableEq, Repr

/-- Where a group entry comes from: the host of this package, with the reply of the other members; or another member
package, which sends it with the context's tag and the member list. -/
inductive GroupCall where
  | host (reply : GroupReply)
  | member (tag : Nat) (members : List Nat)
  deriving DecidableEq, Repr

/-- A message of the host on the management queue pair (R473): the header's fields and the body's bytes. -/
structure HostMsg where
  op : Nat
  rsv : Nat
  status : Nat
  ctx : Nat
  seq : Nat
  body : List Byte
  deriving DecidableEq, Repr

/-- One die's telemetry (R482, R487). -/
structure Telemetry where
  die : Nat
  junction : Int
  rails : List Nat
  currents : List Nat
  powerMs : Nat
  powerS : Nat
  idleFraction : Nat
  inlet : Int
  flow : Nat
  deriving DecidableEq, Repr

/-- Where an error of a protected memory lies (R228, R263, R455, R456): DRAM, by a physical address; a lane register of a
course or of its handler bank; a distribution register; shared memory of a team; the scratchpad of a grid on a die; an
accumulator element of a team; a landing entry; a shadow copy of a team; a far line of a die; a line homed at a slice, or of a spill
area, that a line cache of a die holds; a TLB entry; and a line of a core's
instruction cache. -/
inductive ErrorPlace where
  | dram (addr : Nat)
  | lane (crs n L : Nat)
  | bank (crs n L : Nat)
  | dist (crs n L : Nat)
  | shared (team ofs : Nat)
  | scratch (grid die ofs : Nat)
  | acc (team tile row col : Nat)
  | landing (key ofs : Nat)
  | shadow (team line : Nat)
  | farLine (die chip line ofs : Nat)
  | homeLine (die addr : Nat)
  | tlb (n : Nat)
  | code (core ctx line ofs : Nat)
  deriving DecidableEq, Repr

/-- The units that can be fenced (R30, R483). -/
inductive UnitKind where
  | core | die | slice | port
  deriving DecidableEq, Repr

/-- The links of the fabric: those of a domain, between two packages (R26), and those of a package, between two dies, where
die 8 is the collective die (R13). -/
inductive LinkKind where
  | domain | dies
  deriving DecidableEq, Repr

/-- What the memory processor moves (R430, R431): the page at an address, or the table of a level over it. -/
inductive Moved where
  | page (va : Nat)
  | table (va lvl : Nat)
  deriving DecidableEq, Repr

/-- The shared pipelines of a bay (R174, R205, R225). -/
inductive BayUnit where
  | special | crossbar | distribution
  deriving DecidableEq, Repr

/-- RDMA operations that the port does not support (R471). -/
inductive RdmaKind where
  | atomic | datagram | memoryWindow | immediateData
  deriving DecidableEq, Repr

/-- A place that the front end chooses for one team: device core number and bay offset (R36, R54). -/
structure Placement where
  team : Nat
  core : Nat
  offset : Nat
  deriving DecidableEq, Repr

/-! ## The instructions and the steps -/

/-- The rows of spec/opcode_table.json. -/
inductive Instr where
  -- Control words (R89, R124–R137)
  | ill (h : Head) (body : BitVec 46)
  | nop (h : Head)
  | bra (h : Head) (t : BraTest) (ofs : BitVec 32)
  | brx (r : RWord)
  | call (h : Head) (unif : Bool) (a : BitVec 8) (ofs : BitVec 32)
  | ret (r : RWord)
  | jmark (h : Head) (ofs : BitVec 32)
  | join (h : Head)
  | endLanes (h : Head)
  | ipf (h : Head) (base : Option (BitVec 8)) (n : Fin 16) (ofs : BitVec 32)
  | refill (r : RWord)
  | ipush (r : RWord)
  | vacq (r : RWord)
  | vacqNb (r : RWord)
  | vrel (r : RWord)
  | barinit (r : RWord)
  | arrive (r : RWord) (ph : Bool)
  | bwait (r : RWord)
  | waitc (r : RWord) (path : EnginePath)
  | clbar (h : Head)
  | clbarArr (h : Head)
  | clbarWait (h : Head)
  | launch (r : RWord)
  -- Integer words (R160–R171)
  | iadd (r : RWord) (n32 sat : Bool)
  | isub (r : RWord) (n32 sat : Bool)
  | imul (r : RWord) (n32 : Bool) (part : MulPart)
  | imad (r : RWord) (n32 wide : Bool)
  | idiv (r : RWord) (n32 : Bool)
  | irem (r : RWord) (n32 : Bool)
  | imin (r : RWord) (n32 : Bool)
  | imax (r : RWord) (n32 : Bool)
  | iabs (r : RWord) (sat : Bool)
  | andOp (r : RWord) (inv : Bool)
  | orOp (r : RWord) (inv : Bool)
  | xorOp (r : RWord) (inv : Bool)
  | shl (r : RWord) (wrap : Bool)
  | shr (r : RWord) (wrap : Bool)
  | sar (r : RWord) (wrap : Bool)
  | rot (r : RWord) (right : Bool)
  | popc (r : RWord)
  | clz (r : RWord)
  | brev (r : RWord)
  | bfe (r : RWord) (sx : Bool)
  | bfi (r : RWord)
  | icmp (r : RWord) (cc : IntCond) (n32 : Bool)
  | sel (r : RWord)
  | mov (r : RWord)
  | movi (k : KWord) (ext : MoviExt)
  | iadd64 (r : RWord) (sub : Bool) (ext : Ext64)
  | lea (r : RWord) (sx : Bool)
  | mlopAnd (r : RWord)
  | mlopOr (r : RWord)
  | mlopXor (r : RWord)
  | mlopAndn (r : RWord)
  | mlopOrn (r : RWord)
  | mlopNot (r : RWord)
  | mlopMov (r : RWord)
  | mlopFroms (r : RWord)
  | mlopTos (r : RWord)
  | mlopAct (r : RWord)
  | srd (r : RWord)
  | swr (r : RWord)
  | swrSet (r : RWord)
  | swrClr (r : RWord)
  | iaddi (w : IWord) (wide : Bool)
  -- Vector words (R191–R203)
  | fadd (r : RWord) (rnd : Rnd) (sat : Bool)
  | fsub (r : RWord) (rnd : Rnd) (sat : Bool)
  | fmul (r : RWord) (rnd : Rnd) (sat : Bool)
  | ffma (r : RWord) (rnd : Rnd4) (sat : Bool)
  | fmin (r : RWord) (nan : Bool)
  | fmax (r : RWord) (nan : Bool)
  | fcmp (r : RWord) (cc : FpCond)
  | fcls (r : RWord)
  | hadd2 (r : RWord) (rnd : Rnd) (sat bf16 : Bool) (part : PackPart)
  | hmul2 (r : RWord) (rnd : Rnd) (sat bf16 : Bool) (part : PackPart)
  | hfma2 (r : RWord) (rnd : Rnd4) (sat bf16 : Bool) (part : PackPart)
  | hmnx2 (r : RWord) (max nan bf16 : Bool) (part : PackPart)
  | cvt (r : RWord) (rnd : Rnd) (sat : Bool)
  | fdiv (r : RWord) (rnd : Rnd4)
  | fsqrt (r : RWord) (rnd : Rnd4)
  | rcp (r : RWord)
  | rsq (r : RWord)
  | ex2 (r : RWord)
  | lg2 (r : RWord)
  | sin (r : RWord)
  | cos (r : RWord)
  | tanh (r : RWord)
  | frnd (r : RWord) (rnd : Rnd)
  | fscl (r : RWord) (rnd : Rnd4) (sat : Bool)
  -- Lane crossbar and quantisation (R205–R222)
  | shfl (r : RWord) (mode : ShflMode) (seg : Seg)
  | vote (r : RWord) (mode : VoteMode)
  | redux (r : RWord) (op : RedOp) (idx : Bool) (seg : Seg)
  | scan (r : RWord) (op : RedOp) (excl : Bool) (seg : Seg)
  | hdm (r : RWord) (seg : Seg) (scale : HdmScale)
  | qmax (r : RWord) (ty : QmaxType) (seg : Seg)
  | qscale (r : RWord) (out : QscaleOut) (fm : BitVec 3)
  | qnt (r : RWord) (rnd : Rnd) (sat : Bool) (fm : BitVec 3)
  | deq (r : RWord) (rnd : Rnd4) (fm : BitVec 3)
  | pack (r : RWord) (w : PackWidth)
  | unpack (r : RWord) (w : PackWidth) (sx : Bool)
  -- Local memories (R256–R260)
  | lds (m : MWord) (clu : Bool)
  | sts (m : MWord) (clu : Bool)
  | atoms (m : MWord) (op : AtomOp) (clu : Bool)
  | ldsf (m : MWord) (clu : Bool)
  | ldx (m : MWord)
  | stx (m : MWord)
  | atomx (m : MWord) (op : AtomOp)
  | ldk (m : MWord)
  | stk (m : MWord)
  -- Tickets (R266–R289)
  | tld (m : MWord) (nb : Bool)
  | ticketBytesLand (x : ReadReturn)
  | redeem (r : RWord) (w : RedeemWidth)
  | redeemSh (r : RWord)
  | tdrop (r : RWord)
  | tqry (r : RWord)
  | tqryLive (r : RWord)
  -- Channels (R291–R323)
  | stg (m : MWord) (rel ntf : Bool)
  | atomg (m : MWord) (op : AtomOp) (rel ntf : Bool)
  | redg (m : MWord) (op : RedgOp) (rel ntf : Bool)
  | redgSh (m : MWord) (op : RedgOp)
  | cjoin (r : RWord)
  | cdrain (r : RWord) (scope : Scope) (sc : Bool)
  | creset (r : RWord)
  | cstat (r : RWord)
  | cstatAddr (r : RWord)
  | cstatWhere (r : RWord)
  | evwait (r : RWord)
  | evwaitRd (r : RWord)
  | evadd (r : RWord)
  | locq (r : RWord)
  | packetArrival (p : Packet)
  | acknowledgementArrival (a : Ack)
  | refusalArrival (r : NetRefusal)
  | closeArrival (p : Packet)
  | resync (p : Packet)
  | resyncAck (r : ResyncAck)
  | movedRefusal (r : NetRefusal)
  -- The fabric (R391–R412)
  | collPut (r : RWord) (ntf : Bool)
  | collGet (r : RWord)
  | collAr (r : RWord) (ty : CollType) (op : CollOp)
  | collWork (id lane : Nat) (inp : CollInput)
  | csig (r : RWord)
  | xsend (r : RWord)
  | tokenArrival (t : Token)
  | xsendStatus (id : Nat) (far : List TokenDone)
  | xrecv (r : RWord)
  | xrecvFree (r : RWord)
  | xrecvCfg (r : RWord)
  | xrecvStat (r : RWord)
  | dbarArr (r : RWord)
  | dbarWait (r : RWord)
  | dbarPhaseComplete (ctx b : Nat) (arrived : List Nat)
  -- The transfer unit and barriers (R349–R367)
  | cpy (r : RWord) (dir : CpyDir) (size : CpySize) (bar : Bool)
  | tcpy (r : RWord) (sat : Bool) (rnd : Rnd4) (bar x st : Bool)
  | transferOperation (copy op : Nat) (data : List ReadReturn)
  -- Matrix units (R369–R386)
  | mma (r : RWord) (fa fb : MatFmt) (z : Bool)
  | mmas (r : RWord) (fa fb : MatFmt) (z : Bool)
  | mbatch (h : Head)
  | accz (r : RWord)
  | accld (m : MWord)
  | accst (m : MWord)
  | accrd (r : RWord)
  -- Distributions (R231–R246)
  | dmk (r : RWord) (eq : Bool)
  | dget (r : RWord) (w : Bool)
  | dset (r : RWord)
  | dadd (r : RWord)
  | dsub (r : RWord)
  | dmul (r : RWord)
  | dmin (r : RWord)
  | dmax (r : RWord)
  | dmap (r : RWord) (fn : DmapFn)
  | daff (r : RWord)
  | dmix (r : RWord)
  | dcond (r : RWord)
  | dmom (r : RWord) (k : Moment)
  | dqtl (r : RWord) (f32 : Bool)
  | dcdf (r : RWord) (le : Bool)
  | dtagNew (r : RWord)
  | dtagCopy (r : RWord)
  | dtagRead (r : RWord)
  -- Traps and the handler (R435–R447)
  | trap (r : RWord)
  | sret (h : Head)
  | sretEsc (h : Head)
  | sysrd (r : RWord)
  | sysrdV (r : RWord)
  | sysrdS (r : RWord)
  | sysrdPm (r : RWord)
  | syswr (r : RWord)
  | syswrV (r : RWord)
  | syswrS (r : RWord)
  | haltGrid (h : Head)
  | haltLanes (h : Head)
  -- Translation (R424–R429)
  | tlbinvPg (r : RWord)
  | tlbinvCtx (h : Head)
  | pgmap (r : RWord)
  | pgprot (r : RWord)
  | cinv (r : RWord)
  | cinvCtx (h : Head)
  -- Steps of the core and the front end
  | admitGrid (q : Nat) (place : List Placement)
  | haltRequest (team : Nat)
  | restore (place : List Placement)
  | pageMigration (ctx : Nat) (what : Moved) (placement : Nat)
  | dieOutOfService (die : Nat)
  | unitFence (kind : UnitKind) (n : Nat)
  | linkFailure (k : LinkKind) (ends : Nat × Nat)
  | linkReturn (k : LinkKind) (ends : Nat × Nat)
  -- The host port
  | rdmaWrite (key va : Nat) (bytes : List Byte)
  | rdmaRead (key va n : Nat)
  | unsupportedRdmaRequest (k : RdmaKind)
  | defineContext (m : HostMsg)
  | stopContext (m : HostMsg)
  | destroyContext (m : HostMsg)
  | createQueue (m : HostMsg)
  | destroyQueue (m : HostMsg)
  | addPoolFrames (m : HostMsg)
  | removeFrames (m : HostMsg)
  | migratePage (m : HostMsg)
  | exportWindow (m : HostMsg)
  | withdrawWindow (m : HostMsg)
  | loadObject (m : HostMsg)
  | unload (m : HostMsg)
  | setGroupEntry (m : HostMsg) (call : GroupCall)
  | bindDomainBarrier (m : HostMsg)
  | hsQuery (m : HostMsg)
  | hsPermissions (m : HostMsg)
  | hsMap (m : HostMsg)
  | hsHostRegion (m : HostMsg)
  | attestationReport (m : HostMsg)
  | fuseCounterAdvance (m : HostMsg)
  | keySlotRevocation (m : HostMsg)
  | lifeCycleChange (m : HostMsg)
  | readTelemetry (m : HostMsg)
  | readCounters (m : HostMsg)
  | readErrorLog (m : HostMsg)
  | agentAnswer (m : HostMsg)
  | packageReset
  | railLimitEvent (item : Nat) (value : Int)
  | tripLimit (item : Nat) (value : Int)
  | telemetryRefresh (t : List Telemetry)
  | scrub (at_ : ErrorPlace) (corrected : Bool)
  | uncorrectableStateError (grid die part : Nat)
  | hostRegionAccessCompletion (p : Packet) (accepted : Bool)
  | managementQueuePairOpen
  | receiveBufferPosted (n : Nat)
  | undefinedOpRequest (m : HostMsg)
  -- Steps that the package makes by itself
  | launchSubmit (id : Nat)
  | tldQuotaResume (crs slot : Nat)
  | ticketAllocate (req entry : Nat)
  | allocationRetry (req : Nat)
  | redeemAtSlice (req : Nat)
  | redeemDelivery (req : Nat)
  | redeemRefusal (req : Nat)
  | tdropAtSlice (req : Nat)
  | ticketExpiry (entry : Nat)
  | shadowMerge (team line : Nat)
  | cdrainComplete (crs slot : Nat)
  | evwaitWake (crs slot : Nat)
  | openRetry (key : StreamKey)
  | streamClose (key : StreamKey)
  | resyncTimer (key : StreamKey)
  | resyncTimeout (key : StreamKey)
  | movedReissue (team ch : Nat)
  | collComplete (id : Nat)
  | collTimeout (id : Nat)
  | dbarArrivalCounted (id : Nat)
  | dbarTimeout (ctx b : Nat)
  | copyComplete (copy : Nat)
  | bwaitWake (crs slot : Nat)
  | clbarPhaseComplete (cluster : Nat)
  | waitcComplete (crs slot : Nat)
  | engineOpRetire (crs : Nat) (path : EnginePath)
  | quarterStep (core bay : Nat)
  | accumulatorEntry (core bay : Nat)
  | valueLands (crs pid : Nat)
  | escalationAnswer (crs slot : Nat)
  | handlerEntry (crs slot : Nat)
  | demandFetch (crs slot : Nat)
  | fetchFillLands (core line : Nat)
  | slotRefill (crs : Nat)
  | tailWordWrite (q : Nat)
  | coopWaitTimer (q : Nat)
  | admissionConsent (q : Nat)
  | agentTimeout (seq : Nat)
  | saveComplete (team : Nat)
  | pendingValueLands (crs pid : Nat)
  | teamFree (team : Nat)
  | completionSignal (grid : Nat)
  | wipeComplete
  | fixedAluWriteback (crs : Nat)
  | slotUrgency (crs slot : Nat)
  | yieldWindowEnd (crs slot : Nat)
  | unitOccupancyEnd (core bay : Nat) (bu : BayUnit)
  | destinationAccessTimeout (p : Packet)
  | idleInsertion (die : Nat)
  | streamReset (p : Packet)
  deriving DecidableEq, Repr

end Sys2Proof
end

