-- ==== Sys2Proof/WellFormed.lean ====
section
/-! DEFINITION. Which terms of Instr an instruction word can stand for: the checks that order 1 and 2 of R86 make
(unused fields zero, U, SIZE, COND and KIND as the instruction defines them). -/

namespace Sys2Proof

/-- What U an instruction of format R defines. -/
inductive UForm where
  | lane | unif | either
  deriving DecidableEq, Repr

/-- The operand fields of format R that an instruction uses, and its U (R76, R79). -/
structure Uses where
  d : Bool
  a : Bool
  b : Bool
  c : Bool
  u : UForm
  deriving DecidableEq, Repr

namespace Uses

/-- No field used. -/
def none (u : UForm) : Uses := ⟨false, false, false, false, u⟩
/-- D only. -/
def dOnly (u : UForm) : Uses := ⟨true, false, false, false, u⟩
/-- A only. -/
def aOnly (u : UForm) : Uses := ⟨false, true, false, false, u⟩
/-- D and A. -/
def da (u : UForm) : Uses := ⟨true, true, false, false, u⟩
/-- A and B. -/
def ab (u : UForm) : Uses := ⟨false, true, true, false, u⟩
/-- D, A and B. -/
def dab (u : UForm) : Uses := ⟨true, true, true, false, u⟩
/-- All four. -/
def dabc (u : UForm) : Uses := ⟨true, true, true, true, u⟩
/-- D and C. -/
def dc (u : UForm) : Uses := ⟨true, false, false, true, u⟩
/-- A and C. -/
def ac (u : UForm) : Uses := ⟨false, true, false, true, u⟩

end Uses

/-- Rounding modes with random bits use one more operand (R191). -/
def Rnd.isRs : Rnd → Bool
  | .rs => true
  | _ => false

/-- The fields that each format-R instruction uses, per its own table. Instructions of the other formats and the
steps use none. -/
def Instr.uses : Instr → Uses
  | .brx _ | .ret _ => .aOnly .lane
  | .refill _ => .da .lane
  | .ipush _ => .da .unif
  | .vacq _ | .vrel _ => .aOnly .unif
  | .vacqNb _ => .da .unif
  | .barinit _ | .bwait _ => .ab .unif
  | .arrive _ ph => ⟨ph, true, true, false, .unif⟩
  | .waitc _ _ => .aOnly .unif
  | .clbar _ | .clbarArr _ | .clbarWait _ => .none .unif
  | .launch _ => .dab .unif
  | .iadd _ _ _ | .isub _ _ _ | .imul _ _ _ => .dab .either
  | .imad _ _ _ => .dabc .either
  | .idiv _ _ | .irem _ _ | .imin _ _ | .imax _ _ => .dab .either
  | .iabs _ _ => .da .either
  | .andOp _ _ | .orOp _ _ | .xorOp _ _ => .dab .either
  | .shl _ _ | .shr _ _ | .sar _ _ | .rot _ _ => .dab .either
  | .popc _ | .clz _ | .brev _ => .da .either
  | .bfe _ _ | .bfi _ => .dabc .either
  | .icmp _ _ _ => .dab .either
  | .sel _ => .dabc .either
  | .mov _ => .da .either
  | .iadd64 _ _ _ => .dab .either
  | .lea _ _ => .dabc .either
  | .mlopAnd _ | .mlopOr _ | .mlopXor _ | .mlopAndn _ | .mlopOrn _ => .dab .lane
  | .mlopNot _ | .mlopMov _ | .mlopFroms _ => .da .lane
  | .mlopTos _ => .da .unif
  | .mlopAct _ => .dOnly .lane
  | .srd _ | .swr _ | .swrSet _ | .swrClr _ => .da .unif
  | .fadd _ rnd _ | .fsub _ rnd _ | .fmul _ rnd _ => ⟨true, true, true, rnd.isRs, .either⟩
  | .ffma _ _ _ => .dabc .either
  | .fmin _ _ | .fmax _ _ | .fcmp _ _ => .dab .either
  | .fcls _ => .da .either
  | .hadd2 _ rnd _ _ _ | .hmul2 _ rnd _ _ _ => ⟨true, true, true, rnd.isRs, .either⟩
  | .hfma2 _ _ _ _ _ => .dabc .either
  | .hmnx2 _ _ _ _ _ => .dab .either
  | .cvt _ rnd _ => ⟨true, true, rnd.isRs, true, .either⟩
  | .fdiv _ _ => .dab .either
  | .fsqrt _ _ => .da .either
  | .rcp _ | .rsq _ | .ex2 _ | .lg2 _ | .sin _ | .cos _ | .tanh _ => .da .either
  | .frnd _ rnd => ⟨true, true, rnd.isRs, false, .either⟩
  | .fscl _ _ _ => .dab .either
  | .shfl _ _ _ => .dab .lane
  | .vote _ _ => .da .unif
  | .redux _ _ _ _ => .da .either
  | .scan _ _ _ _ | .hdm _ _ _ | .qmax _ _ _ => .da .lane
  | .qscale _ _ _ => .da .either
  | .qnt _ rnd _ _ => ⟨true, true, true, rnd.isRs, .lane⟩
  | .deq _ _ _ => .dab .lane
  | .pack _ _ | .unpack _ _ _ => .da .lane
  | .redeem _ _ => .da .lane
  | .redeemSh _ => .ab .unif
  | .tdrop _ => .aOnly .unif
  | .tqry _ => .da .unif
  | .tqryLive _ => .dOnly .unif
  | .cjoin _ => .ab .unif
  | .cdrain _ _ _ | .creset _ => .aOnly .unif
  | .cstat _ | .cstatAddr _ | .cstatWhere _ => .da .unif
  | .evwait _ | .evadd _ => .ab .unif
  | .evwaitRd _ => .da .unif
  | .locq _ => .da .either
  | .collPut _ ntf => ⟨true, true, false, ntf, .unif⟩
  | .collGet _ => .da .unif
  | .collAr _ _ _ => .dab .unif
  | .csig _ => .da .unif
  | .xsend _ => .dab .lane
  | .xrecv _ | .xrecvFree _ | .xrecvCfg _ => .dab .unif
  | .xrecvStat _ => .da .unif
  | .dbarArr _ => .da .unif
  | .dbarWait _ => .ab .unif
  | .cpy _ _ _ bar => ⟨true, true, true, bar, .lane⟩
  | .tcpy _ _ _ bar _ _ => ⟨false, true, true, bar, .unif⟩
  | .mma _ _ _ _ => .dab .lane
  | .mmas _ _ _ _ => .dabc .lane
  | .mbatch _ => .none .unif
  | .accz _ => .da .unif
  | .accrd _ => .da .lane
  | .dmk _ eq => ⟨true, true, !eq, false, .lane⟩
  | .dget _ _ => .dab .lane
  | .dset _ => .dabc .lane
  | .dadd _ | .dsub _ | .dmul _ | .dmin _ | .dmax _ => .dab .lane
  | .dmap _ _ | .dcond _ | .dmom _ _ => .da .lane
  | .daff _ | .dmix _ => .dabc .lane
  | .dqtl _ _ | .dcdf _ _ => .dab .lane
  | .dtagNew _ | .dtagRead _ => .da .lane
  | .dtagCopy _ => .dab .lane
  | .trap _ => .aOnly .unif
  | .sret _ | .sretEsc _ | .haltGrid _ | .haltLanes _ => .none .unif
  | .sysrd _ => .da .unif
  | .sysrdV _ => .dc .lane
  | .sysrdS _ | .sysrdPm _ => .dc .unif
  | .syswr _ => .da .unif
  | .syswrV _ => .ac .lane
  | .syswrS _ => .ac .unif
  | .tlbinvPg _ => .aOnly .unif
  | .tlbinvCtx _ | .cinvCtx _ => .none .unif
  | .pgmap _ | .pgprot _ => .dab .unif
  | .cinv _ => .ab .unif
  | _ => .none .lane

/-- The head of a word; none for a step that is no instruction word. -/
def Instr.head? : Instr → Option Head
  | .ill h _ | .nop h | .bra h _ _ | .call h _ _ _ | .jmark h _ | .join h | .endLanes h | .ipf h _ _ _ => some h
  | .clbar h | .clbarArr h | .clbarWait h | .mbatch h | .sret h | .sretEsc h | .haltGrid h | .haltLanes h => some h
  | .tlbinvCtx h | .cinvCtx h => some h
  | .movi k _ => some k.head
  | .iaddi w _ => some w.head
  | .lds m _ | .sts m _ | .atoms m _ _ | .ldsf m _ | .ldx m | .stx m | .atomx m _ | .ldk m | .stk m => some m.head
  | .tld m _ | .stg m _ _ | .atomg m _ _ _ | .redg m _ _ _ | .redgSh m _ | .accld m | .accst m => some m.head
  | .brx r | .ret r | .refill r | .ipush r | .vacq r | .vacqNb r | .vrel r | .barinit r | .arrive r _ | .bwait r => some r.head
  | .waitc r _ | .launch r | .iadd r _ _ | .isub r _ _ | .imul r _ _ | .imad r _ _ | .idiv r _ | .irem r _ => some r.head
  | .imin r _ | .imax r _ | .iabs r _ | .andOp r _ | .orOp r _ | .xorOp r _ | .shl r _ | .shr r _ | .sar r _ => some r.head
  | .rot r _ | .popc r | .clz r | .brev r | .bfe r _ | .bfi r | .icmp r _ _ | .sel r | .mov r => some r.head
  | .iadd64 r _ _ | .lea r _ | .mlopAnd r | .mlopOr r | .mlopXor r | .mlopAndn r | .mlopOrn r | .mlopNot r => some r.head
  | .mlopMov r | .mlopFroms r | .mlopTos r | .mlopAct r | .srd r | .swr r | .swrSet r | .swrClr r => some r.head
  | .fadd r _ _ | .fsub r _ _ | .fmul r _ _ | .ffma r _ _ | .fmin r _ | .fmax r _ | .fcmp r _ | .fcls r => some r.head
  | .hadd2 r _ _ _ _ | .hmul2 r _ _ _ _ | .hfma2 r _ _ _ _ | .hmnx2 r _ _ _ _ | .cvt r _ _ => some r.head
  | .fdiv r _ | .fsqrt r _ | .rcp r | .rsq r | .ex2 r | .lg2 r | .sin r | .cos r | .tanh r | .frnd r _ => some r.head
  | .fscl r _ _ | .shfl r _ _ | .vote r _ | .redux r _ _ _ | .scan r _ _ _ | .hdm r _ _ | .qmax r _ _ => some r.head
  | .qscale r _ _ | .qnt r _ _ _ | .deq r _ _ | .pack r _ | .unpack r _ _ | .redeem r _ | .redeemSh r => some r.head
  | .tdrop r | .tqry r | .tqryLive r | .cjoin r | .cdrain r _ _ | .creset r | .cstat r | .cstatAddr r => some r.head
  | .cstatWhere r | .evwait r | .evwaitRd r | .evadd r | .locq r | .collPut r _ | .collGet r | .collAr r _ _ => some r.head
  | .csig r | .xsend r | .xrecv r | .xrecvFree r | .xrecvCfg r | .xrecvStat r | .dbarArr r | .dbarWait r => some r.head
  | .cpy r _ _ _ | .tcpy r _ _ _ _ _ | .mma r _ _ _ | .mmas r _ _ _ | .accz r | .accrd r | .dmk r _ => some r.head
  | .dget r _ | .dset r | .dadd r | .dsub r | .dmul r | .dmin r | .dmax r | .dmap r _ | .daff r | .dmix r => some r.head
  | .dcond r | .dmom r _ | .dqtl r _ | .dcdf r _ | .dtagNew r | .dtagCopy r | .dtagRead r | .trap r => some r.head
  | .sysrd r | .sysrdV r | .sysrdS r | .sysrdPm r | .syswr r | .syswrV r | .syswrS r | .tlbinvPg r => some r.head
  | .pgmap r | .pgprot r | .cinv r => some r.head
  | _ => none

/-- The format-R word of an instruction that carries one. -/
def Instr.rword? : Instr → Option RWord
  | .brx r | .ret r | .refill r | .ipush r | .vacq r | .vacqNb r | .vrel r | .barinit r | .arrive r _ | .bwait r => some r
  | .waitc r _ | .launch r | .iadd r _ _ | .isub r _ _ | .imul r _ _ | .imad r _ _ | .idiv r _ | .irem r _ => some r
  | .imin r _ | .imax r _ | .iabs r _ | .andOp r _ | .orOp r _ | .xorOp r _ | .shl r _ | .shr r _ | .sar r _ => some r
  | .rot r _ | .popc r | .clz r | .brev r | .bfe r _ | .bfi r | .icmp r _ _ | .sel r | .mov r => some r
  | .iadd64 r _ _ | .lea r _ | .mlopAnd r | .mlopOr r | .mlopXor r | .mlopAndn r | .mlopOrn r | .mlopNot r => some r
  | .mlopMov r | .mlopFroms r | .mlopTos r | .mlopAct r | .srd r | .swr r | .swrSet r | .swrClr r => some r
  | .fadd r _ _ | .fsub r _ _ | .fmul r _ _ | .ffma r _ _ | .fmin r _ | .fmax r _ | .fcmp r _ | .fcls r => some r
  | .hadd2 r _ _ _ _ | .hmul2 r _ _ _ _ | .hfma2 r _ _ _ _ | .hmnx2 r _ _ _ _ | .cvt r _ _ => some r
  | .fdiv r _ | .fsqrt r _ | .rcp r | .rsq r | .ex2 r | .lg2 r | .sin r | .cos r | .tanh r | .frnd r _ => some r
  | .fscl r _ _ | .shfl r _ _ | .vote r _ | .redux r _ _ _ | .scan r _ _ _ | .hdm r _ _ | .qmax r _ _ => some r
  | .qscale r _ _ | .qnt r _ _ _ | .deq r _ _ | .pack r _ | .unpack r _ _ | .redeem r _ | .redeemSh r => some r
  | .tdrop r | .tqry r | .tqryLive r | .cjoin r | .cdrain r _ _ | .creset r | .cstat r | .cstatAddr r => some r
  | .cstatWhere r | .evwait r | .evwaitRd r | .evadd r | .locq r | .collPut r _ | .collGet r | .collAr r _ _ => some r
  | .csig r | .xsend r | .xrecv r | .xrecvFree r | .xrecvCfg r | .xrecvStat r | .dbarArr r | .dbarWait r => some r
  | .cpy r _ _ _ | .tcpy r _ _ _ _ _ | .mma r _ _ _ | .mmas r _ _ _ | .accz r | .accrd r | .dmk r _ => some r
  | .dget r _ | .dset r | .dadd r | .dsub r | .dmul r | .dmin r | .dmax r | .dmap r _ | .daff r | .dmix r => some r
  | .dcond r | .dmom r _ | .dqtl r _ | .dcdf r _ | .dtagNew r | .dtagCopy r | .dtagRead r | .trap r => some r
  | .sysrd r | .sysrdV r | .sysrdS r | .sysrdPm r | .syswr r | .syswrV r | .syswrS r | .tlbinvPg r => some r
  | .pgmap r | .pgprot r | .cinv r => some r
  | _ => none

/-- The format-M word of an instruction that carries one. -/
def Instr.mword? : Instr → Option MWord
  | .lds m _ | .sts m _ | .atoms m _ _ | .ldsf m _ | .ldx m | .stx m | .atomx m _ | .ldk m | .stk m => some m
  | .tld m _ | .stg m _ _ | .atomg m _ _ _ | .redg m _ _ _ | .redgSh m _ | .accld m | .accst m => some m
  | _ => none

/-- The operand of an unused field (R76). -/
def Operand.zero : Operand := ⟨.lane, 0#8⟩

/-- MASK = 0 with MNEG = 1 is illegal in every word (R68). -/
def Head.ok (h : Head) : Bool := !(h.mask == 0#3 && h.mneg)

/-- The unused fields and kinds are zero, and U is one that the instruction defines (R76, R86). -/
def RWord.ok (r : RWord) (n : Uses) : Bool :=
  (n.d || r.d == 0#8) && (n.a || r.a == Operand.zero) && (n.b || r.b == Operand.zero) && (n.c || r.c == Operand.zero) &&
    (match n.u with
      | .lane => !r.u
      | .unif => r.u
      | .either => true)

/-- The operations of REDUX that have .idx: minimum and maximum (R214). -/
def RedOp.hasIdx : RedOp → Bool
  | .min | .max | .minU | .maxU | .minF | .maxF => true
  | _ => false

/-- The 16-bit codes of R371. -/
def MatFmt.is16 : MatFmt → Bool
  | .bf16 | .f16 => true
  | _ => false

/-- The sizes that a format-M instruction accepts, and its use of CH, BK and OFS (R256, R272, R298, R299, R375). -/
def Instr.mOk : Instr → MWord → Bool
  | .lds _ _, m | .sts _ _, m | .ldx _, m | .stx _, m => m.ch == 0#4
  | .atoms _ op _, m | .atomx _ op, m =>
    m.ch == 0#4 && (m.size == .b32 || (m.size == .b64 && op != .addF))
  | .ldsf _ _, m | .accld _, m | .accst _, m => m.ch == 0#4 && m.size == .b8 && m.bk
  | .ldk _, m | .stk _, m => m.ch == 0#4 && (m.size == .b32 || m.size == .b64 || m.size == .b128)
  | .tld _ _, m => m.size == .b32 || m.size == .b64 || m.size == .b128
  | .stg _ _ ntf, m => !ntf || m.ofs.toNat < 4096
  | .atomg _ op _ ntf, m =>
    (m.size == .b32 || (m.size == .b64 && op != .addF)) && (!ntf || m.ofs.toNat < 4096)
  | .redg _ op _ ntf, m =>
    (m.size == .b32 || (m.size == .b64 && op != .addF)) && (!ntf || m.ofs.toNat < 4096)
  | .redgSh _ op, m => m.size == .b32 || (m.size == .b64 && op != .addF)
  | _, _ => true

/-- The further limits that an instruction puts on its FN and U: REDUX takes U = 1 only with segment code 0 (R214) and
.idx only with minimum and maximum (R214); the format codes of a matrix word are both 16-bit or both narrow (R371), and
those of MMAS narrow (R375). -/
def Instr.formOk : Instr → Bool
  | .redux r op idx seg => (!idx || op.hasIdx) && (!r.u || seg == .s32)
  | .mma _ fa fb _ => fa.is16 == fb.is16
  | .mmas _ fa fb _ => !fa.is16 && !fb.is16
  | _ => true

/-- Can an instruction word stand for this term? ILL takes every word of opcode 0x00 (R89). -/
def Instr.wf (i : Instr) : Bool :=
  match i with
  | .ill _ _ => true
  | _ =>
    (match i.head? with
      | some h => h.ok
      | none => false) &&
    (match i.rword? with
      | some r => r.ok i.uses
      | none => true) &&
    (match i.mword? with
      | some m => i.mOk m
      | none => true) &&
    i.formOk

end Sys2Proof
end

