-- ==== Sys2Proof/Decode.lean ====
section
/-! DEFINITION. Decoding and encoding of instruction words (R66–R89 and the encoding table of each chapter). Decoding
makes the checks of order 1 and 2 of R86; each refusal has a name, and the step raises ILLEGAL_INSTRUCTION for it. -/

namespace Sys2Proof

/-- Why a word is refused (R86, orders 1 and 2). -/
inductive DecodeError where
  /-- Fewer than 8 bytes. -/
  | notAWord
  /-- The opcode is reserved in the map of R88. -/
  | reservedOpcode
  /-- FN, OP, COND, KIND or SIZE holds a value that the instruction does not define (R79, R82, R83). -/
  | undefinedSubcode
  /-- MASK = 0 with MNEG = 1 (R68). -/
  | maskNegated
  /-- A nonzero unused field or kind, or U, SIZE, CH or OFS outside what the instruction defines (R76, R85, R299). -/
  | undefinedForm
  deriving DecidableEq, Repr

/-! ## The codes of the modifiers -/

/-- The code of each value of EnginePath. -/
def EnginePath.code : EnginePath → Nat
  | .copy => 0
  | .mat => 1
  | .coll => 2
  | .xch => 3

/-- The value of EnginePath that a code names; an undefined code gives the first, which the check of FN refuses. -/
def EnginePath.ofCode : Nat → EnginePath
  | 1 => .mat
  | 2 => .coll
  | 3 => .xch
  | _ => .copy

/-- The code of each value of MulPart. -/
def MulPart.code : MulPart → Nat
  | .lo => 0
  | .hi => 1
  | .wide => 2

/-- The value of MulPart that a code names; an undefined code gives the first, which the check of FN refuses. -/
def MulPart.ofCode : Nat → MulPart
  | 1 => .hi
  | 2 => .wide
  | _ => .lo

/-- The code of each value of IntCond. -/
def IntCond.code : IntCond → Nat
  | .eq => 0
  | .ne => 1
  | .lt => 2
  | .le => 3
  | .gt => 4
  | .ge => 5

/-- The value of IntCond that a code names; an undefined code gives the first, which the check of FN refuses. -/
def IntCond.ofCode : Nat → IntCond
  | 1 => .ne
  | 2 => .lt
  | 3 => .le
  | 4 => .gt
  | 5 => .ge
  | _ => .eq

/-- The code of each value of Ext64. -/
def Ext64.code : Ext64 → Nat
  | .pair => 0
  | .zx => 1
  | .sx => 2

/-- The value of Ext64 that a code names; an undefined code gives the first, which the check of FN refuses. -/
def Ext64.ofCode : Nat → Ext64
  | 1 => .zx
  | 2 => .sx
  | _ => .pair

/-- The code of each value of Rnd. -/
def Rnd.code : Rnd → Nat
  | .rne => 0
  | .rz => 1
  | .ru => 2
  | .rd => 3
  | .rs => 4

/-- The value of Rnd that a code names; an undefined code gives the first, which the check of FN refuses. -/
def Rnd.ofCode : Nat → Rnd
  | 1 => .rz
  | 2 => .ru
  | 3 => .rd
  | 4 => .rs
  | _ => .rne

/-- The code of each value of Rnd4. -/
def Rnd4.code : Rnd4 → Nat
  | .rne => 0
  | .rz => 1
  | .ru => 2
  | .rd => 3

/-- The value of Rnd4 that a code names; an undefined code gives the first, which the check of FN refuses. -/
def Rnd4.ofCode : Nat → Rnd4
  | 1 => .rz
  | 2 => .ru
  | 3 => .rd
  | _ => .rne

/-- The code of each value of FpCond. -/
def FpCond.code : FpCond → Nat
  | .eq => 0
  | .ne => 1
  | .lt => 2
  | .le => 3
  | .gt => 4
  | .ge => 5
  | .num => 6
  | .nan => 7

/-- The value of FpCond that a code names; an undefined code gives the first, which the check of FN refuses. -/
def FpCond.ofCode : Nat → FpCond
  | 1 => .ne
  | 2 => .lt
  | 3 => .le
  | 4 => .gt
  | 5 => .ge
  | 6 => .num
  | 7 => .nan
  | _ => .eq

/-- The code of each value of PackPart. -/
def PackPart.code : PackPart → Nat
  | .both => 0
  | .lo => 1
  | .hi => 2

/-- The value of PackPart that a code names; an undefined code gives the first, which the check of FN refuses. -/
def PackPart.ofCode : Nat → PackPart
  | 1 => .lo
  | 2 => .hi
  | _ => .both

/-- The code of each value of ShflMode. -/
def ShflMode.code : ShflMode → Nat
  | .from => 0
  | .shift => 1
  | .rot => 2
  | .bfly => 3

/-- The value of ShflMode that a code names; an undefined code gives the first, which the check of FN refuses. -/
def ShflMode.ofCode : Nat → ShflMode
  | 1 => .shift
  | 2 => .rot
  | 3 => .bfly
  | _ => .from

/-- The code of each value of Seg. -/
def Seg.code : Seg → Nat
  | .s32 => 0
  | .s16 => 1
  | .s8 => 2

/-- The value of Seg that a code names; an undefined code gives the first, which the check of FN refuses. -/
def Seg.ofCode : Nat → Seg
  | 1 => .s16
  | 2 => .s8
  | _ => .s32

/-- The code of each value of VoteMode. -/
def VoteMode.code : VoteMode → Nat
  | .mask => 0
  | .count => 1
  | .first => 2
  | .some => 3
  | .every => 4
  | .same => 5

/-- The value of VoteMode that a code names; an undefined code gives the first, which the check of FN refuses. -/
def VoteMode.ofCode : Nat → VoteMode
  | 1 => .count
  | 2 => .first
  | 3 => .some
  | 4 => .every
  | 5 => .same
  | _ => .mask

/-- The code of each value of RedOp. -/
def RedOp.code : RedOp → Nat
  | .add => 0
  | .min => 1
  | .max => 2
  | .minU => 3
  | .maxU => 4
  | .and => 5
  | .or => 6
  | .xor => 7
  | .addF => 8
  | .minF => 9
  | .maxF => 10

/-- The value of RedOp that a code names; an undefined code gives the first, which the check of FN refuses. -/
def RedOp.ofCode : Nat → RedOp
  | 1 => .min
  | 2 => .max
  | 3 => .minU
  | 4 => .maxU
  | 5 => .and
  | 6 => .or
  | 7 => .xor
  | 8 => .addF
  | 9 => .minF
  | 10 => .maxF
  | _ => .add

/-- The code of each value of HdmScale. -/
def HdmScale.code : HdmScale → Nat
  | .none => 0
  | .p2 => 1
  | .norm => 2

/-- The value of HdmScale that a code names; an undefined code gives the first, which the check of FN refuses. -/
def HdmScale.ofCode : Nat → HdmScale
  | 1 => .p2
  | 2 => .norm
  | _ => .none

/-- The code of each value of QmaxType. -/
def QmaxType.code : QmaxType → Nat
  | .f32 => 0
  | .f16 => 1
  | .bf16 => 2
  | .i32 => 3

/-- The value of QmaxType that a code names; an undefined code gives the first, which the check of FN refuses. -/
def QmaxType.ofCode : Nat → QmaxType
  | 1 => .f16
  | 2 => .bf16
  | 3 => .i32
  | _ => .f32

/-- The code of each value of QscaleOut. -/
def QscaleOut.code : QscaleOut → Nat
  | .e8m0 => 0
  | .f32 => 1
  | .p2 => 2

/-- The value of QscaleOut that a code names; an undefined code gives the first, which the check of FN refuses. -/
def QscaleOut.ofCode : Nat → QscaleOut
  | 1 => .f32
  | 2 => .p2
  | _ => .e8m0

/-- The code of each value of PackWidth. -/
def PackWidth.code : PackWidth → Nat
  | .b4 => 0
  | .b8 => 1
  | .b16 => 2

/-- The value of PackWidth that a code names; an undefined code gives the first, which the check of FN refuses. -/
def PackWidth.ofCode : Nat → PackWidth
  | 1 => .b8
  | 2 => .b16
  | _ => .b4

/-- The code of each value of AtomOp. -/
def AtomOp.code : AtomOp → Nat
  | .add => 0
  | .min => 1
  | .max => 2
  | .minU => 3
  | .maxU => 4
  | .and => 5
  | .or => 6
  | .xor => 7
  | .exch => 8
  | .cas => 9
  | .addF => 10

/-- The value of AtomOp that a code names; an undefined code gives the first, which the check of FN refuses. -/
def AtomOp.ofCode : Nat → AtomOp
  | 1 => .min
  | 2 => .max
  | 3 => .minU
  | 4 => .maxU
  | 5 => .and
  | 6 => .or
  | 7 => .xor
  | 8 => .exch
  | 9 => .cas
  | 10 => .addF
  | _ => .add

/-- The code of each value of RedgOp. -/
def RedgOp.code : RedgOp → Nat
  | .add => 0
  | .min => 1
  | .max => 2
  | .minU => 3
  | .maxU => 4
  | .addF => 5

/-- The value of RedgOp that a code names; an undefined code gives the first, which the check of FN refuses. -/
def RedgOp.ofCode : Nat → RedgOp
  | 1 => .min
  | 2 => .max
  | 3 => .minU
  | 4 => .maxU
  | 5 => .addF
  | _ => .add

/-- The code of each value of RedeemWidth. -/
def RedeemWidth.code : RedeemWidth → Nat
  | .b32 => 0
  | .b64 => 1
  | .b128 => 2

/-- The value of RedeemWidth that a code names; an undefined code gives the first, which the check of FN refuses. -/
def RedeemWidth.ofCode : Nat → RedeemWidth
  | 1 => .b64
  | 2 => .b128
  | _ => .b32

/-- The code of each value of Scope. -/
def Scope.code : Scope → Nat
  | .crs => 0
  | .team => 1
  | .clu => 2
  | .die => 3
  | .pkg => 4
  | .dom => 5
  | .sys => 6

/-- The value of Scope that a code names; an undefined code gives the first, which the check of FN refuses. -/
def Scope.ofCode : Nat → Scope
  | 1 => .team
  | 2 => .clu
  | 3 => .die
  | 4 => .pkg
  | 5 => .dom
  | 6 => .sys
  | _ => .crs

/-- The code of each value of CollType. -/
def CollType.code : CollType → Nat
  | .f32 => 0
  | .bf16 => 1
  | .i32 => 2
  | .x64 => 3

/-- The value of CollType that a code names; an undefined code gives the first, which the check of FN refuses. -/
def CollType.ofCode : Nat → CollType
  | 1 => .bf16
  | 2 => .i32
  | 3 => .x64
  | _ => .f32

/-- The code of each value of CollOp. -/
def CollOp.code : CollOp → Nat
  | .add => 0
  | .min => 1
  | .max => 2

/-- The value of CollOp that a code names; an undefined code gives the first, which the check of FN refuses. -/
def CollOp.ofCode : Nat → CollOp
  | 1 => .min
  | 2 => .max
  | _ => .add

/-- The code of each value of CpyDir. -/
def CpyDir.code : CpyDir → Nat
  | .g2s => 0
  | .s2g => 1
  | .g2x => 2
  | .x2g => 3
  | .g2g => 4

/-- The value of CpyDir that a code names; an undefined code gives the first, which the check of FN refuses. -/
def CpyDir.ofCode : Nat → CpyDir
  | 1 => .s2g
  | 2 => .g2x
  | 3 => .x2g
  | 4 => .g2g
  | _ => .g2s

/-- The code of each value of CpySize. -/
def CpySize.code : CpySize → Nat
  | .b32 => 0
  | .b64 => 1
  | .b128 => 2

/-- The value of CpySize that a code names; an undefined code gives the first, which the check of FN refuses. -/
def CpySize.ofCode : Nat → CpySize
  | 1 => .b64
  | 2 => .b128
  | _ => .b32

/-- The code of each value of MatFmt. -/
def MatFmt.code : MatFmt → Nat
  | .bf16 => 0
  | .f16 => 1
  | .e4m3 => 2
  | .e5m2 => 3
  | .fm0 => 4
  | .fm1 => 5
  | .fm2 => 6
  | .fm3 => 7

/-- The value of MatFmt that a code names; an undefined code gives the first, which the check of FN refuses. -/
def MatFmt.ofCode : Nat → MatFmt
  | 1 => .f16
  | 2 => .e4m3
  | 3 => .e5m2
  | 4 => .fm0
  | 5 => .fm1
  | 6 => .fm2
  | 7 => .fm3
  | _ => .bf16

/-- The code of each value of DmapFn. -/
def DmapFn.code : DmapFn → Nat
  | .neg => 0
  | .abs => 1
  | .exp => 2
  | .log => 3
  | .rcp => 4
  | .sqrt => 5
  | .tanh => 6
  | .sq => 7

/-- The value of DmapFn that a code names; an undefined code gives the first, which the check of FN refuses. -/
def DmapFn.ofCode : Nat → DmapFn
  | 1 => .abs
  | 2 => .exp
  | 3 => .log
  | 4 => .rcp
  | 5 => .sqrt
  | 6 => .tanh
  | 7 => .sq
  | _ => .neg

/-- The code of each value of Moment. -/
def Moment.code : Moment → Nat
  | .m1 => 0
  | .m2 => 1
  | .m3 => 2
  | .m4 => 3

/-- The value of Moment that a code names; an undefined code gives the first, which the check of FN refuses. -/
def Moment.ofCode : Nat → Moment
  | 1 => .m2
  | 2 => .m3
  | 3 => .m4
  | _ => .m1

/-- The code of each value of MoviExt. -/
def MoviExt.code : MoviExt → Nat
  | .w32 => 0
  | .s64 => 1
  | .z64 => 2

/-- The value of MoviExt that a code names; an undefined code gives the first, which the check of FN refuses. -/
def MoviExt.ofCode : Nat → MoviExt
  | 1 => .s64
  | 2 => .z64
  | _ => .w32

/-- The code of each value of SignCond. -/
def SignCond.code : SignCond → Nat
  | .eq => 1
  | .ne => 2
  | .lt => 3
  | .ge => 4
  | .gt => 5
  | .le => 6

/-- The value of SignCond that a code names; an undefined code gives the first, which the check of FN refuses. -/
def SignCond.ofCode : Nat → SignCond
  | 2 => .ne
  | 3 => .lt
  | 4 => .ge
  | 5 => .gt
  | 6 => .le
  | _ => .eq

/-- The code of each value of MaskCond. -/
def MaskCond.code : MaskCond → Nat
  | .set => 1
  | .clr => 2
  | .any => 3
  | .all => 4
  | .none => 5

/-- The value of MaskCond that a code names; an undefined code gives the first, which the check of FN refuses. -/
def MaskCond.ofCode : Nat → MaskCond
  | 2 => .clr
  | 3 => .any
  | 4 => .all
  | 5 => .none
  | _ => .set

/-- The code of each value of Size. -/
def Size.code : Size → Nat
  | .b8 => 0
  | .b16 => 1
  | .b32 => 2
  | .b64 => 3
  | .b128 => 4

/-- The value of Size that a code names; an undefined code gives the first, which the check of FN refuses. -/
def Size.ofCode : Nat → Size
  | 1 => .b16
  | 2 => .b32
  | 3 => .b64
  | 4 => .b128
  | _ => .b8

/-- The code of each value of Kind. -/
def Kind.code : Kind → Nat
  | .lane => 0
  | .unif => 1
  | .imm => 2
  | .special => 3

/-- The value of Kind that a code names; an undefined code gives the first, which the check of FN refuses. -/
def Kind.ofCode : Nat → Kind
  | 1 => .unif
  | 2 => .imm
  | 3 => .special
  | _ => .lane

/-! ## Opcode and subcode of each instruction -/

/-- The opcode of an instruction word (R88); a step that is no word has none, written 0x00. -/
def Instr.opcode : Instr → Nat
  | .brx _ => 0x03
  | .ret _ => 0x05
  | .refill _ => 0x0A
  | .ipush _ => 0x0B
  | .vacq _ => 0x0C
  | .vacqNb _ => 0x0C
  | .vrel _ => 0x0D
  | .barinit _ => 0x0E
  | .arrive _ _ => 0x0F
  | .bwait _ => 0x10
  | .waitc _ _ => 0x11
  | .launch _ => 0x13
  | .iadd _ _ _ => 0x20
  | .isub _ _ _ => 0x21
  | .imul _ _ _ => 0x22
  | .imad _ _ _ => 0x23
  | .idiv _ _ => 0x24
  | .irem _ _ => 0x25
  | .imin _ _ => 0x26
  | .imax _ _ => 0x27
  | .iabs _ _ => 0x28
  | .andOp _ _ => 0x29
  | .orOp _ _ => 0x2A
  | .xorOp _ _ => 0x2B
  | .shl _ _ => 0x2C
  | .shr _ _ => 0x2D
  | .sar _ _ => 0x2E
  | .rot _ _ => 0x2F
  | .popc _ => 0x30
  | .clz _ => 0x31
  | .brev _ => 0x32
  | .bfe _ _ => 0x33
  | .bfi _ => 0x34
  | .icmp _ _ _ => 0x35
  | .sel _ => 0x36
  | .mov _ => 0x37
  | .iadd64 _ _ _ => 0x39
  | .lea _ _ => 0x3A
  | .mlopAnd _ => 0x3B
  | .mlopOr _ => 0x3B
  | .mlopXor _ => 0x3B
  | .mlopAndn _ => 0x3B
  | .mlopOrn _ => 0x3B
  | .mlopNot _ => 0x3B
  | .mlopMov _ => 0x3B
  | .mlopFroms _ => 0x3B
  | .mlopTos _ => 0x3B
  | .mlopAct _ => 0x3B
  | .srd _ => 0x3C
  | .swr _ => 0x3D
  | .swrSet _ => 0x3D
  | .swrClr _ => 0x3D
  | .fadd _ _ _ => 0x40
  | .fsub _ _ _ => 0x41
  | .fmul _ _ _ => 0x42
  | .ffma _ _ _ => 0x43
  | .fmin _ _ => 0x44
  | .fmax _ _ => 0x45
  | .fcmp _ _ => 0x46
  | .fcls _ => 0x47
  | .hadd2 _ _ _ _ _ => 0x48
  | .hmul2 _ _ _ _ _ => 0x49
  | .hfma2 _ _ _ _ _ => 0x4A
  | .hmnx2 _ _ _ _ _ => 0x4B
  | .cvt _ _ _ => 0x4C
  | .fdiv _ _ => 0x4D
  | .fsqrt _ _ => 0x4E
  | .rcp _ => 0x4F
  | .rsq _ => 0x50
  | .ex2 _ => 0x51
  | .lg2 _ => 0x52
  | .sin _ => 0x53
  | .cos _ => 0x54
  | .tanh _ => 0x55
  | .frnd _ _ => 0x56
  | .fscl _ _ _ => 0x57
  | .shfl _ _ _ => 0x60
  | .vote _ _ => 0x61
  | .redux _ _ _ _ => 0x62
  | .scan _ _ _ _ => 0x63
  | .hdm _ _ _ => 0x64
  | .qmax _ _ _ => 0x65
  | .qscale _ _ _ => 0x66
  | .qnt _ _ _ _ => 0x67
  | .deq _ _ _ => 0x68
  | .pack _ _ => 0x69
  | .unpack _ _ _ => 0x6A
  | .redeem _ _ => 0x8A
  | .redeemSh _ => 0x8A
  | .tdrop _ => 0x8B
  | .tqry _ => 0x8C
  | .tqryLive _ => 0x8C
  | .cjoin _ => 0xA3
  | .cdrain _ _ _ => 0xA4
  | .creset _ => 0xA5
  | .cstat _ => 0xA6
  | .cstatAddr _ => 0xA6
  | .cstatWhere _ => 0xA6
  | .evwait _ => 0xA7
  | .evwaitRd _ => 0xA7
  | .evadd _ => 0xA8
  | .locq _ => 0xA9
  | .collPut _ _ => 0xAA
  | .collGet _ => 0xAA
  | .collAr _ _ _ => 0xAA
  | .csig _ => 0xAB
  | .xsend _ => 0xAC
  | .xrecv _ => 0xAD
  | .xrecvFree _ => 0xAD
  | .xrecvCfg _ => 0xAD
  | .xrecvStat _ => 0xAD
  | .dbarArr _ => 0xAE
  | .dbarWait _ => 0xAE
  | .cpy _ _ _ _ => 0xC0
  | .tcpy _ _ _ _ _ _ => 0xC1
  | .mma _ _ _ _ => 0xC2
  | .mmas _ _ _ _ => 0xC3
  | .accz _ => 0xC5
  | .accrd _ => 0xC8
  | .dmk _ _ => 0xD0
  | .dget _ _ => 0xD1
  | .dset _ => 0xD2
  | .dadd _ => 0xD3
  | .dsub _ => 0xD4
  | .dmul _ => 0xD5
  | .dmin _ => 0xD6
  | .dmax _ => 0xD7
  | .dmap _ _ => 0xD8
  | .daff _ => 0xD9
  | .dmix _ => 0xDA
  | .dcond _ => 0xDB
  | .dmom _ _ => 0xDC
  | .dqtl _ _ => 0xDD
  | .dcdf _ _ => 0xDE
  | .dtagNew _ => 0xDF
  | .dtagCopy _ => 0xDF
  | .dtagRead _ => 0xDF
  | .trap _ => 0xE0
  | .sysrd _ => 0xE2
  | .sysrdV _ => 0xE2
  | .sysrdS _ => 0xE2
  | .sysrdPm _ => 0xE2
  | .syswr _ => 0xE3
  | .syswrV _ => 0xE3
  | .syswrS _ => 0xE3
  | .tlbinvPg _ => 0xE4
  | .pgmap _ => 0xE5
  | .pgprot _ => 0xE6
  | .cinv _ => 0xE7
  | .nop _ => 0x01
  | .join _ => 0x07
  | .endLanes _ => 0x08
  | .clbar _ => 0x12
  | .clbarArr _ => 0x12
  | .clbarWait _ => 0x12
  | .mbatch _ => 0xC4
  | .sret _ => 0xE1
  | .sretEsc _ => 0xE1
  | .haltGrid _ => 0xE8
  | .haltLanes _ => 0xE8
  | .tlbinvCtx _ => 0xE4
  | .cinvCtx _ => 0xE7
  | .lds _ _ => 0x80
  | .sts _ _ => 0x81
  | .atoms _ _ _ => 0x82
  | .ldsf _ _ => 0x83
  | .ldx _ => 0x84
  | .stx _ => 0x85
  | .atomx _ _ => 0x86
  | .ldk _ => 0x87
  | .stk _ => 0x88
  | .tld _ _ => 0x89
  | .stg _ _ _ => 0xA0
  | .atomg _ _ _ _ => 0xA1
  | .redg _ _ _ _ => 0xA2
  | .redgSh _ _ => 0xA2
  | .accld _ => 0xC6
  | .accst _ => 0xC7
  | .bra _ _ _ => 0x02
  | .call _ _ _ _ => 0x04
  | .jmark _ _ => 0x06
  | .ipf _ _ _ _ => 0x09
  | .movi _ _ => 0x38
  | .iaddi _ _ => 0x3E
  | _ => 0x00

/-- FN of format R and OP of formats I, K and M (R79), for every instruction word. -/
def Instr.fn : Instr → Nat
  | .vacqNb _ => 1
  | .arrive _ ph => ph.toNat
  | .waitc _ path => path.code
  | .iadd _ n32 sat => n32.toNat + 2 * sat.toNat
  | .isub _ n32 sat => n32.toNat + 2 * sat.toNat
  | .imul _ n32 part => n32.toNat + 2 * part.code
  | .imad _ n32 wide => n32.toNat + 4 * wide.toNat
  | .idiv _ n32 => n32.toNat
  | .irem _ n32 => n32.toNat
  | .imin _ n32 => n32.toNat
  | .imax _ n32 => n32.toNat
  | .iabs _ sat => 2 * sat.toNat
  | .andOp _ inv => inv.toNat
  | .orOp _ inv => inv.toNat
  | .xorOp _ inv => inv.toNat
  | .shl _ wrap => wrap.toNat
  | .shr _ wrap => wrap.toNat
  | .sar _ wrap => wrap.toNat
  | .rot _ right => right.toNat
  | .bfe _ sx => sx.toNat
  | .icmp _ cc n32 => cc.code + 8 * n32.toNat
  | .iadd64 _ sub ext => sub.toNat + 2 * ext.code
  | .lea _ sx => sx.toNat
  | .mlopOr _ => 1
  | .mlopXor _ => 2
  | .mlopAndn _ => 3
  | .mlopOrn _ => 4
  | .mlopNot _ => 5
  | .mlopMov _ => 6
  | .mlopFroms _ => 7
  | .mlopTos _ => 8
  | .mlopAct _ => 9
  | .swrSet _ => 1
  | .swrClr _ => 2
  | .fadd _ rnd sat => rnd.code + 8 * sat.toNat
  | .fsub _ rnd sat => rnd.code + 8 * sat.toNat
  | .fmul _ rnd sat => rnd.code + 8 * sat.toNat
  | .ffma _ rnd sat => rnd.code + 8 * sat.toNat
  | .fmin _ nan => nan.toNat
  | .fmax _ nan => nan.toNat
  | .fcmp _ cc => cc.code
  | .hadd2 _ rnd sat bf part => rnd.code + 8 * sat.toNat + 16 * bf.toNat + 32 * part.code
  | .hmul2 _ rnd sat bf part => rnd.code + 8 * sat.toNat + 16 * bf.toNat + 32 * part.code
  | .hfma2 _ rnd sat bf part => rnd.code + 8 * sat.toNat + 16 * bf.toNat + 32 * part.code
  | .hmnx2 _ mx nan bf part => mx.toNat + 2 * nan.toNat + 16 * bf.toNat + 32 * part.code
  | .cvt _ rnd sat => rnd.code + 8 * sat.toNat
  | .fdiv _ rnd => rnd.code
  | .fsqrt _ rnd => rnd.code
  | .frnd _ rnd => rnd.code
  | .fscl _ rnd sat => rnd.code + 8 * sat.toNat
  | .shfl _ mode seg => mode.code + 4 * seg.code
  | .vote _ mode => mode.code
  | .redux _ op idx seg => op.code + 16 * idx.toNat + 32 * seg.code
  | .scan _ op excl seg => op.code + 16 * excl.toNat + 32 * seg.code
  | .hdm _ seg scale => seg.code + 4 * scale.code
  | .qmax _ ty seg => ty.code + 4 * seg.code
  | .qscale _ out fm => out.code + 16 * fm.toNat
  | .qnt _ rnd sat fm => rnd.code + 8 * sat.toNat + 16 * fm.toNat
  | .deq _ rnd fm => rnd.code + 16 * fm.toNat
  | .pack _ w => w.code
  | .unpack _ w sx => w.code + 4 * sx.toNat
  | .redeem _ w => w.code
  | .redeemSh _ => 4
  | .tqryLive _ => 1
  | .cdrain _ scope sc => scope.code + 8 * sc.toNat
  | .cstatAddr _ => 1
  | .cstatWhere _ => 2
  | .evwaitRd _ => 1
  | .collPut _ ntf => 64 * ntf.toNat
  | .collGet _ => 1
  | .collAr _ ty op => 2 + 4 * ty.code + 16 * op.code
  | .xrecvFree _ => 1
  | .xrecvCfg _ => 2
  | .xrecvStat _ => 3
  | .dbarWait _ => 1
  | .cpy _ dir size bar => dir.code + 8 * size.code + 32 * bar.toNat
  | .tcpy _ sat rnd bar x st => 64 * sat.toNat + 8 * rnd.code + 4 * bar.toNat + 2 * x.toNat + st.toNat
  | .mma _ fa fb z => fa.code + 8 * fb.code + 64 * z.toNat
  | .mmas _ fa fb z => fa.code + 8 * fb.code + 64 * z.toNat
  | .dmk _ eq => eq.toNat
  | .dget _ w => w.toNat
  | .dmap _ g => g.code
  | .dmom _ k => k.code
  | .dqtl _ f => f.toNat
  | .dcdf _ le => le.toNat
  | .dtagCopy _ => 1
  | .dtagRead _ => 2
  | .sysrdV _ => 1
  | .sysrdS _ => 2
  | .sysrdPm _ => 3
  | .syswrV _ => 1
  | .syswrS _ => 2
  | .clbarArr _ => 1
  | .clbarWait _ => 2
  | .sretEsc _ => 1
  | .haltLanes _ => 1
  | .tlbinvCtx _ => 1
  | .cinvCtx _ => 1
  | .lds _ clu => 32 * clu.toNat
  | .sts _ clu => 32 * clu.toNat
  | .atoms _ op clu => op.code + 32 * clu.toNat
  | .ldsf _ clu => 32 * clu.toNat
  | .atomx _ op => op.code
  | .tld _ nb => nb.toNat
  | .stg _ rel ntf => rel.toNat + 2 * ntf.toNat
  | .atomg _ op rel ntf => op.code + 16 * rel.toNat + 32 * ntf.toNat
  | .redg _ op rel ntf => op.code + 16 * rel.toNat + 32 * ntf.toNat
  | .redgSh _ op => op.code + 8
  | .movi _ ext => ext.code
  | .iaddi _ wide => wide.toNat
  | _ => 0

/-! ## The fields of a word -/

/-- A word cut into its head, its opcode and its body (R67). -/
structure Raw where
  head : Head
  opcode : BitVec 8
  body : BitVec 46
  deriving DecidableEq, Repr

/-- The fields of a format-R body (R70). -/
structure RBody where
  word : RWord
  fn : BitVec 7
  deriving DecidableEq, Repr

/-- The fields of a format-M body (R70). -/
structure MBody where
  ds : BitVec 8
  base : BitVec 8
  ch : BitVec 4
  size : BitVec 3
  bk : Bool
  op : BitVec 6
  ofs : BitVec 16
  deriving DecidableEq, Repr

/-- The fields of a format-I body (R70). -/
structure IBody where
  d : BitVec 8
  a : BitVec 8
  u : Bool
  op : BitVec 5
  imm : BitVec 24
  deriving DecidableEq, Repr

/-- The fields of a format-K body (R70). -/
structure KBody where
  d : BitVec 8
  u : Bool
  op : BitVec 5
  imm : BitVec 32
  deriving DecidableEq, Repr

/-- The fields of a format-B body (R70). -/
structure BBody where
  a : BitVec 8
  cond : BitVec 4
  kind : BitVec 2
  ofs : BitVec 32
  deriving DecidableEq, Repr

/-- Bit n of a vector. -/
def bitAt {w : Nat} (x : BitVec w) (n : Nat) : Bool := x.getLsbD n

/-- Cut a word at the places of R67. -/
def Raw.ofWord (w : BitVec 64) : Raw :=
  { head := { p := bitAt w 63, gap := w.extractLsb' 60 3, y := bitAt w 59, e := bitAt w 58,
              mask := w.extractLsb' 47 3, mneg := bitAt w 46 },
    opcode := w.extractLsb' 50 8, body := w.extractLsb' 0 46 }

/-- The word of R67. -/
def Raw.toWord (r : Raw) : BitVec 64 :=
  BitVec.ofBool r.head.p ++ r.head.gap ++ BitVec.ofBool r.head.y ++ BitVec.ofBool r.head.e ++ r.opcode ++
    r.head.mask ++ BitVec.ofBool r.head.mneg ++ r.body

/-- Format R (R70). -/
def RBody.ofBody (h : Head) (b : BitVec 46) : RBody :=
  { word := { head := h, d := b.extractLsb' 38 8,
              a := ⟨Kind.ofCode (b.extractLsb' 12 2).toNat, b.extractLsb' 30 8⟩,
              b := ⟨Kind.ofCode (b.extractLsb' 10 2).toNat, b.extractLsb' 22 8⟩,
              c := ⟨Kind.ofCode (b.extractLsb' 8 2).toNat, b.extractLsb' 14 8⟩,
              u := bitAt b 7 },
    fn := b.extractLsb' 0 7 }

/-- Format R (R70). -/
def RBody.toBody (r : RBody) : BitVec 46 :=
  r.word.d ++ r.word.a.field ++ r.word.b.field ++ r.word.c.field ++ BitVec.ofNat 2 r.word.a.kind.code ++
    BitVec.ofNat 2 r.word.b.kind.code ++ BitVec.ofNat 2 r.word.c.kind.code ++ BitVec.ofBool r.word.u ++ r.fn

/-- Format M (R70). -/
def MBody.ofBody (b : BitVec 46) : MBody :=
  { ds := b.extractLsb' 38 8, base := b.extractLsb' 30 8, ch := b.extractLsb' 26 4, size := b.extractLsb' 23 3,
    bk := bitAt b 22, op := b.extractLsb' 16 6, ofs := b.extractLsb' 0 16 }

/-- Format M (R70). -/
def MBody.toBody (m : MBody) : BitVec 46 :=
  m.ds ++ m.base ++ m.ch ++ m.size ++ BitVec.ofBool m.bk ++ m.op ++ m.ofs

/-- Format I (R70). -/
def IBody.ofBody (b : BitVec 46) : IBody :=
  { d := b.extractLsb' 38 8, a := b.extractLsb' 30 8, u := bitAt b 29, op := b.extractLsb' 24 5, imm := b.extractLsb' 0 24 }

/-- Format I (R70). -/
def IBody.toBody (i : IBody) : BitVec 46 := i.d ++ i.a ++ BitVec.ofBool i.u ++ i.op ++ i.imm

/-- Format K (R70). -/
def KBody.ofBody (b : BitVec 46) : KBody :=
  { d := b.extractLsb' 38 8, u := bitAt b 37, op := b.extractLsb' 32 5, imm := b.extractLsb' 0 32 }

/-- Format K (R70). -/
def KBody.toBody (k : KBody) : BitVec 46 := k.d ++ BitVec.ofBool k.u ++ k.op ++ k.imm

/-- Format B (R70). -/
def BBody.ofBody (b : BitVec 46) : BBody :=
  { a := b.extractLsb' 38 8, cond := b.extractLsb' 34 4, kind := b.extractLsb' 32 2, ofs := b.extractLsb' 0 32 }

/-- Format B (R70). -/
def BBody.toBody (b : BBody) : BitVec 46 := b.a ++ b.cond ++ b.kind ++ b.ofs

/-! ## Which instruction an opcode and a subcode name -/

/-- The format-R instruction of class 0 that an opcode and FN name; the caller checks FN (R88). -/
def candR0 (op fn : Nat) (r : RWord) : Option Instr :=
  match op with
  | 0x01 => some (.nop r.head)
  | 0x03 => some (.brx r)
  | 0x05 => some (.ret r)
  | 0x07 => some (.join r.head)
  | 0x08 => some (.endLanes r.head)
  | 0x0A => some (.refill r)
  | 0x0B => some (.ipush r)
  | 0x0C => match fn with
    | 1 => some (.vacqNb r)
    | _ => some (.vacq r)
  | 0x0D => some (.vrel r)
  | 0x0E => some (.barinit r)
  | 0x0F => some (.arrive r (fn.testBit 0))
  | 0x10 => some (.bwait r)
  | 0x11 => some (.waitc r (EnginePath.ofCode (fn / 1 % 4)))
  | 0x12 => match fn with
    | 1 => some (.clbarArr r.head)
    | 2 => some (.clbarWait r.head)
    | _ => some (.clbar r.head)
  | 0x13 => some (.launch r)
  | _ => none

/-- The format-R instruction of class 1 that an opcode and FN name; the caller checks FN (R88). -/
def candR1 (op fn : Nat) (r : RWord) : Option Instr :=
  match op with
  | 0x20 => some (.iadd r (fn.testBit 0) (fn.testBit 1))
  | 0x21 => some (.isub r (fn.testBit 0) (fn.testBit 1))
  | 0x22 => some (.imul r (fn.testBit 0) (MulPart.ofCode (fn / 2 % 4)))
  | 0x23 => some (.imad r (fn.testBit 0) (fn.testBit 2))
  | 0x24 => some (.idiv r (fn.testBit 0))
  | 0x25 => some (.irem r (fn.testBit 0))
  | 0x26 => some (.imin r (fn.testBit 0))
  | 0x27 => some (.imax r (fn.testBit 0))
  | 0x28 => some (.iabs r (fn.testBit 1))
  | 0x29 => some (.andOp r (fn.testBit 0))
  | 0x2A => some (.orOp r (fn.testBit 0))
  | 0x2B => some (.xorOp r (fn.testBit 0))
  | 0x2C => some (.shl r (fn.testBit 0))
  | 0x2D => some (.shr r (fn.testBit 0))
  | 0x2E => some (.sar r (fn.testBit 0))
  | 0x2F => some (.rot r (fn.testBit 0))
  | 0x30 => some (.popc r)
  | 0x31 => some (.clz r)
  | 0x32 => some (.brev r)
  | 0x33 => some (.bfe r (fn.testBit 0))
  | 0x34 => some (.bfi r)
  | 0x35 => some (.icmp r (IntCond.ofCode (fn / 1 % 8)) (fn.testBit 3))
  | 0x36 => some (.sel r)
  | 0x37 => some (.mov r)
  | 0x39 => some (.iadd64 r (fn.testBit 0) (Ext64.ofCode (fn / 2 % 4)))
  | 0x3A => some (.lea r (fn.testBit 0))
  | 0x3B => match fn with
    | 1 => some (.mlopOr r)
    | 2 => some (.mlopXor r)
    | 3 => some (.mlopAndn r)
    | 4 => some (.mlopOrn r)
    | 5 => some (.mlopNot r)
    | 6 => some (.mlopMov r)
    | 7 => some (.mlopFroms r)
    | 8 => some (.mlopTos r)
    | 9 => some (.mlopAct r)
    | _ => some (.mlopAnd r)
  | 0x3C => some (.srd r)
  | 0x3D => match fn with
    | 1 => some (.swrSet r)
    | 2 => some (.swrClr r)
    | _ => some (.swr r)
  | _ => none

/-- The format-R instruction of class 2 that an opcode and FN name; the caller checks FN (R88). -/
def candR2 (op fn : Nat) (r : RWord) : Option Instr :=
  match op with
  | 0x40 => some (.fadd r (Rnd.ofCode (fn / 1 % 8)) (fn.testBit 3))
  | 0x41 => some (.fsub r (Rnd.ofCode (fn / 1 % 8)) (fn.testBit 3))
  | 0x42 => some (.fmul r (Rnd.ofCode (fn / 1 % 8)) (fn.testBit 3))
  | 0x43 => some (.ffma r (Rnd4.ofCode (fn / 1 % 8)) (fn.testBit 3))
  | 0x44 => some (.fmin r (fn.testBit 0))
  | 0x45 => some (.fmax r (fn.testBit 0))
  | 0x46 => some (.fcmp r (FpCond.ofCode (fn / 1 % 8)))
  | 0x47 => some (.fcls r)
  | 0x48 => some (.hadd2 r (Rnd.ofCode (fn / 1 % 8)) (fn.testBit 3) (fn.testBit 4) (PackPart.ofCode (fn / 32 % 4)))
  | 0x49 => some (.hmul2 r (Rnd.ofCode (fn / 1 % 8)) (fn.testBit 3) (fn.testBit 4) (PackPart.ofCode (fn / 32 % 4)))
  | 0x4A => some (.hfma2 r (Rnd4.ofCode (fn / 1 % 8)) (fn.testBit 3) (fn.testBit 4) (PackPart.ofCode (fn / 32 % 4)))
  | 0x4B => some (.hmnx2 r (fn.testBit 0) (fn.testBit 1) (fn.testBit 4) (PackPart.ofCode (fn / 32 % 4)))
  | 0x4C => some (.cvt r (Rnd.ofCode (fn / 1 % 8)) (fn.testBit 3))
  | 0x4D => some (.fdiv r (Rnd4.ofCode (fn / 1 % 8)))
  | 0x4E => some (.fsqrt r (Rnd4.ofCode (fn / 1 % 8)))
  | 0x4F => some (.rcp r)
  | 0x50 => some (.rsq r)
  | 0x51 => some (.ex2 r)
  | 0x52 => some (.lg2 r)
  | 0x53 => some (.sin r)
  | 0x54 => some (.cos r)
  | 0x55 => some (.tanh r)
  | 0x56 => some (.frnd r (Rnd.ofCode (fn / 1 % 8)))
  | 0x57 => some (.fscl r (Rnd4.ofCode (fn / 1 % 8)) (fn.testBit 3))
  | _ => none

/-- The format-R instruction of class 3 that an opcode and FN name; the caller checks FN (R88). -/
def candR3 (op fn : Nat) (r : RWord) : Option Instr :=
  match op with
  | 0x60 => some (.shfl r (ShflMode.ofCode (fn / 1 % 4)) (Seg.ofCode (fn / 4 % 4)))
  | 0x61 => some (.vote r (VoteMode.ofCode (fn / 1 % 8)))
  | 0x62 => some (.redux r (RedOp.ofCode (fn / 1 % 16)) (fn.testBit 4) (Seg.ofCode (fn / 32 % 4)))
  | 0x63 => some (.scan r (RedOp.ofCode (fn / 1 % 16)) (fn.testBit 4) (Seg.ofCode (fn / 32 % 4)))
  | 0x64 => some (.hdm r (Seg.ofCode (fn / 1 % 4)) (HdmScale.ofCode (fn / 4 % 4)))
  | 0x65 => some (.qmax r (QmaxType.ofCode (fn / 1 % 4)) (Seg.ofCode (fn / 4 % 4)))
  | 0x66 => some (.qscale r (QscaleOut.ofCode (fn / 1 % 4)) (BitVec.ofNat 3 (fn / 16)))
  | 0x67 => some (.qnt r (Rnd.ofCode (fn / 1 % 8)) (fn.testBit 3) (BitVec.ofNat 3 (fn / 16)))
  | 0x68 => some (.deq r (Rnd4.ofCode (fn / 1 % 8)) (BitVec.ofNat 3 (fn / 16)))
  | 0x69 => some (.pack r (PackWidth.ofCode (fn / 1 % 4)))
  | 0x6A => some (.unpack r (PackWidth.ofCode (fn / 1 % 4)) (fn.testBit 2))
  | _ => none

/-- The format-R instruction of class 4 that an opcode and FN name; the caller checks FN (R88). -/
def candR4 (op fn : Nat) (r : RWord) : Option Instr :=
  match op with
  | 0x8A => if fn = 4 then some (.redeemSh r) else some (.redeem r (RedeemWidth.ofCode (fn % 4)))
  | 0x8B => some (.tdrop r)
  | 0x8C => match fn with
    | 1 => some (.tqryLive r)
    | _ => some (.tqry r)
  | _ => none

/-- The format-R instruction of class 5 that an opcode and FN name; the caller checks FN (R88). -/
def candR5 (op fn : Nat) (r : RWord) : Option Instr :=
  match op with
  | 0xA3 => some (.cjoin r)
  | 0xA4 => some (.cdrain r (Scope.ofCode (fn / 1 % 8)) (fn.testBit 3))
  | 0xA5 => some (.creset r)
  | 0xA6 => match fn with
    | 1 => some (.cstatAddr r)
    | 2 => some (.cstatWhere r)
    | _ => some (.cstat r)
  | 0xA7 => match fn with
    | 1 => some (.evwaitRd r)
    | _ => some (.evwait r)
  | 0xA8 => some (.evadd r)
  | 0xA9 => some (.locq r)
  | 0xAA => match fn % 4 with
    | 0 => some (.collPut r (fn.testBit 6))
    | 1 => some (.collGet r)
    | _ => some (.collAr r (CollType.ofCode (fn / 4 % 4)) (CollOp.ofCode (fn / 16 % 4)))
  | 0xAB => some (.csig r)
  | 0xAC => some (.xsend r)
  | 0xAD => match fn with
    | 1 => some (.xrecvFree r)
    | 2 => some (.xrecvCfg r)
    | 3 => some (.xrecvStat r)
    | _ => some (.xrecv r)
  | 0xAE => match fn with
    | 1 => some (.dbarWait r)
    | _ => some (.dbarArr r)
  | _ => none

/-- The format-R instruction of class 6 that an opcode and FN name; the caller checks FN (R88). -/
def candR6 (op fn : Nat) (r : RWord) : Option Instr :=
  match op with
  | 0xC0 => some (.cpy r (CpyDir.ofCode (fn / 1 % 8)) (CpySize.ofCode (fn / 8 % 4)) (fn.testBit 5))
  | 0xC1 => some (.tcpy r (fn.testBit 6) (Rnd4.ofCode (fn / 8 % 8)) (fn.testBit 2) (fn.testBit 1) (fn.testBit 0))
  | 0xC2 => some (.mma r (MatFmt.ofCode (fn / 1 % 8)) (MatFmt.ofCode (fn / 8 % 8)) (fn.testBit 6))
  | 0xC3 => some (.mmas r (MatFmt.ofCode (fn / 1 % 8)) (MatFmt.ofCode (fn / 8 % 8)) (fn.testBit 6))
  | 0xC4 => some (.mbatch r.head)
  | 0xC5 => some (.accz r)
  | 0xC8 => some (.accrd r)
  | 0xD0 => some (.dmk r (fn.testBit 0))
  | 0xD1 => some (.dget r (fn.testBit 0))
  | 0xD2 => some (.dset r)
  | 0xD3 => some (.dadd r)
  | 0xD4 => some (.dsub r)
  | 0xD5 => some (.dmul r)
  | 0xD6 => some (.dmin r)
  | 0xD7 => some (.dmax r)
  | 0xD8 => some (.dmap r (DmapFn.ofCode (fn / 1 % 8)))
  | 0xD9 => some (.daff r)
  | 0xDA => some (.dmix r)
  | 0xDB => some (.dcond r)
  | 0xDC => some (.dmom r (Moment.ofCode (fn / 1 % 4)))
  | 0xDD => some (.dqtl r (fn.testBit 0))
  | 0xDE => some (.dcdf r (fn.testBit 0))
  | 0xDF => match fn with
    | 1 => some (.dtagCopy r)
    | 2 => some (.dtagRead r)
    | _ => some (.dtagNew r)
  | _ => none

/-- The format-R instruction of class 7 that an opcode and FN name; the caller checks FN (R88). -/
def candR7 (op fn : Nat) (r : RWord) : Option Instr :=
  match op with
  | 0xE0 => some (.trap r)
  | 0xE1 => match fn with
    | 1 => some (.sretEsc r.head)
    | _ => some (.sret r.head)
  | 0xE2 => match fn with
    | 1 => some (.sysrdV r)
    | 2 => some (.sysrdS r)
    | 3 => some (.sysrdPm r)
    | _ => some (.sysrd r)
  | 0xE3 => match fn with
    | 1 => some (.syswrV r)
    | 2 => some (.syswrS r)
    | _ => some (.syswr r)
  | 0xE4 => match fn with
    | 1 => some (.tlbinvCtx r.head)
    | _ => some (.tlbinvPg r)
  | 0xE5 => some (.pgmap r)
  | 0xE6 => some (.pgprot r)
  | 0xE7 => match fn with
    | 1 => some (.cinvCtx r.head)
    | _ => some (.cinv r)
  | 0xE8 => match fn with
    | 1 => some (.haltLanes r.head)
    | _ => some (.haltGrid r.head)
  | _ => none

/-- The format-R instruction that an opcode and FN name (R88). -/
def candR (op fn : Nat) (r : RWord) : Option Instr :=
  match op / 32 with
  | 0 => candR0 op fn r
  | 1 => candR1 op fn r
  | 2 => candR2 op fn r
  | 3 => candR3 op fn r
  | 4 => candR4 op fn r
  | 5 => candR5 op fn r
  | 6 => candR6 op fn r
  | 7 => candR7 op fn r
  | _ => none

/-- The format-M instruction that an opcode and OP name (R88). -/
def candM (op fn : Nat) (m : MWord) : Option Instr :=
  match op with
  | 0x80 => some (.lds m (fn.testBit 5))
  | 0x81 => some (.sts m (fn.testBit 5))
  | 0x82 => some (.atoms m (AtomOp.ofCode (fn / 1 % 16)) (fn.testBit 5))
  | 0x83 => some (.ldsf m (fn.testBit 5))
  | 0x84 => some (.ldx m)
  | 0x85 => some (.stx m)
  | 0x86 => some (.atomx m (AtomOp.ofCode (fn / 1 % 16)))
  | 0x87 => some (.ldk m)
  | 0x88 => some (.stk m)
  | 0x89 => some (.tld m (fn.testBit 0))
  | 0xA0 => some (.stg m (fn.testBit 0) (fn.testBit 1))
  | 0xA1 => some (.atomg m (AtomOp.ofCode (fn / 1 % 16)) (fn.testBit 4) (fn.testBit 5))
  | 0xA2 => if fn.testBit 3 then some (.redgSh m (RedgOp.ofCode (fn % 8)))
    else some (.redg m (RedgOp.ofCode (fn % 8)) (fn.testBit 4) (fn.testBit 5))
  | 0xC6 => some (.accld m)
  | 0xC7 => some (.accst m)
  | _ => none

/-- The test of a BRA word (R125). -/
def BraTest.ofFields (b : BBody) : Option BraTest :=
  match b.kind.toNat with
  | 0 => if b.a == 0#8 && b.cond == 0#4 then some .always else none
  | 1 => if 1 ≤ b.cond.toNat ∧ b.cond.toNat ≤ 6 then some (.lane b.a (SignCond.ofCode b.cond.toNat)) else none
  | 2 => if 1 ≤ b.cond.toNat ∧ b.cond.toNat ≤ 6 then some (.unif b.a (SignCond.ofCode b.cond.toNat)) else none
  | _ => if 1 ≤ b.cond.toNat ∧ b.cond.toNat ≤ 5 then some (.mask b.a (MaskCond.ofCode b.cond.toNat)) else none

/-- KIND, A and COND of a BRA word (R125). -/
def BraTest.toFields (ofs : BitVec 32) : BraTest → BBody
  | .always => ⟨0#8, 0#4, 0#2, ofs⟩
  | .lane r cc => ⟨r, BitVec.ofNat 4 cc.code, 1#2, ofs⟩
  | .unif r cc => ⟨r, BitVec.ofNat 4 cc.code, 2#2, ofs⟩
  | .mask m cc => ⟨m, BitVec.ofNat 4 cc.code, 3#2, ofs⟩

/-- The format-B instruction that an opcode names (R125, R127, R137). -/
def candB (op : Nat) (h : Head) (b : BBody) : Option Instr :=
  match op with
  | 0x02 => (BraTest.ofFields b).map (fun t => .bra h t b.ofs)
  | 0x04 =>
    if b.cond == 0#4 && b.kind == 0#2 then some (.call h false b.a b.ofs)
    else if b.cond == 0#4 && b.kind == 1#2 then some (.call h true b.a b.ofs)
    else none
  | 0x06 => if b.a == 0#8 && b.cond == 0#4 && b.kind == 0#2 then some (.jmark h b.ofs) else none
  | 0x09 =>
    if b.kind == 0#2 && b.a == 0#8 then some (.ipf h none ⟨b.cond.toNat, b.cond.isLt⟩ b.ofs)
    else if b.kind == 1#2 then some (.ipf h (some b.a) ⟨b.cond.toNat, b.cond.isLt⟩ b.ofs)
    else none
  | _ => none

/-- Is the opcode assigned in the map of R88? -/
def assigned (op : Nat) : Bool :=
  op ≤ 0x13 || (0x20 ≤ op && op ≤ 0x3E) || (0x40 ≤ op && op ≤ 0x57) || (0x60 ≤ op && op ≤ 0x6A) ||
    (0x80 ≤ op && op ≤ 0x8C) || (0xA0 ≤ op && op ≤ 0xAE) || (0xC0 ≤ op && op ≤ 0xC8) || (0xD0 ≤ op && op ≤ 0xDF) ||
    (0xE0 ≤ op && op ≤ 0xE8)

/-- Does the opcode take format B? -/
def isFmtB (op : Nat) : Bool := op == 0x02 || op == 0x04 || op == 0x06 || op == 0x09

/-- Does the opcode take format M? -/
def isFmtM (op : Nat) : Bool :=
  (0x80 ≤ op && op ≤ 0x89) || (0xA0 ≤ op && op ≤ 0xA2) || op == 0xC6 || op == 0xC7

/-- The last checks: FN is the instruction's own, and the term is well formed (R68, R76, R79). -/
def accept (fn : Nat) (i : Instr) : Except DecodeError Instr :=
  if i.fn ≠ fn then .error .undefinedSubcode
  else if i.head?.any (fun h => !h.ok) then .error .maskNegated
  else if i.wf then .ok i
  else .error .undefinedForm

/-- Decode a word: total, and every refusal named (R86, orders 1 and 2). Any word of opcode 0x00 is ILL (R89).
(Log 87, DEDUCED.) -/
def decodeWord (w : BitVec 64) : Except DecodeError Instr :=
  let r := Raw.ofWord w
  let op := r.opcode.toNat
  if op = 0 then .ok (.ill r.head r.body)
  else if !assigned op then .error .reservedOpcode
  else if isFmtB op then
    match candB op r.head (BBody.ofBody r.body) with
    | none => .error .undefinedSubcode
    | some i => accept 0 i
  else if isFmtM op then
    let m := MBody.ofBody r.body
    if 5 ≤ m.size.toNat then .error .undefinedSubcode
    else
      match candM op m.op.toNat
          { head := r.head, ds := m.ds, base := m.base, ch := m.ch, size := Size.ofCode m.size.toNat, bk := m.bk, ofs := m.ofs } with
      | none => .error .reservedOpcode
      | some i => accept m.op.toNat i
  else if op = 0x38 then
    let k := KBody.ofBody r.body
    accept k.op.toNat (.movi { head := r.head, d := k.d, u := k.u, imm := k.imm } (MoviExt.ofCode k.op.toNat))
  else if op = 0x3E then
    let k := IBody.ofBody r.body
    accept k.op.toNat (.iaddi { head := r.head, d := k.d, a := k.a, u := k.u, imm := k.imm } (k.op.toNat.testBit 0))
  else
    let b := RBody.ofBody r.head r.body
    match candR op b.fn.toNat b.word with
    | none => .error .reservedOpcode
    | some i => if b.word.ok i.uses then accept b.fn.toNat i else .error .undefinedForm

/-- Decode the word at the front of a list of bytes, least significant byte first (R66), with the bytes after it. -/
def decodeBytes : List Byte → Except DecodeError (Instr × List Byte)
  | b0 :: b1 :: b2 :: b3 :: b4 :: b5 :: b6 :: b7 :: t =>
    match decodeWord (b7 ++ b6 ++ b5 ++ b4 ++ b3 ++ b2 ++ b1 ++ b0) with
    | .ok i => .ok (i, t)
    | .error e => .error e
  | _ => .error .notAWord

/-! ## The encoder -/

/-- U of a format-R instruction that carries no operand word (R367, R375, R424, R443). -/
def Instr.headU : Instr → Bool
  | .nop _ | .join _ | .endLanes _ => false
  | _ => true

/-- The body of an instruction's word; zero for a step that is no word. -/
def Instr.body (i : Instr) : BitVec 46 :=
  match i with
  | .ill _ b => b
  | .bra _ t ofs => (t.toFields ofs).toBody
  | .call _ u a ofs => BBody.toBody ⟨a, 0#4, if u then 1#2 else 0#2, ofs⟩
  | .jmark _ ofs => BBody.toBody ⟨0#8, 0#4, 0#2, ofs⟩
  | .ipf _ base n ofs => BBody.toBody ⟨base.getD 0#8, BitVec.ofNat 4 n.val, if base.isSome then 1#2 else 0#2, ofs⟩
  | .movi k ext => KBody.toBody ⟨k.d, k.u, BitVec.ofNat 5 ext.code, k.imm⟩
  | .iaddi w wide => IBody.toBody ⟨w.d, w.a, w.u, BitVec.ofNat 5 wide.toNat, w.imm⟩
  | _ =>
    match i.rword? with
    | some r => RBody.toBody ⟨r, BitVec.ofNat 7 i.fn⟩
    | none =>
      match i.mword? with
      | some m => MBody.toBody ⟨m.ds, m.base, m.ch, BitVec.ofNat 3 m.size.code, m.bk, BitVec.ofNat 6 i.fn, m.ofs⟩
      | none =>
        match i.head? with
        | some h => RBody.toBody ⟨⟨h, 0#8, Operand.zero, Operand.zero, Operand.zero, i.headU⟩, BitVec.ofNat 7 i.fn⟩
        | none => 0#46

/-- The word of an instruction (R67, R70, R88); none for a step that is no word. -/
def encode (i : Instr) : Option (BitVec 64) :=
  i.head?.map (fun h => Raw.toWord ⟨h, BitVec.ofNat 8 i.opcode, i.body⟩)

/-- The instruction that the decoder reads from the bits w, numbered from the least significant bit of the word
(R66); bits at or above nbits are zero. -/
def decodeTableWord (nbits w : Nat) : Option Instr :=
  match decodeWord (BitVec.ofNat 64 (w % 2 ^ nbits)) with
  | .ok i => some i
  | .error _ => none

end Sys2Proof
end

