-- ==== Sys2Proof/Machine/Bits.lean ====
section
/-! DEFINITION. Bit fields, sign extension, byte order and lane masks (R2, R9–R11). -/

namespace Sys2Proof

/-- Bits [hi:lo] of x as an unsigned integer (R11, Bits). -/
def bitsOf (x hi lo : Nat) : Nat := (x / 2 ^ lo) % 2 ^ (hi + 1 - lo)

/-- Bits [n−1:0] of x read as an n-bit two's-complement integer (R11, SignExt). -/
def signExt (x n : Nat) : Int :=
  let y := x % 2 ^ n
  if n ≠ 0 ∧ 2 ^ (n - 1) ≤ y then (y : Int) - (2 ^ n : Nat) else (y : Int)

/-- The pair whose registers hold lo and hi (R10). -/
def pairOf (lo hi : Word) : DWord := hi ++ lo

/-- Bits [31:0] of a pair. -/
def loWord (x : DWord) : Word := x.extractLsb' 0 32

/-- Bits [63:32] of a pair. -/
def hiWord (x : DWord) : Word := x.extractLsb' 32 32

/-- The mask that holds exactly the lanes of l. -/
def maskOfLanes (l : List Nat) : LaneMask :=
  l.foldl (fun m L => m ||| BitVec.ofNat 32 (2 ^ L)) 0#32

/-- The lanes of a mask, ascending. -/
def lanesOf (m : LaneMask) : List Nat := lanes.filter (fun L => m.getLsbD L)

/-- The lowest lane of a mask; 32 when it is empty. -/
def lowestLane (m : LaneMask) : Nat := (lanesOf m).headD 32

/-- The n bytes of x, least significant first (R2). -/
def bytesOf : Nat → Nat → List Byte
  | 0, _ => []
  | n + 1, x => BitVec.ofNat 8 x :: bytesOf n (x / 256)

/-- The number whose bytes are listed, least significant first (R2). -/
def ofBytes : List Byte → Nat
  | [] => 0
  | b :: t => b.toNat + 256 * ofBytes t


/-- The low w bits of an integer, as an unsigned integer (R11, Bits). -/
def intBits (x : Int) (w : Nat) : Nat := (x % (2 ^ w : Nat)).toNat

/-- A register value of a natural number. -/
def wd (x : Nat) : Word := BitVec.ofNat 32 x

/-- A register value of an integer: bits [31:0] of it in two's complement (R11). -/
def wi (x : Int) : Word := BitVec.ofNat 32 (intBits x 32)

/-- A Boolean as 0 or 1. -/
def b2n (b : Bool) : Nat := if b then 1 else 0

/-- Replace bits of old by those of val where bits is 1. -/
def mergeBits (old val bits : Word) : Word := (old &&& ~~~bits) ||| (val &&& bits)

/-- The i-th 32-bit register of a value that spans several (R10). -/
def regPart (x i : Nat) : Word := wd (x / 2 ^ (32 * i))

/-- How many of the bits of a mask are set. -/
def popCount (m : LaneMask) : Nat := (lanesOf m).length

/-- A rounding mode without .rs. -/
def Rnd4.toRnd : Rnd4 → Rnd
  | .rne => .rne
  | .rz => .rz
  | .ru => .ru
  | .rd => .rd

end Sys2Proof
end

