-- ==== Sys2Proof/Machine/Num.lean ====
section
/-! DEFINITION. Number formats, exact values, rounding and flags (R175–R190). A finite value is an exact rational with
its sign apart, so that a zero keeps its sign. -/

namespace Sys2Proof.Machine

/-- The bits of FLG (R154). -/
def flNV : Word := 0x001#32
/-- Divide by zero. -/
def flDZ : Word := 0x002#32
/-- Overflow. -/
def flOF : Word := 0x004#32
/-- Underflow. -/
def flUF : Word := 0x008#32
/-- Inexact. -/
def flNX : Word := 0x010#32
/-- Integer divide by zero. -/
def flIDZ : Word := 0x020#32
/-- Integer overflow. -/
def flIOV : Word := 0x040#32
/-- Saturation. -/
def flSAT : Word := 0x080#32
/-- Distribution weight mismatch. -/
def flDNR : Word := 0x100#32

/-- A flag that a condition sets. -/
def flIf (c : Bool) (f : Word) : Word := if c then f else 0#32

/-- An exact magnitude num / den with a sign. -/
structure Rat3 where
  neg : Bool
  num : Nat
  den : Nat
  deriving DecidableEq, Repr

/-- A value of a floating-point operand: a NaN, signalling or not, an infinity, or an exact value. -/
inductive Fp where
  | nan (signalling : Bool)
  | inf (neg : Bool)
  | fin (q : Rat3)
  deriving DecidableEq, Repr

/-- The exact value of an integer times a power of two. -/
def Rat3.scaled (neg : Bool) (m : Nat) (e : Int) : Rat3 :=
  if 0 ≤ e then ⟨neg, m * 2 ^ e.toNat, 1⟩ else ⟨neg, m, 2 ^ (-e).toNat⟩

/-- The exact value of an integer. -/
def Rat3.ofInt (x : Int) : Rat3 := ⟨x < 0, x.natAbs, 1⟩

/-- The value as a signed numerator over den. -/
def Rat3.signed (q : Rat3) : Int := if q.neg then -(q.num : Int) else q.num

/-- Is the value a zero, of either sign? -/
def Rat3.isZero (q : Rat3) : Bool := q.num == 0

/-- The exact sum; an exact zero takes the sign of both when they agree, and otherwise the sign given (R193).
(Log 105, DESIGN CHOICE.) -/
def Rat3.add (a b : Rat3) (zneg : Bool) : Rat3 :=
  let x : Int := a.signed * b.den + b.signed * a.den
  if x = 0 then ⟨if a.isZero && b.isZero && a.neg == b.neg then a.neg else zneg, 0, 1⟩
  else ⟨x < 0, x.natAbs, a.den * b.den⟩

/-- The exact product. -/
def Rat3.mul (a b : Rat3) : Rat3 := ⟨a.neg != b.neg, a.num * b.num, a.den * b.den⟩

/-- The exact quotient by a nonzero value. -/
def Rat3.div (a b : Rat3) : Rat3 := ⟨a.neg != b.neg, a.num * b.den, a.den * b.num⟩

/-- The value with its sign turned. -/
def Rat3.flip (a : Rat3) : Rat3 := { a with neg := !a.neg }

/-- The exact value times a power of two. -/
def Rat3.scale (a : Rat3) (e : Int) : Rat3 :=
  if 0 ≤ e then { a with num := a.num * 2 ^ e.toNat } else { a with den := a.den * 2 ^ (-e).toNat }

/-- Compare two exact values; zeros are equal. -/
def Rat3.cmp (a b : Rat3) : Ordering := compare (a.signed * b.den) (b.signed * a.den)

/-- floor (log2 (num / den)) of a nonzero magnitude. -/
def log2Floor (num den : Nat) : Int :=
  let e : Int := (Nat.log2 num : Int) - (Nat.log2 den : Int)
  let ge : Bool := if 0 ≤ e then den * 2 ^ e.toNat ≤ num else den ≤ num * 2 ^ (-e).toNat
  if ge then e else e - 1

/-- A number format (R175, R176, R178). -/
structure Fmt where
  w : Nat
  e : Nat
  bias : Int
  sgn : Bool
  /-- 0 IEEE-like, 1 finite with NaN at the all-ones magnitude, 2 finite only. -/
  spec : Nat
  keep : Bool
  /-- The format has signalling NaNs (R183). -/
  signalling : Bool
  deriving DecidableEq, Repr

/-- Mantissa bits. -/
def Fmt.m (f : Fmt) : Nat := f.w - f.e - b2n f.sgn

/-- FP32; under FTZ it flushes (R188). -/
def fmtF32 (ftz : Bool) : Fmt := ⟨32, 8, 127, true, 0, !ftz, true⟩
/-- FP16. -/
def fmtF16 : Fmt := ⟨16, 5, 15, true, 0, true, true⟩
/-- BF16. -/
def fmtBf16 : Fmt := ⟨16, 8, 127, true, 0, true, true⟩
/-- OCP E4M3 (R179). -/
def fmtE4m3 : Fmt := ⟨8, 4, 7, true, 1, true, false⟩
/-- OCP E5M2 (R179, R183). -/
def fmtE5m2 : Fmt := ⟨8, 5, 15, true, 0, true, true⟩

/-- The format that a format register describes (R176). -/
def fmtOfReg (r : Word) : Fmt :=
  let x := r.toNat
  ⟨bitsOf x 3 0, bitsOf x 6 4, signExt (x / 2 ^ 8) 8, x.testBit 7, bitsOf x 17 16, x.testBit 18, false⟩

/-- Is a format register valid (R177)? -/
def fmtValid (r : Word) : Bool :=
  let f := fmtOfReg r
  r.toNat < 2 ^ 19 && 1 ≤ f.w && f.w ≤ 8 && f.e + b2n f.sgn ≤ f.w && f.spec != 3 &&
    (f.spec != 0 || (2 ≤ f.e && 1 ≤ f.m)) && (f.spec != 1 || 1 ≤ f.e) && (f.e != 0 || f.spec == 2)

/-- The value of a code (R175, R178). -/
def Fmt.value (f : Fmt) (code : Nat) : Fp :=
  let c := code % 2 ^ f.w
  if f.e = 0 then
    let x : Int := if f.sgn then signExt c f.w else c
    .fin (Rat3.scaled (x < 0) x.natAbs (-f.bias))
  else
    let s := f.sgn && c.testBit (f.w - 1)
    let ex := c / 2 ^ f.m % 2 ^ f.e
    let fr := c % 2 ^ f.m
    if ex = 0 then
      if f.keep then .fin (Rat3.scaled s fr (1 - f.bias - f.m)) else .fin ⟨s, 0, 1⟩
    else if f.spec = 0 ∧ ex = 2 ^ f.e - 1 then
      if fr = 0 then .inf s else .nan (f.signalling && !fr.testBit (f.m - 1))
    else if f.spec = 1 ∧ c % 2 ^ (f.m + f.e) = 2 ^ (f.m + f.e) - 1 then .nan false
    else .fin (Rat3.scaled s (2 ^ f.m + fr) ((ex : Int) - f.bias - f.m))

/-- The canonical NaN (R183); 0 in a format that has none. -/
def Fmt.nanCode (f : Fmt) : Nat :=
  match f.spec with
  | 0 => (2 ^ f.e - 1) * 2 ^ f.m + 2 ^ (f.m - 1)
  | 1 => 2 ^ (f.m + f.e) - 1
  | _ => 0

/-- The code of the largest finite magnitude M, sign apart (R178). -/
def Fmt.maxCode (f : Fmt) : Nat :=
  if f.e = 0 then 2 ^ f.m - 1
  else
    match f.spec with
    | 0 => (2 ^ f.e - 1) * 2 ^ f.m - 1
    | 1 => 2 ^ (f.m + f.e) - 2
    | _ => 2 ^ (f.m + f.e) - 1

/-- The largest finite magnitude M. -/
def Fmt.maxMag (f : Fmt) : Rat3 :=
  match f.value f.maxCode with
  | .fin q => q
  | _ => ⟨false, 0, 1⟩

/-- Put the sign on a magnitude code; an unsigned format drops it. -/
def Fmt.signed (f : Fmt) (neg : Bool) (mag : Nat) : Nat :=
  if neg && f.sgn then 2 ^ (f.w - 1) + mag else mag

/-- The end of the range on one side (R178, R187): N on the negative side of a signed integer format. -/
def Fmt.limit (f : Fmt) (neg : Bool) : Nat :=
  if f.e = 0 && f.sgn && neg then 2 ^ (f.w - 1) else f.signed neg f.maxCode

/-- Round a magnitude given as a whole number t of steps with the remainder rem / den of a step (R184, R185).
(Log 103, DESIGN CHOICE.) -/
def roundUp (mode : Rnd) (rand : Nat) (neg : Bool) (t rem den : Nat) : Nat :=
  if rem = 0 then t
  else
    match mode with
    | .rne => if den < 2 * rem || (2 * rem == den && t % 2 == 1) then t + 1 else t
    | .rz => t
    | .ru => if neg then t else t + 1
    | .rd => if neg then t + 1 else t
    | .rs => if 2 ^ 16 ≤ 2 ^ 16 * rem / den + rand then t + 1 else t

/-- Does the mode deliver an infinity where a finite value overflows (R186)? -/
def overflowsToInf (mode : Rnd) (neg : Bool) : Bool :=
  match mode with
  | .rne | .rs => true
  | .rz => false
  | .ru => !neg
  | .rd => neg

/-- A result that is an infinity before R187, in a format that may have none.
(Log 104, DESIGN CHOICE.) -/
def Fmt.infinity (f : Fmt) (neg sat : Bool) : Nat × Word :=
  if neg && !f.sgn then (0, if sat then flSAT else flNV)
  else if sat then (f.limit neg, flSAT)
  else
    match f.spec with
    | 0 => (f.signed neg ((2 ^ f.e - 1) * 2 ^ f.m), 0#32)
    | 1 => (f.nanCode, flNV)
    | _ => (f.limit neg, flNV)

/-- A finite value that rounds beyond the range (R186, R187).
(Log 14, DEDUCED.)
(Log 128, DESIGN CHOICE.) -/
def Fmt.overflow (f : Fmt) (mode : Rnd) (neg sat : Bool) : Nat × Word :=
  if sat then (f.limit neg, flSAT ||| flNX)
  else if overflowsToInf mode neg then
    match f.spec with
    | 0 => (f.signed neg ((2 ^ f.e - 1) * 2 ^ f.m), flOF ||| flNX)
    | 1 => (f.nanCode, flOF ||| flNX)
    | _ => (f.limit neg, flOF ||| flNX)
  else (f.limit neg, flOF ||| flNX)

/-- Round a finite value into a format with exponent bits. -/
def Fmt.roundFloat (f : Fmt) (mode : Rnd) (sat : Bool) (rand : Nat) (q : Rat3) : Nat × Word :=
  if q.num = 0 then (f.signed q.neg 0, 0#32)
  else
    let emin : Int := 1 - f.bias
    let ex := log2Floor q.num q.den
    let tiny := ex < emin
    let ue := max ex emin - f.m
    let n := if 0 ≤ ue then q.num else q.num * 2 ^ (-ue).toNat
    let d := if 0 ≤ ue then q.den * 2 ^ ue.toNat else q.den
    let t := roundUp mode rand q.neg (n / d) (n % d) d
    let nx := n % d != 0
    if tiny && !f.keep then (f.signed q.neg 0, flUF ||| flNX)
    else if q.neg && !f.sgn && t != 0 then (0, if sat then flSAT else flNV)
    else if (Rat3.scaled false t ue).cmp f.maxMag == .gt then f.overflow mode q.neg sat
    else
      let code :=
        if t < 2 ^ f.m then t
        else if t = 2 ^ (f.m + 1) then (ue + f.m + 1 + f.bias).toNat * 2 ^ f.m
        else (ue + f.m + f.bias).toNat * 2 ^ f.m + (t - 2 ^ f.m)
      (f.signed (q.neg && (f.sgn || t != 0)) code, flIf nx flNX ||| flIf (tiny && nx) flUF)

/-- Round a finite value to a whole number in a mode: the integer and whether it differs. -/
def roundInt (mode : Rnd) (rand : Nat) (q : Rat3) : Int × Bool :=
  let t := roundUp mode rand q.neg (q.num / q.den) (q.num % q.den) q.den
  (if q.neg then -(t : Int) else t, q.num % q.den != 0)

/-- Round a finite value into an integer format of a format register (e = 0). -/
def Fmt.roundFixed (f : Fmt) (mode : Rnd) (sat : Bool) (rand : Nat) (q : Rat3) : Nat × Word :=
  let r := roundInt mode rand (q.scale f.bias)
  let lo : Int := if f.sgn then -(2 ^ (f.w - 1) : Nat) else 0
  let hi : Int := f.maxCode
  if !f.sgn && r.1 < 0 then (0, if sat then flSAT else flNV)
  else if r.1 < lo || hi < r.1 then f.overflow mode q.neg sat
  else (intBits r.1 f.w, flIf r.2 flNX)

/-- Round an exact value into a format (R11 Round, R184–R187): the code and the flags.
(Log 15, DEDUCED.) -/
def Fmt.round (f : Fmt) (mode : Rnd) (sat : Bool) (rand : Nat) (x : Fp) : Nat × Word :=
  match x with
  | .nan _ => if f.spec = 2 then (0, flNV) else (f.nanCode, 0#32)
  | .inf neg => f.infinity neg sat
  | .fin q => if f.e = 0 then f.roundFixed mode sat rand q else f.roundFloat mode sat rand q

/-- Round into a whole-number type from lo to hi in steps of 2^−sh: .i32, .n32 and .x64 (R187). -/
def roundWhole (lo hi : Int) (w sh : Nat) (mode : Rnd) (sat : Bool) (rand : Nat) (x : Fp) : Nat × Word :=
  match x with
  | .nan _ => (0, flNV)
  | .inf neg => (intBits (if neg then lo else hi) w, if sat then flSAT else flNV)
  | .fin q =>
    let r := roundInt mode rand (q.scale sh)
    if r.1 < lo then (intBits lo w, if sat then flSAT else flNV)
    else if hi < r.1 then (intBits hi w, if sat then flSAT else flNV)
    else (intBits r.1 w, flIf r.2 flNX)

/-! ## Arithmetic with the rules for NaNs and infinities (R189, R193) -/

/-- Is the value a NaN? -/
def Fp.isNan : Fp → Bool
  | .nan _ => true
  | _ => false

/-- Is the value a signalling NaN? -/
def Fp.isSnan : Fp → Bool
  | .nan s => s
  | _ => false

/-- Is the value an infinity? -/
def Fp.isInf : Fp → Bool
  | .inf _ => true
  | _ => false

/-- The value is zero. -/
def Fp.isZero : Fp → Bool
  | .fin q => q.isZero
  | _ => false

/-- The sign of a value; a NaN has none. -/
def Fp.sign : Fp → Bool
  | .fin q => q.neg
  | .inf n => n
  | _ => false

/-- −x. -/
def Fp.flip : Fp → Fp
  | .fin q => .fin q.flip
  | .inf n => .inf (!n)
  | x => x

/-- NV where a source is a signalling NaN. -/
def snanFlag (xs : List Fp) : Word := flIf (xs.any Fp.isSnan) flNV

/-- Exact(a + b), with NV for ∞ − ∞; rd gives the sign of an exact zero. -/
def Fp.add (rd : Bool) (a b : Fp) : Fp × Word :=
  let fl := snanFlag [a, b]
  match a, b with
  | .nan _, _ => (.nan false, fl)
  | _, .nan _ => (.nan false, fl)
  | .inf x, .inf y => if x = y then (.inf x, fl) else (.nan false, fl ||| flNV)
  | .inf x, _ => (.inf x, fl)
  | _, .inf y => (.inf y, fl)
  | .fin x, .fin y => (.fin (x.add y rd), fl)

/-- Exact(a × b), with NV for 0 × ∞. -/
def Fp.mul (a b : Fp) : Fp × Word :=
  let fl := snanFlag [a, b]
  if a.isNan || b.isNan then (.nan false, fl)
  else if (a.isInf && b.isZero) || (a.isZero && b.isInf) then (.nan false, fl ||| flNV)
  else
    match a, b with
    | .fin x, .fin y => (.fin (x.mul y), fl)
    | _, _ => (.inf (a.sign != b.sign), fl)

/-- Exact(a × b + c): 0 × ∞ + c sets NV for any c (R189). -/
def Fp.fma (rd : Bool) (a b c : Fp) : Fp × Word :=
  let fl := snanFlag [a, b, c]
  if (a.isInf && b.isZero) || (a.isZero && b.isInf) then (.nan false, fl ||| flNV)
  else
    let p := a.mul b
    let r := p.1.add rd c
    (r.1, fl ||| r.2)

/-- Exact(a / b) (R189, R200, R220). -/
def Fp.div (a b : Fp) : Fp × Word :=
  let fl := snanFlag [a, b]
  let neg := a.sign != b.sign
  if a.isNan || b.isNan then (.nan false, fl)
  else
    match a, b with
    | .inf _, .inf _ => (.nan false, fl ||| flNV)
    | .inf _, _ => (.inf neg, fl)
    | _, .inf _ => (.fin ⟨neg, 0, 1⟩, fl)
    | .fin x, .fin y =>
      if y.isZero then (if x.isZero then (.nan false, fl ||| flNV) else (.inf neg, fl ||| flDZ))
      else (.fin (x.div y), fl)
    | _, _ => (.nan false, fl)

/-- The integer square root, by 1-bit steps from the top: fuel steps. -/
def isqrtGo : Nat → Nat → Nat → Nat
  | 0, _, r => r
  | k + 1, n, r =>
    let t := r + 2 ^ k
    if t * t ≤ n then isqrtGo k n t else isqrtGo k n r

/-- floor (√n). -/
def isqrt (n : Nat) : Nat := isqrtGo (Nat.log2 n / 2 + 1) n 0

/-- A value that stands for the square root of a positive magnitude in every rounding to at most 64 bits: the root
itself when it is rational with the scaled denominator, and otherwise the middle of an interval of 2^−80 of it. -/
def sqrtQ (q : Rat3) : Rat3 :=
  let k := 96 + Nat.log2 q.den
  let n := q.num * q.den * 4 ^ k
  let r := isqrt n
  if r * r = n then ⟨false, r, q.den * 2 ^ k⟩ else ⟨false, 2 * r + 1, 2 * q.den * 2 ^ k⟩

/-- √x (R200). -/
def Fp.sqrt (a : Fp) : Fp × Word :=
  match a with
  | .nan s => (.nan false, flIf s flNV)
  | .inf neg => if neg then (.nan false, flNV) else (.inf false, 0#32)
  | .fin q => if q.isZero then (.fin q, 0#32) else if q.neg then (.nan false, flNV) else (.fin (sqrtQ q), 0#32)

/-- Order of two values that are not NaN; −0 equals +0. -/
def Fp.cmp (a b : Fp) : Ordering :=
  match a, b with
  | .fin x, .fin y => x.cmp y
  | .inf x, .inf y => if x = y then .eq else if x then .lt else .gt
  | .inf x, _ => if x then .lt else .gt
  | _, .inf y => if y then .gt else .lt
  | _, _ => .eq

/-- Strictly below, with −0 below +0 (R194). -/
def Fp.below (a b : Fp) : Bool :=
  match a.cmp b with
  | .lt => true
  | .gt => false
  | .eq => a.isZero && a.sign && !b.sign

/-- FMIN and FMAX (R194): true chooses the first source. None where the result is the canonical NaN. -/
def minMaxPick (max nan : Bool) (a b : Fp) : Option Bool :=
  if a.isNan && b.isNan then none
  else if a.isNan then (if nan then none else some false)
  else if b.isNan then (if nan then none else some true)
  else if max then some (!(a.below b)) else some (!(b.below a))

/-- FP32 of a code, flushed (R188). -/
def f32 (ftz : Bool) (x : Word) : Fp := (fmtF32 ftz).value x.toNat

/-- Round to FP32. -/
def toF32 (ftz : Bool) (mode : Rnd) (sat : Bool) (rand : Nat) (x : Fp) : Word × Word :=
  let r := (fmtF32 ftz).round mode sat rand x
  (wd r.1, r.2)

/-- The canonical NaN of FP32. -/
def nan32 : Word := 0x7FC00000#32

/-- RNE to FP32 of an operation that has set flags. -/
def rne32 (ftz : Bool) (p : Fp × Word) : Word × Word :=
  let r := toF32 ftz .rne false 0 p.1
  (r.1, p.2 ||| r.2)

/-- FP32 add, RNE, of two codes (R213, R217). -/
def addF32 (ftz : Bool) (x y : Word) : Word × Word := rne32 ftz ((f32 ftz x).add false (f32 ftz y))

/-- An integer as an operand of a floating-point word (R72). -/
def Fp.ofInt (x : Int) : Fp := .fin (Rat3.ofInt x)

end Sys2Proof.Machine
end

