-- ==== Sys2Proof/Config.lean ====
section
/-! DEFINITION. What the package fixes (its counts and sizes) and the free values: constants with no body, which no
proof can evaluate (R7: where the device may do something, the outcomes listed are the only ones). -/

namespace Sys2Proof.Config

/-- Compute dies of a package (R12). -/
def dies : Nat := 8
/-- Cores of a compute die (R16). -/
def coresPerDie : Nat := 160
/-- Slices of a compute die (R16). -/
def slicesPerDie : Nat := 32
/-- Landing entries of a slice (R21). -/
def entriesPerSlice : Nat := 512
/-- Bytes of bonded memory of a die (R16). -/
def bondedBytes : Nat := 24 * 2 ^ 30
/-- Bytes of outer memory of a die (R16). -/
def outerBytes : Nat := 128 * 2 ^ 30
/-- Cycles in one microsecond (R5). -/
def cyclesPerUs : Nat := 800
/-- The bound of an address (R81, R415). -/
def addrLimit : Nat := 2 ^ 52
/-- Items of a core's item queue (R131). -/
def itemQueue : Nat := 1024
/-- Fill buffers of a core (R135). -/
def fillBuffers : Nat := 16
/-- Entries of a bay's operand queue (R370). -/
def operandQueue : Nat := 8
/-- Entries of a core's stream table (R296). -/
def streamTable : Nat := 256
/-- Entries of a die's resequencing table (R295). -/
def resequencing : Nat := 8192
/-- Packets outstanding on a stream (R294). -/
def window : Nat := 64
/-- Packets of a core's hold buffer (R308). -/
def holdBuffer : Nat := 256
/-- Parked entries of a core (R322). -/
def parkedEntries : Nat := 32
/-- Event counters of a die and exchange windows of the collective die (R50). -/
def eventCounters : Nat := 4096
/-- Resident contexts (R39). -/
def residentContexts : Nat := 16
/-- Lines of the shadow area of a slice (R21: 128 KiB of 128-byte lines). -/
def shadowLines : Nat := 1024

/-- A free bit: the choice numbered key of the event numbered stamp. No body: nothing is known of it.
(Log 3, DESIGN CHOICE.) -/
opaque freeBit : Nat → Nat → Bool

/-- A free number, of the choice numbered key of the event numbered stamp. -/
opaque freeNat : Nat → Nat → Nat

/-- Which value within its bound a special function gives for source bits: an offset that the rule then confines
(R201, R239). The first argument names the function.
(Log 4, DESIGN CHOICE.) -/
opaque specialPick : Nat → Nat → Nat

/-- The private state of the device key (R465), of which tree 0 is the upper and tree 1 + j the lower one that leaf j of it signs: the
start of a chain of a leaf's one-time key, by tree, leaf and chain. -/
opaque deviceSecret : Nat → Nat → Nat → BitVec 256
/-- The identifier of a tree of the device key. -/
opaque deviceIdent : Nat → BitVec 128
/-- The randomizer with which a leaf of a tree of the device key signs. -/
opaque deviceRandom : Nat → Nat → BitVec 256

/-- The device key index count after which attestation is refused (R465: two levels of H20). -/
def hssIndices : Nat := 2 ^ 40

/-- The fixed hash of physical address bits [22:9] that spreads bonded lines over the slices (R19), as a function of bits
[22:14]. -/
opaque sliceHash : Nat → Nat

/-- Which set of its slice's line cache holds a line (R21, R22): the spec does not say. -/
opaque lineSet : Nat → Nat

/-- SHA-256 of the running Milov image and its security version (R466). -/
opaque milovHash : BitVec 256
/-- The signature of the Milov image (R462, R485). -/
opaque milovSignature : List Byte
/-- The security version of the Milov image (R466). -/
opaque milovVersion : BitVec 16

end Sys2Proof.Config
end

