-- ==== Sys2Proof/Machine/State.lean ====
section
/-! DEFINITION. The state of one package (R12–R24), with everything the spec gives the machine, as plain data. Other
packages and the host are outside: what they send comes in as an argument of an event, and what leaves for them is
held in lists. -/

namespace Sys2Proof.Machine

/-! ## Courses (R34, R46, R106–R157) -/

/-- A lane register in one lane: its value, its empty bit and its poison bit (R114, R150). -/
structure Cell where
  val : Word := 0#32
  empty : Bool := false
  poison : Bool := false
  deriving DecidableEq, Repr

/-- A uniform register: its value and its empty bit (R114). -/
structure SCell where
  val : Word := 0#32
  empty : Bool := false
  deriving DecidableEq, Repr

/-- A distribution register in one lane (R226, R228). -/
structure DCell where
  x : List Word := List.replicate 8 0#32
  w : List Nat := List.replicate 8 0
  tag : Nat := 0
  mis : Bool := false
  cnd : Bool := false
  empty : Bool := false
  poison : Bool := false
  deriving DecidableEq, Repr

/-- A register of a course, or of the handler bank when sup holds (R78): a lane register or a uniform register. -/
structure RegId where
  sup : Bool
  lane : Bool
  n : Nat
  deriving DecidableEq, Repr

/-- What a fixed-ALU word writes (R112): the bits of a lane register or of a uniform register, the bits of a mask
register, or flags. -/
inductive AluDst where
  | lane (sup : Bool) (n L : Nat) (val bits : Word)
  | unif (sup : Bool) (n : Nat) (val bits : Word)
  | mask (n : Nat) (val bits : Word)
  | flags (f : Word)
  deriving DecidableEq, Repr

/-- A fixed-ALU result on its way, with the cycle in which its word issued (R112). -/
structure AluWrite where
  issued : Nat
  dst : AluDst
  deriving DecidableEq, Repr

/-- A value that lands in a lane register, a uniform register or a distribution register (R114, R228). -/
inductive Landing where
  | lane (sup : Bool) (n L : Nat) (val : Word) (poison : Bool)
  | unif (sup : Bool) (n : Nat) (val : Word)
  | dist (n L : Nat) (val : DCell)
  deriving DecidableEq, Repr

/-- The local memories (R249, R250, R252, R253). The number is the team whose block is meant, or the grid and the die
of a scratchpad; a spill area is reached in main memory. -/
inductive Space where
  | shared (team : Nat)
  | scratch (grid die : Nat)
  | spill (base : Nat)
  deriving DecidableEq, Repr

/-- One lane's part of a local access: its lane, its offset in the space and its operands (R258, R260). -/
structure LaneAccess where
  lane : Nat
  at_ : Nat
  x1 : Nat
  x2 : Nat
  deriving DecidableEq, Repr

/-- A local access that has issued and not yet been performed (R258–R260). -/
inductive LocalOp where
  | load (sup : Bool) (d n : Nat)
  | store (n : Nat)
  | atom (sup : Bool) (d n : Nat) (op : AtomOp) (ftz : Bool)
  | fragment (sup : Bool) (d : Nat)
  deriving DecidableEq, Repr

/-- The trap record (R441). -/
structure TrapRec where
  code : Nat
  sub : Nat := 0
  after : Bool := false
  defer : Bool := false
  lane : Option Nat := none
  pc : Nat := 0
  addr : Nat := 0
  info : Nat := 0
  mask : LaneMask := 0#32
  resume : Nat := 0
  aux : Nat := 0
  /-- The word was issued in supervisor mode (R438, step 1). -/
  inSup : Bool := false
  deriving DecidableEq, Repr

/-- A further trap of a course, not yet taken (R437): the slot that takes it, where 2 stands for either; the REDEEM refused,
by the number of its pending word, or 0 for a trap of the word before; and the trap. -/
structure Further where
  slot : Nat
  no : Nat
  trap : TrapRec
  deriving DecidableEq, Repr

/-- What an XRECV does with its window (R410): cfg has the descriptor of R404 and the grid's counters. -/
inductive WindowAct where
  | claim (n : Nat)
  | free (n : Nat)
  | cfg (base n z counter events : Nat)
  | stat
  deriving DecidableEq, Repr

/-- How the value of a pending word comes about: it was computed at issue; or the word waits for its local access; or
for an event of another part of the package (R114, R450). -/
inductive PendKind where
  | values (ls : List Landing)
  | access (sp : Space) (op : LocalOp) (as : List LaneAccess)
  | remote
  /-- TQRY reads the entry of a ticket when its answer lands (R284). -/
  | query (d ticket : Nat) (sup : Bool)
  /-- PGPROT sets the permissions of a page as its status lands (R426). -/
  | perm (va perm d : Nat) (sup : Bool)
  /-- XRECV acts on its window as its answer lands: the operation counted, and the destination. -/
  | window (w : Nat) (act : WindowAct) (count d : Nat) (sup : Bool)
  deriving DecidableEq, Repr

/-- The units whose results land in issue order, one for each bay (R174, R205, R225), and the others. -/
inductive PendUnit where
  | special | crossbar | dist | localMem | other
  deriving DecidableEq, Repr

/-- A variable-latency word whose result has not landed (R114). -/
structure Pend where
  id : Nat
  unit : PendUnit
  kind : PendKind
  /-- The registers that it fills, marked empty at issue; lanes by mask, a uniform register with an empty mask. -/
  fills : List (RegId × LaneMask)
  /-- The flags that it ORs into FLG (R190), and those that it can set (R157). -/
  flags : Word
  may : Word
  pc : Nat
  slot : Nat
  act : LaneMask
  sup : Bool
  /-- The course has left the supervisor mode in which the word issued: its registers are gone. -/
  orphan : Bool := false
  /-- The number of the event in which the word issued. -/
  turn : Nat := 0
  deriving DecidableEq, Repr

/-- A ticket read that has issued: what TLD hands to the coalescer (R273). -/
structure TldReq where
  crs : Nat
  team : Nat
  pend : Nat
  ch : Nat
  n : Nat
  /-- The lanes with their virtual and physical addresses and homes. -/
  lanes : List (Nat × Nat × Nat × Dest)
  die : Nat
  slice : Nat
  refusals : Nat
  /-- The position among the requests with priority, gained after 8 refusals (R277). -/
  prio : Option Nat
  /-- The operation number of its reads, and the team's acquire time when it issued (R329). -/
  op : Nat
  acq : Nat
  /-- Lanes whose reads were refused before they were sent: their bytes land poisoned (R287, R312). -/
  dead : List Nat := []
  deriving DecidableEq, Repr

/-- What a slot waits for (R108). -/
inductive Wait where
  | none
  /-- Its next word is being fetched (R135). -/
  | fetch
  /-- JOIN has freed it (R128): it is to be refilled (R122). -/
  | refill
  | bwait (b phase : Nat)
  | waitc (path : EnginePath) (x : Nat)
  | clbar (phase : Nat)
  | evwait (k x : Nat)
  /-- CDRAIN: the channels, the team's operation count at issue, .sc, and whether it waits for merges (R310). -/
  | cdrain (chans upto : Nat) (sc merges : Bool)
  | creset (ch upto : Nat)
  | dbar (b phase : Nat)
  | quota (req : TldReq) (d : Nat)
  /-- REDEEM.sh waits for the slice's verdict on a request (R281). -/
  | verdict (req : Nat)
  | vacq (blocks turn : Nat)
  /-- A fixed-ALU word that set an enabled flag: the ARITH trap follows its results (R156). -/
  | arith (due : Nat) (t : TrapRec)
  /-- A trap has been raised and not yet taken (R438). -/
  | trap (t : TrapRec) (turn : Nat)
  /-- An escalated trap waits for the host-assisted path, which serves it or declines (R423, R446). -/
  | escalated (t : TrapRec) (answer : Option Bool)
  deriving DecidableEq, Repr

/-- A program-counter slot (R107, R108). -/
structure Slot where
  pc : Nat := 0
  mask : LaneMask := 0#32
  wait : Wait := .none
  /-- Active() of the word at which the slot waits. -/
  act : LaneMask := 0#32
  lastIssue : Option Nat := .none
  /-- Since when the slot has been eligible and unissued (R109). -/
  eligibleSince : Option Nat := .none
  urgent : Bool := false
  /-- The slot is yielding before this cycle (R109). -/
  yieldUntil : Nat := 0
  /-- The slot's next word issues no earlier than this cycle: the target of a taken branch (R135). -/
  notBefore : Nat := 0
  /-- The slot's next word could not issue in this cycle (R108). -/
  stalled : Bool := false
  /-- It could not because no entry of the stream table is free for a stream that it opens (R296). -/
  wantsEntry : Bool := false
  deriving DecidableEq, Repr

/-- A rejoin entry (R120). -/
structure Rejoin where
  l : Nat
  f : LaneMask
  a : LaneMask
  deriving DecidableEq, Repr

/-- An operation counted on an engine path (R338). -/
structure Counted where
  id : Nat
  done : Bool
  /-- The queue entries of a batch that have not finished (R385). -/
  left : List Nat := []
  deriving DecidableEq, Repr

/-- The four engine counters of a course, each the list of its operations not yet retired, oldest first (R337). -/
structure Engines where
  copy : List Counted := []
  mat : List Counted := []
  coll : List Counted := []
  xch : List Counted := []
  deriving DecidableEq, Repr

/-- Supervisor mode: the record, the slot that trapped and its mask, and the handler bank (R438, R439). -/
structure Sup where
  trap : TrapRec
  slot : Nat
  slotMask : LaneMask
  hv : Tab Cell
  hs : Tab SCell
  deriving DecidableEq, Repr

/-- What a passed BWAIT or CLBAR orders before a course's later accesses of shared memory: those that another course
issued before its pending word upto, of one team's block after BWAIT and of any member's after CLBAR; and the number of the
event of the passing (R335). -/
structure Fence where
  crs : Nat
  upto : Nat
  team : Option Nat
  turn : Nat
  deriving DecidableEq, Repr

/-- A course (R34, R141). -/
structure Course where
  team : Nat
  idx : Nat
  core : Nat
  bay : Nat
  place : Nat
  slot0 : Slot
  slot1 : Slot
  /-- The lanes that have not retired. -/
  live : LaneMask
  /-- The hardware entries of the rejoin stack, most recent first (R120). -/
  rejoin : List Rejoin := []
  /-- Path entries and rejoin entries in the control region (R121). -/
  pathCount : Nat := 0
  rejoinCount : Nat := 0
  /-- Of a path entry, by its number, that begins past the last word: Active() of the word that pushed it (R140). -/
  pastEnd : Tab LaneMask := []
  /-- The frames of the spill area, if the launch record gives it one (R253). -/
  spill : List Nat := []
  v : Tab Cell := []
  s : Tab SCell := []
  m : Tab Word := []
  fm : Tab Word := []
  d : Tab DCell := []
  tagCtr : Nat := 1
  flg : Word := 0#32
  ctl : Word := 0#32
  /-- The extended blocks held, a mask of 4 bits (R142). -/
  blocks : Nat := 0
  alu : List AluWrite := []
  pend : List Pend := []
  nextPend : Nat := 0
  /-- Deferred refusals of REDEEM and other further traps not yet taken, in issue order (R279, R437). -/
  refusals : List Further := []
  eng : Engines := {}
  nextOp : Nat := 0
  /-- The course's open accumulator words (R385): queue entries not yet in a batch. -/
  openAcc : List Nat := []
  /-- Matrix entries (R380) and copies (R351) in flight that can set flags, with those flags (R157). -/
  holds : List (Nat × Word) := []
  sup : Option Sup := none
  /-- The slot that was saved in supervisor mode and has not entered the handler again (R453). -/
  reenter : Option Nat := none
  /-- The first cycle in which the course may issue again (R67, R108). -/
  nextIssue : Nat := 0
  /-- CLBAR arrivals (R367). -/
  clArrivals : Nat := 0
  /-- For a phase at which the course arrived: the number of its next pending word then (R335). -/
  clMarks : List (Nat × Nat) := []
  /-- The accesses that its later ones follow, by the barriers it has passed (R335). -/
  fences : List Fence := []
  deriving DecidableEq, Repr

/-! ## Channels and streams (R291–R323) -/

/-- A packet at its source with the team's operation number, and when it was sent, if it was. -/
structure OutPacket where
  pkt : Packet
  op : Nat
  sentAt : Option Nat := none
  /-- A refused opening packet is sent again at this cycle (R296). -/
  retryAt : Option Nat := none
  /-- Refused with MOVED and to be reissued (R320). -/
  moved : Bool := false
  /-- What an ATOMG fills: its course, the pending word and the first register. -/
  atomg : Option (Nat × Nat × Nat) := none
  /-- The packet is complete and may be sent; a read waits for its landing entry, a copy's write for its bytes. -/
  ready : Bool := true
  /-- It merges a shadow copy (R304). -/
  merge : Bool := false
  /-- The copy and the transfer operation whose write it is. -/
  copy : Option (Nat × Nat) := none
  /-- The request of the TLD whose read it is. -/
  req : Option Nat := none
  /-- It is the word's first packet for its destination; the counter of a .ntf word; and the destinations that the word
  notifies (R305). -/
  first : Bool := false
  counter : Option Nat := none
  told : List Dest := []
  deriving DecidableEq, Repr

/-- The source end of a stream (R294, R318). -/
structure Stream where
  dest : Dest
  /-- It has an entry of the stream table (R296). -/
  opened : Bool := false
  gen : Nat := 0
  nextSeq : Nat := 0
  pkts : List OutPacket := []
  /-- The handshake of R318: how many RESYNCs were sent, and when the last was. -/
  resync : Option (Nat × Nat) := none
  idleSince : Nat := 0
  /-- The next packet carries the re-home flag (R323). -/
  rehome : Bool := false
  /-- The cores whose parked entries forward to it until then (R322, R492). -/
  old : List Nat := []
  deriving DecidableEq, Repr

/-- A rule that holds later packets of a channel: those with an operation number above seq wait for every operation
below seq on the channels of the mask (R308, R309). -/
structure Gate where
  seq : Nat
  mask : Nat
  deriving DecidableEq, Repr

/-- The lanes of an operation's reads at one destination that have neither landed nor been refused (R276). -/
structure ReadOut where
  op : Nat
  dest : Dest
  left : Nat
  reader : Reader
  /-- When it was issued, by the event counter stamp. -/
  since : Nat
  deriving DecidableEq, Repr

/-- A channel (R308–R320). -/
structure Chan where
  cause : Nat := 0
  addr : Nat := 0
  brokenAt : Option Dest := none
  lastDest : Option Dest := none
  resetting : Bool := false
  /-- A course of the team has been trapped on the break (R313). -/
  trapped : Bool := false
  paused : Bool := false
  streams : List Stream := []
  gates : List Gate := []
  reads : List ReadOut := []
  /-- When an operation to a destination was last acknowledged or refused, or its bytes last landed (R328), by the event
  counter stamp. -/
  doneAt : List (Dest × Nat) := []
  deriving DecidableEq, Repr

/-- A shadow copy of one 128-byte line (R303): per element its offset, size, operation and partial result; the channel
and operation of the REDG.sh that first touched it; when it was last touched. -/
structure ShadowElem where
  ofs : Nat
  size : Nat
  op : RedgOp
  value : Nat
  va : Nat
  ch : Nat
  deriving DecidableEq, Repr

/-- A shadow copy. -/
structure Shadow where
  dest : Dest
  line : Nat
  slice : Nat
  die : Nat
  elems : List ShadowElem
  touched : Nat
  poisoned : Bool
  deriving DecidableEq, Repr

/-! ## Copies (R349–R362) and barriers (R363) -/

/-- A barrier register (R363), with what its arrivals order (R335): a phase, a course that arrived in it, and the number of
that course's next pending word then. -/
structure Barrier where
  phase : Nat := 0
  exp : Nat := 0
  pend : Nat := 0
  marks : List (Nat × Nat × Nat) := []
  deriving DecidableEq, Repr

/-- One side of a copy: main memory at a virtual address with its home, or a local space at an offset. -/
inductive Side where
  | main (va pa : Nat) (dest : Dest)
  | here (sp : Space) (ofs : Nat)
  deriving DecidableEq, Repr

/-- One lane's bytes of a CPY (R353). -/
structure CopyLane where
  lane : Nat
  src : Side
  dst : Side
  deriving DecidableEq, Repr

/-- The latched descriptor and command of a TCPY (R354, R355). -/
structure TcpyDesc where
  g : Nat
  o : Nat
  p : Nat
  cols : Nat
  rows : Nat
  q : Nat
  sofs : Int
  form : Nat
  sat : Bool
  rnd : Rnd4
  store : Bool
  sp : Space
  deriving DecidableEq, Repr

/-- What a transfer operation copies: lanes of a CPY, or bytes at_ to at_ + len − 1 of the main-memory side of a row of
a TCPY. reads numbers the elements that it reads from main memory; got has them once they have come, and then its 16-byte elements
are performed one after another: the numbers of those still to be performed are in left, and the lanes still to be copied in
lanes. -/
structure XferOp where
  lanes : List CopyLane := []
  row : Nat := 0
  at_ : Nat := 0
  len : Nat := 0
  reads : List Nat := []
  got : Option (List ReadReturn) := none
  left : List Nat := []
  done : Bool := false
  deriving DecidableEq, Repr

/-- A copy in the transfer queue (R349, R362). after is the number of the course's first pending word that issued after
it (R345); wrote has the elements of main memory that it has written so far, by address, each byte with its poison; aged
the 16-byte elements of main memory, by number, that some lane has read old where another lane writes them (R353); and seen the
16-byte elements of its local source, by number, that it has read (R345). -/
structure Copy where
  crs : Nat
  count : Nat
  ch : Nat
  bar : Option Nat
  n : Nat
  ops : List XferOp
  tcpy : Option TcpyDesc
  after : Nat
  flags : Word
  may : Word
  wrote : List (Nat × List (Byte × Bool)) := []
  aged : List Nat := []
  seen : Tab (List (Byte × Bool)) := []
  pc : Nat
  slot : Nat
  act : LaneMask
  deriving DecidableEq, Repr

/-! ## Matrix units (R369–R389) -/

/-- The work of an operand-queue entry (R370). -/
inductive MatWork where
  /-- A quarter-operation: its tile; the rows and the columns, each with its fragment registers and its scales; the
  formats, with the format registers that they name; the depth K; MMAS, .z and FTZ; and the steps completed. -/
  | quarter (tile : Nat) (rows : List (Nat × List Word × Word)) (cols : List (Nat × List Word × Word)) (fa fb : MatFmt)
      (wa wb : Word) (k : Nat) (scaled z ftz : Bool) (progress : Nat)
  | zero (tile count : Nat)
  /-- The 16-byte elements still to be moved are left, by number (R383). -/
  | load (tile ofs : Nat) (left : List Nat)
  | store (tile ofs : Nat) (left : List Nat)
  | read (tile pend d : Nat) (sup : Bool) (act : LaneMask)
  deriving DecidableEq, Repr

/-- An entry of a bay's operand queue (R370). -/
structure MatEntry where
  id : Nat
  crs : Nat
  work : MatWork
  flags : Word
  /-- The flags of the word's quarter-operations that are complete (R380). -/
  mates : Word := 0#32
  /-- The word issued in supervisor mode. -/
  sup : Bool
  /-- The number of the course's first pending word that issued after it (R383). -/
  after : Nat
  pc : Nat
  slot : Nat
  act : LaneMask
  deriving DecidableEq, Repr

/-- An accumulator element: its bits and its poison bit (R369). -/
structure AccElem where
  val : Word := 0#32
  poison : Bool := false
  deriving DecidableEq, Repr

/-! ## Teams, grids, queues and contexts (R34–R65) -/

/-- A byte memory with its poisoned 4-byte words, both in canonical form (R263). -/
structure Block where
  mem : List Host.Cell := []
  poison : List Nat := []
  deriving DecidableEq, Repr

/-- Where a team stands (R59, R449–R454). -/
inductive TeamState where
  | running | halting | saved | ended | freed
  deriving DecidableEq, Repr

/-- A team (R34). -/
structure Team where
  grid : Nat
  number : Nat
  core : Nat
  offset : Nat
  courses : List Nat
  state : TeamState := .running
  /-- Live tickets (R273). -/
  live : Nat := 0
  shared : Block := {}
  items : List Word := []
  bars : Tab Barrier := []
  /-- Accumulator elements keyed tile × 256 + 32 × row + column. -/
  acc : Tab AccElem := []
  /-- Operand-queue entries in the image of a saved team, in queue order (R389). -/
  matSaved : List MatEntry := []
  chans : Tab Chan := []
  /-- The number of the team's next channel operation. -/
  opSeq : Nat := 0
  shadows : List Shadow := []
  /-- Copies in flight, by a number that no other copy has. -/
  copies : Tab Copy := []
  /-- Blocks taken from the pool of each bay (R145). -/
  poolUsed : Tab Nat := []
  acquire : Nat := 0
  /-- Bytes of a failed save: the frames of the image (R452). -/
  image : List Nat := []
  /-- Parked entry: the core whose channel unit absorbs what arrives for the team (R322). -/
  parked : Option Nat := none
  deriving DecidableEq, Repr

/-- The launch record of a grid (R45). -/
structure LaunchRec where
  entry : Nat := 0
  arg : Nat := 0
  teams : Nat := 1
  w : Nat := 1
  h : Nat := 1
  courses : Nat := 1
  coop : Bool := false
  width16 : Bool := false
  persist : Bool := false
  base : Nat := 32
  pool : Nat := 0
  dregs : Nat := 0
  tiles : Nat := 0
  shared : Nat := 0
  xfer : Nat := 0
  quota : Nat := 64
  chans : Nat := 1
  comm : Nat := 0xFF
  spill : Nat := 0
  scratch : Nat := 0
  events : Nat := 0
  windows : Nat := 0
  handler : Nat := 0
  signal : Nat := 0
  value : Nat := 0
  lifetime : Nat := 0
  deriving DecidableEq, Repr

/-- Why and how a grid was aborted (R62): the cause of the error word, with the trap's record, if any. -/
structure Abort where
  cause : Nat
  trap : Option TrapRec
  deriving DecidableEq, Repr

/-- A grid (R34). -/
structure Grid where
  ctx : Nat
  queue : Nat
  recNo : Nat
  prio : Nat
  lr : LaunchRec
  admitted : Nat
  /-- The next team to start (R52). -/
  nextTeam : Nat := 0
  /-- Teams freed (R59). -/
  freed : Nat := 0
  abort : Option Abort := none
  done : Bool := false
  deriving DecidableEq, Repr

/-- A record at the head of its queue, read and not yet admitted (R51, R52, R55, R469). -/
structure Waiting where
  lr : LaunchRec
  recNo : Nat
  since : Nat
  /-- A co-operative grid that has waited 100 µs (R55). -/
  blocks : Bool := false
  /-- The consent of the host agent: the SEQ asked, then the answer (R469). -/
  asked : Option Nat := none
  consent : Option Bool := none
  /-- The cause with which it is to be refused, once its error word can be written (R62, R430). -/
  refused : Option Nat := none
  deriving DecidableEq, Repr

/-- A queue (R40). -/
structure Queue where
  ctx : Nat
  prio : Nat
  devFed : Bool
  slots : Nat
  ring : Nat
  tailAddr : Nat
  headAddr : Nat
  halted : Bool := false
  /-- The cause with which its records not admitted are refused: the context has been stopped (R62, R476). -/
  refusing : Option Nat := none
  /-- An agent other than the front end has written the tail word of a device-fed queue (R43). -/
  touched : Bool := false
  /-- Counts of records modulo 2^32 (R41). -/
  head : Nat := 0
  tail : Nat := 0
  waiting : Option Waiting := none
  /-- The grid that the queue waits for (R44). -/
  current : Option Nat := none
  deriving DecidableEq, Repr

/-- A frame of 64 KiB: die, tier (1 outer) and number (R417). -/
structure Frame where
  die : Nat
  tier : Nat
  n : Nat
  deriving DecidableEq, Repr

/-- What holds a frame of a context's pool (R478). -/
inductive FrameUse where
  | free | page | table | spill | image | object
  /-- It holds one table of a splinter, whose next splinter there takes its upper half; or one of another kind (R427). -/
  | upperHalfFree | otherHalfFree
  deriving DecidableEq, Repr

/-- A loaded object (R461). -/
structure Obj where
  handle : Nat
  message : BitVec 256
  /-- The authorised code ranges: virtual base and length, and the frames that they occupy (R461). -/
  code : List (Nat × Nat)
  frames : List Nat
  /-- Every page mapped for the object. -/
  pages : List Nat
  deriving DecidableEq, Repr

/-- A collective group entry and its tree (R391–R394). -/
structure Group where
  entry : Nat
  members : List Nat
  parents : List Nat
  gen : Nat := 0
  /-- The links that are down and whose failure the tree has met (R393). -/
  lost : List (Nat × Nat) := []
  /-- COLL.ar operations of the group that this package has joined. -/
  joined : Nat := 0
  deriving DecidableEq, Repr

/-- A domain barrier (R411). -/
structure DBar where
  group : Nat
  completed : Nat := 0
  /-- Arrivals of this package not yet counted in a completed phase. -/
  arrivals : Nat := 0
  /-- When the phase's first arrival of this package was counted, until the timeout has been reported. -/
  since : Option Nat := none
  deriving DecidableEq, Repr

/-- A record of the error log (R484). -/
structure ErrRec where
  kind : Nat
  queue : Nat
  recNo : Nat
  word : Nat
  time : Nat
  pc : Nat
  addr : Nat
  info : Nat
  lane : Nat
  deriving DecidableEq, Repr

/-- The host region of a context (R480). -/
structure HostRegion where
  base : Nat
  size : Nat
  rkey : Nat
  qp : Nat
  deriving DecidableEq, Repr

/-- A context (R38). -/
structure Context where
  tag : Nat
  root : Nat
  duty : Nat
  stopped : Bool := false
  pool : List (Frame × FrameUse) := []
  objects : List Obj := []
  log : List ErrRec := []
  logCount : Nat := 0
  groups : Tab Group := []
  dbars : Tab DBar := []
  region : Option HostRegion := none
  deriving DecidableEq, Repr

/-! ## Cores (R18), slices and the collective die -/

/-- A line of the instruction cache (R134). -/
structure ILine where
  ctx : Nat
  line : Nat
  bytes : List Byte
  bad : List Nat
  used : Nat
  deriving DecidableEq, Repr

/-- A bay (R106, R174, R205, R225, R370). -/
structure Bay where
  issued : Option Nat := none
  specialUntil : Nat := 0
  crossbarUntil : Nat := 0
  distUntil : Nat := 0
  queue : List MatEntry := []
  deriving DecidableEq, Repr

/-- A core (R18). -/
structure Core where
  icache : List ILine := []
  fills : List (Nat × Nat) := []
  /-- The course that holds the handler bank (R438). -/
  bank : Option Nat := none
  bay0 : Bay := {}
  bay1 : Bay := {}
  bay2 : Bay := {}
  bay3 : Bay := {}
  deriving DecidableEq, Repr

/-- The states of a landing entry (R271); draining is FREE but not allocatable. -/
inductive EntryState where
  | free | pending | ready | claimed | draining
  deriving DecidableEq, Repr

/-- Who claimed an entry: registers of a course, or shared memory (R278, R281): the course and its counted operation, the
offset, the course's next pending word at the issue, the number of the event of the issue, and the 16-byte writes made. -/
inductive Claim where
  | regs (crs pend d w : Nat) (act : LaneMask) (sup : Bool)
  | shared (crs count ofs after turn made : Nat)
  deriving DecidableEq, Repr

/-- A landing entry (R268–R271). -/
structure Entry where
  state : EntryState := .free
  gen : Nat := 0
  ctag : Nat := 0
  team : Nat := 0
  grid : Nat := 0
  image : List Host.Cell := []
  poison : List Nat := []
  /-- Lanes whose bytes have not landed. -/
  waiting : List Nat := []
  size : Nat := 0
  claim : Option Claim := none
  /-- The expiry mark: the generation that expired (R285). -/
  expired : Option Nat := none
  /-- Counted age in cycles (R285). -/
  age : Nat := 0
  deriving DecidableEq, Repr

/-- A request on its way to a slice (R280). -/
inductive SliceReq where
  | redeem (ticket : Nat) (claim : Claim) (pc slot : Nat) (act : LaneMask) (sup : Bool) (refused : Option Nat)
  | drop (ticket ctag : Nat)
  deriving DecidableEq, Repr

/-- A far line (R328): the die that holds it, its home and its bytes as they stood at the fill. -/
structure FarLine where
  die : Nat
  chip : Nat
  line : Nat
  va : Nat
  ctx : Nat
  bytes : List Byte
  poison : List Nat
  filled : Nat
  deriving DecidableEq, Repr

/-- The destination end of a stream (R295, R312). -/
structure Ingress where
  key : StreamKey
  gen : Nat
  next : Nat
  held : List Packet := []
  stopped : Option Nat := none
  moved : Bool := false
  core : Nat := 0
  /-- Old values of ATOMGs, kept for the acknowledgement and the handshake. -/
  olds : List OldValue := []
  /-- The rest of the expected packet, of which some elements have been applied (R293). -/
  part : Option Packet := none
  /-- The entry has been freed by CLOSE: what is left is the generation that it served (R295). -/
  closed : Bool := false
  deriving DecidableEq, Repr

/-- One lane's descriptor of a COLL (R397). -/
structure CollLane where
  lane : Nat
  localVa : Nat
  localPa : Nat
  remoteVa : Nat
  remotePa : Nat
  peer : Dest
  len : Nat
  key : Nat
  done : Bool := false
  cause : Nat := 0
  /-- The final chunk of a .ar with its poisoned words; or what a .put sent to another package; or that a .get has asked
  another package. -/
  result : Option (List Byte × List Nat) := none
  deriving DecidableEq, Repr

/-- The mode of a COLL (R396). -/
inductive CollMode where
  | put (ntf : Option Nat)
  | get
  | ar (ty : CollType) (op : CollOp) (group n : Nat)
  deriving DecidableEq, Repr

/-- A COLL in flight (R399–R402). -/
structure Coll where
  crs : Nat
  pend : Nat
  count : Nat
  ctx : Nat
  mode : CollMode
  lanes : List CollLane
  rebuilt : Bool := false
  cause : Nat := 0
  /-- The cycle in which the word issued. -/
  since : Nat
  deriving DecidableEq, Repr

/-- An XSEND in flight (R406–R409). -/
structure Xsend where
  crs : Nat
  pend : Nat
  count : Nat
  lanes : List Nat
  done : List TokenDone
  deriving DecidableEq, Repr

/-- An exchange window (R404). -/
structure Window where
  base : Nat
  n : Nat
  z : Nat
  counter : Nat
  f : Nat := 0
  v : Nat := 0
  c : Nat := 0
  fr : Nat := 0
  deriving DecidableEq, Repr

/-- A LAUNCH on its way (R57). -/
structure LaunchReq where
  crs : Nat
  team : Nat
  pend : Nat
  queue : Nat
  addr : Nat
  upto : Nat
  deriving DecidableEq, Repr

/-- A DBAR arrival that waits for its release (R335, R411). -/
structure DbarArr where
  crs : Nat
  team : Nat
  pend : Nat
  bar : Nat
  upto : Nat
  deriving DecidableEq, Repr

/-- A translation held in some TLB (R421, R422): any access may still use it. It serves the aligned range of pages, of 1,
64 or 4,096, that holds a page, by the leaf of that page. -/
structure TlbEntry where
  ctx : Nat
  page : Nat
  pages : Nat
  leaf : Nat
  deriving DecidableEq, Repr

/-- A page that is being moved (R430): its leaf as it was, and its new frame. -/
structure PageMove where
  ctx : Nat
  va : Nat
  leaf : Nat
  frame : Frame
  deriving DecidableEq, Repr

/-! ## The host port, firmware and power -/

/-- What leaves the package by the host port (R472–R475). -/
inductive HostOut where
  | response (m : HostMsg)
  | message (m : HostMsg)
  | rdmaDone
  | rdmaData (bytes : List Byte)
  | rdmaAccessError
  | rdmaOperationalError
  | rdmaInvalidRequest
  /-- A write of the device to the host region, and a read of it: an RDMA WRITE or READ on the region's queue pair (R434,
  R480). -/
  | regionWrite (qp rkey ofs : Nat) (bytes : List Byte)
  | regionRead (qp rkey ofs n : Nat)
  deriving DecidableEq, Repr

/-- What a request to the host agent asks (R469, R483). -/
inductive AgentAsk where
  | admission (queue : Nat)
  | firstTouch (crs slot : Nat)
  | recovery (grid cause : Nat) (trap : Option TrapRec)
  | groupSetup (ctx group entry : Nat)
  deriving DecidableEq, Repr

/-- A request to the host agent, the cycle in which it was sent, and the answer to a group request that the entry still
waits to use (R469, R470). -/
structure Ask where
  what : AgentAsk
  since : Nat
  answer : Option Bool := none
  deriving DecidableEq, Repr

/-- An exported window (R472). -/
structure Exported where
  ctx : Nat
  base : Nat
  len : Nat
  write : Bool
  deriving DecidableEq, Repr

/-- The life-cycle states (R467). -/
inductive LifeCycle where
  | manufacture | provisioned | deployed | decommissioned
  deriving DecidableEq, Repr

/-! ## The machine -/

/-- Which word issues: a course and one of its slots. -/
structure Cursor where
  crs : Nat
  slot : Nat
  /-- The word is the second of a pair that issues jointly (R119). -/
  second : Bool := false
  deriving DecidableEq, Repr

/-- Which agent moves next: an event, one bay's scheduler, or the clock. -/
inductive Turn where
  | event (i : Instr)
  | bay (core bay : Nat)
  | tick
  deriving DecidableEq, Repr

/-- Why a step stops. Nothing stops the package: the spec gives every instruction and every event an effect, a trap, an
abort or a refusal that is itself a next state, and no access reaches a physical address that does not exist, since the
walks refuse such entries (R418). The type has no constructor. -/
inductive Fault where
  deriving DecidableEq, Repr

/-- Why an instruction is refused. -/
inductive Refusal where
  /-- The instruction has no meaning; raised by an arm of exec alone, and now by none; safe. -/
  | notModelled (mnemonic : String)
  deriving DecidableEq, Repr

/-- The state of the package.
(Log 2, DESIGN CHOICE.) -/
structure State where
  /-- The package cycle counter (R153). -/
  clock : Nat
  chip : Nat
  /-- The domain is k by k (R25). -/
  domain : Nat
  /-- The model's own: the number of the event, on which free values depend. -/
  stamp : Nat
  /-- The model's own: which word exec runs. -/
  cur : Cursor
  /-- The model's own: which agent moves next, and what comes in from outside. -/
  agenda : List Turn
  mem : List Host.Cell
  poison : List Nat
  courses : Tab Course
  teams : Tab Team
  grids : Tab Grid
  queues : Tab Queue
  contexts : Tab Context
  cores : Tab Core
  scratch : Tab Block
  entries : Tab Entry
  /-- Event counters keyed (die × 256 + context) × 4,096 + k (R306). -/
  events : Tab Nat
  farLines : List FarLine
  ingress : List Ingress
  /-- Messages in flight on the fabric, and tokens (R14, R407). -/
  net : List NetMsg
  tokens : List Token
  /-- The next token that each send list awaits at this package (R407), keyed by its list. -/
  listNext : Tab Nat
  /-- The tokens of each send list that this package has numbered. -/
  listSent : Tab Nat
  tldReqs : Tab TldReq
  sliceReqs : Tab SliceReq
  colls : Tab Coll
  xsends : Tab Xsend
  windows : Tab Window
  launches : Tab LaunchReq
  dbarArrs : Tab DbarArr
  tlb : List TlbEntry
  /-- Where pages were before they moved: context, page, and the frame that refuses with MOVED (R430). -/
  moved : List (Nat × Nat × Nat)
  /-- Pages that are being moved (R430). -/
  moves : List PageMove
  /-- Inbound-fault records of the dies (R314): each 32 bytes as a number. -/
  inbound : List Nat
  fenced : List (UnitKind × Nat)
  linksDown : List (Nat × Nat)
  /-- Die-to-die links of the package that are down; die 8 is the collective die (R13, R317). -/
  dieLinksDown : List (Nat × Nat)
  /-- The host port answers: boot is complete (R485). -/
  up : Bool
  /-- A wipe is in progress (R468). -/
  wiping : Bool
  /-- The Milov image failed its check: the port answers only attestation (R485). -/
  bootFailed : Bool
  mgmtOpen : Bool
  rxBuffers : Nat
  devSeq : Nat
  held : List HostMsg
  asks : Tab Ask
  /-- The host request being performed, which ends later (R474). -/
  busy : Option HostMsg
  /-- Responses that follow the response to that request (R474). -/
  later : List HostMsg
  hostOut : List HostOut
  exported : Tab Exported
  lifeCycle : LifeCycle
  fuse : Nat
  /-- The code-key slots of the fuse block: the hash programmed in each, if any; the top-level public keys that the device has,
  the spec does not say where (log 114); and the slots that are revoked (R462). -/
  keySlots : List (Option (BitVec 256))
  topKeys : List (List Byte)
  revoked : Nat
  hssIndex : Nat
  telemetry : List Telemetry
  idle : List Nat
  perf : Tab Nat
  /-- Round-robin memory of the front end (R44): at each priority, the queue whose record was taken last, and by 4 more the queue
  whose grid was admitted last. -/
  lastServed : Tab Nat
  deriving DecidableEq, Repr

/-- The package right after reset (R46, R153, R268, R468, R485): no context, no grid, memory all zero, the cycle
counter 0, a wipe in progress and the host port down. The chip number and k are fixed by strapping (R25, R485), and the
life-cycle state, the fuse counter, the key slots and the key index live in the fuse block: each has the value that
assumption 1 names.
(Log 1, DESIGN CHOICE.) -/
def State.reset : State :=
  { clock := 0, chip := 0, domain := 1, stamp := 0, cur := ⟨0, 0, false⟩, agenda := [], mem := [], poison := [],
    courses := [], teams := [], grids := [], queues := [], contexts := [], cores := [], scratch := [], entries := [],
    events := [], farLines := [], ingress := [], net := [], tokens := [], listNext := [], listSent := [], tldReqs := [],
    sliceReqs := [], colls := [], xsends := [], windows := [], launches := [], dbarArrs := [], tlb := [], moved := [], moves := [], inbound := [],
    fenced := [], linksDown := [], dieLinksDown := [], up := false, wiping := true, bootFailed := false, mgmtOpen := false, rxBuffers := 0, devSeq := 0,
    held := [], asks := [], busy := none, later := [], hostOut := [], exported := [], lifeCycle := .deployed, fuse := 0,
    keySlots := [], topKeys := [], revoked := 0, hssIndex := 0, telemetry := [], idle := [], perf := [], lastServed := [] }

end Sys2Proof.Machine
end

