-- ==== Sys2Proof/Machine/Ops.lean ====
section
/-! DEFINITION. The named operations over memory, registers and slots; messages to the host; taking a trap and
returning from it. -/

namespace Sys2Proof.Machine

/-! ## Parts of the state -/

/-- A course that does not exist: no lane is live. -/
def Course.dead : Course :=
  { team := 0, idx := 0, core := 0, bay := 0, place := 0, slot0 := {}, slot1 := {}, live := 0#32 }

/-- A team that does not exist. -/
def Team.dead : Team := { grid := 0, number := 0, core := 0, offset := 0, courses := [], state := .freed }

/-- A grid that does not exist. -/
def Grid.dead : Grid := { ctx := 0, queue := 0, recNo := 0, prio := 0, lr := {}, admitted := 0, done := true }

/-- A context that is not defined. -/
def Context.dead : Context := { tag := 0, root := 0, duty := 0, stopped := true }

/-- A course by its handle. -/
def State.course (s : State) (h : Nat) : Course := Tab.get Course.dead s.courses h
/-- Write a course. -/
def State.setCourse (s : State) (h : Nat) (c : Course) : State := { s with courses := Tab.put s.courses h c }
/-- Change a course. -/
def State.onCourse (s : State) (h : Nat) (f : Course → Course) : State := s.setCourse h (f (s.course h))
/-- A team by its handle. -/
def State.team (s : State) (h : Nat) : Team := Tab.get Team.dead s.teams h
/-- Write a team. -/
def State.setTeam (s : State) (h : Nat) (t : Team) : State := { s with teams := Tab.put s.teams h t }
/-- Change a team. -/
def State.onTeam (s : State) (h : Nat) (f : Team → Team) : State := s.setTeam h (f (s.team h))
/-- A grid by its handle. -/
def State.grid (s : State) (h : Nat) : Grid := Tab.get Grid.dead s.grids h
/-- Write a grid. -/
def State.setGrid (s : State) (h : Nat) (g : Grid) : State := { s with grids := Tab.put s.grids h g }
/-- A context by its number. -/
def State.context (s : State) (n : Nat) : Context := Tab.get Context.dead s.contexts n
/-- Write a context. -/
def State.setContext (s : State) (n : Nat) (c : Context) : State := { s with contexts := Tab.put s.contexts n c }
/-- Change a context. -/
def State.onContext (s : State) (n : Nat) (f : Context → Context) : State := s.setContext n (f (s.context n))
/-- A core by its device-wide number. -/
def State.core (s : State) (n : Nat) : Core := Tab.get {} s.cores n
/-- Write a core. -/
def State.setCore (s : State) (n : Nat) (c : Core) : State := { s with cores := Tab.put s.cores n c }
/-- Change a core. -/
def State.onCore (s : State) (n : Nat) (f : Core → Core) : State := s.setCore n (f (s.core n))

/-- A bay of a core. -/
def Core.bay (c : Core) : Nat → Bay
  | 0 => c.bay0
  | 1 => c.bay1
  | 2 => c.bay2
  | _ => c.bay3

/-- Write a bay of a core. -/
def Core.setBay (c : Core) (n : Nat) (b : Bay) : Core :=
  match n with
  | 0 => { c with bay0 := b }
  | 1 => { c with bay1 := b }
  | 2 => { c with bay2 := b }
  | _ => { c with bay3 := b }

/-- Change a bay. -/
def State.onBay (s : State) (core bay : Nat) (f : Bay → Bay) : State :=
  s.onCore core (fun c => c.setBay bay (f (c.bay bay)))

/-- A slot of a course. -/
def Course.slotN (c : Course) (j : Nat) : Slot := if j = 0 then c.slot0 else c.slot1
/-- Write a slot. -/
def Course.setSlot (c : Course) (j : Nat) (x : Slot) : Course := if j = 0 then { c with slot0 := x } else { c with slot1 := x }
/-- Change a slot. -/
def Course.onSlot (c : Course) (j : Nat) (f : Slot → Slot) : Course := c.setSlot j (f (c.slotN j))

/-- The physical address of an offset of the spill area (R253). -/
def Course.spillAt (c : Course) (o : Nat) : Nat := c.spill.getD (o / 2 ^ 16) 0 * 2 ^ 16 + o % 2 ^ 16

/-- A slot is occupied when its mask of live lanes is not empty (R107). -/
def Slot.occupied (x : Slot) : Bool := x.mask != 0#32

/-- Is the course in supervisor mode in this slot: its words issue in that mode (R438)? -/
def Course.supIn (c : Course) (j : Nat) : Bool := c.sup.any (fun u => u.slot == j)

/-- A slot has work: it is occupied, or its handler runs, with whatever mask its trap left (R438, R441), and has not been freed
by JOIN (R128). -/
def Course.taken (c : Course) (j : Nat) : Bool := (c.slotN j).occupied || (c.supIn j && (c.slotN j).wait != .refill)

/-- May a slot go on as far as supervisor mode is concerned: no handler of the other slot runs, nor one that a save left
to enter again (R438, R453)? -/
def Course.notBarred (c : Course) (j : Nat) : Bool := c.sup.all (fun u => u.slot == j) && c.reenter.all (fun k => k == j)

/-- A further trap that a slot takes (R437). -/
def Further.isFor (e : Further) (j : Nat) : Bool := e.slot == 2 || e.slot == j

/-- The further trap that a slot takes next, before its next word: none while a handler of the course runs (R437, R438). -/
def Course.nextRefusal (c : Course) (j : Nat) : Option TrapRec :=
  if c.sup.isSome || c.reenter.isSome then none else (c.refusals.find? (fun e => e.isFor j)).map (fun e => e.trap)

/-- Further traps stand in the issue order of their REDEEMs, the trap of a word before them (R437). -/
def insertFurther (e : Further) : List Further → List Further
  | [] => [e]
  | a :: t => if e.no < a.no then e :: a :: t else a :: insertFurther e t

/-- The live lanes that a slot has of its own: in supervisor mode those it had at the trap (R446). -/
def Course.ownMask (c : Course) (j : Nat) : LaneMask :=
  match c.sup with
  | some u => if u.slot = j then u.slotMask &&& c.live else (c.slotN j).mask
  | none => (c.slotN j).mask

/-- A slot that holds nothing (R107). -/
def Slot.freed (x : Slot) : Slot :=
  { x with mask := 0#32, wait := .none, stalled := false, urgent := false, eligibleSince := none }

/-- A slot that JOIN frees: it is to be refilled (R122, R128). -/
def Slot.parted (x : Slot) : Slot := { x.freed with wait := .refill }

/-- A slot less some lanes; it is free if none is left (R129). -/
def Slot.without (x : Slot) (m : LaneMask) : Slot :=
  let y := { x with mask := x.mask &&& ~~~m }
  if y.mask = 0#32 then y.freed else y

/-- The grid of a team. -/
def State.gridOf (s : State) (team : Nat) : Grid := s.grid (s.team team).grid
/-- The launch record under which a course runs. -/
def State.lrOf (s : State) (c : Course) : LaunchRec := (s.gridOf c.team).lr
/-- The context of a course. -/
def State.ctxOf (s : State) (c : Course) : Nat := (s.gridOf c.team).ctx
/-- The die of a device-wide core number (R17). -/
def dieOf (core : Nat) : Nat := core / Config.coresPerDie

/-- The key of an event counter (R306). -/
def evKey (die ctx k : Nat) : Nat := (die * 256 + ctx) * 4096 + k
/-- An event counter. -/
def State.event (s : State) (die ctx k : Nat) : Nat := Tab.get 0 s.events (evKey die ctx k)
/-- Set an event counter, modulo 2^64. -/
def State.setEvent (s : State) (die ctx k x : Nat) : State :=
  { s with events := Tab.put s.events (evKey die ctx k) (x % 2 ^ 64) }

/-- The key of a performance counter: scope, index and position in the table of R488. -/
def perfKey (scope index item : Nat) : Nat := (scope * 2048 + index) * 128 + item
/-- Raise a performance counter (R488). -/
def State.count (s : State) (scope index item n : Nat) : State :=
  { s with perf := Tab.put s.perf (perfKey scope index item) (Tab.get 0 s.perf (perfKey scope index item) + n) }

/-! ## Byte memories in canonical form -/

/-- What an address reads as: the listed byte, and 0 where none is listed (R249, R252, R468). -/
def cellAt : List Host.Cell → Nat → Byte
  | [], _ => 0#8
  | (a, b) :: t, n => if a = n then b else cellAt t n

/-- Write a byte: addresses stay strictly rising and no zero is listed. -/
def cellPut : List Host.Cell → Nat → Byte → List Host.Cell
  | [], n, x => if x = 0#8 then [] else [(n, x)]
  | (a, b) :: t, n, x =>
    if x = 0#8 then (if a = n then cellPut t n x else (a, b) :: cellPut t n x)
    else if a = n then (n, x) :: t
    else if n < a then (n, x) :: (a, b) :: t
    else (a, b) :: cellPut t n x

/-- Which of the elements still to be moved is moved next: their order is free.
(Log 117, DESIGN CHOICE.) -/
def State.nextElem (s : State) (l : List Nat) : Option Nat := l[Config.freeNat s.stamp (2 ^ 61) % l.length]?

/-- n bytes from an address. -/
def cellsAt (m : List Host.Cell) (a n : Nat) : List Byte := (List.range n).map (fun i => cellAt m (a + i))

/-- Write bytes from an address on. -/
def cellsPut (m : List Host.Cell) : Nat → List Byte → List Host.Cell
  | _, [] => m
  | a, b :: t => cellsPut (cellPut m a b) (a + 1) t

/-- The canonical form: addresses strictly rising, no entry 0.
(Log 7, DESIGN CHOICE.) -/
def Memory.wf : List Host.Cell → Bool
  | [] => true
  | [(_, b)] => b != 0#8
  | (a, b) :: (a', b') :: t => b != 0#8 && a < a' && Memory.wf ((a', b') :: t)

/-- Put an item into a sorted list, before those that do not go before it. -/
def insertBy {α : Type} (le : α → α → Bool) (a : α) : List α → List α
  | [] => [a]
  | b :: t => if le a b then a :: b :: t else b :: insertBy le a t

/-- A list in order; items of which neither goes first stay as they were. -/
def sortBy {α : Type} (le : α → α → Bool) : List α → List α
  | [] => []
  | a :: t => insertBy le a (sortBy le t)

/-- Add a number to a sorted list without repeats. -/
def insertNat : List Nat → Nat → List Nat
  | [], n => [n]
  | a :: t, n => if a = n then a :: t else if n < a then n :: a :: t else a :: insertNat t n

/-- The 4-byte words that n bytes from a touch. -/
def wordsOf (a n : Nat) : List Nat :=
  if n = 0 then [] else (List.range ((a + n - 1) / 4 - a / 4 + 1)).map (fun i => (a / 4 + i) * 4)

/-- Poison after a store of n bytes at a: a word wholly written is clean, or poisoned where bad names it (R263). -/
def poisonStore (p : List Nat) (a n : Nat) (bad : List Nat) : List Nat :=
  let p := p.filter (fun w => !(a ≤ w && w + 4 ≤ a + n))
  bad.foldl insertNat p

/-- Some word of n bytes from a is poisoned. -/
def poisonedIn (p : List Nat) (a n : Nat) : Bool := (wordsOf a n).any (fun w => p.contains w)

/-- The bytes of a block. -/
def Block.read (b : Block) (a n : Nat) : List Byte := cellsAt b.mem a n

/-- Store bytes in a block; bad lists the words to be poisoned. -/
def Block.write (b : Block) (a : Nat) (x : List Byte) (bad : List Nat) : Block :=
  { mem := cellsPut b.mem a x, poison := poisonStore b.poison a x.length bad }

/-- Does a physical address exist: die, tier and an offset within the tier (R16)? -/
def physExists (a : Nat) : Bool :=
  a < 8 * 2 ^ 38 &&
    (if a.testBit 37 then a % 2 ^ 37 < Config.outerBytes else a % 2 ^ 37 < Config.bondedBytes)

/-- The physical address of an offset in a tier of a die. -/
def physAddr (die tier ofs : Nat) : Nat := die * 2 ^ 38 + tier * 2 ^ 37 + ofs

/-- The slice of its die that is the home of a line. Bonded memory goes over the 32 slices in units of 512 bytes, so that each
owns a 32nd of every 16 KiB; outer memory goes over the four channels in units of 4 KiB, and over the eight slices of a
channel in units of 512 bytes (R19, R20).
(Log 6, DESIGN CHOICE.) -/
def sliceOf (pa : Nat) : Nat :=
  let u := pa % 2 ^ 37 / 512
  if pa.testBit 37 then u / 8 % 4 * 8 + u % 8 else u % 32 ^^^ Config.sliceHash (u % 2 ^ 14 / 32) % 32

/-- Bytes of main memory. -/
def State.memRead (s : State) (a n : Nat) : List Byte := cellsAt s.mem a n
/-- Store bytes in main memory. -/
def State.memWrite (s : State) (a : Nat) (x : List Byte) (bad : List Nat) : State :=
  { s with mem := cellsPut s.mem a x, poison := poisonStore s.poison a x.length bad }
/-- An 8-byte word of main memory. -/
def State.memWord (s : State) (a : Nat) : Nat := ofBytes (s.memRead a 8)
/-- The words of n bytes from a that are poisoned. -/
def State.poisonOf (s : State) (a n : Nat) : List Nat := (wordsOf a n).filter (fun w => s.poison.contains w)

/-- A local memory as a block: the bytes and the poison of a space, with its offset 0 (R249, R252, R253). -/
def State.spaceBlock (s : State) : Space → Block
  | .shared t => (s.team t).shared
  | .scratch g d => Tab.get {} s.scratch (g * 8 + d)
  | .spill _ => ⟨s.mem, s.poison⟩

/-- Write a local memory. -/
def State.setSpace (s : State) (sp : Space) (b : Block) : State :=
  match sp with
  | .shared t => s.onTeam t (fun x => { x with shared := b })
  | .scratch g d => { s with scratch := Tab.put s.scratch (g * 8 + d) b }
  | .spill _ => { s with mem := b.mem, poison := b.poison }

/-! ## Registers (R112–R115, R142, R150) -/

/-- The key of a register in one lane. -/
def cellKey (n L : Nat) : Nat := n * 32 + L

/-- The file of lane registers: the course's, or the handler bank's (R78). -/
def Course.laneFile (c : Course) (sup : Bool) : Tab Cell :=
  if sup then (match c.sup with | some x => x.hv | none => []) else c.v

/-- The file of uniform registers. -/
def Course.unifFile (c : Course) (sup : Bool) : Tab SCell :=
  if sup then (match c.sup with | some x => x.hs | none => []) else c.s

/-- A lane register as stored. -/
def Course.laneCell (c : Course) (sup : Bool) (n L : Nat) : Cell := Tab.get {} (c.laneFile sup) (cellKey n L)
/-- A uniform register as stored. -/
def Course.unifCell (c : Course) (sup : Bool) (n : Nat) : SCell := Tab.get {} (c.unifFile sup) n

/-- Write a lane register. -/
def Course.setLane (c : Course) (sup : Bool) (n L : Nat) (x : Cell) : Course :=
  if sup then { c with sup := c.sup.map (fun y => { y with hv := Tab.put y.hv (cellKey n L) x }) }
  else { c with v := Tab.put c.v (cellKey n L) x }

/-- Write a uniform register. -/
def Course.setUnif (c : Course) (sup : Bool) (n : Nat) (x : SCell) : Course :=
  if sup then { c with sup := c.sup.map (fun y => { y with hs := Tab.put y.hs n x }) }
  else { c with s := Tab.put c.s n x }

/-- Write bits of a mask register; m0 ignores writes (R143). -/
def Course.setMask (c : Course) (n : Nat) (val bits : Word) : Course :=
  if n = 0 then c else { c with m := Tab.put c.m n (mergeBits (Tab.get 0#32 c.m n) val bits) }

/-- Does a word that issues now read the value that a fixed-ALU word of cycle issued wrote (R112)? Each result on its way is
seen or not on its own. In the same cycle the two are a pair, and the second reads the old value (R119).
(Log 12, DEDUCED.) -/
def State.seesNew (s : State) (issued key : Nat) : Bool :=
  if s.clock ≤ issued then false
  else if issued + 4 ≤ s.clock then true
  else Config.freeBit s.stamp (2 ^ 64 * issued + key)

/-- A lane register as a word that issues now reads it: each fixed-ALU result of the last 3 cycles is seen or not,
independently for each lane and register (R112). -/
def State.laneVal (s : State) (c : Course) (sup : Bool) (n L : Nat) : Word :=
  c.alu.foldl (fun x w =>
    match w.dst with
    | .lane sp n' L' val bits =>
      if sp == sup && n' == n && L' == L && s.seesNew w.issued (cellKey n L) then mergeBits x val bits else x
    | _ => x) (c.laneCell sup n L).val

/-- The poison bit as a word that issues now reads it: a result that it sees is clean (R150). -/
def State.lanePoison (s : State) (c : Course) (sup : Bool) (n L : Nat) : Bool :=
  c.alu.foldl (fun x w =>
    match w.dst with
    | .lane sp n' L' _ _ => if sp == sup && n' == n && L' == L && s.seesNew w.issued (cellKey n L) then false else x
    | _ => x) (c.laneCell sup n L).poison

/-- A uniform register as a word that issues now reads it (R112). -/
def State.unifVal (s : State) (c : Course) (sup : Bool) (n : Nat) : Word :=
  c.alu.foldl (fun x w =>
    match w.dst with
    | .unif sp n' val bits =>
      if sp == sup && n' == n && s.seesNew w.issued (2 ^ 16 + n) then mergeBits x val bits else x
    | _ => x) (c.unifCell sup n).val

/-- The bits of a mask register that a word sees new, lane by lane (R112). -/
def State.newBits (s : State) (n issued : Nat) (bits : Word) : Word :=
  bits &&& maskOfLanes (lanes.filter (fun L => s.seesNew issued (2 ^ 17 + cellKey n L)))

/-- A mask register as a word that issues now reads it; m0 reads all ones (R112, R143). -/
def State.maskVal (s : State) (c : Course) (n : Nat) : Word :=
  if n = 0 then 0xFFFFFFFF#32
  else
    c.alu.foldl (fun x w =>
      match w.dst with
      | .mask n' val bits => if n' == n then mergeBits x val (s.newBits n w.issued bits) else x
      | _ => x) (Tab.get 0#32 c.m n)

/-- Apply one fixed-ALU write to the registers; the value is not poisoned, and the register is not marked full. -/
def Course.applyAlu (c : Course) (d : AluDst) : Course :=
  match d with
  | .lane sp n L val bits =>
    let x := c.laneCell sp n L
    c.setLane sp n L { x with val := mergeBits x.val val bits, poison := false }
  | .unif sp n val bits =>
    let x := c.unifCell sp n
    c.setUnif sp n { x with val := mergeBits x.val val bits }
  | .mask n val bits => c.setMask n val bits
  | .flags f => { c with flg := c.flg ||| f }

/-- Does a fixed-ALU write go to this register? -/
def AluDst.hits (d : AluDst) (r : RegId) (m : LaneMask) : Bool :=
  match d with
  | .lane sp n L _ _ => r.lane && sp == r.sup && n == r.n && m.getLsbD L
  | .unif sp n _ _ => !r.lane && sp == r.sup && n == r.n
  | _ => false

/-- Mark a register empty in the lanes of a mask; a fixed-ALU write issued earlier lands first (R114). -/
def Course.markEmpty (c : Course) (r : RegId) (m : LaneMask) : Course :=
  let c1 := c.alu.foldl (fun c w => if w.dst.hits r m then c.applyAlu w.dst else c) c
  let c2 := { c1 with alu := c1.alu.filter (fun w => !w.dst.hits r m) }
  if r.lane then
    (lanesOf m).foldl (fun c L => c.setLane r.sup r.n L { c.laneCell r.sup r.n L with empty := true }) c2
  else c2.setUnif r.sup r.n { c2.unifCell r.sup r.n with empty := true }

/-- A value lands: the register is written and marked full (R114, R150, R228). -/
def Course.land (c : Course) : Landing → Course
  | .lane sp n L val poison => c.setLane sp n L ⟨val, false, poison⟩
  | .unif sp n val => c.setUnif sp n ⟨val, false⟩
  | .dist n L x => { c with d := Tab.put c.d (cellKey n L) { x with empty := false, poison := false } }

/-- The distribution register of a lane, as read: an all-zero one is eight points of +0 (R227). -/
def Course.distVal (c : Course) (n L : Nat) : DCell :=
  let x := Tab.get {} c.d (cellKey n L)
  if x.w.all (· == 0) then { x with w := List.replicate 8 4096 } else x

/-- Write a fixed-ALU result, on its way for 4 cycles (R112). -/
def Course.alu1 (c : Course) (clock : Nat) (d : AluDst) : Course := { c with alu := c.alu ++ [⟨clock, d⟩] }

/-- Does a value land in the handler bank? -/
def Landing.inBank (l : Landing) : Bool :=
  match l with
  | .lane sp _ _ _ _ => sp
  | .unif sp _ _ => sp
  | .dist _ _ _ => false

/-- Registers that fill without the lanes of a mask; those of which no lane is left have been filled. -/
def fillsLess (mask : LaneMask) (l : List (RegId × LaneMask)) : List (RegId × LaneMask) :=
  (l.map (fun e => (e.1, e.2 &&& ~~~mask))).filter (fun e => e.2 != 0#32)

/-- The value of a pending word lands: its registers are written and marked full, its flags are ORed in, and it is no
longer pending (R114, R450). The handler registers of a supervisor mode that has ended are gone. -/
def State.landPend (s : State) (crs pid : Nat) (ls : List Landing) (fl : Word) : State :=
  let c := s.course crs
  match c.pend.find? (fun p => p.id == pid) with
  | none => s
  | some p =>
    let c := (ls.filter (fun l => !(p.orphan && l.inBank))).foldl Course.land c
    s.setCourse crs { c with pend := c.pend.filter (fun q => q.id != pid), flg := c.flg ||| fl }

/-- Some lanes of a pending word land; it is pending until all have (R114, R320). -/
def State.landLanes (s : State) (crs pid : Nat) (mask : LaneMask) (ls : List Landing) : State :=
  match (s.course crs).pend.find? (fun p => p.id == pid) with
  | none => s
  | some p =>
    if (fillsLess mask p.fills).isEmpty then s.landPend crs pid ls 0#32
    else
      s.onCourse crs (fun c =>
        let c := (ls.filter (fun l => !(p.orphan && l.inBank))).foldl Course.land c
        { c with pend := c.pend.map (fun q => if q.id = pid then { q with fills := fillsLess mask q.fills } else q) })

/-! ## Messages to the host (R474, R475, R483) -/

/-- n bytes of a number. -/
def le (n x : Nat) : List Byte := bytesOf n x

/-- Merge the oldest event into the overflow event that stands first, or make that event (R475). -/
def mergeOldest (l : List HostMsg) : List HostMsg :=
  match l with
  | a :: b :: t =>
    let n := if ofBytes (a.body.take 4) = 9 then ofBytes ((a.body.drop 8).take 4) else 1
    { b with ctx := 0, body := le 4 9 ++ le 4 0 ++ le 4 (n + 1) } :: t
  | l => l

/-- The events that are held, agent requests apart. -/
def heldEvents (l : List HostMsg) : Nat := (l.filter (fun m => m.op == 0x8000)).length

/-- Send a device message; without a receive buffer it is held, and beyond 1,024 held events the oldest merge. -/
def State.send (s : State) (op ctx code : Nat) (data : List Byte) : State :=
  let m : HostMsg := ⟨op, 0, 0, ctx, s.devSeq, le 4 code ++ le 4 0 ++ data⟩
  let s := { s with devSeq := (s.devSeq + 1) % 2 ^ 32 }
  if s.mgmtOpen && 0 < s.rxBuffers && s.held.isEmpty then
    { s with rxBuffers := s.rxBuffers - 1, hostOut := s.hostOut ++ [.message m] }
  else
    let held := s.held ++ [m]
    if 1024 < heldEvents held then
      { s with held := held.filter (fun x => x.op != 0x8000) ++ mergeOldest (held.filter (fun x => x.op == 0x8000)) }
    else { s with held := held }

/-- Raise a management event (R483). -/
def State.mgmt (s : State) (ctx code : Nat) (data : List Byte) : State := s.send 0x8000 ctx code data

/-- Ask the host agent: the request's SEQ is remembered with what it asks (R469, R470). -/
def State.ask (s : State) (op ctx : Nat) (what : AgentAsk) (data : List Byte) : State :=
  let seq := s.devSeq
  { s.send op ctx 0 data with asks := Tab.put s.asks seq { what := what, since := s.clock } }

/-- Post a record to a context's error log, which holds the latest 256, and raise event 5 (R484). -/
def State.logPost (s : State) (ctx : Nat) (r : ErrRec) : State :=
  let c := s.context ctx
  let n := c.logCount
  let log := c.log ++ [r]
  (s.setContext ctx { c with log := log.drop (log.length - 256), logCount := (n + 1) % 2 ^ 32 }).mgmt ctx 5 (le 4 n)

/-- Halt a queue and raise its event (R42). -/
def State.haltQueue (s : State) (q : Nat) : State :=
  match Tab.find s.queues q with
  | none => s
  | some x => ({ s with queues := Tab.put s.queues q { x with halted := true } }).mgmt x.ctx 1 (le 4 q)

/-! ## Traps (R435–R447) -/

/-- The CAUSE word (R441). -/
def TrapRec.causeWord (t : TrapRec) : Word := wd (t.code + t.sub * 2 ^ 8 + b2n t.after * 2 ^ 12 + b2n t.defer * 2 ^ 13)

/-- LANE of the record (R441). -/
def TrapRec.laneWord (t : TrapRec) : Word :=
  match t.lane with
  | some L => wd L
  | none => 0xFFFFFFFF#32

/-- The error word of R62. -/
def errorWord (recNo cause : Nat) : Nat := 2 ^ 63 + recNo % 2 ^ 16 * 2 ^ 32 + cause

/-- A trap is raised by a slot: it waits for HANDLER_ENTRY (R438). -/
def State.raise (s : State) (crs slot : Nat) (t : TrapRec) : State :=
  s.onCourse crs (fun c => c.onSlot slot (fun x => { x with wait := .trap t s.stamp, stalled := false, eligibleSince := none }))

/-- Remove the first element for which a test holds. -/
def dropFirst {α : Type} (p : α → Bool) : List α → List α
  | [] => []
  | a :: t => if p a then t else a :: dropFirst p t

/-- The slot takes a further trap. A deferred refusal has the slot's mask, and its PC as RESUME (R435, R437, R441).
(Log 75, DEDUCED.) -/
def State.takeRefusal (s : State) (crs j : Nat) (t : TrapRec) : State :=
  let c := s.course crs
  let y := c.slotN j
  (s.setCourse crs { c with refusals := dropFirst (fun e => e.isFor j) c.refusals }).raise crs j
    (if t.defer then { t with mask := y.mask, resume := y.pc } else { t with resume := y.pc })

/-- PC_OVERFLOW after the last word of the address space, which is complete (R140, R442). -/
def overflowTrap (act : LaneMask) (sup : Bool) : TrapRec :=
  { code := 0x05, sub := 2, after := true, pc := Config.addrLimit - 8, mask := act, resume := Config.addrLimit, inSup := sup }

/-- A slot's word has a trap or a wait of its own after it: after the last word of the address space the PC_OVERFLOW of R140 is
the slot's further trap, taken once the first has been served (R437). -/
def Course.overflowing (c : Course) (j : Nat) (act : LaneMask) : Course :=
  if (c.slotN j).pc + 8 = Config.addrLimit then { c with refusals := ⟨j, 0, overflowTrap act (c.supIn j)⟩ :: c.refusals } else c

/-- A slot has completed the word at its PC: it goes on at PC + 8, or PC_OVERFLOW is raised after the last word of the
address space (R140). -/
def State.advance (s : State) (crs j : Nat) (act : LaneMask) : State :=
  let c := s.course crs
  let y := c.slotN j
  if y.pc + 8 = Config.addrLimit then s.raise crs j (overflowTrap act (c.supIn j))
  else s.setCourse crs (c.setSlot j { y with pc := y.pc + 8, wait := .none })

/-! ## The extended window (R142, R145–R149) -/

/-- Blocks of a team's pool free in a bay (R145). -/
def State.poolFree (s : State) (team bay : Nat) : Nat :=
  (s.gridOf team).lr.pool - Tab.get 0 (s.team team).poolUsed bay

/-- The blocks of a set, 0 to 3. -/
def blocksOf (set : Nat) : List Nat := [0, 1, 2, 3].filter (fun k => set.testBit k)

/-- Is a lane register in one of the blocks of a set? -/
def inBlocks (set n : Nat) : Bool := 128 ≤ n && set.testBit ((n - 128) / 32)

/-- Forget the values of the registers of a set of blocks: they read 0, full and not poisoned. -/
def Course.clearBlocks (c : Course) (set : Nat) : Course :=
  { c with
    v := c.v.filter (fun e => !inBlocks set (e.1 / 32))
    alu := c.alu.filter (fun w => match w.dst with
      | .lane false n _ _ _ => !inBlocks set n
      | _ => true) }

/-- Blocks of a set that the course does not hold. -/
def Course.wanted (c : Course) (set : Nat) : List Nat := (blocksOf set).filter (fun k => !c.blocks.testBit k)

/-- Take blocks from the pool of the team in the bay and map them (R147). -/
def State.takeBlocks (s : State) (crs set : Nat) : State :=
  let c := s.course crs
  let w := c.wanted set
  let ws := w.foldl (fun a k => a + 2 ^ k) 0
  let s := s.onTeam c.team (fun t => { t with poolUsed := Tab.put t.poolUsed c.bay (Tab.get 0 t.poolUsed c.bay + w.length) })
  s.setCourse crs { (c.clearBlocks ws) with blocks := c.blocks ||| ws }

/-- Return blocks to the pool. -/
def State.returnBlocks (s : State) (crs set : Nat) : State :=
  let c := s.course crs
  let w := (blocksOf set).filter (fun k => c.blocks.testBit k)
  let ws := w.foldl (fun a k => a + 2 ^ k) 0
  let s := s.onTeam c.team (fun t => { t with poolUsed := Tab.put t.poolUsed c.bay (Tab.get 0 t.poolUsed c.bay - w.length) })
  s.setCourse crs { (c.clearBlocks ws) with blocks := c.blocks &&& (15 ^^^ ws) }

/-- Is the host agent asked what to do about a grid: it goes no further until the answer (R469)? -/
def State.asksOf (s : State) (g : Nat) : Bool :=
  s.asks.any (fun _ a => match a.what with
    | .recovery k _ _ => k == g
    | _ => false)

/-- Does the team of a course run? -/
def State.running (s : State) (c : Course) : Bool := (s.team c.team).state == .running && !s.asksOf (s.team c.team).grid

/-- The slots of a bay that wait in VACQ: course, slot, set and turn. -/
def State.vacqWaiters (s : State) (core bay : Nat) : List (Nat × Nat × Nat × Nat) :=
  s.courses.flatMap (fun e =>
    if e.2.core = core ∧ e.2.bay = bay ∧ s.running e.2 then
      [0, 1].filterMap (fun j =>
        match (e.2.slotN j).wait with
        | .vacq set turn => some (e.1, j, set, turn)
        | _ => none)
    else [])

/-- The waiter that began to wait first. -/
def firstWaiter (l : List (Nat × Nat × Nat × Nat)) : Option (Nat × Nat × Nat × Nat) :=
  l.foldl (fun b e => match b with
    | none => some e
    | some y => if e.2.2.2 < y.2.2.2 then some e else b) none

/-- Serve the waiting VACQs of a bay in order; one that cannot be served blocks those behind it (R147). -/
def State.serveBay (s : State) (core bay : Nat) : Nat → State
  | 0 => s
  | k + 1 =>
    match firstWaiter (s.vacqWaiters core bay) with
    | none => s
    | some (crs, j, set, _) =>
      let c := s.course crs
      if (c.wanted set).length ≤ s.poolFree c.team bay then
        let act := (c.slotN j).act
        ((s.takeBlocks crs set).advance crs j act).serveBay core bay k
      else s

/-- Serve every waiter of a bay that can be served.
(Log 82, DEDUCED.) -/
def State.servePool (s : State) (core bay : Nat) : State := s.serveBay core bay (s.vacqWaiters core bay).length

/-- Serve the pools of the cores of some teams: a waiter that has left blocks nobody any more (R147). -/
def State.serveCores (s : State) (teams : List Nat) : State :=
  teams.foldl (fun s h => [0, 1, 2, 3].foldl (fun s b => s.servePool (s.team h).core b) s) s

/-! ## The end of a grid by abort (R62, R447) -/

/-- Stop a course of an aborted grid: no lane lives and nothing waits to issue (R62). -/
def Course.aborted (c : Course) : Course :=
  { c with slot0 := c.slot0.freed, slot1 := c.slot1.freed, live := 0#32, rejoin := [], refusals := [], sup := none, reenter := none,
           pathCount := 0, rejoinCount := 0, pastEnd := [] }

/-- What the reads of a refused packet land: poisoned words (R287, R361). -/
def packetReads (p : Packet) : List NetMsg :=
  match p.body with
  | .read reader es => es.map (fun e => .data
      { key := p.key, reader := reader, lane := e.lane, va := e.va, pa := e.pa, bytes := List.replicate e.n 0#8, poison := wordsOf 0 e.n,
        line := [], linePoison := [], moment := 0, refused := true })
  | _ => []

/-- Some lanes of the outstanding reads that meet a test are out no longer. -/
def Chan.lessReads (c : Chan) (hit : ReadOut → Bool) (k : Nat) : Chan :=
  { c with reads := (c.reads.map (fun r => if hit r then { r with left := r.left - k } else r)).filter (fun r => r.left != 0) }

/-- Is it the read that a packet belongs to? -/
def OutPacket.readsOf (q : OutPacket) (r : ReadOut) : Bool :=
  r.op == q.op && r.dest == q.pkt.key.dest && (match q.pkt.body with
    | .read reader _ => r.reader == reader
    | _ => false)

/-- The lanes that a packet reads. -/
def OutPacket.lanesRead (q : OutPacket) : Nat :=
  match q.pkt.body with
  | .read _ es => es.length
  | _ => 0

/-- The reads of a packet have been refused (R276). -/
def Chan.readsRefused (c : Chan) (q : OutPacket) : Chan := c.lessReads q.readsOf q.lanesRead

/-- Is a packet still to be sent: it has not been, or was refused with MOVED (R320)? -/
def OutPacket.undone (q : OutPacket) : Bool := q.sentAt.isNone || q.moved

/-- The packets of a channel that have not been sent. -/
def Chan.unsent (ch : Chan) : List OutPacket := ch.streams.flatMap (fun st => st.pkts.filter OutPacket.undone)

/-- What an aborted team's unsent reads land. -/
def Team.refusedReads (t : Team) : List NetMsg :=
  t.chans.flatMap (fun e => (e.2.unsent.filter (fun q => q.req.isNone)).flatMap (fun q => packetReads q.pkt))

/-- Drop the packets of a channel that have not been sent (R62, R312). -/
def Chan.dropUnsent (ch : Chan) : Chan :=
  { ch with streams := ch.streams.map (fun st => { st with pkts := st.pkts.filter (fun q => !q.undone) }) }

/-- Refuse the packets of an aborted team's channel that have not been sent: its reads are no longer out (R62, R276). -/
def Chan.abandoned (ch : Chan) : Chan := ch.unsent.foldl Chan.readsRefused ch.dropUnsent

/-- End a team of an aborted grid: contributions not yet merged are not applied. -/
def Team.aborted (t : Team) : Team :=
  { t with state := .ended, shadows := [], items := [], chans := t.chans.map (fun _ ch => ch.abandoned) }

/-- An RDMA READ of the host region of a context (R434). -/
def State.readRegion (s : State) (ctx a n : Nat) : State :=
  let r := ((s.context ctx).region).getD ⟨0, 0, 0, 0⟩
  { s with hostOut := s.hostOut ++ [.regionRead r.qp r.rkey a n] }

/-- Has a lane of a COLL still work to do? -/
def Coll.inProgress (k : Coll) : Bool := k.cause == 0 && k.lanes.any (fun l => !l.done && l.cause == 0)

/-- A COLL.ar of an aborted grid or a stopped context that is in progress ends at once with cause 1 (R401). -/
def Coll.memberAborted (k : Coll) : Coll :=
  match k.mode with
  | .ar _ _ _ _ => if k.inProgress then { k with cause := 1 } else k
  | _ => k

/-- The body of a recovery notice: the error word and the trap's PC and address (R483). -/
def recoveryBody (word : Nat) (t : Option TrapRec) : List Byte :=
  let r := t.getD { code := 0 }
  le 8 word ++ le 8 r.pc ++ le 8 r.addr

/-- Abort a grid at once (R62, R447): every course of it stops issuing, its operations not yet sent are dropped, and its teams
end; the error word follows when it has drained.
(Log 59, DEDUCED.) -/
def State.abortNow (s : State) (g cause : Nat) (t : Option TrapRec) : State :=
  let x := s.grid g
  if x.abort.isSome || x.done then s
  else
    let s := s.setGrid g { x with abort := some ⟨cause, t⟩ }
    let mine := fun (h : Nat) => decide ((s.team (s.course h).team).grid = g)
    let s := { s with
      colls := s.colls.map (fun _ k => if mine k.crs then k.memberAborted else k)
      net := s.net ++ s.teams.flatMap (fun (e : Nat × Team) => if e.2.grid = g ∧ e.2.state ≠ TeamState.freed then e.2.refusedReads else [])
      tldReqs := s.tldReqs.filter (fun (e : Nat × TldReq) => decide ((s.team e.2.team).grid ≠ g))
      courses := s.courses.map (fun h c => if mine h then c.aborted else c)
      cores := s.cores.map (fun _ k => { k with bank := k.bank.filter (fun h => !mine h) })
      teams := s.teams.map (fun _ t => if t.grid = g ∧ t.state ≠ TeamState.freed then t.aborted else t) }
    s.serveCores (s.teams.keys (fun _ t => t.grid == g))

/-- A grid is to be aborted. With duty 4 host-assisted the agent is asked first, and until it answers no course of the grid
issues (R469); a stop of the context is the host's own.
(Log 97, DEDUCED.) -/
def State.abortGrid (s : State) (g cause : Nat) (t : Option TrapRec) : State :=
  let x := s.grid g
  if x.abort.isSome || x.done then s
  else if (s.context x.ctx).duty.testBit 4 && 0x0100 ≤ cause then
    if s.asksOf g then s
    else s.ask 0x8003 x.ctx (.recovery g cause t) (recoveryBody (errorWord x.recNo cause) t)
  else s.abortNow g cause t

/-- The handler bank as a trap sets it (R439). -/
def TrapRec.bank (t : TrapRec) : Tab SCell :=
  [(0, ⟨t.causeWord, false⟩), (1, ⟨t.laneWord, false⟩), (2, ⟨regPart t.pc 0, false⟩), (3, ⟨regPart t.pc 1, false⟩),
   (4, ⟨regPart t.addr 0, false⟩), (5, ⟨regPart t.addr 1, false⟩), (6, ⟨wd t.info, false⟩), (7, ⟨t.mask, false⟩),
   (8, ⟨regPart t.aux 0, false⟩), (9, ⟨regPart t.aux 1, false⟩)]

/-- Send a trap to the host-assisted path (R446, R483). -/
def State.escalate (s : State) (crs slot : Nat) (t : TrapRec) : State :=
  let ctx := s.ctxOf (s.course crs)
  let s := s.onCourse crs (fun c => c.onSlot slot (fun x => { x with wait := .escalated t none, stalled := false }))
  s.ask 0x8002 ctx (.firstTouch crs slot)
    (le 8 t.pc ++ le 8 t.addr ++ le 4 t.causeWord.toNat ++ le 4 t.mask.toNat ++ le 4 t.info)

/-- Some other slot of the core trapped earlier and waits for the bank (R438). -/
def State.trapAhead (s : State) (core turn : Nat) : Bool :=
  s.courses.any (fun _ c => c.core == core && (s.team c.team).state == .running &&
    [c.slot0, c.slot1].any (fun x =>
      match x.wait with
      | .trap t n => n < turn && !t.inSup
      | _ => false))

/-- TAKING A TRAP (R438): abort in supervisor mode, escalate, abort without a handler, or enter the handler once the
core's bank is free. On entry the record and the bank are set (R439, R441), the slot's PC is the handler address and
its mask the trap's MASK. Until the bank is free nothing changes. -/
def State.takeTrap (s : State) (crs slot : Nat) (t : TrapRec) (turn : Nat) : State :=
  let c := s.course crs
  let g := (s.team c.team).grid
  let gr := s.grid g
  if t.inSup then s.abortGrid g (0x0100 + t.code) (some t)
  else if t.code = 0x06 ∧ (s.context gr.ctx).duty.testBit 1 then s.escalate crs slot t
  else if gr.lr.handler = 0 then s.abortGrid g (0x0100 + t.code) (some t)
  else if (s.core c.core).bank.isSome || c.sup.isSome || !c.notBarred slot || s.trapAhead c.core turn then s
  else
    let x := c.slotN slot
    let c := { c with sup := some ⟨t, slot, x.mask, [], t.bank⟩, reenter := none }
    let c := c.setSlot slot { x with pc := gr.lr.handler, mask := t.mask &&& c.live, wait := .none, urgent := false }
    (s.setCourse crs c).onCore c.core (fun k => { k with bank := some crs })

/-- A word issued in supervisor mode has lost its registers. -/
def Pend.orphaned (p : Pend) : Pend := { p with orphan := p.orphan || p.sup }

/-- Does a fixed-ALU write go to the handler bank? -/
def AluDst.inBank (d : AluDst) : Bool :=
  match d with
  | .lane sp _ _ _ _ => sp
  | .unif sp _ _ _ => sp
  | _ => false

/-- A course gives up the handler bank: what is on its way to a register of the bank is lost (R439, R446). -/
def Course.leaveBank (c : Course) : Course :=
  { c with sup := none, pend := c.pend.map Pend.orphaned, alu := c.alu.filter (fun w => !w.dst.inBank) }

/-- Leave supervisor mode: the bank is free, and the slot has its own mask, less the lanes retired since (R446). -/
def State.leaveSup (s : State) (crs : Nat) (pc : Nat) : State :=
  let c := s.course crs
  match c.sup with
  | none => s
  | some u =>
    let x := c.slotN u.slot
    let c := c.leaveBank.setSlot u.slot { x with pc := pc, mask := u.slotMask &&& c.live, wait := .none }
    (s.setCourse crs c).onCore c.core (fun k => { k with bank := if k.bank = some crs then none else k.bank })

/-- RETURN FROM A TRAP (R446): to RESUME, or an abort where RESUME is misaligned or out of range. -/
def State.sretTo (s : State) (crs : Nat) : State :=
  let c := s.course crs
  match c.sup with
  | none => s
  | some u =>
    let p := u.trap.resume
    let g := (s.team c.team).grid
    if p % 8 ≠ 0 then s.abortGrid g 0x0108 (some u.trap)
    else if Config.addrLimit ≤ p then s.abortGrid g 0x0105 (some u.trap)
    else s.leaveSup crs p

end Sys2Proof.Machine
end

