-- ==== Sys2Proof/Machine/Flags.lean ====
section
/-! DEFINITION. FLG and CTL: which flags a word sets, which of them trap, and which words hold later issue
(R154–R157, R440). -/

namespace Sys2Proof.Machine

/-- The bits of FLG that exist (R154). -/
def flgMask : Word := 0x1FF#32
/-- The bits of CTL that exist (R155). -/
def ctlMask : Word := 0x101FF#32

/-- The trap enables TE of CTL (R155). -/
def Course.te (c : Course) : Word := c.ctl &&& flgMask

/-- FTZ as a word reads it: 0 in supervisor mode (R155, R440). -/
def Course.ftz (c : Course) (sup : Bool) : Bool := !sup && c.ctl.getLsbD 16

/-- The flags that a word sets: none in supervisor mode (R440). -/
def wordFlags (sup : Bool) (fl : Word) : Word := if sup then 0#32 else fl &&& flgMask

/-- OR flags into FLG. -/
def Course.orFlags (c : Course) (fl : Word) : Course := { c with flg := c.flg ||| fl }

/-- Does a word that set these flags raise ARITH (R156)? -/
def Course.trapsOn (c : Course) (fl : Word) : Bool := fl &&& c.te != 0#32

/-- The record of an ARITH trap: it is taken after the word and lists the flags that the word set (R156, R442). -/
def arithTrap (pc : Nat) (act : LaneMask) (fl : Word) : TrapRec :=
  { code := 0x0A, after := true, pc := pc, info := fl.toNat, mask := act, resume := pc + 8 }

/-- Does anything in flight hold the course's issue: a word, a copy or a matrix word that can set a flag which TE enables
now (R157, R351, R380)?
(Log 92, DESIGN CHOICE.) -/
def Course.held (c : Course) : Bool := c.holds.any (fun k => c.trapsOn k.2) || c.pend.any (fun p => c.trapsOn p.may)

/-- Do earlier words still have flags to OR in, so that SRD and SWR of FLG wait (R159)? The team's copies and operand
queues are asked by the caller. -/
def Course.flagsInFlight (c : Course) : Bool :=
  c.alu.any (fun w => match w.dst with | .flags _ => true | _ => false) || c.pend.any (fun p => p.may != 0#32)

end Sys2Proof.Machine
end

