-- ==== Sys2Proof/Machine/Operands.lean ====
section
/-! DEFINITION. Operands: which registers the fields of a word name, the check of order 4 of R86, the values that
sources have in a lane, and where results go (R71–R78, R83–R85, R152, R160). -/

namespace Sys2Proof.Machine

/-- The word at issue: its course and slot, its head, whether it issues in supervisor mode, Active() (R11) and its PC. -/
structure Ctx where
  crs : Nat
  j : Nat
  h : Head
  sup : Bool
  act : LaneMask
  pc : Nat
  /-- FTZ as the word reads it. -/
  ftz : Bool
  deriving DecidableEq, Repr

/-! ## What a field names -/

/-- What a used field of a word stands for. -/
inductive Field where
  /-- A source of format R that spans w registers and permits some kinds (R71, R75). -/
  | src (o : Operand) (w : Nat) (ks : List Kind)
  /-- Lane registers read in the lanes of Active(): a base or store data of format M, a register of format I or B. -/
  | laneS (n w : Nat)
  | unifS (n w : Nat)
  /-- Lane registers written in the lanes of Active(). -/
  | laneD (n w : Nat)
  | unifD (n w : Nat)
  /-- Lane registers read in every lane of a mask of their own (SHFL, MMA). -/
  | laneIn (n w : Nat) (m : LaneMask)
  /-- A mask register as a source of format R, whose kind is 0. -/
  | maskS (o : Operand)
  /-- A mask register by its number. -/
  | maskN (n : Nat)
  /-- A distribution register as a source, and as a destination (R228, R233). -/
  | distS (o : Operand)
  | distD (n : Nat)
  /-- A channel (R85), a run of accumulator tiles. -/
  | chan (n : Nat)
  | tiles (n k : Nat)
  /-- A lane register or a uniform register of the course, in a handler word (R443). -/
  | courseLane (o : Operand)
  | courseUnif (o : Operand)
  /-- A limit of its own. -/
  | lim (ok : Bool)
  deriving DecidableEq, Repr

/-- What the check of operands needs to know of the course (R77, R78, R85). -/
structure Limits where
  sup : Bool
  base : Nat
  blocks : Nat
  dregs : Nat
  tiles : Nat
  chans : Nat
  deriving DecidableEq, Repr

/-- The limits of a course. -/
def State.limits (s : State) (c : Course) (sup : Bool) : Limits :=
  let r := s.lrOf c
  ⟨sup, r.base, c.blocks, r.dregs, 4 * r.tiles, r.chans⟩

/-- Is a lane register of the course allotted: in the base window or in a block that the course holds (R77, R142)? -/
def Limits.window (e : Limits) (n : Nat) : Bool :=
  n < e.base || (128 ≤ n && n < 256 && e.blocks.testBit ((n - 128) / 32))

/-- Do w lane registers from n form an aligned group that exists for the word (R75, R77, R78, R83)? -/
def Limits.laneOk (e : Limits) (n w : Nat) : Bool :=
  n % w == 0 && (if e.sup then n + w ≤ 16 else (List.range w).all (fun i => e.window (n + i)))

/-- Do w uniform registers from n form an aligned group that exists for the word (R75, R77, R78)? -/
def Limits.unifOk (e : Limits) (n w : Nat) : Bool :=
  n % w == 0 && (if e.sup then n + w ≤ 16 else n + w ≤ 160)

/-- Does a field pass the check of order 4 of R86? -/
def Field.ok (e : Limits) : Field → Bool
  | .src o w ks =>
    ks.contains o.kind &&
      (match o.kind with
        | .lane => e.laneOk o.field.toNat w
        | .unif => e.unifOk o.field.toNat w
        | .imm => true
        | .special => o.field.toNat ≤ 15 && (w == 1 || o.field.toNat == 12))
  | .laneS n w | .laneD n w | .laneIn n w _ => e.laneOk n w
  | .unifS n w | .unifD n w => e.unifOk n w
  | .maskS o => o.kind == .lane && o.field.toNat < 8
  | .maskN n => n < 8
  | .distS o => o.kind == .lane && o.field.toNat < e.dregs
  | .distD n => n < e.dregs
  | .chan n => n < e.chans
  | .tiles n k => n + k ≤ e.tiles
  | .courseLane o => o.kind == .lane && e.window o.field.toNat
  | .courseUnif o => o.kind == .unif && o.field.toNat < 160
  | .lim ok => ok

/-- The lane registers that a field reads, and in which lanes. -/
def Field.laneReads (act : LaneMask) : Field → List (Nat × LaneMask)
  | .src o w _ => if o.kind = .lane then (List.range w).map (fun i => (o.field.toNat + i, act)) else []
  | .laneS n w => (List.range w).map (fun i => (n + i, act))
  | .laneIn n w m => (List.range w).map (fun i => (n + i, m))
  | _ => []

/-- The uniform registers that a field reads. -/
def Field.unifReads : Field → List Nat
  | .src o w _ => if o.kind = .unif then (List.range w).map (fun i => o.field.toNat + i) else []
  | .unifS n w => (List.range w).map (fun i => n + i)
  | _ => []

/-- The distribution register that a field reads. -/
def Field.distReads : Field → List Nat
  | .distS o => [o.field.toNat]
  | _ => []

/-- The registers that a field writes, as names within the word's own files. -/
def Field.writes (sup : Bool) : Field → List RegId
  | .laneD n w => (List.range w).map (fun i => ⟨sup, true, n + i⟩)
  | .unifD n w => (List.range w).map (fun i => ⟨sup, false, n + i⟩)
  | _ => []

end Sys2Proof.Machine

namespace Sys2Proof

open Machine (Field)

/-! ## The fields of each instruction -/

/-- The kinds that a source permits: any in the lane form, no lane register in the uniform form (R73). -/
def kindsOf (u : Bool) : List Kind := if u then [.unif, .imm, .special] else [.lane, .unif, .imm, .special]

/-- A single-register source. -/
def RWord.src1 (r : RWord) (o : Operand) : Field := .src o 1 (kindsOf r.u)
/-- A pair source. -/
def RWord.src2 (r : RWord) (o : Operand) : Field := .src o 2 (kindsOf r.u)
/-- The destination D: w lane registers, or w uniform registers in the uniform form. -/
def RWord.dst (r : RWord) (w : Nat) : Field := if r.u then .unifD r.d.toNat w else .laneD r.d.toNat w

/-- A uniform register only. -/
def Operand.unifOnly (o : Operand) (w : Nat) : Field := .src o w [.unif]
/-- A lane register only. -/
def Operand.laneOnly (o : Operand) (w : Nat) : Field := .src o w [.lane]
/-- A uniform register or an immediate from lo to hi. -/
def Operand.unifImm (o : Operand) (lo hi : Int) : List Field :=
  [.src o 1 [.unif, .imm], .lim (o.kind != .imm || (lo ≤ signExt o.field.toNat 8 && signExt o.field.toNat 8 ≤ hi))]
/-- An immediate from lo to hi. -/
def Operand.immOnly (o : Operand) (lo hi : Int) : List Field :=
  [.src o 1 [.imm], .lim (lo ≤ signExt o.field.toNat 8 && signExt o.field.toNat 8 ≤ hi)]

/-- An immediate of kind 2 as an integer (R71). -/
def Operand.immVal (o : Operand) : Int := signExt o.field.toNat 8

end Sys2Proof

namespace Sys2Proof.Machine

/-! ## Values -/

/-- The rank of a team in its cluster (R35). -/
def LaunchRec.rank (r : LaunchRec) (team : Nat) : Nat := team % (r.w * r.h)

/-- A special source for lane L, as 64 bits for %clock (R37, R152, R153). -/
def State.special (s : State) (c : Course) (act : LaneMask) (n L : Nat) : Nat :=
  let t := s.team c.team
  let r := s.lrOf c
  match n with
  | 0 => L
  | 1 => c.idx
  | 2 => t.number
  | 3 => r.rank t.number
  | 4 => c.core
  | 5 => dieOf c.core
  | 6 => s.chip
  | 7 => s.ctxOf c
  | 8 => r.teams
  | 9 => r.courses
  | 10 => r.w
  | 11 => r.h
  | 12 => s.clock % 2 ^ 64
  | 13 => s.clock / 2 ^ 32 % 2 ^ 32
  | 14 => act.toNat
  | 15 => if r.width16 then 16 else 32
  | _ => 0

/-- w lane registers from n in a lane, as one number (R10). -/
def State.laneGroup (s : State) (c : Course) (sup : Bool) (n w L : Nat) : Nat :=
  (List.range w).foldl (fun a i => a + (s.laneVal c sup (n + i) L).toNat * 2 ^ (32 * i)) 0

/-- w uniform registers from n, as one number. -/
def State.unifGroup (s : State) (c : Course) (sup : Bool) (n w : Nat) : Nat :=
  (List.range w).foldl (fun a i => a + (s.unifVal c sup (n + i)).toNat * 2 ^ (32 * i)) 0

/-- The value of a source of w registers in lane L, as an unsigned number of 32 w bits (R71, R75). -/
def State.val (s : State) (x : Ctx) (c : Course) (o : Operand) (w L : Nat) : Nat :=
  match o.kind with
  | .lane => s.laneGroup c x.sup o.field.toNat w L
  | .unif => s.unifGroup c x.sup o.field.toNat w
  | .imm => intBits o.immVal (32 * w)
  | .special => s.special c x.act o.field.toNat L % 2 ^ (32 * w)

/-- A 32-bit source as an integer: signed, or unsigned under .n32 (R160). -/
def State.ival (s : State) (x : Ctx) (c : Course) (o : Operand) (n32 : Bool) (L : Nat) : Int :=
  if n32 then (s.val x c o 1 L : Int) else signExt (s.val x c o 1 L) 32

/-- A uniform source of format R, or an immediate: its 32 bits. -/
def State.uval (s : State) (x : Ctx) (c : Course) (o : Operand) : Nat := s.val x c o 1 0

/-- An FP32 source: an immediate is its integer exactly (R72). -/
def State.fval (s : State) (x : Ctx) (c : Course) (o : Operand) (L : Nat) : Fp :=
  if o.kind = .imm then Fp.ofInt o.immVal else f32 x.ftz (wd (s.val x c o 1 L))

/-- The bits of an FP32 source. -/
def State.fbits (s : State) (x : Ctx) (c : Course) (o : Operand) (L : Nat) : Word :=
  if o.kind = .imm then (rne32 false (Fp.ofInt o.immVal, 0#32)).1 else wd (s.val x c o 1 L)

/-! ## Results -/

/-- The lanes for which a word computes: Active(), or the lowest active lane once in the uniform form (R69, R153). -/
def Ctx.span (x : Ctx) (u : Bool) : List Nat :=
  if u then (if x.act = 0#32 then [] else [lowestLane x.act]) else lanesOf x.act

/-- The results of a word in the lanes that it computes: value of 32 w bits and flags. -/
abbrev Results := List (Nat × Nat × Word)

/-- Compute a word lane by lane.
(Log 88, DEDUCED.) -/
def Ctx.each (x : Ctx) (u : Bool) (f : Nat → Nat × Word) : Results := (x.span u).map (fun L => (L, f L))

/-- The flags of all lanes. -/
def Results.flags (rs : Results) : Word := rs.foldl (fun a e => a ||| e.2.2) 0#32

/-- A fixed-ALU word's writes to w registers from d. -/
def Results.aluWrites (rs : Results) (sup u : Bool) (d w : Nat) : List AluDst :=
  rs.flatMap (fun e => (List.range w).map (fun i =>
    if u then .unif sup (d + i) (regPart e.2.1 i) 0xFFFFFFFF#32
    else .lane sup (d + i) e.1 (regPart e.2.1 i) 0xFFFFFFFF#32))

/-- The values of a variable-latency word, to land in w registers from d. -/
def Results.landings (rs : Results) (sup u : Bool) (d w : Nat) : List Landing :=
  rs.flatMap (fun e => (List.range w).map (fun i =>
    if u then .unif sup (d + i) (regPart e.2.1 i) else .lane sup (d + i) e.1 (regPart e.2.1 i) false))

/-- The registers that a variable-latency word marks empty: w registers from d, in the lanes of Active(). -/
def Ctx.fills (x : Ctx) (u : Bool) (d w : Nat) : List (RegId × LaneMask) :=
  if x.act = 0#32 then []
  else (List.range w).map (fun i => (⟨x.sup, !u, d + i⟩, if u then 0#32 else x.act))

end Sys2Proof.Machine
end

