-- ==== Sys2Proof/Machine/Fields.lean ====
section
/-! DEFINITION. The fields of each instruction: what it reads and writes and the limits of order 4 of R86, from the
operand table of its chapter. -/

namespace Sys2Proof

open Machine (Field)

/-- Registers that a lane's part of an access of a size spans (R83). -/
def Size.regs : Size → Nat
  | .b64 => 2
  | .b128 => 4
  | _ => 1

/-- Bytes of a size (R83). -/
def Size.bytes : Size → Nat
  | .b8 => 1
  | .b16 => 2
  | .b32 => 4
  | .b64 => 8
  | .b128 => 16

/-- The base register of a format-M word, of w registers (R84). -/
def MWord.baseField (m : MWord) (w : Nat) : Field := if m.bk then .unifS m.base.toNat w else .laneS m.base.toNat w

/-- D, A and B of one register each. -/
def RWord.dab1 (r : RWord) : List Field := [r.dst 1, r.src1 r.a, r.src1 r.b]

/-- A source of a class-2 word: no special source (R191). -/
def RWord.fsrc (r : RWord) (o : Operand) (w : Nat) : Field :=
  .src o w (if r.u then [.unif, .imm] else [.lane, .unif, .imm])

/-- The random operand, present only under .rs (R185, R191).
(Log 107, DESIGN CHOICE.) -/
def RWord.rand (r : RWord) (o : Operand) (rnd : Rnd) : List Field :=
  if rnd.isRs then [.src o 1 (if r.u then [.unif] else [.lane, .unif])] else []

/-- A lane or uniform register. -/
def Operand.reg1 (o : Operand) : Field := .src o 1 [.lane, .unif]
/-- A lane register, a uniform register or an immediate. -/
def Operand.reg1Imm (o : Operand) : Field := .src o 1 [.lane, .unif, .imm]
/-- An index 0 to 7: a register, or an immediate in that range (R236). -/
def Operand.index8 (o : Operand) : List Field :=
  [o.reg1Imm, .lim (o.kind != .imm || (0 ≤ o.immVal && o.immVal ≤ 7))]

/-- n lane registers or n uniform registers from the operand's field, without alignment (R235). -/
def Operand.run (o : Operand) (n : Nat) (ks : List Kind) : List Field :=
  .lim (ks.contains o.kind) ::
    (List.range n).map (fun i => if o.kind = .unif then .unifS (o.field.toNat + i) 1 else .laneS (o.field.toNat + i) 1)

/-- A barrier register named by an operand field (R74). -/
def Operand.barrier (o : Operand) (k : Kind) : Field := .lim (o.kind == k && o.field.toNat < 16)

/-- The fields of the control words (R125–R137, R146) and of LAUNCH (R56). -/
def controlFields : Instr → List Field
  | .bra _ (.lane r _) _ => [.laneS r.toNat 1]
  | .bra _ (.unif r _) _ => [.unifS r.toNat 1]
  | .bra _ (.mask m _) _ => [.maskN m.toNat]
  | .brx r | .ret r => [.src r.a 2 [.lane, .unif]]
  | .call _ u a _ => [if u then .unifD a.toNat 2 else .laneD a.toNat 2]
  | .ipf _ (some b) _ _ => [.unifS b.toNat 2]
  | .refill r => [.laneD r.d.toNat 1, .maskS r.a, .lim (r.a.field != 0#8)]
  | .ipush r => [.unifD r.d.toNat 1, r.a.laneOnly 1]
  | .vacq r | .vrel r => r.a.immOnly 1 15
  | .vacqNb r => .unifD r.d.toNat 1 :: r.a.immOnly 1 15
  | .launch r => [.unifD r.d.toNat 1, r.a.unifOnly 2] ++ r.b.unifImm 0 63
  | .barinit r => r.a.barrier .lane :: r.b.unifImm 1 127
  | .arrive r ph => (if ph then [.unifD r.d.toNat 1] else []) ++ (r.a.barrier .lane :: r.b.unifImm 1 127)
  | .bwait r => [r.a.barrier .lane, .src r.b 1 [.unif, .imm]]
  | .waitc r _ => r.a.unifImm 0 127
  | _ => []

/-- The fields of the integer words (R158–R171). -/
def integerFields : Instr → List Field
  | .iadd r _ _ | .isub r _ _ | .idiv r _ | .irem r _ | .imin r _ | .imax r _ => r.dab1
  | .imul r _ p => [r.dst (if p = .wide then 2 else 1), r.src1 r.a, r.src1 r.b]
  | .imad r _ wide =>
    if wide then [r.dst 2, r.src1 r.a, r.src1 r.b, r.src2 r.c] else [r.dst 1, r.src1 r.a, r.src1 r.b, r.src1 r.c]
  | .iabs r _ | .popc r | .clz r | .brev r => [r.dst 1, r.src1 r.a]
  | .andOp r _ | .orOp r _ | .xorOp r _ | .shl r _ | .shr r _ | .sar r _ | .rot r _ => r.dab1
  | .bfe r _ | .bfi r => r.dab1 ++ [r.src1 r.c]
  | .icmp r _ _ => [if r.u then .unifD r.d.toNat 1 else .maskN r.d.toNat, r.src1 r.a, r.src1 r.b]
  | .sel r => r.dab1 ++ [if r.u then .src r.c 1 [.unif, .imm] else .maskS r.c]
  | .mov r => [r.dst 1, .src r.a 1 [.lane, .unif, .imm, .special]]
  | .movi k ext =>
    let w := if ext = .w32 then 1 else 2
    [if k.u then .unifD k.d.toNat w else .laneD k.d.toNat w]
  | .iadd64 r _ ext =>
    [r.dst 2, r.src2 r.a,
     if ext = .pair then r.src2 r.b else .src r.b 1 (if r.u then [.unif, .imm] else [.lane, .unif, .imm])]
  | .lea r _ => [r.dst 2, r.src2 r.a, r.src1 r.b] ++ r.c.immOnly 0 16
  | .mlopAnd r | .mlopOr r | .mlopXor r | .mlopAndn r | .mlopOrn r => [.maskN r.d.toNat, .maskS r.a, .maskS r.b]
  | .mlopNot r | .mlopMov r => [.maskN r.d.toNat, .maskS r.a]
  | .mlopFroms r => [.maskN r.d.toNat, r.a.unifOnly 1]
  | .mlopTos r => [.unifD r.d.toNat 1, .maskS r.a]
  | .mlopAct r => [.maskN r.d.toNat]
  | .srd r =>
    .unifD r.d.toNat 1 :: .lim ([0, 1, 2, 3, 8, 9, 10, 11, 12, 13, 14, 15].contains r.a.immVal) :: r.a.immOnly 0 127
  | .swr r | .swrSet r | .swrClr r =>
    [.lim ([0, 1, 8, 9, 10, 11, 12, 13, 14, 15].contains r.d.toNat), .src r.a 1 [.unif, .imm]]
  | .iaddi w wide =>
    let n := if wide then 2 else 1
    if w.u then [.unifD w.d.toNat n, .unifS w.a.toNat n] else [.laneD w.d.toNat n, .laneS w.a.toNat n]
  | _ => []

/-- Registers that a type code of CVT spans (R198). -/
def cvtRegs (code : Nat) : Nat := if code = 7 then 2 else 1

/-- The fields of the vector words (R191, R192, R198). -/
def vectorFields : Instr → List Field
  | .fadd r rnd _ | .fsub r rnd _ | .fmul r rnd _ => [r.dst 1, r.fsrc r.a 1, r.fsrc r.b 1] ++ r.rand r.c rnd
  | .hadd2 r rnd _ _ _ | .hmul2 r rnd _ _ _ => [r.dst 1, r.fsrc r.a 1, r.fsrc r.b 1] ++ r.rand r.c rnd
  | .ffma r _ _ | .hfma2 r _ _ _ _ => [r.dst 1, r.fsrc r.a 1, r.fsrc r.b 1, r.fsrc r.c 1]
  | .fmin r _ | .fmax r _ | .hmnx2 r _ _ _ _ | .fdiv r _ | .fscl r _ _ => [r.dst 1, r.fsrc r.a 1, r.fsrc r.b 1]
  | .fcmp r _ => [if r.u then .unifD r.d.toNat 1 else .maskN r.d.toNat, r.fsrc r.a 1, r.fsrc r.b 1]
  | .fcls r | .fsqrt r _ | .rcp r | .rsq r | .ex2 r | .lg2 r | .sin r | .cos r | .tanh r => [r.dst 1, r.fsrc r.a 1]
  | .frnd r rnd => [r.dst 1, r.fsrc r.a 1] ++ r.rand r.b rnd
  | .cvt r rnd _ =>
    [.src r.c 1 [.imm], r.dst (cvtRegs (r.c.field.toNat % 16)), r.fsrc r.a (cvtRegs (r.c.field.toNat / 16))] ++
      r.rand r.b rnd
  | _ => []

/-- The fields of the crossbar words (R209). SHFL looks at its source itself, in the lanes that it reads (R208). -/
def crossbarFields : Instr → List Field
  | .shfl r _ _ =>
    [.laneD r.d.toNat 1, .lim (r.a.kind == .lane), .laneIn r.a.field.toNat 1 0#32, r.b.reg1Imm]
  | .vote r mode => [.unifD r.d.toNat 1, if mode = .same then r.a.laneOnly 1 else .maskS r.a]
  | .redux r _ idx _ => [r.dst (if idx then 2 else 1), r.a.laneOnly 1]
  | .scan r _ _ _ | .hdm r _ _ | .qmax r _ _ | .pack r _ | .unpack r _ _ => [.laneD r.d.toNat 1, r.a.laneOnly 1]
  | .qscale r _ _ => [r.dst 1, if r.u then r.a.unifOnly 1 else r.a.laneOnly 1]
  | .qnt r rnd _ _ => [.laneD r.d.toNat 1, r.a.reg1, r.b.reg1] ++ r.rand r.c rnd
  | .deq r _ _ => [.laneD r.d.toNat 1, r.a.reg1, r.b.reg1]
  | _ => []

/-- The fields of the distribution words (R231). -/
def distributionFields : Instr → List Field
  | .dmk r eq =>
    .distD r.d.toNat :: (r.a.run 8 [.lane] ++ (if eq then [] else r.b.run 4 [.lane, .unif]))
  | .dget r _ => [.laneD r.d.toNat 1, .distS r.a] ++ r.b.index8
  | .dset r => [.distD r.d.toNat, .distS r.a, r.b.reg1Imm] ++ r.c.index8
  | .dadd r | .dsub r | .dmul r | .dmin r | .dmax r | .dtagCopy r => [.distD r.d.toNat, .distS r.a, .distS r.b]
  | .dmap r _ | .dcond r | .dtagNew r => [.distD r.d.toNat, .distS r.a]
  | .daff r => [.distD r.d.toNat, .distS r.a, r.b.reg1Imm, r.c.reg1Imm]
  | .dmix r => [.distD r.d.toNat, .distS r.a, .distS r.b, r.c.reg1]
  | .dmom r _ | .dtagRead r => [.laneD r.d.toNat 1, .distS r.a]
  | .dqtl r _ | .dcdf r _ => [.laneD r.d.toNat 1, .distS r.a, r.b.reg1]
  | _ => []

/-- Registers of DS that an atomic operation reads: its operand, or the two of .cas (R260). -/
def AtomOp.regs (op : AtomOp) (sz : Size) : Nat := if op = .cas then 2 * sz.regs else sz.regs

/-- The fields of the local-memory words (R256, R260). -/
def localFields : Instr → List Field
  | .lds m _ | .ldx m | .ldk m => [.laneD m.ds.toNat m.size.regs, m.baseField 1]
  | .sts m _ | .stx m | .stk m => [.laneS m.ds.toNat m.size.regs, m.baseField 1]
  | .atoms m op _ | .atomx m op =>
    [.laneD m.ds.toNat m.size.regs, .laneS m.ds.toNat (op.regs m.size), m.baseField 1]
  | .ldsf m _ => [.laneD m.ds.toNat 8, m.baseField 1]
  | _ => []

/-- The fields of the ticket words (R272). -/
def ticketFields : Instr → List Field
  | .tld m _ => [.unifD m.ds.toNat 2, m.baseField 2, .chan m.ch.toNat]
  | .redeem r w => [.laneD r.d.toNat (match w with | .b32 => 1 | .b64 => 2 | .b128 => 4), r.a.unifOnly 2]
  | .redeemSh r => [r.a.unifOnly 2, r.b.unifOnly 1]
  | .tdrop r => [r.a.unifOnly 2]
  | .tqry r => [.unifD r.d.toNat 1, r.a.unifOnly 2]
  | .tqryLive r => [.unifD r.d.toNat 1, .lim (r.a.kind == .lane)]
  | _ => []

/-- A channel named by the A field of a format-R word (R74, R298). -/
def RWord.chanA (r : RWord) : List Field := [.lim (r.a.kind == .lane), .chan r.a.field.toNat]

/-- The fields of the channel words (R298) and of the fabric words (R395, R396, R405, R410, R411). -/
def channelFields : Instr → List Field
  | .stg m _ _ | .redg m _ _ _ | .redgSh m _ => [.laneS m.ds.toNat m.size.regs, m.baseField 2, .chan m.ch.toNat]
  | .atomg m op _ _ =>
    [.laneD m.ds.toNat m.size.regs, .laneS m.ds.toNat (op.regs m.size), m.baseField 2, .chan m.ch.toNat]
  | .cjoin r => r.chanA ++ [.src r.b 1 [.unif, .imm]]
  | .cdrain r _ _ => [.src r.a 1 [.unif, .imm]]
  | .creset r => r.chanA
  | .cstat r | .cstatWhere r => .unifD r.d.toNat 1 :: r.chanA
  | .cstatAddr r => .unifD r.d.toNat 2 :: r.chanA
  | .evwait r => r.a.unifImm 0 127 ++ [r.b.unifOnly 2]
  | .evwaitRd r => .unifD r.d.toNat 2 :: r.a.unifImm 0 127
  | .evadd r => r.a.unifImm 0 127 ++ [.src r.b 1 [.unif, .imm]]
  | .locq r => [r.dst 1, .src r.a 2 (if r.u then [.unif] else [.lane, .unif])]
  | .csig r => .unifD r.d.toNat 2 :: r.a.unifImm 0 127
  | .collPut r ntf => [.unifD r.d.toNat 2, r.a.laneOnly 8] ++ (if ntf then r.c.unifImm 0 127 else [])
  | .collGet r => [.unifD r.d.toNat 2, r.a.laneOnly 8]
  | .collAr r _ _ => [.unifD r.d.toNat 2, r.a.laneOnly 8] ++ r.b.unifImm 0 127
  | .xsend r => [.laneD r.d.toNat 1, r.a.laneOnly 8, r.b.unifOnly 1]
  | .xrecv r => .unifD r.d.toNat 2 :: (r.a.unifImm 0 127 ++ r.b.unifImm 1 127)
  | .xrecvFree r => .unifD r.d.toNat 1 :: (r.a.unifImm 0 127 ++ r.b.unifImm 1 127)
  | .xrecvCfg r => .unifD r.d.toNat 1 :: (r.a.unifImm 0 127 ++ [r.b.unifOnly 4])
  | .xrecvStat r => .unifD r.d.toNat 2 :: r.a.unifImm 0 127
  | .dbarArr r => .unifD r.d.toNat 1 :: r.a.unifImm 0 63
  | .dbarWait r => r.a.unifImm 0 63 ++ [.src r.b 1 [.unif, .imm]]
  | _ => []

/-- A channel named by the B field of a copy word (R352, R354). -/
def RWord.chanB (r : RWord) : List Field := [.lim (r.b.kind == .imm), .chan r.b.field.toNat]

/-- Registers of one address of CPY: a pair for main memory, one register for a local memory (R352). -/
def CpyDir.widths : CpyDir → Nat × Nat
  | .g2s | .g2x => (2, 1)
  | .s2g | .x2g => (1, 2)
  | .g2g => (2, 2)

/-- The tile base and the two fragments of a matrix word (R375). The word looks at its sources itself, in the lanes that
it reads (R376). -/
def RWord.fragments (r : RWord) : List Field :=
  [.lim (r.d.toNat % 4 == 0), .lim (r.a.kind == .lane), .lim (r.b.kind == .lane), .laneIn r.a.field.toNat 8 0#32,
    .laneIn r.b.field.toNat 8 0#32]

/-- The fields of the transfer unit's and the matrix unit's words (R352, R354, R375).
(Log 126, DESIGN CHOICE.) -/
def engineFields : Instr → List Field
  | .cpy r dir _ bar =>
    [r.a.laneOnly (CpyDir.widths dir).1, .laneS r.d.toNat (CpyDir.widths dir).2] ++ r.chanB ++
      (if bar then [r.c.barrier .imm] else [])
  | .tcpy r _ _ bar _ _ => [r.a.unifOnly 8] ++ r.chanB ++ (if bar then [r.c.barrier .imm] else [])
  | .mma r _ _ _ => .tiles r.d.toNat 4 :: r.fragments
  | .mmas r _ _ _ => .tiles r.d.toNat 4 :: r.fragments ++ [.lim (r.c.kind == .lane), .laneIn r.c.field.toNat 1 0#32]
  | .accz r => .tiles r.d.toNat 1 :: r.a.immOnly 1 127
  | .accld m | .accst m => [.tiles m.ds.toNat 1, .unifS m.base.toNat 1]
  | .accrd r => [.laneD r.d.toNat 8, .lim (r.a.kind == .lane), .tiles r.a.field.toNat 1]
  | _ => []

/-- The die, the tier and .any that a PGMAP placement names: none of the values that R424 excludes. -/
def placementOk (p : Nat) : Bool := p < 64 && (p % 16 < 8 || p % 16 == 15)

/-- The fields of the handler words (R424, R443). An immediate placement or count outside its limits fails with the other
operands (R86, order 4); a register's value is looked at by the word. -/
def systemFields : Instr → List Field
  | .trap r => r.a.unifImm 0 127
  | .sysrd r => .unifD r.d.toNat 1 :: r.a.immOnly 0 13
  | .sysrdV r => [.laneD r.d.toNat 1, .courseLane r.c]
  | .sysrdS r => [.unifD r.d.toNat 1, .courseUnif r.c]
  | .sysrdPm r => [.unifD r.d.toNat 1, .courseLane r.c]
  | .syswr r => [.lim ([8, 9, 12, 13].contains r.d.toNat), .src r.a 1 [.unif, .imm]]
  | .syswrV r => [r.a.laneOnly 1, .courseLane r.c]
  | .syswrS r => [r.a.unifOnly 1, .courseUnif r.c]
  | .tlbinvPg r => [r.a.unifOnly 2]
  | .pgmap r =>
    [.unifD r.d.toNat 1, r.a.unifOnly 2, .src r.b 1 [.unif, .imm],
      .lim (r.b.kind != .imm || placementOk (intBits r.b.immVal 32))]
  | .pgprot r => [.unifD r.d.toNat 1, r.a.unifOnly 2, .src r.b 1 [.unif, .imm]]
  | .cinv r => r.a.unifOnly 2 :: r.b.unifImm 1 127
  | _ => []

/-- The fields of an instruction, by the class of its opcode (R88). A step has none. -/
def Instr.fields (i : Instr) : List Field :=
  match i.opcode / 32 with
  | 0 => controlFields i
  | 1 => integerFields i
  | 2 => vectorFields i
  | 3 => crossbarFields i
  | 4 => localFields i ++ ticketFields i
  | 5 => channelFields i
  | 6 => engineFields i ++ distributionFields i
  | 7 => systemFields i
  | _ => []

/-- Does the instruction place the check of poison among its own checks (R208, R300, R353, R376, R399, R406)? -/
def Instr.ownPoison : Instr → Bool
  | .shfl .. | .stg .. | .atomg .. | .redg .. | .redgSh .. | .cpy .. | .mma .. | .mmas .. | .collPut .. | .collGet ..
  | .collAr .. | .xsend .. => true
  | _ => false

end Sys2Proof
end

