-- ==== Sys2Proof/Machine/Translate.lean ====
section
/-! DEFINITION. Page tables, walks and the choice of a translation; the checks of the pages that a word names
(R415–R423, R434, R501). -/

namespace Sys2Proof.Machine

/-! ## Entries (R416–R418) -/

/-- TYPE of an entry. -/
def entryType (e : Nat) : Nat := bitsOf e 1 0
/-- DIE of an entry. -/
def leafDie (e : Nat) : Nat := bitsOf e 44 42
/-- TIER of an entry: 0 bonded, 1 outer. -/
def leafTier (e : Nat) : Nat := bitsOf e 41 41
/-- FRAME of a leaf or block. -/
def leafFrame (e : Nat) : Nat := bitsOf e 40 20
/-- CHIP of a leaf or block. -/
def leafChip (e : Nat) : Nat := bitsOf e 54 45
/-- HOST of a leaf: the bytes lie in the host region. -/
def leafHost (e : Nat) : Bool := e.testBit 55
/-- CH, the contiguous hint. -/
def leafCh (e : Nat) : Bool := e.testBit 58
/-- HS, host-shared. -/
def leafHs (e : Nat) : Bool := e.testBit 59
/-- DW, the domain window. -/
def leafDw (e : Nat) : Bool := e.testBit 60
/-- LOST. -/
def leafLost (e : Nat) : Bool := e.testBit 61
/-- MIG. -/
def leafMig (e : Nat) : Bool := e.testBit 62
/-- The permissions: bit 0 R, bit 1 W, bit 2 X. -/
def leafPerm (e : Nat) : Nat := bitsOf e 5 3

/-- Bytes of a tier of one die (R16). -/
def tierBytes (tier : Nat) : Nat := if tier = 0 then Config.bondedBytes else Config.outerBytes
/-- The physical address of the table that a table entry or a root entry names (R416). -/
def tableAddr (e : Nat) : Nat := physAddr (leafDie e) (leafTier e) (bitsOf e 40 15 * 2 ^ 15)
/-- Is a table entry or a root entry well formed (R418)? -/
def tableOk (e : Nat) : Bool :=
  entryType e == 1 && bitsOf e 63 45 == 0 && bitsOf e 14 2 == 0 && (bitsOf e 40 15 + 1) * 2 ^ 15 ≤ tierBytes (leafTier e)

/-- The number of a frame in the package: its physical address in units of 64 KiB. -/
def frameNo (die tier n : Nat) : Nat := physAddr die tier (n * 2 ^ 16) / 2 ^ 16
/-- The frame that a leaf maps. -/
def leafFrameNo (e : Nat) : Nat := frameNo (leafDie e) (leafTier e) (leafFrame e)

/-- Frames of the package that hold authorised code of any context (R461). -/
def State.codeFrames (s : State) : List Nat := s.contexts.flatMap (fun c => c.2.objects.flatMap (fun o => o.frames))
/-- Frames that hold authorised code of one context. -/
def State.ownCode (s : State) (ctx : Nat) : List Nat := (s.context ctx).objects.flatMap (fun o => o.frames)

/-- Is a leaf (n = 1) or a block (n = 4,096 frames) well formed (R418)? -/
def State.leafOk (s : State) (ctx e n : Nat) : Bool :=
  let here := leafChip e == s.chip && !leafHost e
  let f := leafFrameNo e
  let covers := fun (k : Nat) => here && f ≤ k && k < f + n
  !e.testBit 63 && bitsOf e 57 56 == 0 && bitsOf e 19 6 == 0 && !e.testBit 2 &&
    (if leafHost e then leafHs e && leafDie e == 0 && leafTier e == 0
      else (leafFrame e + n) * 2 ^ 16 ≤ tierBytes (leafTier e)) &&
    leafFrame e % n == 0 &&
    !(e.testBit 4 && s.codeFrames.any covers) &&
    (!e.testBit 5 || (here && (List.range n).all (fun i => (s.ownCode ctx).contains (f + i))))

/-! ## Walks (R415, R421–R423, R428) -/

/-- What a walk finds. -/
inductive WalkRes where
  /-- A valid translation of the page, as a leaf of level 3. -/
  | leaf (e : Nat)
  /-- None: SUB of R442, and the level of the entry at fault. -/
  | fault (sub lvl : Nat)
  /-- The page is being moved: the walk waits (R428). -/
  | wait
  deriving DecidableEq, Repr

/-- One entry, read as one 8-byte word; a poisoned one is malformed (R456). -/
def State.entryAt (s : State) (a : Nat) : Option Nat := if poisonedIn s.poison a 8 then none else some (s.memWord a)

/-- The place of the level-1, level-2 or level-3 entry of an address in its table. -/
def entryOfs (va lvl : Nat) : Nat := 8 * (va / 2 ^ (52 - 12 * lvl) % 4096)

/-- The leaf of a page within a block: the block's bits, and the frame of the page. -/
def blockLeaf (e va : Nat) : Nat := e + va / 2 ^ 16 % 4096 * 2 ^ 20

/-- A level-3 entry (R417, R418). -/
def State.walk3 (s : State) (ctx : Nat) (e : Option Nat) : WalkRes :=
  match e with
  | none => .fault 3 3
  | some e =>
    match entryType e with
    | 0 => if e.testBit 2 then (if e / 64 = 0 then .fault 2 3 else .fault 3 3) else .fault 1 3
    | 2 => if !s.leafOk ctx e 1 then .fault 3 3 else if leafMig e then .wait else .leaf e
    | _ => .fault 3 3

/-- A level-2 entry: a table or a block. -/
def State.walk2 (s : State) (ctx va : Nat) (e : Option Nat) : WalkRes :=
  match e with
  | none => .fault 3 2
  | some e =>
    match entryType e with
    | 0 => .fault 1 2
    | 1 => if tableOk e then s.walk3 ctx (s.entryAt (tableAddr e + entryOfs va 3)) else .fault 3 2
    | 2 => if !s.leafOk ctx e 4096 then .fault 3 2 else if leafMig e then .wait else .leaf (blockLeaf e va)
    | _ => .fault 3 2

/-- A level-1 entry. -/
def State.walk1 (s : State) (ctx va : Nat) (e : Option Nat) : WalkRes :=
  match e with
  | none => .fault 3 1
  | some e =>
    match entryType e with
    | 0 => .fault 1 1
    | 1 => if tableOk e then s.walk2 ctx va (s.entryAt (tableAddr e + entryOfs va 2)) else .fault 3 1
    | _ => .fault 3 1

/-- Walk the tables of a context for a virtual address, as they stand (R415). -/
def State.walk (s : State) (ctx va : Nat) : WalkRes :=
  let root := (s.context ctx).root
  if tableOk root then s.walk1 ctx va (s.entryAt (tableAddr root + entryOfs va 1)) else .fault 3 0

/-- Is the page being moved: walks of it wait (R428)? -/
def State.walkWaits (s : State) (ctx va : Nat) : Bool := s.walk ctx va == .wait

/-- The physical address of the level-3 entry of a page, if a level-3 table covers it. -/
def State.leafEntryAddr (s : State) (ctx va : Nat) : Option Nat :=
  let root := (s.context ctx).root
  let next := fun (t lvl : Nat) =>
    match s.entryAt (t + entryOfs va lvl) with
    | some e => if tableOk e then some (tableAddr e) else none
    | none => none
  if tableOk root then ((next (tableAddr root) 1).bind (fun t => next t 2)).map (fun t => t + entryOfs va 3) else none

/-- The entries of a table that are not zero. -/
def State.usedEntries (s : State) (t : Nat) : List Nat :=
  (s.mem.filter (fun c => t ≤ c.1 && c.1 < t + 2 ^ 15)).foldl (fun l c => insertNat l ((c.1 - t) / 8)) []

/-- What the tables of a context map, ascending: the address, the leaf or block, and its pages (1 or 4,096). -/
def State.mapped (s : State) (ctx : Nat) : List (Nat × Nat × Nat) :=
  let table := fun (t : Nat) (f : Nat → Nat → List (Nat × Nat × Nat)) =>
    (s.usedEntries t).flatMap (fun i => match s.entryAt (t + 8 * i) with
      | some e => f i e
      | none => [])
  let root := (s.context ctx).root
  if !tableOk root then []
  else
    table (tableAddr root) (fun i e1 =>
      if !tableOk e1 then []
      else
        table (tableAddr e1) (fun j e2 =>
          let va := i * 2 ^ 40 + j * 2 ^ 28
          if entryType e2 = 2 then (if s.leafOk ctx e2 4096 then [(va, e2, 4096)] else [])
          else if !tableOk e2 then []
          else
            table (tableAddr e2) (fun k e3 => match s.walk3 ctx (some e3) with
              | .leaf e => [(va + k * 2 ^ 16, e, 1)]
              | _ => [])))

/-! ## The translation that an access uses (R419, R422) -/

/-- The leaves of a 4 MiB range that carry CH = 1, with their places in it (R419). -/
def State.hintedLeaves (s : State) (ctx va : Nat) : List (Nat × Nat) :=
  match s.leafEntryAddr ctx (va / 2 ^ 22 * 2 ^ 22) with
  | none => []
  | some t =>
    (List.range 64).filterMap (fun k =>
      match s.walk3 ctx (s.entryAt (t + 8 * k)) with
      | .leaf e => if leafCh e then some (k, e) else none
      | _ => none)

/-- A page's translation through the leaf of another page, the frame displaced by the distance between the two
(R419): none where what comes out is malformed. -/
def State.displacedLeaf (s : State) (ctx page at_ e : Nat) : Option Nat :=
  let e1 := e - leafFrame e * 2 ^ 20 + (leafFrame e + page - at_) * 2 ^ 20
  if page = at_ then some e
  else if at_ ≤ leafFrame e + page && leafFrame e + page - at_ < 2 ^ 21 && s.leafOk ctx e1 1 then some e1
  else none

/-- Does a held translation serve a page? -/
def TlbEntry.covers (t : TlbEntry) (ctx page : Nat) : Bool := t.ctx == ctx && t.page / t.pages == page / t.pages

/-- Every translation of a page that an access may use besides the tables' own: those that a TLB still holds (R422),
and those through another leaf of its contiguous range (R419). -/
def State.otherLeaves (s : State) (ctx va : Nat) : List Nat :=
  let page := va / 2 ^ 16
  (s.tlb.filter (fun t => t.covers ctx page)).filterMap (fun t => s.displacedLeaf ctx page t.page t.leaf) ++
    (s.hintedLeaves ctx va).filterMap (fun h => s.displacedLeaf ctx page (page / 64 * 64 + h.1) h.2)

/-- The translation that an access uses: the tables as they stand, or one of the others.
(Log 46, DEDUCED.) -/
def State.translate (s : State) (ctx va : Nat) : WalkRes :=
  let l := s.otherLeaves ctx va
  match l[Config.freeNat s.stamp (2 ^ 42 + va / 2 ^ 16) % (l.length + 1)]? with
  | some e => .leaf e
  | none => s.walk ctx va

/-- Where the level-2 entry of an address lies: the die and tier of its table, its place, and the entry. -/
def State.level2 (s : State) (ctx va : Nat) : Option (Nat × Nat × Nat × Nat) :=
  let root := (s.context ctx).root
  if !tableOk root then none
  else
    match s.entryAt (tableAddr root + entryOfs va 1) with
    | none => none
    | some e1 =>
      let a := tableAddr e1 + entryOfs va 2
      if tableOk e1 then (s.entryAt a).map (fun e2 => (leafDie e1, leafTier e1, a, e2)) else none

/-- The translation of a contiguous range, by one of its leaves with CH = 1: the range's first page where the leaf's frame
allows it, so that the leaves of a whole group give one translation (R419). -/
def rangeEntry (ctx va k e : Nat) : TlbEntry :=
  let base := va / 2 ^ 22 * 64
  if k ≤ leafFrame e then ⟨ctx, base, 64, e - k * 2 ^ 20⟩ else ⟨ctx, base + k, 64, e⟩

/-- What a TLB may take from the walk of an address: the block that maps it, or the leaf of the page and the contiguous
range (R419, R421). -/
def State.tlbTakes (s : State) (ctx va : Nat) : List TlbEntry :=
  match s.walk ctx va, s.level2 ctx va with
  | .leaf e, some (_, _, _, e2) =>
    if entryType e2 = 2 then [⟨ctx, va / 2 ^ 28 * 2 ^ 12, 4096, e2⟩]
    else ⟨ctx, va / 2 ^ 16, 1, e⟩ :: (s.hintedLeaves ctx va).map (fun h => rangeEntry ctx va h.1 h.2)
  | _, _ => []

/-- Translations that some TLB may hold from now on: those of the pages that a word has looked up (R421, R422). -/
def State.tlbFill (s : State) (ctx : Nat) (vas : List Nat) : State :=
  vas.foldl (fun s va => { s with tlb := (s.tlbTakes ctx va).foldl (fun l t => if l.contains t then l else l ++ [t]) s.tlb }) s

/-- The home of a byte: its destination and its address there (R291, R417, R480). -/
def homeOf (e va : Nat) : Dest × Nat :=
  if leafHost e then (⟨leafChip e, 0, true⟩, leafFrame e * 2 ^ 16 + va % 2 ^ 16)
  else (⟨leafChip e, leafDie e, false⟩, leafFrameNo e * 2 ^ 16 + va % 2 ^ 16)

/-- The home of a virtual address that has been checked. -/
def State.home (s : State) (ctx va : Nat) : Dest × Nat :=
  match s.translate ctx va with
  | .leaf e => homeOf e va
  | _ => (⟨s.chip, 0, false⟩, 0)

/-! ## The checks of R501 -/

/-- Where an instruction's own rule allows the home to be. -/
inductive HomeRule where
  | any
  | package
  | peer (chip die : Nat)
  deriving DecidableEq, Repr

/-- Does a leaf meet the rule? -/
def HomeRule.ok (r : HomeRule) (chip e : Nat) : Bool :=
  match r with
  | .any => true
  | .package => leafChip e == chip
  | .peer c d => leafChip e == c && leafDie e == d && !leafHost e

/-- One access of a word for the checks: its lane, its address, what it needs (1 R, 2 W, 3 both), and its rule. -/
structure PageAcc where
  lane : Nat
  va : Nat
  need : Nat
  rule : HomeRule := .any
  deriving DecidableEq, Repr

/-- The outcome of checking pages. -/
inductive PageRes where
  | ok
  | trap (t : TrapRec)
  | wait
  deriving DecidableEq, Repr

/-- Check one page for the accesses that touch it, the checks in the order of R501. The trap of a missing translation
has the lanes of the page as its mask (R423). byLane tells whether a lane is named. An
address outside the address space has no translation. -/
def State.checkPage (s : State) (ctx : Nat) (base : TrapRec) (byLane : Bool) (as : List PageAcc) : PageRes :=
  let a := as.headD ⟨0, 0, 1, .any⟩
  let need := as.foldl (fun n b => n ||| b.need) 0
  let rec0 := { base with lane := if byLane then some a.lane else none, addr := a.va, info := need - 1 }
  match (if Config.addrLimit ≤ a.va then .fault 1 0 else s.translate ctx a.va) with
  | .wait => .wait
  | .fault sub _ =>
    .trap { rec0 with
      code := 0x06, sub := sub, addr := a.va / 2 ^ 16 * 2 ^ 16,
      mask := if byLane then maskOfLanes (as.map (fun b => b.lane)) else base.mask }
  | .leaf e =>
    if leafPerm e &&& need ≠ need then .trap { rec0 with code := 0x07, sub := 1 }
    else if (leafChip e ≠ s.chip ∧ !leafDw e) ∨ !as.all (fun b => b.rule.ok s.chip e) then
      .trap { rec0 with code := 0x07, sub := 3 }
    else if leafLost e then .trap { rec0 with code := 0x13, info := 0 }
    else .ok

/-- The distinct pages of a word, each with the accesses that touch it, in the order of the first that does. -/
def groupPages (as : List PageAcc) : List (List PageAcc) :=
  let ps := as.foldl (fun l a => if l.contains (a.va / 2 ^ 16) then l else l ++ [a.va / 2 ^ 16]) []
  ps.map (fun p => as.filter (fun a => a.va / 2 ^ 16 == p))

/-- What checks came to, and the addresses whose pages were looked up for them (R421, R422). -/
structure Looked where
  res : PageRes
  vas : List Nat
  deriving DecidableEq, Repr

/-- A check that looks nothing up. -/
def Looked.pre : Option TrapRec → Looked
  | some t => ⟨.trap t, []⟩
  | none => ⟨.ok, []⟩

/-- Further checks, where those before them have passed. -/
def Looked.andThen (a b : Looked) : Looked :=
  match a.res with
  | .ok => ⟨b.res, a.vas ++ b.vas⟩
  | _ => a

/-- Checks one after another: the first that fails decides. -/
def Looked.each {α : Type} (f : α → Looked) (l : List α) : Looked := l.foldl (fun r a => r.andThen (f a)) ⟨.ok, []⟩

/-- Check pages in order; the first that fails decides. -/
def State.lookPages (s : State) (ctx : Nat) (base : TrapRec) (byLane : Bool) (as : List PageAcc) : Looked :=
  Looked.each (fun (p : List PageAcc) => ⟨s.checkPage ctx base byLane p, (p.take 1).map (fun a => a.va)⟩) (groupPages as)

/-- Do the checks of pages pass, or what comes of them? -/
def State.checkPages (s : State) (ctx : Nat) (base : TrapRec) (byLane : Bool) (as : List PageAcc) : PageRes :=
  (s.lookPages ctx base byLane as).res

/-- The pages that n bytes touch, as one access for each. -/
def pagesOf (lane va n need : Nat) (rule : HomeRule) : List PageAcc :=
  if n = 0 then []
  else
    (List.range ((va + n - 1) / 2 ^ 16 - va / 2 ^ 16 + 1)).map (fun i =>
      ⟨lane, if i = 0 then va else (va / 2 ^ 16 + i) * 2 ^ 16, need, rule⟩)

/-- Where the tail word of a queue lies in this package. -/
def State.tailHome (s : State) (q : Queue) : Option Nat :=
  match s.walk q.ctx q.tailAddr with
  | .leaf e => if leafHost e || leafChip e ≠ s.chip then none else some (homeOf e q.tailAddr).2
  | _ => none

/-- An agent other than the front end writes n bytes at a home: the front end sees where that touches the tail word of a
device-fed queue (R43). -/
def State.noteTail (s : State) (pa n : Nat) : State :=
  { s with queues := s.queues.map (fun _ q =>
      if q.devFed && (s.tailHome q).any (fun a => pa < a + 8 && a < pa + n) then { q with touched := true } else q) }

/-- A malformed entry met by a walk raises event 8, with the address and the level (R418, R483).
(Log 26, DEDUCED.) -/
def State.malformedEvent (s : State) (ctx va : Nat) : State :=
  match s.walk ctx va with
  | .fault 3 lvl => s.mgmt ctx 8 (le 8 va ++ le 4 lvl)
  | _ => s

/-- The parts of n bytes from a virtual address that lie in one page each: address, offset and bytes. -/
def segments (va n : Nat) : List (Nat × Nat × Nat) :=
  (pagesOf 0 va n 1 .any).map (fun p => (p.va, p.va - va, min n ((p.va / 2 ^ 16 + 1) * 2 ^ 16 - va) - (p.va - va)))

/-- Remove the translations of a page, or of every page of a context, from every TLB, with its far lines and its
instruction-cache lines (R428). -/
def State.invalidate (s : State) (ctx : Nat) (page : Option Nat) : State :=
  let hit := fun (c va : Nat) => c == ctx && (page.isNone || page == some (va / 2 ^ 16))
  { s with
    tlb := s.tlb.filter (fun t => !(t.ctx == ctx && page.all (fun p => t.covers ctx p)))
    farLines := s.farLines.filter (fun f => !hit f.ctx f.va)
    cores := s.cores.map (fun _ k => { k with icache := k.icache.filter (fun l => !hit l.ctx (l.line * 128)) }) }

end Sys2Proof.Machine
end

