-- ==== Sys2Proof/Machine/Issue.lean ====
section
/-! DEFINITION. How a word issues: the checks of R86 in their order, the effect, and the account of the issue
(R67, R86, R87, R108, R114, R115, R140, R151, R156, R157). -/

namespace Sys2Proof.Machine

/-- What the body of a word comes to. -/
inductive Res where
  /-- The word's effect is done, and the slot goes on at PC + 8. -/
  | go (s : State)
  /-- The effect is done; the trap is taken after the word. -/
  | goTrap (s : State) (t : TrapRec)
  /-- The effect is done, and the slot then waits before its next word (R156). -/
  | goWait (s : State) (w : Wait)
  /-- The effect is done and has set the slots. -/
  | jump (s : State)
  /-- The word has issued and the slot waits at it. -/
  | wait (s : State) (w : Wait)
  /-- A trap at the word; nothing has changed. -/
  | trap (t : TrapRec)
  /-- A trap at the word, which has looked up the pages of some addresses (R422). -/
  | trapLooked (vas : List Nat) (t : TrapRec)
  /-- The word cannot issue now (R108); empty where a register is empty. -/
  | block (empty : Bool)
  /-- The word cannot issue now, and has looked up the pages of some addresses (R422); entry: it opens a stream, and the core's
  stream table is full (R296). -/
  | held (vas : List Nat) (entry : Bool)

/-- The word at issue: Active() is the slot's mask and the word's mask register, complemented if MNEG, less the lanes that have
retired (R11, R68). -/
def State.wordCtx (s : State) (h : Head) : Ctx :=
  let c := s.course s.cur.crs
  let x := c.slotN s.cur.slot
  let m := s.maskVal c h.mask.toNat
  let m := if h.mneg then ~~~m else m
  ⟨s.cur.crs, s.cur.slot, h, c.sup.isSome, x.mask &&& m &&& c.live, x.pc, c.ftz c.sup.isSome⟩

/-- The course that issues. -/
def State.issuer (s : State) (x : Ctx) : Course := s.course x.crs

/-- A trap at the word (R435, R441).
(Log 24, DEDUCED.) -/
def Ctx.trap (x : Ctx) (code : Nat) : TrapRec :=
  { code := code, pc := x.pc, resume := x.pc, mask := x.act, inSup := x.sup }

/-- A trap at the word for a lane with an address. -/
def Ctx.addrTrap (x : Ctx) (code sub lane addr info : Nat) : TrapRec :=
  { x.trap code with sub := sub, lane := some lane, addr := addr, info := info }

/-- ILLEGAL_OPERAND (R436). -/
def Ctx.illegalOperand (x : Ctx) : TrapRec := x.trap 0x02


/-- May only supervisor mode issue the instruction: a word of class 7 other than TRAP (R86)? -/
def privileged (i : Instr) : Bool := i.head?.isSome && 0xE0 < i.opcode

/-! ## Sources and destinations (R108, R114, R115, R151) -/

/-- Is a lane register empty in some lane of a mask? -/
def Course.laneEmpty (c : Course) (sup : Bool) (n : Nat) (m : LaneMask) : Bool :=
  (lanesOf m).any (fun L => (c.laneCell sup n L).empty)

/-- Is a distribution register empty in some lane of a mask? -/
def Course.distEmpty (c : Course) (n : Nat) (m : LaneMask) : Bool :=
  (lanesOf m).any (fun L => (Tab.get {} c.d (cellKey n L)).empty)

/-- Is some source register of the word empty? -/
def Course.sourceEmpty (c : Course) (x : Ctx) (fs : List Field) : Bool :=
  fs.any (fun f =>
    (f.laneReads x.act).any (fun r => c.laneEmpty x.sup r.1 r.2) ||
    f.unifReads.any (fun n => (c.unifCell x.sup n).empty) ||
    f.distReads.any (fun n => c.distEmpty n x.act))

/-- Is some destination register of the word empty? -/
def Course.destEmpty (c : Course) (x : Ctx) (fs : List Field) : Bool :=
  fs.any (fun f =>
    (f.writes x.sup).any (fun r => if r.lane then c.laneEmpty r.sup r.n x.act else (c.unifCell r.sup r.n).empty) ||
    (match f with
      | .distD n => c.distEmpty n x.act
      | _ => false))

/-- The lowest active lane in which a field's register is poisoned, with the INFO of the trap (R151, R228, R442). -/
def State.fieldPoison (s : State) (c : Course) (x : Ctx) (f : Field) : Option (Nat × Nat) :=
  let lane : List (Nat × Nat) := match f with
    | .laneIn _ _ _ => []
    | f => (f.laneReads x.act).flatMap (fun r =>
        ((lanesOf x.act).filter (fun L => s.lanePoison c x.sup r.1 L)).map (fun L => (L, r.1)))
  let dist := f.distReads.flatMap (fun n =>
    ((lanesOf x.act).filter (fun L => (Tab.get {} c.d (cellKey n L)).poison)).map (fun L => (L, n + 256)))
  (lane ++ dist).head?

/-- The first poisoned source in the order of the word's fields.
(Log 16, DEDUCED.) -/
def State.poisoned (s : State) (c : Course) (x : Ctx) (fs : List Field) : Option (Nat × Nat) :=
  (fs.filterMap (fun f => s.fieldPoison c x f)).head?

/-- DATA_ERROR on a source (R151, R442). -/
def Ctx.dataError (x : Ctx) (p : Nat × Nat) : TrapRec := { x.trap 0x12 with lane := some p.1, info := p.2 }

/-! ## The account of an issue -/

/-- The bay has made its issue event; the course's GAP runs, a Y gives way, and the slot is the most recently issued
(R67, R106, R109). -/
def State.account (s : State) (x : Ctx) : State :=
  let c := s.course x.crs
  let k := s.clock
  let s := s.onCourse x.crs (fun c => { c with nextIssue := max c.nextIssue (k + x.h.gap.toNat + 1) }.onSlot x.j (fun y =>
    { y with lastIssue := some k, urgent := false, eligibleSince := none, stalled := false, wantsEntry := false,
             yieldUntil := if x.h.y then k + 17 else y.yieldUntil }))
  let s := s.onBay c.core c.bay (fun b => { b with issued := some k })
  { (s.count 0 c.core 0 (if s.cur.second then 0 else 1)) with stamp := s.stamp + 1 }

/-- A word that traps before its effect: the bay has made its issue event, which is counted (R106, R488), and nothing else has changed
(R86).
(Log 22, DEDUCED.) -/
def State.accountTrap (s : State) (x : Ctx) : State :=
  let c := s.course x.crs
  let s := s.onBay c.core c.bay (fun b => { b with issued := some s.clock })
  { (s.count 0 c.core 0 (if s.cur.second then 0 else 1)) with stamp := s.stamp + 1 }

/-- Was the trap raised by a check that found a translation of its address (R501, R138): a TLB may hold it from then on? -/
def TrapRec.looksUp (t : TrapRec) : Bool :=
  t.code == 0x07 && (t.sub == 1 || t.sub == 3) || t.code == 0x13 && t.addr != 0 || t.code == 0x04 && t.sub == 2

/-- What a trap tells the rest of the device: the translation that it used is held; the team has been trapped on a broken channel (R313); a malformed entry
raises a management event (R418). -/
def State.noteTrap (s : State) (crs : Nat) (t : TrapRec) : State :=
  let h := (s.course crs).team
  let s := if t.looksUp then s.tlbFill (s.gridOf h).ctx [t.addr] else s
  if 0x0F ≤ t.code ∧ t.code ≤ 0x11 then
    s.onTeam h (fun y => { y with chans := y.chans.map (fun k ch => if k = t.info % 16 then { ch with trapped := true } else ch) })
  else if t.sub = 3 ∧ (t.code = 0x04 ∨ t.code = 0x06) then s.malformedEvent (s.gridOf h).ctx t.addr
  else s

/-- A slot has completed the word at its PC and waits before the next (R156). -/
def State.pauses (s : State) (crs j : Nat) (act : LaneMask) (w : Wait) : State :=
  s.onCourse crs (fun c => (c.overflowing j act).onSlot j (fun y => { y with pc := y.pc + 8, wait := w }))

/-- A word has looked up the pages of some addresses: TLBs may hold their translations (R421, R422). -/
def State.looked (s : State) (x : Ctx) (vas : List Nat) : State := s.tlbFill (s.ctxOf (s.course x.crs)) vas

/-- The effect of a word whose checks have passed, or what came of them. -/
def Looked.then (k : Looked) (f : Res) : Res :=
  match k.res with
  | .ok => f
  | .trap t => .trapLooked k.vas t
  | .wait => .held k.vas false

/-- Put a word's result into the state. A word whose description makes its course wait makes its issue event, with GAP and
Y, as the wait begins.
(Log 81, DEDUCED.)
(Log 90, DESIGN CHOICE.) -/
def State.settle (s : State) (x : Ctx) (r : Res) : State :=
  match r with
  | .go t => (t.account x).advance x.crs x.j x.act
  | .goTrap t tr => ((t.account x).onCourse x.crs (fun c => c.overflowing x.j x.act)).raise x.crs x.j tr
  | .goWait t w => (t.account x).pauses x.crs x.j x.act w
  | .jump t => t.account x
  | .wait t w => (t.account x).onCourse x.crs (fun c => c.onSlot x.j (fun y => { y with wait := w, act := x.act }))
  | .trap tr => ((s.accountTrap x).noteTrap x.crs tr).raise x.crs x.j tr
  | .block empty =>
    (s.count 0 (s.course x.crs).core 5 (b2n empty)).onCourse x.crs (fun c =>
      c.onSlot x.j (fun y => { y with stalled := true }))
  | .trapLooked vas tr => ((((s.looked x vas).accountTrap x).noteTrap x.crs tr).raise x.crs x.j tr)
  | .held vas entry =>
    (s.looked x vas).onCourse x.crs (fun c => c.onSlot x.j (fun y => { y with stalled := true, wantsEntry := y.wantsEntry || entry }))

/-- Is the slot at the cursor ready to issue: it has work and does not wait. -/
def State.atIssue (s : State) : Bool :=
  let c := s.course s.cur.crs
  c.taken s.cur.slot && (c.slotN s.cur.slot).wait == .none

/-- A channel word with no active lane is a no-op (R300, R324): after the checks of decoding, orders 1 to 4 of R86, it neither
waits nor traps.
(Log 91, DEDUCED.) -/
def idles (i : Instr) (x : Ctx) : Bool :=
  x.act == 0#32 && (match i with
    | .stg .. | .atomg .. | .redg .. | .redgSh .. | .cjoin _ | .cdrain .. | .creset _ | .cstat _ | .cstatAddr _ | .cstatWhere _
    | .evwait _ | .evwaitRd _ | .evadd _ | .locq _ => true
    | _ => false)

/-- Checks 3 to 5 of R86 and the check of poison (R151), then the body. The words that place the check of poison among
their own checks (R208, R300, R273, R349, R399, R405) are exempt here. -/
def State.checkWord (s : State) (i : Instr) (x : Ctx) (body : Ctx → Res) : Res :=
  let c := s.issuer x
  let fs := i.fields
  if privileged i && !x.sup then .trap (x.trap 0x03)
  else if !fs.all (fun f => f.ok (s.limits c x.sup)) then .trap x.illegalOperand
  else if idles i x then body x
  else if c.destEmpty x fs then .block true
  else if c.sourceEmpty x fs then (if x.h.e then .trap (x.trap 0x09) else .block true)
  else if i.ownPoison then body x
  else
    match s.poisoned c x fs with
    | some p => .trap (x.dataError p)
    | none => body x

/-- Issue a word at the cursor. Where the slot is not at issue, the word is not issued and nothing changes. -/
def State.issue (s : State) (i : Instr) (h : Head) (body : Ctx → Res) : Host.Outcome State Fault Refusal :=
  if s.atIssue then
    let x := s.wordCtx h
    .next (s.settle x (s.checkWord i x body))
  else .next s

/-! ## Results -/

/-- Fixed-ALU results: they land 4 cycles after issue, and an enabled flag traps once they have (R112, R156). -/
def State.aluRes (s : State) (x : Ctx) (ws : List AluDst) (fl : Word) : Res :=
  let c := s.issuer x
  let fl := wordFlags x.sup fl
  let ws := if fl = 0#32 then ws else ws ++ [.flags fl]
  let t := s.setCourse x.crs { c with alu := c.alu ++ ws.map (fun w => ⟨s.clock, w⟩) }
  if c.trapsOn fl then .goWait t (.arith (s.clock + 4) (arithTrap x.pc x.act fl)) else .go t

/-- A fixed-ALU word in its lane or uniform form: w registers from d (R160). -/
def State.aluWord (s : State) (x : Ctx) (u : Bool) (d w : Nat) (f : Nat → Nat × Word) : Res :=
  let rs := x.each u f
  s.aluRes x (Results.aluWrites rs x.sup u d w) (Results.flags rs)

/-- Mark registers empty and remember what fills them (R114); the word may hold later issue (R157). -/
def State.addPend (s : State) (x : Ctx) (unit : PendUnit) (kind : PendKind) (fills : List (RegId × LaneMask))
    (fl may : Word) : State :=
  s.onCourse x.crs (fun c =>
    let c1 := fills.foldl (fun c f => c.markEmpty f.1 f.2) c
    { c1 with
      nextPend := c.nextPend + 1
      pend := c1.pend ++ [{ id := c.nextPend, unit := unit, kind := kind, fills := fills, flags := wordFlags x.sup fl,
                            may := wordFlags x.sup may, pc := x.pc, slot := x.j,
                            act := x.act, sup := x.sup, turn := s.stamp }] })

/-- A variable-latency word that computes at issue: w registers from d. -/
def State.lateWord (s : State) (x : Ctx) (unit : PendUnit) (u : Bool) (d w : Nat) (may : Word)
    (f : Nat → Nat × Word) : Res :=
  if x.act = 0#32 then .go s
  else
    let rs := x.each u f
    .go (s.addPend x unit (.values (Results.landings rs x.sup u d w)) (x.fills u d w) (Results.flags rs) may)

/-- Deliver one value to a uniform register later (R11, Deliver). -/
def State.deliverU (s : State) (x : Ctx) (d w v : Nat) : Res :=
  s.lateWord x .other true d w 0#32 (fun _ => (v, 0#32))

end Sys2Proof.Machine
end

