-- ==== Sys2Proof/Machine/Integer.lean ====
section
/-! DEFINITION. The integer words, masks, moves, and the course registers FLG and CTL (R158–R172). -/

namespace Sys2Proof.Machine

/-- What every meaning answers. -/
abbrev Out := Host.Outcome State Fault Refusal

/-! ## Values of the integer operations -/

/-- The range of a 32-bit type (R162). -/
def intLo (n32 : Bool) : Int := if n32 then 0 else -(2 ^ 31)
/-- The upper end of the range. -/
def intHi (n32 : Bool) : Int := if n32 then 2 ^ 32 - 1 else 2 ^ 31 - 1

/-- Deliver an exact integer in 32 bits: clamped under .sat, with SAT, and otherwise wrapped (R162). -/
def satInt (sat n32 : Bool) (x : Int) : Nat × Word :=
  if sat && x < intLo n32 then (intBits (intLo n32) 32, flSAT)
  else if sat && intHi n32 < x then (intBits (intHi n32) 32, flSAT)
  else (intBits x 32, 0#32)

/-- |a| (R162). -/
def iabsVal (sat : Bool) (a : Int) : Nat × Word :=
  let r := satInt sat false a.natAbs
  (r.1, if !sat && a = -(2 ^ 31) then flIOV else r.2)

/-- Quotient and remainder, rounded toward zero, with the cases of R164. -/
def divRem (n32 : Bool) (a b : Int) : Nat × Nat × Word :=
  if b = 0 then (0xFFFFFFFF, intBits a 32, flIDZ)
  else if !n32 && a = -(2 ^ 31) && b = -1 then (0x80000000, 0, flIOV)
  else (intBits (Int.tdiv a b) 32, intBits (Int.tmod a b) 32, 0#32)

/-- The second operand of a logic word: complemented under .not (R166). -/
def invIf (inv : Bool) (b : Nat) : Nat := if inv then b ^^^ 0xFFFFFFFF else b

/-- The shift amount (R166). -/
def shiftAmount (wrap : Bool) (b : Nat) : Nat := min (if wrap then b % 32 else b) 32

/-- Rotate left by n (R166). -/
def rotl (a n : Nat) : Nat := (a * 2 ^ (n % 32) + a / 2 ^ (32 - n % 32)) % 2 ^ 32

/-- The number of 1 bits among the lowest 32. -/
def popcVal (a : Nat) : Nat := (lanes.filter (fun i => a.testBit i)).length

/-- Zero bits above the highest 1 bit of 32 (R166). -/
def clzVal (a : Nat) : Nat := if a = 0 then 32 else 31 - Nat.log2 a

/-- Bit i moved to bit 31 − i (R166). -/
def brevVal (a : Nat) : Nat := lanes.foldl (fun y i => y + b2n (a.testBit i) * 2 ^ (31 - i)) 0

/-- BFE (R167). -/
def bfeVal (sx : Bool) (a b c : Nat) : Nat :=
  let p := min (b % 256) 32
  let n := min (c % 256) 32
  let x : Int := if sx then signExt a 32 else a
  let f := ((x / (2 ^ p : Nat)) % (2 ^ n : Nat)).toNat
  if sx && 0 < n then intBits (signExt f n) 32 else f

/-- BFI: ins into base at the position and length that poslen gives (R167). -/
def bfiVal (ins base poslen : Nat) : Nat :=
  let p := min (poslen % 256) 32
  let n := min (poslen / 256 % 256) (32 - p)
  let k := (2 ^ n - 1) * 2 ^ p
  (base &&& (k ^^^ 0xFFFFFFFF)) ||| (ins * 2 ^ p &&& k)

/-- A comparison of ICMP (R168). -/
def icmpVal (cc : IntCond) (a b : Int) : Bool :=
  match cc with
  | .eq => a == b
  | .ne => a != b
  | .lt => a < b
  | .le => a ≤ b
  | .gt => b < a
  | .ge => b ≤ a

/-! ## Shapes of integer words -/

/-- A word of one or two 32-bit sources read as integers. -/
def State.intWord (s : State) (x : Ctx) (r : RWord) (n32 : Bool) (f : Int → Int → Nat × Word) : Res :=
  let c := s.issuer x
  s.aluWord x r.u r.d.toNat 1 (fun L => f (s.ival x c r.a n32 L) (s.ival x c r.b n32 L))

/-- A word of one or two 32-bit sources read as bits, which sets no flag. -/
def State.bitWord (s : State) (x : Ctx) (r : RWord) (f : Nat → Nat → Nat) : Res :=
  let c := s.issuer x
  s.aluWord x r.u r.d.toNat 1 (fun L => (f (s.val x c r.a 1 L) (s.val x c r.b 1 L), 0#32))

/-- A word of three 32-bit sources read as bits. -/
def State.bitWord3 (s : State) (x : Ctx) (r : RWord) (f : Nat → Nat → Nat → Nat) : Res :=
  let c := s.issuer x
  s.aluWord x r.u r.d.toNat 1 (fun L => (f (s.val x c r.a 1 L) (s.val x c r.b 1 L) (s.val x c r.c 1 L), 0#32))

/-- IADD (R162). -/
def execIadd (r : RWord) (n32 sat : Bool) (s : State) : Out :=
  s.issue (.iadd r n32 sat) r.head (fun x => s.intWord x r n32 (fun a b => satInt sat n32 (a + b)))

/-- ISUB (R162). -/
def execIsub (r : RWord) (n32 sat : Bool) (s : State) : Out :=
  s.issue (.isub r n32 sat) r.head (fun x => s.intWord x r n32 (fun a b => satInt sat n32 (a - b)))

/-- IMUL (R163). -/
def execImul (r : RWord) (n32 : Bool) (part : MulPart) (s : State) : Out :=
  s.issue (.imul r n32 part) r.head (fun x =>
    let c := s.issuer x
    s.aluWord x r.u r.d.toNat (if part = .wide then 2 else 1) (fun L =>
      let p := intBits (s.ival x c r.a n32 L * s.ival x c r.b n32 L) 64
      (if part = .hi then p / 2 ^ 32 else p, 0#32)))

/-- IMAD (R163). -/
def execImad (r : RWord) (n32 wide : Bool) (s : State) : Out :=
  s.issue (.imad r n32 wide) r.head (fun x =>
    let c := s.issuer x
    let w := if wide then 2 else 1
    s.aluWord x r.u r.d.toNat w (fun L =>
      (intBits (s.ival x c r.a n32 L * s.ival x c r.b n32 L + s.val x c r.c w L) (32 * w), 0#32)))

/-- IMIN (R162). -/
def execImin (r : RWord) (n32 : Bool) (s : State) : Out :=
  s.issue (.imin r n32) r.head (fun x => s.intWord x r n32 (fun a b => satInt false n32 (min a b)))

/-- IMAX (R162). -/
def execImax (r : RWord) (n32 : Bool) (s : State) : Out :=
  s.issue (.imax r n32) r.head (fun x => s.intWord x r n32 (fun a b => satInt false n32 (max a b)))

/-- IABS (R162). -/
def execIabs (r : RWord) (sat : Bool) (s : State) : Out :=
  s.issue (.iabs r sat) r.head (fun x =>
    let c := s.issuer x
    s.aluWord x r.u r.d.toNat 1 (fun L => iabsVal sat (s.ival x c r.a false L)))

/-- The flags that IDIV and IREM can set (R157, R161): only a signed division overflows (R164). -/
def flDiv (n32 : Bool) : Word := flIDZ ||| flIf (!n32) flIOV

/-- Cycles for which a word occupies the special-function pipeline: k per quarter that holds an active lane, k in all
in the uniform form (R174). -/
def specialCycles (k : Nat) (u : Bool) (act : LaneMask) : Nat :=
  if u then k else k * ([0, 8, 16, 24].filter (fun q => (lanesOf act).any (fun L => q ≤ L && L < q + 8))).length

/-- A special-function word: it issues only while the pipeline of its bay is free, and lands later (R174). With no
active lane it still waits for the pipeline, and does not occupy it (R204). -/
def State.specialWord (s : State) (x : Ctx) (k : Nat) (u : Bool) (d : Nat) (may : Word) (f : Nat → Nat × Word) : Res :=
  let c := s.issuer x
  if s.clock < ((s.core c.core).bay c.bay).specialUntil then .block false
  else if x.act = 0#32 then .go s
  else
    (s.onBay c.core c.bay (fun b => { b with specialUntil := s.clock + specialCycles k u x.act })).lateWord
      x .special u d 1 may f

/-- IDIV (R164). -/
def execIdiv (r : RWord) (n32 : Bool) (s : State) : Out :=
  s.issue (.idiv r n32) r.head (fun x =>
    let c := s.issuer x
    s.specialWord x 1 r.u r.d.toNat (flDiv n32) (fun L =>
      let q := divRem n32 (s.ival x c r.a n32 L) (s.ival x c r.b n32 L)
      (q.1, q.2.2)))

/-- IREM (R164). -/
def execIrem (r : RWord) (n32 : Bool) (s : State) : Out :=
  s.issue (.irem r n32) r.head (fun x =>
    let c := s.issuer x
    s.specialWord x 1 r.u r.d.toNat (flDiv n32) (fun L =>
      let q := divRem n32 (s.ival x c r.a n32 L) (s.ival x c r.b n32 L)
      (q.2.1, q.2.2)))

/-- AND (R166). -/
def execAnd (r : RWord) (inv : Bool) (s : State) : Out :=
  s.issue (.andOp r inv) r.head (fun x => s.bitWord x r (fun a b => a &&& invIf inv b))

/-- OR (R166). -/
def execOr (r : RWord) (inv : Bool) (s : State) : Out :=
  s.issue (.orOp r inv) r.head (fun x => s.bitWord x r (fun a b => a ||| invIf inv b))

/-- XOR (R166). -/
def execXor (r : RWord) (inv : Bool) (s : State) : Out :=
  s.issue (.xorOp r inv) r.head (fun x => s.bitWord x r (fun a b => a ^^^ invIf inv b))

/-- SHL (R166). -/
def execShl (r : RWord) (wrap : Bool) (s : State) : Out :=
  s.issue (.shl r wrap) r.head (fun x => s.bitWord x r (fun a b => a * 2 ^ shiftAmount wrap b))

/-- SHR (R166). -/
def execShr (r : RWord) (wrap : Bool) (s : State) : Out :=
  s.issue (.shr r wrap) r.head (fun x => s.bitWord x r (fun a b => a / 2 ^ shiftAmount wrap b))

/-- SAR (R166). -/
def execSar (r : RWord) (wrap : Bool) (s : State) : Out :=
  s.issue (.sar r wrap) r.head (fun x =>
    s.bitWord x r (fun a b => intBits (signExt a 32 / (2 ^ shiftAmount wrap b : Nat)) 32))

/-- ROT: left, or right under .r (R166). -/
def execRot (r : RWord) (right : Bool) (s : State) : Out :=
  s.issue (.rot r right) r.head (fun x =>
    s.bitWord x r (fun a b => rotl a (if right then 32 - b % 32 else b % 32)))

/-- POPC (R166). -/
def execPopc (r : RWord) (s : State) : Out :=
  s.issue (.popc r) r.head (fun x => s.bitWord x r (fun a _ => popcVal a))

/-- CLZ (R166). -/
def execClz (r : RWord) (s : State) : Out :=
  s.issue (.clz r) r.head (fun x => s.bitWord x r (fun a _ => clzVal a))

/-- BREV (R166). -/
def execBrev (r : RWord) (s : State) : Out :=
  s.issue (.brev r) r.head (fun x => s.bitWord x r (fun a _ => brevVal a))

/-- BFE (R167). -/
def execBfe (r : RWord) (sx : Bool) (s : State) : Out :=
  s.issue (.bfe r sx) r.head (fun x => s.bitWord3 x r (fun a b c => bfeVal sx a b c))

/-- BFI (R167). -/
def execBfi (r : RWord) (s : State) : Out :=
  s.issue (.bfi r) r.head (fun x => s.bitWord3 x r (fun a b c => bfiVal a b c))

/-! ## Compare, select, move -/

/-- A compare word: the lanes for which the condition holds, as bits of a mask register, or 0 or 1 in a uniform
register (R168, R195).
(Log 106, DESIGN CHOICE.) -/
def State.compareWord (s : State) (x : Ctx) (r : RWord) (f : Nat → Bool × Word) : Res :=
  if r.u then s.aluWord x true r.d.toNat 1 (fun L => (b2n (f L).1, (f L).2))
  else
    let rs := (lanesOf x.act).map (fun L => (L, f L))
    let hit := maskOfLanes ((rs.filter (fun e => e.2.1)).map (fun e => e.1))
    let fl := rs.foldl (fun a e => a ||| e.2.2) 0#32
    s.aluRes x [.mask r.d.toNat hit x.act] fl

/-- ICMP (R168). -/
def execIcmp (r : RWord) (cc : IntCond) (n32 : Bool) (s : State) : Out :=
  s.issue (.icmp r cc n32) r.head (fun x =>
    let c := s.issuer x
    s.compareWord x r (fun L => (icmpVal cc (s.ival x c r.a n32 L) (s.ival x c r.b n32 L), 0#32)))

/-- SEL (R168). -/
def execSel (r : RWord) (s : State) : Out :=
  s.issue (.sel r) r.head (fun x =>
    let c := s.issuer x
    let m := s.maskVal c r.c.field.toNat
    s.aluWord x r.u r.d.toNat 1 (fun L =>
      let pick := if r.u then s.uval x c r.c != 0 else m.getLsbD L
      (if pick then s.val x c r.a 1 L else s.val x c r.b 1 L, 0#32)))

/-- MOV (R169). -/
def execMov (r : RWord) (s : State) : Out :=
  s.issue (.mov r) r.head (fun x =>
    let c := s.issuer x
    s.aluWord x r.u r.d.toNat 1 (fun L => (s.val x c r.a 1 L, 0#32)))

/-- The value that MOVI delivers (R169). -/
def moviVal (ext : MoviExt) (imm : BitVec 32) : Nat :=
  match ext with
  | .s64 => intBits (signExt imm.toNat 32) 64
  | _ => imm.toNat

/-- MOVI (R169). -/
def execMovi (k : KWord) (ext : MoviExt) (s : State) : Out :=
  s.issue (.movi k ext) k.head (fun x =>
    s.aluWord x k.u k.d.toNat (if ext = .w32 then 1 else 2) (fun _ => (moviVal ext k.imm, 0#32)))

/-- IADDI (R169). -/
def execIaddi (w : IWord) (wide : Bool) (s : State) : Out :=
  s.issue (.iaddi w wide) w.head (fun x =>
    let c := s.issuer x
    let n := if wide then 2 else 1
    s.aluWord x w.u w.d.toNat n (fun L =>
      (intBits (s.val x c ⟨if w.u then .unif else .lane, w.a⟩ n L + signExt w.imm.toNat 24) (32 * n), 0#32)))

/-- IADD64 (R170). -/
def execIadd64 (r : RWord) (sub : Bool) (ext : Ext64) (s : State) : Out :=
  s.issue (.iadd64 r sub ext) r.head (fun x =>
    let c := s.issuer x
    s.aluWord x r.u r.d.toNat 2 (fun L =>
      let b : Int := match ext with
        | .pair => s.val x c r.b 2 L
        | .zx => s.val x c r.b 1 L
        | .sx => signExt (s.val x c r.b 1 L) 32
      let a : Int := s.val x c r.a 2 L
      (intBits (if sub then a - b else a + b) 64, 0#32)))

/-- LEA (R170). -/
def execLea (r : RWord) (sx : Bool) (s : State) : Out :=
  s.issue (.lea r sx) r.head (fun x =>
    let c := s.issuer x
    s.aluWord x r.u r.d.toNat 2 (fun L =>
      let i := s.ival x c r.b (!sx) L
      (intBits (s.val x c r.a 2 L + i * (2 ^ r.c.field.toNat : Nat)) 64, 0#32)))

/-! ## Mask operations (R171) -/

/-- A mask word that writes the bits of Active(); an empty Active() writes none. -/
def State.maskWord (s : State) (x : Ctx) (r : RWord) (f : Word → Word → Word) : Res :=
  let c := s.issuer x
  s.aluRes x [.mask r.d.toNat (f (s.maskVal c r.a.field.toNat) (s.maskVal c r.b.field.toNat)) x.act] 0#32

/-- MLOP.and. -/
def execMlopAnd (r : RWord) (s : State) : Out :=
  s.issue (.mlopAnd r) r.head (fun x => s.maskWord x r (fun a b => a &&& b))
/-- MLOP.or. -/
def execMlopOr (r : RWord) (s : State) : Out :=
  s.issue (.mlopOr r) r.head (fun x => s.maskWord x r (fun a b => a ||| b))
/-- MLOP.xor. -/
def execMlopXor (r : RWord) (s : State) : Out :=
  s.issue (.mlopXor r) r.head (fun x => s.maskWord x r (fun a b => a ^^^ b))
/-- MLOP.andn. -/
def execMlopAndn (r : RWord) (s : State) : Out :=
  s.issue (.mlopAndn r) r.head (fun x => s.maskWord x r (fun a b => a &&& ~~~b))
/-- MLOP.orn. -/
def execMlopOrn (r : RWord) (s : State) : Out :=
  s.issue (.mlopOrn r) r.head (fun x => s.maskWord x r (fun a b => a ||| ~~~b))
/-- MLOP.not. -/
def execMlopNot (r : RWord) (s : State) : Out :=
  s.issue (.mlopNot r) r.head (fun x => s.maskWord x r (fun a _ => ~~~a))
/-- MLOP.mov. -/
def execMlopMov (r : RWord) (s : State) : Out :=
  s.issue (.mlopMov r) r.head (fun x => s.maskWord x r (fun a _ => a))

/-- MLOP.froms. -/
def execMlopFroms (r : RWord) (s : State) : Out :=
  s.issue (.mlopFroms r) r.head (fun x =>
    s.aluRes x [.mask r.d.toNat (wd (s.uval x (s.issuer x) r.a)) x.act] 0#32)

/-- MLOP.tos. -/
def execMlopTos (r : RWord) (s : State) : Out :=
  s.issue (.mlopTos r) r.head (fun x =>
    s.aluWord x true r.d.toNat 1 (fun _ => ((s.maskVal (s.issuer x) r.a.field.toNat).toNat, 0#32)))

/-- MLOP.act: all 32 bits of the mask register are written (R143). -/
def execMlopAct (r : RWord) (s : State) : Out :=
  s.issue (.mlopAct r) r.head (fun x =>
    s.aluRes x (if x.act = 0#32 then [] else [.mask r.d.toNat x.act 0xFFFFFFFF#32]) 0#32)

/-! ## SRD and SWR (R158, R159) -/

/-- Does an earlier operation of the course have flags not yet ORed into FLG: a word, a copy, or a matrix
quarter-operation (R159)?
(Log 23, DEDUCED.) -/
def State.flgBusy (s : State) (crs : Nat) (c : Course) : Bool :=
  c.flagsInFlight ||
    (s.team c.team).copies.any (fun _ k => k.crs == crs && k.tcpy.isSome) ||
    (((s.core c.core).bay c.bay).queue.any (fun e => e.crs == crs &&
      (match e.work with
        | .quarter _ _ _ _ _ _ _ _ _ _ _ _ => true
        | _ => false)))

/-- A course register as SRD reads it (R158). -/
def State.courseReg (s : State) (c : Course) (n : Nat) : Word :=
  match n with
  | 0 => c.flg
  | 1 => c.ctl
  | 2 => wd c.blocks
  | 3 => wd (s.poolFree c.team c.bay)
  | n => Tab.get 0#32 c.fm (n - 8)

/-- Write a course register: reserved bits of FLG and CTL stay 0 (R154, R155, R159). -/
def Course.setReg (c : Course) (n : Nat) (v : Word) : Course :=
  match n with
  | 0 => { c with flg := v &&& flgMask }
  | 1 => { c with ctl := v &&& ctlMask }
  | n => { c with fm := Tab.put c.fm (n - 8) v }

/-- SRD (R159). -/
def execSrd (r : RWord) (s : State) : Out :=
  s.issue (.srd r) r.head (fun x =>
    let c := s.issuer x
    let n := r.a.field.toNat
    if x.act = 0#32 then .go s
    else if n = 0 && s.flgBusy x.crs c then .block false
    else s.deliverU x r.d.toNat 1 (s.courseReg c n).toNat)

/-- SWR and its forms: f combines the old value with the operand (R159). -/
def State.swrWord (s : State) (x : Ctx) (r : RWord) (f : Word → Word → Word) : Res :=
  let c := s.issuer x
  let n := r.d.toNat
  if x.act = 0#32 then .go s
  else if n = 0 && s.flgBusy x.crs c then .block false
  else .go (s.setCourse x.crs (c.setReg n (f (s.courseReg c n) (wd (s.uval x c r.a)))))

/-- SWR. -/
def execSwr (r : RWord) (s : State) : Out := s.issue (.swr r) r.head (fun x => s.swrWord x r (fun _ v => v))
/-- SWR.set. -/
def execSwrSet (r : RWord) (s : State) : Out := s.issue (.swrSet r) r.head (fun x => s.swrWord x r (fun o v => o ||| v))
/-- SWR.clr. -/
def execSwrClr (r : RWord) (s : State) : Out :=
  s.issue (.swrClr r) r.head (fun x => s.swrWord x r (fun o v => o &&& ~~~v))

end Sys2Proof.Machine
end

