-- ==== Sys2Proof/Machine/Special.lean ====
section
/-! DEFINITION. The special functions (R200–R203) and the maps of DMAP (R239): the exact value to some 200 bits, and a
free choice among the FP32 values within the accuracy that the rule states. -/

namespace Sys2Proof.Machine

/-- 2^256, the unit of the fixed-point values below. -/
def fixU : Nat := 2 ^ 256

/-- 2π in units of 2^−406. -/
def twoPi : Nat := 0x1921fb54442d18469898cc51701b839a252049c1114cf98e804177d4c76273644a29410f31c6809bbdf2a33679a748636605614

/-- ln 2 in units of 2^−256. -/
def ln2Fix : Nat := 0xb17217f7d1cf79abc9e3b39803f2f6af40f343267298b62d8a0d175b8baafa2b

/-- The Taylor series of e^x: the terms from the n-th on, of which term is the current one. -/
def expGo (x : Int) : Nat → Nat → Int → Int
  | 0, _, _ => 0
  | k + 1, n, term => term + expGo x k (n + 1) (term * x / fixU / (n + 1 : Nat))

/-- e^x for |x| ≤ 1, in units of 2^−256. -/
def expFix (x : Int) : Int := expGo x 70 0 fixU

/-- The series of sin and cos: each term is the last times −x² / ((n + 1)(n + 2)). -/
def trigGo (x2 : Int) : Nat → Nat → Int → Int
  | 0, _, _ => 0
  | k + 1, n, term => term + trigGo x2 k (n + 2) (-(term * x2 / fixU) / ((n + 1) * (n + 2) : Nat))

/-- sin x for |x| ≤ 4. -/
def sinFix (x : Int) : Int := trigGo (x * x / fixU) 60 1 x

/-- cos x for |x| ≤ 4. -/
def cosFix (x : Int) : Int := trigGo (x * x / fixU) 60 0 fixU

/-- The series of the inverse hyperbolic tangent. -/
def atanhGo (t2 : Nat) : Nat → Nat → Nat → Nat
  | 0, _, _ => 0
  | k + 1, n, term => term / n + atanhGo t2 k (n + 2) (term * t2 / fixU)

/-- ln (num / den) for a ratio from 1 to 2, in units of 2^−256. -/
def lnFix (num den : Nat) : Nat :=
  let t := (num - den) * fixU / (num + den)
  2 * atanhGo (t * t / fixU) 90 1 t

/-- A fixed-point value as an exact one. -/
def ofFix (x : Int) : Rat3 := ⟨x < 0, x.natAbs, fixU⟩

/-- The value in units of 2^−256, rounded down. -/
def toFix (q : Rat3) : Int := q.signed * fixU / (q.den : Int)

/-- The magnitude. -/
def Rat3.abs (q : Rat3) : Rat3 := ⟨false, q.num, q.den⟩

/-- Is a code that of a finite FP32 value at most bound away from an exact value? -/
def withinOf (bound q : Rat3) (c : Nat) : Bool :=
  match (fmtF32 false).value c with
  | .fin v => ((v.add q.flip false).abs).cmp bound != .gt
  | _ => false

/-- Some FP32 value at most bound away from an exact value that FP32 does not represent: the freely chosen code where it
lies within the bound, and otherwise the nearest value (R201). fn numbers the function and src is the source's code. -/
def pickWithin (fn src : Nat) (bound q : Rat3) (near : Word) : Word :=
  let c := Config.specialPick fn src % 2 ^ 32
  if withinOf bound q c then wd c else near

/-- The size of n ulp at an exact value. -/
def ulps (n : Nat) (q : Rat3) : Rat3 := Rat3.scaled false n (max (log2Floor q.num q.den) (-126) - 23)

/-- Some FP32 value within n ulp of an exact value; an exactly representable value is returned, and overflow and the
flushing of a tiny result follow R186 (R201). -/
def pickUlp (fn src n : Nat) (ftz : Bool) (q : Rat3) : Word × Word :=
  let near := toF32 ftz .rne false 0 (.fin q)
  let tiny := log2Floor q.num q.den < -126
  if near.2 &&& flNX == 0#32 || near.2 &&& flOF != 0#32 || (tiny && ftz) then near
  else (pickWithin fn src (ulps n q) q near.1, flNX ||| flIf tiny flUF)

/-- Some FP32 value within 2^−b of an exact value (R201, R203); zneg is the sign of a zero result, where R203 fixes it. -/
def pickAbs (fn src b : Nat) (ftz : Bool) (zneg : Option Bool) (q : Rat3) : Word × Word :=
  let near := (toF32 ftz .rne false 0 (.fin q)).1
  let r := pickWithin fn src (Rat3.scaled false 1 (-(b : Nat))) q near
  let r := if r &&& 0x7FFFFFFF#32 = 0#32 then (zneg.map (fun n => if n then 0x80000000#32 else 0#32)).getD r else r
  (r, flNX ||| flIf (log2Floor q.num q.den < -126 && !q.isZero) flUF)

/-- 2^x. -/
def exp2Q (q : Rat3) : Rat3 :=
  let n : Int := q.signed / (q.den : Int)
  let f := q.add (Rat3.ofInt (-n)) false
  if f.isZero then Rat3.scaled false 1 n else (ofFix (expFix (toFix f * ln2Fix / fixU))).scale n

/-- e^x, for x from −300 to 300. -/
def expQ (q : Rat3) : Rat3 :=
  let n : Int := toFix q / ln2Fix
  (ofFix (expFix (toFix q - n * ln2Fix))).scale n

/-- ln x of a positive value. -/
def lnQ (q : Rat3) : Rat3 :=
  let e := log2Floor q.num q.den
  let m := q.scale (-e)
  ofFix (lnFix m.num m.den + e * ln2Fix)

/-- log2 x of a positive value: an integer where x is a power of two. -/
def log2Q (q : Rat3) : Rat3 :=
  let e := log2Floor q.num q.den
  let m := q.scale (-e)
  if m.num = m.den then Rat3.ofInt e
  else (ofFix (lnFix m.num m.den * fixU / ln2Fix : Nat)).add (Rat3.ofInt e) false

/-- tanh x of a nonzero value. -/
def tanhQ (q : Rat3) : Rat3 :=
  if q.abs.cmp ⟨false, 64, 1⟩ == .gt then ⟨q.neg, 2 ^ 100 - 1, 2 ^ 100⟩
  else
    let e := expQ ⟨false, 2 * q.num, q.den⟩
    ⟨q.neg, e.num - e.den, e.num + e.den⟩

/-- a − 2πk with k the nearest integer to a / 2π, in units of 2^−256 (R203). -/
def reduce2Pi (q : Rat3) : Int :=
  let a : Int := toFix q * (2 ^ 150 : Nat)
  let k : Int := (2 * a + twoPi) / (2 * twoPi : Nat)
  (a - k * twoPi) / (2 ^ 150 : Nat)

/-- Is |a| at most π? -/
def withinPi (q : Rat3) : Bool := (toFix q).natAbs * 2 ^ 151 ≤ twoPi

/-- Is the magnitude below 2^−12 (R202)? -/
def tinyArg (q : Rat3) : Bool := q.abs.cmp ⟨false, 1, 4096⟩ == .lt

/-- SIN or TANH of a nonzero source below 2^−12: the source, which is inexact; the exact value, which lies closer to
zero, is tiny for a source of at most 2^−126 (R186, R202).
(Log 115, DEDUCED.) -/
def ownArg (ftz : Bool) (q : Rat3) : Word × Word :=
  ((toF32 ftz .rne false 0 (.fin q)).1, flNX ||| flIf (q.abs.cmp (Rat3.scaled false 1 (-126)) != .gt) flUF)

/-- ±∞ as FP32. -/
def inf32 (neg : Bool) : Word := if neg then 0xFF800000#32 else 0x7F800000#32
/-- ±0. -/
def zero32 (neg : Bool) : Word := if neg then 0x80000000#32 else 0#32
/-- ±1. -/
def one32 (neg : Bool) : Word := if neg then 0xBF800000#32 else 0x3F800000#32

/-- RCP (R201, R202). -/
def rcpFn (ftz : Bool) (src : Nat) : Fp → Word × Word
  | .nan s => (nan32, flIf s flNV)
  | .inf n => (zero32 n, 0#32)
  | .fin q => if q.isZero then (inf32 q.neg, flDZ) else pickUlp 0 src 1 ftz ((⟨false, 1, 1⟩ : Rat3).div q)

/-- RSQ (R201, R202). -/
def rsqFn (ftz : Bool) (src : Nat) : Fp → Word × Word
  | .nan s => (nan32, flIf s flNV)
  | .inf n => if n then (nan32, flNV) else (zero32 false, 0#32)
  | .fin q =>
    if q.isZero then (inf32 q.neg, flDZ)
    else if q.neg then (nan32, flNV)
    else pickUlp 1 src 1 ftz (sqrtQ ⟨false, q.den, q.num⟩)

/-- EX2 (R201, R202). -/
def ex2Fn (ftz : Bool) (src : Nat) : Fp → Word × Word
  | .nan s => (nan32, flIf s flNV)
  | .inf n => (if n then zero32 false else inf32 false, 0#32)
  | .fin q =>
    if q.cmp ⟨false, 128, 1⟩ != .lt then (inf32 false, flOF ||| flNX)
    else if q.cmp ⟨true, 150, 1⟩ == .lt then (0#32, flUF ||| flNX)
    else pickUlp 2 src 2 ftz (exp2Q q)

/-- LG2 (R201, R202). -/
def lg2Fn (ftz : Bool) (src : Nat) : Fp → Word × Word
  | .nan s => (nan32, flIf s flNV)
  | .inf n => if n then (nan32, flNV) else (inf32 false, 0#32)
  | .fin q =>
    if q.isZero then (inf32 true, flDZ)
    else if q.neg then (nan32, flNV)
    else pickUlp 3 src 2 ftz (log2Q q)

/-- SIN, and COS where cos holds (R201–R203). -/
def sinCosFn (cos ftz : Bool) (src : Nat) : Fp → Word × Word
  | .nan s => (nan32, flIf s flNV)
  | .inf _ => (nan32, flNV)
  | .fin q =>
    if q.isZero then (if cos then one32 false else zero32 q.neg, 0#32)
    else if !cos && tinyArg q then ownArg ftz q
    else
      let r := reduce2Pi q
      pickAbs (if cos then 5 else 4) src (if withinPi q then 21 else 20) ftz
        (if withinPi q then none else some (decide (r < 0))) (ofFix (if cos then cosFix r else sinFix r))

/-- TANH (R202), also DMAP.tanh. -/
def tanhFn (ftz : Bool) (src : Nat) : Fp → Word × Word
  | .nan s => (nan32, flIf s flNV)
  | .inf n => (one32 n, 0#32)
  | .fin q =>
    if q.isZero then (zero32 q.neg, 0#32)
    else if tinyArg q then ownArg ftz q
    else pickUlp 6 src 2 ftz (tanhQ q)

/-- e^x (R239). -/
def expFn (ftz : Bool) (src : Nat) : Fp → Word × Word
  | .nan s => (nan32, flIf s flNV)
  | .inf n => (if n then zero32 false else inf32 false, 0#32)
  | .fin q =>
    if q.isZero then (one32 false, 0#32)
    else if q.cmp ⟨false, 300, 1⟩ == .gt then (inf32 false, flOF ||| flNX)
    else if q.cmp ⟨true, 300, 1⟩ == .lt then pickUlp 7 src 2 ftz (Rat3.scaled false 1 (-400))
    else pickUlp 7 src 2 ftz (expQ q)

/-- ln x (R239). -/
def logFn (ftz : Bool) (src : Nat) : Fp → Word × Word
  | .nan s => (nan32, flIf s flNV)
  | .inf n => if n then (nan32, flNV) else (inf32 false, 0#32)
  | .fin q =>
    if q.isZero then (inf32 true, flDZ)
    else if q.neg then (nan32, flNV)
    else if q.num = q.den then (0#32, 0#32)
    else pickUlp 8 src 2 ftz (lnQ q)

end Sys2Proof.Machine
end

