-- ==== Sys2Proof/Machine/Vector.lean ====
section
/-! DEFINITION. The vector words: FP32, packed 16-bit, conversions and special functions (R173–R204). -/

namespace Sys2Proof.Machine

/-! ## FP32 arithmetic (R193–R196) -/

/-- The random bits of an FP32 element under .rs (R185). -/
def State.rand16 (s : State) (x : Ctx) (c : Course) (o : Operand) (L : Nat) : Nat := s.val x c o 1 L % 2 ^ 16

/-- The sign that an exact zero sum takes: −0 under .rd (R193). -/
def Rnd.isRd : Rnd → Bool
  | .rd => true
  | _ => false

/-- Round a result with the flags of its operation to FP32 (R193). -/
def finish32 (ftz : Bool) (mode : Rnd) (sat : Bool) (rand : Nat) (p : Fp × Word) : Nat × Word :=
  let r := (fmtF32 ftz).round mode sat rand p.1
  (r.1, p.2 ||| r.2)

/-- A word of two FP32 sources that rounds once. -/
def State.fpWord (s : State) (x : Ctx) (r : RWord) (mode : Rnd) (sat : Bool) (f : Fp → Fp → Fp × Word) : Res :=
  let c := s.issuer x
  s.aluWord x r.u r.d.toNat 1 (fun L =>
    finish32 x.ftz mode sat (s.rand16 x c r.c L) (f (s.fval x c r.a L) (s.fval x c r.b L)))

/-- FADD (R193). -/
def execFadd (r : RWord) (rnd : Rnd) (sat : Bool) (s : State) : Out :=
  s.issue (.fadd r rnd sat) r.head (fun x => s.fpWord x r rnd sat (fun a b => a.add (Rnd.isRd rnd) b))

/-- FSUB (R193). -/
def execFsub (r : RWord) (rnd : Rnd) (sat : Bool) (s : State) : Out :=
  s.issue (.fsub r rnd sat) r.head (fun x => s.fpWord x r rnd sat (fun a b => a.add (Rnd.isRd rnd) b.flip))

/-- FMUL (R193). -/
def execFmul (r : RWord) (rnd : Rnd) (sat : Bool) (s : State) : Out :=
  s.issue (.fmul r rnd sat) r.head (fun x => s.fpWord x r rnd sat (fun a b => a.mul b))

/-- FFMA (R193). -/
def execFfma (r : RWord) (rnd : Rnd4) (sat : Bool) (s : State) : Out :=
  s.issue (.ffma r rnd sat) r.head (fun x =>
    let c := s.issuer x
    s.aluWord x r.u r.d.toNat 1 (fun L =>
      finish32 x.ftz rnd.toRnd sat 0
        (Fp.fma (Rnd.isRd rnd.toRnd) (s.fval x c r.a L) (s.fval x c r.b L) (s.fval x c r.c L))))

/-- An FP32 encoding, flushed under FTZ (R188). -/
def flush32 (ftz : Bool) (w : Word) : Word := if ftz && w &&& 0x7F800000#32 == 0#32 then w &&& 0x80000000#32 else w

/-- FMIN, and FMAX where max holds (R194). -/
def State.minMaxWord (s : State) (x : Ctx) (r : RWord) (max nan : Bool) : Res :=
  let c := s.issuer x
  s.aluWord x r.u r.d.toNat 1 (fun L =>
    let a := s.fval x c r.a L
    let b := s.fval x c r.b L
    let v := match minMaxPick max nan a b with
      | none => nan32
      | some true => flush32 x.ftz (s.fbits x c r.a L)
      | some false => flush32 x.ftz (s.fbits x c r.b L)
    (v.toNat, snanFlag [a, b]))

/-- FMIN. -/
def execFmin (r : RWord) (nan : Bool) (s : State) : Out :=
  s.issue (.fmin r nan) r.head (fun x => s.minMaxWord x r false nan)

/-- FMAX. -/
def execFmax (r : RWord) (nan : Bool) (s : State) : Out :=
  s.issue (.fmax r nan) r.head (fun x => s.minMaxWord x r true nan)

/-- A comparison of FCMP and its NV (R195). -/
def fcmpVal (cc : FpCond) (a b : Fp) : Bool × Word :=
  let un := a.isNan || b.isNan
  let sn := snanFlag [a, b]
  let ordered := sn ||| flIf un flNV
  match cc with
  | .eq => (!un && a.cmp b == .eq, sn)
  | .ne => (un || a.cmp b != .eq, sn)
  | .lt => (!un && a.cmp b == .lt, ordered)
  | .le => (!un && a.cmp b != .gt, ordered)
  | .gt => (!un && a.cmp b == .gt, ordered)
  | .ge => (!un && a.cmp b != .lt, ordered)
  | .num => (!un, sn)
  | .nan => (un, sn)

/-- FCMP (R195). -/
def execFcmp (r : RWord) (cc : FpCond) (s : State) : Out :=
  s.issue (.fcmp r cc) r.head (fun x =>
    let c := s.issuer x
    s.compareWord x r (fun L => fcmpVal cc (s.fval x c r.a L) (s.fval x c r.b L)))

/-- The class of an FP32 code, as one set bit (R196). -/
def fclsVal (w : Word) : Nat :=
  let neg := w.getLsbD 31
  match f32 false w with
  | .nan sig => if sig then 2 ^ 8 else 2 ^ 9
  | .inf _ => if neg then 2 ^ 0 else 2 ^ 7
  | .fin q =>
    if q.isZero then (if neg then 2 ^ 3 else 2 ^ 4)
    else if w &&& 0x7F800000#32 == 0#32 then (if neg then 2 ^ 2 else 2 ^ 5)
    else if neg then 2 ^ 1 else 2 ^ 6

/-- FCLS. -/
def execFcls (r : RWord) (s : State) : Out :=
  s.issue (.fcls r) r.head (fun x =>
    let c := s.issuer x
    s.aluWord x r.u r.d.toNat 1 (fun L => (fclsVal (s.fbits x c r.a L), 0#32)))

/-! ## Packed 16-bit arithmetic (R197) -/

/-- The format of a packed word. -/
def packFmt (bf16 : Bool) : Fmt := if bf16 then fmtBf16 else fmtF16

/-- Is an element enabled (R192)? -/
def PackPart.has (p : PackPart) (k : Nat) : Bool :=
  match p with
  | .both => true
  | .lo => k == 0
  | .hi => k == 1

/-- Element k of a packed source (R72, R182). -/
def State.pval (s : State) (x : Ctx) (c : Course) (o : Operand) (f : Fmt) (k L : Nat) : Fp :=
  if o.kind = .imm then Fp.ofInt o.immVal else f.value (s.val x c o 1 L / 2 ^ (16 * k) % 2 ^ 16)

/-- The bits of element k of a packed source. -/
def State.pbits (s : State) (x : Ctx) (c : Course) (o : Operand) (f : Fmt) (k L : Nat) : Nat :=
  if o.kind = .imm then (f.round .rne false 0 (Fp.ofInt o.immVal)).1 else s.val x c o 1 L / 2 ^ (16 * k) % 2 ^ 16

/-- A packed word: each enabled element is computed and the others keep their bits. -/
def State.packedWord (s : State) (x : Ctx) (r : RWord) (part : PackPart) (f : Nat → Nat → Nat × Word) : Res :=
  let es := [0, 1].filter (fun k => PackPart.has part k)
  let bits := wd (es.foldl (fun a k => a + 0xFFFF * 2 ^ (16 * k)) 0)
  let rs := (x.span r.u).map (fun L => (L, es.map (fun k => (k, f k L))))
  let ws := rs.map (fun e =>
    let v := wd (e.2.foldl (fun a y => a + y.2.1 % 2 ^ 16 * 2 ^ (16 * y.1)) 0)
    if r.u then AluDst.unif x.sup r.d.toNat v bits else AluDst.lane x.sup r.d.toNat e.1 v bits)
  s.aluRes x ws (rs.foldl (fun a e => e.2.foldl (fun b y => b ||| y.2.2) a) 0#32)

/-- The random bits of element k (R185). -/
def State.packRand (s : State) (x : Ctx) (c : Course) (o : Operand) (k L : Nat) : Nat :=
  s.val x c o 1 L / 2 ^ (16 * k) % 2 ^ 16

/-- A packed word of two sources. -/
def State.packed2 (s : State) (x : Ctx) (r : RWord) (rnd : Rnd) (sat bf16 : Bool) (part : PackPart)
    (f : Fp → Fp → Fp × Word) : Res :=
  let c := s.issuer x
  let t := packFmt bf16
  s.packedWord x r part (fun k L =>
    let p := f (s.pval x c r.a t k L) (s.pval x c r.b t k L)
    let y := t.round rnd sat (s.packRand x c r.c k L) p.1
    (y.1, p.2 ||| y.2))

/-- HADD2. -/
def execHadd2 (r : RWord) (rnd : Rnd) (sat bf16 : Bool) (part : PackPart) (s : State) : Out :=
  s.issue (.hadd2 r rnd sat bf16 part) r.head (fun x =>
    s.packed2 x r rnd sat bf16 part (fun a b => a.add (Rnd.isRd rnd) b))

/-- HMUL2. -/
def execHmul2 (r : RWord) (rnd : Rnd) (sat bf16 : Bool) (part : PackPart) (s : State) : Out :=
  s.issue (.hmul2 r rnd sat bf16 part) r.head (fun x => s.packed2 x r rnd sat bf16 part (fun a b => a.mul b))

/-- HFMA2. -/
def execHfma2 (r : RWord) (rnd : Rnd4) (sat bf16 : Bool) (part : PackPart) (s : State) : Out :=
  s.issue (.hfma2 r rnd sat bf16 part) r.head (fun x =>
    let c := s.issuer x
    let t := packFmt bf16
    s.packedWord x r part (fun k L =>
      let p := Fp.fma (Rnd.isRd rnd.toRnd) (s.pval x c r.a t k L) (s.pval x c r.b t k L) (s.pval x c r.c t k L)
      let y := t.round rnd.toRnd sat 0 p.1
      (y.1, p.2 ||| y.2)))

/-- HMNX2. -/
def execHmnx2 (r : RWord) (max nan bf16 : Bool) (part : PackPart) (s : State) : Out :=
  s.issue (.hmnx2 r max nan bf16 part) r.head (fun x =>
    let c := s.issuer x
    let t := packFmt bf16
    s.packedWord x r part (fun k L =>
      let a := s.pval x c r.a t k L
      let b := s.pval x c r.b t k L
      let v := match minMaxPick max nan a b with
        | none => t.nanCode
        | some true => s.pbits x c r.a t k L
        | some false => s.pbits x c r.b t k L
      (v, snanFlag [a, b])))

/-! ## Conversions (R198, R199) -/

/-- A format register of the course. -/
def Course.fmReg (c : Course) (n : Nat) : Word := Tab.get 0#32 c.fm n

/-- The format register that a type code names. -/
def cvtFm (code : Nat) : Option Nat := if 8 ≤ code then some (code - 8) else none

/-- The value of a source of CVT of a type (R178, R181, R182). -/
def cvtSource (c : Course) (ftz : Bool) (code v : Nat) : Fp :=
  match code with
  | 0 => f32 ftz (wd v)
  | 1 => fmtF16.value v
  | 2 => fmtBf16.value v
  | 3 => fmtE4m3.value v
  | 4 => fmtE5m2.value v
  | 5 => Fp.ofInt (signExt v 32)
  | 6 => Fp.ofInt v
  | 7 => .fin ((Rat3.ofInt (signExt v 64)).scale (-32))
  | _ => (fmtOfReg (c.fmReg (code - 8))).value v

/-- Round to a destination type of CVT (R186, R187). -/
def cvtRound (c : Course) (ftz : Bool) (code : Nat) (mode : Rnd) (sat : Bool) (rand : Nat) (x : Fp) : Nat × Word :=
  match code with
  | 0 => (fmtF32 ftz).round mode sat rand x
  | 1 => fmtF16.round mode sat rand x
  | 2 => fmtBf16.round mode sat rand x
  | 3 => fmtE4m3.round mode sat rand x
  | 4 => fmtE5m2.round mode sat rand x
  | 5 => roundWhole (-(2 ^ 31)) (2 ^ 31 - 1) 32 0 mode sat rand x
  | 6 => roundWhole 0 (2 ^ 32 - 1) 32 0 mode sat rand x
  | 7 => roundWhole (-(2 ^ 63)) (2 ^ 63 - 1) 64 32 mode sat rand x
  | _ => (fmtOfReg (c.fmReg (code - 8))).round mode sat rand x

/-- FORMAT_INVALID, which names the format register (R177, R442). -/
def Ctx.formatTrap (x : Ctx) (n : Nat) : TrapRec := { x.trap 0x14 with info := n }

/-- The first of some format registers that breaks R177. -/
def Course.badFormat (c : Course) (ns : List Nat) : Option Nat := ns.find? (fun n => !fmtValid (c.fmReg n))

/-- CVT (R198). Where both types name an invalid format register, either may be reported.
(Log 17, DEDUCED.) -/
def execCvt (r : RWord) (rnd : Rnd) (sat : Bool) (s : State) : Out :=
  s.issue (.cvt r rnd sat) r.head (fun x =>
    let c := s.issuer x
    let src := r.c.field.toNat / 16
    let dst := r.c.field.toNat % 16
    let fms := [src, dst].filterMap cvtFm
    match (if x.act = 0#32 then none else c.badFormat (if Config.freeBit s.stamp (2 ^ 18) then fms else fms.reverse)) with
    | some n => .trap (x.formatTrap n)
    | none =>
      s.aluWord x r.u r.d.toNat (cvtRegs dst) (fun L =>
        let v := if r.a.kind = .imm then Fp.ofInt r.a.immVal else cvtSource c x.ftz src (s.val x c r.a (cvtRegs src) L)
        let y := cvtRound c x.ftz dst rnd sat (s.rand16 x c r.b L) v
        (y.1, y.2 ||| snanFlag [v])))

/-- FRND of a value (R199): integral, with the sign of the source on a zero. -/
def frndVal (ftz : Bool) (mode : Rnd) (rand : Nat) (a : Fp) : Nat × Word :=
  match a with
  | .fin q =>
    let r := roundInt mode rand q
    (((fmtF32 ftz).round .rne false 0 (.fin ⟨q.neg, r.1.natAbs, 1⟩)).1, 0#32)
  | .inf n => ((inf32 n).toNat, 0#32)
  | .nan sig => (nan32.toNat, flIf sig flNV)

/-- FRND. -/
def execFrnd (r : RWord) (rnd : Rnd) (s : State) : Out :=
  s.issue (.frnd r rnd) r.head (fun x =>
    let c := s.issuer x
    s.aluWord x r.u r.d.toNat 1 (fun L => frndVal x.ftz rnd (s.rand16 x c r.b L) (s.fval x c r.a L)))

/-- FSCL of a value by 2^n (R199). Beyond ±1,000 the rounding is that of ±1,000: the result lies as far outside the
format. -/
def fsclVal (ftz : Bool) (mode : Rnd) (sat : Bool) (a : Fp) (n : Int) : Nat × Word :=
  let n := max (-1000) (min 1000 n)
  match a with
  | .fin q => (fmtF32 ftz).round mode sat 0 (.fin (q.scale n))
  | .inf neg => (fmtF32 ftz).round mode sat 0 (.inf neg)
  | .nan sig => (nan32.toNat, flIf sig flNV)

/-- FSCL. -/
def execFscl (r : RWord) (rnd : Rnd4) (sat : Bool) (s : State) : Out :=
  s.issue (.fscl r rnd sat) r.head (fun x =>
    let c := s.issuer x
    s.aluWord x r.u r.d.toNat 1 (fun L =>
      fsclVal x.ftz rnd.toRnd sat (s.fval x c r.a L) (signExt (s.val x c r.b 1 L) 32)))

/-! ## Special functions (R174, R200–R203) -/

/-- FDIV. -/
def execFdiv (r : RWord) (rnd : Rnd4) (s : State) : Out :=
  s.issue (.fdiv r rnd) r.head (fun x =>
    let c := s.issuer x
    s.specialWord x 2 r.u r.d.toNat (flNV ||| flDZ ||| flOF ||| flUF ||| flNX) (fun L =>
      finish32 x.ftz rnd.toRnd false 0 ((s.fval x c r.a L).div (s.fval x c r.b L))))

/-- FSQRT. -/
def execFsqrt (r : RWord) (rnd : Rnd4) (s : State) : Out :=
  s.issue (.fsqrt r rnd) r.head (fun x =>
    let c := s.issuer x
    s.specialWord x 2 r.u r.d.toNat (flNV ||| flNX) (fun L =>
      finish32 x.ftz rnd.toRnd false 0 (s.fval x c r.a L).sqrt))

/-- A special function of one source. -/
def State.specialFn (s : State) (x : Ctx) (r : RWord) (may : Word) (f : Bool → Nat → Fp → Word × Word) : Res :=
  let c := s.issuer x
  s.specialWord x 1 r.u r.d.toNat may (fun L =>
    let y := f x.ftz (s.fbits x c r.a L).toNat (s.fval x c r.a L)
    (y.1.toNat, y.2))

/-- RCP. -/
def execRcp (r : RWord) (s : State) : Out :=
  s.issue (.rcp r) r.head (fun x => s.specialFn x r (flNV ||| flDZ ||| flOF ||| flUF ||| flNX) rcpFn)
/-- RSQ. -/
def execRsq (r : RWord) (s : State) : Out :=
  s.issue (.rsq r) r.head (fun x => s.specialFn x r (flNV ||| flDZ ||| flNX) rsqFn)
/-- EX2. -/
def execEx2 (r : RWord) (s : State) : Out :=
  s.issue (.ex2 r) r.head (fun x => s.specialFn x r (flNV ||| flOF ||| flUF ||| flNX) ex2Fn)
/-- LG2. -/
def execLg2 (r : RWord) (s : State) : Out :=
  s.issue (.lg2 r) r.head (fun x => s.specialFn x r (flNV ||| flDZ ||| flNX) lg2Fn)
/-- SIN. -/
def execSin (r : RWord) (s : State) : Out :=
  s.issue (.sin r) r.head (fun x => s.specialFn x r (flNV ||| flUF ||| flNX) (sinCosFn false))
/-- COS: a cosine of an FP32 value is never tiny. -/
def execCos (r : RWord) (s : State) : Out :=
  s.issue (.cos r) r.head (fun x => s.specialFn x r (flNV ||| flNX) (sinCosFn true))
/-- TANH. -/
def execTanh (r : RWord) (s : State) : Out :=
  s.issue (.tanh r) r.head (fun x => s.specialFn x r (flNV ||| flUF ||| flNX) tanhFn)

end Sys2Proof.Machine
end

