-- ==== Sys2Proof/Machine/Crossbar.lean ====
section
/-! DEFINITION. The lane crossbar and the quantiser (R205–R223). -/

namespace Sys2Proof.Machine

/-- A crossbar word: it issues only while the crossbar of its bay is free, occupies it for k cycles, and lands later
(R205, R206). With no active lane it waits for the crossbar too, and does not occupy it (R223). The results are given by
lane, with the word's flags. -/
def State.crossbarWord (s : State) (x : Ctx) (k : Nat) (u : Bool) (d w : Nat) (may : Word) (rs : Nat → Nat)
    (fl : Word) : Res :=
  let c := s.issuer x
  if s.clock < ((s.core c.core).bay c.bay).crossbarUntil then .block false
  else if x.act = 0#32 then .go s
  else
    (s.onBay c.core c.bay (fun b => { b with crossbarUntil := s.clock + k })).lateWord
      x .crossbar u d w may (fun L => (rs L, fl))

/-- Segment size (R207). -/
def Seg.size : Seg → Nat
  | .s32 => 32
  | .s16 => 16
  | .s8 => 8

/-- The segment size that REDUX, SCAN, HDM and QMAX use: 16 for code 0 in width-16 mode (R207). -/
def State.segSize (s : State) (c : Course) (g : Seg) : Nat :=
  if g = .s32 && (s.lrOf c).width16 then 16 else Seg.size g

/-- The first lane of the segment of a lane. -/
def segBase (S L : Nat) : Nat := L - L % S

/-- The lanes of a segment from a base. -/
def segLanes (S base : Nat) : List Nat := (List.range S).map (fun i => base + i)

/-- The bases of the segments that hold an active lane. -/
def segBases (S : Nat) (act : LaneMask) : List Nat :=
  (List.range (32 / S)).map (fun i => i * S) |>.filter (fun b => (segLanes S b).any (fun L => act.getLsbD L))

/-- A table of 32 values, read by lane. -/
def laneTab (l : List Nat) (L : Nat) : Nat := l.getD L 0

/-- The values of a lane register in every lane, as the word reads them. -/
def State.laneAll (s : State) (x : Ctx) (c : Course) (n : Nat) : List Word :=
  lanes.map (fun L => s.laneVal c x.sup n L)

/-! ## SHFL and VOTE -/

/-- The lane that SHFL reads for a lane: its own where there is no source (R211). -/
def shflLane (mode : ShflMode) (S : Nat) (w16 : Bool) (b L : Nat) : Nat :=
  let base := segBase S L
  let j : Int := match mode with
    | .from => base + (b % S : Nat)
    | .shift => (L : Int) - signExt b 32
    | .rot => base + ((L : Int) - base - b) % (S : Int)
    | .bfly => ((L ^^^ (b % S) : Nat) : Int)
  if j < base || (base + S : Nat) ≤ j then L
  else if w16 && 16 ≤ j then L
  else j.toNat

/-- SHFL: the source must be full, and then not poisoned, in every lane that the word reads; its lane operand is checked
for poison with it, after both are full (R151, R208, R211). -/
def execShfl (r : RWord) (mode : ShflMode) (seg : Seg) (s : State) : Out :=
  s.issue (.shfl r mode seg) r.head (fun x =>
    let c := s.issuer x
    let n := r.a.field.toNat
    let w16 := (s.lrOf c).width16
    let from_ := fun L => shflLane mode (Seg.size seg) w16 (s.val x c r.b 1 L) L
    let read := maskOfLanes ((lanesOf x.act).map from_)
    if c.laneEmpty x.sup n read then (if r.head.e then .trap (x.trap 0x09) else .block true)
    else
      match ((lanesOf read).find? (fun L => s.lanePoison c x.sup n L)).map (fun L => (L, n)), s.fieldPoison c x r.b.reg1Imm with
      | some p, _ | none, some p => .trap (x.dataError p)
      | none, none =>
        let all := s.laneAll x c n
        s.crossbarWord x 1 false r.d.toNat 1 0#32 (fun L => (all.getD (from_ L) 0#32).toNat) 0#32)

/-- VOTE (R212). -/
def execVote (r : RWord) (mode : VoteMode) (s : State) : Out :=
  s.issue (.vote r mode) r.head (fun x =>
    let c := s.issuer x
    let m := s.maskVal c r.a.field.toNat &&& x.act
    let v := match mode with
      | .mask => m.toNat
      | .count => popCount m
      | .first => lowestLane m
      | .some => b2n (m != 0#32)
      | .every => b2n (m == x.act)
      | .same =>
        let vs := (lanesOf x.act).map (fun L => s.laneVal c x.sup r.a.field.toNat L)
        b2n (vs.all (fun y => y == vs.headD 0#32))
    s.crossbarWord x 1 true r.d.toNat 1 0#32 (fun _ => v) 0#32)

/-! ## REDUX and SCAN (R213–R216) -/

/-- Is the operation one of FP32? -/
def RedOp.isFp : RedOp → Bool
  | .addF | .minF | .maxF => true
  | _ => false

/-- The identity (R213). -/
def RedOp.identity : RedOp → Word
  | .add | .maxU | .or | .xor => 0#32
  | .min => 0x7FFFFFFF#32
  | .max => 0x80000000#32
  | .minU | .and => 0xFFFFFFFF#32
  | .addF => 0x80000000#32
  | .minF => 0x7F800000#32
  | .maxF => 0xFF800000#32

/-- Combine two values, with the flags of .add.f32; a NaN is ignored by the minimum and the maximum (R213). -/
def RedOp.combine (ftz : Bool) (op : RedOp) (a b : Word) : Word × Word :=
  match op with
  | .add => (a + b, 0#32)
  | .min => (if b.slt a then b else a, 0#32)
  | .max => (if a.slt b then b else a, 0#32)
  | .minU => (if b < a then b else a, 0#32)
  | .maxU => (if a < b then b else a, 0#32)
  | .and => (a &&& b, 0#32)
  | .or => (a ||| b, 0#32)
  | .xor => (a ^^^ b, 0#32)
  | .addF => addF32 ftz a b
  | .minF =>
    match minMaxPick false false (f32 ftz a) (f32 ftz b) with
    | none => (nan32, 0#32)
    | some p => (if p then a else b, 0#32)
  | .maxF =>
    match minMaxPick true false (f32 ftz a) (f32 ftz b) with
    | none => (nan32, 0#32)
    | some p => (if p then a else b, 0#32)

/-- A source as an operation reads it: FP32 is flushed (R188). -/
def RedOp.source (ftz : Bool) (op : RedOp) (w : Word) : Word := if RedOp.isFp op then flush32 ftz w else w

/-- The flags of the sources: a signalling NaN in an active lane sets NV (R213). -/
def RedOp.sourceFlags (op : RedOp) (xs : List Word) : Word :=
  flIf (RedOp.isFp op && xs.any (fun w => (f32 false w).isSnan)) flNV

/-- The flags that REDUX and SCAN can set. -/
def RedOp.may : RedOp → Word
  | .addF => flNV ||| flOF ||| flUF ||| flNX
  | .minF | .maxF => flNV
  | _ => 0#32

/-- Is the code a NaN of FP32? -/
def isNan32 (w : Word) : Bool := (f32 false w).isNan

/-- Combine a list from the first value on. -/
def RedOp.fold (ftz : Bool) (op : RedOp) (xs : List Word) : Word × Word :=
  xs.foldl (fun a w => let y := RedOp.combine ftz op a.1 w; (y.1, a.2 ||| y.2)) (RedOp.identity op, 0#32)

/-- The minimum or the maximum of FP32 values: NaNs are left out, and only NaNs give the canonical NaN (R213). -/
def RedOp.foldNan (ftz : Bool) (op : RedOp) (xs : List Word) : Word :=
  let ys := xs.filter (fun w => !isNan32 w)
  if ys.isEmpty && !xs.isEmpty then nan32 else (RedOp.fold ftz op ys).1

/-- One stage of the tree of R215: neighbours are added in pairs. -/
def pairStage (ftz : Bool) : List Word → List Word × Word
  | a :: b :: t =>
    let y := addF32 ftz a b
    let r := pairStage ftz t
    (y.1 :: r.1, y.2 ||| r.2)
  | l => (l, 0#32)

/-- The staged sum of R215, in k stages. -/
def treeSum (ftz : Bool) : Nat → List Word → Word × Word
  | 0, l => (l.headD 0x80000000#32, 0#32)
  | k + 1, l =>
    let r := pairStage ftz l
    let t := treeSum ftz k r.1
    (t.1, r.2 ||| t.2)

/-- The reduction of one segment of S lanes: xs lists the lanes' values, none where a lane is not active (R213–R215). -/
def RedOp.reduce (ftz : Bool) (op : RedOp) (S : Nat) (xs : List (Option Word)) : Word × Word :=
  let act := (xs.filterMap (fun v => v)).map (RedOp.source ftz op)
  match op with
  | .addF =>
    let r := treeSum ftz (Nat.log2 S) (xs.map (fun v => match v with
      | some w => RedOp.source ftz op w
      | none => RedOp.identity op))
    (r.1, r.2 ||| RedOp.sourceFlags op act)
  | .minF | .maxF => (RedOp.foldNan ftz op act, RedOp.sourceFlags op act)
  | _ => RedOp.fold ftz op act

/-- The values of a lane register in a segment; none for an inactive lane. -/
def segValues (vs : List Word) (act : LaneMask) (S base : Nat) : List (Option Word) :=
  (segLanes S base).map (fun L => if act.getLsbD L then some (vs.getD L 0#32) else none)

/-- REDUX (R214). -/
def execRedux (r : RWord) (op : RedOp) (idx : Bool) (seg : Seg) (s : State) : Out :=
  s.issue (.redux r op idx seg) r.head (fun x =>
    let c := s.issuer x
    let S := s.segSize c seg
    let vs := s.laneAll x c r.a.field.toNat
    let rs := (segBases S x.act).map (fun b =>
      let y := RedOp.reduce x.ftz op S (segValues vs x.act S b)
      let mine := (segLanes S b).filter (fun L => x.act.getLsbD L)
      let i := if RedOp.isFp op && isNan32 y.1 then mine.headD 0
        else (mine.find? (fun L => RedOp.source x.ftz op (vs.getD L 0#32) == y.1)).getD 0
      (b, y.1.toNat + i * 2 ^ 32, y.2))
    let of := fun L => ((rs.find? (fun e => e.1 == segBase S L)).map (fun e => e.2.1)).getD 0
    s.crossbarWord x 1 r.u r.d.toNat (if idx then 2 else 1) (RedOp.may op) of
      (rs.foldl (fun a e => a ||| e.2.2) 0#32))

/-- The prefix that SCAN delivers at a lane, over the values of the lanes of its segment up to it (R216). -/
def RedOp.scanAt (ftz : Bool) (op : RedOp) (xs : List (Option Word)) : Word × Word :=
  match op with
  | .minF | .maxF => (RedOp.foldNan ftz op ((xs.filterMap (fun v => v)).map (RedOp.source ftz op)), 0#32)
  | _ => RedOp.fold ftz op (xs.map (fun v => match v with
      | some w => RedOp.source ftz op w
      | none => RedOp.identity op))

/-- SCAN (R216). A signalling NaN in any active lane sets NV (R213). -/
def execScan (r : RWord) (op : RedOp) (excl : Bool) (seg : Seg) (s : State) : Out :=
  s.issue (.scan r op excl seg) r.head (fun x =>
    let c := s.issuer x
    let S := s.segSize c seg
    let vs := s.laneAll x c r.a.field.toNat
    let rs := (lanesOf x.act).map (fun L =>
      let b := segBase S L
      (L, RedOp.scanAt x.ftz op ((segValues vs x.act S b).take (L - b + (if excl then 0 else 1)))))
    let fl := rs.foldl (fun a e => a ||| e.2.2)
      (RedOp.sourceFlags op ((lanesOf x.act).map (fun L => vs.getD L 0#32)))
    let of := fun L => ((rs.find? (fun e => e.1 == L)).map (fun e => e.2.1.toNat)).getD 0
    s.crossbarWord x 1 false r.d.toNat 1 (RedOp.may op) of fl)

/-! ## HDM (R217) -/

/-- One stage: the position with bit t clear takes the sum, its partner the difference. Each position has its value and
the flags of the roundings that gave it. -/
def hdmStage (ftz : Bool) (t : Nat) (xs : List (Word × Word)) : List (Word × Word) :=
  let get := fun p => f32 ftz (xs.getD p (0#32, 0#32)).1
  (List.range xs.length).map (fun p =>
    let y := if p.testBit t then rne32 ftz ((get (p - 2 ^ t)).add false (get p).flip)
      else rne32 ftz ((get p).add false (get (p + 2 ^ t)))
    (y.1, (xs.getD p (0#32, 0#32)).2 ||| y.2))

/-- Stages from t on, k of them. -/
def hdmStages (ftz : Bool) : Nat → Nat → List (Word × Word) → List (Word × Word)
  | 0, _, xs => xs
  | k + 1, t, xs => hdmStages ftz k (t + 1) (hdmStage ftz t xs)

/-- The constant of .norm (R217). -/
def hdmNorm (S : Nat) : Word := if S = 8 then 0x3EB504F3#32 else if S = 16 then 0x3E800000#32 else 0x3E3504F3#32

/-- The final scaling of a value with its flags. -/
def hdmScale (ftz : Bool) (scale : HdmScale) (S : Nat) (w : Word × Word) : Word × Word :=
  let y := match scale with
    | .none => (w.1, 0#32)
    | .p2 => rne32 ftz ((f32 ftz w.1).mul (.fin (Rat3.scaled false 1 (-(Nat.log2 S : Int)))))
    | .norm => rne32 ftz ((f32 ftz w.1).mul (f32 ftz (hdmNorm S)))
  (y.1, w.2 ||| y.2)

/-- The values and the flags of HDM by position in a segment of S values (R217). -/
def hdmVals (ftz : Bool) (scale : HdmScale) (S : Nat) (xs : List Word) : List (Word × Word) :=
  (hdmStages ftz (Nat.log2 S) 0 (xs.map (fun w => (w, 0#32)))).map (hdmScale ftz scale S)

/-- HDM (R217). Only active lanes set flags: those of every rounding that gave the lane's own values (R190, R210).
(Log 19, DEDUCED.) -/
def execHdm (r : RWord) (seg : Seg) (scale : HdmScale) (s : State) : Out :=
  s.issue (.hdm r seg scale) r.head (fun x =>
    let c := s.issuer x
    let S := s.segSize c seg
    let vs := s.laneAll x c r.a.field.toNat
    let rs := (segBases S x.act).map (fun b =>
      let xs := (segValues vs x.act S b).map (fun v => match v with
        | some w => flush32 x.ftz w
        | none => 0#32)
      (b, hdmVals x.ftz scale S xs))
    let at_ := fun L => ((rs.find? (fun e => e.1 == segBase S L)).map (fun e => e.2.getD (L % S) (0#32, 0#32))).getD (0#32, 0#32)
    s.crossbarWord x 2 false r.d.toNat 1 (flNV ||| flOF ||| flUF ||| flNX) (fun L => (at_ L).1.toNat)
      ((lanesOf x.act).foldl (fun a L => a ||| (at_ L).2) 0#32))

/-! ## The quantiser (R218–R222) -/

/-- The value of an element that QMAX reads. -/
def qmaxValue (ty : QmaxType) (ftz : Bool) (w : Word) : Fp :=
  match ty with
  | .f32 => f32 ftz w
  | .f16 => fmtF16.value w.toNat
  | .bf16 => fmtBf16.value w.toNat
  | .i32 => Fp.ofInt (signExt w.toNat 32)

/-- The magnitude of a value. -/
def Fp.abs : Fp → Fp
  | .fin q => .fin q.abs
  | .inf _ => .inf false
  | x => x

/-- The largest magnitude of a segment's values, and its flags (R218). -/
def qmaxVal (ty : QmaxType) (ftz : Bool) (ws : List Word) : Word × Word :=
  let xs := ws.map (qmaxValue ty ftz)
  let fl := snanFlag xs
  if xs.any Fp.isNan then (nan32, fl)
  else
    let m := xs.foldl (fun a b => if a.below b.abs then b.abs else a) (.fin ⟨false, 0, 1⟩)
    match ty, m with
    | .i32, .fin q => (wd q.num, fl)
    | _, m => (wd ((fmtF32 false).round .rne false 0 m).1, fl)

/-- QMAX (R218). -/
def execQmax (r : RWord) (ty : QmaxType) (seg : Seg) (s : State) : Out :=
  s.issue (.qmax r ty seg) r.head (fun x =>
    let c := s.issuer x
    let S := s.segSize c seg
    let vs := s.laneAll x c r.a.field.toNat
    let rs := (segBases S x.act).map (fun b => (b, qmaxVal ty x.ftz ((segValues vs x.act S b).filterMap (fun v => v))))
    let of := fun L => ((rs.find? (fun e => e.1 == segBase S L)).map (fun e => e.2.1.toNat)).getD 0
    s.crossbarWord x 1 false r.d.toNat 1 (if ty = .i32 then 0#32 else flNV) of (rs.foldl (fun a e => a ||| e.2.2) 0#32))

/-- ceil (log2 q) of a nonzero magnitude. -/
def ceilLog2 (q : Rat3) : Int :=
  let e := log2Floor q.num q.den
  if (Rat3.scaled false 1 e).cmp q.abs == .eq then e else e + 1

/-- QSCALE of a source (R219). M is the largest finite magnitude of the format. Its flags are those of R209: a tiny
quotient sets NX and not UF.
(Log 18, DEDUCED.) -/
def qscaleVal (ftz : Bool) (out : QscaleOut) (M : Rat3) (a : Fp) : Nat × Word :=
  let top : Nat × Word := match out with
    | .e8m0 => (0xFE, flSAT)
    | .f32 => (0x7F800000, 0#32)
    | .p2 => (0x7F000000, flSAT)
  match a with
  | .nan sig => (if out = .e8m0 then 0xFF else 0x7FC00000, flIf sig flNV)
  | .inf _ => top
  | .fin q =>
    if q.isZero then (if out = .e8m0 then 0 else 0x00800000, 0#32)
    else if M.isZero then top
    else
      let v := q.abs.div M
      let e := ceilLog2 v
      match out with
      | .e8m0 =>
        let k := max (-127) (min 127 e)
        ((k + 127).toNat, flIf (k != e) flSAT)
      | .f32 =>
        let y := (fmtF32 ftz).round .ru false 0 (.fin v)
        (y.1, y.2 &&& ~~~flUF)
      | .p2 =>
        let k := max (-126) (min 127 e)
        ((k + 127).toNat * 2 ^ 23, flIf (k != e) flSAT)

/-- The check of a crossbar word's format register (R177): nothing is checked when Active() is empty. -/
def State.withFormat (s : State) (x : Ctx) (n : Nat) (k : Fmt → Res) : Res :=
  let w := (s.issuer x).fmReg n
  if x.act ≠ 0#32 && !fmtValid w then .trap (x.formatTrap n)
  else k (fmtOfReg w)

/-! What QSCALE, QNT and DEQ can set in some lane for some operand values (R157): their subcodes and the format decide. -/

/-- QSCALE: a signalling NaN and an infinity are operands of every format; a quotient by M is inexact for some source
unless M is 0 or 1, and overflows for some source where M is below 1. -/
def qscaleMay (out : QscaleOut) (M : Rat3) : Word :=
  match out with
  | .e8m0 | .p2 => flNV ||| flSAT
  | .f32 => flNV ||| flIf (!M.isZero && M.cmp ⟨false, 1, 1⟩ == .lt) flOF |||
      flIf (!M.isZero && M.cmp ⟨false, 1, 1⟩ != .eq) flNX

/-- QNT: quotients run from below every format's smallest normal to beyond every format's range. -/
def qntMay (sat : Bool) (f : Fmt) : Word :=
  flNV ||| flDZ ||| flNX ||| (if sat then flSAT else flOF) ||| flIf (f.e != 0) flUF

/-- The finite values of a format of at most 8 bits. -/
def Fmt.values (f : Fmt) : List Rat3 := (List.range (2 ^ f.w)).filterMap (fun c => match f.value c with
  | .fin q => some q
  | _ => none)

/-- DEQ: a product overflows for some scale where a value exceeds 1 in magnitude; one is tiny and inexact where a value
is no integer; and one is inexact then, or where a value has two significant bits. -/
def deqMay (f : Fmt) : Word :=
  let vs := f.values
  let big := vs.any (fun q => q.den < q.num)
  let fraction := vs.any (fun q => q.num % q.den != 0)
  flNV ||| flIf big flOF ||| flIf fraction flUF ||| flIf (big || fraction) flNX

/-- A word that the crossbar computes lane by lane. -/
def State.crossbarEach (s : State) (x : Ctx) (k : Nat) (u : Bool) (d : Nat) (may : Word) (f : Nat → Nat × Word) : Res :=
  let rs := x.each u f
  s.crossbarWord x k u d 1 may (fun L => ((rs.find? (fun e => e.1 == L)).map (fun e => e.2.1)).getD 0) (Results.flags rs)

/-- QSCALE (R219). -/
def execQscale (r : RWord) (out : QscaleOut) (fm : BitVec 3) (s : State) : Out :=
  s.issue (.qscale r out fm) r.head (fun x => s.withFormat x fm.toNat (fun f =>
    let c := s.issuer x
    s.crossbarEach x 1 r.u r.d.toNat (qscaleMay out f.maxMag) (fun L =>
      qscaleVal x.ftz out f.maxMag (s.fval x c r.a L))))

/-- QNT (R220). -/
def execQnt (r : RWord) (rnd : Rnd) (sat : Bool) (fm : BitVec 3) (s : State) : Out :=
  s.issue (.qnt r rnd sat fm) r.head (fun x => s.withFormat x fm.toNat (fun f =>
    let c := s.issuer x
    s.crossbarEach x 2 false r.d.toNat (qntMay sat f) (fun L =>
      let q := (s.fval x c r.a L).div (s.fval x c r.b L)
      let y := f.round rnd sat (s.rand16 x c r.c L) q.1
      (y.1, q.2 ||| y.2))))

/-- DEQ (R221). -/
def execDeq (r : RWord) (rnd : Rnd4) (fm : BitVec 3) (s : State) : Out :=
  s.issue (.deq r rnd fm) r.head (fun x => s.withFormat x fm.toNat (fun f =>
    let c := s.issuer x
    s.crossbarEach x 1 false r.d.toNat (deqMay f) (fun L =>
      finish32 x.ftz rnd.toRnd false 0 ((f.value (s.val x c r.a 1 L)).mul (s.fval x c r.b L)))))

/-- Element width and group size (R222). -/
def PackWidth.bits : PackWidth → Nat
  | .b4 => 4
  | .b8 => 8
  | .b16 => 16

/-- PACK (R222). -/
def execPack (r : RWord) (w : PackWidth) (s : State) : Out :=
  s.issue (.pack r w) r.head (fun x =>
    let vs := s.laneAll x (s.issuer x) r.a.field.toNat
    let k := PackWidth.bits w
    let g := 32 / k
    s.crossbarWord x 1 false r.d.toNat 1 0#32 (fun L =>
      (List.range g).foldl (fun y i =>
        let j := segBase g L + i
        if x.act.getLsbD j then y + (vs.getD j 0#32).toNat % 2 ^ k * 2 ^ (k * i) else y) 0) 0#32)

/-- UNPACK (R222). -/
def execUnpack (r : RWord) (w : PackWidth) (sx : Bool) (s : State) : Out :=
  s.issue (.unpack r w sx) r.head (fun x =>
    let vs := s.laneAll x (s.issuer x) r.a.field.toNat
    let k := PackWidth.bits w
    s.crossbarWord x 1 false r.d.toNat 1 0#32 (fun L =>
      let e := (vs.getD L 0#32).toNat / 2 ^ (k * (L % (32 / k))) % 2 ^ k
      if sx then intBits (signExt e k) 32 else e) 0#32)

end Sys2Proof.Machine
end

