-- ==== Sys2Proof/Machine/Distribution.lean ====
section
/-! DEFINITION. The distribution unit (R224–R248). -/

namespace Sys2Proof.Machine

/-! ## Points, their order and condensation (R232–R234) -/

/-- A point: index, FP32 value and weight. -/
abbrev Point := Nat × Word × Nat

/-- The place of a value in the order of R233: NaNs last, −0 below +0. -/
def pointKey (w : Word) : Int :=
  if isNan32 w then 2 ^ 33
  else if w.getLsbD 31 then -((w &&& 0x7FFFFFFF#32).toNat : Int) - 1
  else w.toNat

/-- Put a point in order, behind those of the same key: the indices come in ascending order. -/
def insertPoint (p : Point) : List Point → List Point
  | [] => [p]
  | q :: t => if pointKey p.2.1 < pointKey q.2.1 then p :: q :: t else q :: insertPoint p t

/-- The points of nonzero weight, in order. -/
def sortPoints (ps : List Point) : List Point :=
  (ps.filter (fun p => p.2.2 != 0)).foldl (fun a p => insertPoint p a) []

/-- A finite FP32 value in units of 2^−149. -/
def unit149 (w : Word) : Int :=
  match f32 false w with
  | .fin q => q.signed * (2 ^ 149 : Nat) / (q.den : Int)
  | _ => 0

/-- An FP32 infinity. -/
def isInf32 (w : Word) : Bool := (f32 false w).isInf

/-- The portions of points in a bin from lo to hi; cum is the weight before the first point. -/
def binParts (lo hi : Nat) : Nat → List Point → List (Nat × Word)
  | _, [] => []
  | cum, (_, x, u) :: t =>
    let p := min (cum + u) hi - max cum lo
    if p = 0 then binParts lo hi (cum + u) t else (p, x) :: binParts lo hi (cum + u) t

/-- The value of a bin (R234). -/
def binValue (ftz : Bool) (g : List (Nat × Word)) : Word :=
  let xs := g.map (fun e => e.2)
  let pos := xs.contains (inf32 false)
  let neg := xs.contains (inf32 true)
  if xs.any isNan32 || (pos && neg) then nan32
  else if pos then inf32 false
  else if neg then inf32 true
  else
    let sum : Int := g.foldl (fun a e => a + e.1 * unit149 e.2) 0
    if sum = 0 then zero32 (xs.all (fun x => x == zero32 true))
    else (toF32 ftz .rne false 0 (.fin ((Rat3.ofInt sum).scale (-149 - 27)))).1

/-- Condense points whose weights sum to 2^30 (R234). -/
def condense (ftz : Bool) (ps : List Point) : List Word :=
  let sorted := sortPoints ps
  (List.range 8).map (fun b => binValue ftz (binParts (b * 2 ^ 27) ((b + 1) * 2 ^ 27) 0 sorted))

/-- The weights of a condensed value. -/
def flatWeights : List Nat := List.replicate 8 4096

/-! ## Shapes of distribution words -/

/-- An FP32 scalar operand as a word: flushed under FTZ; an immediate is its integer exactly (R232). -/
def State.dscalar (s : State) (x : Ctx) (c : Course) (o : Operand) (L : Nat) : Word :=
  if o.kind = .imm then s.fbits x c o L else flush32 x.ftz (s.fbits x c o L)

/-- The value of a distribution register that a word computes with: points flushed under FTZ (R227, R232). -/
def Course.dsource (c : Course) (ftz : Bool) (n L : Nat) : DCell :=
  let d := c.distVal n L
  { d with x := d.x.map (flush32 ftz) }

/-- Take a fresh tag: the counter goes from 65,535 to 1 (R229). -/
def Course.takeTag (c : Course) : Course := { c with tagCtr := if c.tagCtr = 65535 then 1 else c.tagCtr + 1 }

/-- Mark a distribution register empty in the lanes of a mask (R228). -/
def Course.markDist (c : Course) (n : Nat) (m : LaneMask) : Course :=
  { c with d := (lanesOf m).foldl (fun d L =>
      Tab.put d (cellKey n L) { Tab.get {} d (cellKey n L) with empty := true }) c.d }

/-- Occupy the distribution unit for k cycles once it is free, if the word has an active lane (R225). -/
def State.withDist (s : State) (x : Ctx) (k : Nat) (f : State → Res) : Res :=
  let c := s.issuer x
  if s.clock < ((s.core c.core).bay c.bay).distUntil then .block false
  else if x.act = 0#32 then .go s
  else f (s.onBay c.core c.bay (fun b => { b with distUntil := s.clock + k }))

/-- A word that delivers to a distribution register, with a fresh tag if it takes one. -/
def State.distWord (s : State) (x : Ctx) (k d : Nat) (tag : Bool) (may : Word) (f : Nat → DCell × Word) : Res :=
  s.withDist x k (fun s =>
    let rs := (lanesOf x.act).map (fun L => (L, f L))
    let s := s.addPend x .dist (.values (rs.map (fun e => .dist d e.1 e.2.1))) []
      (rs.foldl (fun a e => a ||| e.2.2) 0#32) may
    .go (s.onCourse x.crs (fun c => (if tag then c.takeTag else c).markDist d x.act)))

/-- A word that delivers one value per lane to a lane register. -/
def State.distOut (s : State) (x : Ctx) (k d : Nat) (may : Word) (f : Nat → Nat × Word) : Res :=
  s.withDist x k (fun s => s.lateWord x .dist false d 1 may f)

/-! ## Building and reading points (R235–R237) -/

/-- Add 1 to the n points of largest remainder, ties to the lower index (R235): each round picks the best left. -/
def largestRemainders : Nat → List Nat → List Nat → List Nat
  | 0, _, ws => ws
  | n + 1, rs, ws =>
    let best := rs.foldl max 0
    let i := rs.findIdx (fun r => r == best)
    largestRemainders n (setAt rs i 0) (setAt ws i (ws.getD i 0 + 1))

/-- The weights that DMK stores, and MIS (R235). -/
def dmkWeights (us : List Nat) : List Nat × Bool :=
  let S := us.foldl (· + ·) 0
  if S = 0 then (flatWeights, true)
  else if S = 32768 then (us, false)
  else
    let fs := us.map (fun u => u * 32768 / S)
    let rs := us.map (fun u => u * 32768 % S)
    (largestRemainders (32768 - fs.foldl (· + ·) 0) rs fs, false)

/-- Is the code a signalling NaN? -/
def isSnan32 (w : Word) : Bool := (f32 false w).isSnan

/-- DMK (R235). The values keep their bits, flushed under FTZ.
(Log 20, DEDUCED.) -/
def execDmk (r : RWord) (eq : Bool) (s : State) : Out :=
  s.issue (.dmk r eq) r.head (fun x =>
    let c := s.issuer x
    s.distWord x 4 r.d.toNat true (flIf (!eq) flDNR ||| flNV) (fun L =>
      let xs := (List.range 8).map (fun i => flush32 x.ftz (s.laneVal c x.sup (r.a.field.toNat + i) L))
      let us := (List.range 8).map (fun i =>
        s.val x c { r.b with field := r.b.field + BitVec.ofNat 8 (i / 2) } 1 L / 2 ^ (16 * (i % 2)) % 2 ^ 16)
      let w := if eq then (flatWeights, false) else dmkWeights us
      ({ x := xs, w := w.1, tag := c.tagCtr, mis := w.2 }, flIf w.2 flDNR ||| flIf (xs.any isSnan32) flNV)))

/-- An index operand (R236). -/
def State.dindex (s : State) (x : Ctx) (c : Course) (o : Operand) (L : Nat) : Nat := s.val x c o 1 L % 8

/-- DGET (R236). -/
def execDget (r : RWord) (w : Bool) (s : State) : Out :=
  s.issue (.dget r w) r.head (fun x =>
    let c := s.issuer x
    s.distOut x 4 r.d.toNat 0#32 (fun L =>
      let d := c.distVal r.a.field.toNat L
      let n := s.dindex x c r.b L
      (if w then d.w.getD n 0 else (d.x.getD n 0#32).toNat, 0#32)))

/-- DSET (R237). -/
def execDset (r : RWord) (s : State) : Out :=
  s.issue (.dset r) r.head (fun x =>
    let c := s.issuer x
    s.distWord x 4 r.d.toNat false flNV (fun L =>
      let d := c.distVal r.a.field.toNat L
      let v := s.dscalar x c r.b L
      ({ d with x := setAt d.x (s.dindex x c r.c L) (if isNan32 v then nan32 else v) }, flIf (isSnan32 v) flNV)))

/-! ## Binary arithmetic (R238) -/

/-- FMIN.nan and FMAX.nan of two codes (R194). -/
def minMaxNan (max : Bool) (p q : Word) : Word × Word :=
  let a := f32 false p
  let b := f32 false q
  (match minMaxPick max true a b with
    | none => nan32
    | some true => p
    | some false => q, snanFlag [a, b])

/-- The combination of two distributions in a lane: coupled on equal tags, else all pairs, condensed (R238). -/
def combineDist (ftz : Bool) (f : Word → Word → Word × Word) (T : Nat) (a b : DCell) : DCell × Word :=
  if a.tag = b.tag then
    let ys := (List.range 8).map (fun i => f (a.x.getD i 0#32) (b.x.getD i 0#32))
    let m := a.w != b.w
    ({ x := ys.map (fun y => y.1), w := a.w, tag := a.tag, mis := a.mis || b.mis || m, cnd := a.cnd },
      ys.foldl (fun z y => z ||| y.2) (flIf m flDNR))
  else
    let ps := (List.range 64).map (fun k =>
      (k, f (a.x.getD (k / 8) 0#32) (b.x.getD (k % 8) 0#32), a.w.getD (k / 8) 0 * b.w.getD (k % 8) 0))
    ({ x := condense ftz (ps.map (fun p => (p.1, p.2.1.1, p.2.2))), w := flatWeights, tag := T,
       mis := a.mis || b.mis, cnd := true }, ps.foldl (fun z p => z ||| p.2.1.2) 0#32)

/-- DADD to DMAX. -/
def State.binaryDist (s : State) (x : Ctx) (r : RWord) (may : Word) (f : Word → Word → Word × Word) : Res :=
  let c := s.issuer x
  let a := fun L => c.dsource x.ftz r.a.field.toNat L
  let b := fun L => c.dsource x.ftz r.b.field.toNat L
  let pairs := (lanesOf x.act).any (fun L => (a L).tag != (b L).tag)
  s.distWord x (if pairs then 32 else 4) r.d.toNat pairs may (fun L => combineDist x.ftz f c.tagCtr (a L) (b L))

/-- The flags of DADD, DSUB and DMUL. -/
def flDistArith : Word := flNV ||| flOF ||| flUF ||| flNX ||| flDNR

/-- DADD. -/
def execDadd (r : RWord) (s : State) : Out :=
  s.issue (.dadd r) r.head (fun x => s.binaryDist x r flDistArith (fun p q => addF32 x.ftz p q))
/-- DSUB. -/
def execDsub (r : RWord) (s : State) : Out :=
  s.issue (.dsub r) r.head (fun x => s.binaryDist x r flDistArith (fun p q =>
    rne32 x.ftz ((f32 x.ftz p).add false (f32 x.ftz q).flip)))
/-- DMUL. -/
def execDmul (r : RWord) (s : State) : Out :=
  s.issue (.dmul r) r.head (fun x => s.binaryDist x r flDistArith (fun p q =>
    rne32 x.ftz ((f32 x.ftz p).mul (f32 x.ftz q))))
/-- DMIN. -/
def execDmin (r : RWord) (s : State) : Out :=
  s.issue (.dmin r) r.head (fun x => s.binaryDist x r (flNV ||| flDNR) (minMaxNan false))
/-- DMAX. -/
def execDmax (r : RWord) (s : State) : Out :=
  s.issue (.dmax r) r.head (fun x => s.binaryDist x r (flNV ||| flDNR) (minMaxNan true))

/-! ## Pointwise maps (R239, R240) -/

/-- G of DMAP (R239). -/
def dmapVal (fn : DmapFn) (ftz : Bool) (w : Word) : Word × Word :=
  let v := f32 ftz w
  match fn with
  | .neg => (if v.isNan then nan32 else w ^^^ 0x80000000#32, snanFlag [v])
  | .abs => (if v.isNan then nan32 else w &&& 0x7FFFFFFF#32, snanFlag [v])
  | .exp => expFn ftz w.toNat v
  | .log => logFn ftz w.toNat v
  | .rcp => rne32 ftz ((Fp.ofInt 1).div v)
  | .sqrt => rne32 ftz v.sqrt
  | .tanh => tanhFn ftz w.toNat v
  | .sq => rne32 ftz (v.mul v)

/-- The flags that a map can set. -/
def dmapMay : DmapFn → Word
  | .neg | .abs => flNV
  | .exp => flNV ||| flOF ||| flUF ||| flNX
  | .log => flNV ||| flDZ ||| flNX
  | .rcp => flNV ||| flDZ ||| flOF ||| flUF ||| flNX
  | .sqrt => flNV ||| flNX
  | .tanh => flNV ||| flUF ||| flNX
  | .sq => flNV ||| flOF ||| flUF ||| flNX

/-- A word that maps every point and keeps weights, tag and FLAGS. -/
def State.pointwise (s : State) (x : Ctx) (r : RWord) (may : Word) (f : Nat → Word → Word × Word) : Res :=
  let c := s.issuer x
  s.distWord x 4 r.d.toNat false may (fun L =>
    let d := c.dsource x.ftz r.a.field.toNat L
    let ys := d.x.map (f L)
    ({ d with x := ys.map (fun y => y.1) }, ys.foldl (fun a y => a ||| y.2) 0#32))

/-- DMAP. -/
def execDmap (r : RWord) (fn : DmapFn) (s : State) : Out :=
  s.issue (.dmap r fn) r.head (fun x => s.pointwise x r (dmapMay fn) (fun _ w => dmapVal fn x.ftz w))

/-- DAFF (R240). -/
def execDaff (r : RWord) (s : State) : Out :=
  s.issue (.daff r) r.head (fun x =>
    let c := s.issuer x
    s.pointwise x r (flNV ||| flOF ||| flUF ||| flNX) (fun L w =>
      rne32 x.ftz (Fp.fma false (f32 x.ftz w) (f32 x.ftz (s.dscalar x c r.b L)) (f32 x.ftz (s.dscalar x c r.c L)))))

/-! ## Mixing and condensing (R241, R242) -/

/-- NV for a signalling NaN among the points that a condensation counts, those of nonzero weight (R190, R232).
(Log 111, DEDUCED.) -/
def pointFlags (ps : List Point) : Word := flIf (ps.any (fun p => p.2.2 != 0 && isSnan32 p.2.1)) flNV

/-- DMIX. -/
def execDmix (r : RWord) (s : State) : Out :=
  s.issue (.dmix r) r.head (fun x =>
    let c := s.issuer x
    s.distWord x 16 r.d.toNat true (flNV ||| flSAT) (fun L =>
      let a := c.dsource x.ftz r.a.field.toNat L
      let b := c.dsource x.ftz r.b.field.toNat L
      let raw := s.val x c r.c 1 L
      let P := min raw 32768
      let ps := (List.range 16).map (fun k =>
        if k < 8 then (k, a.x.getD k 0#32, P * a.w.getD k 0)
        else (k, b.x.getD (k - 8) 0#32, (32768 - P) * b.w.getD (k - 8) 0))
      ({ x := condense x.ftz ps, w := flatWeights, tag := c.tagCtr, mis := a.mis || b.mis, cnd := true },
        flIf (P != raw) flSAT ||| pointFlags ps)))

/-- DCOND. -/
def execDcond (r : RWord) (s : State) : Out :=
  s.issue (.dcond r) r.head (fun x =>
    let c := s.issuer x
    s.distWord x 8 r.d.toNat true flNV (fun L =>
      let a := c.dsource x.ftz r.a.field.toNat L
      let ps := (List.range 8).map (fun k => (k, a.x.getD k 0#32, a.w.getD k 0 * 2 ^ 15))
      ({ x := condense x.ftz ps, w := flatWeights, tag := c.tagCtr, mis := a.mis, cnd := true }, pointFlags ps)))

/-! ## Extraction (R243–R245) -/

/-- The points of a register. -/
def DCell.points (d : DCell) : List Point := (List.range 8).map (fun k => (k, d.x.getD k 0#32, d.w.getD k 0))

/-- Σ w × x^k × 2^−15, rounded once; an exact zero is +0. -/
def momentSum (ftz : Bool) (k : Nat) (ps : List (Word × Nat)) : Word × Word :=
  let sum : Int := ps.foldl (fun a p => a + p.2 * unit149 p.1 ^ k) 0
  toF32 ftz .rne false 0 (.fin ((Rat3.ofInt sum).scale (-(149 * k + 15 : Nat))))

/-- DMOM of a distribution (R243).
(Log 108, DESIGN CHOICE.) -/
def momentVal (ftz : Bool) (k : Nat) (d : DCell) : Word × Word :=
  let ps := (d.points.filter (fun p => p.2.2 != 0)).map (fun p => (p.2.1, p.2.2))
  let xs := ps.map (fun p => p.1)
  let pos := xs.contains (inf32 false)
  let neg := xs.contains (inf32 true)
  let sn := flIf (xs.any isSnan32) flNV
  let mu : Word × Word :=
    if xs.any isNan32 then (nan32, sn)
    else if pos && neg then (nan32, flNV)
    else if pos then (inf32 false, 0#32)
    else if neg then (inf32 true, 0#32)
    else momentSum ftz 1 ps
  if k = 1 then mu
  else if isNan32 mu.1 then mu
  else if isInf32 mu.1 then (nan32, mu.2 ||| flNV)
  else
    let ds := ps.map (fun p => (rne32 ftz ((f32 ftz p.1).add false (f32 ftz mu.1).flip), p.2))
    let fl := ds.foldl (fun a e => a ||| e.1.2) mu.2
    let infs := (ds.map (fun e => e.1.1)).filter isInf32
    if infs.isEmpty then
      let y := momentSum ftz k (ds.map (fun e => (e.1.1, e.2)))
      (y.1, fl ||| y.2)
    else
      let signs := infs.map (fun w => k % 2 == 1 && w.getLsbD 31)
      if signs.all (fun b => !b) then (inf32 false, fl)
      else if signs.all (fun b => b) then (inf32 true, fl)
      else (nan32, fl ||| flNV)

/-- The k of .mk. -/
def Moment.k : Moment → Nat
  | .m1 => 1
  | .m2 => 2
  | .m3 => 3
  | .m4 => 4

/-- DMOM. -/
def execDmom (r : RWord) (k : Moment) (s : State) : Out :=
  s.issue (.dmom r k) r.head (fun x =>
    let c := s.issuer x
    s.distOut x 8 r.d.toNat (flNV ||| flOF ||| flUF ||| flNX) (fun L =>
      let y := momentVal x.ftz (Moment.k k) (c.dsource x.ftz r.a.field.toNat L)
      (y.1.toNat, y.2)))

/-- The first point whose cumulative weight reaches q. -/
def quantileAt (q : Nat) : Nat → List Point → Word
  | _, [] => 0#32
  | _, [(_, x, _)] => x
  | cum, (_, x, u) :: t => if q ≤ cum + u then x else quantileAt q (cum + u) t

/-- The mass of DQTL.f32 as an integer: RNE of B × 32,768 (R244). -/
def massOf (v : Fp) : Int :=
  match v with
  | .fin q => (roundInt .rne 0 (q.scale 15)).1
  | .inf neg => if neg then -1 else 32769
  | .nan _ => 0

/-- DQTL of a distribution at a mass. -/
def quantileVal (d : DCell) (q : Int) : Word × Word :=
  let k := max 0 (min 32768 q)
  let y := quantileAt k.toNat 0 (sortPoints d.points)
  (if isNan32 y then nan32 else y, flIf (k != q) flSAT)

/-- DQTL (R244). -/
def execDqtl (r : RWord) (f32_ : Bool) (s : State) : Out :=
  s.issue (.dqtl r f32_) r.head (fun x =>
    let c := s.issuer x
    s.distOut x 8 r.d.toNat (flSAT ||| flIf f32_ flNV) (fun L =>
      let d := c.dsource x.ftz r.a.field.toNat L
      let b := s.fval x c r.b L
      let y := if f32_ then
          (if b.isNan then (nan32, snanFlag [b]) else quantileVal d (massOf b))
        else quantileVal d (s.val x c r.b 1 L)
      (y.1.toNat, y.2)))

/-- DCDF (R245). -/
def execDcdf (r : RWord) (le : Bool) (s : State) : Out :=
  s.issue (.dcdf r le) r.head (fun x =>
    let c := s.issuer x
    s.distOut x 4 r.d.toNat flNV (fun L =>
      let d := c.dsource x.ftz r.a.field.toNat L
      let b := s.fval x c r.b L
      if b.isNan then (nan32.toNat, snanFlag [b])
      else
        let m := d.points.foldl (fun a p =>
          let v := f32 false p.2.1
          if !v.isNan && (v.cmp b == .lt || (le && v.cmp b == .eq)) then a + p.2.2 else a) 0
        ((toF32 false .rne false 0 (.fin (Rat3.scaled false m (-15)))).1.toNat, 0#32)))

/-! ## DTAG (R246) -/

/-- DTAG.new. -/
def execDtagNew (r : RWord) (s : State) : Out :=
  s.issue (.dtagNew r) r.head (fun x =>
    let c := s.issuer x
    s.distWord x 4 r.d.toNat true 0#32 (fun L => ({ c.distVal r.a.field.toNat L with tag := c.tagCtr }, 0#32)))

/-- DTAG.copy. -/
def execDtagCopy (r : RWord) (s : State) : Out :=
  s.issue (.dtagCopy r) r.head (fun x =>
    let c := s.issuer x
    s.distWord x 4 r.d.toNat false 0#32 (fun L =>
      ({ c.distVal r.a.field.toNat L with tag := (c.distVal r.b.field.toNat L).tag }, 0#32)))

/-- DTAG.read. -/
def execDtagRead (r : RWord) (s : State) : Out :=
  s.issue (.dtagRead r) r.head (fun x =>
    let c := s.issuer x
    s.distOut x 4 r.d.toNat 0#32 (fun L =>
      let d := c.distVal r.a.field.toNat L
      (d.tag + (b2n d.mis + 2 * b2n d.cnd) * 2 ^ 16, 0#32)))

end Sys2Proof.Machine
end

