-- ==== Sys2Proof/Machine/Local.lean ====
section
/-! DEFINITION. Shared memory, scratchpad and spill area (R249–R265). A word checks its addresses at issue and reads its
operands; the access itself is performed when VALUE_LANDS performs it. -/

namespace Sys2Proof.Machine

/-! ## Addresses -/

/-- SignExt of the offset field (R84). -/
def MWord.ofsVal (m : MWord) : Int := signExt m.ofs.toNat 16

/-- The base of a format-M word in a lane: w registers (R84). -/
def State.baseVal (s : State) (x : Ctx) (c : Course) (m : MWord) (w L : Nat) : Nat :=
  if m.bk then s.unifGroup c x.sup m.base.toNat w else s.laneGroup c x.sup m.base.toNat w L

/-- The effective address of a lane, without wrap (R84). -/
def State.effAddr (s : State) (x : Ctx) (c : Course) (m : MWord) (w L : Nat) : Int :=
  s.baseVal x c m w L + MWord.ofsVal m

/-- The team of a cluster by its rank: the issuing team's own cluster (R35, R250). -/
def State.clusterMember (s : State) (team rank : Nat) : Nat :=
  let t := s.team team
  let lr := (s.gridOf team).lr
  let n := t.number / (lr.w * lr.h) * (lr.w * lr.h) + rank
  (s.teams.keys (fun _ u => u.grid == t.grid && u.number == n)).headD team

/-- Which local memory a word names. -/
inductive Reach where
  | own | cluster | scratch | spill
  deriving DecidableEq, Repr

/-- The space and the place in it of n bytes at an effective address, if they lie in it (R249, R250, R252, R253). -/
def State.locate (s : State) (c : Course) (reach : Reach) (E : Int) (n L : Nat) : Option (Space × Nat) :=
  let lr := s.lrOf c
  let e := E.toNat
  if E < 0 then none
  else
    match reach with
    | .own => if e + n ≤ lr.shared then some (.shared c.team, e) else none
    | .cluster =>
      let ofs := e % 2 ^ 24
      if e + n ≤ 2 ^ 32 && e / 2 ^ 24 < lr.w * lr.h && ofs + n ≤ lr.shared then
        some (.shared (s.clusterMember c.team (e / 2 ^ 24)), ofs)
      else none
    | .scratch => if e + n ≤ lr.scratch then some (.scratch (s.team c.team).grid (dieOf c.core), e) else none
    | .spill =>
      match c.spill with
      | b :: _ =>
        if e + n ≤ lr.spill - min lr.spill 32 then some (.spill b, c.spillAt (512 * (e / 16) + 16 * L + e % 16)) else none
      | [] => none

/-- The check of R257 for one lane: n bytes, aligned to al, of access kind k. -/
def State.checkLocal (s : State) (x : Ctx) (c : Course) (reach : Reach) (n al k : Nat) (L : Nat) (E : Int) :
    Option TrapRec :=
  if E % (al : Int) ≠ 0 then some (x.addrTrap 0x08 0 L (intBits E 64) 0)
  else if (s.locate c reach E n L).isSome then none
  else if reach = .spill then some (x.addrTrap 0x0B 0 L (intBits E 64) 0)
  else some (x.addrTrap 0x07 2 L (intBits E 64) k)

/-- Run the checks over the active lanes in ascending order, and go on if none fails. -/
def State.withLocal (s : State) (x : Ctx) (m : MWord) (reach : Reach) (n al k : Nat)
    (f : Course → (Nat → Space × Nat) → Res) : Res :=
  let c := s.issuer x
  let addr := fun L => s.effAddr x c m 1 L
  if x.act = 0#32 then .go s
  else
    match (lanesOf x.act).findSome? (fun L => s.checkLocal x c reach n al k L (addr L)) with
    | some t => .trap t
    | none => f c (fun L => (s.locate c reach (addr L) n L).getD (.shared c.team, 0))

/-- The accesses of a word, one list for each space that its lanes name, in ascending lane order. -/
def groupAccess (as : List (Space × LaneAccess)) : List (Space × List LaneAccess) :=
  let sps := as.foldl (fun l a => if l.contains a.1 then l else l ++ [a.1]) []
  sps.map (fun sp => (sp, (as.filter (fun a => a.1 == sp)).map (fun a => a.2)))

/-- Issue the accesses of a word: each waits to be performed in its space. -/
def State.issueAccess (s : State) (x : Ctx) (op : LocalOp) (d w : Nat) (may : Word) (as : List (Space × LaneAccess)) :
    Res :=
  .go ((groupAccess as).foldl (fun s g =>
    s.addPend x .localMem (.access g.1 op g.2)
      (if w = 0 then [] else (List.range w).map (fun i => (⟨x.sup, true, d + i⟩, maskOfLanes (g.2.map (fun a => a.lane)))))
      0#32 may) s)

/-- A load (R258). -/
def State.loadWord (s : State) (x : Ctx) (m : MWord) (reach : Reach) : Res :=
  let n := m.size.bytes
  s.withLocal x m reach n n 0 (fun _ at_ =>
    s.issueAccess x (.load x.sup m.ds.toNat n) m.ds.toNat m.size.regs 0#32
      ((lanesOf x.act).map (fun L => ((at_ L).1, ⟨L, (at_ L).2, 0, 0⟩))))

/-- A store (R258): the data are read at issue. -/
def State.storeWord (s : State) (x : Ctx) (m : MWord) (reach : Reach) : Res :=
  let n := m.size.bytes
  s.withLocal x m reach n n 1 (fun c at_ =>
    s.issueAccess x (.store n) 0 0 0#32
      ((lanesOf x.act).map (fun L =>
        ((at_ L).1, ⟨L, (at_ L).2, s.laneGroup c x.sup m.ds.toNat m.size.regs L, 0⟩))))

/-- The flags that an atomic operation can set (R260). -/
def AtomOp.may : AtomOp → Word
  | .addF => flNV ||| flOF ||| flUF ||| flNX
  | _ => 0#32

/-- An atomic operation (R260). -/
def State.atomWord (s : State) (x : Ctx) (m : MWord) (op : AtomOp) (reach : Reach) : Res :=
  let n := m.size.bytes
  let w := m.size.regs
  s.withLocal x m reach n n 2 (fun c at_ =>
    s.issueAccess x (.atom x.sup m.ds.toNat n op x.ftz) m.ds.toNat w (AtomOp.may op)
      ((lanesOf x.act).map (fun L =>
        ((at_ L).1, ⟨L, (at_ L).2, s.laneGroup c x.sup m.ds.toNat w L,
          if op = .cas then s.laneGroup c x.sup (m.ds.toNat + w) w L else 0⟩))))

/-- LDS (R258). -/
def execLds (m : MWord) (clu : Bool) (s : State) : Out :=
  s.issue (.lds m clu) m.head (fun x => s.loadWord x m (if clu then .cluster else .own))
/-- STS (R258). -/
def execSts (m : MWord) (clu : Bool) (s : State) : Out :=
  s.issue (.sts m clu) m.head (fun x => s.storeWord x m (if clu then .cluster else .own))
/-- ATOMS (R260). -/
def execAtoms (m : MWord) (op : AtomOp) (clu : Bool) (s : State) : Out :=
  s.issue (.atoms m op clu) m.head (fun x => s.atomWord x m op (if clu then .cluster else .own))

/-- LDSF (R259). -/
def execLdsf (m : MWord) (clu : Bool) (s : State) : Out :=
  s.issue (.ldsf m clu) m.head (fun x =>
    s.withLocal x m (if clu then .cluster else .own) 1024 1024 0 (fun _ at_ =>
      s.issueAccess x (.fragment x.sup m.ds.toNat) m.ds.toNat 8 0#32
        ((lanesOf x.act).map (fun L => ((at_ L).1, ⟨L, (at_ L).2, 0, 0⟩)))))

/-- LDX (R252, R258). -/
def execLdx (m : MWord) (s : State) : Out := s.issue (.ldx m) m.head (fun x => s.loadWord x m .scratch)
/-- STX. -/
def execStx (m : MWord) (s : State) : Out := s.issue (.stx m) m.head (fun x => s.storeWord x m .scratch)
/-- ATOMX. -/
def execAtomx (m : MWord) (op : AtomOp) (s : State) : Out :=
  s.issue (.atomx m op) m.head (fun x => s.atomWord x m op .scratch)
/-- LDK (R253, R258). -/
def execLdk (m : MWord) (s : State) : Out := s.issue (.ldk m) m.head (fun x => s.loadWord x m .spill)
/-- STK. -/
def execStk (m : MWord) (s : State) : Out := s.issue (.stk m) m.head (fun x => s.storeWord x m .spill)

/-! ## Performing an access -/

/-- The new value of an atomic operation on n bytes, with the flags of .add.f32 (R260). -/
def atomNew (op : AtomOp) (ftz : Bool) (n o x1 x2 : Nat) : Nat × Word :=
  let w := 8 * n
  let so := signExt o w
  let sx := signExt x1 w
  match op with
  | .add => ((o + x1) % 2 ^ w, 0#32)
  | .min => (if sx < so then x1 else o, 0#32)
  | .max => (if so < sx then x1 else o, 0#32)
  | .minU => (min o x1, 0#32)
  | .maxU => (max o x1, 0#32)
  | .and => (o &&& x1, 0#32)
  | .or => (o ||| x1, 0#32)
  | .xor => (o ^^^ x1, 0#32)
  | .exch => (x1, 0#32)
  | .cas => (if o = x1 then x2 else o, 0#32)
  | .addF =>
    let y := addF32 ftz (wd o) (wd x1)
    (y.1.toNat, y.2)

/-- The registers that n bytes fill, with the poison of the words they come from (R258, R263). -/
def loadLandings (sup : Bool) (d L n : Nat) (bytes : List Byte) (bad : Nat → Nat → Bool) : List Landing :=
  (List.range (max 1 (n / 4))).map (fun i =>
    .lane sup (d + i) L (wd (ofBytes ((bytes.drop (4 * i)).take 4))) (bad (4 * i) (min 4 n)))

/-- Where word c of row j of a canonical tile lies (R255). -/
def tileByte (j c : Nat) : Nat := 32 * j + 4 * (c ^^^ (j / 4 % 8))

/-- Perform one lane of an access on a block: the block, what lands, and the flags. -/
def performLane (op : LocalOp) (b : Block) (a : LaneAccess) : Block × List Landing × Word :=
  let bad := fun o n => poisonedIn b.poison (a.at_ + o) n
  match op with
  | .load sup d n => (b, loadLandings sup d a.lane n (b.read a.at_ n) bad, 0#32)
  | .store n => (b.write a.at_ (bytesOf n a.x1) [], [], 0#32)
  | .atom sup d n op ftz =>
    let o := ofBytes (b.read a.at_ n)
    let y := atomNew op ftz n o a.x1 a.x2
    let p := bad 0 n
    let out := (List.range (n / 4)).map (fun i => Landing.lane sup (d + i) a.lane (regPart o i) p)
    if p then (b, out, 0#32) else (b.write a.at_ (bytesOf n y.1) [], out, y.2)
  | .fragment sup d =>
    (b, (List.range 8).map (fun c =>
      let o := tileByte a.lane c
      .lane sup (d + c) a.lane (wd (ofBytes (b.read (a.at_ + o) 4))) (bad o 4)), 0#32)

/-- Perform the lanes of an access in ascending order (R258, R260).
(Log 129, DESIGN CHOICE.) -/
def performAccess (op : LocalOp) : Block → List LaneAccess → Block × List Landing × Word
  | b, [] => (b, [], 0#32)
  | b, a :: t =>
    let y := performLane op b a
    let r := performAccess op y.1 t
    (r.1, y.2.1 ++ r.2.1, y.2.2 ||| r.2.2)

end Sys2Proof.Machine
end

