-- ==== Sys2Proof/Machine/Control.lean ====
section
/-! DEFINITION. Control words: branches, the rejoin stack and the control region, retirement, items, the extended
window, barriers and the cluster barrier (R107, R120–R133, R145–R149, R363–R367). -/

namespace Sys2Proof.Machine

/-! ## The control region (R120, R121) -/

/-- Bytes of the control region. -/
def regionBytes (spill : Nat) : Nat := min 1024 (32 * spill)

/-- The physical address of a byte of the control region: the last bytes of the spill area.
(Log 80, DEDUCED.) -/
def State.regionAt (s : State) (c : Course) (o : Nat) : Nat :=
  let sp := (s.lrOf c).spill
  c.spillAt (32 * sp - regionBytes sp + o)

/-- Do n more entries fit: the two stacks must not overlap? -/
def State.regionFits (s : State) (c : Course) (n : Nat) : Bool :=
  n == 0 || (!c.spill.isEmpty && 16 * (c.pathCount + c.rejoinCount + n) ≤ regionBytes (s.lrOf c).spill)

/-- The bytes of an entry: an address, a mask, and the arrived mask or zero. -/
def entryBytes (a : Nat) (f m : LaneMask) : List Byte := bytesOf 8 a ++ bytesOf 4 f.toNat ++ bytesOf 4 m.toNat

/-- Where path entry k lies: downward from the top. -/
def State.pathAddr (s : State) (c : Course) (k : Nat) : Nat :=
  s.regionAt c (regionBytes (s.lrOf c).spill - 16 * (k + 1))

/-- Push the path entries of a word, the last of the list first, so that the head of the list is the most recent. For one that
begins past the last word, Active() of the word is kept for its trap (R140, R441). -/
def State.pushPaths (s : State) (crs : Nat) (act : LaneMask) : List (Nat × LaneMask) → State
  | [] => s
  | (pc, m) :: t =>
    let s := s.pushPaths crs act t
    let c := s.course crs
    let s := s.memWrite (s.pathAddr c c.pathCount) (entryBytes pc m 0#32) []
    (s.setCourse crs { c with
      pathCount := c.pathCount + 1
      pastEnd := if pc = Config.addrLimit then Tab.put c.pastEnd c.pathCount act else c.pastEnd }).count 0 c.core 4 1

/-- The rejoin entries that lie in the control region, most recent first. -/
def State.spilledRejoins (s : State) (c : Course) : List Rejoin :=
  (List.range c.rejoinCount).reverse.map (fun k =>
    let b := s.memRead (s.regionAt c (16 * k)) 16
    ⟨ofBytes (b.take 8), wd (ofBytes ((b.drop 8).take 4)), wd (ofBytes (b.drop 12))⟩)

/-- Every rejoin entry, most recent first: those in hardware, then those in the control region. -/
def State.rejoins (s : State) (c : Course) : List Rejoin := c.rejoin ++ s.spilledRejoins c

/-- Write rejoin entries to the region, the list most recent first. -/
def State.writeRejoins (s : State) (c : Course) : List Rejoin → State
  | [] => s
  | e :: t => (s.writeRejoins c t).memWrite (s.regionAt c (16 * t.length)) (entryBytes e.l e.f e.a) []

/-- Set the rejoin stack: the 8 most recent entries are in hardware, the others in the region (R120). -/
def State.setRejoins (s : State) (crs : Nat) (l : List Rejoin) : State :=
  let c := s.course crs
  let deep := l.drop 8
  let s := s.writeRejoins c deep
  let s := s.count 0 c.core 4 (deep.length - c.rejoinCount)
  s.setCourse crs { c with rejoin := l.take 8, rejoinCount := deep.length }

/-- Is the entry ready: every lane of F has arrived (R122)? -/
def Rejoin.ready (e : Rejoin) : Bool := e.a == e.f && e.a != 0#32

/-- Is there something with which a free slot of the course is refilled (R122)? -/
def State.canRefill (s : State) (c : Course) : Bool := (s.rejoins c).any Rejoin.ready || 0 < c.pathCount

/-- Is the other slot taken: occupied, or being refilled (R122)? -/
def State.otherTaken (s : State) (c : Course) (j : Nat) : Bool := c.taken (1 - j) || s.canRefill c

/-- A slot that comes to hold the address past the last word has no word to begin: the word at 2^52 − 8 that left it there
is complete, and PC_OVERFLOW follows it (R140).
(Log 89, DEDUCED.) -/
def State.begins (s : State) (crs j : Nat) (act : LaneMask) : State :=
  let c := s.course crs
  if (c.slotN j).pc = Config.addrLimit then s.raise crs j (overflowTrap act (c.supIn j)) else s

/-- Refill one free slot: the most recent ready rejoin entry, else the most recently spilled path entry (R122), less the lanes that
have retired since. A path that a taken branch left begins no earlier than 3 cycles after it (R135).
(Log 116, DESIGN CHOICE.) -/
def State.fillSlot (s : State) (crs j : Nat) : State :=
  let c := s.course crs
  let all := s.rejoins c
  match all.find? Rejoin.ready with
  | some e =>
    let s := s.setRejoins crs (dropFirst Rejoin.ready all)
    s.onCourse crs (fun c => c.onSlot j (fun x => { x.freed with pc := e.l + 8, mask := e.a }))
  | none =>
    if c.pathCount = 0 then s
    else
      let b := s.memRead (s.pathAddr c (c.pathCount - 1)) 16
      s.setCourse crs (({ c with pathCount := c.pathCount - 1 }).onSlot j (fun x =>
        { x.freed with pc := ofBytes (b.take 8), mask := wd (ofBytes ((b.drop 8).take 4)) &&& c.live, notBefore := s.clock + 3 }))

/-- Active() of the word that left what a slot has just been refilled with: a path entry that begins past the last word keeps
it, and of a rejoin entry it is the lanes that have joined. -/
def Course.leftBy (c : Course) (j : Nat) : LaneMask :=
  if (c.slotN j).pc = Config.addrLimit then (Tab.find c.pastEnd c.pathCount).getD (c.slotN j).mask else (c.slotN j).mask

/-- Refill one free slot, and let it begin (R122, R140). -/
def State.refillSlot (s : State) (crs j : Nat) : State :=
  let t := s.fillSlot crs j
  let t := t.begins crs j ((t.course crs).leftBy j)
  t.onCourse crs (fun c => { c with pastEnd := Tab.del c.pastEnd c.pathCount })

/-- SLOT_REFILL (R122): an occupied slot is never displaced. -/
def execSlotRefill (crs : Nat) (s : State) : Out :=
  let c := s.course crs
  if !c.taken 0 && s.canRefill c then .next (s.refillSlot crs 0)
  else if !c.taken 1 && s.canRefill c then .next (s.refillSlot crs 1)
  else .next s

/-! ## The extended window (R142, R145–R149) -/

/-- VACQ (R147). -/
def execVacq (r : RWord) (s : State) : Out :=
  s.issue (.vacq r) r.head (fun x =>
    let c := s.issuer x
    let set := r.a.field.toNat
    if x.act = 0#32 then .go s
    else if (c.wanted set).isEmpty then .go s
    else if (s.vacqWaiters c.core c.bay).isEmpty && (c.wanted set).length ≤ s.poolFree c.team c.bay then
      .go (s.takeBlocks x.crs set)
    else .wait s (.vacq set s.stamp))

/-- VACQ.nb (R147). -/
def execVacqNb (r : RWord) (s : State) : Out :=
  s.issue (.vacqNb r) r.head (fun x =>
    let c := s.issuer x
    let set := r.a.field.toNat
    let d := r.d.toNat
    if x.act = 0#32 then .go s
    else if (c.wanted set).isEmpty then s.deliverU x d 1 1
    else if (s.vacqWaiters c.core c.bay).isEmpty && (c.wanted set).length ≤ s.poolFree c.team c.bay then
      (s.takeBlocks x.crs set).deliverU x d 1 1
    else s.deliverU x d 1 0)

/-- VREL (R148). -/
def execVrel (r : RWord) (s : State) : Out :=
  s.issue (.vrel r) r.head (fun x =>
    let c := s.issuer x
    let set := r.a.field.toNat &&& c.blocks
    if x.act = 0#32 then .go s
    else if c.v.any (fun k y => inBlocks set (k / 32) && y.empty) then .block true
    else .go ((s.returnBlocks x.crs set).servePool c.core c.bay))

/-! ## Retirement (R129) -/

/-- The open accumulator words of a course that ends form a final batch (R385). -/
def Course.closeBatch (c : Course) : Course :=
  if c.openAcc.isEmpty then c
  else { c with openAcc := [], nextOp := c.nextOp + 1,
                eng := { c.eng with mat := c.eng.mat ++ [⟨c.nextOp, false, c.openAcc⟩] } }

/-- A course without live lanes has ended: its blocks return, its open words form a batch, and a handler bank that it
holds is free; and the team ends with its last course, its items discarded (R59, R129, R131, R145). -/
def State.courseEnd (s : State) (crs : Nat) : State :=
  let c := s.course crs
  if c.live ≠ 0#32 then s
  else
    let s := (s.returnBlocks crs 15).leaveSup crs 0
    let s := s.onCourse crs (fun c => { c.closeBatch with pathCount := 0, rejoinCount := 0, rejoin := [], pastEnd := [] })
    let s := s.servePool c.core c.bay
    let t := s.team c.team
    if t.state = .running && t.courses.all (fun h => (s.course h).live == 0#32) then
      s.setTeam c.team { t with state := .ended, items := [] }
    else s

/-- Retire lanes at a word of a slot (R11, R129): they leave the slots and every rejoin entry. A slot is freed if none is left,
and a handler that ran in the word's slot then leaves supervisor mode.
(Log 48, DEDUCED.) -/
def State.retire (s : State) (crs j : Nat) (m : LaneMask) : State :=
  let c := s.course crs
  let l := ((s.rejoins c).map (fun e => (⟨e.l, e.f &&& ~~~m, e.a &&& ~~~m⟩ : Rejoin))).filter (fun e => e.f != 0#32)
  let s := if c.rejoin.isEmpty then s else s.setRejoins crs l
  let s := s.onCourse crs (fun c =>
    { c with live := c.live &&& ~~~m, slot0 := c.slot0.without m, slot1 := c.slot1.without m })
  let s := s.onCourse crs (fun c => { c with refusals := c.refusals.filter (fun e => e.slot == 2 || c.taken e.slot) })
  let s := if (s.course crs).sup.any (fun u => u.slot == j) && (s.course crs).ownMask j == 0#32 then s.leaveSup crs 0 else s
  s.courseEnd crs

/-- END (R129). -/
def execEnd (h : Head) (s : State) : Out :=
  s.issue (.endLanes h) h (fun x =>
    let M := (s.issuer x).ownMask x.j
    if x.act = 0#32 then .go s
    else if M &&& ~~~x.act = 0#32 then .jump (s.retire x.crs x.j x.act)
    else .go (s.retire x.crs x.j x.act))

/-! ## Branches (R125–R128) -/

/-- ILL (R89). -/
def execIll (h : Head) (body : BitVec 46) (s : State) : Out :=
  s.issue (.ill h body) h (fun x => .trap (x.trap 0x01))

/-- NOP (R124). -/
def execNop (h : Head) (s : State) : Out := s.issue (.nop h) h (fun _ => .go s)

/-- The lanes' conditions of BRA on a register (R125). -/
def signCond (cc : SignCond) (x : Int) : Bool :=
  match cc with
  | .eq => x == 0
  | .ne => x != 0
  | .lt => x < 0
  | .ge => 0 ≤ x
  | .gt => 0 < x
  | .le => x ≤ 0

/-- The active lanes that take a branch (R125). -/
def State.taken (s : State) (x : Ctx) (t : BraTest) : LaneMask :=
  let c := s.issuer x
  match t with
  | .always => x.act
  | .lane r cc =>
    maskOfLanes ((lanesOf x.act).filter (fun L => signCond cc (signExt (s.laneVal c x.sup r.toNat L).toNat 32)))
  | .unif r cc => if signCond cc (signExt (s.unifVal c x.sup r.toNat).toNat 32) then x.act else 0#32
  | .mask n cc =>
    let hit := s.maskVal c n.toNat &&& x.act
    match cc with
    | .set => hit
    | .clr => x.act &&& ~~~hit
    | .any => if hit != 0#32 then x.act else 0#32
    | .all => if hit == x.act then x.act else 0#32
    | .none => if hit == 0#32 then x.act else 0#32

/-- A value is written at once: a fixed-ALU result on its way to the register lands first (R113, R114). -/
def Course.writeNow (c : Course) (l : Landing) : Course :=
  match l with
  | .lane sp n L _ _ => (c.markEmpty ⟨sp, true, n⟩ (maskOfLanes [L])).land l
  | .unif sp n _ => (c.markEmpty ⟨sp, false, n⟩ 0#32).land l
  | .dist _ _ _ => c.land l

/-- The target of a branch word (R81). -/
def branchTarget (pc : Nat) (ofs : BitVec 32) : Int := (pc : Int) + 8 * signExt ofs.toNat 32

/-- Is a target outside the address space? -/
def offSpace (t : Int) : Bool := t < 0 || (Config.addrLimit : Int) ≤ t

/-- PC_OVERFLOW at a branch (R81, R442).
(Log 21, DEDUCED.) -/
def Ctx.targetTrap (x : Ctx) (t : Int) : TrapRec := { x.trap 0x05 with sub := 1, addr := intBits t 64 }

/-- Send a slot on with some lanes: the target of a taken branch issues no earlier than 3 cycles after it (R135). -/
def Slot.goto (y : Slot) (clock pc : Nat) (taken : Bool) (m : LaneMask) : Slot :=
  { y with pc := pc, mask := m, wait := .none, notBefore := if taken then clock + 3 else y.notBefore }

/-- The shared effect of BRA and CALL (R125): T are the lanes that go to X, link writes the return address. Lanes that go
on past the last word of the address space overflow where they begin (R140). -/
def State.branch (s : State) (x : Ctx) (X : Int) (T : LaneMask) (link : Course → Course) : Res :=
  let c := s.issuer x
  let M := (c.slotN x.j).mask
  let N := M &&& ~~~T
  let next := x.pc + 8
  if T != 0#32 && offSpace X then .trap (x.targetTrap X)
  else if T != 0#32 && N != 0#32 && s.otherTaken c x.j && !s.regionFits c 1 then .trap (x.trap 0x0B)
  else
    let s := s.setCourse x.crs (link c)
    let goTo := fun (s : State) (j pc : Nat) (taken : Bool) (m : LaneMask) =>
      s.onCourse x.crs (fun c => c.onSlot j (fun y => y.goto s.clock pc taken m))
    if T = 0#32 then .go s
    else if N = 0#32 then .jump (goTo s x.j X.toNat true T)
    else if s.otherTaken c x.j then .jump ((goTo s x.j X.toNat true T).pushPaths x.crs x.act [(next, N)])
    else .jump ((goTo (goTo s x.j X.toNat true T) (1 - x.j) next false N).begins x.crs (1 - x.j) x.act)

/-- BRA (R125). -/
def execBra (h : Head) (t : BraTest) (ofs : BitVec 32) (s : State) : Out :=
  s.issue (.bra h t ofs) h (fun x => s.branch x (branchTarget x.pc ofs) (s.taken x t) (fun c => c))

/-- CALL (R125): every later word of the course sees the link. -/
def execCall (h : Head) (unif : Bool) (a : BitVec 8) (ofs : BitVec 32) (s : State) : Out :=
  s.issue (.call h unif a ofs) h (fun x =>
    let n := a.toNat
    let next := x.pc + 8
    s.branch x (branchTarget x.pc ofs) x.act (fun c =>
      if x.act = 0#32 then c
      else if unif then (c.writeNow (.unif x.sup n (regPart next 0))).writeNow (.unif x.sup (n + 1) (regPart next 1))
      else (lanesOf x.act).foldl (fun c L =>
        (c.writeNow (.lane x.sup n L (regPart next 0) false)).writeNow (.lane x.sup (n + 1) L (regPart next 1) false)) c))

/-- Lanes grouped by target, in ascending order of the lowest lane (R126). -/
def groupTargets (ts : List (Nat × Nat)) : List (Nat × LaneMask) :=
  let keys := ts.foldl (fun l e => if l.contains e.2 then l else l ++ [e.2]) []
  keys.map (fun k => (k, maskOfLanes ((ts.filter (fun e => e.2 == k)).map (fun e => e.1))))

/-- The shared effect of BRX and RET (R126). A group that an active lane targets is taken; the lanes that only go on at
PC + 8 overflow there where that is past the last word (R140). -/
def State.indirect (s : State) (x : Ctx) (r : RWord) : Res :=
  let c := s.issuer x
  let M := (c.slotN x.j).mask
  let next := x.pc + 8
  let X := fun L => s.val x c r.a 2 L
  let act := lanesOf x.act
  match act.find? (fun L => X L % 8 != 0) with
  | some L => .trap { x.trap 0x08 with lane := some L, addr := X L }
  | none =>
    match act.find? (fun L => Config.addrLimit ≤ X L) with
    | some L => .trap { x.trap 0x05 with sub := 1, lane := some L, addr := X L }
    | none =>
      let groups := groupTargets ((lanesOf M).map (fun L => (L, if x.act.getLsbD L then X L else next)))
      let busy := s.otherTaken c x.j
      let rest := groups.drop 1
      let pushed := if busy then rest else rest.drop 1
      if !s.regionFits c pushed.length then .trap (x.trap 0x0B)
      else
        match groups with
        | [] => .go s
        | g :: _ =>
          let put := fun (s : State) (j : Nat) (g : Nat × LaneMask) =>
            (s.onCourse x.crs (fun c => c.onSlot j (fun y => y.goto s.clock g.1 (g.2 &&& x.act != 0#32) g.2))).begins x.crs j x.act
          let s := put s x.j g
          let s := match busy, rest with
            | false, k :: _ => put s (1 - x.j) k
            | _, _ => s
          .jump (s.pushPaths x.crs x.act pushed)

/-- BRX (R126). -/
def execBrx (r : RWord) (s : State) : Out := s.issue (.brx r) r.head (fun x => s.indirect x r)
/-- RET has the effect of BRX (R126). -/
def execRet (r : RWord) (s : State) : Out := s.issue (.ret r) r.head (fun x => s.indirect x r)

/-- JMARK (R127). -/
def execJmark (h : Head) (ofs : BitVec 32) (s : State) : Out :=
  s.issue (.jmark h ofs) h (fun x =>
    let c := s.issuer x
    let L := branchTarget x.pc ofs
    if x.act = 0#32 then .go s
    else if offSpace L then .trap (x.targetTrap L)
    else if c.rejoin.length = 8 && !s.regionFits c 1 then .trap (x.trap 0x0B)
    else .go (s.setRejoins x.crs (⟨L.toNat, (c.slotN x.j).mask, 0#32⟩ :: s.rejoins c)))

/-- Change the first element for which a test holds. -/
def mapFirst {α : Type} (p : α → Bool) (f : α → α) : List α → List α
  | [] => []
  | a :: t => if p a then f a :: t else a :: mapFirst p f t

/-- JOIN (R128). A lane of F that never joins leaves the entry unready for good: its arrived lanes then resume nowhere, the
course keeps its live lanes and so does not end, and nothing detects it (R123). -/
def execJoin (h : Head) (s : State) : Out :=
  s.issue (.join h) h (fun x =>
    let c := s.issuer x
    let M := (c.slotN x.j).mask
    let all := s.rejoins c
    let here := fun (e : Rejoin) => e.l == x.pc
    if x.act = 0#32 then .go s
    else
      match all.find? here with
      | none => .go s
      | some e =>
        let a := e.a ||| M
        if a = e.f then
          .go ((s.setRejoins x.crs (dropFirst here all)).onCourse x.crs (fun c =>
            c.onSlot x.j (fun y => { y with mask := e.f })))
        else
          .jump ((s.setRejoins x.crs (mapFirst here (fun e => { e with a := a }) all)).onCourse x.crs (fun c =>
            c.onSlot x.j Slot.parted)))

/-! ## Items (R131–R133) -/

/-- Items that a core's queue holds, of all the teams on it: a halted team's stay until it is saved (R131, R452). -/
def State.itemsOn (s : State) (core : Nat) : Nat :=
  s.teams.foldl (fun n e => if e.2.core = core ∧ (e.2.state = .running ∨ e.2.state = .halting) then n + e.2.items.length else n) 0

/-- IPUSH (R132). -/
def execIpush (r : RWord) (s : State) : Out :=
  s.issue (.ipush r) r.head (fun x =>
    let c := s.issuer x
    if x.act = 0#32 then .go s
    else
      let room := Config.itemQueue - s.itemsOn c.core
      let new := ((lanesOf x.act).take room).map (fun L => s.laneVal c x.sup r.a.field.toNat L)
      (s.onTeam c.team (fun t => { t with items := t.items ++ new })).deliverU x r.d.toNat 1 new.length)

/-- Mask results on their way to a mask register land before it is written at once. -/
def Course.flushMask (c : Course) (n : Nat) : Course :=
  let hit := fun (w : AluWrite) => match w.dst with
    | .mask k _ _ => k == n
    | _ => false
  let c1 := c.alu.foldl (fun c w => if hit w then c.applyAlu w.dst else c) c
  { c1 with alu := c.alu.filter (fun w => !hit w) }

/-- REFILL (R133): the lanes whose bit is set take the oldest items in lane order, and those left retire. -/
def execRefill (r : RWord) (s : State) : Out :=
  s.issue (.refill r) r.head (fun x =>
    let c := s.issuer x
    let k := r.a.field.toNat
    let t := s.team c.team
    let ask := lanesOf (x.act &&& s.maskVal c k)
    let fed := ask.zip t.items
    let gone := maskOfLanes (ask.drop t.items.length)
    let M := c.ownMask x.j
    let s := s.setTeam c.team { t with items := t.items.drop fed.length }
    let s := s.onCourse x.crs (fun c =>
      let c := fed.foldl (fun c e => c.writeNow (.lane x.sup r.d.toNat e.1 e.2 false)) c
      { (c.flushMask k).setMask k 0#32 (maskOfLanes (fed.map (fun e => e.1))) with nextIssue := s.clock + 8 })
    let s := if gone = 0#32 then s else s.retire x.crs x.j gone
    if M &&& ~~~gone = 0#32 then .jump s else .go s)

/-! ## Barrier registers (R363–R366) -/

/-- k arrivals on a barrier register: each completes a phase when the last is in (R365). -/
def Barrier.arrive (b : Barrier) : Nat → Barrier
  | 0 => b
  | k + 1 =>
    let b := if b.pend ≤ 1 then { b with phase := (b.phase + 1) % 2 ^ 16, pend := b.exp } else { b with pend := b.pend - 1 }
    b.arrive k

/-- Has phase P of a barrier completed (R365)? -/
def Barrier.passed (b : Barrier) (P : Nat) : Bool :=
  let d := (b.phase + 2 ^ 16 - P % 2 ^ 16) % 2 ^ 16
  1 ≤ d && d ≤ 32768

/-- A barrier register of a team. -/
def State.bar (s : State) (team b : Nat) : Barrier := Tab.get {} (s.team team).bars b
/-- Write a barrier register. -/
def State.setBar (s : State) (team b : Nat) (x : Barrier) : State :=
  s.onTeam team (fun t => { t with bars := Tab.put t.bars b x })

/-- BARINIT (R365). -/
def execBarinit (r : RWord) (s : State) : Out :=
  s.issue (.barinit r) r.head (fun x =>
    let c := s.issuer x
    let n := s.uval x c r.b
    let b := r.a.field.toNat
    if x.act = 0#32 then .go s
    else if n = 0 || 4095 < n then .trap x.illegalOperand
    else .go (s.setBar c.team b { s.bar c.team b with exp := n, pend := n }))

/-- Has a course a local access before a number, to one team's shared memory or to any, that has not been performed? -/
def Course.sharedPend (c : Course) (upto : Nat) (team : Option Nat) : Bool :=
  c.pend.any (fun p => decide (p.id < upto) &&
    (match p.kind with
      | .access (.shared k) _ _ => team.all (fun t => t == k)
      | _ => false))

/-- ARRIVE (R365). -/
def execArrive (r : RWord) (ph : Bool) (s : State) : Out :=
  s.issue (.arrive r ph) r.head (fun x =>
    let c := s.issuer x
    let k := s.uval x c r.b
    let b := r.a.field.toNat
    let y := s.bar c.team b
    if x.act = 0#32 then .go s
    else if k = 0 || 4095 < k || y.exp = 0 then .trap x.illegalOperand
    else
      let live := y.marks.filter (fun m => (s.course m.2.1).sharedPend m.2.2 (some c.team))
      let t := s.setBar c.team b { y.arrive k with marks := live ++ [(y.phase, x.crs, c.nextPend)] }
      if ph then t.deliverU x r.d.toNat 1 y.phase else .go t)

/-- Is what a fence orders still to be performed? -/
def State.fenceHolds (s : State) (f : Fence) : Bool := (s.course f.crs).sharedPend f.upto f.team

/-- A course has passed a barrier: its later accesses of shared memory follow what the fences name (R335).
(Log 44, DEDUCED.) -/
def State.passBar (s : State) (crs : Nat) (fs : List Fence) : State :=
  s.onCourse crs (fun c => { c with fences := (c.fences ++ fs).filter s.fenceHolds })

/-- What BWAIT for a phase orders before the course's later accesses of its core's shared memory: what each course issued
before an ARRIVE of that phase or of one before it (R261, R335). -/
def State.bwaitFences (s : State) (team b phase : Nat) : List Fence :=
  ((s.team team).bars.flatMap (fun e => if e.1 = b then e.2.marks else [])).filterMap (fun m =>
    if (phase + 2 ^ 16 - m.1 % 2 ^ 16) % 2 ^ 16 < 2 ^ 15 then some ⟨m.2.1, m.2.2, some team, s.stamp⟩ else none)

/-- What CLBAR of a phase orders before the later accesses of every member: what each member issued before its arrival, on
any member's memory (R335). -/
def State.clbarFences (s : State) (courses : List Nat) (phase : Nat) : List Fence :=
  courses.flatMap (fun k => ((s.course k).clMarks.filter (fun m => m.1 == phase)).map (fun m => ⟨k, m.2, none, s.stamp⟩))

/-- Must an access of a space that a course issued in an event wait for what a barrier that it had passed ordered before
it (R335)? -/
def State.barWaits (s : State) (crs turn : Nat) (sp : Space) : Bool :=
  match sp with
  | .shared k => (s.course crs).fences.any (fun f => decide (f.turn < turn) && f.team.all (fun t => t == k) && s.fenceHolds f)
  | _ => false

/-- BWAIT (R365). -/
def execBwait (r : RWord) (s : State) : Out :=
  s.issue (.bwait r) r.head (fun x =>
    let c := s.issuer x
    let P := s.uval x c r.b % 2 ^ 16
    let b := r.a.field.toNat
    if x.act = 0#32 then .go s
    else if (s.bar c.team b).passed P then .go (s.passBar x.crs (s.bwaitFences c.team b P))
    else .wait s (.bwait b P))

/-- BWAIT_WAKE: a slot whose phase has completed goes on (R365). -/
def execBwaitWake (crs slot : Nat) (s : State) : Out :=
  let c := s.course crs
  match (c.slotN slot).wait with
  | .bwait b P =>
    if s.running c && (s.bar c.team b).passed P then 
      .next ((s.passBar crs (s.bwaitFences c.team b P)).advance crs slot (c.slotN slot).act)
    else .next s
  | _ => .next s

/-! ## The cluster barrier (R367) -/

/-- The teams of the cluster of a team: handles. -/
def State.clusterTeams (s : State) (team : Nat) : List Nat :=
  let t := s.team team
  let lr := (s.gridOf team).lr
  let S := lr.w * lr.h
  s.teams.keys (fun _ u => u.grid == t.grid && u.number / S == t.number / S)

/-- The courses of the cluster of a team. -/
def State.clusterCourses (s : State) (team : Nat) : List Nat := (s.clusterTeams team).flatMap (fun h => (s.team h).courses)

/-- Has every course of the cluster arrived for a phase, or ended? Teams that were freed have ended. -/
def State.clusterPassed (s : State) (team phase : Nat) : Bool :=
  (s.clusterTeams team).all (fun h => (s.team h).courses.all (fun k =>
    let c := s.course k
    c.live == 0#32 || phase + 1 ≤ c.clArrivals))

/-- A course arrives at the cluster barrier; what it has issued is marked until it has been performed (R335, R367). -/
def Course.clArrive (c : Course) : Course :=
  { c with clArrivals := c.clArrivals + 1
           clMarks := c.clMarks.filter (fun m => c.sharedPend m.2 none) ++ [(c.clArrivals, c.nextPend)] }

/-- CLBAR and its forms (R367). -/
def State.clusterBar (s : State) (x : Ctx) (arr wt : Bool) : Res :=
  if x.act = 0#32 then .go s
  else
    let s := if arr then s.onCourse x.crs Course.clArrive else s
    let c := s.course x.crs
    if !wt || c.clArrivals = 0 then .go s
    else .wait s (.clbar (c.clArrivals - 1))

/-- CLBAR. -/
def execClbar (h : Head) (s : State) : Out := s.issue (.clbar h) h (fun x => s.clusterBar x true true)
/-- CLBAR.arr. -/
def execClbarArr (h : Head) (s : State) : Out := s.issue (.clbarArr h) h (fun x => s.clusterBar x true false)
/-- CLBAR.wait. -/
def execClbarWait (h : Head) (s : State) : Out := s.issue (.clbarWait h) h (fun x => s.clusterBar x false true)

/-- Let the slots of some courses go on that wait for a cluster phase that has completed. -/
def State.wakeClbar (s : State) (team : Nat) : List Nat → State
  | [] => s
  | h :: t =>
    let c := s.course h
    let go := fun (s : State) (j : Nat) =>
      match (c.slotN j).wait with
      | .clbar p =>
        if s.running c && s.clusterPassed team p then
          (s.passBar h (s.clbarFences (s.clusterCourses team) p)).advance h j (c.slotN j).act
        else s
      | _ => s
    (go (go s 0) 1).wakeClbar team t

/-- CLBAR_PHASE_COMPLETE: the waiting courses of a cluster, named by one of its teams, go on (R367). -/
def execClbarPhaseComplete (cluster : Nat) (s : State) : Out :=
  .next (s.wakeClbar cluster (s.clusterCourses cluster))

end Sys2Proof.Machine
end

