-- ==== Sys2Proof/Machine/Channel.lean ====
section
/-! DEFINITION. Channels at their source (R291–R324, R329): streams and their packets, holding, sending, acknowledgement,
refusal and breaking; shadow copies; and the channel words. -/

namespace Sys2Proof.Machine

/-! ## Channels and streams of a team -/

/-- A channel of a team. -/
def State.chan (s : State) (team ch : Nat) : Chan := Tab.get {} (s.team team).chans ch
/-- Change a channel. -/
def State.onChan (s : State) (team ch : Nat) (f : Chan → Chan) : State :=
  s.onTeam team (fun t => { t with chans := Tab.put t.chans ch (f (Tab.get {} t.chans ch)) })

/-- Change the stream to a destination, which is new where the channel had none. -/
def onStreamOf (dest : Dest) (f : Stream → Stream) : List Stream → List Stream
  | [] => [f { dest := dest }]
  | st :: t => if st.dest = dest then f st :: t else st :: onStreamOf dest f t

/-- Change the stream of a channel to a destination. -/
def Chan.onStream (c : Chan) (dest : Dest) (f : Stream → Stream) : Chan :=
  { c with streams := onStreamOf dest f c.streams }

/-- The stream of a channel to a destination. -/
def Chan.stream (c : Chan) (dest : Dest) : Stream := (c.streams.find? (fun st => st.dest == dest)).getD { dest := dest }

/-- Packets that were sent and are not yet acknowledged or refused. -/
def Stream.outstanding (st : Stream) : List OutPacket := st.pkts.filter (fun q => q.sentAt.isSome)

/-- Is some operation of the channel below a number not yet acknowledged or refused (R276, R308)? -/
def Chan.busyBelow (c : Chan) (n : Nat) : Bool :=
  c.streams.any (fun st => st.pkts.any (fun q => q.op < n)) || c.reads.any (fun r => r.op < n)

/-- Is some operation below a number on the channels of a mask not yet acknowledged or refused? -/
def Team.busyBelow (t : Team) (mask n : Nat) : Bool := t.chans.any (fun ch c => mask.testBit ch && c.busyBelow n)

/-- Is some merge of the team not yet acknowledged (R304)? -/
def Team.mergesBelow (t : Team) (n : Nat) : Bool :=
  t.chans.any (fun _ c => c.streams.any (fun st => st.pkts.any (fun q => q.merge && q.op < n)))

/-- Does the gate hold later operations still (R308)? -/
def Gate.closed (g : Gate) (t : Team) : Bool := t.busyBelow g.mask g.seq

/-- Is an operation of the channel held by a rule of R308 or R309? -/
def Chan.heldBy (c : Chan) (t : Team) (op : Nat) : Bool := c.gates.any (fun g => g.seq ≤ op && g.closed t)

/-- Stream-table entries in use at a core (R296). -/
def State.streamsOn (s : State) (core : Nat) : Nat :=
  s.teams.foldl (fun n e =>
    if e.2.core = core ∧ e.2.state ≠ .saved then
      n + e.2.chans.foldl (fun m c => m + (c.2.streams.filter (fun st => st.opened)).length) 0
    else n) 0

/-- Packets in a core's hold buffer: unsent ones of channels whose operations are held (R308). -/
def State.heldOn (s : State) (core : Nat) : Nat :=
  s.teams.foldl (fun n e =>
    if e.2.core = core ∧ e.2.state ≠ .saved then
      n + e.2.chans.foldl (fun m c => m + (c.2.unsent.filter (fun q => c.2.heldBy e.2 q.op)).length) 0
    else n) 0

/-! ## Sending -/

/-- Send what may be sent of a stream's packets, in order: room counts the packets that may still be put in flight.
The sequence number is given as a packet is sent (R294), with the place of the source and the re-home flag (R323). -/
def sendGo (clock gen core : Nat) (rehome : Bool) (ok : OutPacket → Bool) :
    Nat → Nat → List OutPacket → List OutPacket × Nat × List NetMsg
  | _, seq, [] => ([], seq, [])
  | room, seq, q :: t =>
    if q.sentAt.isSome then
      let r := sendGo clock gen core rehome ok room seq t
      (q :: r.1, r.2.1, r.2.2)
    else if room = 0 || !ok q then (q :: t, seq, [])
    else
      let p := { q.pkt with gen := gen, seq := seq, rehome := rehome, die := dieOf core, core := core % Config.coresPerDie }
      let r := sendGo clock gen core false ok (room - 1) ((seq + 1) % 2 ^ 16) t
      ({ q with pkt := p, sentAt := some clock } :: r.1, r.2.1, .packet p :: r.2.2)

/-- May the stream send anything now: it is open or a table entry is free, its channel is not paused, and it runs no
handshake (R296, R318, R320)? -/
def Stream.maySend (st : Stream) (c : Chan) (free : Nat) : Bool := (st.opened || 0 < free) && !c.paused && st.resync.isNone

/-- Would a stream send its next packet now (R294, R308)? -/
def Stream.wantsSend (st : Stream) (t : Team) (c : Chan) (free : Nat) : Bool :=
  st.maySend c free && (st.pkts.find? (fun q => q.sentAt.isNone)).any (fun q => q.ready && !c.heldBy t q.op)

/-- Send what a stream may send: the stream, the packets, and the table entries that it took. A stream that opens again
takes the next generation and begins at sequence number 0. -/
def Stream.send (st : Stream) (t : Team) (c : Chan) (clock free : Nat) : Stream × List NetMsg × Nat :=
  let ok := fun (q : OutPacket) => q.ready && !c.heldBy t q.op
  if st.wantsSend t c free then
    let st := if st.opened then st else { st with opened := true }
    let r := sendGo clock st.gen t.core st.rehome ok (Config.window - st.outstanding.length) st.nextSeq st.pkts
    ({ st with pkts := r.1, nextSeq := r.2.1, rehome := st.rehome && r.2.2.isEmpty,
               old := if r.2.2.isEmpty then st.old else [] }, r.2.2, 1)
  else (st, [], 0)

/-- Send what the streams of a channel may send. -/
def sendStreams (t : Team) (c : Chan) (clock : Nat) : Nat → List Stream → List Stream × List NetMsg × Nat
  | free, [] => ([], [], free)
  | free, st :: r =>
    let x := st.send t c clock free
    let y := sendStreams t c clock (if st.opened then free else free - x.2.2) r
    (x.1 :: y.1, x.2.1 ++ y.2.1, y.2.2)

/-- Send what the channels of a team may send; rules that hold nothing any longer are dropped. -/
def sendChans (t : Team) (clock : Nat) : Nat → Tab Chan → Tab Chan × List NetMsg
  | _, [] => ([], [])
  | free, (k, c) :: r =>
    let x := sendStreams t c clock free c.streams
    let y := sendChans t clock x.2.2 r
    ((k, { c with streams := x.1, gates := c.gates.filter (fun g => g.closed t) }) :: y.1, x.2.1 ++ y.2)

/-- The channel unit of a team sends everything that may be sent. -/
def State.pump (s : State) (h : Nat) : State :=
  let t := s.team h
  if t.state = .saved || t.state = .freed then s
  else
    let r := sendChans t s.clock (Config.streamTable - s.streamsOn t.core) t.chans
    { s.setTeam h { t with chans := r.1 } with net := s.net ++ r.2 }

/-- An empty channel packet of a team. -/
def State.packetOf (s : State) (team ch : Nat) (dest : Dest) (body : PacketBody) : Packet :=
  let t := s.team team
  { key := ⟨s.chip, team, ch, dest⟩, ctag := (s.context (s.gridOf team).ctx).tag, die := dieOf t.core,
    core := t.core % Config.coresPerDie, gen := 0, seq := 0, rehome := false, ntf := none, body := body }

/-- Put packets of one operation into their streams (R292). A word's last destination is that of the channel's most recent
operation (R315); a merge is no operation issued on it. -/
def State.placePackets (s : State) (team ch : Nat) (qs : List OutPacket) : State :=
  s.onChan team ch (fun c =>
    let c := qs.foldl (fun c q => c.onStream q.pkt.key.dest (fun st => { st with pkts := st.pkts ++ [q] })) c
    match (qs.filter (fun q => !q.merge)).getLast? with
    | some q => { c with lastDest := some q.pkt.key.dest }
    | none => c)

/-- Take the team's next operation number. -/
def State.nextOpOf (s : State) (team : Nat) : Nat := (s.team team).opSeq
/-- The number has been used. -/
def State.bumpOp (s : State) (team : Nat) : State := s.onTeam team (fun t => { t with opSeq := t.opSeq + 1 })

/-- Cut a list into pieces of k, the first of which has begun. -/
def chunkGo {α : Type} (k : Nat) : List α → List α → List (List α)
  | acc, [] => if acc.isEmpty then [] else [acc]
  | acc, a :: t => if k ≤ acc.length + 1 then (acc ++ [a]) :: chunkGo k [] t else chunkGo k (acc ++ [a]) t

/-- Cut a run of elements of one size into packets of at most 256 bytes of payload (R293).
(Log 28, DEDUCED.) -/
def cutRun {α : Type} (size : Nat) (l : List α) : List (List α) := chunkGo (256 / size) [] l

/-- The items of a word by destination, in order of the lowest lane (R293, R301). -/
def byDest {α : Type} (dest : α → Dest) (l : List α) : List (Dest × List α) :=
  let ds := l.foldl (fun r a => if r.contains (dest a) then r else r ++ [dest a]) []
  ds.map (fun d => (d, l.filter (fun a => dest a == d)))

end Sys2Proof.Machine
end

