-- ==== Sys2Proof/Machine/Source.lean ====
section
/-! DEFINITION. What happens to a channel's operations at their source: acknowledgements, refusals, breaks, shadow
copies and their merges, closing, retries, the handshake, and pages that moved (R294–R297, R302–R304, R312–R320). -/

namespace Sys2Proof.Machine

/-! ## Refused operations (R287, R302, R312, R361) -/

/-- The elements of a packet: virtual address, address at the home, and whether the data are poisoned. -/
def packetElems : PacketBody → List (Nat × Nat × Bool)
  | .store es => es.map (fun e => (e.va, e.pa, e.poisoned))
  | .atom _ _ _ es => es.map (fun e => (e.va, e.pa, false))
  | .reduce _ _ es => es.map (fun e => (e.va, e.pa, false))
  | .read _ es => es.map (fun e => (e.va, e.pa, false))
  | _ => []

/-- The address that a packet names first. -/
def packetAddr (p : Packet) : Nat := ((packetElems p.body).head?.map (fun e => e.1)).getD 0

/-- Was a pending word issued in supervisor mode? -/
def Course.pendSup (c : Course) (pid : Nat) : Bool := (c.pend.find? (fun p => p.id == pid)).any (fun p => p.sup)

/-- The old values of an ATOMG's packet land, for its lanes: value and poison of each element (R301, R302). -/
def State.landAtomg (s : State) (q : OutPacket) (f : AtomElem → Nat × Bool) : State :=
  match q.atomg, q.pkt.body with
  | some (crs, pid, d), .atom _ size _ es =>
    let sup := (s.course crs).pendSup pid
    s.landLanes crs pid (maskOfLanes (es.map (fun e => e.lane))) (es.flatMap (fun e => (List.range (size / 4)).map (fun i =>
      .lane sup (d + i) e.lane (regPart (f e).1 i) (f e).2)))
  | _, _ => s

/-- An operation to a destination has been acknowledged or refused now, or its bytes have landed (R328). -/
def Chan.noteDone (c : Chan) (dest : Dest) (now : Nat) : Chan :=
  { c with doneAt := (dest, now) :: c.doneAt.filter (fun e => e.1 != dest) }

/-- The effect of a refusal on what waits for the packet: an ATOMG lands zero, poisoned; reads are over, and poisoned words
land for them (R276, R287, R302, R361). -/
def State.refuseOne (s : State) (q : OutPacket) : State :=
  let s := s.landAtomg q (fun _ => (0, true))
  let s := s.onChan q.pkt.key.team q.pkt.key.ch (fun c => (c.readsRefused q).noteDone q.pkt.key.dest s.stamp)
  match q.req, q.pkt.body with
  | some id, .read _ es =>
    match Tab.find s.tldReqs id with
    | some r => { s with tldReqs := Tab.put s.tldReqs id { r with dead := r.dead ++ es.map (fun e => e.lane) } }
    | none => s
  | _, _ => { s with net := s.net ++ packetReads q.pkt }

/-- Refuse what a channel has not sent. -/
def State.refuseUnsent (s : State) (team ch : Nat) : State :=
  let c := s.chan team ch
  (c.unsent.foldl State.refuseOne s).onChan team ch Chan.dropUnsent

/-- Mark a channel broken, with the cause, the address and the destination of the first refused operation (R312). -/
def State.breakOne (s : State) (team ch cause addr : Nat) (dest : Option Dest) : State :=
  let s := s.onChan team ch (fun c => if c.cause = 0 then { c with cause := cause, addr := addr, brokenAt := dest } else c)
  s.refuseUnsent team ch

/-- The channels held behind one by CJOIN or a .rel word (R312). -/
def Team.heldBehind (t : Team) (ch : Nat) : List Nat :=
  t.chans.keys (fun k c => k != ch && c.cause == 0 &&
    c.gates.any (fun g => g.mask.testBit ch && (Tab.get {} t.chans ch).busyBelow g.seq))

/-- Break a channel, and with cause 5 every channel held behind it (R312). -/
def State.breakChan : Nat → State → Nat → Nat → Nat → Nat → Option Dest → State
  | 0, s, team, ch, cause, addr, dest => s.breakOne team ch cause addr dest
  | n + 1, s, team, ch, cause, addr, dest =>
    let t := s.team team
    (t.heldBehind ch).foldl (fun s k =>
      let q := ((Tab.get {} t.chans k).unsent).head?
      s.breakChan n team k 5 ((q.map (fun q => packetAddr q.pkt)).getD 0) (q.map (fun q => q.pkt.key.dest)))
      (s.breakOne team ch cause addr dest)

/-! ## Waits that end when operations are acknowledged or refused -/

/-- Reset a channel whose operations are all settled (R316): a new generation of each open stream. No handshake goes on, since
nothing is outstanding; the order that CJOIN or a .rel word gave to later operations stays (R308). -/
def State.resetChan (s : State) (team ch : Nat) : State :=
  let c := s.chan team ch
  let sts := c.streams.map (fun st => if st.opened then { st with gen := (st.gen + 1) % 256, resync := none } else st)
  let out := (sts.filter (fun st => st.opened)).map (fun st =>
    NetMsg.packet { s.packetOf team ch st.dest .reset with gen := st.gen, seq := st.nextSeq })
  { s.onChan team ch (fun c =>
      { c with cause := 0, addr := 0, brokenAt := none, lastDest := none, trapped := false, resetting := false,
               streams := sts }) with net := s.net ++ out }

/-- Let the slots of a course go on whose CRESET can complete. -/
def State.wakeReset (s : State) (crs : Nat) : State :=
  [0, 1].foldl (fun s j =>
    let c := s.course crs
    let x := c.slotN j
    match x.wait with
    | .creset ch _ =>
      if !(s.chan c.team ch).busyBelow (s.team c.team).opSeq then (s.resetChan c.team ch).advance crs j x.act else s
    | _ => s) s

/-- After operations of a team have been settled: send what may now be sent, and let a CRESET complete. A saved team
waits for its restore. -/
def State.afterSettle (s : State) (team : Nat) : State :=
  let s := s.pump team
  let t := s.team team
  if t.state = .running then t.courses.foldl State.wakeReset s else s

/-! ## Messages that come back -/

/-- Take a message that is in flight, or one that comes from outside the package. -/
def State.takeNet (s : State) (m : NetMsg) (outside : Bool) : Option State :=
  if s.net.contains m then some { s with net := s.net.erase m } else if outside then some s else none

/-- Take an answer to a stream of this package; an answer to another package's stream is on its way out. -/
def State.takeBack (s : State) (m : NetMsg) (key : StreamKey) (outside : Bool) : Option State :=
  if key.chip = s.chip then s.takeNet m outside else none

/-- Is a sequence number at or before another, modulo 2^16? -/
def seqUpto (seq upto : Nat) : Bool := (upto + 2 ^ 16 - seq % 2 ^ 16) % 2 ^ 16 < 2 ^ 15

/-- Acknowledge every packet of a stream up to a number (R295): old values land, and the packets are settled. A handshake is
over where nothing is outstanding. -/
def State.ackStream (s : State) (key : StreamKey) (gen upto : Nat) (olds : List OldValue) : State :=
  let st := (s.chan key.team key.ch).stream key.dest
  let hit := fun (q : OutPacket) => q.sentAt.isSome && !q.moved && q.pkt.gen == gen && seqUpto q.pkt.seq upto
  let s := (st.pkts.filter hit).foldl (fun s q =>
    s.landAtomg q (fun e =>
      match olds.find? (fun o => o.seq == q.pkt.seq && o.lane == e.lane) with
      | some o => (o.value, o.poisoned)
      | none => (0, true))) s
  s.onChan key.team key.ch (fun c =>
    (c.onStream key.dest (fun st =>
      let left := st.pkts.filter (fun q => !hit q)
      { st with pkts := left, idleSince := s.clock,
                resync := if left.any (fun q => q.sentAt.isSome && !q.moved) then st.resync else none })).noteDone key.dest s.stamp)

/-- Is a stream's source a team of this package that still exists? -/
def State.ownStream (s : State) (key : StreamKey) : Bool :=
  key.chip == s.chip && Tab.has s.teams key.team && (s.team key.team).state != .freed

/-- ACKNOWLEDGEMENT_ARRIVAL (R295, R301, R322): absorbed for a saved team. -/
def execAcknowledgementArrival (a : Ack) (s : State) : Out :=
  match s.takeBack (.ack a) a.key (a.key.dest.chip != s.chip || a.key.dest.host) with
  | some s =>
    if s.ownStream a.key then .next ((s.ackStream a.key a.gen a.upto a.olds).afterSettle a.key.team) else .next s
  | none => .next s

/-- The packet that a refusal names, if it is outstanding. -/
def State.refusedPacket (s : State) (r : NetRefusal) : Option OutPacket :=
  ((s.chan r.key.team r.key.ch).stream r.key.dest).pkts.find? (fun q =>
    q.sentAt.isSome && !q.moved && q.pkt.gen == r.gen && q.pkt.seq == r.seq)

/-- Change the packet that a refusal names. -/
def State.onRefused (s : State) (r : NetRefusal) (f : OutPacket → List OutPacket) : State :=
  s.onChan r.key.team r.key.ch (fun c => c.onStream r.key.dest (fun st =>
    { st with pkts := st.pkts.flatMap (fun q =>
        if q.sentAt.isSome && !q.moved && q.pkt.gen == r.gen && q.pkt.seq == r.seq then f q else [q]) }))

/-- The lowest outstanding packet of a stream. -/
def Stream.oldest (st : Stream) : Option OutPacket := (st.outstanding.filter (fun q => !q.moved)).head?

/-- REFUSAL_ARRIVAL (R296, R302, R312): RETRY sends the packet again after 1 µs; any other refusal breaks the channel. It is
taken once every earlier packet of the stream is settled, so that the break names the first refused operation. -/
def execRefusalArrival (r : NetRefusal) (s : State) : Out :=
  if r.moved then .next s
  else
    match s.takeBack (.refusal r) r.key (r.key.dest.chip != s.chip || r.key.dest.host) with
    | none => .next s
    | some s =>
      if !s.ownStream r.key then .next s
      else
        match s.refusedPacket r with
        | none => .next s
        | some q =>
          if !r.retry && ((s.chan r.key.team r.key.ch).stream r.key.dest).oldest != some q then
            .next { s with net := s.net ++ [.refusal r] }
          else if r.retry then .next (s.onRefused r (fun q => [{ q with retryAt := some (s.clock + Config.cyclesPerUs) }]))
          else
            let s := s.breakChan 16 r.key.team r.key.ch r.cause r.addr (some r.key.dest)
            let s := (s.onRefused r (fun _ => [])).refuseOne q
            let s := s.onChan r.key.team r.key.ch (fun c => c.noteDone r.key.dest s.stamp)
            .next (s.afterSettle r.key.team)

/-- A packet as it leaves the core on which its team is now: with the re-home flag where the stream has yet to re-home
(R323). -/
def State.fromHere (s : State) (st : Stream) (p : Packet) : Packet :=
  let core := (s.team p.key.team).core
  { p with die := dieOf core, core := core % Config.coresPerDie, rehome := st.rehome }

/-- The stream has re-homed where it has sent something (R322, R323). -/
def Stream.homed (st : Stream) (sent : Bool) : Stream :=
  if sent then { st with rehome := false, old := [] } else st

/-- OPEN_RETRY (R296): a packet refused with RETRY is sent again. A saved team sends nothing (R322). -/
def execOpenRetry (key : StreamKey) (s : State) : Out :=
  if !s.ownStream key || (s.team key.team).state == .saved then .next s
  else
    let due := fun (q : OutPacket) => q.retryAt.any (fun n => n ≤ s.clock)
    let st := (s.chan key.team key.ch).stream key.dest
    let qs := st.pkts.filter due
    .next { s.onChan key.team key.ch (fun c => c.onStream key.dest (fun st =>
        ({ st with pkts := st.pkts.map (fun q => if due q then { q with retryAt := none, sentAt := some s.clock } else q) } :
          Stream).homed (!qs.isEmpty))) with
      net := s.net ++ qs.map (fun q => .packet (s.fromHere st q.pkt)) }

/-- Does another stream wait for an entry of a core's stream table: one that a word would open, or one whose packets are
ready to be sent (R296)? -/
def State.entryWanted (s : State) (core : Nat) : Bool :=
  s.courses.any (fun _ c => c.core == core && (c.slot0.wantsEntry || c.slot1.wantsEntry)) ||
    s.teams.any (fun _ t => t.core == core && t.state != .saved && t.state != .freed &&
      t.chans.any (fun _ c => c.streams.any (fun st => !st.opened && st.wantsSend t c 1)))

/-- Close a stream whose packets are all settled: its table entry is free (R296). The CLOSE of a restored team's stream that
has sent nothing since carries the re-home flag (R492). -/
def State.closeStream (s : State) (key : StreamKey) : State :=
  let st := (s.chan key.team key.ch).stream key.dest
  let p := { s.packetOf key.team key.ch key.dest .close with gen := st.gen, seq := st.nextSeq, rehome := st.rehome }
  { s.onChan key.team key.ch (fun c => c.onStream key.dest (fun st =>
      { st with opened := false, gen := (st.gen + 1) % 256, nextSeq := 0, resync := none, rehome := false, old := [] })) with
    net := s.net ++ [.packet p] }

/-- STREAM_CLOSE (R296): after 2 µs idle, or at once where another stream waits for a table entry of the core. No stream of a
team that is being saved, or is saved, closes (R492). -/
def execStreamClose (key : StreamKey) (s : State) : Out :=
  let st := (s.chan key.team key.ch).stream key.dest
  let t := s.team key.team
  let full := decide (Config.streamTable ≤ s.streamsOn t.core)
  if key.chip == s.chip && t.state != .saved && t.state != .halting && st.opened && st.pkts.isEmpty &&
      (st.idleSince + 2 * Config.cyclesPerUs ≤ s.clock || (full && s.entryWanted t.core)) then
    .next ((s.teams.keys (fun _ u => u.core == t.core)).foldl State.pump (s.closeStream key))
  else .next s

/-! ## The handshake (R317–R319) -/

/-- Send RESYNC for a stream that has packets outstanding (R318); where it has none no handshake goes on. -/
def State.sendResync (s : State) (key : StreamKey) (n : Nat) : State :=
  let st := (s.chan key.team key.ch).stream key.dest
  match st.oldest with
  | none => s.onChan key.team key.ch (fun c => c.onStream key.dest (fun st => { st with resync := none }))
  | some q =>
    let p := { s.packetOf key.team key.ch key.dest (.resync q.pkt.seq) with gen := st.gen, seq := st.nextSeq, rehome := st.rehome }
    { s.onChan key.team key.ch (fun c => c.onStream key.dest (fun st =>
        ({ st with resync := some (n, s.clock) } : Stream).homed true)) with
      net := s.net ++ [.packet p] }

/-- A stream runs the handshake (R317), which the die of its source counts (R488, R494). -/
def State.startResync (s : State) (key : StreamKey) : State :=
  (s.sendResync key 1).count 1 (dieOf (s.team key.team).core) 6
    (b2n ((s.chan key.team key.ch).stream key.dest).oldest.isSome)

/-- RESYNC_TIMER (R317): a stream whose oldest outstanding packet has waited 50 µs runs the handshake. A saved team's
timers do not run (R323). -/
def execResyncTimer (key : StreamKey) (s : State) : Out :=
  let st := (s.chan key.team key.ch).stream key.dest
  let late := st.oldest.any (fun q => q.sentAt.any (fun n => n + 50 * Config.cyclesPerUs ≤ s.clock) && q.retryAt.isNone)
  if s.ownStream key && (s.team key.team).state != .saved && st.resync.isNone && late then
    .next (s.startResync key)
  else .next s

/-- RESYNC_ACK (R318): packets below the next expected number count as acknowledged; a stopped stream breaks its
channel; the others are sent again in order. The parked entry of a saved team absorbs it, and sends nothing: what is left
runs the handshake from the new core (R322, R323). -/
def execResyncAck (r : ResyncAck) (s : State) : Out :=
  match s.takeBack (.resyncAck r) r.key (r.key.dest.chip != s.chip) with
  | none => .next s
  | some s =>
    let st := (s.chan r.key.team r.key.ch).stream r.key.dest
    if !s.ownStream r.key || st.resync.isNone || st.gen != r.gen then .next s
    else
      let s := s.ackStream r.key r.gen ((r.next + 2 ^ 16 - 1) % 2 ^ 16) r.olds
      let s := s.onChan r.key.team r.key.ch (fun c => c.onStream r.key.dest (fun st => { st with resync := none }))
      let st := (s.chan r.key.team r.key.ch).stream r.key.dest
      match r.stopped with
      | some cause =>
        let addr := (st.oldest.map (fun q => packetAddr q.pkt)).getD 0
        let s := s.breakChan 16 r.key.team r.key.ch cause addr (some r.key.dest)
        let qs := st.outstanding
        let s := qs.foldl State.refuseOne s
        .next ((s.onChan r.key.team r.key.ch (fun c =>
          (c.onStream r.key.dest (fun st => { st with pkts := st.pkts.filter (fun q => q.sentAt.isNone) })).noteDone r.key.dest s.stamp)).afterSettle r.key.team)
      | none =>
        if (s.team r.key.team).state = .saved then
          .next (s.onChan r.key.team r.key.ch (fun c => c.onStream r.key.dest (fun st =>
            { st with resync := if st.oldest.isSome then some (0, 0) else none })))
        else
        let again := (st.outstanding.filter (fun q => !q.moved)).map (fun q => NetMsg.packet (s.fromHere st q.pkt))
        let s := s.onChan r.key.team r.key.ch (fun c => c.onStream r.key.dest (fun st =>
          ({ st with pkts := st.pkts.map (fun q => if q.sentAt.isSome then { q with sentAt := some s.clock } else q) } :
            Stream).homed (!again.isEmpty)))
        .next (({ s with net := s.net ++ again }).afterSettle r.key.team)

/-- RESYNC_TIMEOUT (R319): a RESYNC unanswered for 20 µs is sent again, at most three times; then the channel breaks
with cause 4 and every outstanding operation of the stream is refused at the source. -/
def execResyncTimeout (key : StreamKey) (s : State) : Out :=
  let st := (s.chan key.team key.ch).stream key.dest
  match st.resync with
  | some (n, sent) =>
    if !(s.ownStream key && (s.team key.team).state != .saved && sent + 20 * Config.cyclesPerUs ≤ s.clock) then .next s
    else if n < 3 then .next (s.sendResync key (n + 1))
    else
      let addr := (st.oldest.map (fun q => packetAddr q.pkt)).getD 0
      let s := s.breakChan 16 key.team key.ch 4 addr (some key.dest)
      let s := st.outstanding.foldl State.refuseOne s
      .next ((s.onChan key.team key.ch (fun c =>
        (c.onStream key.dest (fun st => { st with pkts := st.pkts.filter (fun q => q.sentAt.isNone), resync := none })).noteDone key.dest s.stamp)).afterSettle key.team)
  | none => .next s

/-! ## Pages that moved (R320) -/

/-- MOVED_REFUSAL (R320): the operation was not applied, and the channel pauses. A handshake is over where nothing else is
outstanding. -/
def execMovedRefusal (r : NetRefusal) (s : State) : Out :=
  if !r.moved then .next s
  else
    match s.takeBack (.refusal r) r.key (r.key.dest.chip != s.chip) with
    | none => .next s
    | some s =>
      if !s.ownStream r.key || (s.refusedPacket r).isNone then .next s
      else
        let s := s.onRefused r (fun q => [{ q with moved := true }])
        .next (s.onChan r.key.team r.key.ch (fun c =>
          { c.onStream r.key.dest (fun st => { st with resync := if st.oldest.isSome then st.resync else none }) with paused := true }))

/-- An element with its home looked up again: none where no access can be made any longer. -/
def State.rehomeVa (s : State) (ctx va : Nat) : Option (Dest × Nat) :=
  match s.walk ctx va with
  | .leaf e => if leafLost e then none else some (homeOf e va)
  | _ => none

/-- The parts of a packet by the present homes of its elements; an element without a home is given none. -/
def State.rehomeBody (s : State) (ctx : Nat) (b : PacketBody) : List (Option Dest × PacketBody) :=
  let key := fun (va : Nat) => (s.rehomeVa ctx va).map (fun h => h.1)
  let pa := fun (va old : Nat) => ((s.rehomeVa ctx va).map (fun h => h.2)).getD old
  let split := fun {α : Type} (f : α → Nat) (es : List α) =>
    let ks := es.foldl (fun r e => if r.contains (key (f e)) then r else r ++ [key (f e)]) []
    ks.map (fun k => (k, es.filter (fun e => key (f e) == k)))
  match b with
  | .store es => (split (fun e => e.va) es).map (fun g => (g.1, .store (g.2.map (fun e => { e with pa := pa e.va e.pa }))))
  | .atom op n r es =>
    (split (fun e => e.va) es).map (fun g => (g.1, .atom op n r (g.2.map (fun e => { e with pa := pa e.va e.pa }))))
  | .reduce op n es =>
    (split (fun e => e.va) es).map (fun g => (g.1, .reduce op n (g.2.map (fun e => { e with pa := pa e.va e.pa }))))
  | .read r es => (split (fun e => e.va) es).map (fun g => (g.1, .read r (g.2.map (fun e => { e with pa := pa e.va e.pa }))))
  | b => [(none, b)]

/-- The parts of a refused packet by their present homes; one that only notifies stays where it is. -/
def State.rehomePacket (s : State) (ctx : Nat) (p : Packet) : List (Option Dest × PacketBody) :=
  match p.body with
  | .store [] => [(some p.key.dest, .store [])]
  | b => s.rehomeBody ctx b

/-- Put a packet into a stream before every unsent packet of a later operation. -/
def insertByOp (q : OutPacket) : List OutPacket → List OutPacket
  | [] => [q]
  | a :: t => if a.sentAt.isNone && q.op < a.op then q :: a :: t else a :: insertByOp q t

/-- The refused packets of a channel in their original order. -/
def Chan.movedPackets (c : Chan) : List OutPacket :=
  sortBy (fun a b => a.op ≤ b.op) (c.streams.flatMap (fun st => st.pkts.filter (fun q => q.moved)))

/-- Take the refused packets out of a stream: it goes on at the first of their sequence numbers. -/
def Stream.withoutMoved (st : Stream) : Stream :=
  match st.pkts.find? (fun q => q.moved) with
  | some q => { st with pkts := st.pkts.filter (fun q => !q.moved), nextSeq := q.pkt.seq }
  | none => st

/-- A part of a refused packet, for the destination that it has now. -/
def OutPacket.reissued (q : OutPacket) (d : Dest) (b : PacketBody) : OutPacket :=
  { q with pkt := { q.pkt with key := { q.pkt.key with dest := d }, body := b, ntf := none }, sentAt := none, moved := false,
           retryAt := none, first := false }

/-- Give a word's packets among those of a stream the notify, or none: the last of them has it. -/
def setNotify (mine : OutPacket → Bool) (k : Option Nat) : List OutPacket → List OutPacket
  | [] => []
  | q :: t =>
    if mine q then { q with pkt := { q.pkt with ntf := if t.any mine then none else k } } :: setNotify mine k t
    else q :: setNotify mine k t

/-- The notifies of one .ntf word, of which the packets qs were refused with MOVED and new are reissued: each destination
that the word reaches is notified once, by its last packet there (R305). One that it had reached, and to which no packet goes
any more, is notified by a packet without data.
(Log 93, DEDUCED.) -/
def Chan.renotify (c : Chan) (qs new : List OutPacket) : Chan :=
  match qs with
  | [] => c
  | w :: _ =>
    if w.counter.isNone then c
    else
      let mine := fun (q : OutPacket) => q.op == w.op && q.sentAt.isNone
      let due := fun (d : Dest) => !w.told.contains d || qs.any (fun q => q.pkt.key.dest == d && q.pkt.ntf.isSome) ||
        (c.stream d).pkts.any (fun q => mine q && q.pkt.ntf.isSome)
      let ds := new.foldl (fun r q => if r.contains q.pkt.key.dest then r else r ++ [q.pkt.key.dest]) []
      let left := (qs.filter (fun q => q.pkt.ntf.isSome && !ds.contains q.pkt.key.dest &&
        !qs.any (fun k => k.pkt.key.dest == q.pkt.key.dest && k.first)))
      let c' := left.foldl (fun (c : Chan) q => c.onStream q.pkt.key.dest (fun st =>
        { st with pkts := insertByOp { q.reissued q.pkt.key.dest (.store []) with pkt := { q.pkt with body := .store [] } } st.pkts })) c
      let c' := ds.foldl (fun (c : Chan) d => c.onStream d (fun st =>
        { st with pkts := setNotify mine (if due d then w.counter else none) st.pkts })) c'
      { c' with streams := c'.streams.map (fun st => { st with pkts := st.pkts.map (fun q =>
          if mine q then { q with told := q.told ++ ds.filter (fun d => !q.told.contains d) } else q) }) }

/-- The reads of a reissued part are out at its new destination (R276). -/
def Chan.readsMoved (c : Chan) (q new : OutPacket) (now : Nat) : Chan :=
  match new.pkt.body with
  | .read reader es =>
    let c := c.lessReads q.readsOf es.length
    { c with reads := c.reads ++ [⟨q.op, new.pkt.key.dest, es.length, reader, now⟩] }
  | _ => c

/-- Messages about packets that were refused with MOVED no longer count: copies of them that the handshake sent, and refusals
of such copies. -/
def State.forgetMoved (s : State) (qs : List OutPacket) : State :=
  let hit := fun (key : StreamKey) (gen seq : Nat) => qs.any (fun q => q.pkt.key == key && q.pkt.gen == gen && q.pkt.seq == seq)
  { s with net := s.net.filter (fun m => match m with
    | .packet p => !hit p.key p.gen p.seq
    | .refusal r => !hit r.key r.gen r.seq
    | _ => true) }

/-- MOVED_REISSUE (R320): once every earlier operation of the channel is settled, the refused operations are reissued in
their original order, each to its present home, ahead of later ones. An operation whose page is lost breaks the channel
with cause 6, and one without a translation with cause 2: nothing of the channel that is not applied is sent (R312).
(Log 34, DEDUCED.) -/
def execMovedReissue (team ch : Nat) (s : State) : Out :=
  let c := s.chan team ch
  let t := s.team team
  let waiting := c.streams.any (fun st => st.pkts.any (fun q => q.sentAt.isSome && !q.moved))
  let ctx := (s.gridOf team).ctx
  let qs := c.movedPackets
  let moving := qs.any (fun q => (packetElems q.pkt.body).any (fun e => s.walkWaits ctx e.1))
  if !c.paused || t.state = .saved || t.state = .freed || waiting || moving then .next s
  else
    let s := (s.forgetMoved qs).onChan team ch (fun c => { c with paused := false })
    let parts := qs.flatMap (fun q => (s.rehomePacket ctx q.pkt).map (fun p => (q, p)))
    match parts.find? (fun p => p.2.1.isNone) with
    | some p =>
      let va := packetAddr { p.1.pkt with body := p.2.2 }
      let lost := match s.walk ctx va with
        | .leaf e => leafLost e
        | _ => false
      .next ((s.breakChan 16 team ch (if lost then 6 else 2) va (some p.1.pkt.key.dest)).afterSettle team)
    | none =>
    let s := s.onChan team ch (fun c => { c with streams := c.streams.map Stream.withoutMoved })
    let new := parts.filterMap (fun p => p.2.1.map (fun d =>
      (p.1, { p.1.reissued d p.2.2 with first := !p.1.told.contains d || (p.1.first && d == p.1.pkt.key.dest) })))
    let s := new.foldl (fun (s : State) p => s.onChan team ch (fun c =>
      (c.readsMoved p.1 p.2 s.stamp).onStream p.2.pkt.key.dest (fun st => { st with pkts := insertByOp p.2 st.pkts }))) s
    let ops := qs.foldl (fun r q => insertNat r q.op) []
    let s := ops.foldl (fun (s : State) n => s.onChan team ch (fun c =>
      c.renotify (qs.filter (fun q => q.op == n)) ((new.filter (fun p => p.1.op == n)).map (fun p => p.2)))) s
    .next (s.afterSettle team)

/-! ## Room for packets (R294, R296, R308) -/

/-- Are there entries of the stream table for the streams that a word opens (R296)? -/
def State.entriesFor (s : State) (team ch : Nat) (ps : List (Dest × Nat)) : Bool :=
  let news := ps.filter (fun p => !((s.chan team ch).stream p.1).opened)
  news.isEmpty || decide (s.streamsOn (s.team team).core + news.length ≤ Config.streamTable)

/-- Is there room for a word's packets: table entries for the streams it opens (R296), and the hold buffer (R308), or
the window of each stream, in which what waits to be sent already goes before it (R294)? -/
def State.roomFor (s : State) (team ch : Nat) (rel : Bool) (ps : List (Dest × Nat)) : Bool :=
  let t := s.team team
  let c := s.chan team ch
  let total := ps.foldl (fun n p => n + p.2) 0
  let held := (rel && (t.busyBelow 0xFFFF t.opSeq || !t.shadows.isEmpty)) || c.heldBy t t.opSeq
  s.entriesFor team ch ps &&
    (if held then decide (s.heldOn t.core + total ≤ Config.holdBuffer)
      else ps.all (fun p => p.2 == 0 || decide ((c.stream p.1).pkts.length + p.2 ≤ Config.window)))

/-- A word whose packets have no room waits (R294, R296, R308). -/
def State.noRoom (s : State) (team ch : Nat) (ps : List (Dest × Nat)) (vas : List Nat) : Res :=
  .held vas (!s.entriesFor team ch ps)

/-! ## Shadow copies (R303, R304) -/

/-- The atomic operation of a reduction (R298). -/
def redgAtom : RedgOp → AtomOp
  | .add => .add
  | .min => .min
  | .max => .max
  | .minU => .minU
  | .maxU => .maxU
  | .addF => .addF

/-- The identity of a reduction at n bytes (R303). -/
def redgIdentity (op : RedgOp) (n : Nat) : Nat :=
  match op with
  | .add | .maxU => 0
  | .min => 2 ^ (8 * n - 1) - 1
  | .max => 2 ^ (8 * n - 1)
  | .minU => 2 ^ (8 * n) - 1
  | .addF => 0x80000000

/-- A reduction on n bytes: FP32 keeps subnormals (R301). -/
def redgNew (op : RedgOp) (n o x : Nat) : Nat := (atomNew (redgAtom op) false n o x 0).1

/-- Send one operation of a team on a channel: to nowhere if the channel is broken. -/
def State.sendOp (s : State) (team ch : Nat) (dest : Dest) (body : PacketBody) (merge : Bool) : State :=
  if (s.chan team ch).cause ≠ 0 then s
  else
    let q : OutPacket := { pkt := s.packetOf team ch dest body, op := s.nextOpOf team, merge := merge }
    (s.placePackets team ch [q]).bumpOp team

/-- The touched elements of a copy that travel in one packet: those of one channel, operation and size. -/
def shadowGroups (es : List ShadowElem) : List (List ShadowElem) :=
  let same := fun (a b : ShadowElem) => a.ch == b.ch && a.op == b.op && a.size == b.size
  let reps := es.foldl (fun r e => if r.any (same e) then r else r ++ [e]) []
  reps.map (fun r => es.filter (same r))

/-- Merge one copy: each touched element goes to its home as a REDG (R304). A poisoned copy breaks its channel (R456). -/
def State.mergeShadow (s : State) (team : Nat) (sh : Shadow) : State :=
  let s := s.onTeam team (fun t => { t with shadows := t.shadows.filter (fun x => !(x.dest == sh.dest && x.line == sh.line)) })
  (shadowGroups sh.elems).foldl (fun s g =>
    match g with
    | [] => s
    | e :: _ =>
      if sh.poisoned then s.breakChan 16 team e.ch 1 e.va (some sh.dest)
      else
        s.sendOp team e.ch sh.dest
          (.reduce e.op e.size (g.map (fun e => ⟨e.va, sh.line * 128 + e.ofs, 0, e.value, 0⟩))) true) s

/-- Merge every copy of a team. -/
def State.mergeAll (s : State) (team : Nat) : State := (s.team team).shadows.foldl (fun s sh => s.mergeShadow team sh) s

/-- Lines of a slice's shadow area in use. -/
def State.shadowsIn (s : State) (die slice : Nat) : Nat :=
  s.teams.foldl (fun n e => n + (e.2.shadows.filter (fun x => x.die == die && x.slice == slice)).length) 0

/-- SHADOW_MERGE (R304, R347): a copy is merged early to make room in its slice, or because its team is halting or has
ended. -/
def execShadowMerge (team line : Nat) (s : State) : Out :=
  let t := s.team team
  match t.shadows.find? (fun x => x.line == line) with
  | none => .next s
  | some sh =>
    if t.state = .running && s.shadowsIn sh.die sh.slice < Config.shadowLines then .next s
    else .next ((s.mergeShadow team sh).pump team)

/-- Add a contribution to a copy that has its line: the copy, or none where it must be merged first (R303). -/
def Shadow.add (sh : Shadow) (op : RedgOp) (n va pa ch x now : Nat) : Option Shadow :=
  let ofs := pa % 128
  let hits := sh.elems.filter (fun e => e.ofs < ofs + n && ofs < e.ofs + e.size)
  match hits with
  | [] => some { sh with elems := sh.elems ++ [⟨ofs, n, op, redgNew op n (redgIdentity op n) x, va, ch⟩], touched := now }
  | [e] =>
    if e.ofs = ofs ∧ e.size = n ∧ e.op = op then
      some { sh with
        elems := sh.elems.map (fun y => if y.ofs = ofs then { y with value := redgNew op n y.value x } else y)
        touched := now }
    else none
  | _ => none

/-- Put a copy back among the team's copies. -/
def State.putShadow (s : State) (team : Nat) (sh : Shadow) : State :=
  s.onTeam team (fun t =>
    { t with shadows := t.shadows.filter (fun x => !(x.dest == sh.dest && x.line == sh.line)) ++ [sh] })

/-- The least recently touched copy of a team in a slice. -/
def Team.oldestShadow (t : Team) (die slice : Nat) : Option Shadow :=
  (t.shadows.filter (fun x => x.die == die && x.slice == slice)).foldl (fun r x =>
    match r with
    | none => some x
    | some y => if x.touched < y.touched then some x else some y) none

/-- Has a slice's shadow area a free line (R21, R30)? -/
def State.shadowFree (s : State) (die slice : Nat) : Bool :=
  s.shadowsIn die slice < Config.shadowLines && !s.fenced.contains (.slice, die * Config.slicesPerDie + slice)

/-- One contribution of REDG.sh (R303): none where it must go home as a plain REDG and its stream has no room (R294, R296,
R308).
(Log 27, DEDUCED.) -/
def State.shadowAdd (s : State) (team ch : Nat) (op : RedgOp) (n va pa : Nat) (dest : Dest) (x : Nat) : Option State :=
  let t := s.team team
  let die := dieOf t.core
  let slice := sliceOf pa
  let fresh : Shadow := { dest := dest, line := pa / 128, slice := slice, die := die, elems := [], touched := s.stamp, poisoned := false }
  let start := fun (s : State) =>
    match fresh.add op n va pa ch x s.stamp with
    | some sh => s.putShadow team sh
    | none => s
  match t.shadows.find? (fun y => y.dest == dest && y.line == pa / 128) with
  | some sh =>
    match sh.add op n va pa ch x s.stamp with
    | some sh => some (s.putShadow team sh)
    | none => some (start (s.mergeShadow team sh))
  | none =>
    if s.shadowFree die slice then some (start s)
    else
      match t.oldestShadow die slice with
      | some old => some (start (s.mergeShadow team old))
      | none =>
        if s.roomFor team ch false [(dest, 1)] then some (s.sendOp team ch dest (.reduce op n [⟨va, pa, 0, x, 0⟩]) false) else none

end Sys2Proof.Machine
end

