-- ==== Sys2Proof/Machine/Writes.lean ====
section
/-! DEFINITION. The channel words: STG, ATOMG, REDG, CJOIN, CDRAIN, CRESET, CSTAT, event counters and LOCQ
(R298–R316). -/

namespace Sys2Proof.Machine

/-- A trap that reports a channel (R442). -/
def Ctx.chanTrap (x : Ctx) (code ch : Nat) (c : Chan) : TrapRec :=
  { x.trap code with addr := c.addr, info := ch + 16 * c.cause }

/-- The trap that reports a channel cause (R313). -/
def causeTrap (cause : Nat) : Nat := if cause = 3 ∨ cause = 4 then 0x10 else 0x0F

/-! ## The writers (R300, R301) -/

/-- One lane's part of a writer: its address, its home and the address there. -/
structure Item where
  lane : Nat
  va : Nat
  dest : Dest
  pa : Nat
  deriving DecidableEq, Repr

/-- The first lane whose address is misaligned, and the first whose bytes leave the address space (R300, orders 4
and 5). -/
def Ctx.addrCheck (x : Ctx) (E : Nat → Int) (n kind : Nat) : Option TrapRec :=
  match (lanesOf x.act).find? (fun L => E L % (n : Int) ≠ 0) with
  | some L => some (x.addrTrap 0x08 0 L (intBits (E L) 64) 0)
  | none =>
    ((lanesOf x.act).find? (fun L => E L < 0 || (Config.addrLimit : Int) < E L + n)).map (fun L =>
      x.addrTrap 0x07 2 L (intBits (E L) 64) kind)

/-- The address of a lane of a channel word: under .ntf the offset is 0 (R299). -/
def State.chanAddr (s : State) (x : Ctx) (c : Course) (m : MWord) (ntf : Bool) (L : Nat) : Int :=
  if ntf then (s.baseVal x c m 2 L : Int) else s.effAddr x c m 2 L

/-- The event counter of a .ntf word (R299). -/
def MWord.counter (m : MWord) : Nat := m.ofs.toNat % 4096

/-- The checks of R300 in their order; then f has the lanes with their homes. -/
def State.writeChecks (s : State) (x : Ctx) (i : Instr) (m : MWord) (ntf : Bool) (f : Course → List Item → Res) : Res :=
  let c := s.issuer x
  let ctx := s.ctxOf c
  let ch := m.ch.toNat
  let n := m.size.bytes
  let E := s.chanAddr x c m ntf
  if x.act = 0#32 then .go s
  else if (s.chan c.team ch).cause ≠ 0 then .trap (x.chanTrap 0x11 ch (s.chan c.team ch))
  else if ntf && decide ((s.lrOf c).events ≤ MWord.counter m) then .trap x.illegalOperand
  else
    match s.poisoned c x i.fields with
    | some p => .trap (x.dataError p)
    | none =>
      match x.addrCheck E n 1 with
      | some t => .trap t
      | none =>
        (s.lookPages ctx (x.trap 0) true ((lanesOf x.act).map (fun L => ⟨L, (E L).toNat, 2, .any⟩))).then
          (f c ((lanesOf x.act).map (fun L =>
            let h := s.home ctx (E L).toNat
            ⟨L, (E L).toNat, h.1, h.2⟩)))

/-- The rule of a .rel word: it and later words of its channel follow every earlier operation of the team and the merges
(R304, R309). -/
def State.release (s : State) (team ch : Nat) : State :=
  let s := s.mergeAll team
  s.onChan team ch (fun c => { c with gates := c.gates ++ [⟨s.nextOpOf team, 0xFFFF⟩] })

/-- Mark the last packet for each destination with the notify (R301, R305). -/
def markLast (ntf : Option Nat) : List PacketBody → List (PacketBody × Option Nat)
  | [] => []
  | [b] => [(b, ntf)]
  | b :: t => (b, none) :: markLast ntf t

/-- The packets of a word for one destination of those that it reaches. -/
def State.drafts (s : State) (team ch op : Nat) (ntf : Option Nat) (all : List Dest) (g : Dest × List PacketBody) : List OutPacket :=
  (markLast ntf g.2).zipIdx.map (fun (b : (PacketBody × Option Nat) × Nat) =>
    { pkt := { s.packetOf team ch g.1 b.1.1 with ntf := b.1.2 }, op := op, first := b.2 == 0, counter := ntf,
      told := if ntf.isSome then all else [] })

/-- Send a word's packets, by destination: mk may mark registers empty for a packet and note them in it. -/
def State.sendWord (s : State) (team ch : Nat) (rel : Bool) (ntf : Option Nat) (groups : List (Dest × List PacketBody))
    (mk : State → OutPacket → State × OutPacket) : Res :=
  let sizes := groups.map (fun g => (g.1, g.2.length))
  if !s.roomFor team ch rel sizes then s.noRoom team ch sizes (groups.flatMap (fun g => g.2.flatMap (fun b => (packetElems b).map (fun e => e.1))))
  else
    let s := if rel then s.release team ch else s
    let op := s.nextOpOf team
    let drafts := groups.flatMap (s.drafts team ch op ntf (groups.map (fun g => g.1)))
    let r := drafts.foldl (fun (a : State × List OutPacket) q =>
      let y := mk a.1 q
      (y.1, a.2 ++ [y.2])) (s, [])
    .go (((r.1.placePackets team ch r.2).bumpOp team).pump team)

/-- The items of a store: of two lanes that write the same bytes, the higher (R293). -/
def mergeStores : List Item → List Item
  | [] => []
  | a :: t => if t.any (fun b => b.va == a.va) then mergeStores t else a :: mergeStores t

/-- STG (R301). -/
def execStg (m : MWord) (rel ntf : Bool) (s : State) : Out :=
  s.issue (.stg m rel ntf) m.head (fun x =>
    let n := m.size.bytes
    s.writeChecks x (.stg m rel ntf) m ntf (fun c items =>
      let s1 := s.tlbFill (s.ctxOf c) (items.map (fun i => i.va))
      let data := fun (i : Item) => bytesOf n (s.laneGroup c x.sup m.ds.toNat m.size.regs i.lane)
      s1.sendWord c.team m.ch.toNat rel (if ntf then some (MWord.counter m) else none)
        ((byDest (fun i => i.dest) (mergeStores items)).map (fun g =>
          (g.1, (cutRun n g.2).map (fun l => .store (l.map (fun i => ⟨i.va, i.pa, data i, false⟩))))))
        (fun s q => (s, q))))

/-- The element operations of an atomic word: the operands are read at issue. -/
def State.atomElems (s : State) (x : Ctx) (c : Course) (m : MWord) (op : AtomOp) (items : List Item) : List AtomElem :=
  let w := m.size.regs
  items.map (fun i =>
    ⟨i.va, i.pa, i.lane, s.laneGroup c x.sup m.ds.toNat w i.lane % 2 ^ (8 * m.size.bytes),
      if op = .cas then s.laneGroup c x.sup (m.ds.toNat + w) w i.lane else 0⟩)

/-- ATOMG (R301): each packet fills the registers of its lanes when its acknowledgement arrives. -/
def execAtomg (m : MWord) (op : AtomOp) (rel ntf : Bool) (s : State) : Out :=
  s.issue (.atomg m op rel ntf) m.head (fun x =>
    let n := m.size.bytes
    let w := m.size.regs
    s.writeChecks x (.atomg m op rel ntf) m ntf (fun c items =>
      let s1 := s.tlbFill (s.ctxOf c) (items.map (fun i => i.va))
      s1.sendWord c.team m.ch.toNat rel (if ntf then some (MWord.counter m) else none)
        ((byDest (fun i => i.dest) items).map (fun g =>
          (g.1, (cutRun (if op = .cas then 2 * n else n) g.2).map (fun l =>
            .atom op n m.ds.toNat (s.atomElems x c m op l)))))
        (fun s q =>
          match q.pkt.body with
          | .atom _ _ _ es =>
            let mask := maskOfLanes (es.map (fun e => e.lane))
            let pid := (s.course x.crs).nextPend
            (s.addPend x .other .remote ((List.range w).map (fun i => (⟨x.sup, true, m.ds.toNat + i⟩, mask))) 0#32 0#32,
              { q with atomg := some (x.crs, pid, m.ds.toNat) })
          | _ => (s, q))))

/-- REDG (R301). -/
def execRedg (m : MWord) (op : RedgOp) (rel ntf : Bool) (s : State) : Out :=
  s.issue (.redg m op rel ntf) m.head (fun x =>
    s.writeChecks x (.redg m op rel ntf) m ntf (fun c items =>
      let s1 := s.tlbFill (s.ctxOf c) (items.map (fun i => i.va))
      s1.sendWord c.team m.ch.toNat rel (if ntf then some (MWord.counter m) else none)
        ((byDest (fun i => i.dest) items).map (fun g =>
          (g.1, (cutRun m.size.bytes g.2).map (fun l =>
            .reduce op m.size.bytes (s.atomElems x c m (redgAtom op) l)))))
        (fun s q => (s, q))))

/-- REDG.sh (R303): the contributions are made in ascending lane order. The channel's most recent destination is the last of the
word's, in the order of R301 (R315). -/
def execRedgSh (m : MWord) (op : RedgOp) (s : State) : Out :=
  s.issue (.redgSh m op) m.head (fun x =>
    s.writeChecks x (.redgSh m op) m false (fun c items =>
      let s1 := s.tlbFill (s.ctxOf c) (items.map (fun i => i.va))
      let n := m.size.bytes
      match items.foldl (fun (t : Option State) (i : Item) => t.bind (fun t =>
        t.shadowAdd c.team m.ch.toNat op n i.va i.pa i.dest (s.laneGroup c x.sup m.ds.toNat m.size.regs i.lane % 2 ^ (8 * n))))
        (some s1) with
      | none => s.noRoom c.team m.ch.toNat (items.map (fun i => (i.dest, 1))) (items.map (fun i => i.va))
      | some t => .go ((t.onChan c.team m.ch.toNat (fun c => { c with lastDest := (byDest (fun i => i.dest) items).getLast?.map (fun g => g.1) })).pump
          c.team)))

/-! ## Order between channels (R308–R310, R316) -/

/-- The channels of a mask below the declared count (R298, R310). -/
def maskChannels (mask declared : Nat) : List Nat := (List.range (min declared 16)).filter (fun k => mask.testBit k)

/-- The lowest broken channel of a list. -/
def State.lowestBroken (s : State) (team : Nat) (chs : List Nat) : Option Nat := chs.find? (fun k => (s.chan team k).cause ≠ 0)

/-- CJOIN (R308). -/
def execCjoin (r : RWord) (s : State) : Out :=
  s.issue (.cjoin r) r.head (fun x =>
    let c := s.issuer x
    let ch := r.a.field.toNat
    let chs := maskChannels (s.uval x c r.b % 2 ^ 16) (s.lrOf c).chans
    let named := (List.range 16).filter (fun k => k == ch || chs.contains k)
    if x.act = 0#32 then .go s
    else
      match s.lowestBroken c.team named with
      | some k => .trap (x.chanTrap (causeTrap (s.chan c.team k).cause) k (s.chan c.team k))
      | none =>
        let mask := chs.foldl (fun a k => a + 2 ^ k) 0
        let t := s.team c.team
        .go (s.onChan c.team ch (fun c => { c with gates := c.gates ++ [⟨t.opSeq, mask⟩] })))

/-- Is everything that a CDRAIN waits for settled (R310)? -/
def Team.drained (t : Team) (chans upto : Nat) (merges : Bool) : Bool :=
  !t.busyBelow chans upto && !(merges && t.mergesBelow upto)

/-- The acquire time of a team moves to the present (R329). -/
def State.acquire (s : State) (team : Nat) : State := s.onTeam team (fun t => { t with acquire := s.stamp })

/-- Does a scope of CDRAIN merge the shadow copies (R310)? -/
def Scope.merges : Scope → Bool
  | .pkg | .dom | .sys => true
  | _ => false

/-- CDRAIN (R310). -/
def execCdrain (r : RWord) (scope : Scope) (sc : Bool) (s : State) : Out :=
  s.issue (.cdrain r scope sc) r.head (fun x =>
    let c := s.issuer x
    let chs := maskChannels (s.uval x c r.a % 2 ^ 16) (s.lrOf c).chans
    let mask := chs.foldl (fun a k => a + 2 ^ k) 0
    let mg := Scope.merges scope
    if x.act = 0#32 then .go s
    else
      let s := if mg then (s.mergeAll c.team).pump c.team else s
      .wait s (.cdrain mask (s.nextOpOf c.team) sc mg))

/-- CDRAIN_COMPLETE (R310, R313, R329): the trap of the lowest broken channel of the mask, or the course goes on. -/
def execCdrainComplete (crs slot : Nat) (s : State) : Out :=
  let c := s.course crs
  let y := c.slotN slot
  match y.wait with
  | .cdrain mask upto sc mg =>
    let t := s.team c.team
    if !(s.running c && t.drained mask upto mg) then .next s
    else
      match s.lowestBroken c.team (maskChannels mask 16) with
      | some k =>
        let ch := s.chan c.team k
        let tr : TrapRec := { code := causeTrap ch.cause, pc := y.pc, resume := y.pc, mask := y.act,
                              inSup := c.supIn slot, addr := ch.addr, info := k + 16 * ch.cause }
        .next ((s.noteTrap crs tr).raise crs slot tr)
      | none => .next ((if sc then s.acquire c.team else s).advance crs slot y.act)
  | _ => .next s

/-- CRESET (R316): the channel is resetting until every operation of it is settled. -/
def execCreset (r : RWord) (s : State) : Out :=
  s.issue (.creset r) r.head (fun x =>
    let c := s.issuer x
    let ch := r.a.field.toNat
    if x.act = 0#32 then .go s
    else if (s.chan c.team ch).busyBelow (s.nextOpOf c.team) then
      .wait (s.onChan c.team ch (fun c => { c with resetting := true })) (.creset ch (s.nextOpOf c.team))
    else .go (s.resetChan c.team ch))

/-- The status word of CSTAT (R315).
(Log 123, DESIGN CHOICE.) -/
def Chan.status (c : Chan) : Nat :=
  let open_ := (c.streams.filter (fun st => st.opened)).length
  let out := c.streams.foldl (fun n st => n + st.pkts.length) 0
  let state := if c.resetting then 3 else if c.cause ≠ 0 then 2 else if c.busyBelow (2 ^ 64) then 1 else 0
  open_ % 256 * 2 ^ 20 + min out 4095 * 2 ^ 8 + c.cause * 16 + state

/-- A destination as CSTAT.where reports it (R315). -/
def destWord : Option Dest → Nat
  | some d => d.chip + d.die * 2 ^ 10 + b2n d.host * 2 ^ 13
  | none => 0

/-- CSTAT (R315).
(Log 29, DEDUCED.) -/
def execCstat (r : RWord) (s : State) : Out :=
  s.issue (.cstat r) r.head (fun x =>
    let c := s.issuer x
    s.deliverU x r.d.toNat 1 (s.chan c.team r.a.field.toNat).status)
/-- CSTAT.addr. -/
def execCstatAddr (r : RWord) (s : State) : Out :=
  s.issue (.cstatAddr r) r.head (fun x =>
    let c := s.issuer x
    s.deliverU x r.d.toNat 2 (s.chan c.team r.a.field.toNat).addr)
/-- CSTAT.where. -/
def execCstatWhere (r : RWord) (s : State) : Out :=
  s.issue (.cstatWhere r) r.head (fun x =>
    let c := s.issuer x
    let ch := s.chan c.team r.a.field.toNat
    s.deliverU x r.d.toNat 1 (destWord (if ch.cause ≠ 0 then ch.brokenAt else ch.lastDest)))

/-! ## Event counters (R307) -/

/-- Counter k of a course's die. -/
def State.eventOf (s : State) (c : Course) (k : Nat) : Nat := s.event (dieOf c.core) (s.ctxOf c) k

/-- EVWAIT (R307): an acquire when it completes. -/
def execEvwait (r : RWord) (s : State) : Out :=
  s.issue (.evwait r) r.head (fun x =>
    let c := s.issuer x
    let k := s.uval x c r.a
    let v := s.val x c r.b 2 0
    if x.act = 0#32 then .go s
    else if (s.lrOf c).events ≤ k then .trap x.illegalOperand
    else if v ≤ s.eventOf c k then .go (s.acquire c.team)
    else .wait s (.evwait k v))

/-- EVWAIT_WAKE (R307, R329). -/
def execEvwaitWake (crs slot : Nat) (s : State) : Out :=
  let c := s.course crs
  match (c.slotN slot).wait with
  | .evwait k v =>
    if s.running c && decide (v ≤ s.eventOf c k) then .next ((s.acquire c.team).advance crs slot (c.slotN slot).act)
    else .next s
  | _ => .next s

/-- EVWAIT.rd (R307). -/
def execEvwaitRd (r : RWord) (s : State) : Out :=
  s.issue (.evwaitRd r) r.head (fun x =>
    let c := s.issuer x
    let k := s.uval x c r.a
    if x.act = 0#32 then .go s
    else if (s.lrOf c).events ≤ k then .trap x.illegalOperand
    else s.deliverU x r.d.toNat 2 (s.eventOf c k))

/-- EVADD (R307). -/
def execEvadd (r : RWord) (s : State) : Out :=
  s.issue (.evadd r) r.head (fun x =>
    let c := s.issuer x
    let k := s.uval x c r.a
    let die := dieOf c.core
    let ctx := s.ctxOf c
    if x.act = 0#32 then .go s
    else if (s.lrOf c).events ≤ k then .trap x.illegalOperand
    else .go (s.setEvent die ctx k (s.event die ctx k + s.uval x c r.b)))

/-! ## LOCQ (R311) -/

/-- What LOCQ reports of an address. -/
def State.location (s : State) (ctx E : Nat) : Nat :=
  if Config.addrLimit ≤ E then 0
  else
    match s.translate ctx E with
    | .leaf e =>
      if leafLost e then 0
      else
        leafChip e + leafDie e * 2 ^ 10 + leafTier e * 2 ^ 13 + b2n (leafHs e) * 2 ^ 14 + b2n (leafDw e) * 2 ^ 15 +
          b2n (leafHost e) * 2 ^ 16 + 2 ^ 31
    | _ => 0

/-- LOCQ. -/
def execLocq (r : RWord) (s : State) : Out :=
  s.issue (.locq r) r.head (fun x =>
    let c := s.issuer x
    let ctx := s.ctxOf c
    let vas := ((x.span r.u).map (fun L => s.val x c r.a 2 L)).filter (fun E => E < Config.addrLimit)
    if vas.any (fun E => s.translate ctx E == .wait) then .held vas false
    else
      (s.tlbFill ctx vas).lateWord x .other r.u r.d.toNat 1 0#32 (fun L => (s.location ctx (s.val x c r.a 2 L), 0#32)))

end Sys2Proof.Machine
end

