-- ==== Sys2Proof/Machine/Tickets.lean ====
section
/-! DEFINITION. Tickets: TLD, landing entries, REDEEM, TDROP, TQRY and expiry (R266–R290, R328). -/

namespace Sys2Proof.Machine

/-! ## Entries (R267–R271) -/

/-- A landing entry by the number that a ticket carries in bits [16:0]. -/
def State.entry (s : State) (k : Nat) : Entry := Tab.get {} s.entries k
/-- Write a landing entry. -/
def State.setEntry (s : State) (k : Nat) (e : Entry) : State := { s with entries := Tab.put s.entries k e }

/-- The number of an entry of a slice of a die. -/
def entryKey (die slice n : Nat) : Nat := (die * 32 + slice) * 512 + n

/-- The home slice of a core's tickets (R269). -/
def homeSlice (core : Nat) : Nat :=
  let c := core % Config.coresPerDie
  if c / 16 < 5 then c % 16 else 16 + c % 16

/-- The value of a ticket (R267). -/
def ticketValue (ctag gen key : Nat) : Nat := ctag * 2 ^ 48 + gen * 2 ^ 32 + key
/-- The landing entry that a ticket names. -/
def ticketKey (t : Nat) : Nat := bitsOf t 16 0
/-- GEN of a ticket. -/
def ticketGen (t : Nat) : Nat := bitsOf t 47 32
/-- CTAG of a ticket. -/
def ticketTag (t : Nat) : Nat := bitsOf t 63 48

/-- Does a ticket name the entry's current allocation (R271)?
(Log 130, DESIGN CHOICE.) -/
def Entry.matches (e : Entry) (t : Nat) : Bool :=
  e.gen == ticketGen t && e.ctag == ticketTag t && bitsOf t 31 17 == 0

/-- One ticket of a team has been returned (R276). -/
def State.returnTicket (s : State) (team : Nat) : State := s.onTeam team (fun t => { t with live := t.live - 1 })

/-! ## TLD (R273) -/

/-- The reads of a TLD, one packet for each piece of a run, which wait for the landing entry. -/
def State.tldPackets (s : State) (team ch n op req : Nat) (items : List Item) : List OutPacket :=
  (byDest (fun i => i.dest) items).flatMap (fun g =>
    (cutRun n g.2).map (fun l =>
      { pkt := s.packetOf team ch g.1 (.read (.ticket 0 0) (l.map (fun i => ⟨i.va, i.pa, n, i.lane⟩))),
        op := op, ready := false, req := some req }))

/-- A TLD within its quota takes effect: the ticket counts, s[D:D+1] is empty, and its reads take their place in their
streams (R273, R275, R276). -/
def State.startTld (s : State) (crs : Nat) (pc slot d ch n : Nat) (act : LaneMask) (sup : Bool) (items : List Item) :
    State :=
  let c := s.course crs
  let t := s.team c.team
  let op := t.opSeq
  let id := Tab.fresh s.tldReqs
  let fills : List (RegId × LaneMask) := [(⟨sup, false, d⟩, 0#32), (⟨sup, false, d + 1⟩, 0#32)]
  let c1 := fills.foldl (fun c f => c.markEmpty f.1 f.2) c
  let p : Pend := { id := c.nextPend, unit := .other, kind := .remote, fills := fills, flags := 0#32, may := 0#32,
                    pc := pc, slot := slot, act := act, sup := sup, turn := s.stamp }
  let r : TldReq := { crs := crs, team := c.team, pend := c.nextPend, ch := ch, n := n,
                      lanes := items.map (fun i => (i.lane, i.va, i.pa, i.dest)), die := dieOf t.core,
                      slice := homeSlice t.core, refusals := 0, prio := none, op := op, acq := t.acquire }
  let s := s.setCourse crs { c1 with nextPend := c.nextPend + 1, pend := c1.pend ++ [p] }
  let s := s.setTeam c.team { t with live := t.live + 1, opSeq := op + 1 }
  let s := s.onChan c.team ch (fun k =>
    { k with reads := k.reads ++ (byDest (fun i => i.dest) items).map (fun g => ⟨op, g.1, g.2.length, .ticket 0 0, s.stamp⟩) })
  { s.placePackets c.team ch (s.tldPackets c.team ch n op id items) with tldReqs := Tab.put s.tldReqs id r }

/-- The request of a TLD that waits for its quota. -/
def heldTld (crs team ch n : Nat) (items : List Item) : TldReq :=
  { crs := crs, team := team, pend := 0, ch := ch, n := n, lanes := items.map (fun i => (i.lane, i.va, i.pa, i.dest)),
    die := 0, slice := 0, refusals := 0, prio := none, op := 0, acq := 0 }

/-- TLD (R273). -/
def execTld (m : MWord) (nb : Bool) (s : State) : Out :=
  s.issue (.tld m nb) m.head (fun x =>
    let c := s.issuer x
    let ctx := s.ctxOf c
    let ch := m.ch.toNat
    let n := m.size.bytes
    let d := m.ds.toNat
    let E := fun L => s.effAddr x c m 2 L
    let act := lanesOf x.act
    let laneTrap := fun (L : Nat) =>
      if E L % (n : Int) ≠ 0 then some (x.addrTrap 0x08 0 L (intBits (E L) 64) 0)
      else if E L < 0 || (Config.addrLimit : Int) < E L + n then some (x.addrTrap 0x07 2 L (intBits (E L) 64) 0)
      else none
    if x.act = 0#32 then .go s
    else if (s.chan c.team ch).cause ≠ 0 then .trap (x.chanTrap 0x11 ch (s.chan c.team ch))
    else
      match act.findSome? laneTrap with
      | some t => .trap t
      | none =>
        (s.lookPages ctx (x.trap 0) true (act.map (fun L => ⟨L, (E L).toNat, 1, .any⟩))).then <|
          let items := act.map (fun L =>
            let h := s.home ctx (E L).toNat
            (⟨L, (E L).toNat, h.1, h.2⟩ : Item))
          let s := s.tlbFill ctx (items.map (fun i => i.va))
          if (s.lrOf c).quota ≤ (s.team c.team).live then
            if nb then s.deliverU x d 2 0 else .wait s (.quota (heldTld x.crs c.team ch n items) d)
          else
            let sizes := (byDest (fun i => i.dest) items).map (fun g => (g.1, (cutRun n g.2).length))
            if !s.roomFor c.team ch false sizes then s.noRoom c.team ch sizes (items.map (fun i => i.va)) else
            .go (s.startTld x.crs x.pc x.j d ch n x.act x.sup items))

/-- TLD_QUOTA_RESUME: a ticket of the team has been returned, and the waiting TLD goes on (R273). It has not issued (R289): a further
trap of the slot is taken before it (R435, R437). -/
def execTldQuotaResume (crs slot : Nat) (s : State) : Out :=
  let c := s.course crs
  let y := c.slotN slot
  match y.wait with
  | .quota r d =>
    if !(s.running c && c.notBarred slot) then .next s
    else if let some t := c.nextRefusal slot then .next (s.takeRefusal crs slot t)
    else if (s.team c.team).live < (s.lrOf c).quota then
      let items := r.lanes.map (fun l => (⟨l.1, l.2.1, l.2.2.2, l.2.2.1⟩ : Item))
      .next ((s.startTld crs y.pc slot d r.ch r.n y.act (c.supIn slot) items).advance crs slot y.act)
    else .next s
  | _ => .next s

/-! ## Far lines (R328) -/

/-- Bytes of scratchpad that admitted grids hold on each die (R22, R50). -/
def State.carved (s : State) : Nat := s.grids.foldl (fun n e => if e.2.done then n else n + e.2.lr.scratch) 0

/-- Sets of the line cache of a slice: 2,688 KiB less the carve-out, in 16 ways of 128 bytes (R21, R22). -/
def State.lineSets (s : State) : Nat := (2688 * 1024 - s.carved / Config.slicesPerDie) / (16 * 128)

/-- The place of a far line in its die: the slice, and the set of the slice's line cache.
(Log 125, DESIGN CHOICE.) -/
def State.farPlace (s : State) (f : FarLine) : Nat × Nat × Nat :=
  (f.die, sliceOf (f.line * 128), Config.lineSet f.line % s.lineSets)

/-- Put a far line into its set: where 8 of the 16 ways hold far lines, one of those leaves (R22). A fenced slice holds none
(R30).
(Log 94, DESIGN CHOICE.) -/
def State.putFar (s : State) (f : FarLine) (l : List FarLine) : List FarLine :=
  let l := l.filter (fun y => !(y.die == f.die && y.chip == f.chip && y.line == f.line))
  let set := l.filter (fun y => s.farPlace y == s.farPlace f)
  if s.fenced.contains (.slice, f.die * Config.slicesPerDie + sliceOf (f.line * 128)) then l
  else if set.length < 8 then f :: l
  else
    match set[Config.freeNat s.stamp (2 ^ 59) % set.length]? with
    | some y => f :: l.erase y
    | none => f :: l

/-- Hold a line as a far line of a die, in place of an older copy of it. -/
def State.holdFar (s : State) (f : FarLine) : State := ({ s with farLines := s.putFar f s.farLines }).count 1 f.die 3 1

/-- The line caches after their size or their slices have changed. -/
def State.trimFar (s : State) : State := { s with farLines := s.farLines.reverse.foldl (fun l f => s.putFar f l) [] }

/-- Refill a far line of the reading die from a line that came with a read from another package, while the page is
still homed there and is not host-shared. -/
def State.refillFrom (s : State) (x : ReadReturn) : State :=
  let t := s.team x.key.team
  let ctx := (s.gridOf x.key.team).ctx
  match s.walk ctx x.va with
  | .leaf e =>
    if x.line.isEmpty || x.key.dest.chip = s.chip || leafHs e || homeOf e x.va ≠ (x.key.dest, x.pa) then s
    else s.holdFar ⟨dieOf t.core, x.key.dest.chip, x.pa / 128, x.va / 128 * 128, ctx, x.line, x.linePoison,
      min x.moment s.stamp⟩
  | _ => s

/-! ## Allocation and landing (R269, R270, R275, R277) -/

/-- Does another request go before this one at its slice (R277)? -/
def TldReq.behind (r a : TldReq) : Bool :=
  a.die == r.die && a.slice == r.slice &&
    (match a.prio, r.prio with
      | some p, some q => p < q
      | some _, none => true
      | none, _ => false)

/-- May the slice give this request an entry now? -/
def State.mayAllocate (s : State) (r : TldReq) : Bool := !s.tldReqs.any (fun _ a => r.behind a)

/-- A far line of the reading die that may serve an element of the operation op of a team's channel: filled after the
acquire time acq, and after every earlier operation of the team on the channel to the line's home die was settled
(R328). -/
def State.farFor (s : State) (die team ch op acq pa : Nat) (dest : Dest) : Option FarLine :=
  let c := s.chan team ch
  let last := ((c.doneAt.find? (fun e => e.1 == dest)).map (fun e => e.2)).getD 0
  let earlier := (c.stream dest).pkts.any (fun q => q.op < op) || c.reads.any (fun y => y.op < op && y.dest == dest)
  if dest.host || (dest.chip == s.chip && dest.die == die) || earlier then none
  else
    s.farLines.find? (fun f =>
      f.die == die && f.chip == dest.chip && f.line == pa / 128 && acq < f.filled && last < f.filled)

/-- The lanes of a request that far lines serve: a free choice for each (R328).
(Log 32, DEDUCED.) -/
def State.farServed (s : State) (r : TldReq) : List (Nat × Nat × FarLine) :=
  r.lanes.filterMap (fun l =>
    match s.farFor r.die r.team r.ch r.op r.acq l.2.2.1 l.2.2.2 with
    | some f =>
      if Config.freeBit s.stamp (2 ^ 19 + l.1) && !r.dead.contains l.1 then some (l.1, l.2.2.1 % 128, f) else none
    | none => none)

/-- n bytes of a far line from a place in it, with the poisoned words of them. -/
def FarLine.part (f : FarLine) (o n : Nat) : List Byte × List Nat :=
  ((f.bytes.drop o).take n, (wordsOf 0 n).filter (fun w => f.poison.contains ((o + w) / 4 * 4)))

/-- Bytes land at a lane of an entry's image (R270). -/
def Entry.landBytes (e : Entry) (lane : Nat) (bytes : List Byte) (poison : List Nat) : Entry :=
  let o := e.size * lane
  { e with image := cellsPut e.image o bytes, poison := poison.foldl (fun p w => insertNat p (o + w)) e.poison,
           waiting := e.waiting.erase lane }

/-- All bytes of an entry have landed: READY, or FREE if it drains. -/
def Entry.settleState (e : Entry) : Entry :=
  if e.waiting.isEmpty then
    match e.state with
    | .pending => { e with state := .ready }
    | .draining => { e with state := .free }
    | _ => e
  else e

/-- Lanes of a reader's reads at a destination have landed now (R276, R328). -/
def Chan.readLanded (c : Chan) (reader : Reader) (dest : Dest) (k now : Nat) : Chan :=
  (c.lessReads (fun r => r.reader == reader && r.dest == dest) k).noteDone dest now

/-- May the slice give out an entry: it is FREE, and the slice is not fenced (R30, R269)? -/
def State.entryFree (s : State) (die slice n : Nat) : Bool :=
  (s.entry (entryKey die slice n)).state == .free && !s.fenced.contains (.slice, die * Config.slicesPerDie + slice)

/-- TICKET_ALLOCATE: the slice gives a request an entry of its choice, the ticket is delivered, and the reads go out
(R269, R273). Lanes served by far lines and refused lanes land at once. -/
def execTicketAllocate (req entry : Nat) (s : State) : Out :=
  match Tab.find s.tldReqs req with
  | none => .next s
  | some r =>
    let key := entryKey r.die r.slice entry
    let e := s.entry key
    if !(entry < Config.entriesPerSlice && s.entryFree r.die r.slice entry && s.mayAllocate r) then .next s
    else
      let team := s.team r.team
      let ctag := (s.context (s.gridOf r.team).ctx).tag
      let gen := e.gen % 65535 + 1
      let rd : Reader := .ticket key gen
      let far := s.farServed r
      let served := far.map (fun f => f.1) ++ r.dead
      let e : Entry := { state := .pending, gen := gen, ctag := ctag, team := r.team, grid := team.grid,
                         waiting := r.lanes.map (fun l => l.1), size := r.n }
      let e := far.foldl (fun (e : Entry) f =>
        e.landBytes f.1 (f.2.2.part f.2.1 r.n).1 (f.2.2.part f.2.1 r.n).2) e
      let e := r.dead.foldl (fun (e : Entry) L => e.landBytes L (List.replicate r.n 0#8) (wordsOf 0 r.n)) e
      let arm : OutPacket → OutPacket := fun q =>
        if q.req = some req then
          { q with ready := true, req := none,
                   pkt := { q.pkt with body := match q.pkt.body with
                     | .read _ es => .read rd (es.filter (fun y => !served.contains y.lane))
                     | b => b } }
        else q
      let named := fun (y : ReadOut) => if y.op = r.op then { y with reader := rd } else y
      let s := s.onChan r.team r.ch (fun c =>
        let sts := c.streams.map (fun (st : Stream) => { st with pkts := st.pkts.map arm })
        (byDest (fun (l : Nat × Nat × Nat × Dest) => l.2.2.2) (r.lanes.filter (fun l => far.any (fun f => f.1 == l.1)))).foldl
          (fun (c : Chan) g => c.readLanded rd g.1 g.2.length s.stamp) { c with streams := sts, reads := c.reads.map named })
      let s := { s.setEntry key e.settleState with tldReqs := Tab.del s.tldReqs req }
      let s := s.count 1 r.die 2 far.length
      let v := ticketValue ctag gen key
      let sup := (s.course r.crs).pendSup r.pend
      let d := (((s.course r.crs).pend.find? (fun p => p.id == r.pend)).bind (fun p => p.fills.head?)).map (fun f => f.1.n)
      let s := s.landPend r.crs r.pend
        (match d with
          | some d => [.unif sup d (regPart v 0), .unif sup (d + 1) (regPart v 1)]
          | none => []) 0#32
      .next (s.afterSettle r.team)

/-- ALLOCATION_RETRY: a request that the slice cannot serve is refused, and after 8 refusals it has priority (R277). -/
def execAllocationRetry (req : Nat) (s : State) : Out :=
  match Tab.find s.tldReqs req with
  | none => .next s
  | some r =>
    let full := !(List.range Config.entriesPerSlice).any (s.entryFree r.die r.slice)
    if !(full || !s.mayAllocate r) then .next s
    else
      let last := s.tldReqs.foldl (fun n e => match e.2.prio with
        | some p => max n (p + 1)
        | none => n) 0
      let r := { r with refusals := r.refusals + 1 }
      let r := if 8 ≤ r.refusals ∧ r.prio = none then { r with prio := some last } else r
      .next (({ s with tldReqs := Tab.put s.tldReqs req r }).count 1 r.die 4 1)

/-- TICKET_BYTES_LAND (R270, R275, R287): one lane's bytes reach the entry. -/
def execTicketBytesLand (x : ReadReturn) (s : State) : Out :=
  match x.reader with
  | .copy _ _ => .next s
  | .ticket key gen =>
    match s.takeBack (.data x) x.key (x.key.dest.chip != s.chip || x.key.dest.host) with
    | none => .next s
    | some s =>
      let e := s.entry key
      if !(e.gen == gen && e.waiting.contains x.lane && e.team == x.key.team) then .next s
      else
        let s := s.setEntry key ((e.landBytes x.lane (x.bytes.take e.size) x.poison).settleState)
        let s := (s.refillFrom x).onChan x.key.team x.key.ch (fun c => if x.refused then c else c.readLanded x.reader x.key.dest 1 s.stamp)
        .next (s.afterSettle x.key.team)

/-! ## REDEEM (R278–R282) -/

/-- TICKET_STALE or another ticket trap (R441, R442). -/
def Ctx.ticketTrap (x : Ctx) (code t : Nat) : TrapRec := { x.trap code with aux := t, info := x.act.toNat }

/-- The precise checks of R278.
(Log 30, DEDUCED.) -/
def State.redeemCheck (s : State) (x : Ctx) (c : Course) (t : Nat) : Option TrapRec :=
  if t = 0 || bitsOf t 31 17 ≠ 0 || ticketGen t = 0 || ticketTag t ≠ (s.context (s.ctxOf c)).tag then
    some (x.ticketTrap 0x0C t)
  else if s.fenced.contains (.die, bitsOf t 16 14) then some (x.trap 0x13)
  else none

/-- The width of REDEEM in bytes. -/
def RedeemWidth.bytes : RedeemWidth → Nat
  | .b32 => 4
  | .b64 => 8
  | .b128 => 16

/-- A request goes to a slice. -/
def State.askSlice (s : State) (q : SliceReq) : State :=
  { s with sliceReqs := Tab.put s.sliceReqs (Tab.fresh s.sliceReqs) q }

/-- REDEEM into lane registers (R278). -/
def execRedeem (r : RWord) (w : RedeemWidth) (s : State) : Out :=
  s.issue (.redeem r w) r.head (fun x =>
    let c := s.issuer x
    let t := s.val x c r.a 2 0
    let n := RedeemWidth.bytes w
    match s.redeemCheck x c t with
    | some tr => .trap tr
    | none =>
      if x.act = 0#32 then .go s
      else
        let pid := c.nextPend
        let s := s.addPend x .other .remote (x.fills false r.d.toNat (n / 4)) 0#32 0#32
        .go (s.askSlice (.redeem t (.regs x.crs pid r.d.toNat n x.act x.sup) x.pc x.j x.act x.sup none)))

/-- Does a request for shared memory of a course wait for the slice's verdict? -/
def SliceReq.asksFor (q : SliceReq) (crs : Nat) : Bool :=
  match q with
  | .redeem _ (.shared h ..) _ _ _ _ none => h == crs
  | _ => false

/-- Would another counted word take the copy counter of a course beyond 255, with those that a slice may still accept
(R281, R338, R340)? -/
def State.copyFull (s : State) (crs : Nat) : Bool :=
  255 ≤ (s.course crs).eng.copy.length + (s.sliceReqs.filter (fun e => e.2.asksFor crs)).length

/-- REDEEM.sh (R281): the slot waits for the slice's verdict. -/
def execRedeemSh (r : RWord) (s : State) : Out :=
  s.issue (.redeemSh r) r.head (fun x =>
    let c := s.issuer x
    let t := s.val x c r.a 2 0
    let O := s.uval x c r.b
    match s.redeemCheck x c t with
    | some tr => .trap tr
    | none =>
      if x.act = 0#32 then .go s
      else if O % 16 ≠ 0 then .trap { x.trap 0x08 with addr := O }
      else if (s.lrOf c).shared < O + 512 then .trap { x.trap 0x07 with sub := 2, addr := O, info := 1 }
      else if s.copyFull x.crs then .block false
      else
        let id := Tab.fresh s.sliceReqs
        .wait (s.askSlice (.redeem t (.shared x.crs 0 O c.nextPend s.stamp 0) x.pc x.j x.act x.sup none)) (.verdict id))

/-- Count an operation on an engine path of a course (R338). -/
def Engines.add (e : Engines) (p : EnginePath) (k : Counted) : Engines :=
  match p with
  | .copy => { e with copy := e.copy ++ [k] }
  | .mat => { e with mat := e.mat ++ [k] }
  | .coll => { e with coll := e.coll ++ [k] }
  | .xch => { e with xch := e.xch ++ [k] }

/-- The operations of a path that have not retired. -/
def Engines.path (e : Engines) : EnginePath → List Counted
  | .copy => e.copy
  | .mat => e.mat
  | .coll => e.coll
  | .xch => e.xch

/-- Write the operations of a path. -/
def Engines.setPath (e : Engines) (p : EnginePath) (l : List Counted) : Engines :=
  match p with
  | .copy => { e with copy := l }
  | .mat => { e with mat := l }
  | .coll => { e with coll := l }
  | .xch => { e with xch := l }

/-- A counted word issues: its operation is the youngest of the path. -/
def Course.countOp (c : Course) (p : EnginePath) (left : List Nat) : Course :=
  { c with eng := c.eng.add p ⟨c.nextOp, left.isEmpty && p == .mat, left⟩, nextOp := c.nextOp + 1 }

/-- A counted operation has completed (R337). It retires in issue order (R338). -/
def Course.opDone (c : Course) (p : EnginePath) (id : Nat) : Course :=
  { c with eng := c.eng.setPath p ((c.eng.path p).map (fun k => if k.id = id then { k with done := true } else k)) }

/-- The cause of a refused REDEEM (R279): the expiry mark of that same generation is still held, or not. -/
def Entry.refusalCause (e : Entry) (t : Nat) : Nat :=
  if e.expired = some (ticketGen t) && e.ctag == ticketTag t then 0x0D else 0x0C

/-- REDEEM_AT_SLICE (R278, R280, R281): the slice accepts or refuses a request. -/
def execRedeemAtSlice (req : Nat) (s : State) : Out :=
  match Tab.find s.sliceReqs req with
  | some (.redeem t cl pc slot act sup none) =>
    let key := ticketKey t
    let e := s.entry key
    if e.matches t && (e.state == .pending || e.state == .ready) then
      let s := { s with sliceReqs := Tab.del s.sliceReqs req }
      match cl with
      | .regs .. => .next (s.setEntry key { e with state := .claimed, claim := some cl })
      | .shared crs _ ofs after turn _ =>
        let c := s.course crs
        let s := s.setEntry key { e with state := .claimed, claim := some (.shared crs c.nextOp ofs after turn 0) }
        let s := s.setCourse crs (c.countOp .copy [])
        .next (if s.running c && (c.slotN slot).wait == .verdict req then s.advance crs slot act
          else s.onCourse crs (fun c => c.onSlot slot (fun y =>
            if y.wait = .verdict req then { y with pc := pc + 8, wait := .none } else y)))
    else
      .next { s with sliceReqs := Tab.put s.sliceReqs req (.redeem t cl pc slot act sup (some (e.refusalCause t))) }
  | _ => .next s

/-- Must the writes of a REDEEM.sh still wait for accesses of that memory that its course issued before it (R261, R281)? -/
def State.redeemWaits (s : State) (crs after turn : Nat) : Bool :=
  let c := s.course crs
  c.sharedPend after (some c.team) || s.barWaits crs turn (.shared c.team)

/-- One of the 32 aligned writes of a REDEEM.sh (R281): 16 bytes of the image, with their poison. -/
def Entry.writePart (e : Entry) (b : Block) (ofs k : Nat) : Block :=
  b.write (ofs + 16 * k) (cellsAt e.image (16 * k) 16)
    ((e.poison.filter (fun o => 16 * k ≤ o && o < 16 * k + 16)).map (fun o => ofs + o))

/-- REDEEM_DELIVERY (R278, R281): the bytes of a claimed entry are delivered, and the entry is free. Into shared memory they
go one write after another. entry is the number of the landing entry. -/
def execRedeemDelivery (entry : Nat) (s : State) : Out :=
  let e := s.entry entry
  if !(e.state == .claimed && e.waiting.isEmpty) then .next s
  else
    let s1 := (s.setEntry entry { e with state := .free, claim := none }).returnTicket e.team
    match e.claim with
    | some (.regs crs pend d w act sup) =>
      let bad := fun (o : Nat) => e.poison.contains o
      .next (s1.landPend crs pend ((lanesOf act).flatMap (fun L => (List.range (w / 4)).map (fun k =>
        let o := w * L + 4 * k
        .lane sup (d + k) L (if bad o then 0#32 else wd (ofBytes (cellsAt e.image o 4))) (bad o)))) 0#32)
    | some (.shared crs count ofs after turn made) =>
      let sp : Space := .shared (s.course crs).team
      if s.redeemWaits crs after turn then .next s
      else
        let put := fun (s : State) => s.setSpace sp (e.writePart (s.spaceBlock sp) ofs made)
        if made + 1 < 32 then .next (put (s.setEntry entry { e with claim := some (.shared crs count ofs after turn (made + 1)) }))
        else .next ((put s1).onCourse crs (fun c => c.opDone .copy count))
    | none => .next s1

/-- REDEEM_REFUSAL (R279, R281, R289): the refusal reaches the core. Registers read zero and are full; the trap is
deferred to the course's next word, and 2 stands for a slot not yet known. A refused REDEEM.sh traps at the word. -/
def execRedeemRefusal (req : Nat) (s : State) : Out :=
  match Tab.find s.sliceReqs req with
  | some (.redeem t cl pc slot act sup (some code)) =>
    let s := { s with sliceReqs := Tab.del s.sliceReqs req }
    match cl with
    | .regs crs pend d w act _ =>
      let s := s.landPend crs pend ((lanesOf act).flatMap (fun L =>
        (List.range (w / 4)).map (fun k => .lane sup (d + k) L 0#32 false))) 0#32
      let c := s.course crs
      let tr : TrapRec := { code := code, defer := true, pc := pc, aux := t, info := act.toNat, inSup := sup }
      if c.live = 0#32 then .next s
      else if sup then .next (s.abortGrid (s.team c.team).grid (0x0100 + code) (some tr))
      else .next (s.setCourse crs { c with refusals := insertFurther ⟨2, pend, tr⟩ c.refusals })
    | .shared crs _ _ _ _ _ =>
      let c := s.course crs
      if (c.slotN slot).wait = .verdict req then
        .next (s.raise crs slot { code := code, pc := pc, resume := pc, mask := act, aux := t, info := act.toNat, inSup := sup })
      else .next s
  | _ => .next s

/-! ## TDROP, TQRY and expiry (R283–R285) -/

/-- TDROP (R283). -/
def execTdrop (r : RWord) (s : State) : Out :=
  s.issue (.tdrop r) r.head (fun x =>
    let c := s.issuer x
    let t := s.val x c r.a 2 0
    if x.act = 0#32 then .go s
    else if t = 0 then .go s
    else .go (s.askSlice (.drop t (s.context (s.ctxOf c)).tag)))

/-- An entry is returned without delivery: it is free, or drains while bytes are out. -/
def Entry.drop (e : Entry) : Entry := { e with state := if e.waiting.isEmpty then .free else .draining }

/-- TDROP_AT_SLICE (R283). -/
def execTdropAtSlice (req : Nat) (s : State) : Out :=
  match Tab.find s.sliceReqs req with
  | some (.drop t _) =>
    let s := { s with sliceReqs := Tab.del s.sliceReqs req }
    let e := s.entry (ticketKey t)
    if e.matches t && (e.state == .pending || e.state == .ready) then
      .next ((s.setEntry (ticketKey t) e.drop).returnTicket e.team)
    else .next s
  | _ => .next s

/-- What TQRY reads of a ticket (R284). -/
def State.ticketState (s : State) (own t : Nat) : Nat :=
  let e := s.entry (ticketKey t)
  if t = 0 then 0
  else if ticketTag t ≠ own then 4
  else if e.matches t && e.state == .pending then 1
  else if e.matches t && e.state == .ready then (if e.poison.isEmpty then 2 else 3)
  else if e.expired = some (ticketGen t) && e.ctag == own && bitsOf t 31 17 = 0 then 5
  else 4

/-- TQRY (R284): the state is read at the slice as the answer lands. -/
def execTqry (r : RWord) (s : State) : Out :=
  s.issue (.tqry r) r.head (fun x =>
    let c := s.issuer x
    let t := s.val x c r.a 2 0
    if x.act = 0#32 then .go s
    else .go (s.addPend x .other (.query r.d.toNat t x.sup) (x.fills true r.d.toNat 1) 0#32 0#32))

/-- TQRY.live (R284). -/
def execTqryLive (r : RWord) (s : State) : Out :=
  s.issue (.tqryLive r) r.head (fun x => s.deliverU x r.d.toNat 1 (s.team (s.issuer x).team).live)

/-- The lifetime of a grid's tickets in cycles (R45). -/
def LaunchRec.lifeCycles (lr : LaunchRec) : Nat := (if lr.lifetime = 0 then 10000 else lr.lifetime) * Config.cyclesPerUs

/-- Is an entry's age at its lifetime, neither claimed nor returned (R285)?
(Log 86, DEDUCED.) -/
def State.expires (s : State) (e : Entry) : Bool :=
  (e.state == .pending || e.state == .ready) && decide ((s.grid e.grid).lr.lifeCycles ≤ e.age)

/-- TICKET_EXPIRY (R285). -/
def execTicketExpiry (entry : Nat) (s : State) : Out :=
  let e := s.entry entry
  if s.expires e then .next ((s.setEntry entry { e.drop with expired := some e.gen }).returnTicket e.team)
  else .next s

end Sys2Proof.Machine
end

