-- ==== Sys2Proof/Machine/Ingress.lean ====
section
/-! DEFINITION. The destination of a stream: resequencing, what is applied and what is refused, notifies, inbound-fault
records, and the host destination (R295–R297, R301, R305, R306, R312–R320, R420, R434, R480, R502). -/

namespace Sys2Proof.Machine

/-! ## Contexts and counters at a destination -/

/-- The context of this package with a tag (R38). -/
def State.ctxByTag (s : State) (tag : Nat) : Option Nat := (s.contexts.keys (fun _ c => c.tag == tag)).head?

/-- How many event counters a context holds: the most that an admitted grid of it declares (R306). -/
def State.countersHeld (s : State) (ctx : Nat) : Nat :=
  s.grids.foldl (fun n e => if e.2.ctx = ctx ∧ !e.2.done then max n e.2.lr.events else n) 0

/-- Post an inbound-fault record and raise its event (R314). -/
def State.inboundRecord (s : State) (p : Packet) (cause addr : Nat) : State :=
  let r := s.clock % 2 ^ 64 * 2 ^ 192 + addr % 2 ^ 52 * 2 ^ 128 + cause * 2 ^ 80 + p.seq * 2 ^ 64 + p.gen * 2 ^ 41 +
    p.ctag * 2 ^ 25 + p.key.ch * 2 ^ 21 + p.core * 2 ^ 13 + p.die * 2 ^ 10 + p.key.chip
  ({ s with inbound := s.inbound ++ [r] }).mgmt ((s.ctxByTag p.ctag).getD 0) 2 (le 32 r)

/-- An applied .ntf increments the counter of the die, or is discarded with a record (R305, R306). -/
def State.notify (s : State) (p : Packet) : State :=
  match p.ntf, s.ctxByTag p.ctag with
  | none, _ => s
  | some k, some ctx =>
    if k < s.countersHeld ctx then s.setEvent p.key.dest.die ctx k (s.event p.key.dest.die ctx k + 1)
    else s.inboundRecord p 6 (packetAddr p)
  | some _, none => s.inboundRecord p 6 (packetAddr p)

/-! ## May an access be made (R312, R320, R420, R433, R434)? -/

/-- Do the tables of a context map a frame of this package with DW = 1 (R420)? -/
def State.exposes (s : State) (ctx frame : Nat) : Bool :=
  (s.mapped ctx).any (fun p => leafDw p.2.1 && leafChip p.2.1 == s.chip && !leafHost p.2.1 &&
    leafFrameNo p.2.1 ≤ frame && frame < leafFrameNo p.2.1 + p.2.2)

/-- What the destination makes of a packet. -/
inductive Verdict where
  | apply
  | moved
  /-- Refused: the channel cause, the CAUSE of the record (R313, R314), and the address. -/
  | refuse (cause record addr : Nat)
  deriving DecidableEq, Repr

/-- The permission that a packet's accesses need: 1 R, 2 W (R420). -/
def packetNeed : PacketBody → Nat
  | .read _ _ => 1
  | _ => 2

/-- The verdict on one element. -/
def State.elemVerdict (s : State) (p : Packet) (e : Nat × Nat × Bool) : Verdict :=
  let frame := e.2.1 / 2 ^ 16
  let need := packetNeed p.body
  let own := p.key.chip == s.chip
  let rest := fun (open_ : Bool) =>
    if s.fenced.contains (.die, p.key.dest.die) || !open_ then Verdict.refuse 2 2 e.1 else .apply
  if e.2.2 then .refuse 1 1 e.1
  else
    match s.ctxByTag p.ctag with
    | none => rest own
    | some ctx =>
      if s.moved.contains (ctx, e.1 / 2 ^ 16, frame) then .moved
      else
        match s.walk ctx e.1 with
        | .leaf l =>
          let same := leafFrameNo l == frame && leafChip l == s.chip && !leafHost l
          if same && leafLost l then .refuse 6 5 e.1
          else if same && leafHs l && leafPerm l &&& need != need then .refuse 2 3 e.1
          else rest (own || s.exposes ctx frame)
        | _ => rest (own || s.exposes ctx frame)

/-- The verdict on a packet: the first element that is not applied decides. -/
def State.verdict (s : State) (p : Packet) : Verdict :=
  ((packetElems p.body).find? (fun e => s.elemVerdict p e != .apply)).elim .apply (s.elemVerdict p)

/-! ## Applying (R301, R502) -/

/-- One element of an ATOMG or REDG on n bytes at a place: a poisoned target is not changed. -/
def State.applyAtom (s : State) (op : AtomOp) (n : Nat) (e : AtomElem) : State × Nat × Bool :=
  let o := ofBytes (s.memRead e.pa n)
  if poisonedIn s.poison e.pa n then (s, o, true)
  else ((s.noteTail e.pa n).memWrite e.pa (bytesOf n (atomNew op false n o e.x1 e.x2).1) [], o, false)

/-- Serve one lane's read at its home: the bytes go back, and a far line of the reading die is refilled (R275, R328). -/
def State.serveRead (s : State) (p : Packet) (reader : Reader) (e : ReadElem) : State :=
  let words := (wordsOf 0 e.n).filter (fun w => poisonedIn s.poison (e.pa + w) (min 4 (e.n - w)))
  let base := e.pa / 128 * 128
  let far := p.key.dest.die ≠ p.die ∨ p.key.chip ≠ s.chip
  let hs := match (s.ctxByTag p.ctag).map (fun c => s.walk c e.va) with
    | some (.leaf l) => leafHs l
    | _ => false
  let line := s.memRead base 128
  let bad := (wordsOf 0 128).filter (fun w => poisonedIn s.poison (base + w) 4)
  let away := decide (p.key.chip ≠ s.chip) && decide far && !hs
  let x : ReadReturn := { key := p.key, reader := reader, lane := e.lane, va := e.va, pa := e.pa, bytes := s.memRead e.pa e.n,
                          poison := words, line := if away then line else [], linePoison := if away then bad else [],
                          moment := s.stamp }
  let s := { s with net := s.net ++ [NetMsg.data x] }
  match s.ctxByTag p.ctag with
  | some ctx =>
    if p.key.chip = s.chip ∧ far ∧ !hs then
      s.holdFar ⟨p.die, s.chip, e.pa / 128, e.va / 128 * 128, ctx, line, bad, s.stamp⟩
    else s
  | none => s

/-- Apply a packet at its home: the state, and the old values of an ATOMG. -/
def State.applyPacket (s : State) (p : Packet) : State × List OldValue :=
  match p.body with
  | .store es => (es.foldl (fun s e => (s.noteTail e.pa e.bytes.length).memWrite e.pa e.bytes []) s, [])
  | .atom op n _ es =>
    es.foldl (fun (r : State × List OldValue) e =>
      let y := r.1.applyAtom op n e
      (y.1, r.2 ++ [⟨p.seq, e.lane, y.2.1, y.2.2⟩])) (s, [])
  | .reduce op n es => (es.foldl (fun s e => (s.applyAtom (redgAtom op) n e).1) s, [])
  | .read reader es => (es.foldl (fun s e => s.serveRead p reader e) s, [])
  | _ => (s, [])

/-! ## The resequencing table (R295, R296, R312, R316, R320) -/

/-- The entry of a stream. -/
def State.ingressOf (s : State) (key : StreamKey) : Option Ingress := s.ingress.find? (fun g => g.key == key)
/-- Write the entry of a stream. -/
def State.setIngress (s : State) (g : Ingress) : State :=
  { s with ingress := g :: s.ingress.filter (fun y => y.key != g.key) }

/-- Answer a packet with a refusal (R297). -/
def State.refusePacket (s : State) (p : Packet) (cause addr : Nat) (moved retry : Bool) : State :=
  { s with net := s.net ++ [.refusal ⟨p.key, p.gen, p.seq, cause, moved, retry, addr⟩] }

/-- Acknowledge every packet of a stream applied so far, with the old values still kept (R295). -/
def State.sendAck (s : State) (g : Ingress) : State :=
  { s with net := s.net ++ [.ack ⟨g.key, g.gen, (g.next + 2 ^ 16 - 1) % 2 ^ 16, g.olds⟩] }

/-- Stop a stream at a packet: it and every held packet are refused, and a record is posted (R312, R314). -/
def State.stopStream (s : State) (g : Ingress) (p : Packet) (cause record addr : Nat) : State :=
  let s := (s.refusePacket p cause addr false false).inboundRecord p record addr
  let mine := g.held.filter (fun q => q.gen == g.gen)
  let s := mine.foldl (fun s q => s.refusePacket q cause (packetAddr q) false false) s
  s.setIngress { g with stopped := some cause, held := g.held.filter (fun q => q.gen != g.gen) }

/-- Refuse a packet with MOVED, and the held ones with it (R320). -/
def State.moveStream (s : State) (g : Ingress) (p : Packet) : State :=
  let mine := g.held.filter (fun q => q.gen == g.gen)
  let s := (p :: mine).foldl (fun s q => s.refusePacket q 0 (packetAddr q) true false) s
  (s.setIngress { g with moved := true, held := g.held.filter (fun q => q.gen != g.gen) }).count 1 g.key.dest.die 7 (mine.length + 1)

/-- A packet has been applied: the next number is expected, its old values are kept for 64 packets. -/
def Ingress.applied (g : Ingress) (olds : List OldValue) : Ingress :=
  let next := (g.next + 1) % 2 ^ 16
  { g with next := next, moved := false,
           olds := (g.olds ++ olds).filter (fun o => (next + 2 ^ 16 - o.seq) % 2 ^ 16 ≤ Config.window) }

/-- How many elements a packet has. -/
def bodySize (b : PacketBody) : Nat := (packetElems b).length

/-- The first k elements of a packet, and the rest. -/
def cutBody (k : Nat) : PacketBody → PacketBody × PacketBody
  | .store es => (.store (es.take k), .store (es.drop k))
  | .atom op n r es => (.atom op n r (es.take k), .atom op n r (es.drop k))
  | .reduce op n es => (.reduce op n (es.take k), .reduce op n (es.drop k))
  | .read r es => (.read r (es.take k), .read r (es.drop k))
  | b => (b, b)

/-- How many elements of a packet are applied now: any number of them, so that an observer may see part of it (R293). -/
def State.pieceOf (s : State) (p : Packet) : Nat :=
  let n := bodySize p.body
  if n ≤ 1 then n else 1 + Config.freeNat s.stamp (2 ^ 47 + p.seq) % n

/-- Has a packet of the entry's generation been applied (R295)? -/
def Ingress.hasApplied (g : Ingress) (seq : Nat) : Bool := seqUpto seq ((g.next + 2 ^ 16 - 1) % 2 ^ 16)

/-- Apply the packet that a stream expects, or its first elements, then the held ones that follow in sequence; each packet
applied is acknowledged (R293, R295). judged says that it has been found good: a part of it has been applied. -/
def State.ingest : Nat → Bool → State → Ingress → Packet → State
  | n, judged, s, g, p =>
    match (if judged then .apply else s.verdict p) with
    | .refuse cause record addr => s.stopStream g p cause record addr
    | .moved => s.moveStream g p
    | .apply =>
      let k := s.pieceOf p
      let b := cutBody k p.body
      let r := s.applyPacket { p with body := b.1 }
      if k < bodySize p.body then r.1.setIngress { g with part := some { p with body := b.2 }, olds := g.olds ++ r.2 }
      else
        let g := { g.applied r.2 with part := none }
        let s := ((r.1.notify p).setIngress g).sendAck g
        match n, g.held.find? (fun q => q.gen == g.gen && q.seq == g.next) with
        | k + 1, some q => State.ingest k false s { g with held := g.held.filter (fun y => y != q) } q
        | _, _ => s

/-- Is a generation older than another, modulo 256? -/
def genOlder (a b : Nat) : Bool := a != b && (b + 256 - a % 256) % 256 < 128

/-- Entries of a die's resequencing table in use. -/
def State.ingressOn (s : State) (die : Nat) : Nat :=
  (s.ingress.filter (fun g => g.key.dest.die == die && !g.key.dest.host && !g.closed)).length

/-- Hold a packet that came early; a second copy of one that is held is dropped (R295). -/
def State.holdEarly (s : State) (g : Ingress) (p : Packet) : State :=
  if g.held.any (fun q => q.gen == p.gen && q.seq == p.seq) then s.setIngress g
  else (s.setIngress { g with held := g.held ++ [p] }).count 1 g.key.dest.die 5 1

/-- Where the acknowledgements of a stream go: to the core that its packets carry with the re-home flag (R323). -/
def Ingress.homeTo (g : Ingress) (p : Packet) : Ingress :=
  if p.rehome then { g with core := p.die * Config.coresPerDie + p.core } else g

/-- What the ingress port does with a packet of a stream that has an entry (R295, R312, R320): one of an older generation, or
one that has been applied, is dropped, whatever has become of the stream since; one of a later generation waits for its
RESET or CLOSE. -/
def State.admitPacket (s : State) (g : Ingress) (p : Packet) : State :=
  if genOlder p.gen g.gen then s
  else
    let g := g.homeTo p
    if p.gen ≠ g.gen then s.holdEarly g p
    else if g.hasApplied p.seq then (s.setIngress g).sendAck g
    else
      match g.stopped with
      | some cause => (s.setIngress g).refusePacket p cause (packetAddr p) false false
      | none =>
        if p.seq = g.next then (if g.part.isSome then s.setIngress g else s.ingest g.held.length false g p)
        else if g.moved then ((s.setIngress g).refusePacket p 0 (packetAddr p) true false).count 1 g.key.dest.die 7 1
        else s.holdEarly g p

/-- Is a part of some packet applied, and the rest not yet (R293)? -/
def State.halfApplied (s : State) : Bool := s.ingress.any (fun g => g.part.isSome)

/-- Is it a packet that a home applies? -/
def isData : PacketBody → Bool
  | .store _ | .atom _ _ _ _ | .reduce _ _ _ | .read _ _ => true
  | _ => false

/-- The entry that a first packet opens. -/
def openIngress (p : Packet) : Ingress :=
  { key := p.key, gen := p.gen, next := 0, core := p.die * Config.coresPerDie + p.core }

/-- A packet opens its stream, where the table has an entry (R296). -/
def State.openWith (s : State) (p : Packet) : State :=
  if Config.resequencing ≤ s.ingressOn p.key.dest.die then s.refusePacket p 0 (packetAddr p) false true
  else s.admitPacket (openIngress p) p

/-- A packet arrives at its home. Where the stream's entry has been freed, a late copy of a packet that it applied is dropped,
and a later generation opens the stream again (R295, R296). -/
def State.arrive (s : State) (p : Packet) : State :=
  match s.ingressOf p.key with
  | some g => if !g.closed then s.admitPacket g p else if genOlder g.gen p.gen then s.openWith p else s
  | none => s.openWith p

/-- PACKET_ARRIVAL (R295, R296): in any order (R14), from this package or another; or the rest of a packet of which a part
has been applied (R293). -/
def execPacketArrival (p : Packet) (s : State) : Out :=
  if !(isData p.body && p.key.dest.chip == s.chip && !p.key.dest.host) then .next s
  else
    match s.ingressOf p.key with
    | some g =>
      if g.part = some p then .next (s.ingest g.held.length true g p)
      else .next ((s.takeNet (.packet p) (p.key.chip != s.chip)).elim s (fun s => s.arrive p))
    | none => .next ((s.takeNet (.packet p) (p.key.chip != s.chip)).elim s (fun s => s.arrive p))

/-- Go on with what is held for a stream that has a new generation or a new entry. -/
def State.resume (s : State) (g : Ingress) : State :=
  match g.held.find? (fun q => q.gen == g.gen && q.seq == g.next) with
  | some q => s.ingest g.held.length false { g with held := g.held.filter (fun y => y != q) } q
  | none => s.setIngress g

/-- STREAM_RESET (R316): older generations are dropped, with the rest of a packet of which a part has been applied, and applying
resumes at the next number. -/
def execStreamReset (p : Packet) (s : State) : Out :=
  if p.body ≠ .reset || p.key.dest.chip ≠ s.chip then .next s
  else
    match s.takeNet (.packet p) (p.key.chip != s.chip) with
    | none => .next s
    | some s =>
      let g := (s.ingressOf p.key).getD (openIngress p)
      if genOlder p.gen g.gen || (g.closed && p.gen = g.gen) then .next s
      else
        .next (s.resume { (g.homeTo p) with gen := p.gen, next := p.seq, stopped := none, moved := false, closed := false,
                                            part := none, held := g.held.filter (fun q => !genOlder q.gen p.gen) })

/-- CLOSE_ARRIVAL (R296): the entry is free; packets of the stream's next opening that came early open it again. A CLOSE may
outrun the RESET of its generation, of which nothing was then outstanding.
(Log 95, DEDUCED.) -/
def execCloseArrival (p : Packet) (s : State) : Out :=
  if p.body ≠ .close || p.key.dest.chip ≠ s.chip then .next s
  else
    match s.takeNet (.packet p) (p.key.chip != s.chip) with
    | none => .next s
    | some s =>
      match s.ingressOf p.key with
      | none => .next s
      | some g =>
        if genOlder p.gen g.gen || g.closed then .next s
        else
          let early := g.held.filter (fun q => genOlder p.gen q.gen)
          let s := s.setIngress { g with gen := p.gen, closed := true, held := [], olds := [], stopped := none, moved := false,
                                         part := none }
          match early with
          | [] => .next s
          | q :: _ => .next (s.resume { openIngress q with held := early })

/-- RESYNC (R318): the destination answers with what it expects next, the old values it keeps, and whether the stream is
stopped; with the re-home flag its answers go to the new core (R323). Of a generation whose RESET, or the CLOSE before it, has
not come, nothing has been applied. -/
def execResync (p : Packet) (s : State) : Out :=
  match p.body with
  | .resync u =>
    if p.key.dest.chip ≠ s.chip then .next s
    else
      match s.takeNet (.packet p) (p.key.chip != s.chip) with
      | none => .next s
      | some s =>
        let g := ((s.ingressOf p.key).getD { openIngress p with next := u }).homeTo p
        if genOlder p.gen g.gen then .next s
        else if g.gen ≠ p.gen then .next { s with net := s.net ++ [.resyncAck ⟨p.key, p.gen, u, [], none⟩] }
        else
          let s := if (s.ingressOf p.key).isSome then s.setIngress g else s
          .next { s with net := s.net ++ [.resyncAck ⟨p.key, g.gen, g.next, g.olds, g.stopped⟩] }
  | _ => .next s

/-- Has a packet of this package been on its way for 100 µs? One of another package was sent when its source knows. -/
def State.lateHere (s : State) (p : Packet) : Bool :=
  p.key.chip != s.chip ||
    ((s.chan p.key.team p.key.ch).stream p.key.dest).pkts.any (fun q =>
      q.pkt.gen == p.gen && q.pkt.seq == p.seq && q.sentAt.any (fun n => n + 100 * Config.cyclesPerUs ≤ s.clock))

/-- DESTINATION_ACCESS_TIMEOUT (R312, R313): the access of the packet that a stream expects has not completed 100 µs
after it was sent: the packet is refused with cause 3.
(Log 31, DEDUCED.) -/
def execDestinationAccessTimeout (p : Packet) (s : State) : Out :=
  let g := match s.ingressOf p.key with
    | some g => if g.closed && genOlder g.gen p.gen then openIngress p else g
    | none => openIngress p
  if !(isData p.body && p.key.dest.chip == s.chip && p.gen == g.gen && p.seq == g.next && g.stopped.isNone && g.part.isNone &&
      !g.closed && s.lateHere p) then .next s
  else .next ((s.takeNet (.packet p) (p.key.chip != s.chip)).elim s (fun s => s.stopStream g p 3 4 (packetAddr p)))

/-! ## The host destination (R291, R434, R480) -/

/-- The RDMA accesses of a packet at the host region, on the region's queue pair: an atomic operation is a READ of the old value,
which is the host's, and a WRITE.
(Log 33, DESIGN CHOICE.) -/
def State.hostAccesses (s : State) (r : HostRegion) (b : PacketBody) : List HostOut × List (Nat × Nat) :=
  let old := fun (lane : Nat) => Config.freeNat s.stamp (2 ^ 43 + lane)
  let put := fun (op : AtomOp) (n : Nat) (e : AtomElem) =>
    [HostOut.regionRead r.qp r.rkey e.pa n,
     .regionWrite r.qp r.rkey e.pa (bytesOf n (atomNew op false n (old e.lane % 2 ^ (8 * n)) e.x1 e.x2).1)]
  match b with
  | .store es => (es.map (fun e => .regionWrite r.qp r.rkey e.pa e.bytes), [])
  | .atom op n _ es => (es.flatMap (put op n), es.map (fun e => (e.lane, old e.lane % 2 ^ (8 * n))))
  | .reduce op n es => (es.flatMap (put (redgAtom op) n), [])
  | .read _ es => (es.map (fun e => .regionRead r.qp r.rkey e.pa e.n), [])
  | _ => ([], [])

/-- The host region of the context with a tag. -/
def State.regionOf (s : State) (ctag : Nat) : HostRegion :=
  ((s.ctxByTag ctag).bind (fun c => (s.context c).region)).getD ⟨0, 0, 0, 0⟩

/-- HOST_REGION_ACCESS_COMPLETION (R297, R334, R434, R480): the host has accepted the access of the packet that the stream
expects, or refuses it with cause 2 and CAUSE 0x03. The bytes of a read come with their landing. -/
def execHostRegionAccessCompletion (p : Packet) (accepted : Bool) (s : State) : Out :=
  let g := match s.ingressOf p.key with
    | some g => if g.closed && genOlder g.gen p.gen then openIngress p else g
    | none => openIngress p
  if !(isData p.body && p.key.dest.host && p.key.dest.chip == s.chip && p.gen == g.gen && !g.closed &&
      (g.hasApplied p.seq || p.seq == g.next)) then .next s
  else
    match s.takeNet (.packet p) (p.key.chip != s.chip) with
    | none => .next s
    | some s =>
      let g := g.homeTo p
      if g.hasApplied p.seq then .next ((s.setIngress g).sendAck g)
      else
        match g.stopped with
        | some cause => .next (s.refusePacket p cause (packetAddr p) false false)
        | none =>
          if (packetElems p.body).any (fun e => e.2.2) then .next (s.stopStream g p 1 1 (packetAddr p))
          else if !accepted then .next (s.stopStream g p 2 3 (packetAddr p))
          else
            let w := s.hostAccesses (s.regionOf p.ctag) p.body
            let g := g.applied (w.2.map (fun o => ⟨p.seq, o.1, o.2, false⟩))
            .next ((({ s with hostOut := s.hostOut ++ w.1 } : State).setIngress g).sendAck g)

end Sys2Proof.Machine
end

