-- ==== Sys2Proof/Machine/Transfer.lean ====
section
/-! DEFINITION. The transfer unit: CPY, TCPY, their 128-byte transfer operations and completion; WAITC and the
retirement of counted operations (R337–R362). -/

namespace Sys2Proof.Machine

/-! ## Issue of a copy (R349, R353, R360) -/

/-- The checks that CPY and TCPY make first: RESOURCE, a broken channel, and the barrier. -/
def State.copyChecks (s : State) (x : Ctx) (ch : Nat) (bar : Option Nat) : Option TrapRec :=
  let c := s.issuer x
  if (s.lrOf c).xfer = 0 then some (x.trap 0x0E)
  else if (s.chan c.team ch).cause ≠ 0 then some (x.chanTrap 0x11 ch (s.chan c.team ch))
  else if bar.any (fun b => (s.bar c.team b).exp == 0) then some x.illegalOperand
  else none

/-- Is an entry of the transfer queue free, and the copy counter below 255 (R338, R349)? -/
def State.copyRoom (s : State) (crs : Nat) (c : Course) : Bool :=
  decide ((s.team c.team).copies.length < (s.lrOf c).xfer) && !s.copyFull crs

/-- The reads of a transfer operation from main memory: packets, and the data that far lines serve (R328, R344). Each
element has a number within the operation and n bytes. -/
def State.copyReads (s : State) (team ch id k n : Nat) (items : List Item) : List OutPacket × List NetMsg :=
  let t := s.team team
  let die := dieOf t.core
  let far := items.filterMap (fun i =>
    match s.farFor die team ch t.opSeq t.acquire i.pa i.dest with
    | some f => if Config.freeBit s.stamp (2 ^ 44 + k * 2 ^ 7 + i.lane) then some (i, f) else none
    | none => none)
  let rest := items.filter (fun i => !far.any (fun f => f.1.lane == i.lane))
  let pkts := (byDest (fun (i : Item) => i.dest) rest).flatMap (fun g =>
    (cutRun n g.2).map (fun l =>
      ({ pkt := s.packetOf team ch g.1 (.read (.copy id k) (l.map (fun i => ⟨i.va, i.pa, n, i.lane⟩))), op := t.opSeq } :
        OutPacket)))
  let data := far.map (fun f =>
    let y := f.2.part (f.1.pa % 128) n
    NetMsg.data { key := ⟨s.chip, team, ch, f.1.dest⟩, reader := .copy id k, lane := f.1.lane, va := f.1.va, pa := f.1.pa,
                  bytes := y.1, poison := y.2, line := [], linePoison := [], moment := f.2.filled })
  (pkts, data)

/-- The writes of a transfer operation to main memory: their bytes come when the operation is performed. -/
def State.copyWrites (s : State) (team ch id k n : Nat) (items : List Item) : List OutPacket :=
  (byDest (fun (i : Item) => i.dest) (mergeStores items)).flatMap (fun g =>
    (cutRun n g.2).map (fun l =>
      ({ pkt := s.packetOf team ch g.1 (.store (l.map (fun i => ⟨i.va, i.pa, List.replicate n 0#8, false⟩))),
         op := (s.team team).opSeq, ready := false, copy := some (id, k) } : OutPacket)))

/-- What one transfer operation puts on the channel: its reads, the data of far lines, and its writes. -/
abbrev OpTraffic := List OutPacket × List NetMsg × List OutPacket

/-- The packets of a copy in the order in which they enter the streams: its reads, then its writes. -/
def orderTraffic (ts : List OpTraffic) : List OutPacket :=
  ts.flatMap (fun (t : OpTraffic) => t.1) ++ ts.flatMap (fun (t : OpTraffic) => t.2.2)

/-- The destinations of a transfer operation's reads, one for each element. -/
def OpTraffic.readDests (t : OpTraffic) : List Dest :=
  t.1.flatMap (fun q => List.replicate q.lanesRead q.pkt.key.dest) ++
    t.2.1.filterMap (fun m => match m with
      | .data x => some x.key.dest
      | _ => none)

/-- The destinations that a transfer operation reaches. -/
def OpTraffic.dests (t : OpTraffic) : List Dest := t.readDests ++ t.2.2.map (fun q => q.pkt.key.dest)

/-- The reads of a transfer operation that are out, by destination (R276). -/
def OpTraffic.readOuts (t : OpTraffic) (id k op now : Nat) : List ReadOut :=
  (byDest (fun d => d) t.readDests).map (fun g => ⟨op, g.1, g.2.length, .copy id k, now⟩)

/-- A copy takes its entry and counts; its reads and writes take their places in the streams (R344, R349, R350). -/
def State.startCopy (s : State) (x : Ctx) (id : Nat) (k : Copy) (ts : List OpTraffic) : State :=
  let c := s.issuer x
  let team := c.team
  let op := s.nextOpOf team
  let reads := ts.zipIdx.flatMap (fun (p : OpTraffic × Nat) => OpTraffic.readOuts p.1 id p.2 op s.stamp)
  let last := (ts.flatMap OpTraffic.dests).getLast?
  let s := s.onChan team k.ch (fun ch => { ch with reads := ch.reads ++ reads })
  let s := (s.placePackets team k.ch (orderTraffic ts)).onChan team k.ch (fun ch => { ch with lastDest := last.orElse (fun _ => ch.lastDest) })
  let s := { s with net := s.net ++ ts.flatMap (fun (t : OpTraffic) => t.2.1) }
  let s := s.onTeam team (fun t => { t with opSeq := op + 1, copies := Tab.put t.copies id k })
  let s := s.setCourse x.crs { c.countOp .copy [] with holds := if k.may = 0#32 then c.holds else c.holds ++ [(id, k.may)] }
  s.pump team

/-- A copy as it starts. -/
def State.newCopy (s : State) (x : Ctx) (ch : Nat) (bar : Option Nat) (n : Nat) (ops : List XferOp)
    (d : Option TcpyDesc) (may : Word) : Copy :=
  let c := s.issuer x
  { crs := x.crs, count := c.nextOp, ch := ch, bar := bar, n := n, ops := ops, tcpy := d, after := c.nextPend,
    flags := 0#32, may := wordFlags x.sup may, pc := x.pc, slot := x.j, act := x.act }

/-! ## CPY (R352, R353) -/

/-- Bytes of a lane of CPY. -/
def CpySize.bytes : CpySize → Nat
  | .b32 => 4
  | .b64 => 8
  | .b128 => 16

/-- The local memory of a direction. -/
def CpyDir.reach : CpyDir → Reach
  | .g2s | .s2g => .own
  | _ => .scratch

/-- Does the copy read main memory, and does it write it? -/
def CpyDir.mains : CpyDir → Bool × Bool
  | .g2s | .g2x => (true, false)
  | .s2g | .x2g => (false, true)
  | .g2g => (true, true)

/-- The addresses of a lane: source and destination. -/
def State.cpyAddrs (s : State) (x : Ctx) (c : Course) (r : RWord) (dir : CpyDir) (L : Nat) : Nat × Nat :=
  let w := CpyDir.widths dir
  (s.laneGroup c x.sup r.a.field.toNat w.1 L, s.laneGroup c x.sup r.d.toNat w.2 L)

/-- The check of a main address of a lane: R300, orders 4 and 5. -/
def Ctx.mainCheck (x : Ctx) (E n kind L : Nat) : Option TrapRec :=
  if E % n ≠ 0 then some (x.addrTrap 0x08 0 L E 0)
  else if Config.addrLimit < E + n then some (x.addrTrap 0x07 2 L E kind)
  else none

/-- The check of a main address's page (R300, order 6); the mask of a missing translation has every lane of the word
with an address in the page (R423). -/
def State.mainPage (s : State) (x : Ctx) (c : Course) (E need L : Nat) (all : List (Nat × Nat)) (rule : HomeRule := .any) :
    Looked :=
  let r := match s.checkPage (s.ctxOf c) (x.trap 0) true [⟨L, E, need, rule⟩] with
    | .trap t =>
      if t.code = 0x06 then
        .trap { t with mask := maskOfLanes ((all.filter (fun a => a.2 / 2 ^ 16 == E / 2 ^ 16)).map (fun a => a.1)) }
      else .trap t
    | r => r
  ⟨r, [E]⟩

/-- The checks of one lane of CPY (R353). -/
def State.cpyLane (s : State) (x : Ctx) (c : Course) (r : RWord) (dir : CpyDir) (n L : Nat) (all : List (Nat × Nat)) :
    Looked :=
  let w := CpyDir.widths dir
  let m := CpyDir.mains dir
  let E := s.cpyAddrs x c r dir L
  let regs := (List.range w.1).map (fun i => r.a.field.toNat + i) ++ (List.range w.2).map (fun i => r.d.toNat + i)
  let bad := (regs.find? (fun q => s.lanePoison c x.sup q L)).map (fun q => x.dataError (L, q))
  let here := if m.1 && m.2 then none
    else if m.1 then s.checkLocal x c (CpyDir.reach dir) n n 1 L E.2
    else s.checkLocal x c (CpyDir.reach dir) n n 0 L E.1
  let side := fun (main : Bool) (E kind : Nat) =>
    if main then (Looked.pre (x.mainCheck E n kind L)).andThen (s.mainPage x c E (kind + 1) L all) else Looked.pre none
  (((Looked.pre bad).andThen (Looked.pre here)).andThen (side m.1 E.1 0)).andThen (side m.2 E.2 1)

/-- One side of a lane's copy. -/
def State.cpySide (s : State) (c : Course) (dir : CpyDir) (main : Bool) (E n L : Nat) : Side :=
  if main then
    let h := s.home (s.ctxOf c) E
    .main E h.2 h.1
  else
    let p := (s.locate c (CpyDir.reach dir) E n L).getD (.shared c.team, 0)
    .here p.1 p.2

/-- The aligned 128-byte block of a destination (R353). -/
def Side.block : Side → Nat × Nat
  | .main va _ _ => (0, va / 128)
  | .here _ o => (1, o / 128)

/-- The lanes of a CPY as transfer operations, in order of the lowest lane. -/
def groupCopy (ls : List CopyLane) : List (List CopyLane) :=
  let bs := ls.foldl (fun r l => if r.contains l.dst.block then r else r ++ [l.dst.block]) []
  bs.map (fun b => ls.filter (fun l => l.dst.block == b))

/-- The lanes of a side in main memory. -/
def mainItems (f : CopyLane → Side) (ls : List CopyLane) : List Item :=
  ls.filterMap (fun l =>
    match f l with
    | .main va pa dest => some ⟨l.lane, va, dest, pa⟩
    | .here _ _ => none)

/-- CPY (R353). -/
def execCpy (r : RWord) (dir : CpyDir) (size : CpySize) (bar : Bool) (s : State) : Out :=
  s.issue (.cpy r dir size bar) r.head (fun x =>
    let c := s.issuer x
    let n := CpySize.bytes size
    let ch := r.b.field.toNat
    let b := if bar then some r.c.field.toNat else none
    let m := CpyDir.mains dir
    let act := lanesOf x.act
    let E := fun L => s.cpyAddrs x c r dir L
    let all := act.flatMap (fun L => (if m.1 then [(L, (E L).1)] else []) ++ (if m.2 then [(L, (E L).2)] else []))
    if x.act = 0#32 then .go s
    else
      match s.copyChecks x ch b with
      | some t => .trap t
      | none =>
        (Looked.each (fun L => s.cpyLane x c r dir n L all) act).then <|
          let s1 := s.tlbFill (s.ctxOf c) (all.map (fun a => a.2))
          let ls := act.map (fun L =>
            (⟨L, s.cpySide c dir m.1 (E L).1 n L, s.cpySide c dir m.2 (E L).2 n L⟩ : CopyLane))
          let groups := groupCopy ls
          let id := 8 * s.stamp
          let ts := groups.zipIdx.map (fun (p : List CopyLane × Nat) =>
            let rd := s1.copyReads c.team ch id p.2 n (mainItems (fun l => l.src) p.1)
            (rd.1, rd.2, s1.copyWrites c.team ch id p.2 n (mainItems (fun l => l.dst) p.1)))
          let ops := groups.map (fun g =>
            ({ lanes := g, reads := (mainItems (fun l => l.src) g).map (fun i => i.lane) } : XferOp))
          let dests := (byDest (fun (d : Dest) => d) (ts.flatMap OpTraffic.dests)).map (fun d => (d.1, 0))
          if !s.copyRoom x.crs c then .held (all.map (fun a => a.2)) false
          else if !s.roomFor c.team ch false dests then s.noRoom c.team ch dests (all.map (fun a => a.2))
          else .go (s1.startCopy x id (s.newCopy x ch b n ops none 0#32) ts))

/-! ## The descriptor of TCPY (R355–R360) -/

/-- Bytes of an element of a form: 0 raw, 1 BF16, 2 E4M3, 3 E5M2. -/
def formBytes (f : Nat) : Nat := if f = 1 then 2 else 1
/-- The bit-plane width of a memory form: 8, 4, or 0 where it is none. -/
def planeWidth (mf : Nat) : Nat := if mf = 4 then 8 else if mf = 5 then 4 else 0

/-- The memory form, the local form, the planes kept, and the bits SCL and CANON of a form word. -/
def TcpyDesc.mf (d : TcpyDesc) : Nat := d.form % 16
/-- The local form. -/
def TcpyDesc.lf (d : TcpyDesc) : Nat := d.form / 16 % 16
/-- PLANES. -/
def TcpyDesc.planes (d : TcpyDesc) : Nat := d.form / 256 % 16
/-- SCL. -/
def TcpyDesc.scl (d : TcpyDesc) : Bool := d.form.testBit 12
/-- CANON. -/
def TcpyDesc.canon (d : TcpyDesc) : Bool := d.form.testBit 13
/-- The bit-plane width. -/
def TcpyDesc.width (d : TcpyDesc) : Nat := planeWidth d.mf
/-- MB: bytes of a memory row (R355). -/
def TcpyDesc.mb (d : TcpyDesc) : Nat := if d.width = 0 then d.cols * formBytes d.mf else d.cols * d.width / 8
/-- LB: bytes of a local row (R355). -/
def TcpyDesc.lb (d : TcpyDesc) : Nat := if d.width = 0 then d.cols * formBytes d.lf else d.cols * d.width / 8
/-- Planes kept. -/
def TcpyDesc.kept (d : TcpyDesc) : Nat := if d.planes = 0 then d.width else d.planes

/-- Is the pair of a source form and a destination form one of R356? -/
def formPair (src dst : Nat) (load : Bool) : Bool :=
  (src == dst && src ≤ 3) || (src == 1 && (dst == 2 || dst == 3)) || ((src == 2 || src == 3) && dst == 1) ||
    (load && (src == 4 || src == 5) && dst == 0)

/-- Is the local side of the copy a scratchpad? -/
def TcpyDesc.inScratch (d : TcpyDesc) : Bool :=
  match d.sp with
  | .scratch _ _ => true
  | _ => false

/-- The first descriptor register at which a check of step 1 fails, by its place in the descriptor (R360). -/
def TcpyDesc.badField (d : TcpyDesc) : Option Nat :=
  let pair := if d.store then formPair d.lf d.mf false else formPair d.mf d.lf true
  let scaleOk := !d.scl || (!d.store && (d.mf == 2 || d.mf == 3) && d.lf == 1 && d.cols % 32 == 0)
  let planesOk := d.planes ≤ d.width && (d.width == 0 || d.cols % 64 == 0)
  let canonOk := if d.canon then !d.inScratch && d.lb % 32 == 0 && d.rows % 32 == 0 else decide (d.lb ≤ d.q)
  if Config.addrLimit ≤ d.g then some 1
  else if !(1 ≤ d.cols && d.cols ≤ 4096 && 1 ≤ d.rows && d.rows ≤ 4096) then some 4
  else if d.form < 2 ^ 14 && d.mf ≤ 5 && d.lf ≤ 3 && pair && scaleOk && planesOk && canonOk &&
      (!d.store || d.mb ≤ d.p) then none
  else some 7

/-- Is some alignment of the descriptor broken (R360)? -/
def TcpyDesc.misaligned (d : TcpyDesc) : Bool :=
  [d.g, d.p, d.o, d.mb, d.lb].any (fun n => n % 16 != 0) || (!d.canon && d.q % 16 != 0) || (d.canon && d.o % 1024 != 0)

/-- Bytes from O that the local region spans (R359). -/
def TcpyDesc.extent (d : TcpyDesc) : Nat := if d.canon then d.rows * d.lb else (d.rows - 1) * d.q + d.lb

/-- Where the scales of a row begin (R358). -/
def TcpyDesc.scaleRow (d : TcpyDesc) (i : Nat) : Int := d.g + d.sofs + i * (d.cols / 32 : Nat)

/-- The bounds of R360; a scale table outside the address space fails as the rows do. -/
def TcpyDesc.outside (d : TcpyDesc) (space : Nat) (x : Ctx) : Option TrapRec :=
  if space < d.o + d.extent then
    some { x.trap 0x07 with sub := 2, addr := d.o, info := b2n (!d.store) }
  else if Config.addrLimit < d.g + (d.rows - 1) * d.p + d.mb ||
      (d.scl && (decide (d.scaleRow 0 < 0) || decide ((Config.addrLimit : Int) < d.scaleRow d.rows))) then
    some { x.trap 0x07 with sub := 2, addr := d.g, info := b2n d.store }
  else none

/-- The accesses of the rows and of the scale table to pages, ascending (R360). -/
def TcpyDesc.pages (d : TcpyDesc) : List PageAcc :=
  let need := if d.store then 2 else 1
  let rows := (List.range d.rows).flatMap (fun i =>
    pagesOf 0 (d.g + i * d.p) d.mb need .any ++
      (if d.scl then pagesOf 0 (d.scaleRow i).toNat (d.cols / 32) need .any else []))
  sortBy (fun a b => a.va ≤ b.va) rows

/-- The flags that the conversion can set (R351, R183, R186, R187). -/
def TcpyDesc.may (d : TcpyDesc) : Word :=
  let src := if d.store then d.lf else d.mf
  let dst := if d.store then d.mf else d.lf
  let excess := if d.sat then flSAT else flOF
  if d.width ≠ 0 || src = dst then 0#32
  else if dst ≠ 1 then flNV ||| flUF ||| flNX ||| excess
  else
    (if src = 3 then flNV ||| flIf d.sat flSAT else 0#32) ||| (if d.scl then flUF ||| flNX ||| excess else 0#32)

/-- Where byte k of local row i lies (R359). -/
def TcpyDesc.place (d : TcpyDesc) (i k : Nat) : Nat :=
  if d.canon then
    let j := i % 32
    d.o + 1024 * (i / 32 * d.lb / 32 + k / 32) + 32 * j + 4 * (k % 32 / 4 ^^^ (j / 4 % 8)) + k % 4
  else d.o + i * d.q + k

/-- The transfer operations of a TCPY: the rows in pieces of 128 bytes of main memory. A load reads a piece in elements
of 16 bytes, or the kept words of 8 bytes of bit planes, and its scales, numbered from 64.
(Log 36, DEDUCED.) -/
def TcpyDesc.pieces (d : TcpyDesc) : List XferOp :=
  (List.range d.rows).flatMap (fun i =>
    (List.range ((d.mb + 127) / 128)).map (fun p =>
      let len := min 128 (d.mb - 128 * p)
      let elems := if d.width = 0 then List.range (len / 16)
        else (List.range (len / 8)).filter (fun e => e % d.width < d.kept)
      let scales := if d.scl then (List.range (len / 32)).map (fun e => 64 + e) else []
      { row := i, at_ := 128 * p, len := len, reads := if d.store then [] else elems ++ scales }))

/-- Bytes of a main-memory element of a TCPY. -/
def TcpyDesc.elem (d : TcpyDesc) : Nat := if d.width = 0 then 16 else 8

/-- The virtual address of a numbered element of a piece. -/
def TcpyDesc.elemVa (d : TcpyDesc) (o : XferOp) (e : Nat) : Nat :=
  if e < 64 then d.g + o.row * d.p + o.at_ + d.elem * e
  else (d.scaleRow o.row).toNat + o.at_ / 32 + (e - 64)

/-- The descriptor that TCPY latches. -/
def State.latch (s : State) (x : Ctx) (c : Course) (r : RWord) (sat : Bool) (rnd : Rnd4) (xs st : Bool) : TcpyDesc :=
  let u := fun i => (s.unifVal c x.sup (r.a.field.toNat + i)).toNat
  { g := u 0 + u 1 * 2 ^ 32, o := u 2, p := u 3, cols := u 4 % 2 ^ 16, rows := u 4 / 2 ^ 16, q := u 5,
    sofs := signExt (u 6) 32, form := u 7, sat := sat, rnd := rnd, store := st,
    sp := if xs then .scratch (s.team c.team).grid (dieOf c.core) else .shared c.team }

/-- TCPY (R360). -/
def execTcpy (r : RWord) (sat : Bool) (rnd : Rnd4) (bar xs st : Bool) (s : State) : Out :=
  s.issue (.tcpy r sat rnd bar xs st) r.head (fun x =>
    let c := s.issuer x
    let ctx := s.ctxOf c
    let ch := r.b.field.toNat
    let b := if bar then some r.c.field.toNat else none
    let d := s.latch x c r sat rnd xs st
    let lr := s.lrOf c
    if x.act = 0#32 then .go s
    else
      match s.copyChecks x ch b with
      | some t => .trap t
      | none =>
        match d.badField with
        | some k => .trap { x.illegalOperand with info := r.a.field.toNat + k }
        | none =>
          if d.misaligned then .trap { x.trap 0x08 with addr := d.g }
          else
            match d.outside (if xs then lr.scratch else lr.shared) x with
            | some t => .trap t
            | none =>
              (s.lookPages ctx (x.trap 0) false d.pages).then <|
                let s1 := s.tlbFill ctx (d.pages.map (fun a => a.va))
                let id := 8 * s.stamp
                let ops := d.pieces
                let item := fun (o : XferOp) (e : Nat) =>
                  let va := d.elemVa o e
                  let h := s.home ctx va
                  (⟨e, va, h.1, h.2⟩ : Item)
                let ts := ops.zipIdx.map (fun (p : XferOp × Nat) =>
                  let main := s1.copyReads c.team ch id p.2 d.elem ((p.1.reads.filter (fun e => e < 64)).map (item p.1))
                  let sc := s1.copyReads c.team ch id p.2 1 ((p.1.reads.filter (fun e => 64 ≤ e)).map (item p.1))
                  let wr := if d.store then
                      s1.copyWrites c.team ch id p.2 16 ((List.range (p.1.len / 16)).map (item p.1))
                    else []
                  ((main.1 ++ sc.1, main.2 ++ sc.2, wr) : OpTraffic))
                let dests := (byDest (fun (d : Dest) => d) (ts.flatMap OpTraffic.dests)).map (fun d => (d.1, 0))
                if !s.copyRoom x.crs c then .held (d.pages.map (fun a => a.va)) false
                else if !s.roomFor c.team ch false dests then s.noRoom c.team ch dests (d.pages.map (fun a => a.va))
                else .go (s1.startCopy x id (s.newCopy x ch b d.elem ops (some d) d.may) ts))

/-! ## Performing a transfer operation (R353, R356–R361) -/

/-- Bytes with the poison of each. -/
abbrev Bytes2 := List (Byte × Bool)

/-- Mark bytes poisoned by the 4-byte words, by offset, that are. -/
def markBytes (bytes : List Byte) (poison : List Nat) : Bytes2 :=
  bytes.zipIdx.map (fun (p : Byte × Nat) => (p.1, poison.contains (p.2 / 4 * 4)))

/-- n bytes of a block with their poison; a is a multiple of 4. -/
def Block.take2 (b : Block) (a n : Nat) : Bytes2 :=
  (List.range n).map (fun i => (cellAt b.mem (a + i), b.poison.contains ((a + i) / 4 * 4)))

/-- Is some byte poisoned? -/
def Bytes2.bad (l : Bytes2) : Bool := l.any (fun b => b.2)

/-- The number that bytes hold. -/
def Bytes2.num (l : Bytes2) : Nat := ofBytes (l.map (fun b => b.1))

/-- Write bytes at a place that is a multiple of 4: a 4-byte word with a poisoned byte is poisoned (R263). -/
def Block.put2 (b : Block) (a : Nat) (l : Bytes2) : Block :=
  b.write a (l.map (fun y => y.1)) ((wordsOf 0 l.length).filterMap (fun w =>
    if Bytes2.bad ((l.drop w).take 4) then some (a + w) else none))

/-- The bytes that a read brought for a numbered element. -/
def gotBytes (data : List ReadReturn) (e : Nat) : Bytes2 :=
  match data.find? (fun x => x.lane == e) with
  | some x => markBytes x.bytes x.poison
  | none => []

/-- The format of a form (R356). -/
def formFmt (f : Nat) : Fmt := if f = 1 then fmtBf16 else if f = 2 then fmtE4m3 else fmtE5m2

/-- Convert one element (R356, R358): its code and flags. -/
def convertElem (src dst : Nat) (rnd : Rnd4) (sat : Bool) (code : Nat) (scale : Option Nat) : Nat × Word :=
  if src = dst then (code, 0#32)
  else if scale = some 255 then ((formFmt dst).nanCode, 0#32)
  else
    let x := (formFmt src).value code
    let y := match x, scale with
      | .fin q, some e => .fin (q.scale ((e : Int) - 127))
      | y, _ => y
    let r := (formFmt dst).round (Rnd4.toRnd rnd) sat 0 y
    (r.1, r.2 ||| snanFlag [x])

/-- Convert the elements of a run of bytes; scale gives the scale of element j of the run, with its poison. Elements
whose bytes are poisoned compute nothing.
(Log 37, DEDUCED.) -/
def convertRun (d : TcpyDesc) (src dst : Nat) (l : Bytes2) (scale : Nat → Option (Nat × Bool)) : Bytes2 × Word :=
  let n := formBytes src
  (List.range (l.length / n)).foldl (fun (a : Bytes2 × Word) j =>
    let e := (l.drop (n * j)).take n
    let sc := scale j
    let bad := Bytes2.bad e || sc.any (fun x => x.2)
    let y := convertElem src dst d.rnd d.sat (Bytes2.num e) (sc.map (fun x => x.1))
    (a.1 ++ (bytesOf (formBytes dst) y.1).map (fun b => (b, bad)), if bad then a.2 else a.2 ||| y.2)) ([], 0#32)

/-- Element j of a group of bit planes, of which words holds the kept words, top plane first (R357). -/
def planeElem (w : Nat) (words : List Bytes2) (j : Nat) : Nat × Bool :=
  words.zipIdx.foldl (fun (a : Nat × Bool) (p : Bytes2 × Nat) =>
    let b := (p.1.getD (j / 8) (0#8, false))
    (a.1 + (if b.1.getLsbD (j % 8) then 2 ^ (w - 1 - p.2) else 0), a.2 || b.2)) (0, false)

/-- The local bytes of a group of bit planes (R357). -/
def planeGroup (w : Nat) (words : List Bytes2) : Bytes2 :=
  if w = 8 then (List.range 64).map (fun j =>
    let e := planeElem w words j
    (BitVec.ofNat 8 e.1, e.2))
  else (List.range 32).map (fun k =>
    let lo := planeElem w words (2 * k)
    let hi := planeElem w words (2 * k + 1)
    (BitVec.ofNat 8 (lo.1 + 16 * hi.1), lo.2 || hi.2))

/-- The local bytes that a piece of a load comes to, from what byte of the local row on, and the flags. -/
def TcpyDesc.loaded (d : TcpyDesc) (o : XferOp) (data : List ReadReturn) : Nat × Bytes2 × Word :=
  let w := d.width
  if w ≠ 0 then
    (o.at_, (List.range (o.len / (8 * w))).flatMap (fun g =>
      planeGroup w ((List.range d.kept).map (fun t => gotBytes data (w * g + t)))), 0#32)
  else
    let l := (List.range (o.len / 16)).flatMap (gotBytes data)
    let y := convertRun d d.mf d.lf l (fun j =>
      if d.scl then
        let s := gotBytes data (64 + j / 32)
        some (Bytes2.num s, Bytes2.bad s)
      else none)
    (o.at_ / formBytes d.mf * formBytes d.lf, y.1, y.2)

/-- The bytes of a piece of a store, and the flags. -/
def TcpyDesc.stored (d : TcpyDesc) (o : XferOp) (b : Block) : Bytes2 × Word :=
  let n := o.len / formBytes d.mf * formBytes d.lf
  let k0 := o.at_ / formBytes d.mf * formBytes d.lf
  let l := (List.range (n / 4)).flatMap (fun i => b.take2 (d.place o.row (k0 + 4 * i)) 4)
  convertRun d d.lf d.mf l (fun _ => none)

/-- Write a run of local bytes of a row, word by word (R359). -/
def TcpyDesc.putRow (d : TcpyDesc) (b : Block) (row k0 : Nat) (l : Bytes2) : Block :=
  (List.range (l.length / 4)).foldl (fun b i => b.put2 (d.place row (k0 + 4 * i)) ((l.drop (4 * i)).take 4)) b

/-- Give the writes of a transfer operation their bytes: f has the bytes for a virtual address. -/
def Stream.fill (st : Stream) (id k : Nat) (f : Nat → Option Bytes2) : Stream :=
  { st with pkts := st.pkts.map (fun q =>
      if q.copy = some (id, k) then
        { q with ready := true,
                 pkt := { q.pkt with body := match q.pkt.body with
                   | .store es => .store (es.map (fun e =>
                       match f e.va with
                       | some l => { e with bytes := l.map (fun y => y.1), poisoned := Bytes2.bad l }
                       | none => e))
                   | b => b } }
      else q) }

/-- Is the destination of a lane in a 16-byte element of main memory? -/
def CopyLane.writesIn (l : CopyLane) (e : Nat) : Bool :=
  match l.dst with
  | .main va _ _ => va / 16 == e
  | .here _ _ => false

/-- Has some other lane of the copy still to write in a 16-byte element of main memory? -/
def Copy.unwritten (cp : Copy) (e lane : Nat) : Bool :=
  cp.ops.any (fun o => o.lanes.any (fun l => l.lane != lane && l.writesIn e))

/-- The source bytes of a lane of CPY: from the local memory, of which the copy reads each 16-byte element once (R345); or from main memory, as they came, or as another lane of the
word has written them: each 16-byte element of an overlap is the old or the new one for every lane that reads it (R353).
(Log 35, DEDUCED.) -/
def State.laneSource (s : State) (id : Nat) (cp : Copy) (data : List ReadReturn) (l : CopyLane) : Bytes2 × Copy :=
  match l.src with
  | .here sp o =>
    let e := o / 16
    let l := (Tab.find cp.seen e).getD ((s.spaceBlock sp).take2 (16 * e) 16)
    ((l.drop (o % 16)).take cp.n, { cp with seen := Tab.put cp.seen e l })
  | .main va _ _ =>
    let e := va / 16
    let got := (gotBytes data l.lane).take cp.n
    if !(cp.unwritten e l.lane || cp.wrote.any (fun w => w.1 / 16 == e)) then (got, cp)
    else if cp.unwritten e l.lane || cp.aged.contains e || !Config.freeBit (id % 2 ^ 64) (2 ^ 46 + e) then
      (got, { cp with aged := insertNat cp.aged e })
    else (((cp.wrote.find? (fun w => w.1 == va)).map (fun w => w.2)).getD got, cp)

/-- Copy one lane of a CPY. -/
def State.cpyPart (s : State) (id : Nat) (cp : Copy) (data : List ReadReturn) (l : CopyLane) : State × Copy :=
  let r := s.laneSource id cp data l
  match l.dst with
  | .here sp a => (s.setSpace sp ((s.spaceBlock sp).put2 a r.1), r.2)
  | .main va _ _ => (s, { r.2 with wrote := r.2.wrote ++ [(va, r.1)] })

/-- The lanes of a transfer operation that count: of two that write the same bytes, the higher (R353). -/
def mergeLanes : List CopyLane → List CopyLane
  | [] => []
  | a :: t => if t.any (fun b => b.dst == a.dst) then mergeLanes t else a :: mergeLanes t

/-- The 16-byte element of a side. -/
def Side.elem : Side → Nat
  | .main va _ _ => va / 16
  | .here _ o => o / 16

/-- Bytes of main memory that a store by TCPY writes at once: 16, or what one 16-byte element of a narrower local form comes
to (R345). -/
def TcpyDesc.chunk (d : TcpyDesc) : Nat := max 16 (16 / formBytes d.lf * formBytes d.mf)

/-- The numbers of the elements of a transfer operation whose data have come: of a CPY, the 16-byte elements of its destination;
of a TCPY, those of the local side, or what a store writes at once. -/
def Copy.elems (cp : Copy) (o : XferOp) (data : List ReadReturn) : List Nat :=
  match cp.tcpy with
  | none => o.lanes.foldl (fun r (l : CopyLane) => insertNat r l.dst.elem) ([] : List Nat)
  | some d => List.range (if d.store then o.len / d.chunk else (d.loaded o data).2.1.length / 16)

/-- Perform element e of a transfer operation of a TCPY, with the flags that its conversions set. -/
def State.tcpyPart (s : State) (cp : Copy) (d : TcpyDesc) (o : XferOp) (data : List ReadReturn) (e : Nat) : State × Copy :=
  if d.store then
    let k := o.at_ + d.chunk * e
    let y := d.stored { o with at_ := k, len := d.chunk } (s.spaceBlock d.sp)
    (s, { cp with flags := cp.flags ||| y.2, wrote := cp.wrote ++ (List.range (d.chunk / 16)).map (fun i =>
      (d.g + o.row * d.p + k + 16 * i, (y.1.drop (16 * i)).take 16)) })
  else
    let y := d.loaded o data
    (s.setSpace d.sp (d.putRow (s.spaceBlock d.sp) o.row (y.1 + 16 * e) ((y.2.1.drop (16 * e)).take 16)),
      { cp with flags := cp.flags ||| y.2.2 })

/-- Perform one element of a transfer operation whose data have come, any of those that are left (R345, R353). -/
def State.performPart (s : State) (id : Nat) (cp : Copy) (o : XferOp) (data : List ReadReturn) : State × Copy × XferOp :=
  match s.nextElem o.left with
  | none => (s, cp, { o with done := true })
  | some e =>
    let r := match cp.tcpy with
      | some d => s.tcpyPart cp d o data e
      | none => (o.lanes.filter (fun (l : CopyLane) => l.dst.elem == e)).foldl (fun (r : State × Copy) (l : CopyLane) => r.1.cpyPart id r.2 data l) (s, cp)
    let left := o.left.erase e
    (r.1, r.2, { o with left := left, lanes := o.lanes.filter (fun l => l.dst.elem != e), done := left.isEmpty })

/-- The local memories that a transfer operation reaches. -/
def Copy.spaces (cp : Copy) (o : XferOp) : List Space :=
  match cp.tcpy with
  | some d => [d.sp]
  | none => o.lanes.flatMap (fun l => [l.src, l.dst].filterMap (fun x => match x with
      | .here sp _ => some sp
      | _ => none))

/-- The event in which a copy issued. -/
def copyTurn (id : Nat) : Nat := id % 2 ^ 64 / 8

/-- Is a claim one of a course's REDEEM.sh that issued before an event? -/
def Claim.sharedBefore (cl : Claim) (crs turn : Nat) : Bool :=
  match cl with
  | .shared h _ _ _ n _ => h == crs && n < turn
  | .regs .. => false

/-- Has a course a REDEEM.sh that issued before an event and has not been delivered? -/
def State.redeemBefore (s : State) (crs turn : Nat) : Bool :=
  s.entries.any (fun _ e => e.claim.any (fun k => k.sharedBefore crs turn)) ||
    s.sliceReqs.any (fun _ q => match q with
      | .redeem _ cl _ _ _ _ _ => cl.sharedBefore crs turn
      | _ => false)

/-- Has a course an ACCLD or ACCST that issued before an event and has not been performed? -/
def State.accBefore (s : State) (c : Course) (crs turn : Nat) : Bool :=
  [0, 1, 2, 3].any (fun b => ((s.core c.core).bay b).queue.any (fun e => e.crs == crs && decide (e.id / 8 < turn) &&
    (match e.work with
      | .load .. | .store .. => true
      | _ => false)))

/-- Must the copy still wait for an access of its local memory that its course issued before it, by whatever word (R345,
R350)? -/
def State.copyWaits (s : State) (team id : Nat) (cp : Copy) (o : XferOp) : Bool :=
  let c := s.course cp.crs
  let turn := copyTurn id
  let sps := cp.spaces o
  sps.any (s.barWaits cp.crs turn) ||
  c.pend.any (fun p => decide (p.id < cp.after) &&
    (match p.kind with
      | .access sp _ _ => sps.contains sp
      | _ => false)) ||
  (s.team team).copies.any (fun k q => q.crs == cp.crs && decide (copyTurn k < turn) &&
    q.ops.any (fun y => !y.done && (q.spaces y).any sps.contains)) ||
  (sps.contains (.shared team) && (s.redeemBefore cp.crs turn || s.accBefore c cp.crs turn))

/-- The team whose copy has a number. -/
def State.copyTeam (s : State) (id : Nat) : Option Nat := (s.teams.keys (fun _ t => Tab.has t.copies id)).head?

/-- Take the data of an operation from the fabric. -/
def State.takeData (s : State) : List ReadReturn → Option State
  | [] => some s
  | x :: t =>
    match s.takeBack (.data x) x.key (x.key.dest.chip != s.chip || x.key.dest.host) with
    | some s => s.takeData t
    | none => none

/-- Are these the data of the reads of operation op of a copy? -/
def dataFits (id op team : Nat) (reads : List Nat) (data : List ReadReturn) : Bool :=
  data.length == reads.length && reads.all (fun e => data.any (fun x => x.lane == e)) &&
    data.all (fun x => x.reader == .copy id op && x.key.team == team)

/-- A transfer operation begins: its data have come, and far lines are refilled from them (R275, R328). -/
def State.beginXfer (s : State) (team copy op : Nat) (cp : Copy) (data : List ReadReturn) : State :=
  let s := data.foldl State.refillFrom s
  s.onChan team cp.ch (fun c =>
    (byDest (fun (x : ReadReturn) => x.key.dest) (data.filter (fun x => !x.refused))).foldl (fun (c : Chan) g =>
      c.readLanded (.copy copy op) g.1 g.2.length s.stamp) c)

/-- Perform one element of a transfer operation; after the last its writes may go out. -/
def State.stepXfer (s : State) (team copy op : Nat) (cp : Copy) (o : XferOp) (data : List ReadReturn) : State :=
  let r := s.performPart copy cp { o with got := some data } data
  let s := r.1.onTeam team (fun t =>
    { t with copies := Tab.put t.copies copy { r.2.1 with ops := setAt cp.ops op { r.2.2 with got := if r.2.2.done then none else some data } } })
  let s := if r.2.2.done then
      s.onChan team cp.ch (fun c => { c with streams := c.streams.map (fun st => st.fill copy op (fun va =>
        (r.2.1.wrote.find? (fun w => w.1 == va)).map (fun w => w.2))) })
    else s
  s.afterSettle team

/-- TRANSFER_OPERATION: a 128-byte transfer operation is performed, once its reads have come back, one 16-byte element
after another (R344, R345, R353, R356–R362). A saved team's copies wait for the restore. -/
def execTransferOperation (copy op : Nat) (data : List ReadReturn) (s : State) : Out :=
  match s.copyTeam copy with
  | none => .next s
  | some team =>
    let t := s.team team
    match Tab.find t.copies copy with
    | none => .next s
    | some cp =>
      match cp.ops[op]? with
      | none => .next s
      | some o =>
        if t.state = .saved || o.done then .next s
        else
          match o.got with
          | some old => .next (s.stepXfer team copy op cp o old)
          | none =>
            let o := { o with lanes := mergeLanes o.lanes }
            let o1 := { o with left := cp.elems o data }
            if s.copyWaits team copy cp o1 || !dataFits copy op team o.reads data then .next s
            else .next ((s.takeData data).elim s (fun s => (s.beginXfer team copy op cp data).stepXfer team copy op cp o1 data))

/-! ## Completion (R337, R338, R340, R351) -/

/-- Are all bytes of a copy read and written: every operation performed and every write settled (R337)? -/
def Team.copyDone (t : Team) (id : Nat) (cp : Copy) : Bool :=
  cp.ops.all (fun o => o.done) &&
    !(Tab.get {} t.chans cp.ch).streams.any (fun st => st.pkts.any (fun q => q.copy.any (fun k => k.1 == id)))

/-- The ARITH trap on the flags of a variable-latency word, a copy or a matrix word (R156, R157): the course resumes at its next
word. Where the slot waits for something, or a handler runs, the trap is taken before the slot's next word. -/
def State.heldTrap (s : State) (crs slot pc : Nat) (act : LaneMask) (fl : Word) : State :=
  let c := s.course crs
  let y := c.slotN slot
  let t := { arithTrap pc act fl with resume := y.pc }
  if !(c.trapsOn fl && c.taken slot) then s
  else if c.sup.isNone && c.reenter.isNone && (y.wait == .none || y.wait == .fetch) then s.raise crs slot t
  else s.setCourse crs { c with refusals := insertFurther ⟨slot, 0, t⟩ c.refusals }

/-- COPY_COMPLETE: the flags are ORed in, the entry is returned, the operation has completed, and the transfer unit
arrives on the barrier (R351, R353, R360, R365). -/
def execCopyComplete (copy : Nat) (s : State) : Out :=
  match s.copyTeam copy with
  | none => .next s
  | some team =>
    let t := s.team team
    match Tab.find t.copies copy with
    | none => .next s
    | some cp =>
      if t.state = .saved || !t.copyDone copy cp then .next s
      else
        let s := s.onTeam team (fun t => { t with copies := Tab.del t.copies copy })
        let fl := cp.flags &&& cp.may
        let s := s.onCourse cp.crs (fun c =>
          { (c.opDone .copy cp.count).orFlags fl with holds := c.holds.filter (fun k => k.1 != copy) })
        let s := match cp.bar with
          | some b => s.setBar team b ((s.bar team b).arrive 1)
          | none => s
        .next (s.heldTrap cp.crs cp.slot cp.pc cp.act fl)

/-- WAITC (R340). -/
def execWaitc (r : RWord) (path : EnginePath) (s : State) : Out :=
  s.issue (.waitc r path) r.head (fun x =>
    let c := s.issuer x
    let n := s.uval x c r.a
    if x.act = 0#32 then .go s
    else if (c.eng.path path).length ≤ n then .go s
    else .wait s (.waitc path n))

/-- WAITC_COMPLETE (R340). -/
def execWaitcComplete (crs slot : Nat) (s : State) : Out :=
  let c := s.course crs
  let y := c.slotN slot
  match y.wait with
  | .waitc path n =>
    if s.running c && decide ((c.eng.path path).length ≤ n) then .next (s.advance crs slot y.act) else .next s
  | _ => .next s

/-- ENGINE_OP_RETIRE: the oldest operation of a path has completed, and it retires with the completed ones that follow
it (R338). -/
def execEngineOpRetire (crs : Nat) (path : EnginePath) (s : State) : Out :=
  .next (s.onCourse crs (fun c =>
    { c with eng := c.eng.setPath path ((c.eng.path path).dropWhile (fun k => k.done)) }))

end Sys2Proof.Machine
end

