-- ==== Sys2Proof/Machine/Matrix.lean ====
section
/-! DEFINITION. Matrix units and accumulator memory: MMA and MMAS, the steps of a quarter-operation, the accumulator
words and batches (R369–R389). -/

namespace Sys2Proof.Machine

/-! ## Formats and fragments (R371, R372) -/

/-- The format register that a code names. -/
def matFm : MatFmt → Option Nat
  | .fm0 => some 0
  | .fm1 => some 1
  | .fm2 => some 2
  | .fm3 => some 3
  | _ => none

/-- The format of a code; w holds the format register that it names. -/
def matFmtOf (f : MatFmt) (w : Word) : Fmt :=
  match f with
  | .bf16 => fmtBf16
  | .f16 => fmtF16
  | .e4m3 => fmtE4m3
  | .e5m2 => fmtE5m2
  | _ => fmtOfReg w

/-- The depth K of a quarter-operation: the slot of an element has 256 / K bits (R372). -/
def matDepth (a b : Fmt) : Nat := if a.w = 16 then 16 else if a.w ≤ 4 ∧ b.w ≤ 4 then 64 else 32

/-- Element k of a fragment (R372). -/
def matElem (K : Nat) (frag : List Word) (k : Nat) : Nat :=
  let b := 256 / K
  (frag.getD (k * b / 32) 0#32).toNat / 2 ^ (k * b % 32) % 2 ^ b

/-- The elements of one step: 8, or 16 where both formats have at most 4 bits (R377). -/
def matStride (K : Nat) : Nat := if K = 64 then 16 else 8

/-! ## The arithmetic of a step (R374, R378–R380) -/

/-- The scale of element k: the byte of its block in a scale word, at shift (R374). -/
def matScale (w : Word) (shift k : Nat) : Nat := w.toNat / 2 ^ (shift + 8 * (k / 32)) % 256

/-- One product with its flags: a signalling NaN element sets NV, and so does 0 × ∞, except in a block whose scale is
0xFF, which makes a NaN without a flag (R374, R380). -/
def matProduct (a b : Fp) (scale : Option (Nat × Nat)) : Fp × Word :=
  let sn := snanFlag [a, b]
  match scale with
  | none => let p := a.mul b; (p.1, p.2)
  | some (x, y) =>
    if x = 255 ∨ y = 255 then (.nan false, sn)
    else
      let p := a.mul b
      (match p.1 with
        | .fin q => .fin (q.scale ((x : Int) + y - 254))
        | v => v, p.2)

/-- The finite terms. -/
def finTerms (ts : List Fp) : List Rat3 := ts.filterMap (fun t => match t with
  | .fin q => some q
  | _ => none)

/-- The exact sum of terms whose denominators are powers of two. -/
def sumTerms (qs : List Rat3) : Rat3 :=
  let d := qs.foldl (fun m q => max m q.den) 1
  let n := qs.foldl (fun (a : Int) q => a + q.signed * (d / q.den : Nat)) 0
  ⟨n < 0, n.natAbs, d⟩

/-- A term keeps its bits down to the weight 2^e (R378, order 3), in units of 2^e. -/
def truncTerm (e : Int) (q : Rat3) : Int :=
  let y := q.scale (-e)
  let n : Int := (y.num / y.den : Nat)
  if q.neg then -n else n

/-- Step on finite terms (R378, orders 3 to 5, and the flags of R380). -/
def stepFinite (ftz : Bool) (qs : List Rat3) : Word × Word :=
  match qs.filter (fun q => !q.isZero) with
  | [] => (if qs.all (fun q => q.neg) then 0x80000000#32 else 0#32, 0#32)
  | q :: t =>
    let E := (t.map (fun r => log2Floor r.num r.den)).foldl max (log2Floor q.num q.den)
    let sum := (q :: t).foldl (fun (a : Int) r => a + truncTerm (E - 48) r) 0
    let v := Rat3.scaled (sum < 0) sum.natAbs (E - 48)
    let r := toF32 ftz .rne false 0 (.fin v)
    let code := if r.1 = 0x80000000#32 then 0#32 else r.1
    let same := match f32 false code with
      | .fin z => z.cmp (sumTerms (q :: t)) == .eq
      | _ => false
    let tiny := sum != 0 && log2Floor v.num v.den < -126
    (code, (r.2 &&& flOF) ||| flIf (!same) flNX ||| flIf (tiny && !same) flUF)

/-- Step(t, p) (R378). -/
def matStep (ftz : Bool) (t : Word) (ps : List (Fp × Word)) : Word × Word :=
  let ts := f32 ftz t :: ps.map (fun p => p.1)
  let fl := ps.foldl (fun a p => a ||| p.2) 0#32
  let plus := ts.any (fun x => x.isInf && !x.sign)
  let minus := ts.any (fun x => x.isInf && x.sign)
  if plus && minus then (nan32, fl ||| flNV)
  else if ts.any Fp.isNan then (nan32, fl)
  else if plus || minus then (inf32 minus, fl)
  else
    let r := stepFinite ftz (finTerms ts)
    (r.1, fl ||| r.2)

/-- An element code as an integer (R379). -/
def matInt (f : Fmt) (code : Nat) : Int := if f.sgn then signExt code f.w else ((code % 2 ^ f.w : Nat) : Int)

/-- A quarter-operation's latched operands. -/
structure Quarter where
  fa : Fmt
  fb : Fmt
  k : Nat
  scaled : Bool
  ftz : Bool
  deriving DecidableEq, Repr

/-- Does it accumulate integers (R379)? Both formats are format registers with e = 0, and the word is MMA. -/
def Quarter.integer (q : Quarter) : Bool := q.fa.e == 0 && q.fb.e == 0 && !q.scaled

/-- One element after step n: a and b are a row and a column, each a fragment with its scales (R377).
(Log 38, DEDUCED.) -/
def Quarter.element (q : Quarter) (n : Nat) (t : Word) (a b : List Word × Word) : Word × Word :=
  let g := matStride q.k
  let ks := (List.range g).map (fun i => g * n + i)
  let x := fun k => matElem q.k a.1 k
  let y := fun k => matElem q.k b.1 k
  if q.integer then
    (wi (ks.foldl (fun (s : Int) k => s + matInt q.fa (x k) * matInt q.fb (y k)) t.toNat), 0#32)
  else
    matStep q.ftz t (ks.map (fun k =>
      matProduct (q.fa.value (x k)) (q.fb.value (y k))
        (if q.scaled then some (matScale a.2 0 k, matScale b.2 16 k) else none)))

/-! ## Accumulator memory (R369) -/

/-- The key of an element of a tile. -/
def accKey (tile i c : Nat) : Nat := tile * 256 + 32 * i + c

/-- An element of a team's accumulator memory. -/
def Team.accElem (t : Team) (tile i c : Nat) : AccElem := Tab.get {} t.acc (accKey tile i c)
/-- Write an element. -/
def Team.setAcc (t : Team) (tile i c : Nat) (e : AccElem) : Team := { t with acc := Tab.put t.acc (accKey tile i c) e }

/-- The places of a tile. -/
def tilePlaces : List (Nat × Nat) := (List.range 8).flatMap (fun i => (List.range 32).map (fun c => (i, c)))

/-- Perform step n of a quarter-operation on its tile: the team, and the flags of the rows written. A poisoned element
stays poisoned, unless .z does not use it (R377, R390). -/
def Team.quarterStep (t : Team) (q : Quarter) (tile : Nat) (rows cols : List (Nat × List Word × Word)) (z : Bool)
    (n : Nat) : Team × Word :=
  (rows.flatMap (fun a => cols.map (fun b => (a, b)))).foldl
    (fun (s : Team × Word) (p : (Nat × List Word × Word) × Nat × List Word × Word) =>
      let old := t.accElem tile p.1.1 p.2.1
      if old.poison && !(z && n == 0) then s
      else
        let v := q.element n (if z && n == 0 then 0#32 else old.val) p.1.2 p.2.2
        (s.1.setAcc tile p.1.1 p.2.1 ⟨v.1, false⟩, s.2 ||| v.2)) (t, 0#32)

/-! ## The operand queue (R370) -/

/-- The bay of a course. -/
def State.bayOf (s : State) (c : Course) : Bay := (s.core c.core).bay c.bay

/-- Is there room for n entries in the queue of a course's bay? -/
def State.queueRoom (s : State) (c : Course) (n : Nat) : Bool := (s.bayOf c).queue.length + n ≤ Config.operandQueue

/-- The number of the n-th entry of a word. -/
def State.entryId (s : State) (n : Nat) : Nat := 8 * s.stamp + 4 + n

/-- Put entries into the queue of the issuing course's bay; the open ones join the course's open words (R385). -/
def State.enqueue (s : State) (x : Ctx) (works : List MatWork) (may : Word) (joins : Bool) (after : Nat) : State :=
  let c := s.issuer x
  let may := wordFlags x.sup may
  let es := works.zipIdx.map (fun (p : MatWork × Nat) =>
    ({ id := s.entryId p.2, crs := x.crs, work := p.1, flags := 0#32, sup := x.sup, after := after,
       pc := x.pc, slot := x.j, act := x.act } : MatEntry))
  let ids := es.map (fun e => e.id)
  let s := s.onBay c.core c.bay (fun b => { b with queue := b.queue ++ es })
  s.onCourse x.crs (fun c =>
    { c with openAcc := if joins then c.openAcc ++ ids else c.openAcc
             holds := if may = 0#32 then c.holds else c.holds ++ ids.map (fun n => (n, may)) })

/-- An entry of a batch, or an open one, has finished (R385). -/
def Course.entryDone (c : Course) (id : Nat) : Course :=
  let left := fun (k : Counted) =>
    if k.left.contains id then { k with left := k.left.erase id, done := (k.left.erase id).isEmpty } else k
  { c with openAcc := c.openAcc.erase id, holds := c.holds.filter (fun k => k.1 != id), eng := { c.eng with mat := c.eng.mat.map left } }

/-! ## MMA and MMAS (R376) -/

/-- The largest magnitude of a finite element of a format. -/
def Fmt.topMag (f : Fmt) : Rat3 :=
  match f.value (f.limit f.sgn) with
  | .fin q => q.abs
  | _ => ⟨false, 0, 1⟩

/-- Has a format infinities (R176)? -/
def Fmt.hasInf (f : Fmt) : Bool := f.e != 0 && f.spec == 0

/-- The exponent of the unit of which every finite value of a format is a multiple, and that of its smallest nonzero value that
is not flushed. -/
def Fmt.unitExp (f : Fmt) : Int := if f.e = 0 then -f.bias else 1 - f.bias - f.m
/-- The smaller end of its values. -/
def Fmt.lowExp (f : Fmt) : Int := if f.e = 0 || f.keep then f.unitExp else 1 - f.bias

/-- Can step 5 of R378 round a tiny sum inexactly, where the products are multiples of 2^u with exponents low to top, of both signs
or of one? A sum keeps no bit below 2^(E - 48): it is tiny and inexact only where a product has bits below 2^-149, or where terms of
an exponent E of at most -79 cancel and what is left has bits on both sides of 2^(E - 48). -/
def tinySums (both : Bool) (u low top : Int) : Bool :=
  u ≤ -150 || (if both then low ≤ -79 && -100 ≤ top else low ≤ -127 && u + 49 ≤ min top (-79))

/-- The flags that a matrix word of two formats can set in some lane for some operand values (R157, R380): none where it
accumulates integers; NV only with infinities or signalling NaNs among the elements; OF only where the products of one
step reach half an ulp of the largest finite FP32 value, after orders 3 and 4 of R378; UF only where a sum can be tiny and
inexact. -/
def matMay (fa fb : Fmt) (scaled : Bool) : Word :=
  if fa.e == 0 && fb.e == 0 && !scaled then 0#32
  else
    let e : Int := if scaled then 254 else 0
    let p := (fa.topMag.mul fb.topMag).scale e
    let sum := (p.scale (-79)).num / (p.scale (-79)).den * matStride (matDepth fa fb)
    flIf (fa.hasInf || fb.hasInf || fa.signalling || fb.signalling) flNV ||| flIf (2 ^ 24 ≤ sum) flOF |||
      flIf (!p.isZero && tinySums (fa.sgn || fb.sgn) (fa.unitExp + fb.unitExp - e) (fa.lowExp + fb.lowExp - e) (log2Floor p.num p.den)) flUF |||
      flIf (!p.isZero) flNX

/-- The column lanes: 16 in width-16 mode. -/
def State.columnLanes (s : State) (c : Course) : LaneMask := if (s.lrOf c).width16 then 0xFFFF#32 else 0xFFFFFFFF#32

/-- A fragment of a lane. -/
def State.fragment (s : State) (x : Ctx) (c : Course) (n L : Nat) : List Word :=
  (List.range 8).map (fun i => s.laneVal c x.sup (n + i) L)

/-- The shared effect of MMA and MMAS; scale names vC under MMAS. -/
def State.matrixWord (s : State) (x : Ctx) (r : RWord) (fa fb : MatFmt) (z : Bool) (scale : Option Nat) : Res :=
  let c := s.issuer x
  let cols := s.columnLanes c
  let a := r.a.field.toNat
  let b := r.b.field.toNat
  let regs := (List.range 8).map (fun i => (a + i, x.act)) ++ (List.range 8).map (fun i => (b + i, cols)) ++
    scale.toList.map (fun n => (n, cols))
  let bad := (regs.flatMap (fun (g : Nat × LaneMask) =>
    ((lanesOf g.2).filter (fun L => s.lanePoison c x.sup g.1 L)).map (fun L => (L, g.1)))).head?
  let wa := (matFm fa).elim 0#32 c.fmReg
  let wb := (matFm fb).elim 0#32 c.fmReg
  let f := matFmtOf fa wa
  let g := matFmtOf fb wb
  let K := matDepth f g
  let quarters := [0, 1, 2, 3].filter (fun q => (lanesOf x.act).any (fun L => L / 8 == q))
  let sc := fun L => (scale.map (fun n => s.laneVal c x.sup n L)).getD 0#32
  let colOps := (lanesOf cols).map (fun L => (L, s.fragment x c b L, sc L))
  if x.act = 0#32 then .go s
  else if regs.any (fun (g : Nat × LaneMask) => c.laneEmpty x.sup g.1 g.2) then
    (if x.h.e then .trap (x.trap 0x09) else .block true)
  else
    match bad, c.badFormat ([fa, fb].filterMap matFm) with
    | some p, _ => .trap (x.dataError p)
    | none, some n => .trap (x.formatTrap n)
    | none, none =>
      if !s.queueRoom c quarters.length then .block false
      else
        .go (s.enqueue x (quarters.map (fun k =>
          .quarter (r.d.toNat + k)
            (((lanesOf x.act).filter (fun L => L / 8 == k)).map (fun L => (L % 8, s.fragment x c a L, sc L)))
            colOps fa fb wa wb K scale.isSome z x.ftz 0)) (matMay f g scale.isSome) true c.nextPend)

/-- MMA. -/
def execMma (r : RWord) (fa fb : MatFmt) (z : Bool) (s : State) : Out :=
  s.issue (.mma r fa fb z) r.head (fun x => s.matrixWord x r fa fb z none)
/-- MMAS. -/
def execMmas (r : RWord) (fa fb : MatFmt) (z : Bool) (s : State) : Out :=
  s.issue (.mmas r fa fb z) r.head (fun x => s.matrixWord x r fa fb z (some r.c.field.toNat))

/-! ## Steps and entries at the matrix unit -/

/-- Change the queue of a bay. -/
def State.setQueue (s : State) (core bay : Nat) (q : List MatEntry) : State := s.onBay core bay (fun b => { b with queue := q })

/-- A quarter-operation has written its last step: its flags are ORed in, and once the word's last quarter is done the
course issues again or takes the ARITH trap on the flags that the word has set (R380). -/
def State.quarterDone (s : State) (core bay : Nat) (e : MatEntry) (rest : List MatEntry) (fl : Word) : State :=
  let fl := wordFlags e.sup fl
  let mates := rest.any (fun y => y.id / 8 == e.id / 8)
  let s := s.setQueue core bay (rest.map (fun y => if y.id / 8 = e.id / 8 then { y with mates := y.mates ||| e.mates ||| fl } else y))
  let s := s.onCourse e.crs (fun c => (c.entryDone e.id).orFlags fl)
  if mates then s else s.heldTrap e.crs e.slot e.pc e.act (e.mates ||| fl)

/-- Does a queue hold an ACCRD of a team? -/
def State.readQueued (s : State) (team : Nat) (q : List MatEntry) : Bool :=
  q.any (fun e => (s.course e.crs).team == team && (match e.work with
    | .read .. => true
    | _ => false))

/-- A quarter-operation of a halted team stops at the step boundary (R389), unless an ACCRD of the team is queued behind
it: that one's value lands before the image is taken (R450). -/
def State.stopsAtHalt (s : State) (e : MatEntry) (rest : List MatEntry) : Bool :=
  let h := (s.course e.crs).team
  (s.team h).state == .halting && !s.readQueued h rest

/-- QUARTER_STEP: the unit performs the next step of the quarter-operation at the head of a bay's queue (R377, R380). -/
def execQuarterStep (core bay : Nat) (s : State) : Out :=
  match ((s.core core).bay bay).queue with
  | e :: rest =>
    match e.work with
    | .quarter tile rows cols fa fb wa wb k scaled z ftz n =>
      if s.stopsAtHalt e rest then .next s else
      let q : Quarter := ⟨matFmtOf fa wa, matFmtOf fb wb, k, scaled, ftz⟩
      let team := (s.course e.crs).team
      let r := (s.team team).quarterStep q tile rows cols z n
      let s := s.setTeam team r.1
      let fl := e.flags ||| r.2
      if n + 1 < k / matStride k then
        .next (s.setQueue core bay
          ({ e with work := .quarter tile rows cols fa fb wa wb k scaled z ftz (n + 1), flags := fl } :: rest))
      else .next (s.quarterDone core bay e rest fl)
    | _ => .next s
  | [] => .next s

/-- Zero tiles (R382). -/
def Team.zeroTiles (t : Team) (first count : Nat) : Team :=
  { t with acc := t.acc.filter (fun e => !(first * 256 ≤ e.1 && e.1 < (first + count) * 256)) }

/-- The places of element k of a tile as it lies in shared memory: 16 bytes, four columns of a row. -/
def partPlaces (k : Nat) : List (Nat × Nat) := (List.range 4).map (fun i => (k / 8, 4 * (k % 8) + i))

/-- Load one 16-byte element of a tile from the team's shared memory (R383). -/
def Team.loadPart (t : Team) (tile ofs k : Nat) : Team :=
  (partPlaces k).foldl (fun (u : Team) p =>
    let a := ofs + 128 * p.1 + 4 * p.2
    u.setAcc tile p.1 p.2 ⟨wd (ofBytes (t.shared.read a 4)), poisonedIn t.shared.poison a 4⟩) t

/-- Store one 16-byte element of a tile to the team's shared memory (R383). -/
def Team.storePart (t : Team) (tile ofs k : Nat) : Team :=
  { t with shared := (partPlaces k).foldl (fun (b : Block) p =>
      let a := ofs + 128 * p.1 + 4 * p.2
      let e := t.accElem tile p.1 p.2
      b.write a (bytesOf 4 e.val.toNat) (if e.poison then [a] else [])) t.shared }

/-- Must an entry still wait for an access of shared memory that its course issued before it (R383)? -/
def State.entryWaits (s : State) (e : MatEntry) : Bool :=
  let c := s.course e.crs
  s.barWaits e.crs (e.id / 8) (.shared c.team) || c.pend.any (fun p => decide (p.id < e.after) &&
    (match p.kind with
      | .access (.shared t) _ _ => t == c.team
      | _ => false))

/-- The value of an ACCRD is read from the tile and is on its way (R384). -/
def State.readTile (s : State) (crs pid tile d : Nat) (sup : Bool) (act : LaneMask) : State :=
  let t := s.team (s.course crs).team
  let ls := (lanesOf act).flatMap (fun L => (List.range 8).map (fun i =>
    let e := t.accElem tile i L
    Landing.lane sup (d + i) L e.val e.poison))
  s.onCourse crs (fun c => { c with pend := c.pend.map (fun p => if p.id = pid then { p with kind := .values ls } else p) })

/-- The numbers of a tile's elements in shared memory. -/
def tileParts : List Nat := List.range 64

/-- Move one of the elements that an ACCLD or ACCST has left to move; it is done with the last. -/
def State.moveElem (s : State) (core bay : Nat) (e : MatEntry) (rest : List MatEntry) (left : List Nat)
    (f : Nat → Team → Team) (work : List Nat → MatWork) : State :=
  match s.nextElem left with
  | none => (s.setQueue core bay rest).onCourse e.crs (fun c => c.entryDone e.id)
  | some k =>
    let s := s.onTeam (s.course e.crs).team (f k)
    match left.erase k with
    | [] => (s.setQueue core bay rest).onCourse e.crs (fun c => c.entryDone e.id)
    | more => s.setQueue core bay ({ e with work := work more } :: rest)

/-- ACCUMULATOR_ENTRY: the unit performs the accumulator word at the head of a bay's queue (R382–R384), an ACCLD or ACCST by one
of its 16-byte elements. -/
def execAccumulatorEntry (core bay : Nat) (s : State) : Out :=
  match ((s.core core).bay bay).queue with
  | e :: rest =>
    let team := (s.course e.crs).team
    let done := fun (s : State) => (s.setQueue core bay rest).onCourse e.crs (fun c => c.entryDone e.id)
    match e.work with
    | .quarter .. => .next s
    | .zero tile count => .next (done (s.onTeam team (fun t => t.zeroTiles tile count)))
    | .load tile ofs l =>
      .next (if s.entryWaits e then s else s.moveElem core bay e rest l (fun k t => t.loadPart tile ofs k) (.load tile ofs))
    | .store tile ofs l =>
      .next (if s.entryWaits e then s else s.moveElem core bay e rest l (fun k t => t.storePart tile ofs k) (.store tile ofs))
    | .read tile pend d sup act => .next (done (s.readTile e.crs pend tile d sup act))
  | [] => .next s

/-! ## Accumulator words and batches (R382–R385) -/

/-- ACCZ (R382). -/
def execAccz (r : RWord) (s : State) : Out :=
  s.issue (.accz r) r.head (fun x =>
    let c := s.issuer x
    let n := r.a.field.toNat
    if x.act = 0#32 then .go s
    else if 4 * (s.lrOf c).tiles < r.d.toNat + n then .trap x.illegalOperand
    else if !s.queueRoom c 1 then .block false
    else .go (s.enqueue x [.zero r.d.toNat n] 0#32 true c.nextPend))

/-- The shared effect of ACCLD and ACCST: kind 0 reads shared memory, kind 1 writes it (R383). -/
def State.tileWord (s : State) (x : Ctx) (m : MWord) (kind : Nat) : Res :=
  let c := s.issuer x
  let X := s.effAddr x c m 1 0
  let at_ : TrapRec := { x.trap 0 with addr := intBits X 64 }
  if x.act = 0#32 then .go s
  else if X % 128 ≠ 0 then .trap { at_ with code := 0x08 }
  else if X < 0 || ((s.lrOf c).shared : Int) < X + 1024 then .trap { at_ with code := 0x07, sub := 2, info := kind }
  else if !s.queueRoom c 1 then .block false
  else
    let w := if kind = 0 then MatWork.load m.ds.toNat X.toNat tileParts else MatWork.store m.ds.toNat X.toNat tileParts
    .go (s.enqueue x [w] 0#32 true c.nextPend)

/-- ACCLD. -/
def execAccld (m : MWord) (s : State) : Out := s.issue (.accld m) m.head (fun x => s.tileWord x m 0)
/-- ACCST. -/
def execAccst (m : MWord) (s : State) : Out := s.issue (.accst m) m.head (fun x => s.tileWord x m 1)

/-- ACCRD (R384). -/
def execAccrd (r : RWord) (s : State) : Out :=
  s.issue (.accrd r) r.head (fun x =>
    let c := s.issuer x
    let d := r.d.toNat
    if x.act = 0#32 then .go s
    else if !s.queueRoom c 1 then .block false
    else
      let pid := c.nextPend
      let s := s.addPend x .other .remote (x.fills false d 8) 0#32 0#32
      .go (s.enqueue x [.read r.a.field.toNat pid d x.sup x.act] 0#32 false pid))

/-- MBATCH (R385). -/
def execMbatch (h : Head) (s : State) : Out :=
  s.issue (.mbatch h) h (fun x =>
    let c := s.issuer x
    if x.act = 0#32 then .go s
    else if 255 ≤ c.eng.mat.length then .block false
    else .go (s.setCourse x.crs { c.countOp .mat c.openAcc with openAcc := [] }))

end Sys2Proof.Machine
end

