-- ==== Sys2Proof/Machine/Fabric.lean ====
section
/-! DEFINITION. Collective groups, their trees and signatures; COLL and CSIG (R391–R403). -/

namespace Sys2Proof.Machine

/-! ## The domain (R25–R27) -/

/-- Is a chip number inside the domain (R25)? -/
def State.inDomain (s : State) (chip : Nat) : Bool := chip / 32 < s.domain && chip % 32 < s.domain

/-- Do two packages have a link group of their own: the same row or the same column (R26)? -/
def directPair (a b : Nat) : Bool := a != b && (a / 32 == b / 32 || a % 32 == b % 32)

/-- Is the link group between two packages down? -/
def linkDown (down : List (Nat × Nat)) (a b : Nat) : Bool := down.contains (a, b) || down.contains (b, a)

/-- The packages of a domain of k by k. -/
def domainChips (k : Nat) : List Nat := (List.range k).flatMap (fun r => (List.range k).map (fun c => 32 * r + c))

/-- The two corner packages through which the two hops of a packet go: each shares a row with one end and a column with the other
(R27). -/
def corners (a b : Nat) : List Nat := [a / 32 * 32 + b % 32, b / 32 * 32 + a % 32]

/-- The link groups on the one or two hops between two packages: their own, or those through the two corner packages (R27). -/
def edgeLinks (a b : Nat) : List (Nat × Nat) :=
  if directPair a b then [(a, b)] else (corners a b).flatMap (fun c => [(a, c), (c, b)])

/-- The packages over which a packet may detour: any third one of the source's row or column, from which it goes on in one or
two hops (R27). -/
def detours (chips : List Nat) (a b : Nat) : List Nat := chips.filter (fun x => x != b && directPair a x)

/-- Every link group that a packet between two packages may use (R27). -/
def wayLinks (chips : List Nat) (a b : Nat) : List (Nat × Nat) :=
  edgeLinks a b ++ (detours chips a b).flatMap (fun x => (a, x) :: edgeLinks x b)

/-- Is a way of one or two hops between two packages up? -/
def hopsUp (down : List (Nat × Nat)) (a b : Nat) : Bool :=
  if directPair a b then !linkDown down a b
  else (corners a b).any (fun c => !linkDown down a c && !linkDown down c b)

/-- Is there a path of the fabric between two packages: one or two hops, or a detour (R27)?
(Log 118, DEDUCED.) -/
def State.reaches (s : State) (a b : Nat) : Bool :=
  a == b || (s.inDomain b && (hopsUp s.linksDown a b ||
    (detours (domainChips s.domain) a b).any (fun x => !linkDown s.linksDown a x && hopsUp s.linksDown x b)))

/-! ## Group entries and trees (R391–R394) -/

/-- COUNT of a group entry. -/
def Group.count (g : Group) : Nat := bitsOf g.entry 19 9
/-- TOPO: 1 flat. -/
def Group.topo (g : Group) : Nat := bitsOf g.entry 21 20
/-- KEYSTONE: a rank. -/
def Group.keystone (g : Group) : Nat := bitsOf g.entry 31 22
/-- TIMEOUT in cycles. -/
def Group.timeout (g : Group) : Nat :=
  let t := bitsOf g.entry 63 32
  (if t = 0 then 100000 else t) * Config.cyclesPerUs
/-- The chip of a rank. -/
def Group.chipOf (g : Group) (r : Nat) : Nat := g.members.getD r 0
/-- The rank of a chip. -/
def Group.rankOf (g : Group) (chip : Nat) : Nat := g.members.findIdx (fun c => c == chip)

/-- Is the direct link of two packages up, where they have one? -/
def linkUp (down : List (Nat × Nat)) (a b : Nat) : Bool := !(directPair a b && linkDown down a b)

/-- The leader of a row of members, given by ranks (R392, R393): the member in the keystone's column, else the lowest
ranked; where its link to the keystone is down, the lowest-ranked member whose links to the keystone and to the others
of the row are up, if any. -/
def rowLeader (chipOf : Nat → Nat) (down : List (Nat × Nat)) (ks : Nat) (rs : List Nat) : Option Nat :=
  let up := fun (a b : Nat) => linkUp down (chipOf a) (chipOf b)
  let first := match rs.find? (fun r => chipOf r % 32 == chipOf ks % 32) with
    | some r => some r
    | none => rs.head?
  match first with
  | none => none
  | some l => if up l ks then some l else rs.find? (fun r => up r ks && rs.all (fun q => q == r || up r q))

/-- The parent ranks in rank order, with 0xFFFF for the keystone (R392–R394).
(Log 42, DEDUCED.) -/
def treeParents (members : List Nat) (topo ks : Nat) (down : List (Nat × Nat)) : List Nat :=
  let chipOf := fun (r : Nat) => members.getD r 0
  let ranks := List.range members.length
  let row := fun (r : Nat) => ranks.filter (fun q => chipOf q / 32 == chipOf r / 32)
  ranks.map (fun r =>
    if r = ks then 0xFFFF
    else if topo = 1 then ks
    else
      let leader := if chipOf r / 32 = chipOf ks / 32 then some ks else rowLeader chipOf down ks (row r)
      match leader with
      | some l => if l = r then ks else if linkUp down (chipOf r) (chipOf l) then l else ks
      | none => ks)

/-- Does a group's tree use a link group? -/
def Group.uses (g : Group) (a b : Nat) : Bool :=
  g.parents.zipIdx.any (fun (p : Nat × Nat) =>
    p.1 != 0xFFFF && (edgeLinks (g.chipOf p.2) (g.chipOf p.1)).any (fun l => l == (a, b) || l == (b, a)))

/-- The links of a list of failed ones that the tree of R392 uses, and those that the tree rebuilt without them uses, and so on: the
links whose failure the tree has met (R393). -/
def Group.lostLinks (g : Group) (down : List (Nat × Nat)) : Nat → List (Nat × Nat) → List (Nat × Nat)
  | 0, met => met
  | n + 1, met =>
    let t := { g with parents := treeParents g.members g.topo g.keystone met }
    let new := down.filter (fun l => !met.contains l && t.uses l.1 l.2)
    if new.isEmpty then met else g.lostLinks down n (met ++ new)

/-- A group with its tree, where some links are down (R392, R393). -/
def Group.treed (g : Group) (down : List (Nat × Nat)) : Group :=
  { g with parents := treeParents g.members g.topo g.keystone down, lost := g.lostLinks down down.length [] }

/-- Can the keystone reach every member (R393)? -/
def State.groupWhole (s : State) (g : Group) : Bool :=
  g.members.all (fun m => s.reaches (g.chipOf g.keystone) m)

/-- One bit step of CRC-32 (IEEE 802.3, reflected). -/
def crcBit (c : BitVec 32) : BitVec 32 := if c.getLsbD 0 then (c >>> 1) ^^^ 0xEDB88320#32 else c >>> 1

/-- CRC-32 of a byte string. -/
def crc32 (l : List Byte) : Nat :=
  (~~~(l.foldl (fun c b => (List.range 8).foldl (fun c _ => crcBit c) (c ^^^ BitVec.ofNat 32 b.toNat)) 0xFFFFFFFF#32)).toNat

/-- The order signature of a group (R394). -/
def Group.signature (g : Group) : Nat :=
  g.chipOf g.keystone * 2 ^ 54 + g.gen * 2 ^ 32 + crc32 (g.parents.flatMap (bytesOf 2))

/-- A collective group of a context, if its entry is set. -/
def State.groupOf (s : State) (ctx g : Nat) : Option Group := Tab.find (s.context ctx).groups g

/-- CSIG (R395). -/
def execCsig (r : RWord) (s : State) : Out :=
  s.issue (.csig r) r.head (fun x =>
    let c := s.issuer x
    let g := s.uval x c r.a
    if x.act = 0#32 then .go s
    else if 255 < g then .trap x.illegalOperand
    else s.deliverU x r.d.toNat 2 (((s.groupOf (s.ctxOf c) g).map Group.signature).getD 0))

/-! ## Issue of COLL (R396–R399) -/

/-- Bytes of an element of a type. -/
def CollType.bytes : CollType → Nat
  | .bf16 => 2
  | .x64 => 8
  | _ => 4

/-- A side of a lane's descriptor: its address, what it needs (1 R, 2 W), and where its home must be. -/
abbrev CollSide := Nat × Nat × HomeRule

/-- The descriptor of a lane: register i of the eight. -/
def State.collReg (s : State) (x : Ctx) (c : Course) (r : RWord) (L i : Nat) : Nat :=
  (s.laneVal c x.sup (r.a.field.toNat + i) L).toNat

/-- The peer of a lane. -/
def peerOf (d4 : Nat) : Dest := ⟨d4 % 2 ^ 10, d4 / 2 ^ 10 % 8, false⟩

/-- The sides of a lane, in the order of the descriptor. -/
def State.collSides (s : State) (x : Ctx) (c : Course) (r : RWord) (mode : CollMode) (L : Nat) : List CollSide :=
  let d := s.collReg x c r L
  let peer := peerOf (d 4)
  let here := d 0 + d 1 * 2 ^ 32
  let there := d 2 + d 3 * 2 ^ 32
  match mode with
  | .put _ => [(here, 1, .package), (there, 2, .peer peer.chip peer.die)]
  | .get => [(here, 2, .package), (there, 1, .peer peer.chip peer.die)]
  | .ar _ _ _ _ => [(here, 3, .package)]

/-- Is every field of a lane's descriptor within R397? Under .ar no earlier lane has its key.
(Log 39, DEDUCED.) -/
def State.collFields (s : State) (x : Ctx) (c : Course) (r : RWord) (mode : CollMode) (L : Nat) : Bool :=
  let d := s.collReg x c r L
  4 ≤ d 5 && d 5 ≤ 256 && d 6 == 0 && d 7 == 0 &&
    (match mode with
      | .ar ty _ _ _ =>
        d 3 == 0 && d 4 == 0 && d 5 % CollType.bytes ty == 0 &&
          !(lanesOf x.act).any (fun M => M < L && s.collReg x c r M 2 == d 2)
      | _ => d 4 < 2 ^ 13 && s.inDomain (peerOf (d 4)).chip && d 5 % 4 == 0)

/-- Must an address of the word be a multiple of 8, or of 4 (R397)? -/
def CollMode.align : CollMode → Nat
  | .ar .x64 _ _ _ => 8
  | _ => 4

/-- The checks of one lane (R399). -/
def State.collLane (s : State) (x : Ctx) (c : Course) (r : RWord) (mode : CollMode) (all : List (Nat × Nat)) (L : Nat) :
    Looked :=
  let n := s.collReg x c r L 5
  let sides := s.collSides x c r mode L
  let bad := ((List.range 8).map (fun i => r.a.field.toNat + i)).find? (fun q => s.lanePoison c x.sup q L)
  let field := if s.collFields x c r mode L then none else some { x.illegalOperand with lane := some L }
  let wrong := sides.find? (fun e => e.1 % mode.align != 0 || e.1 / 256 != (e.1 + n - 1) / 256)
  (((Looked.pre (bad.map (fun q => x.dataError (L, q)))).andThen (Looked.pre field)).andThen
      (Looked.pre (wrong.map (fun e => x.addrTrap 0x08 0 L e.1 0)))).andThen
    (Looked.each (fun (e : CollSide) => s.mainPage x c e.1 e.2.1 L all e.2.2) sides)

/-- A COLL whose own checks are made: it counts, its status registers are empty, and the collective die has the latched
descriptors. -/
def State.startColl (s : State) (x : Ctx) (c : Course) (r : RWord) (mode : CollMode) : State :=
  let ctx := s.ctxOf c
  let lane := fun (L : Nat) =>
    let d := s.collReg x c r L
    let sides := s.collSides x c r mode L
    let va := fun (i : Nat) => ((sides[i]?).map (fun e => e.1)).getD 0
    let ar := sides.length == 1
    ({ lane := L, localVa := va 0, localPa := (s.home ctx (va 0)).2, remoteVa := va 1,
       remotePa := if ar then 0 else (s.home ctx (va 1)).2, peer := peerOf (d 4), len := d 5,
       key := if ar then d 2 else 0 } : CollLane)
  let s := match mode with
    | .ar _ _ g _ =>
      match s.groupOf ctx g with
      | some gr =>
        s.onContext ctx (fun k => { k with groups := Tab.put k.groups g { gr with joined := gr.joined + 1 } })
      | none => s
    | _ => s
  let k : Coll := { crs := x.crs, pend := c.nextPend, count := c.nextOp, ctx := ctx, mode := mode,
                    lanes := (lanesOf x.act).map lane, since := s.clock }
  let vas := (lanesOf x.act).flatMap (fun L => (s.collSides x c r mode L).map (fun e => e.1))
  let s := s.tlbFill ctx vas
  let s := s.addPend x .other .remote (x.fills true r.d.toNat 2) 0#32 0#32
  let s := s.onCourse x.crs (fun c => c.countOp .coll [])
  { s with colls := Tab.put s.colls (Tab.fresh s.colls) k }

/-- The checks of every lane, and then the effect (R399). -/
def State.collIssue (s : State) (x : Ctx) (r : RWord) (mode : CollMode) : Res :=
  let c := s.issuer x
  let act := lanesOf x.act
  let all := act.flatMap (fun L => (s.collSides x c r mode L).map (fun e => (L, e.1)))
  (Looked.each (s.collLane x c r mode all) act).then
    (if 255 ≤ c.eng.coll.length then .held (all.map (fun a => a.2)) false else .go (s.startColl x c r mode))

/-- COLL.put (R396, R399). -/
def execCollPut (r : RWord) (ntf : Bool) (s : State) : Out :=
  s.issue (.collPut r ntf) r.head (fun x =>
    let c := s.issuer x
    let k := s.uval x c r.c
    if x.act = 0#32 then .go s
    else if ntf && decide ((s.lrOf c).events ≤ k) then .trap x.illegalOperand
    else s.collIssue x r (.put (if ntf then some k else none)))

/-- COLL.get (R396, R399). -/
def execCollGet (r : RWord) (s : State) : Out :=
  s.issue (.collGet r) r.head (fun x => if x.act = 0#32 then .go s else s.collIssue x r .get)

/-- COLL.ar (R396, R399). -/
def execCollAr (r : RWord) (ty : CollType) (op : CollOp) (s : State) : Out :=
  s.issue (.collAr r ty op) r.head (fun x =>
    let c := s.issuer x
    let g := s.uval x c r.b
    if x.act = 0#32 then .go s
    else if 255 < g then .trap x.illegalOperand
    else
      match s.groupOf (s.ctxOf c) g with
      | none => .trap x.illegalOperand
      | some gr =>
        if !gr.members.contains s.chip then .trap x.illegalOperand
        else s.collIssue x r (.ar ty op g gr.joined))

/-! ## Reductions (R392, R398) -/

/-- The smaller or larger of two FP32 values; a NaN gives the canonical NaN. -/
def collMinMax (max : Bool) (x y : Nat) : Nat :=
  let a := (fmtF32 false).value x
  let b := (fmtF32 false).value y
  match minMaxPick max true a b with
  | none => nan32.toNat
  | some first => if first then x else y

/-- The smaller or larger of two signed integers of w bits. -/
def collIntPick (max : Bool) (w x y : Nat) : Nat :=
  if max then (if signExt x w < signExt y w then y else x) else if signExt y w < signExt x w then y else x

/-- One step of R398: FP32 codes for .f32 and .bf16, integers otherwise. -/
def collStep (ty : CollType) (op : CollOp) (x y : Nat) : Nat :=
  match ty, op with
  | .i32, .add => (x + y) % 2 ^ 32
  | .x64, .add => (x + y) % 2 ^ 64
  | .i32, o => collIntPick (o == .max) 32 x y
  | .x64, o => collIntPick (o == .max) 64 x y
  | _, .add => (addF32 false (wd x) (wd y)).1.toNat
  | _, o => collMinMax (o == .max) x y

/-- The value of a node of the tree: its own contribution, then its children's values in ascending rank (R392). The
first argument bounds the depth. -/
def treeFold (parents : List Nat) (own : Nat → Nat) (step : Nat → Nat → Nat) : Nat → Nat → Nat
  | 0, r => own r
  | n + 1, r =>
    ((List.range parents.length).filter (fun q => parents.getD q 0xFFFF == r)).foldl
      (fun v q => step v (treeFold parents own step n q)) (own r)

/-- Element i of a chunk, as the tree carries it: BF16 in FP32. -/
def chunkElem (ty : CollType) (bytes : List Byte) (i : Nat) : Nat :=
  let n := CollType.bytes ty
  let x := ofBytes ((bytes.drop (n * i)).take n)
  if ty = .bf16 then x * 2 ^ 16 else x

/-- The bytes of a result element: the keystone's result is rounded once to BF16, and every NaN of .f32 is the canonical one,
in a group of one member also (R398). -/
def resultElem (ty : CollType) (x : Nat) : List Byte :=
  match ty with
  | .bf16 => bytesOf 2 (fmtBf16.round .rne false 0 ((fmtF32 false).value x)).1
  | .f32 => bytesOf 4 (if ((fmtF32 false).value x).isNan then nan32.toNat else x)
  | _ => bytesOf (CollType.bytes ty) x

/-- The result of one chunk over the members' chunks, by rank, with the words that some member's poison reaches. -/
def combine (g : Group) (ty : CollType) (op : CollOp) (len : Nat) (chunk : Nat → List Byte × List Nat) :
    List Byte × List Nat :=
  let vals := (List.range (len / CollType.bytes ty)).flatMap (fun i =>
    resultElem ty (treeFold g.parents (fun r => chunkElem ty (chunk r).1 i) (collStep ty op) 4 g.keystone))
  let ranks := List.range g.members.length
  (vals, (wordsOf 0 len).filter (fun w => ranks.any (fun r => (chunk r).2.contains w)))

/-! ## The work of the collective die (R400–R402) -/

/-- The packet by which an engine of a package reaches a place: its accesses are checked as those of a channel are.
(Log 43, DEDUCED.) -/
def enginePacket (chip ctag : Nat) (dest : Dest) (va pa : Nat) (bytes : List Byte) (read : Bool) (ntf : Option Nat) : Packet :=
  { key := ⟨chip, 0, 0, dest⟩, ctag := ctag, die := 0, core := 0, gen := 0, seq := 0, rehome := false, ntf := ntf,
    body := if read then .read (.copy 0 0) [⟨va, pa, bytes.length, 0⟩] else .store [⟨va, pa, bytes, false⟩] }

/-- Bytes of an own home, with the poisoned words by offset. -/
def State.bytesAt (s : State) (pa n : Nat) : List Byte × List Nat :=
  (s.memRead pa n, (wordsOf 0 n).filter (fun w => poisonedIn s.poison (pa + w) (min 4 (n - w))))

/-- Where an own page is now, or the state with the record of the fault (R314, R401): it is lost or has no translation,
its die is fenced off, or it is host-shared and its permission has been withdrawn (R434). -/
def State.ownPlace (s : State) (ctx va : Nat) (read : Bool) : Except State (Dest × Nat) :=
  let ctag := (s.context ctx).tag
  let at_ := fun (d : Dest) => enginePacket s.chip ctag d va 0 [] read none
  match s.walk ctx va with
  | .leaf e =>
    let h := homeOf e va
    if leafLost e then .error (s.inboundRecord (at_ h.1) 5 va)
    else if !h.1.host && s.fenced.contains (.die, h.1.die) then .error (s.inboundRecord (at_ h.1) 2 va)
    else if leafHs e && !(leafPerm e).testBit (b2n (!read)) then .error (s.inboundRecord (at_ h.1) 3 va)
    else .ok h
  | _ => .error (s.inboundRecord (at_ ⟨s.chip, 0, false⟩) 2 va)

/-- Write bytes at an own place: in memory, or in the host region (R480). -/
def State.putAt (s : State) (ctx : Nat) (h : Dest × Nat) (x : List Byte × List Nat) : State :=
  if h.1.host then
    let r := ((s.context ctx).region).getD ⟨0, 0, 0, 0⟩
    { s with hostOut := s.hostOut ++ [.regionWrite r.qp r.rkey h.2 x.1] }
  else (s.noteTail h.2 x.1.length).memWrite h.2 x.1 (x.2.map (fun w => h.2 + w))

/-- The bytes at an own place: memory's, or those that a read of the host region gives (R434), where they have come. -/
def State.takeAt (s : State) (ctx : Nat) (h : Dest × Nat) (n : Nat) (inp : CollInput) : Option (State × List Byte × List Nat) :=
  if h.1.host then
    if inp.bytes.length = n then some (s.readRegion ctx h.2 n, inp.bytes, inp.poison) else none
  else some (s, s.bytesAt h.2 n)

/-- The cause that the other side reports, if it is one of R401 that the word can end with: a .put or .get with a fault or
without a path, a .ar with any. -/
def Coll.causeFrom (k : Coll) (inp : CollInput) : Nat :=
  match k.mode with
  | .ar .. => if inp.cause ≤ 6 then inp.cause else 0
  | _ => if inp.cause = 3 || inp.cause = 6 then inp.cause else 0

/-- Change one lane of a COLL. -/
def State.onCollLane (s : State) (id lane : Nat) (f : CollLane → CollLane) : State :=
  match Tab.find s.colls id with
  | none => s
  | some k => { s with colls := Tab.put s.colls id { k with lanes := k.lanes.map (fun l => if l.lane = lane then f l else l) } }

/-- End a COLL that is in flight with a cause (R401). -/
def State.collFail (s : State) (id cause : Nat) : State :=
  match Tab.find s.colls id with
  | none => s
  | some k => { s with colls := Tab.put s.colls id { k with cause := cause } }

/-- The other lanes of the word that are bound for a lane's die. -/
def Coll.beside (k : Coll) (l : CollLane) : List CollLane := k.lanes.filter (fun m => m.lane != l.lane && m.peer == l.peer)

/-- Every other byte of the word bound for a lane's die is visible there (R400). -/
def Coll.lastFor (k : Coll) (l : CollLane) : Bool := (k.beside l).all (fun m => m.done)

/-- A lane that may turn out to be the last for its die waits: every other lane has been sent, and none has failed. -/
def Coll.waitsFor (k : Coll) (l : CollLane) : Bool :=
  !k.lastFor l && (k.beside l).all (fun m => m.cause == 0 && (m.done || m.result.isSome))

/-- A .put on a home of this package: checked, written whole, and notified once the last lane for the die is there. A
page that has moved since is found again. -/
def State.deliverPut (s : State) (w : CollPut) : State × Nat :=
  let p := enginePacket w.chip w.ctag w.dest w.va w.pa w.bytes false w.ntf
  match s.verdict p with
  | .refuse _ record addr => (s.inboundRecord p record addr, 3)
  | .apply => (((s.noteTail w.pa w.bytes.length).memWrite w.pa w.bytes (w.poison.map (fun o => w.pa + o))).notify p, 0)
  | .moved =>
    match (s.ctxByTag w.ctag).bind (fun ctx => s.rehomeVa ctx w.va) with
    | some h => (((s.noteTail h.2 w.bytes.length).memWrite h.2 w.bytes (w.poison.map (fun o => h.2 + o))).notify
        { p with key := ⟨w.chip, 0, 0, h.1⟩ }, 0)
    | none => (s.inboundRecord p 2 w.va, 3)

/-- The bytes that a .get of another package reads at a home of this package, or cause 3 (R400, R401). A page that has
moved since is found again.
(Log 79, DEDUCED.) -/
def State.serveGet (s : State) (w : CollGet) : State × NetMsg :=
  let p := enginePacket w.chip w.ctag w.dest w.va w.pa (List.replicate w.len 0#8) true none
  let fail := (s.inboundRecord p 2 w.va, NetMsg.getDone w [] [] 3)
  match s.verdict p with
  | .refuse _ record addr => (s.inboundRecord p record addr, .getDone w [] [] 3)
  | .apply => (s, .getDone w (s.bytesAt w.pa w.len).1 (s.bytesAt w.pa w.len).2 0)
  | .moved =>
    match (s.ctxByTag w.ctag).bind (fun ctx => s.rehomeVa ctx w.va) with
    | some h => (s, .getDone w (s.bytesAt h.2 w.len).1 (s.bytesAt h.2 w.len).2 0)
    | none => fail

/-- The work of a lane of .put (R400). The bytes are read at their home; the last lane bound for a die carries the
notify. To another package the write is sent, and its acknowledgement ends the lane. -/
def State.putWork (s : State) (id : Nat) (k : Coll) (l : CollLane) (ntf : Option Nat) (inp : CollInput) : State :=
  let fail := fun (s : State) (c : Nat) => s.onCollLane id l.lane (fun m => { m with cause := c })
  match l.result with
  | some _ =>
    if k.causeFrom inp ≠ 0 then fail s (k.causeFrom inp)
    else if inp.acked then s.onCollLane id l.lane (fun m => { m with done := true })
    else s
  | none =>
    let last := k.lastFor l
    if !s.reaches s.chip l.peer.chip then fail s 6
    else if ntf.isSome && k.waitsFor l then s
    else
      match s.ownPlace k.ctx l.localVa true with
      | .error s => fail s 3
      | .ok h =>
        match s.takeAt k.ctx h l.len inp with
        | none => s
        | some (s, x) =>
          let w : CollPut := { chip := s.chip, ctag := (s.context k.ctx).tag, dest := l.peer, va := l.remoteVa, pa := l.remotePa,
                               bytes := x.1, poison := x.2, ntf := if last then ntf else none }
          if l.peer.chip = s.chip then
            let r := s.deliverPut w
            if r.2 ≠ 0 then fail r.1 r.2 else r.1.onCollLane id l.lane (fun m => { m with done := true })
          else { s.onCollLane id l.lane (fun m => { m with result := some x }) with net := s.net ++ [.put w] }

/-- The work of a lane of .get (R400): the remote bytes as they stand at their home, written at the local home. Another
package is asked for them, and its answer comes in. -/
def State.getWork (s : State) (id : Nat) (k : Coll) (l : CollLane) (inp : CollInput) : State :=
  let fail := fun (s : State) (c : Nat) => s.onCollLane id l.lane (fun m => { m with cause := c })
  let write := fun (s : State) (x : List Byte × List Nat) =>
    match s.ownPlace k.ctx l.localVa false with
    | .error s => fail s 3
    | .ok h => (s.putAt k.ctx h x).onCollLane id l.lane (fun m => { m with done := true })
  if l.peer.chip = s.chip then
    match s.ownPlace k.ctx l.remoteVa true with
    | .error s => fail s 3
    | .ok h => (s.takeAt k.ctx h l.len inp).elim s (fun y => write y.1 y.2)
  else if !s.reaches s.chip l.peer.chip then fail s 6
  else if l.result.isNone then
    let w : CollGet := { chip := s.chip, ctag := (s.context k.ctx).tag, dest := l.peer, va := l.remoteVa, pa := l.remotePa,
                         len := l.len }
    { s.onCollLane id l.lane (fun m => { m with result := some ([], []) }) with net := s.net ++ [.get w] }
  else if k.causeFrom inp ≠ 0 then fail s (k.causeFrom inp)
  else if inp.bytes.length ≠ l.len then s
  else write s (inp.bytes, inp.poison)

/-- Do the other members' chunks agree with the word's (R401, cause 5)? -/
def chunksAgree (k : Coll) (ranks : List Nat) (ty : CollType) (op : CollOp) (cs : List Chunk) : Bool :=
  cs.all (fun c => c.ty == ty && c.op == op && k.lanes.any (fun l => l.key == c.key && l.len == c.bytes.length)) &&
    ranks.all (fun r => k.lanes.all (fun l => (cs.filter (fun c => c.rank == r && c.key == l.key)).length == 1))

/-- The own contributions of a .ar, by key, and the state after a fault, or after the reads; none where bytes of the host region
have not come. -/
def State.ownChunks (s : State) (k : Coll) (me : Nat) (inp : CollInput) :
    Except State (Option (State × List (Nat × List Byte × List Nat))) :=
  k.lanes.foldl (fun r l =>
    match r with
    | .ok (some (s, xs)) =>
      match s.ownPlace k.ctx l.localVa true with
      | .error e => .error e
      | .ok h =>
        let mine := inp.chunks.find? (fun c => c.rank == me && c.key == l.key)
        let got := { inp with bytes := (mine.map (fun c => c.bytes)).getD [], poison := (mine.map (fun c => c.poison)).getD [] }
        .ok ((s.takeAt k.ctx h l.len got).map (fun y => (y.1, xs ++ [(l.key, y.2)])))
    | r => r) (.ok (some (s, [])))

/-- The reduction at the keystone, once every member's word has joined: the results of every lane, or the cause with
which the operation ends. A lane whose result is there has it written at its home, unless another member has ended the operation
by then: its grid has aborted, its context has stopped, or its entry has changed. -/
def State.arWork (s : State) (id : Nat) (k : Coll) (l : CollLane) (ty : CollType) (op : CollOp) (g : Nat) (inp : CollInput) :
    State :=
  match l.result with
  | some x =>
    if inp.cause = 1 || inp.cause = 4 then s.collFail id inp.cause
    else
      match s.ownPlace k.ctx l.localVa false with
      | .error s => s.onCollLane id l.lane (fun m => { m with cause := 3 })
      | .ok h => (s.putAt k.ctx h x).onCollLane id l.lane (fun m => { m with done := true })
  | none =>
    match s.groupOf k.ctx g with
    | none => s.collFail id 4
    | some gr =>
      let me := gr.rankOf s.chip
      let ranks := (List.range gr.members.length).filter (fun r => r != me)
      if k.causeFrom inp ≠ 0 then s.collFail id (k.causeFrom inp)
      else if !s.groupWhole gr || !ranks.all (fun r => inp.chunks.any (fun c => c.rank == r)) then s
      else if !chunksAgree k ranks ty op (inp.chunks.filter (fun c => c.rank != me)) then s.collFail id 5
      else
        match s.ownChunks k me inp with
        | .error s => s.collFail id 3
        | .ok none => s
        | .ok (some (s, own)) =>
          let chunk := fun (key r : Nat) =>
            if r = me then Tab.get ([], []) own key
            else ((inp.chunks.find? (fun c => c.rank == r && c.key == key)).map (fun c => (c.bytes, c.poison))).getD ([], [])
          let lanes := k.lanes.map (fun m => { m with result := some (combine gr ty op m.len (chunk m.key)) })
          { s with colls := Tab.put s.colls id { k with lanes := lanes } }

/-- Is a page of the context of a tag being moved? -/
def State.tagWaits (s : State) (ctag va : Nat) : Bool := (s.ctxByTag ctag).any (fun ctx => s.walkWaits ctx va)

/-- COLL_WORK (R400, R401): the work of one lane goes a step on; or a .put, or the request of a .get, of another package
arrives. Each waits while a page of it is being moved (R428). -/
def execCollWork (id lane : Nat) (inp : CollInput) (s : State) : Out :=
  match inp.arrived, inp.asked with
  | some w, _ =>
    if w.dest.chip ≠ s.chip || w.dest.host || w.chip = s.chip || s.tagWaits w.ctag w.va then .next s
    else
      let r := s.deliverPut w
      .next { r.1 with net := r.1.net ++ [.putDone w r.2] }
  | none, some w =>
    if w.dest.chip ≠ s.chip || w.dest.host || w.chip = s.chip || s.tagWaits w.ctag w.va then .next s
    else
      let r := s.serveGet w
      .next { r.1 with net := r.1.net ++ [r.2] }
  | none, none =>
    match Tab.find s.colls id with
    | none => .next s
    | some k =>
      match k.lanes.find? (fun l => l.lane == lane) with
      | none => .next s
      | some l =>
        let waits := k.lanes.any (fun m =>
          s.walkWaits k.ctx m.localVa || (m.peer.chip == s.chip && s.walkWaits k.ctx m.remoteVa))
        if k.cause ≠ 0 || l.done || l.cause ≠ 0 || waits then .next s
        else
          match k.mode with
          | .put ntf => .next (s.putWork id k l ntf inp)
          | .get => .next (s.getWork id k l inp)
          | .ar ty op g _ => .next (s.arWork id k l ty op g inp)

/-- The first register that a pending word fills, and whether it issued in supervisor mode. -/
def Course.pendDest (c : Course) (pid : Nat) : Option (Nat × Bool) :=
  (c.pend.find? (fun p => p.id == pid)).bind (fun p => p.fills.head?.map (fun f => (f.1.n, p.sup)))

/-- w values land in uniform registers from the destination of a pending word. -/
def State.landUnif (s : State) (crs pid w v : Nat) : State :=
  match (s.course crs).pendDest pid with
  | some (d, sup) => s.landPend crs pid ((List.range w).map (fun i => .unif sup (d + i) (regPart v i))) 0#32
  | none => s

/-- COLL_COMPLETE (R401): the status lands, and the operation has completed.
(Log 40, DEDUCED.) -/
def execCollComplete (id : Nat) (s : State) : Out :=
  match Tab.find s.colls id with
  | none => .next s
  | some k =>
    if k.cause = 0 && !k.lanes.all (fun l => l.done || l.cause ≠ 0) then .next s
    else
      let mask := maskOfLanes ((k.lanes.filter (fun l => l.done)).map (fun l => l.lane))
      let cause := if k.cause ≠ 0 then k.cause else (((k.lanes.map (fun l => l.cause)).find? (fun c => c != 0)).getD 0)
      let s := s.landUnif k.crs k.pend 2 (mask.toNat + (cause + b2n k.rebuilt * 2 ^ 8) * 2 ^ 32)
      .next { s.onCourse k.crs (fun c => c.opDone .coll k.count) with colls := Tab.del s.colls id }

/-- COLL_TIMEOUT (R401, R402): some member has not joined within TIMEOUT of the first contribution, which another member
may have made. Cause 6 where a member cannot be reached. -/
def execCollTimeout (id : Nat) (s : State) : Out :=
  match Tab.find s.colls id with
  | none => .next s
  | some k =>
    match k.mode with
    | .ar _ _ g _ =>
      (match s.groupOf k.ctx g with
        | none => .next s
        | some gr =>
          let late := decide (k.since + gr.timeout ≤ s.clock) || 2 < gr.members.length
          if k.cause ≠ 0 || !late || gr.members.length < 2 || k.lanes.any (fun l => l.result.isSome) then .next s
          else .next (s.collFail id (if s.groupWhole gr then 2 else 6)))
    | _ => .next s

/-! ## Rebuilding trees (R393, R402) -/

/-- Rebuild a group's tree: the next generation, and operations not yet final restart on the new tree. -/
def State.rebuildTree (s : State) (ctx n : Nat) (g : Group) : State :=
  let g := { g.treed s.linksDown with gen := (g.gen + 1) % 2 ^ 22 }
  let hit := fun (k : Coll) => match k.mode with
    | .ar _ _ m _ => k.ctx == ctx && m == n && k.lanes.all (fun l => l.result.isNone)
    | _ => false
  ({ s.onContext ctx (fun c => { c with groups := Tab.put c.groups n g }) with
      colls := s.colls.map (fun _ k => if hit k then { k with rebuilt := true } else k) }).count 2 0 65 1

end Sys2Proof.Machine
end

