-- ==== Sys2Proof/Machine/Exchange.lean ====
section
/-! DEFINITION. Exchange windows and domain barriers: XSEND, XRECV and DBAR (R404–R412). -/

namespace Sys2Proof.Machine

/-! ## XSEND (R405, R406) -/

/-- The checks of one lane of XSEND (R406). -/
def State.sendLane (s : State) (x : Ctx) (c : Course) (r : RWord) (S : Nat) (all : List PageAcc) (L : Nat) : Looked :=
  let d := s.collReg x c r L
  let va := d 0 + d 1 * 2 ^ 32
  let fieldOk := fun (v : Nat) => v < 2 ^ 18 && s.inDomain (v % 2 ^ 10)
  let bad := ((List.range 8).map (fun i => r.a.field.toNat + i)).find? (fun q => s.lanePoison c x.sup q L)
  let field := if fieldOk (d 2) && (d 3 == 0x80000000 || fieldOk (d 3)) && d 6 == 0 && d 7 == 0 then none
    else some { x.illegalOperand with lane := some L }
  let wrong := if va % 16 ≠ 0 then some (x.addrTrap 0x08 0 L va 0) else none
  (((Looked.pre (bad.map (fun q => x.dataError (L, q)))).andThen (Looked.pre field)).andThen (Looked.pre wrong)).andThen
    (Looked.each (fun (a : PageAcc) => s.mainPage x c a.va a.need L (all.map (fun b => (b.lane, b.va))) a.rule)
      (pagesOf L va S 1 .package))

/-- The send list of a token at its source: its course and its primary (R407). -/
def sendList (crs chip win : Nat) : Nat := crs * 2 ^ 18 + chip * 2 ^ 8 + win

/-- The tokens of a word, in lane order. -/
def State.tokensOf (s : State) (x : Ctx) (c : Course) (r : RWord) (S id : Nat) : List Token :=
  (lanesOf x.act).map (fun L =>
    let d := s.collReg x c r L
    { schip := s.chip, word := id, lane := L, ctag := (s.context (s.ctxOf c)).tag, primChip := d 2 % 2 ^ 10,
      primWin := d 2 / 2 ^ 10 % 2 ^ 8, sec := if d 3 = 0x80000000 then none else some (d 3 % 2 ^ 10, d 3 / 2 ^ 10 % 2 ^ 8),
      redir := false, list := sendList x.crs (d 2 % 2 ^ 10) (d 2 / 2 ^ 10 % 2 ^ 8), seq := 0, tag := d 4, index := d 5,
      va := d 0 + d 1 * 2 ^ 32, size := S, sent := false, bytes := [], poison := [] })

/-- XSEND (R406). -/
def execXsend (r : RWord) (s : State) : Out :=
  s.issue (.xsend r) r.head (fun x =>
    let c := s.issuer x
    let S := s.uval x c r.b
    let act := lanesOf x.act
    let va := fun (L : Nat) => s.collReg x c r L 0 + s.collReg x c r L 1 * 2 ^ 32
    let all := act.flatMap (fun L => pagesOf L (va L) S 1 .package)
    if x.act = 0#32 then .go s
    else if S % 16 ≠ 0 || S < 16 || 4080 < S then .trap x.illegalOperand
    else
      (Looked.each (s.sendLane x c r S all) act).then <|
        if 255 ≤ c.eng.xch.length then .held (all.map (fun a => a.va)) false
        else
          let id := Tab.fresh s.xsends
          let k : Xsend := { crs := x.crs, pend := c.nextPend, count := c.nextOp, lanes := act, done := [] }
          let ts := s.tokensOf x c r S id
          let s := s.tlbFill (s.ctxOf c) (all.map (fun a => a.va))
          let s := s.addPend x .other .remote (x.fills false r.d.toNat 1) 0#32 0#32
          let s := s.onCourse x.crs (fun c => c.countOp .xch [])
          .go { s with xsends := Tab.put s.xsends id k, tokens := s.tokens ++ ts })

/-! ## The routing engine and the windows (R404, R407, R408) -/

/-- The key of a window of a context of this package. -/
def windowKey (ctx w : Nat) : Nat := ctx * 256 + w

/-- The status of a token goes to the word that sent it. -/
def State.tokenResult (s : State) (t : Token) (slot stat : Nat) : State :=
  let d : TokenDone := ⟨t.lane, slot, stat⟩
  if t.schip = s.chip then
    match Tab.find s.xsends t.word with
    | some k => { s with xsends := Tab.put s.xsends t.word { k with done := k.done ++ [d] } }
    | none => s
  else { s with net := s.net ++ [.tokenStatus t.schip t.word d] }

/-- Forward a token to its secondary with REDIR set; status 3 where no path reaches it (R407). -/
def State.redirect (s : State) (t : Token) (sec : Nat × Nat) : State :=
  if s.reaches s.chip sec.1 then { s with tokens := s.tokens ++ [{ t with redir := true }] } else s.tokenResult t 0 3

/-- The bytes of a token, read at their home by pages; a page that is lost by now gives poisoned words, and what the
host region gives is free. -/
def State.tokenBytes (s : State) (ctx : Nat) (t : Token) : State × List Byte × List Nat :=
  (segments t.va t.size).foldl (fun (a : State × List Byte × List Nat) p =>
    let bad := (wordsOf 0 p.2.2).map (fun w => p.2.1 + w)
    match s.rehomeVa ctx p.1 with
    | some h =>
      if h.1.host then
        (a.1.readRegion ctx h.2 p.2.2,
         a.2.1 ++ (List.range p.2.2).map (fun j => BitVec.ofNat 8 (Config.freeNat s.stamp (2 ^ 47 + p.2.1 + j))), a.2.2)
      else
        let y := s.bytesAt h.2 p.2.2
        (a.1, a.2.1 ++ y.1, a.2.2 ++ y.2.map (fun w => p.2.1 + w))
    | none => (a.1, a.2.1 ++ List.replicate p.2.2 0#8, a.2.2 ++ bad)) (s, [], [])

/-- Must the routing engine wait with a token: a page of it is being moved (R428, R430)? -/
def State.tokenWaits (s : State) (t : Token) : Bool :=
  (s.ctxByTag t.ctag).any (fun ctx => (segments t.va t.size).any (fun p => s.walkWaits ctx p.1))

/-- The routing engine reads a token and sends it: it is the next of its send list; without a path to its primary it
goes to its secondary (R407). -/
def State.routeToken (s : State) (t : Token) : State :=
  let ctx := (s.ctxByTag t.ctag).getD 0
  let r := s.tokenBytes ctx t
  let s := r.1
  let x := r.2
  let n := Tab.get 0 s.listSent t.list
  let t1 := { t with sent := true, seq := n, bytes := x.1, poison := x.2 }
  if s.reaches s.chip t.primChip then
    { s with tokens := s.tokens.map (fun y => if y = t then t1 else y), listSent := Tab.put s.listSent t.list (n + 1) }
  else
    let s := { s with tokens := s.tokens.erase t }
    match t.sec with
    | some sec => s.redirect t1 sec
    | none => s.tokenResult t1 0 3

/-- The header of a token (R408). -/
def tokenHeader (t : Token) : List Byte :=
  bytesOf 16 (t.primChip * 2 ^ 112 + t.primWin * 2 ^ 104 + b2n t.redir * 2 ^ 96 + t.size * 2 ^ 80 + t.schip * 2 ^ 64 +
    t.index * 2 ^ 32 + t.tag)

/-- Write bytes from a virtual address of a window on, in units of 16 bytes: none where the memory faults (R407). -/
def State.windowWrite (s : State) (ctx va : Nat) (x : List Byte × List Nat) : Except State State :=
  let units := List.range (x.1.length / 16)
  match units.findSome? (fun i => match s.ownPlace ctx (va + 16 * i) false with
    | .error e => some e
    | .ok _ => none) with
  | some e => .error e
  | none =>
    .ok (units.foldl (fun s i =>
      match s.ownPlace ctx (va + 16 * i) false with
      | .ok h =>
        s.putAt ctx h ((x.1.drop (16 * i)).take 16,
          (x.2.filter (fun w => 16 * i ≤ w && w < 16 * (i + 1))).map (fun w => w - 16 * i))
      | .error e => e) s)

/-- The window's event counter rises with V at the window's die (R305, R407). -/
def State.windowNotify (s : State) (ctx : Nat) (t : Token) (w : Window) : State :=
  if w.counter = 0xFFFFFFFF then s
  else
    match s.ownPlace ctx w.base false with
    | .ok h => s.notify (enginePacket t.schip t.ctag h.1 w.base h.2 [] false (some w.counter))
    | .error _ => s

/-- A token at a window (R407): placed, forwarded, dropped, or refused with status 3. -/
def State.placeToken (s : State) (t : Token) (win : Nat) : State :=
  let full := fun (s : State) =>
    match t.redir, t.sec with
    | false, some sec => (s.count 2 0 66 1).redirect t sec
    | _, _ => (s.count 2 0 67 1).tokenResult t 0 2
  match s.ctxByTag t.ctag with
  | none => s.tokenResult t 0 3
  | some ctx =>
    match Tab.find s.windows (windowKey ctx win) with
    | none => s.tokenResult t 0 3
    | some w =>
      if 64 * w.z < t.size + 16 then s.tokenResult t 0 3
      else if w.n ≤ (w.f + 2 ^ 32 - w.fr) % 2 ^ 32 then full s
      else
        let slot := w.f % w.n
        match s.windowWrite ctx (w.base + 64 * w.z * slot) (tokenHeader t ++ t.bytes, t.poison.map (fun o => o + 16)) with
        | .error e => e.tokenResult t 0 3
        | .ok s =>
          let w := { w with f := (w.f + 1) % 2 ^ 32, v := (w.v + 1) % 2 ^ 32 }
          let s := { s with windows := Tab.put s.windows (windowKey ctx win) w }
          (s.windowNotify ctx t w).tokenResult t slot (if t.redir then 1 else 0)

/-- Is a token the next of its list to be sent by the routing engine? -/
def State.nextToSend (s : State) (t : Token) : Bool :=
  (s.tokens.find? (fun y => y.schip == s.chip && !y.sent && y.list == t.list)) == some t

/-- The key under which this package orders the tokens of a send list. -/
def listKey (t : Token) : Nat := t.list * 1024 + t.schip

/-- TOKEN_ARRIVAL (R14, R407): the routing engine sends the token, unless a page of it is being moved; or the collective die of its destination handles it,
in list order unless it was forwarded. -/
def execTokenArrival (t : Token) (s : State) : Out :=
  if !t.sent then (if t.schip = s.chip && s.tokens.contains t && s.nextToSend t && !s.tokenWaits t then .next (s.routeToken t) else .next s)
  else
    let known := s.tokens.contains t
    let s1 := { s with tokens := s.tokens.erase t }
    if !known && t.schip = s.chip && !t.redir then .next s
    else if t.redir then
      match t.sec with
      | some sec => if sec.1 = s.chip then .next (s1.placeToken t sec.2) else .next s
      | none => .next s
    else if t.primChip ≠ s.chip || Tab.get 0 s.listNext (listKey t) ≠ t.seq then .next s
    else .next ({ s1 with listNext := Tab.put s1.listNext (listKey t) (t.seq + 1) }.placeToken t t.primWin)

/-- The status word of a token (R409): no slot with status 2 or 3. -/
def TokenDone.word (d : TokenDone) : Word :=
  let stat := d.stat % 4
  wd (if 2 ≤ stat then stat else d.slot % 2 ^ 16 * 2 ^ 16 + stat)

/-- XSEND_STATUS (R409, R496): every token of a word has its status, those of other packages included, and the statuses
land. -/
def execXsendStatus (id : Nat) (far : List TokenDone) (s : State) : Out :=
  match Tab.find s.xsends id with
  | none => .next s
  | some k =>
    let here := fun (L : Nat) => s.tokens.any (fun t => t.schip == s.chip && t.word == id && t.lane == L && !(t.sent &&
      (if t.redir then t.sec.any (fun e => e.1 != s.chip) else t.primChip != s.chip)))
    let all := k.done ++ far.filter (fun d => !k.done.any (fun e => e.lane == d.lane))
    if !k.lanes.all (fun L => all.any (fun d => d.lane == L) && !here L) then .next s
    else
      let word := fun (L : Nat) => ((all.find? (fun d => d.lane == L)).map TokenDone.word).getD 0#32
      let s := { s with tokens := s.tokens.filter (fun t => !(t.schip == s.chip && t.word == id)), xsends := Tab.del s.xsends id }
      let s := match (s.course k.crs).pendDest k.pend with
        | some (d, sup) => s.landPend k.crs k.pend (k.lanes.map (fun L => .lane sup d L (word L) false)) 0#32
        | none => s
      .next (s.onCourse k.crs (fun c => c.opDone .xch k.count))

/-! ## XRECV (R404, R410) -/

/-- An XRECV issues: it counts, and acts on its window as its answer lands. -/
def State.windowWord (s : State) (x : Ctx) (r : RWord) (w : Nat) (act : WindowAct) : Res :=
  let c := s.issuer x
  let win := s.uval x c r.a
  if x.act = 0#32 then .go s
  else if (s.lrOf c).windows ≤ win then .trap x.illegalOperand
  else if 255 ≤ c.eng.xch.length then .block false
  else
    let s := s.addPend x .other (.window win act c.nextOp r.d.toNat x.sup) (x.fills true r.d.toNat w) 0#32 0#32
    .go (s.onCourse x.crs (fun c => c.countOp .xch []))

/-- XRECV (R410). -/
def execXrecv (r : RWord) (s : State) : Out :=
  s.issue (.xrecv r) r.head (fun x => s.windowWord x r 2 (.claim (s.uval x (s.issuer x) r.b)))
/-- XRECV.free. -/
def execXrecvFree (r : RWord) (s : State) : Out :=
  s.issue (.xrecvFree r) r.head (fun x => s.windowWord x r 1 (.free (s.uval x (s.issuer x) r.b)))
/-- XRECV.cfg: the descriptor registers are read at issue. -/
def execXrecvCfg (r : RWord) (s : State) : Out :=
  s.issue (.xrecvCfg r) r.head (fun x =>
    let c := s.issuer x
    let u := fun i => (s.unifVal c x.sup (r.b.field.toNat + i)).toNat
    s.windowWord x r 1 (.cfg (u 0 + u 1 * 2 ^ 32) (u 2 % 2 ^ 16) (u 2 / 2 ^ 16) (u 3) (s.lrOf c).events))
/-- XRECV.stat. -/
def execXrecvStat (r : RWord) (s : State) : Out :=
  s.issue (.xrecvStat r) r.head (fun x => s.windowWord x r 2 .stat)

/-- Does a descriptor meet R404? -/
def State.windowOk (s : State) (ctx base n z counter events : Nat) : Bool :=
  let pages := pagesOf 0 base (64 * z * n) 2 .package
  let leaf := fun (va : Nat) => match s.translate ctx va with
    | .leaf e => some e
    | _ => none
  let die := fun (va : Nat) => (leaf va).map leafDie
  base % 64 == 0 && 1 ≤ n && 1 ≤ z && z ≤ 64 && base + 64 * z * n ≤ Config.addrLimit &&
    (counter == 0xFFFFFFFF || decide (counter < events)) &&
    pages.all (fun a => (leaf a.va).any (fun e =>
      leafPerm e &&& 3 == 3 && leafChip e == s.chip && !leafHs e && !leafLost e) && die a.va == die base)

/-- Is a token in flight to a window? Those of other packages may be on their way unseen. -/
def State.tokenInFlight (s : State) (ctx w : Nat) : Bool :=
  s.tokens.any (fun t => s.ctxByTag t.ctag == some ctx &&
      (if t.redir then t.sec == some (s.chip, w) else t.primChip == s.chip && t.primWin == w)) ||
    (1 < s.domain && Config.freeBit s.stamp (2 ^ 47))

/-- What an XRECV does to its window, and what it delivers (R410).
(Log 41, DEDUCED.) -/
def State.windowAct (s : State) (ctx w : Nat) (act : WindowAct) : State × Nat :=
  let old := Tab.find s.windows (windowKey ctx w)
  let put := fun (y : Window) => { s with windows := Tab.put s.windows (windowKey ctx w) y }
  match act, old with
  | .cfg base n z k events, _ =>
    if !s.windowOk ctx base n z k events then (s, 2)
    else if old.any (fun y => y.f != y.fr) || s.tokenInFlight ctx w then (s, 1)
    else (put { base := base, n := n, z := z, counter := k }, 0)
  | _, none => (s, 0)
  | .claim n, some y =>
    let m := min n ((y.v + 2 ^ 32 - y.c) % 2 ^ 32)
    (put { y with c := (y.c + m) % 2 ^ 32 }, y.c + m * 2 ^ 32)
  | .free n, some y =>
    let m := min n ((y.c + 2 ^ 32 - y.fr) % 2 ^ 32)
    (put { y with fr := (y.fr + m) % 2 ^ 32 }, m)
  | .stat, some y => (s, y.v + y.c * 2 ^ 32)

/-! ## DBAR (R411) -/

/-- A domain barrier of a context with the group to which it is bound. -/
def State.dbarOf (s : State) (ctx b : Nat) : Option (DBar × Group) :=
  (Tab.find (s.context ctx).dbars b).bind (fun d => (s.groupOf ctx d.group).map (fun g => (d, g)))

/-- Write a domain barrier. -/
def State.setDbar (s : State) (ctx b : Nat) (d : DBar) : State :=
  s.onContext ctx (fun c => { c with dbars := Tab.put c.dbars b d })

/-- The barrier of a DBAR word, where the word is legal. -/
def State.dbarFor (s : State) (x : Ctx) (b : Nat) : Option DBar :=
  match s.dbarOf (s.ctxOf (s.issuer x)) b with
  | some (d, g) => if b ≤ 63 && g.members.contains s.chip then some d else none
  | none => none

/-- Has phase P of a domain barrier completed? -/
def DBar.passed (d : DBar) (P : Nat) : Bool :=
  let k := (d.completed + 2 ^ 16 - P % 2 ^ 16) % 2 ^ 16
  1 ≤ k && k ≤ 32768

/-- DBAR.arr (R335, R411): the team's shadow copies merge, and the arrival is held until its earlier operations are
settled. -/
def execDbarArr (r : RWord) (s : State) : Out :=
  s.issue (.dbarArr r) r.head (fun x =>
    let c := s.issuer x
    let b := s.uval x c r.a
    if x.act = 0#32 then .go s
    else
      match s.dbarFor x b with
      | none => .trap x.illegalOperand
      | some _ =>
        let s := (s.mergeAll c.team).pump c.team
        let a : DbarArr := { crs := x.crs, team := c.team, pend := c.nextPend, bar := b, upto := s.nextOpOf c.team }
        let s := s.addPend x .other .remote (x.fills true r.d.toNat 1) 0#32 0#32
        .go { s with dbarArrs := Tab.put s.dbarArrs (Tab.fresh s.dbarArrs) a })

/-- DBAR_ARRIVAL_COUNTED (R335, R411): the arrival counts, and its phase is delivered. A second arrival of the package
in one phase counts toward the next. What an arrival delivers whose barrier has been unbound is not stated. -/
def execDbarArrivalCounted (id : Nat) (s : State) : Out :=
  match Tab.find s.dbarArrs id with
  | none => .next s
  | some a =>
    let ctx := (s.gridOf a.team).ctx
    if !(s.team a.team).drained 0xFFFF a.upto true then .next s
    else
      let s := { s with dbarArrs := Tab.del s.dbarArrs id }
      match Tab.find (s.context ctx).dbars a.bar with
      | none => .next (s.landUnif a.crs a.pend 1 (Config.freeNat s.stamp (2 ^ 55) % 2 ^ 32))
      | some d =>
        let phase := (d.completed + d.arrivals) % 2 ^ 16
        let s := s.setDbar ctx a.bar { d with arrivals := d.arrivals + 1, since := if d.arrivals = 0 then some s.clock else d.since }
        .next (s.landUnif a.crs a.pend 1 phase)

/-- DBAR.wait (R411): an acquire when it completes. -/
def execDbarWait (r : RWord) (s : State) : Out :=
  s.issue (.dbarWait r) r.head (fun x =>
    let c := s.issuer x
    let b := s.uval x c r.a
    let P := s.uval x c r.b % 2 ^ 16
    if x.act = 0#32 then .go s
    else
      match s.dbarFor x b with
      | none => .trap x.illegalOperand
      | some d => if d.passed P then .go (s.acquire c.team) else .wait s (.dbar b P))

/-- Let a slot go on that waits for a domain barrier's phase, if the phase has completed. -/
def State.wakeDbar (s : State) (crs j : Nat) : State :=
  let c := s.course crs
  match (c.slotN j).wait with
  | .dbar b P =>
    match Tab.find (s.context (s.ctxOf c)).dbars b with
    | some d => if s.running c && d.passed P then (s.acquire c.team).advance crs j (c.slotN j).act else s
    | none => s
  | _ => s

/-- DBAR_PHASE_COMPLETE (R411, R412): this package and every other member have arrived; the waiting courses go on. -/
def execDbarPhaseComplete (ctx b : Nat) (arrived : List Nat) (s : State) : Out :=
  match s.dbarOf ctx b with
  | none => .next s
  | some (d, g) =>
    if d.arrivals = 0 || !g.members.all (fun m => m == s.chip || arrived.contains m) then .next s
    else
      let s := s.setDbar ctx b { d with completed := (d.completed + 1) % 2 ^ 16, arrivals := d.arrivals - 1,
                                        since := if d.arrivals = 1 then none else some s.clock }
      .next ((s.courses.keys (fun _ _ => true)).foldl (fun s h =>
        if s.ctxOf (s.course h) = ctx then (s.wakeDbar h 0).wakeDbar h 1 else s) s)

/-- DBAR_TIMEOUT (R411, R483): a phase has stayed incomplete for longer than the group's TIMEOUT. -/
def execDbarTimeout (ctx b : Nat) (s : State) : Out :=
  match s.dbarOf ctx b with
  | none => .next s
  | some (d, g) =>
    if d.since.any (fun n => n + g.timeout < s.clock) then
      .next ((s.setDbar ctx b { d with since := none }).mgmt ctx 6 (le 4 b ++ le 4 d.completed))
    else .next s

end Sys2Proof.Machine
end

