-- ==== Sys2Proof/Machine/Paging.lean ====
section
/-! DEFINITION. The device-local pool, first touch, permissions, invalidation, migration and evacuation
(R424–R434, R478). -/

namespace Sys2Proof.Machine

/-! ## The pool (R427, R478) -/

/-- The number of a frame in the package. -/
def Frame.no (f : Frame) : Nat := frameNo f.die f.tier f.n

/-- Does one of a list of leaves and blocks map a frame of this package? -/
def State.mapsFrame (s : State) (maps : List (Nat × Nat × Nat)) (n : Nat) : Bool :=
  maps.any (fun p => leafChip p.2.1 == s.chip && !leafHost p.2.1 && leafFrameNo p.2.1 ≤ n && n < leafFrameNo p.2.1 + p.2.2)

/-- Is a die in service? -/
def State.inService (s : State) (die : Nat) : Bool := !s.fenced.contains (.die, die)

/-- The tables of a context below its root entry, top down: an address that each covers, and its level (R415). -/
def State.tables (s : State) (ctx : Nat) : List (Nat × Nat) :=
  let root := (s.context ctx).root
  let under := fun (e va lvl : Nat) => (s.usedEntries (tableAddr e)).filterMap (fun i =>
    match s.entryAt (tableAddr e + 8 * i) with
    | some x => if tableOk x then some (va + i * 2 ^ (52 - 12 * lvl), x) else none
    | none => none)
  if !tableOk root then []
  else
    let l2 := under root 0 1
    (0, 1) :: l2.map (fun p => (p.1, 2)) ++ l2.flatMap (fun p => (under p.2 p.1 2).map (fun q => (q.1, 3)))

/-- The entry that names the table of a level over an address, and where it lies: the root entry lies in no table. -/
def State.tableName (s : State) (ctx va lvl : Nat) : Option (Option Nat × Nat) :=
  let root := (s.context ctx).root
  let under := fun (e l : Nat) =>
    let a := tableAddr e + entryOfs va l
    if tableOk e then (s.entryAt a).bind (fun x => if tableOk x then some (some a, x) else none) else none
  match lvl with
  | 1 => if tableOk root then some (none, root) else none
  | 2 => under root 1
  | _ => (under root 1).bind (fun p => under p.2 2)

/-- The frames that hold tables of a context. -/
def State.tableFrames (s : State) (ctx : Nat) : List Nat :=
  (s.tables ctx).filterMap (fun t => (s.tableName ctx t.1 t.2).map (fun n => tableAddr n.2 / 2 ^ 16))

/-- Is a frame in use: by a leaf or a table of some context, or for a page that is being moved? -/
def State.usesFrame (s : State) : Nat → Bool :=
  let ctxs := s.contexts.keys (fun _ _ => true)
  let maps := ctxs.flatMap s.mapped
  let tables := ctxs.flatMap s.tableFrames
  fun n => s.mapsFrame maps n || tables.contains n ||
    s.moves.any (fun m => leafFrameNo m.leaf == n || Frame.no m.frame == n)

/-- The free frames of a context's pool that meet a test, on dies in service. -/
def State.freeFrames (s : State) (ctx : Nat) (ok : Frame → Bool) : List Frame :=
  let used := s.usesFrame
  ((s.context ctx).pool.filter (fun e => e.2 == .free && ok e.1 && s.inService e.1.die && !used (Frame.no e.1))).map
    (fun e => e.1)

/-- Some frame of a list: any of them.
(Log 50, DESIGN CHOICE.) -/
def State.pickFrame (s : State) (l : List Frame) : Option Frame := l[Config.freeNat s.stamp (2 ^ 49) % l.length]?

/-- Note what holds a frame of a pool. -/
def State.setUse (s : State) (ctx n : Nat) (u : FrameUse) : State :=
  s.onContext ctx (fun c => { c with pool := c.pool.map (fun e => if Frame.no e.1 = n then (e.1, u) else e) })

/-- Write zero to n bytes of main memory, with good ECC. -/
def State.zeroRange (s : State) (a n : Nat) : State :=
  let hit := fun (k : Nat) => a ≤ k && k < a + n
  { s with mem := s.mem.filter (fun c => !hit c.1), poison := s.poison.filter (fun w => !hit w),
           farLines := s.farLines.filter (fun f => !(f.chip == s.chip && hit (f.line * 128))) }

/-- The dies of a placement, in the order in which they are tried (R424). -/
def placeDies (p here : Nat) : List Nat :=
  let d := if p % 16 = 15 then here else p % 16
  if p.testBit 5 then (List.range 8).map (fun i => (d + i) % 8) else [d]

/-- A free frame at a placement: on the first of its dies that has one. -/
def State.frameAt (s : State) (ctx p here : Nat) : Option Frame :=
  let tier := b2n (p.testBit 4)
  let free := s.freeFrames ctx (fun f => f.tier == tier)
  (placeDies p here).findSome? (fun d => s.pickFrame (free.filter (fun f => f.die == d)))

/-- A leaf that maps a frame of this package. -/
def State.newLeaf (s : State) (f : Frame) (perm : Nat) : Nat :=
  s.chip * 2 ^ 45 + f.die * 2 ^ 42 + f.tier * 2 ^ 41 + f.n * 2 ^ 20 + perm * 2 ^ 3 + 2

/-- Write the level-3 entry of a page. -/
def State.setLeaf (s : State) (ctx va e : Nat) : State :=
  match s.leafEntryAddr ctx va with
  | some a => s.memWrite a (bytesOf 8 e) []
  | none => s

/-! ## PGMAP (R425) -/

/-- Map a first-touch page: the state and the status. -/
def State.mapPage (s : State) (ctx va p here : Nat) : State × Nat :=
  match s.walk ctx va with
  | .leaf _ => (s, 1)
  | .fault 2 _ =>
    match s.frameAt ctx p here, (s.leafEntryAddr ctx va).bind s.entryAt with
    | some f, some e =>
      (((s.zeroRange (Frame.no f * 2 ^ 16) (2 ^ 16)).setUse ctx (Frame.no f) .page).setLeaf ctx va (s.newLeaf f (leafPerm e)), 0)
    | _, _ => (s, 2)
  | _ => (s, 3)

/-- PGMAP (R424, R425). The spec gives the trap of an address outside the space no access kind: it is left free.
(Log 45, DEDUCED.) -/
def execPgmap (r : RWord) (s : State) : Out :=
  s.issue (.pgmap r) r.head (fun x =>
    let c := s.issuer x
    let ctx := s.ctxOf c
    let a := s.val x c r.a 2 0
    let va := a / 2 ^ 16 * 2 ^ 16
    let p := s.uval x c r.b
    if x.act = 0#32 then .go s
    else if !placementOk p then .trap x.illegalOperand
    else if Config.addrLimit ≤ va then
      .trap { x.trap 0x07 with sub := 2, addr := a, info := Config.freeNat s.stamp (2 ^ 21) % 3 }
    else if s.walk ctx va == .wait then .block false
    else
      let y := s.mapPage ctx va p (dieOf c.core)
      y.1.deliverU x r.d.toNat 1 y.2)

/-! ## Splinters and contiguous groups (R419, R427) -/

/-- Half a frame for a splinter's table in a tier of a die: the upper half of one begun, else a fresh one's lower. -/
def State.halfFrame (s : State) (ctx die tier : Nat) : Option (Frame × Nat) :=
  match (s.context ctx).pool.find? (fun e =>
    e.2 == .upperHalfFree && e.1.die == die && e.1.tier == tier && s.inService die) with
  | some e => some (e.1, 1)
  | none => (s.pickFrame (s.freeFrames ctx (fun f => f.die == die && f.tier == tier))).map (fun f => (f, 0))

/-- Half a frame for a splinter's table: on the die of the level-2 table, first in its tier (R427); and for the evacuation of
a die also on the others (R432). -/
def State.splinterHalf (s : State) (ctx die tier : Nat) (anyDie : Bool) : Option (Frame × Nat) :=
  let on := fun (d : Nat) => (s.halfFrame ctx d tier).orElse (fun _ => s.halfFrame ctx d (1 - tier))
  (on die).orElse (fun _ => if anyDie then (List.range Config.dies).findSome? on else none)

/-- The far lines of the pages of a block are dropped (R328). -/
def State.dropBlock (s : State) (ctx va : Nat) : State :=
  { s with farLines := s.farLines.filter (fun f => !(f.ctx == ctx && f.va / 2 ^ 28 == va / 2 ^ 28)) }

/-- Replace the block that covers an address by a table of leaves that map the same frames (R427); none where no frame
is free for it. A page that no block covers needs no splinter. -/
def State.splinter (s : State) (ctx va : Nat) (anyDie : Bool) : Option State :=
  match s.level2 ctx va with
  | none => some s
  | some (die, tier, a2, e2) =>
    if entryType e2 ≠ 2 then some s
    else
      match s.splinterHalf ctx die tier anyDie with
      | none => none
      | some (f, half) =>
        let ofs := f.n * 2 ^ 16 + half * 2 ^ 15
        let base := physAddr f.die f.tier ofs
        let leaf := fun (i : Nat) => (e2 ||| 2 ^ 58) + i * 2 ^ 20
        let s := s.setUse ctx (Frame.no f) (if half = 0 then .upperHalfFree else .table)
        let s := (List.range 4096).foldl (fun s i => s.memWrite (base + 8 * i) (bytesOf 8 (leaf i)) []) s
        some ((s.memWrite a2 (bytesOf 8 (f.die * 2 ^ 42 + f.tier * 2 ^ 41 + ofs + 1)) []).dropBlock ctx va)

/-- Do sixty-four entries form a contiguous group (R419)? -/
def isGroup (es : List Nat) : Bool :=
  match es with
  | [] => false
  | e :: _ =>
    leafFrame e % 64 == 0 && es.zipIdx.all (fun (p : Nat × Nat) =>
      entryType p.1 == 2 && leafCh p.1 && bitsOf p.1 62 41 == bitsOf e 62 41 && leafPerm p.1 == leafPerm e &&
        leafFrame p.1 == leafFrame e + p.2)

/-- Clear CH in every leaf of the group that holds a page (R426, R430). -/
def State.clearGroup (s : State) (ctx va : Nat) : State :=
  match s.leafEntryAddr ctx (va / 2 ^ 22 * 2 ^ 22) with
  | none => s
  | some t =>
    let es := (List.range 64).filterMap (fun k => s.entryAt (t + 8 * k))
    if es.length = 64 && isGroup es then
      es.zipIdx.foldl (fun s (p : Nat × Nat) => s.memWrite (t + 8 * p.2) (bytesOf 8 (p.1 - 2 ^ 58)) []) s
    else s

/-- The page as a leaf of its own: blocks are splintered and groups split. None where no frame is free. -/
def State.ownLeaf (s : State) (ctx va : Nat) : Option State := (s.splinter ctx va false).map (fun s => s.clearGroup ctx va)

/-! ## PGPROT, TLBINV and CINV (R426, R428, R429) -/

/-- Does an address lie in an authorised code section of its context (R45, R461)? -/
def State.inCode (s : State) (ctx va : Nat) : Bool :=
  (s.context ctx).objects.any (fun o => o.code.any (fun r => r.1 ≤ va && va < r.1 + r.2))

/-- Has a page bytes of an authorised code section of its context (R426, R461)? -/
def State.pageInCode (s : State) (ctx va : Nat) : Bool :=
  let page := va / 2 ^ 16 * 2 ^ 16
  (s.context ctx).objects.any (fun o => o.code.any (fun r => r.1 < page + 2 ^ 16 && page < r.1 + r.2))

/-- A leaf with other permissions. -/
def withPerm (e perm : Nat) : Nat := e / 64 * 64 + perm % 8 * 8 + e % 8

/-- Set the permissions of a page whatever it is (R426, R480): none where a splinter finds no frame. -/
def State.setPerm (s : State) (ctx va perm : Nat) : Option State :=
  match s.ownLeaf ctx va with
  | none => none
  | some s =>
    match s.walk ctx va with
    | .leaf e => some ((s.setLeaf ctx va (withPerm e perm)).invalidate ctx (some (va / 2 ^ 16)))
    | _ => some s

/-- Set the permissions of a page: the state and the status.
(Log 51, DEDUCED.) -/
def State.protPage (s : State) (ctx va perm : Nat) : State × Nat :=
  if Config.addrLimit ≤ va then (s, 3)
  else
    match s.walk ctx va with
    | .leaf e =>
      if leafLost e then (s, 3)
      else if leafHs e || s.pageInCode ctx va then (s, 4)
      else
        match s.setPerm ctx va perm with
        | some s => (s, 0)
        | none => (s, 2)
    | _ => (s, 3)

/-- Does a permission change of a page wait: the page is being moved? -/
def State.protWaits (s : State) (ctx va : Nat) : Bool := va < Config.addrLimit && s.walkWaits ctx va

/-- PGPROT (R426). Operations that issue before it completes may be checked under the old permissions or the new: it changes
the leaf either at once, its status landing later, or as its status lands. -/
def execPgprot (r : RWord) (s : State) : Out :=
  s.issue (.pgprot r) r.head (fun x =>
    let c := s.issuer x
    let ctx := s.ctxOf c
    let va := s.val x c r.a 2 0 / 2 ^ 16 * 2 ^ 16
    let perm := s.uval x c r.b
    if x.act = 0#32 then .go s
    else if s.protWaits ctx va then .block false
    else if Config.freeBit s.stamp (2 ^ 43) then
      .go (s.addPend x .other (.perm va perm r.d.toNat x.sup) (x.fills true r.d.toNat 1) 0#32 0#32)
    else
      let y := s.protPage ctx va perm
      y.1.deliverU x r.d.toNat 1 y.2)

/-- TLBINV.pg (R428). -/
def execTlbinvPg (r : RWord) (s : State) : Out :=
  s.issue (.tlbinvPg r) r.head (fun x =>
    let c := s.issuer x
    if x.act = 0#32 then .go s else .go (s.invalidate (s.ctxOf c) (some (s.val x c r.a 2 0 / 2 ^ 16))))

/-- TLBINV.ctx (R428). -/
def execTlbinvCtx (h : Head) (s : State) : Out :=
  s.issue (.tlbinvCtx h) h (fun x => if x.act = 0#32 then .go s else .go (s.invalidate (s.ctxOf (s.issuer x)) none))

/-- Remove lines of a context from every instruction cache of the package: those that meet a test on the line. -/
def State.dropLines (s : State) (ctx : Nat) (hit : Nat → Bool) : State :=
  { s with cores := s.cores.map (fun _ k => { k with icache := k.icache.filter (fun l => !(l.ctx == ctx && hit l.line)) }) }

/-- CINV (R429). -/
def execCinv (r : RWord) (s : State) : Out :=
  s.issue (.cinv r) r.head (fun x =>
    let c := s.issuer x
    let line := s.val x c r.a 2 0 / 128
    let n := s.uval x c r.b
    if x.act = 0#32 then .go s
    else if n = 0 || 127 < n then .trap x.illegalOperand
    else .go (s.dropLines (s.ctxOf c) (fun k => line ≤ k && k < line + n)))

/-- CINV.ctx (R429). -/
def execCinvCtx (h : Head) (s : State) : Out :=
  s.issue (.cinvCtx h) h (fun x => if x.act = 0#32 then .go s else .go (s.dropLines (s.ctxOf (s.issuer x)) (fun _ => true)))

/-! ## Migration (R430) -/

/-- Copy n bytes of main memory with their poison. -/
def State.copyRange (s : State) (a b n : Nat) : State :=
  let hit := fun (k : Nat) => a ≤ k && k < a + n
  let s1 := s.zeroRange b n
  { s1 with mem := (s.mem.filter (fun c => hit c.1)).foldr (fun c m => cellPut m (c.1 - a + b) c.2) s1.mem
            poison := (s.poison.filter hit).foldl (fun p w => insertNat p (w - a + b)) s1.poison }

/-- Begin to move a page, which has a leaf of its own, to a frame (R430, steps 1 to 3): the frame is taken, MIG is set, the
translations are gone, and the old home refuses what comes for the page. -/
def State.beginMove (s : State) (ctx va e : Nat) (f : Frame) : State :=
  let page := va / 2 ^ 16
  let s := ((s.setUse ctx (Frame.no f) .page).setLeaf ctx va (e ||| 2 ^ 62)).invalidate ctx (some page)
  { s with moves := s.moves ++ [⟨ctx, va, e, f⟩], moved := (ctx, page, leafFrameNo e) :: s.moved }

/-- What held a frame of a pool is in another now, and the frame is free. -/
def State.passUse (s : State) (ctx old new : Nat) : State :=
  match (s.context ctx).pool.find? (fun p => Frame.no p.1 == old && p.2 != .free) with
  | some p => (s.setUse ctx new p.2).setUse ctx old .free
  | none => s

/-- A leaf with another frame of this package. -/
def withFrame (e : Nat) (f : Frame) : Nat :=
  e - leafDie e * 2 ^ 42 - leafTier e * 2 ^ 41 - leafFrame e * 2 ^ 20 + f.die * 2 ^ 42 + f.tier * 2 ^ 41 + f.n * 2 ^ 20

/-- End the move of a page (R430, steps 4 and 5): the bytes are copied, and the leaf names the new home. -/
def State.endMove (s : State) (m : PageMove) : State :=
  let old := leafFrameNo m.leaf
  let new := Frame.no m.frame
  let s := s.copyRange (old * 2 ^ 16) (new * 2 ^ 16) (2 ^ 16)
  let s := s.passUse m.ctx old new
  let s := s.onContext m.ctx (fun c => { c with objects := c.objects.map (fun o =>
    { o with frames := o.frames.map (fun n => if n = old then new else n) }) })
  let s := s.setLeaf m.ctx m.va (withFrame m.leaf m.frame)
  let s := { s with moves := s.moves.filter (fun k => k != m)
                    moved := s.moved.filter (fun k => k != (m.ctx, m.va / 2 ^ 16, new)) }
  (s.count 1 m.frame.die 8 1).count 1 (leafDie m.leaf) 9 1

/-- Move a page at once. -/
def State.moveTo (s : State) (ctx va e : Nat) (f : Frame) : State := (s.beginMove ctx va e f).endMove ⟨ctx, va, e, f⟩

/-- Is a packet half applied that has elements in a frame: the move of its page waits until it is applied? -/
def State.partIn (s : State) (frame : Nat) : Bool :=
  s.ingress.any (fun g => g.part.any (fun p => (packetElems p.body).any (fun e => e.2.1 / 2 ^ 16 == frame)))

/-- Is a page part of a configured exchange window? -/
def State.inWindow (s : State) (ctx va : Nat) : Bool :=
  s.windows.any (fun k w => k / 256 == ctx &&
    w.base / 2 ^ 16 ≤ va / 2 ^ 16 && va / 2 ^ 16 ≤ (w.base + 64 * w.z * w.n - 1) / 2 ^ 16)

/-- Begin to move a page to a placement (R430, R478): the state and the status. Placement 15 is the page's present die. A
request of the host does not move authorised code. -/
def State.migrate (s : State) (ctx va p : Nat) (asked : Bool) : State × Nat :=
  match s.walk ctx va with
  | .leaf e =>
    if leafChip e ≠ s.chip || leafHs e || leafLost e || s.inWindow ctx va || (asked && s.pageInCode ctx va) then (s, 1)
    else
      match s.frameAt ctx p (leafDie e), s.ownLeaf ctx va with
      | some _, some s1 =>
        (match s1.walk ctx va, s1.frameAt ctx p (leafDie e) with
          | .leaf e1, some f => (s1.beginMove ctx va e1 f, 0)
          | _, _ => (s1, 2))
      | _, _ => (s, 2)
  | _ => (s, 1)

/-- Must a move of a page wait: a packet for its frame is half applied? -/
def State.moveWaits (s : State) (ctx va : Nat) : Bool :=
  match s.walk ctx va with
  | .leaf e => s.partIn (leafFrameNo e)
  | _ => false

/-- The pages of a context that a frame backs. -/
def State.pagesOn (s : State) (ctx frame : Nat) : List Nat :=
  (s.mapped ctx).filterMap (fun m =>
    if s.mapsFrame [m] frame then some (m.1 + (frame - leafFrameNo m.2.1) * 2 ^ 16) else none)

/-- A page of a frame whose tables move is at the new frame from now on, and the old home refuses what comes for it with MOVED
(R320, R430, R431); none where it cannot have a leaf of its own. -/
def State.repoint (s : State) (ctx va : Nat) (f : Frame) : Option State :=
  (s.ownLeaf ctx va).map (fun s =>
    match s.walk ctx va with
    | .leaf e =>
      let page := va / 2 ^ 16
      { s.setLeaf ctx va (withFrame e f) with
        moved := (ctx, page, leafFrameNo e) :: s.moved.filter (fun k => k != (ctx, page, Frame.no f)) }
    | _ => s)

/-- The tables of a context in a frame: where the entry that names each lies, and the entry. -/
def State.tablesIn (s : State) (ctx frame : Nat) : List (Option Nat × Nat) :=
  (s.tables ctx).filterMap (fun t => (s.tableName ctx t.1 t.2).filter (fun n => tableAddr n.2 / 2 ^ 16 == frame))

/-- Move a frame that holds tables of a context to another (R431): the pages that it backs are repointed, the entries that name the
tables are rewritten, and the frame is copied. Where a page of it cannot be repointed it stays. -/
def State.moveTables (s : State) (ctx old : Nat) (f : Frame) : State :=
  match (s.pagesOn ctx old).foldl (fun (r : Option State) va => r.bind (fun s => s.repoint ctx va f)) (some s) with
  | none => s
  | some s =>
    let s := (s.tablesIn ctx old).foldl (fun s n =>
      let e := f.die * 2 ^ 42 + f.tier * 2 ^ 41 + f.n * 2 ^ 16 + tableAddr n.2 % 2 ^ 16 + 1
      match n.1 with
      | some a => s.memWrite a (bytesOf 8 e) []
      | none => s.onContext ctx (fun c => { c with root := e })) s
    (((s.copyRange (old * 2 ^ 16) (Frame.no f * 2 ^ 16) (2 ^ 16)).setUse ctx (Frame.no f) .table).passUse ctx old (Frame.no f)).invalidate
      ctx none

/-- Move the table of a level over an address, with what else its frame holds (R431).
(Log 124, DEDUCED.) -/
def State.moveTable (s : State) (ctx va lvl : Nat) (f : Frame) : State :=
  (s.tableName ctx va lvl).elim s (fun n => s.moveTables ctx (tableAddr n.2 / 2 ^ 16) f)

/-- The move of a page that is under way. -/
def State.moveOf (s : State) (ctx va : Nat) : Option PageMove := s.moves.find? (fun m => m.ctx == ctx && m.va == va)

/-- PAGE_MIGRATION (R430, R431): the memory processor begins to move a page, or moves the table of a level, of a context whose
policy leaves it the choice; or it ends the move of a page that is under way. A half-applied packet is applied first.
(Log 96, DEDUCED.) -/
def execPageMigration (ctx : Nat) (what : Moved) (placement : Nat) (s : State) : Out :=
  let may := Tab.has s.contexts ctx && !(s.context ctx).duty.testBit 2 && placementOk placement
  match what with
  | .page va =>
    let V := va / 2 ^ 16 * 2 ^ 16
    match s.moveOf ctx V with
    | some m => .next (if s.partIn (leafFrameNo m.leaf) then s else s.endMove m)
    | none =>
      .next (if !may || Config.addrLimit ≤ va || s.moveWaits ctx V then s else (s.migrate ctx V placement false).1)
  | .table va lvl =>
    if !may || Config.addrLimit ≤ va || lvl = 0 || 3 < lvl then .next s
    else
      match s.tableName ctx va lvl with
      | none => .next s
      | some (_, e) =>
        .next (if s.partIn (tableAddr e / 2 ^ 16) then s else (s.frameAt ctx placement (leafDie e)).elim s (s.moveTable ctx va lvl))

/-! ## Evacuation of a die (R432) -/

/-- A frame off a die: in bonded memory first, then in outer memory. -/
def State.refuge (s : State) (ctx die : Nat) : Option Frame :=
  let free := s.freeFrames ctx (fun f => f.die != die)
  (s.pickFrame (free.filter (fun f => f.tier == 0))).orElse (fun _ => s.pickFrame (free.filter (fun f => f.tier == 1)))

/-- Evacuate one page, or mark it lost. The flag tells of a loss. -/
def State.evacuatePage (s : State) (ctx die va : Nat) : State × Bool :=
  match s.walk ctx va with
  | .leaf e =>
    match s.refuge ctx die with
    | some f => (s.moveTo ctx va e f, false)
    | none => ((s.setLeaf ctx va (e ||| 2 ^ 61)).invalidate ctx (some (va / 2 ^ 16)), true)
  | _ => (s, false)

/-- Evacuate what one leaf or block maps: the state and the lost pages. A block that cannot be splintered is lost.
(Log 49, DEDUCED.) -/
def State.evacuateEntry (s : State) (ctx die : Nat) (m : Nat × Nat × Nat) : State × List Nat :=
  let va := m.1
  let pages := (List.range m.2.2).map (fun i => va + i * 2 ^ 16)
  match s.splinter ctx va true with
  | some s =>
    pages.foldl (fun (r : State × List Nat) v =>
      let y := (r.1.clearGroup ctx v).evacuatePage ctx die v
      (y.1, if y.2 then r.2 ++ [v] else r.2)) (s, [])
  | none =>
    match s.level2 ctx va with
    | some (_, _, a2, e2) =>
      (pages.foldl (fun s v => s.invalidate ctx (some (v / 2 ^ 16))) (s.memWrite a2 (bytesOf 8 (e2 ||| 2 ^ 61)) []), pages)
    | none => (s, [])

/-- Move the tables of a context off a die, as far as there are frames (R431, R432). -/
def State.evacuateTables (s : State) (ctx die : Nat) : State :=
  (s.tables ctx).foldl (fun s t =>
    match s.tableName ctx t.1 t.2 with
    | some (_, e) => if leafDie e = die then (s.refuge ctx die).elim s (s.moveTable ctx t.1 t.2) else s
    | none => s) s

/-- Runs of consecutive pages: the first page of each and its length. -/
def pageRuns : List Nat → List (Nat × Nat)
  | [] => []
  | v :: t =>
    match pageRuns t with
    | (w, n) :: r => if w = v + 2 ^ 16 then (v, n + 1) :: r else (v, 1) :: (w, n) :: r
    | [] => [(v, 1)]

/-- Evacuate the tables and every page of a context that are homed on a die, once the moves under way have ended, and post a
record of each run of lost pages. -/
def State.evacuate (s : State) (ctx die : Nat) : State :=
  let s := ((s.moves.filter (fun m => m.ctx == ctx)).foldl State.endMove s).evacuateTables ctx die
  let mine := (s.mapped ctx).filter (fun m =>
    leafChip m.2.1 == s.chip && !leafHost m.2.1 && leafDie m.2.1 == die && !leafLost m.2.1)
  let r := mine.foldl (fun (r : State × List Nat) m =>
    let y := r.1.evacuateEntry ctx die m
    (y.1, r.2 ++ y.2)) (s, [])
  (pageRuns r.2).foldl (fun s p =>
    s.logPost ctx { kind := 3, queue := 0, recNo := 0, word := 0, time := s.clock, pc := 0, addr := p.1, info := p.2,
                    lane := 0 }) r.1

end Sys2Proof.Machine
end

