-- ==== Sys2Proof/Machine/System.lean ====
section
/-! DEFINITION. Traps and the handler: TRAP, SRET, SYSRD, SYSWR, HALT; the step that enters the handler; and the landing
of results (R112–R114, R156, R157, R190, R435–R450). -/

namespace Sys2Proof.Machine

/-! ## TRAP and SRET (R444, R446) -/

/-- TRAP (R444). -/
def execTrap (r : RWord) (s : State) : Out :=
  s.issue (.trap r) r.head (fun x =>
    let c := s.issuer x
    if x.act = 0#32 then .go s
    else .goTrap s { x.trap 0x15 with after := true, resume := x.pc + 8, info := s.uval x c r.a })

/-- SRET (R446). -/
def execSret (h : Head) (s : State) : Out :=
  s.issue (.sret h) h (fun x => if x.act = 0#32 then .go s else .jump (s.sretTo x.crs))

/-- What ails RESUME, as the CAUSE with which the grid is aborted (R446). -/
def resumeFault (p : Nat) : Option Nat := if p % 8 ≠ 0 then some 0x0108 else if Config.addrLimit ≤ p then some 0x0105 else none

/-- SRET.esc (R446): the handler bank is free, and the slot waits for the host-assisted path. -/
def execSretEsc (h : Head) (s : State) : Out :=
  s.issue (.sretEsc h) h (fun x =>
    let c := s.issuer x
    match c.sup with
    | none => .go s
    | some u =>
      if x.act = 0#32 then .go s
      else
        match resumeFault u.trap.resume with
        | some cause => .jump (s.abortGrid (s.team c.team).grid cause (some u.trap))
        | none =>
          .jump ((s.onCore c.core (fun k => { k with bank := if k.bank = some x.crs then none else k.bank })).escalate
            x.crs x.j u.trap))

/-- ESCALATION_ANSWER (R423, R446): the path has served the trap, and the slot goes on; or it declines, and the grid is
aborted. A trap that never entered the handler retries its word. -/
def execEscalationAnswer (crs slot : Nat) (s : State) : Out :=
  let c := s.course crs
  match (c.slotN slot).wait with
  | .escalated t (some false) => .next (s.abortGrid (s.team c.team).grid (0x0100 + t.code) (some t))
  | .escalated _ (some true) =>
    if !s.running c then .next s
    else if c.sup.any (fun u => u.slot == slot) then .next (s.sretTo crs)
    else .next (s.onCourse crs (fun c => c.onSlot slot (fun y => { y with wait := .none })))
  | _ => .next s

/-! ## SYSRD and SYSWR (R441, R443, R445) -/

/-- FLG as a word that issues now reads it (R112). -/
def State.flgVal (s : State) (c : Course) : Word :=
  c.alu.foldl (fun f w => match w.dst with
    | .flags g => if s.seesNew w.issued (2 ^ 20) then f ||| g else f
    | _ => f) c.flg

/-- The value of a selector (R441). -/
def State.sysReg (s : State) (c : Course) (t : TrapRec) (n : Nat) : Word :=
  match n with
  | 0 => t.causeWord
  | 1 => t.laneWord
  | 2 => regPart t.pc 0
  | 3 => regPart t.pc 1
  | 4 => regPart t.addr 0
  | 5 => regPart t.addr 1
  | 6 => wd t.info
  | 7 => t.mask
  | 8 => regPart t.resume 0
  | 9 => regPart t.resume 1
  | 10 => regPart t.aux 0
  | 11 => regPart t.aux 1
  | 12 => s.flgVal c
  | _ => c.ctl

/-- The record of a course in supervisor mode. -/
def Course.record (c : Course) : TrapRec := (c.sup.map (fun u => u.trap)).getD { code := 0 }

/-- SYSRD (R445). -/
def execSysrd (r : RWord) (s : State) : Out :=
  s.issue (.sysrd r) r.head (fun x =>
    let c := s.issuer x
    s.deliverU x r.d.toNat 1 (s.sysReg c c.record r.a.field.toNat).toNat)

/-- A source of the course is empty: the word waits, or traps under E (R108, R114).
(Log 25, DEDUCED.) -/
def Ctx.emptySource (x : Ctx) : Res := if x.h.e then .trap (x.trap 0x09) else .block true

/-- SYSRD.v (R445): as stored, without the poison bit. -/
def execSysrdV (r : RWord) (s : State) : Out :=
  s.issue (.sysrdV r) r.head (fun x =>
    let c := s.issuer x
    let n := r.c.field.toNat
    if c.laneEmpty false n x.act then x.emptySource
    else s.lateWord x .other false r.d.toNat 1 0#32 (fun L => ((s.laneVal c false n L).toNat, 0#32)))

/-- SYSRD.s (R445). -/
def execSysrdS (r : RWord) (s : State) : Out :=
  s.issue (.sysrdS r) r.head (fun x =>
    let c := s.issuer x
    let n := r.c.field.toNat
    if x.act = 0#32 then .go s
    else if (c.unifCell false n).empty then x.emptySource
    else s.deliverU x r.d.toNat 1 (s.unifVal c false n).toNat)

/-- SYSRD.pm (R445): the poison bits of every lane. -/
def execSysrdPm (r : RWord) (s : State) : Out :=
  s.issue (.sysrdPm r) r.head (fun x =>
    let c := s.issuer x
    let n := r.c.field.toNat
    if c.laneEmpty false n x.act then x.emptySource
    else s.deliverU x r.d.toNat 1 (maskOfLanes (lanes.filter (fun L => s.lanePoison c false n L))).toNat)

/-- Replace half i of a 64-bit number. -/
def setHalf (old i : Nat) (v : Word) : Nat :=
  if i = 0 then old / 2 ^ 32 * 2 ^ 32 + v.toNat else old % 2 ^ 32 + v.toNat * 2 ^ 32

/-- Write RESUME, FLG or CTL (R441). -/
def Course.setSysReg (c : Course) (n : Nat) (v : Word) : Course :=
  let resume := fun (i : Nat) =>
    { c with sup := c.sup.map (fun u => { u with trap := { u.trap with resume := setHalf u.trap.resume i v } }) }
  match n with
  | 8 => resume 0
  | 9 => resume 1
  | 12 => { c with flg := v &&& flgMask }
  | _ => { c with ctl := v &&& ctlMask }

/-- SYSWR (R445). -/
def execSyswr (r : RWord) (s : State) : Out :=
  s.issue (.syswr r) r.head (fun x =>
    let c := s.issuer x
    if x.act = 0#32 then .go s else .go (s.setCourse x.crs (c.setSysReg r.d.toNat (wd (s.uval x c r.a)))))

/-- SYSWR.v (R445): the register is full and not poisoned. -/
def execSyswrV (r : RWord) (s : State) : Out :=
  s.issue (.syswrV r) r.head (fun x =>
    let c := s.issuer x
    let n := r.c.field.toNat
    if c.laneEmpty false n x.act then .block true
    else .go (s.setCourse x.crs ((lanesOf x.act).foldl (fun c L =>
      c.writeNow (.lane false n L (s.laneVal c x.sup r.a.field.toNat L) false)) c)))

/-- SYSWR.s (R445). -/
def execSyswrS (r : RWord) (s : State) : Out :=
  s.issue (.syswrS r) r.head (fun x =>
    let c := s.issuer x
    let n := r.c.field.toNat
    if x.act = 0#32 then .go s
    else if (c.unifCell false n).empty then .block true
    else .go (s.setCourse x.crs (c.writeNow (.unif false n (wd (s.uval x c r.a))))))

/-! ## HALT (R447) -/

/-- HALT.grid. -/
def execHaltGrid (h : Head) (s : State) : Out :=
  s.issue (.haltGrid h) h (fun x =>
    let c := s.issuer x
    if x.act = 0#32 then .go s
    else .jump (s.abortGrid (s.team c.team).grid (0x0100 + c.record.code) (some c.record)))

/-- HALT.lanes: the handler mask retires, and the slot's other lanes resume at RESUME.
(Log 47, DEDUCED.) -/
def execHaltLanes (h : Head) (s : State) : Out :=
  s.issue (.haltLanes h) h (fun x =>
    let c := s.issuer x
    match c.sup with
    | none => .go s
    | some u =>
      let gone := (c.slotN x.j).mask
      let rest := u.slotMask &&& c.live &&& ~~~gone
      if x.act = 0#32 then .go s
      else
        match (if rest = 0#32 then none else resumeFault u.trap.resume) with
        | some cause => .jump (s.abortGrid (s.team c.team).grid cause (some u.trap))
        | none => .jump ((s.leaveSup x.crs u.trap.resume).retire x.crs x.j gone))

/-- HANDLER_ENTRY (R437, R438): a trapped slot escalates, aborts, or enters the handler once the core's bank is free. -/
def execHandlerEntry (crs slot : Nat) (s : State) : Out :=
  let c := s.course crs
  match (c.slotN slot).wait with
  | .trap t turn => if s.running c then .next (s.takeTrap crs slot t turn) else .next s
  | _ => .next s

/-! ## Results land (R112–R114, R157, R450) -/

/-- Is a pending word of a bay's unit ahead of another: the unit's results land in issue order (R174, R205, R225)? -/
def State.unitAhead (s : State) (c : Course) (p : Pend) : Bool :=
  (p.unit == .special || p.unit == .crossbar || p.unit == .dist) &&
    s.courses.any (fun _ k => k.core == c.core && k.bay == c.bay &&
      k.pend.any (fun q => q.unit == p.unit && q.turn < p.turn))

/-- Is an earlier access of the course to the same memory, or an earlier XRECV of the window, not yet performed? -/
def Course.accessAhead (c : Course) (p : Pend) : Bool :=
  c.pend.any (fun q => decide (q.id < p.id) &&
    (match q.kind, p.kind with
      | .access a _ _, .access b _ _ => a == b
      | .window v _ _ _ _, .window w _ _ _ _ => v == w
      | _, _ => false))

/-- May a pending word be performed and land now? -/
def State.mayLand (s : State) (crs : Nat) (p : Pend) : Bool :=
  let c := s.course crs
  !s.unitAhead c p && !c.accessAhead p &&
    (match p.kind with
      | .remote => false
      | .access sp _ _ => !s.barWaits crs p.turn sp
      | .perm va _ _ _ => !s.protWaits (s.ctxOf c) va
      | _ => true)

/-- Perform a pending word: the state, what lands, and its flags. -/
def State.performPend (s : State) (crs : Nat) (p : Pend) : State × List Landing × Word :=
  let ctx := s.ctxOf (s.course crs)
  match p.kind with
  | .values ls => (s, ls, p.flags)
  | .access sp op as =>
    let r := performAccess op (s.spaceBlock sp) as
    (s.setSpace sp r.1, r.2.1, p.flags ||| wordFlags p.sup r.2.2)
  | .perm va perm d sup =>
    let r := s.protPage ctx va perm
    (r.1, [.unif sup d (wd r.2)], p.flags)
  | .query d t sup => (s, [.unif sup d (wd (s.ticketState (s.context ctx).tag t))], p.flags)
  | .window w act _ d sup =>
    let r := s.windowAct ctx w act
    (r.1, (List.range p.fills.length).map (fun i => .unif sup (d + i) (regPart r.2 i)), p.flags)
  | .remote => (s, [], 0#32)

/-- The flags that a word has set are reported once the last of its accesses has been performed: the word takes ARITH where
TE enables one of them then (R156, R157). -/
def State.landHeld (s : State) (crs : Nat) (p : Pend) (fl : Word) : State :=
  if fl = 0#32 then s
  else if (s.course crs).pend.any (fun q => q.turn == p.turn) then
    s.onCourse crs (fun c =>
      { c with pend := c.pend.map (fun q => if q.turn = p.turn then { q with flags := q.flags ||| fl } else q) })
  else s.heldTrap crs p.slot p.pc p.act fl

/-- A pending word lands. -/
def State.landValue (s : State) (crs : Nat) (p : Pend) : State :=
  let r := s.performPend crs p
  let s := r.1.landPend crs p.id r.2.1 r.2.2
  let s := match p.kind with
    | .window _ _ count _ _ => s.onCourse crs (fun c => c.opDone .xch count)
    | _ => s
  s.landHeld crs p r.2.2

/-- Land a pending word of a course, if it may. -/
def State.landNow (s : State) (crs pid : Nat) : State :=
  match (s.course crs).pend.find? (fun p => p.id == pid) with
  | some p => if s.mayLand crs p then s.landValue crs p else s
  | none => s

/-- VALUE_LANDS (R114, R150, R157, R190, R258–R260): a pending word's access is performed, and its value lands; it may
then take ARITH.
(Log 85, DEDUCED.) -/
def execValueLands (crs pid : Nat) (s : State) : Out :=
  if (s.team (s.course crs).team).state = .saved then .next s else .next (s.landNow crs pid)

/-- PENDING_VALUE_LANDS (R289, R450): a value lands in the image of a saved team. -/
def execPendingValueLands (crs pid : Nat) (s : State) : Out :=
  if (s.team (s.course crs).team).state = .saved then .next (s.landNow crs pid) else .next s

/-- A slot whose flags have been written takes its ARITH trap (R156). -/
def State.raiseArith (s : State) (crs j : Nat) : State :=
  match ((s.course crs).slotN j).wait with
  | .arith due t => if due ≤ s.clock then s.raise crs j t else s
  | _ => s

/-- FIXED_ALU_WRITEBACK (R112, R113, R156): the results of 4 cycles ago are written. -/
def execFixedAluWriteback (crs : Nat) (s : State) : Out :=
  let due := fun (w : AluWrite) => decide (w.issued + 4 ≤ s.clock)
  let s := s.onCourse crs (fun c =>
    { (c.alu.filter due).foldl (fun c w => c.applyAlu w.dst) c with alu := c.alu.filter (fun w => !due w) })
  .next ((s.raiseArith crs 0).raiseArith crs 1)

end Sys2Proof.Machine
end

