-- ==== Sys2Proof/Machine/Fetch.lean ====
section
/-! DEFINITION. The instruction cache: demand fetch, fills and IPF (R134–R139, R489). -/

namespace Sys2Proof.Machine

/-- The cached line of a context, if the core has it. -/
def Core.cached (k : Core) (ctx line : Nat) : Option ILine := k.icache.find? (fun l => l.ctx == ctx && l.line == line)

/-- What an instruction fetch finds of a page. -/
inductive FetchPage where
  | ok (pa : Nat)
  | fault (code sub : Nat)
  | wait
  deriving DecidableEq, Repr

/-- Translate an address for an instruction fetch (R138). -/
def State.fetchPage (s : State) (ctx va : Nat) : FetchPage :=
  match s.translate ctx va with
  | .wait => .wait
  | .fault 3 _ => .fault 0x04 3
  | .fault _ _ => .fault 0x04 1
  | .leaf e =>
    if !e.testBit 5 then .fault 0x04 2 else if leafLost e then .fault 0x13 0 else .ok (homeOf e va).2

/-- A fill for a line is in flight. -/
def Core.filling (k : Core) (ctx line : Nat) : Bool := k.fills.contains (ctx, line)

/-- Start a fill. -/
def State.startFill (s : State) (core ctx line : Nat) : State := s.onCore core (fun k => { k with fills := k.fills ++ [(ctx, line)] })

/-- A trap before any word is decoded has the slot's mask (R441). -/
def State.fetchTrap (s : State) (crs slot code sub info : Nat) : TrapRec :=
  let c := s.course crs
  let y := c.slotN slot
  { code := code, sub := sub, pc := y.pc, addr := y.pc, info := info, mask := y.mask, resume := y.pc, inSup := c.supIn slot }

/-- Put a line into the cache, in place of the least recently used of its set where the set is full (R134). -/
def Core.putLine (k : Core) (l : ILine) : Core :=
  let set := k.icache.filter (fun m => m.line % 128 == l.line % 128)
  let old := set.foldl (fun (r : Option ILine) m =>
    match r with
    | none => some m
    | some y => if m.used < y.used then some m else some y) none
  let keep := if set.length < 4 then k.icache else (match old with
    | some m => k.icache.erase m
    | none => k.icache)
  { k with icache := l :: keep }

/-- The slots of a core that wait for a line go on. -/
def State.wakeFetch (s : State) (core ctx line : Nat) : State :=
  (s.courses.keys (fun _ c => c.core == core && s.ctxOf c == ctx)).foldl (fun s h =>
    s.onCourse h (fun c =>
      let go := fun (y : Slot) => if y.wait == .fetch && y.pc / 128 == line then { y with wait := .none } else y
      { c with slot0 := go c.slot0, slot1 := go c.slot1 })) s

/-- FETCH_FILL_LANDS (R134, R135): the line as its home holds it now. A page that can no longer be fetched from fills
nothing, and a demand fetch then tries again. -/
def execFetchFillLands (core line : Nat) (s : State) : Out :=
  match (s.core core).fills.find? (fun f => f.2 == line) with
  | none => .next s
  | some (ctx, _) =>
    let s1 := s.onCore core (fun k => { k with fills := k.fills.erase (ctx, line) })
    match s.fetchPage ctx (line * 128) with
    | .wait => .next s
    | .fault _ _ => .next (s1.wakeFetch core ctx line)
    | .ok pa =>
      let l : ILine := { ctx := ctx, line := line, bytes := s.memRead pa 128, bad := (wordsOf 0 128).filter (fun w => poisonedIn s.poison (pa + w) 4), used := s.stamp }
      .next ((s1.onCore core (fun k => k.putLine l)).wakeFetch core ctx line)

/-- One line of IPF: the state, and whether the line was dropped; none where no fill buffer is free (R137). -/
def State.prefetch (s : State) (core ctx : Nat) (a : Int) : Option (State × Bool) :=
  let k := s.core core
  let line := a.toNat / 128
  if offSpace a then some (s, true)
  else if (k.cached ctx line).isSome || k.filling ctx line then some (s, false)
  else
    match s.fetchPage ctx a.toNat with
    | .ok _ =>
      if Config.fillBuffers ≤ k.fills.length then none else some ((s.startFill core ctx line).tlbFill ctx [a.toNat], false)
    | _ => some (s, true)

/-- The lines of IPF, in order: dropped ones are counted. -/
def State.prefetchLines (s : State) (core ctx : Nat) : List Int → State
  | [] => s
  | a :: t =>
    match s.prefetch core ctx a with
    | none => s.count 0 core 2 (t.length + 1)
    | some r => (r.1.count 0 core 2 (b2n r.2)).prefetchLines core ctx t

/-- The lines that the fetch unit may fetch ahead of need for a slot at an address of a line (R137): those that follow, and those of
the branch targets in the line. -/
def aheadLines (l : ILine) (pc : Nat) : List Int :=
  let words := (List.range 16).filterMap (fun i =>
    let at_ := l.line * 128 + 8 * i
    match decodeWord (BitVec.ofNat 64 (ofBytes ((l.bytes.drop (8 * i)).take 8))) with
    | .ok (.bra _ _ ofs) | .ok (.call _ _ _ ofs) => some (branchTarget at_ ofs / 128 * 128)
    | _ => none)
  (List.range 4).map (fun (k : Nat) => (((pc / 128 + k + 1) * 128 : Nat) : Int)) ++ words

/-- The fetch unit fetches a line ahead of need: one that is neither cached nor in flight, of those that it may. One that it
cannot fetch is no dropped IPF, and is not counted. -/
def State.fetchAhead (s : State) (core ctx pc : Nat) (l : ILine) : State :=
  let k := s.core core
  let new := (aheadLines l pc).filter (fun a => (k.cached ctx (a.toNat / 128)).isNone && !k.filling ctx (a.toNat / 128))
  match new[Config.freeNat s.stamp (2 ^ 62) % new.length]? with
  | some a => ((s.prefetch core ctx a).map (fun r => r.1)).getD s
  | none => s

/-- DEMAND_FETCH (R135, R137, R138): the slot waits for its line, which merges with a fill in flight or starts one, a miss; a page
that cannot be fetched from traps. Where every fill buffer is busy, or a word in flight holds the course's issue (R157), the slot tries again. A slot whose line is there has another
fetched ahead.
(Log 101, DESIGN CHOICE.) -/
def execDemandFetch (crs slot : Nat) (s : State) : Out :=
  let c := s.course crs
  let y := c.slotN slot
  let ctx := s.ctxOf c
  let k := s.core c.core
  let line := y.pc / 128
  let stall := fun (s : State) => s.onCourse crs (fun c => c.onSlot slot (fun y => { y with stalled := true }))
  let wait := fun (s : State) => s.onCourse crs (fun c => c.onSlot slot (fun y => { y with wait := .fetch }))
  if !(c.taken slot && y.wait == .none && s.running c) || (c.nextRefusal slot).isSome then .next s
  else
    match k.cached ctx line with
    | some l => .next (s.fetchAhead c.core ctx y.pc l)
    | none =>
      if k.filling ctx line then .next (wait s)
      else
        match s.fetchPage ctx y.pc with
        | .fault code sub =>
          let t := s.fetchTrap crs slot code sub 0
          .next (if c.held then stall s else (s.noteTrap crs t).raise crs slot t)
        | .wait => .next (stall s)
        | .ok _ =>
          if Config.fillBuffers ≤ k.fills.length then .next (stall s)
          else .next ((wait ((s.startFill c.core ctx line).tlbFill ctx [y.pc])).count 0 c.core 3 1)

/-- IPF (R137). -/
def execIpf (h : Head) (base : Option (BitVec 8)) (n : Fin 16) (ofs : BitVec 32) (s : State) : Out :=
  s.issue (.ipf h base n ofs) h (fun x =>
    let c := s.issuer x
    let from_ := match base with
      | none => x.pc
      | some a => s.unifGroup c x.sup a.toNat 2
    let T := branchTarget from_ ofs
    if x.act = 0#32 then .go s
    else .go (s.prefetchLines c.core (s.ctxOf c) ((List.range (n.val + 1)).map (fun (k : Nat) => T / 128 * 128 + 128 * (k : Int)))))

end Sys2Proof.Machine
end

