-- ==== Sys2Proof/Machine/FrontEnd.lean ====
section
/-! DEFINITION. The front end's own accesses of memory, LAUNCH and its submission, the queues' tail words, and the
launch record (R40–R47, R51, R56–R58). -/

namespace Sys2Proof.Machine

/-! ## Accesses of the front end -/

/-- The page of an access of the front end, of n bytes that lie in one page: what it needs is 1 R, 2 W. -/
def State.frontPage (s : State) (ctx va need : Nat) : PageRes := s.checkPage ctx { code := 0 } false [⟨0, va, need, .any⟩]

/-- Must an access of the front end wait: the page is being moved? -/
def State.frontWaits (s : State) (ctx va : Nat) : Bool := s.frontPage ctx va 1 == .wait

/-- Bytes that the front end reads of a page that has a permission: none where the page or its home faults. What another package or
the host region holds is not known here. -/
def State.frontSees (s : State) (need ctx va n : Nat) : Option Bytes2 :=
  match s.frontPage ctx va need with
  | .ok =>
    let h := s.home ctx va
    if h.1.host || h.1.chip ≠ s.chip then
      if Config.freeBit s.stamp (2 ^ 53 + va) then none
      else some ((List.range n).map (fun i => (BitVec.ofNat 8 (Config.freeNat s.stamp (2 ^ 54 + va + i)), false)))
    else if s.inService h.1.die then some (Block.take2 ⟨s.mem, s.poison⟩ h.2 n)
    else none
  | _ => none

/-- The RDMA READ of the host region by which bytes of a HOST page are read (R434). -/
def State.frontAsks (s : State) (ctx va n : Nat) : State :=
  let h := s.home ctx va
  if h.1.host && h.1.chip == s.chip then s.readRegion ctx h.2 n else s

/-- Bytes that the front end reads: none where the page or its home faults. -/
def State.frontRead (s : State) (ctx va n : Nat) : Option Bytes2 := s.frontSees 1 ctx va n

/-- The tail word as the front end sees it: of its page R477 asks write permission alone. -/
def State.tailWord (s : State) (ctx va : Nat) : Option Bytes2 := (s.frontSees 2 ctx va 8).orElse (fun _ => s.frontRead ctx va 8)

/-- The front end writes bytes: none where the page or its home faults. -/
def State.frontWrite (s : State) (ctx va : Nat) (x : List Byte) : Option State :=
  match s.frontPage ctx va 2 with
  | .ok =>
    let h := s.home ctx va
    if h.1.host || h.1.chip ≠ s.chip then
      if Config.freeBit s.stamp (2 ^ 53 + va) then none
      else if h.1.host && h.1.chip == s.chip then
        some { s with hostOut := s.hostOut ++ [.regionWrite (((s.context ctx).region.map (fun r => r.qp)).getD 0)
          (((s.context ctx).region.map (fun r => r.rkey)).getD 0) h.2 x] }
      else
        some { s with net := s.net ++ [.put { chip := s.chip, ctag := (s.context ctx).tag, dest := h.1, va := va, pa := h.2,
                                              bytes := x, poison := [], ntf := none }] }
    else if s.inService h.1.die then some (s.memWrite h.2 x [])
    else none
  | _ => none

/-! ## LAUNCH (R56–R58) -/

/-- LAUNCH (R57): the rest proceeds in the channel unit and the front end. -/
def execLaunch (r : RWord) (s : State) : Out :=
  s.issue (.launch r) r.head (fun x =>
    let c := s.issuer x
    let addr := s.unifGroup c x.sup r.a.field.toNat 2
    if x.act = 0#32 then .go s
    else if addr % 128 ≠ 0 then .trap { x.trap 0x08 with addr := addr }
    else
      let y : LaunchReq := { crs := x.crs, team := c.team, pend := c.nextPend, queue := s.uval x c r.b, addr := addr,
                             upto := s.nextOpOf c.team }
      let s := s.addPend x .other .remote [(⟨x.sup, false, r.d.toNat⟩, 0#32)] 0#32 0#32
      .go { s with launches := Tab.put s.launches (Tab.fresh s.launches) y })

/-- Records between head and tail, modulo 2^32 (R41). -/
def Queue.used (q : Queue) : Nat := (q.tail + 2 ^ 32 - q.head % 2 ^ 32) % 2 ^ 32

/-- The place of a record in the ring (R41). -/
def Queue.slotAddr (q : Queue) (n : Nat) : Nat := q.ring + 128 * (n % q.slots)

/-- The record of a LAUNCH enters a queue of its context: the state and the status (R57). -/
def State.submit (s : State) (ctx qn addr : Nat) (q : Queue) : State × Nat :=
  if q.used = q.slots then (s, 1)
  else
    match s.frontRead ctx addr 128 with
    | none => (s, 3)
    | some b =>
      let s := s.frontAsks ctx addr 128
      if Bytes2.bad b then (s, 3)
      else
        match s.frontWrite ctx (q.slotAddr q.tail) (b.map (fun y => y.1)) with
        | none => (s.haltQueue qn, 2)
        | some s1 =>
          let t := (q.tail + 1) % 2 ^ 32
          match s1.frontWrite ctx q.tailAddr (bytesOf 8 t) with
          | none => (s1.haltQueue qn, 2)
          | some s2 => ({ s2 with queues := Tab.put s2.queues qn { q with tail := t } }, 0)

/-- May LAUNCHes of a context use the queue: it is device-fed, belongs to the context and is not halted (R57)? -/
def Queue.launchable (q : Queue) (ctx : Nat) : Bool := q.devFed && q.ctx == ctx && !q.halted

/-- The submission of a LAUNCH: the state and the status. A queue that cannot be used gives 2 (R57). -/
def State.launchStatus (s : State) (ctx : Nat) (r : LaunchReq) : State × Nat :=
  match Tab.find s.queues r.queue with
  | none => (s, 2)
  | some q => if q.launchable ctx then s.submit ctx r.queue r.addr q else (s, 2)

/-- Must a LAUNCH that enters its queue wait: the page of the record, of the ring slot or of the tail word is being moved (R430)? -/
def State.launchWaits (s : State) (ctx : Nat) (r : LaunchReq) : Bool :=
  (Tab.find s.queues r.queue).any (fun q => q.launchable ctx && q.used != q.slots &&
    (s.frontWaits ctx r.addr || s.frontWaits ctx (q.slotAddr q.tail) || s.frontWaits ctx q.tailAddr))

/-- LAUNCH_SUBMIT (R57, R58): once the team's earlier channel operations are acknowledged, in issue order for each course
and queue; it completes for a saved team also. -/
def execLaunchSubmit (id : Nat) (s : State) : Out :=
  match Tab.find s.launches id with
  | none => .next s
  | some r =>
    let ctx := (s.gridOf r.team).ctx
    let ahead := s.launches.any (fun k e => k < id && e.crs == r.crs && e.queue == r.queue)
    if ahead || (s.team r.team).busyBelow 0xFFFF r.upto || s.launchWaits ctx r then .next s
    else
      let y := s.launchStatus ctx r
      .next ({ y.1 with launches := Tab.del y.1.launches id }.landUnif r.crs r.pend 1 y.2)

/-! ## Tail words (R41–R43) -/

/-- TAIL_WORD_WRITE (R42, R43): the front end sees the tail word. In a host-fed queue it covers new records, or halts the
queue where it is out of range; in a device-fed queue a value that the front end did not write halts the queue. A tail word that cannot be read, or is poisoned, says nothing.
(Log 52, DEDUCED.)
(Log 120, DESIGN CHOICE.) -/
def execTailWordWrite (q : Nat) (s : State) : Out :=
  match Tab.find s.queues q with
  | none => .next s
  | some x =>
    match (if x.halted then none else s.tailWord x.ctx x.tailAddr) with
    | none => .next s
    | some b =>
      let t := Bytes2.num b % 2 ^ 32
      let s := if (x.devFed && x.touched) || !(Bytes2.bad b || t = x.tail) then s.frontAsks x.ctx x.tailAddr 8 else s
      if x.devFed && x.touched then .next (s.haltQueue q)
      else if Bytes2.bad b || t = x.tail then .next s
      else if x.devFed || x.slots < { x with tail := t }.used then .next (s.haltQueue q)
      else .next { s with queues := Tab.put s.queues q { x with tail := t } }

/-! ## The launch record (R45) -/

/-- A field of a record: n bytes at an offset. -/
def field (b : List Byte) (o n : Nat) : Nat := ofBytes ((b.drop o).take n)

/-- The fields of a launch record (R45). -/
def parseRecord (b : List Byte) : LaunchRec :=
  let fl := field b 0x17 1
  { entry := field b 0x00 8, arg := field b 0x08 8, teams := field b 0x10 4, w := field b 0x14 1, h := field b 0x15 1,
    courses := field b 0x16 1, coop := fl.testBit 0, width16 := fl.testBit 1, persist := fl.testBit 2,
    base := field b 0x18 1, pool := field b 0x19 1, dregs := field b 0x1A 1, tiles := field b 0x1B 1,
    shared := field b 0x1C 4, xfer := field b 0x20 2, quota := field b 0x22 2, chans := field b 0x24 1,
    comm := field b 0x25 1, spill := field b 0x26 2, scratch := field b 0x28 4, events := field b 0x2C 2,
    windows := field b 0x2E 2, handler := field b 0x30 8, signal := field b 0x38 8, value := field b 0x40 8,
    lifetime := field b 0x48 4 }

/-- Are the bytes within the limits of R45 and R34, but for the authorised-code condition? -/
def recordOk (b : List Byte) : Bool :=
  let r := parseRecord b
  r.entry % 128 == 0 && 1 ≤ r.teams && 1 ≤ r.w && r.w ≤ 16 && 1 ≤ r.h && r.h ≤ 10 && r.w * r.h ≤ 12 &&
    r.teams % (r.w * r.h) == 0 && 1 ≤ r.courses && r.courses ≤ 32 && field b 0x17 1 < 8 &&
    8 ≤ r.base && r.base ≤ 128 && r.base % 8 == 0 && r.pool ≤ 32 && [0, 2, 4, 8, 16].contains r.dregs &&
    r.tiles ≤ 64 && r.shared ≤ 393216 && r.shared % 1024 == 0 && r.xfer ≤ 256 && 1 ≤ r.quota && r.quota ≤ 4096 &&
    1 ≤ r.chans && r.chans ≤ 16 && (r.comm < r.courses || r.comm == 0xFF) && r.spill % 16 == 0 && r.spill ≤ 65520 &&
    r.scratch ≤ 67108864 && r.scratch % 2097152 == 0 && r.events ≤ 4096 && r.windows ≤ 256 && r.handler % 128 == 0 &&
    r.signal % 8 == 0 && r.value < 2 ^ 63 && r.lifetime ≤ 1000000 && (b.drop 0x4C).all (fun x => x == 0#8)

end Sys2Proof.Machine
end

