-- ==== Sys2Proof/Machine/Placement.lean ====
section
/-! DEFINITION. What fits where: the resources of a core and of the package, clusters and their rectangles, and the frames
that a team takes (R35, R36, R39, R49, R50, R131, R251, R253, R389). -/

namespace Sys2Proof.Machine

/-! ## The resources of a core (R49) -/

/-- What teams take of a core: the slots and the register bytes of each bay, and the rest. -/
structure Load where
  places : Nat := 0
  dist : Nat := 0
  tiles : Nat := 0
  shared : Nat := 0
  xfer : Nat := 0
  slots : List Nat := [0, 0, 0, 0]
  regs : List Nat := [0, 0, 0, 0]
  deriving DecidableEq, Repr

/-- The bay of course i under an offset (R36). -/
def bayAt (i o : Nat) : Nat := (i + o) % 4

/-- The need of one team under a bay offset. -/
def teamLoad (r : LaunchRec) (o : Nat) : Load :=
  let k := fun (b : Nat) => ((List.range r.courses).filter (fun i => bayAt i o == b)).length
  { places := 1, dist := r.courses * r.dregs, tiles := 4 * r.tiles, shared := r.shared, xfer := r.xfer,
    slots := [0, 1, 2, 3].map k,
    regs := [0, 1, 2, 3].map (fun b => if k b = 0 then 0 else k b * r.base * 128 + r.pool * 4096) }

/-- Two needs together. -/
def Load.add (a b : Load) : Load :=
  { places := a.places + b.places, dist := a.dist + b.dist, tiles := a.tiles + b.tiles, shared := a.shared + b.shared,
    xfer := a.xfer + b.xfer, slots := List.zipWith (· + ·) a.slots b.slots, regs := List.zipWith (· + ·) a.regs b.regs }

/-- Does a load stay within a core (R18, R49)? -/
def Load.fits (l : Load) : Bool :=
  l.places ≤ 8 && l.dist ≤ 64 && l.tiles ≤ 256 && l.shared ≤ 393216 && l.xfer ≤ 256 && l.slots.all (fun n => n ≤ 16) &&
    l.regs.all (fun n => n ≤ 131072)

/-- Is a team on its core: placed, and not saved or freed? A saved team of an aborted grid holds no core. -/
def Team.onCore (t : Team) : Bool :=
  t.image.isEmpty &&
    (match t.state with
      | .running | .halting | .ended => true
      | _ => false)

/-- Is the shared memory of a freed team still held for its cluster (R251)?
(Log 56, DEDUCED.) -/
def State.sharedHeld (s : State) (h : Nat) (t : Team) : Bool :=
  t.state == .freed && (s.clusterTeams h).any (fun k => match (s.team k).state with
    | .ended | .freed => false
    | _ => true)

/-- What a core holds, but for the teams of a list. -/
def State.coreLoad (s : State) (gone : List Nat) (core : Nat) : Load :=
  s.teams.foldl (fun (l : Load) (e : Nat × Team) =>
    if e.2.core ≠ core || gone.contains e.1 then l
    else if e.2.onCore then l.add (teamLoad (s.grid e.2.grid).lr e.2.offset)
    else if s.sharedHeld e.1 e.2 then { l with shared := l.shared + (s.grid e.2.grid).lr.shared }
    else l) {}

/-- May a core host a team: it exists and is not fenced (R30)? -/
def State.coreUsable (s : State) (core : Nat) : Bool :=
  core < Config.dies * Config.coresPerDie && !s.fenced.contains (.core, core) && s.inService (dieOf core)

/-- Do n teams with the same needs fit on top of a load, under some offsets, each at least o? -/
def fitN (r : LaunchRec) : Nat → Load → Nat → Bool
  | 0, _, _ => true
  | n + 1, l, o => [0, 1, 2, 3].any (fun k => o ≤ k && (l.add (teamLoad r k)).fits && fitN r n (l.add (teamLoad r k)) k)

/-- How many teams with the same needs fit on top of a load. -/
def capacity (r : LaunchRec) (l : Load) : Nat := ((List.range 9).filter (fun n => fitN r n l 0)).length - 1

/-! ## Clusters (R35, R50) -/

/-- The core of rank r of a cluster whose top-left core has a place. -/
def rankCore (r : LaunchRec) (die y x rank : Nat) : Nat := die * Config.coresPerDie + (y + rank / r.w) * 16 + x + rank % r.w

/-- The rectangles of W × H cores, each as the cores of its ranks. -/
def rectangles (r : LaunchRec) : List (List Nat) :=
  (List.range Config.dies).flatMap (fun die => (List.range (11 - r.h)).flatMap (fun y => (List.range (17 - r.w)).map (fun x =>
    (List.range (r.w * r.h)).map (rankCore r die y x))))

/-- How many clusters find a place, rectangle after rectangle, where each core has room for cap teams: a quick count that other
choices may exceed. -/
def packed (cap : Nat → Nat) (rs : List (List Nat)) : Nat :=
  (rs.foldl (fun (a : Tab Nat × Nat) cs =>
    let n := cs.foldl (fun m c => min m (cap c - Tab.get 0 a.1 c)) 8
    if n = 0 then a else (cs.foldl (fun u c => Tab.put u c (Tab.get 0 u c + n)) a.1, a.2 + n)) ([], 0)).2

/-- Can n clusters be placed at once on rectangles of cores that have room for some teams each: with some number of clusters at
each rectangle? -/
def packs : List (List Nat) → Tab Nat → Nat → Bool
  | [], _, n => n == 0
  | cs :: t, cap, n =>
    n == 0 || (List.range (min n (cs.foldl (fun m c => min m (Tab.get 0 cap c)) 8) + 1)).any (fun k =>
      packs t (cs.foldl (fun u c => Tab.put u c (Tab.get 0 u c - k)) cap) (n - k))

/-- Is there room for n clusters at once where cores hold certain loads (R50, R52)? The quick count and the sum of the room
settle most cases.
(Log 55, DEDUCED.) -/
def State.hasRoom (s : State) (r : LaunchRec) (n : Nat) (held : Nat → Load) : Bool :=
  let cores := List.range (Config.dies * Config.coresPerDie)
  let caps := cores.map (fun c => if s.coreUsable c then capacity r (held c) else 0)
  decide (n ≤ packed (fun c => caps.getD c 0) (rectangles r)) ||
    (decide (n * (r.w * r.h) ≤ caps.foldl (· + ·) 0) && packs (rectangles r) (cores.zip caps) n)

/-- Clusters that must fit at once for the grid to start: all of a co-operative grid (R52). -/
def LaunchRec.needed (r : LaunchRec) : Nat := if r.coop then r.teams / (r.w * r.h) else 1

/-- The scratchpad bytes of the dies in service: 2 MiB of each slice, of the die with the fewest slices (R22, R30).
(Log 119, DEDUCED.) -/
def State.scratchRoom (s : State) : Nat :=
  ((List.range Config.dies).filter s.inService).foldl (fun n d =>
    min n (2097152 * ((List.range Config.slicesPerDie).filter (fun k =>
      !s.fenced.contains (.slice, d * Config.slicesPerDie + k))).length)) 67108864

/-- Would the grid not fit even on an otherwise empty package (R51)? -/
def State.neverFits (s : State) (r : LaunchRec) : Bool := !s.hasRoom r r.needed (fun _ => {}) || decide (s.scratchRoom < r.scratch)

/-! ## The needs of a grid in the package (R39, R50) -/

/-- Admitted grids that have not completed. -/
def State.openGrids (s : State) : List Grid := (s.grids.filter (fun e => !e.2.done)).map (fun e => e.2)

/-- The counts that contexts hold together, each the largest of its grids, with one more grid of a context. -/
def countsHeld (gs : List Grid) (ctx add : Nat) (f : LaunchRec → Nat) : Nat :=
  let cs := (gs.map (fun g => g.ctx)).foldl insertNat [ctx]
  cs.foldl (fun n c =>
    n + (gs.filter (fun g => g.ctx == c)).foldl (fun m g => max m (f g.lr)) (if c = ctx then add else 0)) 0

/-- Is a context resident: it has a team on some core, or saved (R39)? -/
def State.resident (s : State) (ctx : Nat) : Bool :=
  s.teams.any (fun _ t => t.state != .freed && (s.grid t.grid).ctx == ctx)

/-- Has a context a place among the resident ones (R39)? -/
def State.hasPlace (s : State) (ctx : Nat) : Bool :=
  s.resident ctx || (s.contexts.keys (fun c _ => s.resident c)).length < Config.residentContexts

/-- Do the needs of a grid fit the package: scratchpad, event counters, exchange windows and a resident place? -/
def State.gridFits (s : State) (ctx : Nat) (r : LaunchRec) : Bool :=
  let gs := s.openGrids
  gs.foldl (fun n g => n + g.lr.scratch) r.scratch ≤ s.scratchRoom &&
    countsHeld gs ctx r.events (fun l => l.events) ≤ Config.eventCounters &&
    countsHeld gs ctx r.windows (fun l => l.windows) ≤ Config.eventCounters &&
    s.hasPlace ctx

/-! ## Frames and places -/

/-- Take frames of a context's pool for a use: first those that a test prefers; none where too few are free. -/
def State.takeFrames (s : State) (ctx : Nat) (u : FrameUse) (first : Frame → Bool) : Nat → Option (State × List Nat)
  | 0 => some (s, [])
  | n + 1 =>
    match s.takeFrames ctx u first n with
    | none => none
    | some (s, l) =>
      let free := s.freeFrames ctx (fun _ => true)
      ((s.pickFrame (free.filter first)).orElse (fun _ => s.pickFrame free)).map (fun f =>
        (s.setUse ctx (Frame.no f) u, l ++ [Frame.no f]))

/-- Give frames back to the pool. -/
def State.freeUse (s : State) (ctx : Nat) (l : List Nat) : State := l.foldl (fun s n => s.setUse ctx n .free) s

/-- Frames of one course's spill area (R253). -/
def LaunchRec.spillFrames (r : LaunchRec) : Nat := (32 * r.spill + 65535) / 65536

/-- The lowest place of a bay that no course of a team on the core has, nor one of a list. -/
def State.freePlace (s : State) (core bay : Nat) (mine : List Nat) : Nat :=
  let used := s.courses.flatMap (fun e =>
    if e.2.core = core && e.2.bay = bay && ((s.team e.2.team).onCore || mine.contains e.1) then [e.2.place] else [])
  ((List.range 16).find? (fun p => !used.contains p)).getD 0

/-- Does a team fit on a core under an offset, with the rest of the core as it stands (R49)? -/
def State.teamFits (s : State) (r : LaunchRec) (core o : Nat) : Bool :=
  s.coreUsable core && o < 4 && ((s.coreLoad [] core).add (teamLoad r o)).fits

/-- Do cores stand by rank in a rectangle none of whose cores is fenced (R30, R35, R54): rank and core of each team? -/
def State.inRectangle (s : State) (r : LaunchRec) (ps : List (Nat × Nat)) : Bool :=
  (rectangles r).any (fun cs => cs.all s.coreUsable && ps.all (fun p => cs[p.1]? == some p.2))

/-- Do the teams of a list, as number and core, stand in a rectangle cluster by cluster? -/
def State.clustersOk (s : State) (r : LaunchRec) (ps : List (Nat × Nat)) : Bool :=
  let S := r.w * r.h
  let cs := ps.foldl (fun l p => insertNat l (p.1 / S)) []
  cs.all (fun c => s.inRectangle r ((ps.filter (fun p => p.1 / S == c)).map (fun p => (p.1 % S, p.2))))

end Sys2Proof.Machine
end

