-- ==== Sys2Proof/Machine/Saved.lean ====
section
/-! DEFINITION. Halt, save and restore (R53, R54, R131, R264, R289, R321–R323, R362, R389, R403, R449–R454). -/

namespace Sys2Proof.Machine

/-! ## Halting (R449) -/

/-- The teams that are halted, saved and restored with a team: its co-operative grid, or its cluster. -/
def State.unitOf (s : State) (h : Nat) : List Nat :=
  if (s.gridOf h).lr.coop then s.teams.keys (fun _ u => u.grid == (s.team h).grid) else s.clusterTeams h

/-- Halt one team: no further word issues, its shadow copies merge (R304, R449), and a VACQ of it that waited blocks no
other (R147). -/
def State.haltTeam (s : State) (h : Nat) : State :=
  if (s.team h).state = .running then
    (((s.onTeam h (fun t => { t with state := .halting })).mergeAll h).pump h).serveCores [h]
  else s

/-- Halt a team with its cluster or its co-operative grid. -/
def State.haltUnit (s : State) (h : Nat) : State := (s.unitOf h).foldl State.haltTeam s

/-- HALT_REQUEST (R449): from the front end, the host or the memory processor. -/
def execHaltRequest (team : Nat) (s : State) : Out :=
  if (s.team team).state = .running then .next (s.haltUnit team) else .next s

/-! ## Saving (R450–R453) -/

/-- Frames of a save image. The spec gives no size: the count is the model's.
(Log 53, DESIGN CHOICE.) -/
def LaunchRec.imageFrames (r : LaunchRec) : Nat :=
  (r.shared + 4096 * r.tiles + 16384 * r.pool + r.courses * (128 * r.base + 2048 * r.dregs + 8192)) / 65536 + 1

/-- Is a pending word one whose value lands before the image is taken (R264, R450)? -/
def Pend.beforeSave (p : Pend) : Bool :=
  match p.kind with
  | .values _ | .access .. | .perm .. => true
  | _ => false

/-- Has everything landed and been performed that the image needs: the team's own results, every transfer operation that has
begun (R362), and every access of its shared memory? -/
def State.quiet (s : State) (team : Nat) : Bool :=
  let t := s.team team
  t.shadows.isEmpty && [0, 1, 2, 3].all (fun b => !s.readQueued team ((s.core t.core).bay b).queue) &&
    t.courses.all (fun h => (s.course h).alu.isEmpty && (s.course h).pend.all (fun p => !p.beforeSave)) &&
    t.copies.all (fun e => e.2.ops.all (fun o => o.got.isNone || o.done)) &&
    !s.courses.any (fun _ c => c.pend.any (fun p => match p.kind with
      | .access (.shared k) _ _ => k == team
      | _ => false))

/-- Has every operation of a team's channels been acknowledged or refused? -/
def Team.settled (t : Team) : Bool := !t.busyBelow 0xFFFF t.opSeq

/-- Parked entries in use at a core: of the teams saved there, and of those of which a stream has neither re-homed from it nor
closed (R322, R492). -/
def State.parkedOn (s : State) (core : Nat) : Nat :=
  (s.teams.keys (fun _ t => (t.state == .saved && t.parked == some core) ||
    t.chans.any (fun _ c => c.streams.any (fun st => st.opened && st.old.contains core)))).length

/-- A slot in the image: a fetch starts again; the slot of a course halted in supervisor mode enters the handler afresh
(R453), and one that waits for the host-assisted path waits on. -/
def Course.savedSlot (c : Course) (j : Nat) : Slot :=
  let y := { c.slotN j with stalled := false, eligibleSince := none, urgent := false }
  let y := if y.wait == .fetch then { y with wait := .none } else y
  match c.sup, y.wait with
  | some _, .escalated _ _ => y
  | some u, _ => if u.slot = j then { y with mask := u.slotMask &&& c.live, wait := .trap u.trap 0 } else y
  | none, _ => y

/-- Does a course in supervisor mode wait for the host-assisted path? -/
def Course.waitsEscalated (c : Course) : Bool :=
  c.sup.any (fun u => match (c.slotN u.slot).wait with
    | .escalated _ _ => true
    | _ => false)

/-- A course in the image: it loses the handler bank, and its other slot waits until the handler has left (R438, R453). -/
def Course.saved (c : Course) : Course :=
  let keep := c.waitsEscalated
  { c with slot0 := c.savedSlot 0, slot1 := c.savedSlot 1, sup := if keep then c.sup else none,
           reenter := if keep then c.reenter else (c.sup.map (fun u => u.slot)).orElse (fun _ => c.reenter),
           pend := if keep then c.pend else c.pend.map Pend.orphaned }

/-- The operand-queue entries of a team leave the queues of a core, in queue order (R389).
(Log 57, DEDUCED.) -/
def State.takeEntries (s : State) (team core : Nat) : State × List MatEntry :=
  [0, 1, 2, 3].foldl (fun (r : State × List MatEntry) b =>
    let q := ((r.1.core core).bay b).queue
    let mine := fun (e : MatEntry) => (s.course e.crs).team == team
    (r.1.setQueue core b (q.filter (fun e => !mine e)), r.2 ++ q.filter mine)) (s, [])

/-- A stream of a team that is saved: what arrives for it goes to the parked entry, and on from an earlier one that it has
not left yet (R322, R492). -/
def Stream.parkedAt (st : Stream) (parked : Option Nat) : Stream :=
  { st with old := if st.opened then st.old ++ parked.toList else [] }

/-- The team leaves its core: the image holds it. -/
def State.saveTeam (s : State) (team : Nat) (frames : List Nat) (parked : Option Nat) : State :=
  let t := s.team team
  let hs := t.courses
  let s := hs.foldl (fun s h => s.onCourse h Course.saved) s
  let s := s.onCore t.core (fun k => { k with bank := k.bank.filter (fun h => !hs.contains h) })
  let r := s.takeEntries team t.core
  r.1.onTeam team (fun t =>
    { t with state := .saved, image := frames, parked := parked, matSaved := r.2,
             chans := t.chans.map (fun _ c => { c with streams := c.streams.map (fun st => st.parkedAt parked) }) })

/-- SAVE_COMPLETE (R450–R453): the team is at a boundary and its image finds frames, in bonded memory of its die if it
can. Without a parked entry the save waits until nothing is outstanding. A team of a fenced core whose image finds no
frame aborts its grid (R432). -/
def execSaveComplete (team : Nat) (s : State) : Out :=
  let t := s.team team
  let g := s.grid t.grid
  let free := s.parkedOn t.core < Config.parkedEntries
  if t.state ≠ .halting || !s.quiet team || (!free && !t.settled) then .next s
  else
    match s.takeFrames g.ctx .image (fun f => f.tier == 0 && f.die == dieOf t.core) g.lr.imageFrames with
    | some (s, l) => .next (s.saveTeam team l (if free then some t.core else none))
    | none => .next (if s.coreUsable t.core then s else s.abortGrid t.grid 0x0113 none)

/-! ## Copies afresh (R362) -/

/-- The elements that a transfer operation reads from main memory: lane, address and bytes. -/
def Copy.readElems (cp : Copy) (o : XferOp) : List (Nat × Nat × Nat) :=
  match cp.tcpy with
  | none => (mainItems (fun l => l.src) o.lanes).map (fun i => (i.lane, i.va, cp.n))
  | some d => o.reads.map (fun e => (e, d.elemVa o e, if e < 64 then d.elem else 1))

/-- Put a read among a stream's packets: before those not sent of its operation and of later ones, its own writes among
them (R350, R362). -/
def insertRead (q : OutPacket) : List OutPacket → List OutPacket
  | [] => [q]
  | p :: t => if p.sentAt.isNone && q.op ≤ p.op then q :: p :: t else p :: insertRead q t

/-- The reads of an unfinished transfer operation are made afresh, each from its present home, in their old place among
the team's operations. Where an element has no home its bytes come poisoned and the channel breaks. -/
def State.renewReads (s : State) (team id k : Nat) (cp : Copy) (o : XferOp) : State :=
  let ctx := (s.gridOf team).ctx
  let c := s.chan team cp.ch
  let mine := fun (r : ReadOut) => r.reader == .copy id k
  let unsent := c.streams.flatMap (fun st => st.pkts.filter (fun q => q.copy == some (id, k)))
  let op := ((c.reads.find? mine).map (fun r => r.op)).getD ((unsent.head?.map (fun q => q.op)).getD 0)
  let new := id + 2 ^ 64
  let es := (cp.readElems o).map (fun e => (e, if c.cause = 0 then s.rehomeVa ctx e.2.1 else none))
  let at_ := es.filterMap (fun e => e.2.map (fun h => (h.1, (⟨e.1.2.1, h.2, e.1.2.2, e.1.1⟩ : ReadElem))))
  let pkts := [16, 8, 4, 1].flatMap (fun n => (byDest (fun (p : Dest × ReadElem) => p.1) (at_.filter (fun p => p.2.n == n))).flatMap (fun g =>
    (cutRun n g.2).map (fun l =>
      ({ pkt := s.packetOf team cp.ch g.1 (.read (.copy new k) (l.map (fun p => p.2))), op := op } : OutPacket))))
  let outs := (byDest (fun (p : Dest × ReadElem) => p.1) at_).map (fun g =>
    ({ op := op, dest := g.1, left := g.2.length, reader := .copy new k, since := s.stamp } : ReadOut))
  let s := s.onChan team cp.ch (fun c =>
    pkts.reverse.foldl (fun c q => c.onStream q.pkt.key.dest (fun st => { st with pkts := insertRead q st.pkts }))
      { c with reads := c.reads.filter (fun r => !mine r) ++ outs })
  let bad := es.filter (fun e => e.2.isNone)
  let s := { s with net := s.net ++ bad.map (fun e => .data
    { key := ⟨s.chip, team, cp.ch, ⟨s.chip, 0, false⟩⟩, reader := .copy new k, lane := e.1.1, va := e.1.2.1, pa := 0,
      bytes := List.replicate e.1.2.2 0#8, poison := wordsOf 0 e.1.2.2, line := [], linePoison := [], moment := 0 }) }
  match bad with
  | [] => s
  | e :: _ =>
    let lost := match s.walk ctx e.1.2.1 with
      | .leaf x => leafLost x
      | _ => false
    if c.cause = 0 then s.breakChan 16 team cp.ch (if lost then 6 else 2) e.1.2.1 none else s

/-- Is a packet a read of a copy that has not been performed, by the copy's old number? -/
def oldRead (id : Nat) (q : OutPacket) : Bool :=
  match q.pkt.body with
  | .read (.copy i _) _ => i == id && q.sentAt.isNone
  | _ => false

/-- A side of a lane with the scratchpad of a die. -/
def Side.onDie (die : Nat) : Side → Side
  | .here (.scratch g _) o => .here (.scratch g die) o
  | x => x

/-- A copy as it goes on on a die (R362): its scratchpad is the one there, and its local source is read afresh. -/
def Copy.onDie (cp : Copy) (die : Nat) : Copy :=
  { cp with ops := cp.ops.map (fun o => { o with lanes := o.lanes.map (fun l => ⟨l.lane, l.src.onDie die, l.dst.onDie die⟩) }),
            tcpy := cp.tcpy.map (fun d => { d with sp := match d.sp with
              | .scratch g _ => .scratch g die
              | sp => sp }),
            seen := [] }

/-- A copy goes on under a new number, so that bytes read before the save are not used after it. -/
def State.renewCopy (s : State) (team : Nat) (e : Nat × Copy) : State :=
  let id := e.1
  let new := id + 2 ^ 64
  let cp := e.2.onDie (dieOf (s.team team).core)
  let todo := (cp.ops.zipIdx).filter (fun (p : XferOp × Nat) => !p.1.done && !p.1.reads.isEmpty)
  let s := s.onChan team cp.ch (fun c => { c with streams := c.streams.map (fun st =>
    { st with pkts := (st.pkts.filter (fun q => !oldRead id q)).map (fun q =>
        { q with copy := q.copy.map (fun k => (if k.1 = id then new else k.1, k.2)) }) }) })
  let s := { s with net := s.net.filter (fun m => match m with
    | .data x => (match x.reader with
      | .copy i _ => i != id
      | _ => true)
    | _ => true) }
  let s := todo.foldl (fun s (p : XferOp × Nat) => s.renewReads team id p.2 cp p.1) s
  let s := s.onTeam team (fun t => { t with copies := Tab.put (Tab.del t.copies id) new cp })
  s.onCourse cp.crs (fun c => { c with holds := c.holds.map (fun k => if k.1 = id then (new, k.2) else k) })

/-! ## Restoring (R454) -/

/-- Is there room on a core for what the image adds to R49: the items (R131) and the operand-queue entries (R389)? -/
def State.imageFits (s : State) (h core o : Nat) : Bool :=
  let t := s.team h
  let bayOf := fun (e : MatEntry) => bayAt (s.course e.crs).idx o
  s.itemsOn core + t.items.length ≤ Config.itemQueue &&
    [0, 1, 2, 3].all (fun b =>
      ((s.core core).bay b).queue.length + (t.matSaved.filter (fun e => bayOf e == b)).length ≤ Config.operandQueue)

/-- A stream of a restored team: its next packet carries the re-home flag, and its timers start afresh (R323).
(Log 58, DEDUCED.) -/
def Stream.restored (st : Stream) (clock : Nat) : Stream :=
  { st with rehome := st.opened, pkts := st.pkts.map (fun q => { q with sentAt := q.sentAt.map (fun _ => clock) }),
            resync := st.resync.map (fun r => (r.1, if r.1 = 0 then 0 else clock)), idleSince := clock }

/-- A slot of a restored course: a TLD over quota issues again (R289). -/
def Slot.restored (y : Slot) : Slot :=
  match y.wait with
  | .quota _ _ => { y with wait := .none }
  | _ => y

/-- Put the courses of a team into their bays; those of done have their places. -/
def State.placeCourses (s : State) (core o : Nat) (done : List Nat) : List Nat → State
  | [] => s
  | h :: t =>
    let b := bayAt (s.course h).idx o
    let p := s.freePlace core b done
    (s.onCourse h (fun c => { c with core := core, bay := b, place := p, slot0 := c.slot0.restored, slot1 := c.slot1.restored })).placeCourses
      core o (h :: done) t

/-- Restore one team at a place: none where it does not fit. -/
def State.restoreTeam (s : State) (p : Placement) : Option State :=
  let t := s.team p.team
  let lr := (s.gridOf p.team).lr
  let ctx := (s.gridOf p.team).ctx
  if !s.teamFits lr p.core p.offset || !s.imageFits p.team p.core p.offset then none
  else
    let s := s.freeUse ctx t.image
    let s := s.placeCourses p.core p.offset [] t.courses
    let s := t.matSaved.foldl (fun s e =>
      let b := bayAt (s.course e.crs).idx p.offset
      s.setQueue p.core b (((s.core p.core).bay b).queue ++ [e])) s
    let s := s.onTeam p.team (fun t =>
      { t with state := .running, core := p.core, offset := p.offset, image := [], matSaved := [], parked := none, acquire := s.stamp,
               poolUsed := t.poolUsed.foldl (fun u e => Tab.put u ((e.1 + p.offset + 4 - t.offset) % 4) e.2) [],
               chans := t.chans.map (fun _ c => { c with streams := c.streams.map (fun st => st.restored s.clock) }) })
    some (t.copies.foldl (fun s e => s.renewCopy p.team e) s)

/-- The handshakes that a path's failure asked for while the team was saved run from the new core (R317, R323). -/
def State.resyncSaved (s : State) (h : Nat) : State :=
  ((s.team h).chans.flatMap (fun c => (c.2.streams.filter (fun st => st.resync == some (0, 0))).map (fun st =>
    (⟨s.chip, h, c.1, st.dest⟩ : StreamKey)))).foldl (fun s k => s.startResync k) s

/-- Let the slots of a course go on whose domain-barrier phase completed meanwhile. -/
def State.wakeTeam (s : State) (h : Nat) : State :=
  let s := s.resyncSaved h
  let t := s.team h
  let s := t.courses.foldl (fun s k => (s.wakeDbar k 0).wakeDbar k 1) (s.afterSettle h)
  [0, 1, 2, 3].foldl (fun s b => s.servePool t.core b) s

/-- Does a copy of a team read from a page that is being moved (R428)? -/
def State.copyWaitsMove (s : State) (h : Nat) : Bool :=
  (s.team h).copies.any (fun _ cp => cp.ops.any (fun o => !o.done && (cp.readElems o).any (fun e =>
    s.walkWaits (s.gridOf h).ctx e.2.1)))

/-- RESTORE (R54, R322, R323, R454): a saved unit is placed whole, in rectangles, where the checks of R49, R50, R131 and
R389 find room. -/
def execRestore (place : List Placement) (s : State) : Out :=
  match place with
  | [] => .next s
  | p :: _ =>
    let unit := (s.unitOf p.team).filter (fun h => match (s.team h).state with
      | .saved | .halting => true
      | _ => false)
    let lr := (s.gridOf p.team).lr
    let whole := unit.all (fun h => (s.team h).state == .saved) && place.length == unit.length &&
      unit.all (fun h => place.any (fun q => q.team == h)) &&
      s.clustersOk lr (place.map (fun q => ((s.team q.team).number, q.core)))
    if !whole || unit.isEmpty || unit.any s.copyWaitsMove then .next s
    else
      match place.foldl (fun (r : Option State) q => r.bind (fun s => s.restoreTeam q)) (some s) with
      | none => .next s
      | some s => .next (unit.foldl State.wakeTeam s)

end Sys2Proof.Machine
end

