-- ==== Sys2Proof/Machine/Admission.lean ====
section
/-! DEFINITION. Admission: taking and checking records, starting grids and clusters, pre-emption, consent and the timers
of the front end (R39, R44, R46–R55, R62, R306, R469, R470). -/

namespace Sys2Proof.Machine

/-! ## Taking a record (R41, R47, R51) -/

/-- Is the next record of a queue present, and the queue free to take it (R41, R44)? -/
def Queue.ready (q : Queue) : Bool := !q.halted && q.current.isNone && q.waiting.isNone && 1 ≤ q.used && q.used ≤ q.slots

/-- Write a queue. -/
def State.setQueueRec (s : State) (qn : Nat) (q : Queue) : State := { s with queues := Tab.put s.queues qn q }

/-- Refuse a record (R51, R62): the error word where it can be written, a record of kind 1, and its event. -/
def State.refuseRecord (s : State) (qn ctx recNo signal cause : Nat) : State :=
  let w := errorWord recNo cause
  let s := if signal = 0 then s else (s.frontWrite ctx signal (bytesOf 8 w)).getD s
  s.logPost ctx { kind := 1, queue := qn, recNo := recNo, word := w, time := s.clock, pc := 0, addr := 0, info := 0, lane := 0 }

/-- The first check that a record fails (R51). -/
def State.recordFault (s : State) (ctx : Nat) (b : Option Bytes2) : Option Nat :=
  match b with
  | none => some 0x0002
  | some b =>
    let raw := b.map (fun y => y.1)
    let r := parseRecord raw
    if Bytes2.bad b then some 0x0002
    else if !recordOk raw then some 0x0001
    else if !s.inCode ctx r.entry || (r.handler ≠ 0 && !s.inCode ctx r.handler) then some 0x0004
    else if s.neverFits r then some 0x0003
    else none

/-- The completion signal address that a record names, 0 where none can be used (R62). -/
def signalOf (b : Option Bytes2) : Nat :=
  match b with
  | none => 0
  | some b =>
    let a := field (b.map (fun y => y.1)) 0x38 8
    if Bytes2.bad b || a % 8 ≠ 0 then 0 else a

/-- Must the next record of a queue wait: the page of its ring slot, of the head word or of the signal that it names is being
moved (R430)? -/
def State.recordWaits (s : State) (q : Queue) : Bool :=
  let a := signalOf (s.frontRead q.ctx (q.slotAddr q.head) 128)
  s.frontWaits q.ctx (q.slotAddr q.head) || s.frontWaits q.ctx q.headAddr || (a != 0 && s.frontWaits q.ctx a)

/-- Refuse the record that waits in a queue: where the page of its signal is being moved, once the move has ended (R62, R430). -/
def State.refuseWaiting (s : State) (qn cause : Nat) : State :=
  match Tab.find s.queues qn with
  | none => s
  | some q =>
    match q.waiting with
    | none => s
    | some w =>
      if w.lr.signal ≠ 0 && s.frontWaits q.ctx w.lr.signal then s.setQueueRec qn { q with waiting := some { w with refused := some cause } }
      else (s.setQueueRec qn { q with waiting := none }).refuseRecord qn q.ctx w.recNo w.lr.signal cause

/-- The records still in the ring are read and refused, oldest first, as far as none must wait. -/
def State.dropRing (s : State) (qn cause : Nat) : Nat → State
  | 0 => s
  | k + 1 =>
    match Tab.find s.queues qn with
    | some q =>
      if q.used = 0 || q.slots < q.used || s.recordWaits q then s
      else
        let b := s.frontRead q.ctx (q.slotAddr q.head) 128
        let n := (q.head + 1) % 2 ^ 32
        let s := s.frontAsks q.ctx (q.slotAddr q.head) 128
        let s := (s.frontWrite q.ctx q.headAddr (bytesOf 8 n)).getD s
        ((s.setQueueRec qn { q with head := n }).refuseRecord qn q.ctx q.head (signalOf b) cause).dropRing qn cause k
    | none => s

/-- A stopped context's records not admitted are refused, the one taken first (R476). -/
def State.dropRecords (s : State) (qn cause : Nat) : State := (s.refuseWaiting qn cause).dropRing qn cause 4096

/-- Take the next record of a queue: it is read once, the head word is written, and it is refused or waits (R41, R47,
R51, R469).
(Log 60, DEDUCED.) -/
def State.takeRecord (s : State) (qn : Nat) (q : Queue) : State :=
  let b := s.frontRead q.ctx (q.slotAddr q.head) 128
  let n := (q.head + 1) % 2 ^ 32
  let fault := s.recordFault q.ctx b
  let s := s.frontAsks q.ctx (q.slotAddr q.head) 128
  let s := (s.frontWrite q.ctx q.headAddr (bytesOf 8 n)).getD s
  let s := { s with lastServed := Tab.put s.lastServed q.prio qn }
  match fault with
  | some cause => (s.setQueueRec qn { q with head := n }).refuseRecord qn q.ctx q.head (signalOf b) cause
  | none =>
    let lr := parseRecord ((b.getD []).map (fun y => y.1))
    let w : Waiting := { lr := lr, recNo := q.head, since := s.clock }
    if (s.context q.ctx).duty.testBit 0 then
      (s.setQueueRec qn { q with head := n, waiting := some { w with asked := some s.devSeq } }).ask 0x8001 q.ctx (.admission qn)
        (le 4 qn ++ le 4 q.head ++ le 8 lr.entry)
    else s.setQueueRec qn { q with head := n, waiting := some w }

/-! ## What may start next -/

/-- What a queue starts next: the next cluster of a grid partly started, or the record that waits. -/
inductive Next where
  | cluster (g : Nat)
  | fresh (w : Waiting)
  deriving DecidableEq, Repr

/-- The grids of a queue with teams not yet started, the one admitted first in front: a persistent grid releases its queue before
all its clusters have started (R44, R52). -/
def State.partGrids (s : State) (qn : Nat) : List Nat :=
  sortBy (fun a b => (s.grid a).admitted ≤ (s.grid b).admitted)
    (s.grids.keys (fun _ x => x.queue == qn && !x.done && x.abort.isNone && decide (x.nextTeam < x.lr.teams)))

/-- What a queue may start, in the order in which it is tried; a grid runs on after its queue has been destroyed (R477). -/
def State.nexts (s : State) (qn : Nat) : List Next :=
  (s.partGrids qn).map Next.cluster ++
  (match Tab.find s.queues qn with
    | some q =>
      (match q.waiting with
        | some w => if q.halted || w.refused.isSome || (w.asked.isSome && w.consent ≠ some true) then [] else [.fresh w]
        | none => [])
    | none => [])

/-- The priority of what a queue starts next, and its context. -/
def State.nextPrio (s : State) (qn : Nat) : Next → Nat
  | .cluster g => (s.grid g).prio
  | .fresh _ => ((Tab.find s.queues qn).map (fun q => q.prio)).getD 0

/-- The context of what a queue starts next. -/
def State.nextCtx (s : State) (qn : Nat) : Next → Nat
  | .cluster g => (s.grid g).ctx
  | .fresh _ => ((Tab.find s.queues qn).map (fun q => q.ctx)).getD 0

/-- The numbers of the queues that have something to start. -/
def State.queueNumbers (s : State) : List Nat :=
  (s.grids.filter (fun e => !e.2.done && e.2.nextTeam < e.2.lr.teams)).foldl (fun l e => insertNat l e.2.queue)
    (s.queues.keys (fun _ _ => true))

/-- The launch record of what starts next. -/
def State.nextRec (s : State) : Next → LaunchRec
  | .cluster g => (s.grid g).lr
  | .fresh w => w.lr

/-- Does the package have what a fresh grid needs (R39, R50)? A grid once admitted holds it, but for its context's place among
the resident ones. -/
def State.packageFits (s : State) (ctx : Nat) : Next → Bool
  | .cluster _ => s.hasPlace ctx
  | .fresh w => s.gridFits ctx w.lr

/-- Does what a queue starts next fit now, as it stands but for the teams of a list? -/
def State.fitsNow (s : State) (qn : Nat) (x : Next) (gone : List Nat) : Bool :=
  s.packageFits (s.nextCtx qn x) x && s.hasRoom (s.nextRec x) (s.nextRec x).needed (s.coreLoad gone)

/-- How long it is until a queue's turn among those of a priority, of which some queue was served last (R44). -/
def State.distance (s : State) (key k : Nat) : Nat := (k + 63 - Tab.get 63 s.lastServed key) % 64

/-- Is the queue, among those of its priority with a record ready, the next in turn (R44)? -/
def State.inTurn (s : State) (qn : Nat) (q : Queue) : Bool :=
  !s.queues.any (fun k x => x.prio == q.prio && x.ready && s.distance q.prio k < s.distance q.prio qn)

/-- Is what a queue starts next held by R54, a saved team of its priority, or by R55, a co-operative grid that has waited?
(Log 121, DESIGN CHOICE.) -/
def State.queueHeld (s : State) (qn : Nat) (x : Next) : Bool :=
  let prio := s.nextPrio qn x
  s.teams.any (fun _ t => t.state == .saved && (s.grid t.grid).prio == prio) ||
    s.queues.any (fun k q => k != qn && prio ≤ q.prio && q.waiting.any (fun w => w.blocks))

/-- Has the context's pool frames for the spill areas of what starts next (R253)? -/
def State.framesFit (s : State) (qn : Nat) (x : Next) : Bool :=
  let r := s.nextRec x
  r.spill == 0 || decide (r.needed * (r.w * r.h) * r.courses * r.spillFrames ≤ (s.freeFrames (s.nextCtx qn x) (fun _ => true)).length)

/-- Could a queue start something now?
(Log 73, DEDUCED.) -/
def State.couldStart (s : State) (qn : Nat) (x : Next) : Bool := !s.queueHeld qn x && s.fitsNow qn x [] && s.framesFit qn x

/-- Does something of higher priority go first: a queue has a record to take, or something that could start now (R44)? -/
def State.higherFirst (s : State) (prio : Nat) : Bool :=
  s.queues.any (fun _ q => prio < q.prio && q.ready) ||
    s.queueNumbers.any (fun k => (s.nexts k).any (fun x => prio < s.nextPrio k x && s.couldStart k x))

/-- Is a grid's record the next in turn to be admitted, among those of its priority that could start now (R44)? -/
def State.startsInTurn (s : State) (qn : Nat) : Next → Bool
  | .cluster _ => true
  | .fresh w =>
    let prio := s.nextPrio qn (.fresh w)
    !(s.queues.keys (fun k q => q.prio == prio && s.distance (prio + 4) k < s.distance (prio + 4) qn)).any (fun k =>
      (s.nexts k).any (fun y => match y with
        | .fresh _ => s.couldStart k y
        | .cluster _ => false))

/-- A grid already started of the queue whose waiting record blocks may start no new cluster either (R55). -/
def State.ownHeld (s : State) (qn : Nat) : Next → Bool
  | .cluster _ => (Tab.find s.queues qn).any (fun q => q.waiting.any (fun w => w.blocks))
  | .fresh _ => false

/-! ## Starting teams (R36, R46, R52, R253) -/

/-- A course as it starts (R46). -/
def startCourse (r : LaunchRec) (team i core bay place : Nat) (spill : List Nat) : Course :=
  let m : LaneMask := if r.width16 then 0xFFFF#32 else 0xFFFFFFFF#32
  { team := team, idx := i, core := core, bay := bay, place := place, slot0 := { pc := r.entry, mask := m }, slot1 := {},
    live := m, spill := spill, s := [(0, ⟨regPart r.arg 0, false⟩), (1, ⟨regPart r.arg 1, false⟩)] }

/-- Start the courses of a team. Without frames for a spill area the team does not start; frames of the core's own die are taken
first.
(Log 109, DESIGN CHOICE.)
(Log 122, DESIGN CHOICE.) -/
def State.startCourses (s : State) (r : LaunchRec) (ctx team core o : Nat) : List Nat → Option (State × List Nat)
  | [] => some (s, [])
  | i :: t =>
    match s.startCourses r ctx team core o t with
    | none => none
    | some (s, hs) =>
      (s.takeFrames ctx .spill (fun f => f.die == dieOf core) r.spillFrames).map (fun y =>
        let h := Tab.fresh y.1.courses
        let b := bayAt i o
        (y.1.setCourse h (startCourse r team i core b (y.1.freePlace core b hs) y.2), h :: hs))

/-- Start a team of a grid at a place: none where it does not fit. -/
def State.startTeam (s : State) (g : Nat) (p : Placement) : Option State :=
  let r := (s.grid g).lr
  let h := Tab.fresh s.teams
  if !s.teamFits r p.core p.offset then none
  else
    (s.startCourses r (s.grid g).ctx h p.core p.offset (List.range r.courses).reverse).map (fun y =>
      y.1.setTeam h { grid := g, number := p.team, core := p.core, offset := p.offset, courses := y.2.reverse, acquire := s.stamp })

/-- Start the next teams of a grid: the teams in order, each cluster in a rectangle (R35, R52). -/
def State.startTeams (s : State) (g : Nat) (place : List Placement) : Option State :=
  let x := s.grid g
  let n := x.lr.needed * (x.lr.w * x.lr.h)
  if place.map (fun p => p.team) ≠ (List.range n).map (fun i => x.nextTeam + i) ||
      !s.clustersOk x.lr (place.map (fun p => (p.team, p.core))) then none
  else
    (place.foldl (fun (r : Option State) p => r.bind (fun s => s.startTeam g p)) (some s)).map (fun s =>
      s.setGrid g { s.grid g with nextTeam := x.nextTeam + n })

/-- Event counters that a context comes to hold are zero on every die (R306). -/
def State.clearEvents (s : State) (ctx lo hi : Nat) : State :=
  { s with events := s.events.filter (fun e => !(e.1 / 4096 % 256 == ctx && lo ≤ e.1 % 4096 && e.1 % 4096 < hi)) }

/-- Start what is next in a queue at a place: none where the place does not do. The line caches give way to the scratchpad of a
fresh grid (R21, R22). -/
def State.startNext (s : State) (qn : Nat) (place : List Placement) : Next → Option State
  | .cluster g => if s.hasPlace (s.grid g).ctx then s.startTeams g place else none
  | .fresh w =>
    (Tab.find s.queues qn).bind (fun q =>
      if !s.gridFits q.ctx w.lr then none
      else
        let g := Tab.fresh s.grids
        let x : Grid := { ctx := q.ctx, queue := qn, recNo := w.recNo, prio := q.prio, lr := w.lr, admitted := s.stamp }
        let s := (s.clearEvents q.ctx (s.countersHeld q.ctx) w.lr.events).setGrid g x
        (s.startTeams g place).map (fun s =>
          ({ s.setQueueRec qn { q with waiting := none, current := if w.lr.persist then none else some g } with
              lastServed := Tab.put s.lastServed (q.prio + 4) qn } : State).trimFar))

/-! ## Pre-emption (R53) -/

/-- The units of lower priority that may be pre-empted, in the order in which they are taken: the lowest priority first,
then the grid admitted last, then the cluster with the highest number; a co-operative grid is one unit. -/
def State.victims (s : State) (prio : Nat) : List (List Nat) :=
  let run := s.teams.filter (fun e => e.2.state == .running && (s.grid e.2.grid).prio < prio)
  let key := fun (e : Nat × Team) =>
    let g := s.grid e.2.grid
    (g.prio, s.stamp + 1 - g.admitted, e.2.grid, if g.lr.coop then 0 else 2 ^ 32 - e.2.number / (g.lr.w * g.lr.h))
  let le4 := fun (a b : Nat × Nat × Nat × Nat) =>
    a.1 < b.1 || (a.1 == b.1 && (a.2.1 < b.2.1 || (a.2.1 == b.2.1 && (a.2.2.1 < b.2.2.1 ||
      (a.2.2.1 == b.2.2.1 && a.2.2.2 ≤ b.2.2.2)))))
  let ks := (run.map key).foldl (fun (l : List (Nat × Nat × Nat × Nat)) k => if l.contains k then l else l ++ [k]) []
  (sortBy le4 ks).map (fun k => (run.filter (fun e => key e == k)).map (fun e => e.1))

/-- Do the images of the teams of a list find frames (R452)? -/
def State.imagesFit (s : State) (ts : List Nat) : Bool :=
  let ctxs := ts.foldl (fun l h => insertNat l (s.gridOf h).ctx) []
  ctxs.all (fun c =>
    (ts.filter (fun h => (s.gridOf h).ctx == c)).foldl (fun n h => n + (s.gridOf h).lr.imageFrames) 0
      ≤ (s.freeFrames c (fun _ => true)).length)

/-- Units to halt, taken in order until what waits fits; none where it would not fit even so. -/
def State.takeVictims (s : State) (fits : List Nat → Bool) : List (List Nat) → List (List Nat) → Option (List (List Nat))
  | acc, [] => if fits acc.flatten then some acc else none
  | acc, u :: t =>
    if fits acc.flatten then some acc
    else if s.imagesFit (acc ++ [u]).flatten then s.takeVictims fits (acc ++ [u]) t
    else s.takeVictims fits acc t

/-- Drop the units that are not needed, the last taken first.
(Log 102, DESIGN CHOICE.) -/
def dropUnneeded (fits : List Nat → Bool) : List (List Nat) → List (List Nat) → List (List Nat)
  | keep, [] => keep
  | keep, u :: t => if fits (keep ++ t).flatten then dropUnneeded fits keep t else dropUnneeded fits (u :: keep) t

/-- Pre-empt for what is next in a queue: none where it fits once halting teams have left, or cannot be made to fit. -/
def State.preempt (s : State) (qn : Nat) (x : Next) : Option State :=
  let leaving := s.teams.keys (fun _ t => t.state == .halting)
  let fits := fun (l : List Nat) => s.fitsNow qn x (leaving ++ l)
  match s.takeVictims fits [] (s.victims (s.nextPrio qn x)) with
  | none | some [] => none
  | some us => some (((dropUnneeded fits [] us.reverse).flatten).foldl State.haltUnit s)

/-- Start one of the things that a queue may start at a place: the first for which it is the turn, that nothing holds or goes
before, and for which the place does. -/
def State.startAt (s : State) (qn : Nat) (place : List Placement) : State :=
  (((s.nexts qn).filter (fun x => !s.ownHeld qn x)).findSome? (fun x =>
    if s.queueHeld qn x || s.higherFirst (s.nextPrio qn x) || !s.startsInTurn qn x then none else s.startNext qn place x)).getD s

/-- ADMIT_GRID (R44, R51–R55, R467, R468): the front end takes a record of a queue; or starts what is next in it at a place, in
the order of the teams; or, with no place, pre-empts for the first of these that it can make room for.
(Log 9, DEDUCED.) -/
def execAdmitGrid (qn : Nat) (place : List Placement) (s : State) : Out :=
  if s.wiping || s.lifeCycle ≠ .deployed then .next s
  else if !place.isEmpty then .next (s.startAt qn place)
  else
    match (Tab.find s.queues qn).filter Queue.ready with
    | some q =>
      if s.inTurn qn q && !s.higherFirst q.prio && !s.recordWaits q then .next (s.takeRecord qn q) else .next s
    | none =>
      .next ((((s.nexts qn).filter (fun x => !s.ownHeld qn x)).findSome? (fun x =>
        if s.higherFirst (s.nextPrio qn x) then none else s.preempt qn x)).getD s)

/-! ## Timers and consent -/

/-- COOP_WAIT_TIMER (R55): a co-operative grid has waited 100 µs at the head of its queue. -/
def execCoopWaitTimer (qn : Nat) (s : State) : Out :=
  match Tab.find s.queues qn with
  | none => .next s
  | some q =>
    match q.waiting with
    | some w =>
      if w.lr.coop && w.since + 100 * Config.cyclesPerUs ≤ s.clock then
        .next (s.setQueueRec qn { q with waiting := some { w with blocks := true } })
      else .next s
    | none => .next s

/-- ADMISSION_CONSENT (R51, R469, R476): a record that the host agent declines is refused, and so is one that has been waiting for
its refusal. -/
def execAdmissionConsent (qn : Nat) (s : State) : Out :=
  match Tab.find s.queues qn with
  | none => .next s
  | some q =>
    match q.waiting with
    | some w =>
      (match w.refused, w.consent with
        | some cause, _ => .next (s.refuseWaiting qn cause)
        | none, some false => .next (s.refuseWaiting qn 0x0005)
        | none, _ => .next s)
    | none => .next (q.refusing.elim s (fun cause => s.dropRing qn cause 4096))

/-- The host agent's answer to an admission request. -/
def State.consentAnswer (s : State) (seq : Nat) (yes : Bool) : State :=
  { s with queues := s.queues.map (fun _ q => { q with waiting := q.waiting.map (fun w =>
      if w.asked = some seq then { w with consent := some yes } else w) }) }

/-- The host-assisted path's answer to an escalated trap. -/
def State.escalationAnswered (s : State) (crs slot : Nat) (yes : Bool) : State :=
  s.onCourse crs (fun c => c.onSlot slot (fun y => match y.wait with
    | .escalated t none => { y with wait := .escalated t (some yes) }
    | _ => y))

/-- The context that a request to the host agent concerns. -/
def State.askCtx (s : State) : AgentAsk → Nat
  | .admission q => ((Tab.find s.queues q).map (fun x => x.ctx)).getD 0
  | .firstTouch crs _ => s.ctxOf (s.course crs)
  | .recovery g _ _ => (s.grid g).ctx
  | .groupSetup ctx _ _ => ctx

/-- AGENT_TIMEOUT (R470, R483): a request to the host agent is unanswered after 100 ms: it counts as a refusal, or as a
decline for first touch; an abort that it was asked about takes place. -/
def execAgentTimeout (seq : Nat) (s : State) : Out :=
  match Tab.find s.asks seq with
  | none => .next s
  | some a =>
    if s.clock < a.since + 100000 * Config.cyclesPerUs || a.answer.isSome then .next s
    else
      let ctx := s.askCtx a.what
      let s := { s with asks := Tab.del s.asks seq }
      let s := match a.what with
        | .admission _ => s.consentAnswer seq false
        | .firstTouch crs slot => s.escalationAnswered crs slot false
        | .recovery g cause t => s.abortNow g cause t
        | .groupSetup _ _ _ => { s with asks := Tab.put s.asks seq { a with answer := some false } }
      .next (s.mgmt ctx 7 (le 4 seq))

end Sys2Proof.Machine
end

