-- ==== Sys2Proof/Machine/Retire.lean ====
section
/-! DEFINITION. The end of teams and grids: freeing, tickets reclaimed, the completion signal and the error word
(R59–R62, R251, R286, R313). -/

namespace Sys2Proof.Machine

/-! ## Teams (R59) -/

/-- Has some course of a team an entry in an operand queue of its core? -/
def State.matQueued (s : State) (t : Team) : Bool :=
  [0, 1, 2, 3].any (fun b => ((s.core t.core).bay b).queue.any (fun e => t.courses.contains e.crs))

/-- A broken channel on which no course of the team has been trapped (R313). -/
def Team.untrapped (t : Team) : Option Chan :=
  (t.chans.find? (fun e => e.2.cause ≠ 0 && !e.2.trapped)).map (fun e => e.2)

/-- Free an ended team: its frames return to the pool (R59, R253, R452). -/
def State.freeTeam (s : State) (h : Nat) : State :=
  let t := s.team h
  let g := s.grid t.grid
  let s := s.freeUse g.ctx (t.image ++ t.courses.flatMap (fun k => (s.course k).spill))
  let s := s.onTeam h (fun t => { t with state := .freed, image := [], matSaved := [], parked := none })
  s.setGrid t.grid { g with freed := g.freed + 1 }

/-- Has a course of a team a local access that has not been performed? -/
def State.accessing (s : State) (t : Team) : Bool :=
  t.courses.any (fun h => (s.course h).pend.any (fun p => match p.kind with
    | .access .. => true
    | _ => false))

/-- TEAM_FREE (R59, R60, R251, R304, R313): the shadow copies of an ended team merge; once every operation of it is over, a
break that the team was never trapped on aborts the grid, and the team is freed. Its local accesses come first: an STK writes main
memory, and every write of the grid goes before its completion signal.
(Log 72, DEDUCED.)
(Log 110, DEDUCED.) -/
def execTeamFree (team : Nat) (s : State) : Out :=
  let t := s.team team
  if t.state ≠ .ended then .next s
  else if !t.shadows.isEmpty then .next ((s.mergeAll team).pump team)
  else if !t.settled || !t.copies.isEmpty || s.matQueued t || s.accessing t then .next s
  else
    match (if (s.grid t.grid).abort.isSome then none else t.untrapped) with
    | some c => .next (s.abortGrid t.grid (0x0100 + causeTrap c.cause) none)
    | none => .next (s.freeTeam team)

/-! ## Grids (R60–R62) -/

/-- Does something of a grid still run outside its courses: a COLL, an XSEND, a LAUNCH, or a barrier arrival?
(Log 84, DEDUCED.) -/
def State.gridBusy (s : State) (g : Nat) : Bool :=
  let mine := fun (crs : Nat) => (s.team (s.course crs).team).grid == g
  s.colls.any (fun _ k => mine k.crs) || s.xsends.any (fun _ k => mine k.crs) ||
    s.launches.any (fun _ k => mine k.crs) || s.dbarArrs.any (fun _ k => mine k.crs)

/-- Is a ticket of a grid claimed: it is returned with its delivery (R271, R286)? -/
def State.claimedOf (s : State) (g : Nat) : Bool := s.entries.any (fun _ e => e.grid == g && e.state == .claimed)

/-- Has a grid drained (R60)? -/
def State.drained (s : State) (g : Nat) : Bool :=
  let x := s.grid g
  !x.done && (x.nextTeam == x.lr.teams || x.abort.isSome) && !s.teams.any (fun _ t => t.grid == g && t.state != .freed) &&
    !s.gridBusy g && !s.claimedOf g

/-- Reclaim the tickets of a grid (R286). A claimed entry leaves its state only with its delivery (R271). -/
def State.reclaim (s : State) (g : Nat) : State :=
  { s with entries := s.entries.map (fun _ e =>
      if e.grid = g && (e.state == .pending || e.state == .ready) then
        { e.drop with expired := none }
      else e) }

/-- The record of a grid in the error log (R484). -/
def gridRecord (x : Grid) (kind word clock addr : Nat) (t : TrapRec) : ErrRec :=
  { kind := kind, queue := x.queue, recNo := x.recNo, word := word, time := clock, pc := t.pc, addr := addr, info := t.info,
    lane := if kind = 2 then t.laneWord.toNat else 0 }

/-- Write what the grid's end is signalled with: the completion value, or the error word with its record (R60, R62). -/
def State.signal (s : State) (x : Grid) : State :=
  let put := fun (w : Nat) => if x.lr.signal = 0 then some s else s.frontWrite x.ctx x.lr.signal (bytesOf 8 w)
  match x.abort with
  | none => (put x.lr.value).getD (s.logPost x.ctx (gridRecord x 4 x.lr.value s.clock x.lr.signal { code := 0 }))
  | some a =>
    let w := errorWord x.recNo a.cause
    let r := match a.trap with
      | some t => gridRecord x 2 w s.clock t.addr t
      | none => { gridRecord x 2 w s.clock 0 { code := 0 } with lane := 0 }
    ((put w).getD s).logPost x.ctx r

/-- Free what the grid holds in the package: its scratchpad, and the exchange windows that no other grid of its context
declares (R60, R404). -/
def State.releaseGrid (s : State) (g : Nat) : State :=
  let x := s.grid g
  let s := s.setGrid g { x with done := true }
  let left := (s.openGrids.filter (fun y => y.ctx == x.ctx)).foldl (fun n y => max n y.lr.windows) 0
  { s with
    scratch := s.scratch.filter (fun e => e.1 / 8 != g)
    windows := s.windows.filter (fun e => !(e.1 / 256 == x.ctx && left ≤ e.1 % 256))
    queues := s.queues.map (fun _ q => if q.current = some g then { q with current := none } else q) }

/-- COMPLETION_SIGNAL (R60–R62, R286): once a grid has drained. -/
def execCompletionSignal (grid : Nat) (s : State) : Out :=
  let x := s.grid grid
  if !s.drained grid || (x.lr.signal ≠ 0 && s.frontWaits x.ctx x.lr.signal) then .next s
  else .next (((s.reclaim grid).signal x).releaseGrid grid).trimFar

end Sys2Proof.Machine
end

