-- ==== Sys2Proof/Machine/Service.lean ====
section
/-! DEFINITION. Units and links that fail and return (R27, R30, R51, R317, R392–R394, R402, R432, R433). -/

namespace Sys2Proof.Machine

/-! ## Units that leave service (R30, R432) -/

/-- The number of a kind of unit in the management event (R483). -/
def UnitKind.code : UnitKind → Nat
  | .core => 0
  | .die => 1
  | .slice => 2
  | .port => 3

/-- Fence a unit and raise the event. -/
def State.fence (s : State) (k : UnitKind) (n : Nat) : State :=
  ({ s with fenced := s.fenced ++ [(k, n)] }).mgmt 0 3 (le 4 (UnitKind.code k) ++ le 4 n)

/-- The teams of the cores that meet a test leave them: each is halted, to be saved, where its core can still do so, and
otherwise its grid is aborted (R432). -/
def State.vacate (s : State) (hit : Nat → Bool) : State :=
  (s.teams.keys (fun _ t => hit t.core && (t.state == .running || t.state == .halting))).foldl (fun s h =>
    if Config.freeBit s.stamp (2 ^ 50 + h) then s.haltUnit h else s.abortGrid (s.team h).grid 0x0113 none) s

/-- Records that wait and no longer fit an empty package are refused (R51). -/
def State.recheck (s : State) : State :=
  (s.queues.keys (fun _ q => q.waiting.any (fun w => w.refused.isNone && s.neverFits w.lr))).foldl
    (fun s qn => s.refuseWaiting qn 0x0003) s

/-- What a die holds is gone: the scratchpad copies, the event counters and the far lines (R433). -/
def State.dropDie (s : State) (die : Nat) : State :=
  { s with
    scratch := s.scratch.filter (fun e => e.1 % 8 != die)
    events := s.events.filter (fun e => e.1 / (4096 * 256) != die)
    farLines := s.farLines.filter (fun f => f.die != die) }

/-- A die leaves service (R30, R432, R433). -/
def State.loseDie (s : State) (die : Nat) : State :=
  let s := (s.fence .die die).vacate (fun c => dieOf c == die)
  let s := (s.contexts.keys (fun _ _ => true)).foldl (fun s c => s.evacuate c die) s
  (s.dropDie die).recheck

/-- DIE_OUT_OF_SERVICE (R30, R432, R433). A packet of which a part has been applied is applied first: an access completes at its old
home or is refused there, whole (R430). -/
def execDieOutOfService (die : Nat) (s : State) : Out :=
  if die < Config.dies && s.inService die && !s.halfApplied then .next (s.loseDie die) else .next s

/-! ## Links (R27, R317, R393, R402) -/

/-- Every group of every context: the context, the number and the entry. -/
def State.allGroups (s : State) : List (Nat × Nat × Group) := 
  s.contexts.flatMap (fun c => c.2.groups.flatMap (fun (g : Nat × Group) => [(c.1, g.1, g.2)]))

/-- The streams with packets outstanding whose way to their destination meets a test (R317). -/
def State.streamsOver (s : State) (hit : Team → Dest → Bool) : List StreamKey :=
  s.teams.flatMap (fun t => t.2.chans.flatMap (fun c => (c.2.streams.filter (fun st =>
    st.oldest.isSome && st.resync.isNone && hit t.2 st.dest)).map (fun st => (⟨s.chip, t.1, c.1, st.dest⟩ : StreamKey))))

/-- Streams that may have packets on a path that has failed run the handshake; which of the paths between two ends a stream used
is left open. A saved team's runs it from the core on which it is restored (R317, R323). -/
def State.pathFails (s : State) (keys : List StreamKey) : State :=
  (keys.zipIdx.filter (fun (p : StreamKey × Nat) => Config.freeBit s.stamp (2 ^ 51 + p.2))).foldl (fun (s : State) (p : StreamKey × Nat) =>
    if (s.team p.1.team).state = .saved then
      s.onChan p.1.team p.1.ch (fun c => c.onStream p.1.dest (fun st => { st with resync := some (0, 0) }))
    else s.startResync p.1) s

/-- May a packet to a destination use the link group between two packages, on a detour too (R27)? -/
def State.usesGroup (s : State) (a b : Nat) (_t : Team) (d : Dest) : Bool :=
  d.chip != s.chip && (wayLinks (domainChips s.domain) s.chip d.chip).any (fun l => l == (a, b) || l == (b, a))

/-- The link group between two packages fails: the fabric routes around it, and the trees that use it are rebuilt. -/
def State.groupFails (s : State) (a b : Nat) : State :=
  if !(s.inDomain a && s.inDomain b && directPair a b) || linkDown s.linksDown a b then s
  else
    let keys := s.streamsOver (s.usesGroup a b)
    let s := { s with linksDown := s.linksDown ++ [(a, b)] }
    let s := s.allGroups.foldl (fun s g =>
      if g.2.2.uses a b then s.rebuildTree g.1 g.2.1 g.2.2 else s) s
    s.pathFails keys

/-- Is there a die-to-die link between two dies (R13)? Die 8 is the collective die. -/
def dieLink (a b : Nat) : Bool := (b == a + 1 && a != 3 && a < 7) || (b == a + 4 && a < 4) || (b == 8 && a < 8)

/-- May a packet of a team to a destination use a link between two dies? Traffic to another package leaves by the collective link of
its own die (R15); between the dies of the package, and to the host port on the collective die, it takes any path (R14, R24). -/
def State.usesDieLink (s : State) (a b : Nat) (t : Team) (d : Dest) : Bool :=
  let die := dieOf t.core
  if d.chip != s.chip then (a, b) == (die, 8) || (a, b) == (8, die) else d.host || d.die != die

/-- LINK_FAILURE (R13, R27, R317, R393, R402): a link group between two packages, or a link between two dies, fails. Operations of
a group that has lost every path to a member end by their timeout. -/
def execLinkFailure (k : LinkKind) (ends : Nat × Nat) (s : State) : Out :=
  let a := ends.1
  let b := ends.2
  match k with
  | .domain => .next (s.groupFails a b)
  | .dies =>
    if !(dieLink a b || dieLink b a) || linkDown s.dieLinksDown a b then .next s
    else
      let keys := s.streamsOver (s.usesDieLink a b)
      .next ({ s with dieLinksDown := s.dieLinksDown ++ [(a, b)] }.pathFails keys)

/-- Ports of a direct link group (R26). -/
def State.portsPerGroup (s : State) : Nat := 32 / (s.domain - 1)

/-- The package at the other end of a port: the groups of the row come first, each with ports that follow one another, then
those of the column. None for a port that is powered down (R26).
(Log 100, DESIGN CHOICE.) -/
def State.portPeer (s : State) (p : Nat) : Option Nat :=
  let g := p / s.portsPerGroup
  let at_ := fun (me i : Nat) => if i < me then i else i + 1
  if s.domain ≤ 1 || 2 * (s.domain - 1) * s.portsPerGroup ≤ p then none
  else if g < s.domain - 1 then some (s.chip / 32 * 32 + at_ (s.chip % 32) g)
  else some (at_ (s.chip / 32) (g - (s.domain - 1)) * 32 + s.chip % 32)

/-- The ports of the link group to a package. -/
def State.portsTo (s : State) (peer : Nat) : List Nat := (List.range 64).filter (fun p => s.portPeer p == some peer)

/-- Is every port of this package fenced that joins two packages (R30)? -/
def State.groupFenced (s : State) (a b : Nat) : Bool :=
  let peer := if a = s.chip then b else a
  (a == s.chip || b == s.chip) && (s.portsTo peer).all (fun p => s.fenced.contains (.port, p))

/-- LINK_RETURN (R393): the tree of R392 is rebuilt where the link that returns is one whose failure the tree has met, or which
it uses, and where a path returns after a time with none. A group whose ports are all fenced does not return (R30).
(Log 112, DEDUCED.) -/
def execLinkReturn (k : LinkKind) (ends : Nat × Nat) (s : State) : Out :=
  let a := ends.1
  let b := ends.2
  let other := fun (l : Nat × Nat) => l != (a, b) && l != (b, a)
  match k with
  | .dies => .next { s with dieLinksDown := s.dieLinksDown.filter other }
  | .domain =>
    if !linkDown s.linksDown a b || s.groupFenced a b then .next s
    else
      let old := s
      let s := { s with linksDown := s.linksDown.filter other }
      .next (s.allGroups.foldl (fun s g =>
        if linkDown g.2.2.lost a b || g.2.2.uses a b || (!old.groupWhole g.2.2 && s.groupWhole g.2.2) then
          s.rebuildTree g.1 g.2.1 g.2.2
        else s) s)

/-! ## Units that are fenced (R26, R30, R317) -/

/-- Does a unit exist: of cores, dies and slices by their numbers in the package, and of the ports in use? -/
def State.unitExists (s : State) (k : UnitKind) (n : Nat) : Bool :=
  match k with
  | .core => n < Config.dies * Config.coresPerDie
  | .die => n < Config.dies
  | .slice => n < Config.dies * Config.slicesPerDie
  | .port => (s.portPeer n).isSome

/-- A port has been fenced (R26, R30, R317): its link group has one port fewer, and fails with its last one; the streams whose
packets were on it run the handshake. -/
def State.losePort (s : State) (n : Nat) : State :=
  match s.portPeer n with
  | none => s
  | some peer =>
    if s.groupFenced s.chip peer then s.groupFails s.chip peer
    else s.pathFails (s.streamsOver (s.usesGroup s.chip peer))

/-- UNIT_FENCE (R30, R51): a unit that fails in service is fenced off, and capacity drops. A core's teams leave it; a die goes out
of service; a slice gives no more ticket entries, shadow copies and line-cache sets; a port leaves its link group.
(Log 54, DEDUCED.) -/
def execUnitFence (kind : UnitKind) (n : Nat) (s : State) : Out :=
  if s.fenced.contains (kind, n) || !s.unitExists kind n then .next s
  else
    match kind with
    | .die => .next (if s.halfApplied then s else s.loseDie n)
    | .core => .next (((s.fence .core n).vacate (fun c => c == n)).recheck)
    | .slice => .next ((s.fence .slice n).trimFar).recheck
    | .port => .next (((s.fence .port n).losePort n).recheck)

end Sys2Proof.Machine
end

