-- ==== Sys2Proof/Machine/HostPort.lean ====
section
/-! DEFINITION. The host port: RDMA, the queue protocol, and the messages about contexts, queues, pool frames and exported
windows (R38, R40, R62, R471–R478). -/

namespace Sys2Proof.Machine

/-! ## RDMA (R471, R472) -/

/-- Bytes of a range of a context's addresses: none where some page or home faults. -/
def State.rangeRead (s : State) (ctx va n : Nat) : Option Bytes2 :=
  (segments va n).foldl (fun (r : Option Bytes2) p => r.bind (fun l => (s.frontRead ctx p.1 p.2.2).map (fun b => l ++ b))) (some [])

/-- Write bytes to a range of a context's addresses: none where some page or home faults. -/
def State.rangeWrite (s : State) (ctx va : Nat) (x : List Byte) : Option State :=
  (segments va x.length).foldl (fun (r : Option State) p => r.bind (fun s =>
    let h := s.home ctx p.1
    (if h.1.host || h.1.chip ≠ s.chip then s else s.noteTail h.2 p.2.2).frontWrite ctx p.1 ((x.drop p.2.1).take p.2.2))) (some s)

/-- The RDMA READs of a range's pages that lie in the host region (R434). -/
def State.rangeAsks (s : State) (ctx va n : Nat) : State := (segments va n).foldl (fun s p => s.frontAsks ctx p.1 p.2.2) s

/-- Is some page of a range being moved? -/
def State.rangeWaits (s : State) (ctx va n : Nat) : Bool := (segments va n).any (fun p => s.frontWaits ctx p.1)

/-- A message leaves by the host port. -/
def State.out (s : State) (x : HostOut) : State := { s with hostOut := s.hostOut ++ [x] }

/-- The window of an RDMA access, where it may be made (R472). -/
def State.rdmaWindow (s : State) (key va n : Nat) (write : Bool) : Option Exported :=
  (Tab.find s.exported key).bind (fun w =>
    if s.wiping || (s.context w.ctx).stopped || va < w.base || w.base + w.len < va + n || (write && !w.write) then none
    else some w)

/-- RDMA_WRITE (R472): applied whole, or refused with nothing applied. A page that is moving holds it. -/
def execRdmaWrite (key va : Nat) (bytes : List Byte) (s : State) : Out :=
  if !s.up || s.bootFailed then .next s
  else
    match s.rdmaWindow key va bytes.length true with
    | none => .next (s.out .rdmaAccessError)
    | some w =>
      if s.rangeWaits w.ctx va bytes.length then .next s
      else
        match s.rangeWrite w.ctx va bytes with
        | none => .next (s.out .rdmaAccessError)
        | some s => .next (s.out .rdmaDone)

/-- RDMA_READ (R472): a poisoned word ends it with an operational error, which is counted at its die. -/
def execRdmaRead (key va n : Nat) (s : State) : Out :=
  if !s.up || s.bootFailed then .next s
  else
    match s.rdmaWindow key va n false with
    | none => .next (s.out .rdmaAccessError)
    | some w =>
      if s.rangeWaits w.ctx va n then .next s
      else
        match s.rangeRead w.ctx va n with
        | none => .next (s.out .rdmaAccessError)
        | some b =>
          let s := s.rangeAsks w.ctx va n
          match b.findIdx? (fun y => y.2) with
          | none => .next (s.out (.rdmaData (b.map (fun y => y.1))))
          | some i => .next ((s.count 1 (s.home w.ctx (va + i)).1.die 1 1).out .rdmaOperationalError)

/-- UNSUPPORTED_RDMA_REQUEST (R471). -/
def execUnsupportedRdmaRequest (_k : RdmaKind) (s : State) : Out :=
  if s.up && !s.bootFailed then .next (s.out .rdmaInvalidRequest) else .next s

/-! ## Requests (R473, R474) -/

/-- Answer a request; what was performed while it went on is answered after it (R474). -/
def State.respond (s : State) (m : HostMsg) (status : Nat) (body : List Byte) : State :=
  { s with busy := none, later := [],
           hostOut := s.hostOut ++ ({ m with rsv := 0, status := status, body := body } :: s.later).map HostOut.response }

end Sys2Proof.Machine

namespace Sys2Proof

/-- A field of a body. -/
def HostMsg.field (m : HostMsg) (o n : Nat) : Nat := ofBytes ((m.body.drop o).take n)

/-- Has a body a length, and is every byte zero that no field names (R474, R476)? -/
def HostMsg.shaped (m : HostMsg) (len : Nat) (fs : List (Nat × Nat)) : Bool :=
  m.body.length == len && m.body.zipIdx.all (fun (p : Byte × Nat) => p.1 == 0#8 || fs.any (fun f => f.1 ≤ p.2 && p.2 < f.1 + f.2))

end Sys2Proof

namespace Sys2Proof.Machine

/-- May a request be performed in a life-cycle state (R467)? In PROVISIONED those that a load needs and attestation; in
MANUFACTURE a signed command; and in DECOMMISSIONED attestation, with a definition and a signed command, which have a STATUS of
their own for what the state bars (R476, R481).
(Log 98, DEDUCED.) -/
def LifeCycle.serves (l : LifeCycle) (op : Nat) : Bool :=
  match l with
  | .deployed => true
  | .provisioned =>
    [0x0001, 0x0002, 0x0020, 0x0021, 0x0030, 0x0031, 0x0040, 0x0041, 0x0070, 0x0080].contains op
  | .manufacture => op == 0x0080
  | .decommissioned => op == 0x0001 || op == 0x0070 || op == 0x0080

/-- Perform a request of an OP when the port can: a malformed one answers 0xFFFF, and one that names no defined context
where it needs one 0xFFFE (R474). Where f gives none, the request waits.
(Log 78, DEDUCED.) -/
def State.serve (s : State) (m : HostMsg) (op : Nat) (ok needsCtx : Bool) (f : State → Option State) : Out :=
  if !s.up || !s.mgmtOpen || s.busy.isSome || m.op ≠ op || (s.bootFailed && op ≠ 0x0070) then .next s
  else if m.rsv ≠ 0 || m.status ≠ 0 || 255 < m.ctx || 65536 < m.body.length || !ok then .next (s.respond m 0xFFFF [])
  else if needsCtx && !Tab.has s.contexts m.ctx then .next (s.respond m 0xFFFE [])
  else if !LifeCycle.serves s.lifeCycle op then .next (s.respond m (1 + Config.freeNat s.stamp (2 ^ 59) % 0xFFFF) [])
  else .next ((f s).getD s)

/-- The message codes of R474. -/
def definedOps : List Nat :=
  [0x0001, 0x0002, 0x0010, 0x0011, 0x0020, 0x0021, 0x0022, 0x0030, 0x0031, 0x0040, 0x0041, 0x0050, 0x0051, 0x0060, 0x0070,
   0x0080, 0x0090, 0x0091, 0x0092, 0x00A0]

/-- UNDEFINED_OP_REQUEST (R474). -/
def execUndefinedOpRequest (m : HostMsg) (s : State) : Out :=
  if definedOps.contains m.op then .next s else s.serve m m.op false false some

/-! ## The management queue pair (R473, R475) -/

/-- MANAGEMENT_QUEUE_PAIR_OPEN (R473). -/
def execManagementQueuePairOpen (s : State) : Out := if s.up then .next { s with mgmtOpen := true } else .next s

/-- Deliver what is held, as far as there are receive buffers. -/
def State.deliverHeld (s : State) : State :=
  let n := min s.rxBuffers s.held.length
  { s with rxBuffers := s.rxBuffers - n, held := s.held.drop n, hostOut := s.hostOut ++ (s.held.take n).map (fun m => .message m) }

/-- RECEIVE_BUFFER_POSTED (R475). -/
def execReceiveBufferPosted (n : Nat) (s : State) : Out :=
  if s.mgmtOpen then .next { s with rxBuffers := s.rxBuffers + n }.deliverHeld else .next s

/-! ## Contexts (R38, R476) -/

/-- DEFINE_CONTEXT (R38, R415, R469, R476).
(Log 63, DEDUCED.)
(Log 74, DEDUCED.) -/
def execDefineContext (m : HostMsg) (s : State) : Out :=
  s.serve m 0x0001 (m.shaped 16 [(0, 8), (8, 2), (12, 4)]) false (fun s =>
    let root := m.field 0 8
    let tag := m.field 8 2
    let duty := m.field 12 4
    let status :=
      if Tab.has s.contexts m.ctx then 1
      else if tag = 0 || (s.ctxByTag tag).isSome then 2
      else if !tableOk root then 3
      else if 2 ^ 7 ≤ duty then 4
      else if s.lifeCycle == .decommissioned || s.wiping then 5
      else 0
    some ((if status = 0 then s.setContext m.ctx { tag := tag, root := root, duty := duty } else s).respond m status []))

/-- Stop a context: its queues are halted, the records not admitted are refused, and its grids aborted (R62, R476).
(Log 61, DEDUCED.) -/
def State.stopCtx (s : State) (ctx cause : Nat) : State :=
  let qs := s.queues.keys (fun _ q => q.ctx == ctx)
  let s := (qs.filter (fun q => !(Tab.find s.queues q).any (fun x => x.halted))).foldl State.haltQueue s
  let s := { s with queues := s.queues.map (fun _ q => if q.ctx = ctx then { q with refusing := some cause } else q) }
  let s := qs.foldl (fun s q => s.dropRecords q cause) s
  let gs := s.grids.keys (fun _ g => g.ctx == ctx && !g.done)
  let s := gs.foldl (fun s g => s.abortGrid g cause none) s
  let asks := s.asks.filter (fun e => match e.2.what with
    | .groupSetup _ _ _ => true
    | w => s.askCtx w != ctx)
  { s.onContext ctx (fun c => { c with stopped := true }) with asks := asks }

/-- Is a record left to be refused in a queue whose context has been stopped? -/
def Queue.unrefused (q : Queue) : Bool := q.refusing.isSome && (q.waiting.isSome || (q.used != 0 && q.used ≤ q.slots))

/-- Has every grid of a context completed, and has every record been refused? -/
def State.ctxDrained (s : State) (ctx : Nat) : Bool :=
  !s.grids.any (fun _ g => g.ctx == ctx && !g.done) && !s.queues.any (fun _ q => q.ctx == ctx && q.unrefused)

/-- Release what a context holds and forget it (R476): its pool frames are wiped. -/
def State.releaseCtx (s : State) (ctx : Nat) : State :=
  let pool := (s.context ctx).pool
  let s := pool.foldl (fun s f => s.zeroRange (Frame.no f.1 * 2 ^ 16) (2 ^ 16)) (s.invalidate ctx none)
  { s with
    queues := s.queues.filter (fun q => q.2.ctx != ctx)
    exported := s.exported.filter (fun w => w.2.ctx != ctx)
    moved := s.moved.filter (fun e => e.1 != ctx)
    moves := s.moves.filter (fun m => m.ctx != ctx)
    contexts := Tab.del s.contexts ctx }

/-- A stop or a destroy that has begun ends once the context's grids have retired. -/
def State.endStop (s : State) (m : HostMsg) (destroy : Bool) : State :=
  if !s.ctxDrained m.ctx then s
  else (if destroy then s.releaseCtx m.ctx else s).respond m 0 []

/-- The shared part of stop and destroy (R476). -/
def State.stopRequest (s : State) (m : HostMsg) (mine destroy : Bool) : Out :=
  if s.busy = some m ∧ mine then .next (s.endStop m destroy)
  else if !mine then .next s
  else
    s.serve m 0x0002 (m.shaped 8 [(0, 4)] && m.field 0 4 ≤ 1) true (fun s =>
      some { s.stopCtx m.ctx 0x0006 with busy := some m })

/-- STOP_CONTEXT (R62, R476): also a request whose action is reserved. -/
def execStopContext (m : HostMsg) (s : State) : Out := s.stopRequest m (m.field 0 4 ≠ 1) false
/-- DESTROY_CONTEXT (R476). -/
def execDestroyContext (m : HostMsg) (s : State) : Out := s.stopRequest m (m.field 0 4 = 1) true

/-! ## Queues (R40, R477) -/

/-- Are the fields of a create request within R40, and its words and pages mapped as R477 demands? -/
def State.queueOk (s : State) (ctx : Nat) (m : HostMsg) : Bool :=
  let slots := m.field 4 4
  let ring := m.field 8 8
  let ok := fun (va need : Nat) => s.frontPage ctx va need == .ok
  m.field 0 1 ≤ 63 && m.field 1 1 ≤ 3 && m.field 2 1 ≤ 1 && (List.range 12).any (fun k => slots == 2 ^ (k + 1)) &&
    ring % 4096 == 0 && m.field 16 8 % 8 == 0 && m.field 24 8 % 8 == 0 && ok (m.field 16 8) 2 && ok (m.field 24 8) 2 &&
    (segments ring (128 * slots)).all (fun p => ok p.1 1)

/-- CREATE_QUEUE (R40, R41, R477). -/
def execCreateQueue (m : HostMsg) (s : State) : Out :=
  s.serve m 0x0010 (m.shaped 32 [(0, 1), (1, 1), (2, 1), (4, 4), (8, 8), (16, 8), (24, 8)]) true (fun s =>
    let qn := m.field 0 1
    if qn ≤ 63 && Tab.has s.queues qn then some (s.respond m 1 [])
    else if s.frontWaits m.ctx (m.field 16 8) || s.frontWaits m.ctx (m.field 24 8) ||
        (m.field 4 4 ≤ 4096 && s.rangeWaits m.ctx (m.field 8 8) (128 * m.field 4 4)) then none
    else if !s.queueOk m.ctx m then some (s.respond m 2 [])
    else
      match (s.frontWrite m.ctx (m.field 24 8) (bytesOf 8 0)).bind (fun s => s.frontWrite m.ctx (m.field 16 8) (bytesOf 8 0)) with
      | none => some (s.respond m 2 [])
      | some s =>
        some ((s.setQueueRec qn { ctx := m.ctx, prio := m.field 1 1, devFed := m.field 2 1 == 1, slots := m.field 4 4,
                                  ring := m.field 8 8, tailAddr := m.field 16 8, headAddr := m.field 24 8 }).respond m 0 []))

/-- DESTROY_QUEUE (R477): records not admitted are dropped, and grids already admitted run on, with the clusters that they
have yet to start. -/
def execDestroyQueue (m : HostMsg) (s : State) : Out :=
  s.serve m 0x0011 (m.shaped 8 [(0, 4)]) true (fun s =>
    let qn := m.field 0 4
    match Tab.find s.queues qn with
    | some q =>
      if q.ctx ≠ m.ctx then some (s.respond m 1 [])
      else
        let asks := s.asks.filter (fun e => e.2.what != .admission qn)
        some ({ s with queues := Tab.del s.queues qn, asks := asks }.respond m 0 [])
    | none => some (s.respond m 1 []))

/-! ## Pool frames and migration (R478) -/

/-- Frames that a message names: each of a die and a tier. -/
def msgFrames (m : HostMsg) : List Frame := (List.range (m.field 4 4)).map (fun i => ⟨m.field 0 1, m.field 1 1, m.field 8 4 + i⟩)

/-- The form of a message about frames. -/
def msgFramesOk (m : HostMsg) : Bool :=
  m.shaped 16 [(0, 1), (1, 1), (4, 4), (8, 4)] && m.field 0 1 ≤ 7 && m.field 1 1 ≤ 1 && 1 ≤ m.field 4 4

/-- Do the frames go beyond the tier? -/
def msgFramesBeyond (m : HostMsg) : Bool := tierBytes (m.field 1 1) < (m.field 8 4 + m.field 4 4) * 2 ^ 16

/-- Does a frame belong to the pool of some context? -/
def State.pooled (s : State) (f : Frame) : Bool := s.contexts.any (fun _ c => c.pool.any (fun e => e.1 == f))

/-- ADD_POOL_FRAMES (R478). -/
def execAddPoolFrames (m : HostMsg) (s : State) : Out :=
  s.serve m 0x0020 (msgFramesOk m) true (fun s =>
    if msgFramesBeyond m then some (s.respond m 1 [])
    else if (msgFrames m).any s.pooled then some (s.respond m 2 [])
    else some ((s.onContext m.ctx (fun c => { c with pool := c.pool ++ (msgFrames m).map (fun f => (f, .free)) })).respond m 0 []))

/-- REMOVE_FRAMES (R478). -/
def execRemoveFrames (m : HostMsg) (s : State) : Out :=
  s.serve m 0x0021 (msgFramesOk m) true (fun s =>
    let pool := (s.context m.ctx).pool
    let used := s.usesFrame
    if msgFramesBeyond m || (msgFrames m).any (fun f => !pool.any (fun e => e.1 == f)) then some (s.respond m 1 [])
    else if (msgFrames m).any (fun f => used (Frame.no f) || pool.any (fun e => e.1 == f && e.2 != .free && e.2 != .page)) then
      some (s.respond m 3 [])
    else some ((s.onContext m.ctx (fun c => { c with pool := c.pool.filter (fun e => !(msgFrames m).contains e.1) })).respond m 0 []))

/-- MIGRATE_PAGE (R430, R478): the move begins, and the answer comes once it has ended. -/
def execMigratePage (m : HostMsg) (s : State) : Out :=
  let va := m.field 0 8 / 2 ^ 16 * 2 ^ 16
  if s.busy = some m then
    match s.moveOf m.ctx va with
    | some k => .next (if s.partIn (leafFrameNo k.leaf) then s else (s.endMove k).respond m 0 [])
    | none => .next (s.respond m 0 [])
  else
    s.serve m 0x0022 (m.shaped 16 [(0, 8), (8, 4)] && placementOk (m.field 8 4)) true (fun s =>
      if Config.addrLimit ≤ va then some (s.respond m 1 [])
      else if s.walkWaits m.ctx va || s.moveWaits m.ctx va then none
      else
        let r := s.migrate m.ctx va (m.field 8 4) true
        some (if r.2 = 0 then { r.1 with busy := some m } else r.1.respond m r.2 []))

/-! ## Exported windows (R472, R478) -/

/-- A number of 32 bits that a list does not hold: any of them. -/
def State.pickNumber (s : State) (key : Nat) (used : List Nat) : Nat :=
  let a := Config.freeNat s.stamp key
  (((List.range (used.length + 1)).map (fun i => (a + i) % 2 ^ 32)).find? (fun n => !used.contains n)).getD 0

/-- EXPORT_WINDOW (R472, R478).
(Log 64, DEDUCED.) -/
def execExportWindow (m : HostMsg) (s : State) : Out :=
  s.serve m 0x0030 (m.shaped 24 [(0, 8), (8, 8), (16, 1)] && m.field 16 1 ≤ 1) true (fun s =>
    let base := m.field 0 8
    let len := m.field 8 8
    if len = 0 || base % 2 ^ 16 ≠ 0 || len % 2 ^ 16 ≠ 0 || Config.addrLimit < base + len then some (s.respond m 1 [])
    else if 4096 ≤ s.exported.length then some (s.respond m 2 [])
    else
      let key := s.pickNumber (2 ^ 52) (s.exported.keys (fun _ _ => true))
      some ({ s with exported := Tab.put s.exported key ⟨m.ctx, base, len, m.field 16 1 == 1⟩ }.respond m 0 (le 4 key ++ le 4 0)))

/-- WITHDRAW_WINDOW (R478): a key is unknown only where no window of the package has it. -/
def execWithdrawWindow (m : HostMsg) (s : State) : Out :=
  s.serve m 0x0031 (m.shaped 8 [(0, 4)]) true (fun s =>
    let key := m.field 0 4
    if Tab.has s.exported key then
      some ({ s with exported := Tab.del s.exported key }.respond m 0 [])
    else some (s.respond m 1 []))

end Sys2Proof.Machine
end

