-- ==== Sys2Proof/Machine/Signature.lean ====
section
/-! DEFINITION. SHA-256, and the verification of HSS signatures (R462). The spec names both by their standards, FIPS 180-4 and
RFC 8554, whose text this file follows. -/

namespace Sys2Proof.Machine

/-! ## SHA-256 -/

/-- A number as n bytes, the most significant first. -/
def be (n v : Nat) : List Byte := (bytesOf n v).reverse
/-- The number that bytes give, the most significant first. -/
def ofBe (b : List Byte) : Nat := ofBytes b.reverse

/-- The constants of the rounds. -/
def shaK : List Nat :=
  [0x428a2f98, 0x71374491, 0xb5c0fbcf, 0xe9b5dba5, 0x3956c25b, 0x59f111f1, 0x923f82a4, 0xab1c5ed5] ++
  [0xd807aa98, 0x12835b01, 0x243185be, 0x550c7dc3, 0x72be5d74, 0x80deb1fe, 0x9bdc06a7, 0xc19bf174] ++
  [0xe49b69c1, 0xefbe4786, 0x0fc19dc6, 0x240ca1cc, 0x2de92c6f, 0x4a7484aa, 0x5cb0a9dc, 0x76f988da] ++
  [0x983e5152, 0xa831c66d, 0xb00327c8, 0xbf597fc7, 0xc6e00bf3, 0xd5a79147, 0x06ca6351, 0x14292967] ++
  [0x27b70a85, 0x2e1b2138, 0x4d2c6dfc, 0x53380d13, 0x650a7354, 0x766a0abb, 0x81c2c92e, 0x92722c85] ++
  [0xa2bfe8a1, 0xa81a664b, 0xc24b8b70, 0xc76c51a3, 0xd192e819, 0xd6990624, 0xf40e3585, 0x106aa070] ++
  [0x19a4c116, 0x1e376c08, 0x2748774c, 0x34b0bcb5, 0x391c0cb3, 0x4ed8aa4a, 0x5b9cca4f, 0x682e6ff3] ++
  [0x748f82ee, 0x78a5636f, 0x84c87814, 0x8cc70208, 0x90befffa, 0xa4506ceb, 0xbef9a3f7, 0xc67178f2]

/-- The eight working variables. -/
structure Sha where
  a : Word
  b : Word
  c : Word
  d : Word
  e : Word
  f : Word
  g : Word
  h : Word
  deriving DecidableEq, Repr

/-- The initial hash value. -/
def Sha.init : Sha :=
  ⟨0x6a09e667#32, 0xbb67ae85#32, 0x3c6ef372#32, 0xa54ff53a#32, 0x510e527f#32, 0x9b05688c#32, 0x1f83d9ab#32, 0x5be0cd19#32⟩

/-- The padded message: a bit 1, zeros, and the length in bits. -/
def shaPad (m : List Byte) : List Byte :=
  m ++ 0x80#8 :: List.replicate ((119 - m.length % 64) % 64) 0#8 ++ be 8 (8 * m.length)

/-- Word t of the message schedule from the words before it, the latest first. -/
def shaNext (w : List Word) : Word :=
  let at_ := fun (i : Nat) => w.getD (i - 1) 0#32
  let x := at_ 2
  let y := at_ 15
  (x.rotateRight 17 ^^^ x.rotateRight 19 ^^^ x >>> 10) + at_ 7 + (y.rotateRight 7 ^^^ y.rotateRight 18 ^^^ y >>> 3) + at_ 16

/-- The message schedule of a block. -/
def shaSchedule (b : List Byte) : List Word :=
  let first := (List.range 16).map (fun i => wd (ofBe ((b.drop (4 * i)).take 4)))
  ((List.range 48).foldl (fun w _ => shaNext w :: w) first.reverse).reverse

/-- One round. -/
def Sha.round (s : Sha) (k w : Word) : Sha :=
  let s1 := s.e.rotateRight 6 ^^^ s.e.rotateRight 11 ^^^ s.e.rotateRight 25
  let ch := (s.e &&& s.f) ^^^ (~~~s.e &&& s.g)
  let t1 := s.h + s1 + ch + k + w
  let s0 := s.a.rotateRight 2 ^^^ s.a.rotateRight 13 ^^^ s.a.rotateRight 22
  let maj := (s.a &&& s.b) ^^^ (s.a &&& s.c) ^^^ (s.b &&& s.c)
  ⟨t1 + (s0 + maj), s.a, s.b, s.c, s.d + t1, s.e, s.f, s.g⟩

/-- One block. -/
def Sha.block (s : Sha) (b : List Byte) : Sha :=
  let r := (shaK.zip (shaSchedule b)).foldl (fun (r : Sha) p => r.round (wd p.1) p.2) s
  ⟨s.a + r.a, s.b + r.b, s.c + r.c, s.d + r.d, s.e + r.e, s.f + r.f, s.g + r.g, s.h + r.h⟩

/-- The eight words as bytes. -/
def Sha.bytes (s : Sha) : List Byte := [s.a, s.b, s.c, s.d, s.e, s.f, s.g, s.h].flatMap (fun x => be 4 x.toNat)

/-- SHA-256 of a byte string, as 32 bytes. -/
def shaBytes (m : List Byte) : List Byte :=
  let p := shaPad m
  ((List.range (p.length / 64)).foldl (fun (s : Sha) i => s.block ((p.drop (64 * i)).take 64)) Sha.init).bytes

/-- SHA-256 as a number, its first byte the most significant.
(Log 5, PRESUMED.) -/
def sha256 (m : List Byte) : BitVec 256 := BitVec.ofNat 256 (ofBe (shaBytes m))

/-! ## LM-OTS, LMS and HSS -/

/-- The height of the tree of a type code that R462 allows: H10, H15 or H20. -/
def lmsHeight (t : Nat) : Option Nat := if t = 6 then some 10 else if t = 7 then some 15 else if t = 8 then some 20 else none

/-- The width w of an LM-OTS type code that R462 allows, W4 or W8, with its chains and the shift of its checksum. -/
def otsParams (t : Nat) : Option (Nat × Nat × Nat) := if t = 3 then some (4, 67, 4) else if t = 4 then some (8, 34, 0) else none

/-- Digit i of w bits of a string. -/
def coef (b : List Byte) (i w : Nat) : Nat := (b.getD (i * w / 8) 0#8).toNat / 2 ^ (8 - w * (i % (8 / w)) - w) % 2 ^ w

/-- The checksum of a hash. -/
def checksum (b : List Byte) (w shift : Nat) : Nat :=
  ((List.range (256 / w)).foldl (fun n i => n + (2 ^ w - 1 - coef b i w)) 0) * 2 ^ shift

/-- Steps from to up to to_ of a chain. -/
def chain (pre : List Byte) (i from_ n : Nat) (x : List Byte) : List Byte :=
  (List.range n).foldl (fun x k => shaBytes (pre ++ be 2 i ++ be 1 (from_ + k) ++ x)) x

/-- The public key that an LM-OTS signature gives for a message, under the identifier and the leaf number of pre. -/
def otsKey (pre : List Byte) (p : Nat × Nat × Nat) (c : List Byte) (y : List Byte) (m : List Byte) : List Byte :=
  let q := shaBytes (pre ++ be 2 0x8181 ++ c ++ m)
  let digits := q ++ be 2 (checksum q p.1 p.2.2)
  let z := (List.range p.2.1).flatMap (fun i =>
    let a := coef digits i p.1
    chain pre i a (2 ^ p.1 - 1 - a) ((y.drop (32 * i)).take 32))
  shaBytes (pre ++ be 2 0x8080 ++ z)

/-- The root that a leaf and its path give: the node's number, what is hashed so far, and the path. -/
def lmsRoot (ident : List Byte) : Nat → List Byte → List (List Byte) → List Byte
  | _, x, [] => x
  | n, x, p :: t =>
    lmsRoot ident (n / 2) (shaBytes (ident ++ be 4 (n / 2) ++ be 2 0x8383 ++ (if n % 2 = 1 then p ++ x else x ++ p))) t

/-- The bytes of an LMS public key. -/
def lmsKeyBytes : Nat := 56

/-- Verify the LMS signature that a string begins with, over a message, under a public key: the rest of the string. -/
def lmsVerify (key sig m : List Byte) : Option (List Byte) :=
  let ident := (key.drop 8).take 16
  match lmsHeight (ofBe (key.take 4)), otsParams (ofBe ((key.drop 4).take 4)) with
  | some h, some p =>
    let q := ofBe (sig.take 4)
    let ots := 36 + 32 * p.2.1
    let path := (sig.drop (8 + ots)).take (32 * h)
    let pre := ident ++ be 4 q
    if key.length ≠ lmsKeyBytes || sig.length < 8 + ots + 32 * h || 2 ^ h ≤ q || (sig.drop 4).take 4 ≠ (key.drop 4).take 4 ||
        (sig.drop (4 + ots)).take 4 ≠ key.take 4 then none
    else
      let k := otsKey pre p ((sig.drop 8).take 32) ((sig.drop 40).take (32 * p.2.1)) m
      let leaf := shaBytes (ident ++ be 4 (2 ^ h + q) ++ be 2 0x8282 ++ k)
      let root := lmsRoot ident (2 ^ h + q) leaf ((List.range h).map (fun i => (path.drop (32 * i)).take 32))
      if root = key.drop 24 then some (sig.drop (8 + ots + 32 * h)) else none
  | _, _ => none

/-- Verify an HSS signature of one or two levels over a message, under a public key; no byte may be left over (R462). -/
def hssVerify (key sig m : List Byte) : Bool :=
  let levels := ofBe (key.take 4)
  let top := key.drop 4
  let s := sig.drop 4
  if ofBe (sig.take 4) + 1 ≠ levels || sig.length < 4 then false
  else if levels = 1 then lmsVerify top s m == some []
  else if levels = 2 then
    let ots := ((otsParams (ofBe ((top.drop 4).take 4))).map (fun p => 36 + 32 * p.2.1)).getD 0
    let len := 8 + ots + 32 * ((lmsHeight (ofBe (top.take 4))).getD 0)
    let next := (s.drop len).take lmsKeyBytes
    match lmsVerify top s next with
    | some rest => lmsVerify next (rest.drop lmsKeyBytes) m == some []
    | none => false
  else false

/-! ## The device key (R465, R466): two levels, each LMS_SHA256_M32_H20 with LM-OTS_SHA256_N32_W8 -/

/-- The height of the trees of the device key. -/
def deviceHeight : Nat := 20

/-- A value as the first bytes of a chain, an identifier or a randomizer. -/
def beBits {w : Nat} (x : BitVec w) : List Byte := be (w / 8) x.toNat

/-- The hash of the one-time public key of a leaf of a tree. -/
def deviceOtsKey (tree q : Nat) : List Byte :=
  let pre := beBits (Config.deviceIdent tree) ++ be 4 q
  shaBytes (pre ++ be 2 0x8080 ++ (List.range 34).flatMap (fun i => chain pre i 0 255 (beBits (Config.deviceSecret tree q i))))

/-- A node of a tree, by its height above the leaves and its number, the root's being 1. -/
def deviceNode (tree : Nat) : Nat → Nat → List Byte
  | 0, r => shaBytes (beBits (Config.deviceIdent tree) ++ be 4 r ++ be 2 0x8282 ++ deviceOtsKey tree (r - 2 ^ deviceHeight))
  | h + 1, r =>
    shaBytes (beBits (Config.deviceIdent tree) ++ be 4 r ++ be 2 0x8383 ++ deviceNode tree h (2 * r) ++ deviceNode tree h (2 * r + 1))

/-- The public key of a tree: its type codes, its identifier and its root. -/
def devicePublic (tree : Nat) : List Byte :=
  be 4 8 ++ be 4 4 ++ beBits (Config.deviceIdent tree) ++ deviceNode tree deviceHeight 1

/-- The LMS signature of a message by a leaf of a tree. -/
def deviceLms (tree q : Nat) (m : List Byte) : List Byte :=
  let pre := beBits (Config.deviceIdent tree) ++ be 4 q
  let c := beBits (Config.deviceRandom tree q)
  let h := shaBytes (pre ++ be 2 0x8181 ++ c ++ m)
  let digits := h ++ be 2 (checksum h 8 0)
  be 4 q ++ be 4 4 ++ c ++
    (List.range 34).flatMap (fun i => chain pre i 0 (coef digits i 8) (beBits (Config.deviceSecret tree q i))) ++ be 4 8 ++
    (List.range deviceHeight).flatMap (fun d => deviceNode tree d (((2 ^ deviceHeight + q) / 2 ^ d) ^^^ 1))

/-- The HSS signature of a message under the device key with an index. -/
def deviceSign (index : Nat) (m : BitVec 256) : List Byte :=
  let j := index / 2 ^ deviceHeight
  be 4 1 ++ deviceLms 0 j (devicePublic (1 + j)) ++ devicePublic (1 + j) ++
    deviceLms (1 + j) (index % 2 ^ deviceHeight) (be 32 m.toNat)

/-- SHA-256 of the device public key (R466), in the form that R462 hashes. -/
def deviceKeyHash : BitVec 256 := sha256 (be 4 2 ++ devicePublic 0)

end Sys2Proof.Machine
end

