-- ==== Sys2Proof/Machine/Loader.lean ====
section
/-! DEFINITION. The memory processor's page tables; code objects and their loader; host-shared requests
(R104, R434, R457–R464, R479, R480). -/

namespace Sys2Proof.Machine

/-! ## Building page tables (R415–R418) -/

/-- A table of invalid entries in half a frame of the pool: the state and the entry that names it. It shares no frame with a
splinter's table (R427). -/
def State.newTable (s : State) (ctx : Nat) : Option (State × Nat) :=
  let half := (s.context ctx).pool.find? (fun e => e.2 == .otherHalfFree && s.inService e.1.die)
  let got := match half with
    | some e => some (e.1, 1)
    | none => (s.pickFrame (s.freeFrames ctx (fun _ => true))).map (fun f => (f, 0))
  got.map (fun p =>
    let f := p.1
    let ofs := f.n * 2 ^ 16 + p.2 * 2 ^ 15
    ((s.setUse ctx (Frame.no f) (if p.2 = 0 then .otherHalfFree else .table)).zeroRange (physAddr f.die f.tier ofs) (2 ^ 15),
     f.die * 2 ^ 42 + f.tier * 2 ^ 41 + ofs + 1))

/-- The table that an entry names; a table is made where the entry is invalid. -/
def State.tableVia (s : State) (ctx a : Nat) : Option (State × Nat) :=
  match s.entryAt a with
  | none => none
  | some e =>
    if tableOk e then some (s, tableAddr e)
    else if entryType e ≠ 0 then none
    else (s.newTable ctx).map (fun p => (p.1.memWrite a (bytesOf 8 p.2) [], tableAddr p.2))

/-- Write a leaf for a page, making the tables that it needs. -/
def State.putLeaf (s : State) (ctx va e : Nat) : Option State :=
  let root := (s.context ctx).root
  if !tableOk root then none
  else
    match s.tableVia ctx (tableAddr root + entryOfs va 1) with
    | none => none
    | some (s, t2) =>
      (s.tableVia ctx (t2 + entryOfs va 2)).map (fun p => p.1.memWrite (p.2 + entryOfs va 3) (bytesOf 8 e) [])

/-! ## Code objects (R457–R459) -/

/-- A section of an object. -/
structure Section where
  kind : Nat
  align : Nat
  ofs : Nat
  len : Nat
  deriving DecidableEq, Repr

/-- A relocation. -/
structure Reloc where
  at_ : Nat
  target : Nat
  kind : Nat
  symbol : Nat
  addend : Int
  deriving DecidableEq, Repr

/-- The counts of a header: sections, kernels and relocations. -/
def objCounts (b : List Byte) : Nat × Nat × Nat := (field b 0x08 2, field b 0x0A 2, field b 0x0C 4)

/-- Where the kernel table begins. -/
def kernelTable (b : List Byte) : Nat := 0x20 + 32 * (objCounts b).1
/-- Where the relocation table begins. -/
def relocTable (b : List Byte) : Nat := kernelTable b + 144 * (objCounts b).2.1
/-- Where the tables end. -/
def tablesEnd (b : List Byte) : Nat := relocTable b + 16 * (objCounts b).2.2

/-- The sections of an object. -/
def objSections (b : List Byte) : List Section :=
  (List.range (objCounts b).1).map (fun i =>
    let o := 0x20 + 32 * i
    ⟨field b o 1, field b (o + 4) 4, field b (o + 8) 8, field b (o + 16) 8⟩)

/-- The relocations of an object. -/
def objRelocs (b : List Byte) : List Reloc :=
  (List.range (objCounts b).2.2).map (fun i =>
    let o := relocTable b + 16 * i
    ⟨field b o 8, field b (o + 8) 1, field b (o + 9) 1, field b (o + 10) 2, signExt (field b (o + 12) 4) 32⟩)

/-- Is a section's entry within its limits? -/
def sectionOk (b : List Byte) (i : Nat) : Bool :=
  let o := 0x20 + 32 * i
  let x := (objSections b).getD i ⟨0, 0, 0, 0⟩
  1 ≤ x.kind && x.kind ≤ 3 && field b (o + 1) 3 == 0 && (List.range 14).any (fun k => x.align == 2 ^ (k + 3)) &&
    x.ofs + x.len ≤ field b 0x10 8 && field b (o + 0x18) 8 == 0

/-- Is a kernel's entry within its limits, with the fields of its launch template that must be zero? -/
def kernelOk (b : List Byte) (i : Nat) : Bool :=
  let o := kernelTable b + 144 * i
  let x := (objSections b).getD (field b o 2) ⟨0, 0, 0, 0⟩
  let t := o + 0x10
  let h := field b (t + 0x30) 8
  field b o 2 < (objCounts b).1 && x.kind == 1 && (field b (o + 2) 2 == 1 || field b (o + 2) 2 == 2) && field b (o + 4) 4 == 0 &&
    field b (o + 8) 8 % 128 == 0 && field b (o + 8) 8 < x.len &&
    field b t 8 == 0 && field b (t + 8) 8 == 0 && field b (t + 0x10) 4 == 0 && field b (t + 0x38) 8 == 0 && field b (t + 0x40) 8 == 0 &&
    (h == 0 || (h ≤ (objCounts b).2.1 && field b (kernelTable b + 144 * (h - 1) + 2) 2 == 2))

/-- Is a relocation's entry within its limits? -/
def relocOk (b : List Byte) (r : Reloc) : Bool := r.target < (objCounts b).1 && r.kind ≤ 2 && r.symbol < (objCounts b).1

/-- The limits of R457 and R458. -/
def objectOk (b : List Byte) : Bool :=
  let c := objCounts b
  let S := field b 0x10 8
  let t := field b 0x18 4
  0x20 ≤ b.length && field b 0 4 == 0x51434F31 && 1 ≤ c.1 && c.1 ≤ 256 && c.2.1 ≤ 1024 && c.2.2 ≤ 1048576 && S % 8 == 0 && 1 ≤ t &&
    t ≤ 65536 && field b 0x1C 4 == 0 && tablesEnd b ≤ S && S + t ≤ b.length && (List.range c.1).all (sectionOk b) &&
    (List.range c.2.1).all (kernelOk b) && (objRelocs b).all (relocOk b)

/-- The bytes of a relocation's target. -/
def Reloc.size (r : Reloc) : Nat := if r.kind = 0 then 8 else 4

/-- Do relocations stay in their sections, and not overlap (R459)? -/
def relocsOk (b : List Byte) : Bool :=
  let rs := objRelocs b
  rs.all (fun r => r.at_ + Reloc.size r ≤ ((objSections b).getD r.target ⟨0, 0, 0, 0⟩).len) &&
    rs.zipIdx.all (fun (p : Reloc × Nat) => (rs.take p.2).all (fun q =>
      q.target != p.1.target || q.at_ + Reloc.size q ≤ p.1.at_ || p.1.at_ + Reloc.size p.1 ≤ q.at_))

/-- Does an HSS signature of a message verify under a public key that hashes to a programmed code-key slot that is not
revoked (R462)?
(Log 114, DESIGN CHOICE.) -/
def State.codeSigned (s : State) (message : BitVec 256) (sig : List Byte) : Bool :=
  [0, 1, 2, 3].any (fun k => (s.keySlots.getD k none).any (fun hash => !s.revoked.testBit k &&
    s.topKeys.any (fun key => sha256 key == hash && hssVerify key sig (be 32 message.toNat))))

/-- The message that the signature of an object signs (R462). -/
def objectMessage (b : List Byte) : BitVec 256 := sha256 (b.take (field b 0x10 8))

/-- Is an object's signature good, with no bytes left over (R462)? -/
def State.objectSigned (s : State) (b : List Byte) : Bool :=
  let S := field b 0x10 8
  b.length == S + field b 0x18 4 && s.codeSigned (objectMessage b) (b.drop S)

/-! ## Placement (R460, R461) -/

/-- The bytes that a section occupies: a code section is followed by a guard line of zero words (R139, R461). -/
def Section.span (x : Section) (base : Nat) : Nat :=
  if x.kind = 1 then ((base + x.len + 127) / 128 + 1) * 128 - base else x.len

/-- The pages of a placed section. -/
def Section.pages (x : Section) (base : Nat) : List Nat :=
  (pagesOf 0 base (Section.span x base) 1 .any).map (fun p => p.va / 2 ^ 16 * 2 ^ 16)

/-- Is a page free in the context: no entry maps it, or keeps it for a first touch? -/
def State.pageFree (s : State) (ctx va : Nat) : Bool :=
  match s.walk ctx va with
  | .fault 1 _ => true
  | _ => false

/-- May a section stand at a base: aligned, within the address space, on free pages of its own? -/
def State.baseOk (s : State) (ctx : Nat) (x : Section) (taken : List Nat) (base : Nat) : Bool :=
  base % x.align == 0 && base + Section.span x base ≤ Config.addrLimit &&
    (Section.pages x base).all (fun p => s.pageFree ctx p && !taken.contains p)

/-- The ends of the ranges that the entries of a context's tables take, valid or not (R415–R417): after one of these, or at the
first page but one, begins every range that is free. -/
def State.rangeEnds (s : State) (ctx : Nat) : List Nat :=
  let root := (s.context ctx).root
  let ends := fun (e va lvl : Nat) =>
    if tableOk e then (s.usedEntries (tableAddr e)).map (fun i => va + (i + 1) * 2 ^ (52 - 12 * lvl)) else []
  ends root 0 1 ++ (s.tables ctx).flatMap (fun t =>
    if t.2 = 1 then [] else ((s.tableName ctx t.1 t.2).map (fun n => ends n.2 t.1 t.2)).getD [])

/-- The base that the loader chooses: any that does, if one is found, else the first after a range in use that does. -/
def State.chooseBase (s : State) (ctx i : Nat) (x : Section) (taken : List Nat) : Nat :=
  let a := Config.freeNat s.stamp (2 ^ 56 + i) % 2 ^ 36 * 2 ^ 16
  let all := a :: 2 ^ 16 :: s.rangeEnds ctx ++ taken.map (fun p => p + 2 ^ 16)
  (all.find? (fun b => b != 0 && s.baseOk ctx x taken b)).getD 0

/-- Place the sections in order: their bases, or none where one cannot stand where it is asked to.
(Log 69, DEDUCED.) -/
def State.placeSections (s : State) (ctx : Nat) (ask : List Nat) : Nat → List Section → List Nat → Option (List Nat)
  | _, [], _ => some []
  | i, x :: t, taken =>
    let b := if ask.getD i 0 = 0 then s.chooseBase ctx i x taken else ask.getD i 0
    if s.baseOk ctx x taken b then (s.placeSections ctx ask (i + 1) t (taken ++ Section.pages x b)).map (fun l => b :: l) else none

/-- The value that a relocation writes (R459). -/
def Reloc.value (r : Reloc) (bases : List Nat) : List Byte :=
  let v := intBits ((bases.getD r.symbol 0 : Int) + r.addend) 64
  if r.kind = 0 then bytesOf 8 v else if r.kind = 1 then bytesOf 4 v else bytesOf 4 (v / 2 ^ 32)

/-- The bytes of a section after its relocations. -/
def placedBytes (b : List Byte) (bases : List Nat) (i : Nat) : List Byte :=
  let x := (objSections b).getD i ⟨0, 0, 0, 0⟩
  ((objRelocs b).filter (fun r => r.target == i)).foldl (fun l r =>
    l.take r.at_ ++ r.value bases ++ l.drop (r.at_ + Reloc.size r)) ((b.drop x.ofs).take x.len)

/-- Map a page to a fresh frame of the pool, all zero, with permissions: the state and the frame. -/
def State.mapFresh (s : State) (ctx va perm : Nat) (u : FrameUse) : Option (State × Nat) :=
  match s.takeFrames ctx u (fun _ => false) 1 with
  | some (s, [n]) =>
    let s := s.zeroRange (n * 2 ^ 16) (2 ^ 16)
    let f := ((s.context ctx).pool.find? (fun e => Frame.no e.1 == n)).map (fun e => e.1)
    f.bind (fun f => (s.putLeaf ctx va (s.newLeaf f perm)).map (fun s => (s, n)))
  | _ => none

/-- Write the bytes of a section, from an address, to the frames of its pages (R461). -/
def State.fillPages (s : State) (va : Nat) (x : List Byte) (frames : List Nat) : State :=
  (segments va x.length).foldl (fun s p =>
    s.memWrite (frames.getD (p.1 / 2 ^ 16 - va / 2 ^ 16) 0 * 2 ^ 16 + p.1 % 2 ^ 16) ((x.drop p.2.1).take p.2.2) []) s

/-- The permissions of a section: X for code, R for read-only data, R and W for data. -/
def Section.perm (x : Section) : Nat := if x.kind = 1 then 4 else if x.kind = 3 then 1 else 3

/-- Map and write one section: the state, and the frames that it occupies. -/
def State.mapSection (s : State) (ctx : Nat) (x : Section) (base : Nat) (bytes : List Byte) : Option (State × List Nat) :=
  ((Section.pages x base).foldl (fun (r : Option (State × List Nat)) p => r.bind (fun y =>
    (y.1.mapFresh ctx p (Section.perm x) .object).map (fun z => (z.1, y.2 ++ [z.2])))) (some (s, []))).map (fun y =>
    (y.1.fillPages base bytes y.2, y.2))

/-- Map every section: the state, and the frames of the code sections. -/
def State.mapSections (s : State) (ctx : Nat) (b : List Byte) (bases : List Nat) : Option (State × List Nat) :=
  (objSections b).zipIdx.foldl (fun (r : Option (State × List Nat)) (p : Section × Nat) => r.bind (fun y =>
    (y.1.mapSection ctx p.1 (bases.getD p.2 0) (placedBytes b bases p.2)).map (fun z =>
      (z.1, if p.1.kind = 1 then y.2 ++ z.2 else y.2)))) (some (s, []))

/-- Put a loaded object on record (R461): its code ranges, guard lines included, are authorised. -/
def State.recordObject (s : State) (ctx handle : Nat) (b : List Byte) (bases : List Nat) (frames : List Nat) : State :=
  let secs := (objSections b).zip bases
  let o : Obj := { handle := handle, message := objectMessage b,
                   code := (secs.filter (fun p => p.1.kind == 1)).map (fun p => (p.2, Section.span p.1 p.2)),
                   frames := frames, pages := secs.flatMap (fun p => Section.pages p.1 p.2) }
  (s.onContext ctx (fun c => { c with objects := c.objects ++ [o] })).dropLines ctx (fun _ => true)

/-- Load an object whose bytes the loader has copied: the state, the status, and the handle with the bases (R460). -/
def State.loadBytes (s : State) (ctx : Nat) (b : List Byte) (ask : List Nat) : State × Nat × List Byte :=
  if !objectOk b || ask.length ≠ (objCounts b).1 then (s, 1, [])
  else if !s.objectSigned b then (s, 2, [])
  else if field b 6 2 < s.fuse then (s, 3, [])
  else if field b 5 1 ≠ 2 || field b 4 1 ≠ 0 then (s, 4, [])
  else
    match s.placeSections ctx ask 0 (objSections b) [] with
    | none => (s, 5, [])
    | some bases =>
      match s.mapSections ctx b bases with
      | none => (s, 5, [])
      | some (t, frames) =>
        if !relocsOk b then (s, 1, [])
        else
          let h := s.pickNumber (2 ^ 57) ((s.context ctx).objects.map (fun o => o.handle))
          (t.recordObject ctx h b bases frames, 0, le 4 h ++ le 4 0 ++ bases.flatMap (bytesOf 8))

/-- LOAD_OBJECT (R460, R461, R479). -/
def execLoadObject (m : HostMsg) (s : State) : Out :=
  let n := m.field 0x10 4
  s.serve m 0x0040 (m.shaped (24 + 8 * n) [(0, 8), (8, 8), (16, 4), (24, 8 * n)]) true (fun s =>
    let va := m.field 0 8
    let len := m.field 8 8
    if Config.addrLimit < va + len then some (s.respond m 6 [])
    else if s.rangeWaits m.ctx va len then none
    else
      match s.rangeRead m.ctx va len with
      | none => some (s.respond m 6 [])
      | some b =>
        let s := s.rangeAsks m.ctx va len
        if Bytes2.bad b then some (s.respond m 6 [])
        else
          let r := s.loadBytes m.ctx (b.map (fun y => y.1)) ((List.range n).map (fun i => m.field (0x18 + 8 * i) 8))
          some (r.1.respond m r.2.1 r.2.2))

/-- Is a grid of the context resident or waiting (R461)? -/
def State.gridsLive (s : State) (ctx : Nat) : Bool :=
  s.grids.any (fun _ g => g.ctx == ctx && !g.done) || s.queues.any (fun _ q => q.ctx == ctx && q.waiting.isSome)

/-- Unmap a page: its frame returns to the pool. -/
def State.unmapPage (s : State) (ctx va : Nat) : State :=
  match s.walk ctx va with
  | .leaf e => ((s.setLeaf ctx va 0).setUse ctx (leafFrameNo e) .free).invalidate ctx (some (va / 2 ^ 16))
  | _ => s

/-- UNLOAD (R461, R479). -/
def execUnload (m : HostMsg) (s : State) : Out :=
  s.serve m 0x0041 (m.shaped 8 [(0, 4)]) true (fun s =>
    let h := m.field 0 4
    if s.gridsLive m.ctx then some (s.respond m 1 [])
    else
      match (s.context m.ctx).objects.find? (fun o => o.handle == h) with
      | none => some (s.respond m 2 [])
      | some o =>
        if o.pages.any (s.walkWaits m.ctx) then none
        else
          let s := o.pages.foldl (fun s p => s.unmapPage m.ctx p) s
          some ((s.onContext m.ctx (fun c => { c with objects := c.objects.filter (fun y => y.handle != h) })).respond m 0 []))

/-! ## Host-shared requests (R434, R480) -/

/-- The pages of a range. -/
def rangePages (va len : Nat) : List Nat := (List.range (len / 2 ^ 16)).map (fun i => va + i * 2 ^ 16)

/-- The form of a host-shared request. -/
def hsShaped (m : HostMsg) : Bool := m.shaped 32 [(0, 4), (4, 4), (8, 8), (16, 8), (24, 8)]

/-- The limits that every action has: permissions, and pages within the address space. -/
def hsLimits (m : HostMsg) : Bool :=
  m.field 4 4 < 8 && m.field 8 8 % 2 ^ 16 == 0 && m.field 16 8 % 2 ^ 16 == 0 && m.field 8 8 + m.field 16 8 ≤ Config.addrLimit

/-- The shared part of the host-shared requests. -/
def State.hsRequest (s : State) (m : HostMsg) (mine : Bool) (f : State → Option State) : Out :=
  if mine then s.serve m 0x0060 (hsShaped m) true f else .next s

/-- HS_QUERY (R480): also a request whose action is no action. -/
def execHsQuery (m : HostMsg) (s : State) : Out :=
  s.hsRequest m (m.field 0 4 = 0 || 3 < m.field 0 4) (fun s =>
    let va := m.field 8 8
    if m.field 0 4 ≠ 0 || va % 2 ^ 16 ≠ 0 || Config.addrLimit ≤ va || m.field 4 4 ≠ 0 || m.field 16 8 ≠ 0 || m.field 24 8 ≠ 0 then
      some (s.respond m 1 [])
    else
      match s.walk m.ctx va with
      | .leaf e => some (s.respond m 0 (bytesOf 8 e))
      | .fault _ _ => some (s.respond m 0 (bytesOf 8 0))
      | .wait => none)

/-- HS_PERMISSIONS (R426, R434, R480): every HS page of the range. -/
def execHsPermissions (m : HostMsg) (s : State) : Out :=
  s.hsRequest m (m.field 0 4 = 1) (fun s =>
    let ps := rangePages (m.field 8 8) (m.field 16 8)
    if !hsLimits m then some (s.respond m 1 [])
    else if ps.any (fun p => s.walk m.ctx p == .wait) then none
    else if ps.any (fun p => match s.walk m.ctx p with
        | .leaf e => !leafHs e
        | _ => false) then some (s.respond m 3 [])
    else
      match ps.foldl (fun (r : Option State) p => r.bind (fun s => s.setPerm m.ctx p (m.field 4 4))) (some s) with
      | some s => some (s.respond m 0 [])
      | none => some (s.respond m 2 []))

/-- Map one page of an HS range in a frame of the pool. Placement 15 names no die here: any is tried first.
(Log 68, DEDUCED.) -/
def State.mapShared (s : State) (ctx va perm p : Nat) : Option State :=
  match s.frameAt ctx p (Config.freeNat s.stamp (2 ^ 58) % 8) with
  | none => none
  | some f => (s.setUse ctx (Frame.no f) .page).putLeaf ctx va (s.newLeaf f perm + 2 ^ 59)

/-- HS_MAP (R434, R480). -/
def execHsMap (m : HostMsg) (s : State) : Out :=
  s.hsRequest m (m.field 0 4 = 2) (fun s =>
    let va := m.field 8 8
    let len := m.field 16 8
    let arg := m.field 24 8
    let perm := m.field 4 4
    let host := arg.testBit 63
    let n := arg % 2 ^ 32
    let region := (s.context m.ctx).region
    let bad := if host then arg / 2 ^ 32 ≠ 2 ^ 31 || 2 ^ 21 < n + len / 2 ^ 16 || region.any (fun r => r.size < n * 2 ^ 16 + len)
      else !placementOk arg
    if !hsLimits m || bad then some (s.respond m 1 [])
    else if host && region.isNone then some (s.respond m 4 [])
    else
      let ps := rangePages va len
      if ps.any (fun p => s.walk m.ctx p == .wait) then none
      else if ps.any (fun p => match s.walk m.ctx p with
          | .fault 1 _ | .fault 2 _ => false
          | _ => true) then some (s.respond m 3 [])
      else
        let map := fun (s : State) (p : Nat) =>
          if host then
            s.putLeaf m.ctx p (2 ^ 59 + 2 ^ 55 + s.chip * 2 ^ 45 + (n + (p - va) / 2 ^ 16) * 2 ^ 20 + perm * 2 ^ 3 + 2)
          else s.mapShared m.ctx p perm arg
        match ps.foldl (fun (r : Option State) p => r.bind (fun s => map s p)) (some s) with
        | some s => some (s.respond m 0 [])
        | none => some (s.respond m 2 []))

/-- HS_HOST_REGION (R480). -/
def execHsHostRegion (m : HostMsg) (s : State) : Out :=
  s.hsRequest m (m.field 0 4 = 3) (fun s =>
    let arg := m.field 24 8
    let hosted := (s.mapped m.ctx).any (fun p => leafHost p.2.1 && leafChip p.2.1 == s.chip)
    if m.field 4 4 ≠ 0 || m.field 8 8 % 2 ^ 16 ≠ 0 || m.field 16 8 % 2 ^ 16 ≠ 0 || 2 ^ 56 ≤ arg then some (s.respond m 1 [])
    else if hosted then some (s.respond m 4 [])
    else
      let r : HostRegion := { base := m.field 8 8, size := m.field 16 8, rkey := arg % 2 ^ 32, qp := arg / 2 ^ 32 }
      some ((s.onContext m.ctx (fun c => { c with region := some r })).respond m 0 []))

end Sys2Proof.Machine
end

