-- ==== Sys2Proof/Machine/Firmware.lean ====
section
/-! DEFINITION. Group entries and domain barriers; attestation and signed commands; telemetry, counters, the error log and
the host agent's answers; reset, wiping, power and errors of the memory (R391, R411, R455, R456, R463–R470, R479–R488). -/

namespace Sys2Proof.Machine

/-! ## Group entries and barriers (R391, R411, R479) -/

/-- Is a group entry within its limits (R391)? One with VALID = 0 clears the group. -/
def entryOk (e : Nat) : Bool :=
  !e.testBit 0 || (bitsOf e 8 1 == 0 && 1 ≤ bitsOf e 19 9 && bitsOf e 19 9 ≤ 1024 && bitsOf e 21 20 ≤ 1 &&
    bitsOf e 31 22 < bitsOf e 19 9 && bitsOf e 63 32 ≤ 1000000)

/-- Set or clear a group entry: a COLL.ar on it that is in progress ends with cause 4 (R391). -/
def State.setGroup (s : State) (ctx n e : Nat) (members : List Nat) : State :=
  let s := { s with colls := s.colls.map (fun _ k => match k.mode with
    | .ar _ _ g _ =>
      if k.ctx = ctx ∧ g = n ∧ k.inProgress then { k with cause := 4 } else k
    | _ => k) }
  let g : Group := ({ entry := e, members := members, parents := [] } : Group).treed s.linksDown
  s.onContext ctx (fun c => { c with groups := (if e.testBit 0 then Tab.put c.groups n g else Tab.del c.groups n) })

/-- The member list of an entry, read once: none where it cannot be read in full. -/
def State.memberList (s : State) (ctx e : Nat) : Option (List Nat) :=
  if !e.testBit 0 then some []
  else
    let n := bitsOf e 19 9
    (s.rangeRead ctx (e / 2 ^ 64) (2 * n)).bind (fun b =>
      if Bytes2.bad b || Config.addrLimit < e / 2 ^ 64 + 2 * n then none
      else some ((List.range n).map (fun i => field (b.map (fun y => y.1)) (2 * i) 2)))

/-- Do the chips of a list make a group: none twice, and all in the domain? -/
def State.membersOk (s : State) (l : List Nat) : Bool :=
  l.all s.inDomain && l.zipIdx.all (fun (p : Nat × Nat) => !(l.take p.2).contains p.1)

/-- The request to confirm a group, if one has been sent: its SEQ and the answer. -/
def State.groupAsk (s : State) (ctx n e : Nat) : Option (Nat × Option Bool) :=
  (s.asks.find? (fun a => a.2.what == .groupSetup ctx n e)).map (fun a => (a.1, a.2.answer))

/-- In the host-assisted mode of duty 5 the agent confirms first: the state, and its answer if it has come. -/
def State.confirm (s : State) (ctx n e : Nat) : State × Option Bool :=
  if !(s.context ctx).duty.testBit 5 then (s, some true)
  else
    match s.groupAsk ctx n e with
    | none => (s.ask 0x8004 ctx (.groupSetup ctx n e) (le 4 n ++ bytesOf 16 e), none)
    | some (_, none) => (s, none)
    | some (seq, some b) => ({ s with asks := Tab.del s.asks seq }, some b)

/-- The host of this package sets a group entry: the answer once every member has accepted and the agents have confirmed.
(Log 66, DEDUCED.) -/
def State.setGroupHere (s : State) (m : HostMsg) (reply : GroupReply) : State :=
  let n := m.field 0 2
  let e := m.field 8 16
  match (if entryOk e then s.memberList m.ctx e else none) with
  | none => s.respond m 1 []
  | some l =>
    let others := l.any (fun c => c != s.chip)
    if !s.membersOk l || (others && reply == .refused) then s.respond m 1 []
    else if others && reply == .silent then s.respond m 2 []
    else
      let c := s.confirm m.ctx n e
      match c.2 with
      | none => { c.1 with busy := some m }
      | some true => (c.1.setGroup m.ctx n e l).respond m 0 []
      | some false => c.1.respond m 1 []

/-- SET_GROUP_ENTRY (R391, R394, R469, R479): from this package's host, or from another member package, which this
package answers outside the model. -/
def execSetGroupEntry (m : HostMsg) (call : GroupCall) (s : State) : Out :=
  match call with
  | .host reply =>
    if s.busy = some m then .next ({ s with busy := none }.setGroupHere m reply)
    else
      s.serve m 0x0050 (m.shaped 24 [(0, 2), (8, 16)] && m.field 0 2 ≤ 255) true (fun s =>
        if (m.field 8 16).testBit 0 && s.rangeWaits m.ctx (m.field 16 8) (2 * bitsOf (m.field 8 16) 19 9) then none
        else some (s.setGroupHere m reply))
  | .member tag l =>
    let n := m.field 0 2
    let e := m.field 8 16
    match s.ctxByTag tag with
    | none => .next s
    | some ctx =>
      if 255 < n || !entryOk e || !s.membersOk l || (e.testBit 0 && l.length ≠ bitsOf e 19 9) then .next s
      else
        let c := s.confirm ctx n e
        if c.2 = some true then .next (c.1.setGroup ctx n e l) else .next c.1

/-- Does a course of the context wait on a domain barrier? -/
def State.waitsOn (s : State) (ctx b : Nat) : Bool :=
  s.courses.any (fun _ c => s.ctxOf c == ctx && [c.slot0, c.slot1].any (fun y => match y.wait with
    | .dbar k _ => k == b
    | _ => false))

/-- Discard the arrivals held for a barrier: what each delivers is not stated.
(Log 67, DESIGN CHOICE.) -/
def State.dropArrivals (s : State) (ctx b : Nat) : State :=
  (s.dbarArrs.keys (fun _ a => (s.gridOf a.team).ctx == ctx && a.bar == b)).foldl (fun s id =>
    match Tab.find s.dbarArrs id with
    | some a => { s with dbarArrs := Tab.del s.dbarArrs id }.landUnif a.crs a.pend 1 (Config.freeNat s.stamp (2 ^ 55 + id) % 2 ^ 32)
    | none => s) s

/-- BIND_DOMAIN_BARRIER (R411, R479). -/
def execBindDomainBarrier (m : HostMsg) (s : State) : Out :=
  let b := m.field 0 1
  let g := m.field 2 2
  s.serve m 0x0051 (m.shaped 8 [(0, 1), (2, 2)] && b ≤ 63 && (g ≤ 255 || g == 0xFFFF)) true (fun s =>
    if g ≠ 0xFFFF && (s.groupOf m.ctx g).isNone then some (s.respond m 1 [])
    else if s.waitsOn m.ctx b then some (s.respond m 2 [])
    else
      some (((s.dropArrivals m.ctx b).onContext m.ctx (fun c =>
        { c with dbars := if g = 0xFFFF then Tab.del c.dbars b else Tab.put c.dbars b { group := g } })).respond m 0 []))

/-! ## Attestation and signed commands (R462–R468, R481) -/

/-- The code of a life-cycle state in messages. -/
def LifeCycle.code : LifeCycle → Nat
  | .manufacture => 0
  | .provisioned => 1
  | .deployed => 2
  | .decommissioned => 3

/-- The life-cycle state of a code. -/
def lifeOf (n : Nat) : LifeCycle :=
  match n with
  | 0 => .manufacture
  | 1 => .provisioned
  | 2 => .deployed
  | _ => .decommissioned

/-- May the package move from one state to another (R467)? -/
def LifeCycle.moves : LifeCycle → LifeCycle → Bool
  | .manufacture, .provisioned | .provisioned, .deployed | .provisioned, .decommissioned | .deployed, .provisioned
  | .deployed, .decommissioned => true
  | _, _ => false

/-- The 32 bytes of a hash, the first of them the most significant. -/
def hashBytes (h : BitVec 256) : List Byte := (bytesOf 32 h.toNat).reverse

/-- Bytes 0x00–0x23 of the device's report: identity, chip, state and fuse counter (R481). -/
def State.identity (s : State) : List Byte :=
  hashBytes deviceKeyHash ++ bytesOf 2 s.chip ++ bytesOf 1 (LifeCycle.code s.lifeCycle) ++ bytesOf 1 s.fuse

/-- The report but for its signature (R466, R481). -/
def State.report (s : State) (ctx : Nat) (nonce : List Byte) : List Byte :=
  let objs := if ctx = 0xFFFFFFFF then [] else (s.context ctx).objects
  s.identity ++ bytesOf 1 (s.revoked % 16) ++ bytesOf 3 0 ++ hashBytes Config.milovHash ++ bytesOf 2 Config.milovVersion.toNat ++
    bytesOf 2 0 ++ bytesOf 4 ctx ++ bytesOf 4 objs.length ++ bytesOf 4 0 ++ bytesOf 8 s.hssIndex ++ nonce ++
    objs.flatMap (fun o => hashBytes o.message)

/-- ATTESTATION_REPORT (R465, R466, R481): the index is used once. -/
def execAttestationReport (m : HostMsg) (s : State) : Out :=
  s.serve m 0x0070 (m.shaped 40 [(0, 32), (0x20, 4)]) false (fun s =>
    let ctx := m.field 0x20 4
    if Config.hssIndices ≤ s.hssIndex then some (s.respond m 1 [])
    else if ctx ≠ 0xFFFFFFFF && !Tab.has s.contexts ctx then some (s.respond m 2 [])
    else
      let b := s.report ctx (m.body.take 32)
      let sig := deviceSign s.hssIndex (sha256 b)
      some ({ s with hssIndex := s.hssIndex + 1 }.respond m 0 (b ++ bytesOf 4 sig.length ++ sig)))

/-- The shared part of the signed commands (R481): the form, then the signature, then the command, which R467 refuses in
DECOMMISSIONED.
(Log 65, DEDUCED.) -/
def State.command (s : State) (m : HostMsg) (mine : Bool) (lo hi : Nat) (f : State → Nat → Option State) : Out :=
  let n := m.field 8 4
  let v := m.field 4 4
  if !mine then .next s
  else
    s.serve m 0x0080 (m.shaped (16 + n) [(0, 4), (4, 4), (8, 4), (16, n)] && m.field 0 4 ≤ 2 && lo ≤ v && v ≤ hi) false (fun s =>
      if !s.codeSigned (sha256 (m.body.take 8 ++ s.identity)) (m.body.drop 16) then some (s.respond m 1 [])
      else if s.lifeCycle == .decommissioned then some (s.respond m 2 [])
      else f s v)

/-- FUSE_COUNTER_ADVANCE (R463, R481): also a request whose action is none. Whether a blow fails is left open. -/
def execFuseCounterAdvance (m : HostMsg) (s : State) : Out :=
  s.command m (m.field 0 4 = 0 || 2 < m.field 0 4) 1 64 (fun s v =>
    if v ≤ s.fuse then some (s.respond m 2 [])
    else if Config.freeBit s.stamp (2 ^ 53) then some (s.respond m 3 [])
    else some ({ s with fuse := v }.respond m 0 []))

/-- KEY_SLOT_REVOCATION (R462, R481). -/
def execKeySlotRevocation (m : HostMsg) (s : State) : Out :=
  s.command m (m.field 0 4 = 1) 0 3 (fun s v => some ({ s with revoked := s.revoked ||| 2 ^ v }.respond m 0 []))

/-- Everything in memory and every register file is wiped; what the fuse block, the port and the host's side hold stays
(R468). -/
def State.wiped (s : State) : State :=
  { State.reset with
    clock := s.clock, chip := s.chip, domain := s.domain, stamp := s.stamp, agenda := s.agenda, fenced := s.fenced,
    linksDown := s.linksDown, dieLinksDown := s.dieLinksDown, up := s.up, mgmtOpen := s.mgmtOpen, rxBuffers := s.rxBuffers, devSeq := s.devSeq, held := s.held,
    busy := s.busy, later := s.later, hostOut := s.hostOut, lifeCycle := s.lifeCycle, fuse := s.fuse, keySlots := s.keySlots, topKeys := s.topKeys,
    revoked := s.revoked, hssIndex := s.hssIndex,
    bootFailed := s.bootFailed, telemetry := s.telemetry, idle := s.idle, perf := s.perf }

/-- LIFE_CYCLE_CHANGE (R62, R467, R468, R481): every context is stopped; once its grids have retired the state changes, the
wipe begins and the command is answered. -/
def execLifeCycleChange (m : HostMsg) (s : State) : Out :=
  if m.field 0 4 ≠ 2 then .next s
  else if s.busy = some m then
    if !(s.contexts.keys (fun _ _ => true)).all s.ctxDrained then .next s
    else .next ({ s with lifeCycle := lifeOf (m.field 4 4) }.wiped.respond m 0 [])
  else
    s.command m true 0 3 (fun s v =>
      if !LifeCycle.moves s.lifeCycle (lifeOf v) then some (s.respond m 2 [])
      else some { (s.contexts.keys (fun _ _ => true)).foldl (fun s c => s.stopCtx c 0x0007) s with busy := some m })

/-! ## Telemetry, counters and the log (R482, R484, R487, R488) -/

/-- The fraction of a die's cycles lost to inserted idle cycles, in units of 2^−16 (R482, R487): over the time since reset.
(Log 70, DESIGN CHOICE.) -/
def State.idleFraction (s : State) (die : Nat) : Nat := s.idle.getD die 0 * 2 ^ 16 / max 1 s.clock

/-- A record of a die as its sensors give it: any. -/
def State.sensed (s : State) (die : Nat) : Telemetry :=
  let f := fun (i : Nat) => Config.freeNat s.stamp (2 ^ 58 + 64 * die + i)
  { die := die, junction := f 0, rails := [f 1, f 2, f 3, f 4], currents := [f 5, f 6, f 7, f 8], powerMs := f 9, powerS := f 10,
    idleFraction := 0, inlet := f 12, flow := f 13 }

/-- A refreshed record as the spec has it (R482, R486, R487): a die does not draw the core rail of the other kind, the values of
the package repeat in every record, and the idle fraction is counted. -/
def State.refreshed (s : State) (first t : Telemetry) : Telemetry :=
  let draws := fun (i : Nat) => if t.die = Config.dies then i != 0 else i != 1
  { t with
    rails := t.rails.zipIdx.map (fun (p : Nat × Nat) => if draws p.2 then p.1 else 0)
    currents := t.currents.zipIdx.map (fun (p : Nat × Nat) => if draws p.2 then p.1 else 0)
    powerMs := first.powerMs, powerS := first.powerS, inlet := first.inlet, flow := first.flow
    idleFraction := s.idleFraction t.die }

/-- The records of a refresh: one for each die, and the collective die as die 8. -/
def State.refresh (s : State) (t : List Telemetry) : List Telemetry :=
  let first := t.headD (s.sensed 0)
  (List.range (Config.dies + 1)).map (fun d => s.refreshed first ((t.find? (fun x => x.die == d)).getD (s.sensed d)))

/-- The record of a die: its latest refresh, or before the first one whatever it holds. -/
def State.dieTelemetry (s : State) (die : Nat) : Telemetry :=
  (s.telemetry.find? (fun t => t.die == die)).getD (s.refreshed (s.sensed 0) (s.sensed die))

/-- The bytes of a telemetry record (R482). -/
def telemetryBytes (t : Telemetry) : List Byte :=
  bytesOf 1 t.die ++ bytesOf 3 0 ++ bytesOf 4 (intBits t.junction 32) ++
    [0, 1, 2, 3].flatMap (fun i => bytesOf 2 (t.rails.getD i 0)) ++ [0, 1, 2, 3].flatMap (fun i => bytesOf 4 (t.currents.getD i 0)) ++
    bytesOf 4 t.powerMs ++ bytesOf 4 t.powerS ++ bytesOf 4 t.idleFraction ++ bytesOf 4 (intBits t.inlet 32) ++ bytesOf 4 t.flow ++
    bytesOf 12 0

/-- READ_TELEMETRY (R482, R487). -/
def execReadTelemetry (m : HostMsg) (s : State) : Out :=
  s.serve m 0x0090 (m.shaped 8 [(0, 4)] && m.field 0 4 < 2 ^ 9) false (fun s =>
    some (s.respond m 0 (((List.range 9).filter (fun d => (m.field 0 4).testBit d)).flatMap (fun d => telemetryBytes (s.dieTelemetry d)))))

/-- TELEMETRY_REFRESH (R487): every millisecond, with what the sensors give: of a die that the list leaves out, any values. -/
def execTelemetryRefresh (t : List Telemetry) (s : State) : Out := .next { s with telemetry := s.refresh t }

/-- How many indexes and counters a scope has (R482, R488).
(Log 83, DESIGN CHOICE.) -/
def scopeSize : Nat → Nat × Nat
  | 0 => (Config.dies * Config.coresPerDie, 6)
  | 1 => (Config.dies, 10)
  | 2 => (1, 68)
  | _ => (0, 0)

/-- A counter (R488). -/
def State.counter (s : State) (scope index item : Nat) : Nat := Tab.get 0 s.perf (perfKey scope index item)

/-- The replays of each port and the detours, which the links count, rise by whatever has happened there since they were last read:
none of them wraps.
(Log 113, DESIGN CHOICE.) -/
def State.countLinks (s : State) : State :=
  (List.range 65).foldl (fun s i => s.count 2 0 i (Config.freeNat s.stamp (2 ^ 60 + i) % (2 ^ 64 - s.counter 2 0 i))) s

/-- READ_COUNTERS (R482, R488). -/
def execReadCounters (m : HostMsg) (s : State) : Out :=
  let z := scopeSize (m.field 0 2)
  s.serve m 0x0091 (m.shaped 8 [(0, 2), (4, 4)] && m.field 4 4 < z.1) false (fun s =>
    let s := if m.field 0 2 = 2 then s.countLinks else s
    some (s.respond m 0 ((List.range z.2).flatMap (fun i => bytesOf 8 (s.counter (m.field 0 2) (m.field 4 4) i)))))

/-- The bytes of an error-log record (R484). -/
def ErrRec.bytes (r : ErrRec) : List Byte :=
  bytesOf 2 r.kind ++ bytesOf 2 r.queue ++ bytesOf 4 r.recNo ++ bytesOf 8 r.word ++ bytesOf 8 r.time ++ bytesOf 8 r.pc ++
    bytesOf 8 r.addr ++ bytesOf 4 r.info ++ bytesOf 4 r.lane

/-- A record of a log by its number; one no longer held is all zero (R484). -/
def Context.logBytes (c : Context) (n : Nat) : List Byte :=
  let back := (c.logCount + 2 ^ 32 - n % 2 ^ 32) % 2 ^ 32
  if 1 ≤ back && back ≤ c.log.length then ((c.log[c.log.length - back]?).map ErrRec.bytes).getD (bytesOf 48 0) else bytesOf 48 0

/-- READ_ERROR_LOG (R484). -/
def execReadErrorLog (m : HostMsg) (s : State) : Out :=
  s.serve m 0x0092 (m.shaped 8 [(0, 4), (4, 4)] && 1 ≤ m.field 4 4 && m.field 4 4 ≤ 64) true (fun s =>
    some (s.respond m 0 ((List.range (m.field 4 4)).flatMap (fun i => (s.context m.ctx).logBytes (m.field 0 4 + i)))))

/-! ## Answers of the host agent (R469, R482) -/

/-- What an answer does to what was asked: the state and the STATUS. -/
def State.answered (s : State) (seq : Nat) (a : Ask) (n : Nat) : State × Nat :=
  let s1 := { s with asks := Tab.del s.asks seq }
  match a.what with
  | .recovery g cause t =>
    if n = 2 then (s1.abortNow g cause t, 0) else if n = 3 then (s1.stopCtx (s.grid g).ctx 0x0006, 0) else (s, 2)
  | .admission _ => if n < 2 then (s1.consentAnswer seq (n == 0), 0) else (s, 2)
  | .firstTouch crs slot => if n < 2 then (s1.escalationAnswered crs slot (n == 0), 0) else (s, 2)
  | .groupSetup _ _ _ =>
    if n < 2 then ({ s with asks := Tab.put s.asks seq { a with answer := some (n == 0) } }, 0) else (s, 2)

/-- Does an answer confirm the group entry that the request in progress waits for? -/
def State.confirmsBusy (s : State) (m : HostMsg) : Bool :=
  match s.busy, Tab.find s.asks (m.field 0 4) with
  | some b, some a => b.op == 0x0050 && a.what == .groupSetup b.ctx (b.field 0 2) (b.field 8 16)
  | _, _ => false

/-- AGENT_ANSWER (R469, R482). While a request is in progress only the answer that it waits for is performed, and its response
follows that request's.
(Log 62, DEDUCED.) -/
def execAgentAnswer (m : HostMsg) (s : State) : Out :=
  let go := fun (s : State) =>
    match Tab.find s.asks (m.field 0 4) with
    | some a => if a.answer.isSome then (s, 1) else s.answered (m.field 0 4) a (m.field 4 4)
    | none => (s, 1)
  let ok := m.shaped 16 [(0, 4), (4, 4)] && m.field 4 4 ≤ 3
  if s.confirmsBusy m && m.op == 0x00A0 && m.rsv == 0 && m.status == 0 && m.ctx ≤ 255 && ok then
    let r := go s
    .next { r.1 with later := r.1.later ++ [{ m with rsv := 0, status := r.2, body := [] }] }
  else
    s.serve m 0x00A0 ok false (fun s => let r := go s; some (r.1.respond m r.2 []))

/-! ## Reset and boot (R468, R485) -/

/-- The package is reset: the wipe begins, and the port is down until it is complete. What the fuse block holds stays, and
so do the fenced units and the failed links, which are found again. The Milov image is checked under R462 and R464.
(Log 71, DEDUCED.) -/
def State.restart (s : State) : State :=
  { s.wiped with
    clock := 0, up := false, mgmtOpen := false, rxBuffers := 0, devSeq := 0, held := [], busy := none, later := [], telemetry := [],
    idle := [], perf := [],
    bootFailed := !s.codeSigned Config.milovHash Config.milovSignature || Config.milovVersion.toNat < s.fuse }

/-- PACKAGE_RESET (R485). -/
def execPackageReset (s : State) : Out := .next s.restart

/-- WIPE_COMPLETE (R468, R485): the port comes up with an empty management queue pair. The units that are fenced are reported in
the first events, and so is an image that failed its check, of whose event the spec gives the kind no values. -/
def execWipeComplete (s : State) : Out :=
  if !s.wiping then .next s
  else
    let t := { s with wiping := false, up := true }
    if s.up then .next t
    else
      let t := s.fenced.foldl (fun t u => t.mgmt 0 3 (le 4 (UnitKind.code u.1) ++ le 4 u.2)) t
      .next (if s.bootFailed then t.mgmt 0 11 (le 4 (Config.freeNat s.stamp (2 ^ 52))) else t)

/-! ## Power and cooling (R29, R486) -/

/-- Is a value outside the limit of an item, at a number of percent for a rail; in the units of R482? -/
def beyondRail (nominal pct : Nat) (v : Int) : Bool := (nominal * pct : Nat) < 100 * (v - nominal).natAbs

/-- Does a value leave the limits of R486: those for an event, or the trip limits? -/
def beyondLimit (item : Nat) (v : Int) (trip : Bool) : Bool :=
  let pct := if trip then 6 else 3
  match item with
  | 0 => beyondRail 650 pct v
  | 1 => beyondRail 700 pct v
  | 2 => beyondRail 750 pct v
  | 3 => beyondRail 1050 pct v
  | 4 => (if trip then 5000 else 4500) < v
  | 5 => v < (if trip then 1200 else 1600)
  | 6 => (if trip then 11000 else 9500) < v
  | _ => false

/-- RAIL_LIMIT_EVENT (R486): a limit has been left for more than 10 ms. -/
def execRailLimitEvent (item : Nat) (value : Int) (s : State) : Out :=
  if beyondLimit item value false then .next (s.mgmt 0 4 (le 4 item ++ le 4 (intBits value 32))) else .next s

/-- TRIP_LIMIT (R486): the package is reset. -/
def execTripLimit (item : Nat) (value : Int) (s : State) : Out :=
  if beyondLimit item value true then .next s.restart else .next s

/-- IDLE_INSERTION (R29, R486): the power controller inserts an idle cycle into a die's matrix issue; results do not
change. -/
def execIdleInsertion (die : Nat) (s : State) : Out :=
  if die < Config.dies then
    let l := (List.range Config.dies).map (fun d => s.idle.getD d 0 + b2n (d == die))
    .next { s with idle := l }
  else .next s

/-! ## Errors (R455, R456) -/

/-- The two 4-byte words of the 8-byte SRAM codeword that holds a byte (R455). -/
def codeword8 (ofs : Nat) : List Nat := [ofs / 8 * 8, ofs / 8 * 8 + 4]

/-- Does a place exist? -/
def State.placeExists (s : State) : ErrorPlace → Bool
  | .dram a => physExists a
  | .lane crs n L | .bank crs n L => Tab.has s.courses crs && n < 256 && L < 32
  | .dist crs n L => Tab.has s.courses crs && n < 16 && L < 32
  | .shared team ofs => Tab.has s.teams team && ofs < (s.gridOf team).lr.shared
  | .scratch g die ofs => Tab.has s.grids g && die < Config.dies && ofs < (s.grid g).lr.scratch
  | .acc team tile row col => Tab.has s.teams team && tile < 4 * (s.gridOf team).lr.tiles && row < 8 && col < 32
  | .landing key ofs => Tab.has s.entries key && ofs < 512
  | .shadow team line => (s.team team).shadows.any (fun h => h.line == line)
  | .farLine die chip line ofs => ofs < 128 && s.farLines.any (fun f => f.die == die && f.chip == chip && f.line == line)
  | .homeLine die a => physExists a && (a / 2 ^ 38 == die || s.courses.any (fun _ c => dieOf c.core == die && c.spill.contains (a / 2 ^ 16)))
  | .tlb n => n < s.tlb.length
  | .code core ctx line ofs => ofs < 128 && (s.core core).icache.any (fun l => l.ctx == ctx && l.line == line)

/-- The die whose counters count an error at a place. -/
def State.placeDie (s : State) : ErrorPlace → Nat
  | .dram a => a / 2 ^ 38
  | .lane crs _ _ | .bank crs _ _ | .dist crs _ _ => dieOf (s.course crs).core
  | .shared team _ | .acc team _ _ _ => dieOf (s.team team).core
  | .scratch _ die _ | .farLine die _ _ _ | .homeLine die _ => die
  | .landing key _ => key / (Config.slicesPerDie * Config.entriesPerSlice)
  | .shadow team line => (((s.team team).shadows.find? (fun h => h.line == line)).map (fun h => h.die)).getD 0
  | .tlb _ => Config.freeNat s.stamp (2 ^ 61) % Config.dies
  | .code core _ _ _ => dieOf core

/-- What an uncorrectable error does to state that carries poison (R228, R263, R456): every 4-byte word of the codeword is
poisoned; a TLB entry is discarded. The codeword of a register file holds lanes 2i and 2i + 1 of a register, and that of an
accumulator columns 2i and 2i + 1 of a row.
(Log 99, DESIGN CHOICE.) -/
def State.poisonPlace (s : State) (p : ErrorPlace) : State :=
  let pair := fun (L : Nat) => [L / 2 * 2, L / 2 * 2 + 1]
  let bad := fun (t : Tab Cell) (n L : Nat) =>
    (pair L).foldl (fun t k => Tab.put t (cellKey n k) { Tab.get {} t (cellKey n k) with poison := true }) t
  match p with
  | .dram a => { s with poison := (wordsOf (a / 64 * 64) 64).foldl insertNat s.poison }
  | .lane crs n L => s.onCourse crs (fun c => { c with v := bad c.v n L })
  | .bank crs n L => s.onCourse crs (fun c => { c with sup := c.sup.map (fun u => { u with hv := bad u.hv n L }) })
  | .dist crs n L =>
    s.onCourse crs (fun c => { c with d := Tab.put c.d (cellKey n L) { Tab.get {} c.d (cellKey n L) with poison := true } })
  | .shared team ofs =>
    let b := s.spaceBlock (.shared team)
    s.setSpace (.shared team) { b with poison := (codeword8 ofs).foldl insertNat b.poison }
  | .scratch g die ofs =>
    let b := s.spaceBlock (.scratch g die)
    s.setSpace (.scratch g die) { b with poison := (codeword8 ofs).foldl insertNat b.poison }
  | .acc team tile row col =>
    s.onTeam team (fun t => { t with acc := (pair col).foldl (fun a k =>
      Tab.put a (accKey tile row k) { Tab.get {} a (accKey tile row k) with poison := true }) t.acc })
  | .landing key ofs => s.setEntry key { s.entry key with poison := (codeword8 ofs).foldl insertNat (s.entry key).poison }
  | .shadow team line =>
    s.onTeam team (fun t => { t with shadows := t.shadows.map (fun h => if h.line = line then { h with poisoned := true } else h) })
  | .farLine die chip line ofs =>
    { s with farLines := s.farLines.map (fun f =>
        if f.die = die && f.chip = chip && f.line = line then { f with poison := (codeword8 ofs).foldl insertNat f.poison } else f) }
  | .homeLine _ a => { s with poison := (codeword8 a).foldl insertNat s.poison }
  | .tlb n => { s with tlb := s.tlb.eraseIdx n }
  | .code core ctx line ofs =>
    s.onCore core (fun k => { k with icache := k.icache.map (fun l =>
      if l.ctx = ctx && l.line = line then { l with bad := (codeword8 ofs).foldl insertNat l.bad } else l) })

/-- SCRUB (R455, R456): a codeword is read, by a use of it or by the memory processor. A corrected error is counted and written
back; an uncorrectable one is counted and poisons what it holds. -/
def execScrub (place : ErrorPlace) (corrected : Bool) (s : State) : Out :=
  if !s.placeExists place then .next s
  else if corrected then .next (s.count 1 (s.placeDie place) 0 1)
  else .next ((s.poisonPlace place).count 1 (s.placeDie place) 1 1)

/-- UNCORRECTABLE_STATE_ERROR (R456, R483): an error in state without a poison bit aborts the grid that owns it. -/
def execUncorrectableStateError (grid die part : Nat) (s : State) : Out :=
  let x := s.grid grid
  if x.done then .next s
  else .next (((s.abortGrid grid 0x0112 none).count 1 die 1 1).mgmt x.ctx 10 (le 4 die ++ le 4 part))

end Sys2Proof.Machine
end

