-- ==== Sys2Proof/Machine/Schedule.lean ====
section
/-! DEFINITION. The scheduler of a bay: which slots may issue, their order, urgency, yielding, and the words that may
issue jointly (R106–R111, R117–R119, R174, R205, R225). -/

namespace Sys2Proof.Machine

/-! ## Who may issue (R107–R109) -/

/-- May a slot issue, as far as the slot and its course are concerned: the registers of its next word apart (R108,
R157, R438)? -/
def State.mayIssue (s : State) (c : Course) (j : Nat) : Bool :=
  let y := c.slotN j
  c.taken j && y.wait == .none && !y.stalled && y.notBefore ≤ s.clock && c.nextIssue ≤ s.clock && s.running c && !c.held &&
    c.notBarred j

/-- The place of a slot in the order of R109: the group, what orders within the group, and the candidate number. -/
def State.rank (s : State) (c : Course) (j : Nat) : Nat × Nat × Nat :=
  let y := c.slotN j
  let last := match y.lastIssue with
    | none => 0
    | some n => n + 1
  if y.urgent then (0, y.eligibleSince.getD 0, 2 * c.place + j)
  else if s.clock < y.yieldUntil then (3, last, 2 * c.place + j)
  else (if (s.lrOf c).comm = c.idx then 1 else 2, last, 2 * c.place + j)

/-- Does one place in the order come before another? -/
def rankLt (a b : Nat × Nat × Nat) : Bool :=
  a.1 < b.1 || (a.1 == b.1 && (a.2.1 < b.2.1 || (a.2.1 == b.2.1 && a.2.2 < b.2.2)))

/-- The line that holds a slot's next word, if the core has it (R134). -/
def State.lineOf (s : State) (c : Course) (pc : Nat) : Option ILine := (s.core c.core).cached (s.ctxOf c) (pc / 128)

/-- Has a slot something to take at its turn: its next word, or a further trap before it (R437)? -/
def State.hasTurn (s : State) (c : Course) (j : Nat) : Bool := (s.lineOf c (c.slotN j).pc).isSome || (c.nextRefusal j).isSome

/-- The slots of a bay that may issue and have something to take. -/
def State.ready (s : State) (core bay : Nat) : List (Nat × Nat) :=
  s.courses.flatMap (fun e =>
    if e.2.core = core ∧ e.2.bay = bay then
      ([0, 1].filter (fun j => s.mayIssue e.2 j && s.hasTurn e.2 j)).map (fun j => (e.1, j))
    else [])

/-- The slot that a bay issues next: none once the bay has made its issue event (R106, R109). -/
def State.pick (s : State) (core bay : Nat) : Option (Nat × Nat) :=
  if ((s.core core).bay bay).issued = some s.clock then none
  else (s.ready core bay).foldl (fun (b : Option (Nat × Nat)) e =>
    match b with
    | none => some e
    | some y => if rankLt (s.rank (s.course e.1) e.2) (s.rank (s.course y.1) y.2) then some e else b) none

/-- SLOT_URGENCY (R109): a slot that has been eligible and unissued for 32 consecutive cycles becomes urgent. -/
def execSlotUrgency (crs slot : Nat) (s : State) : Out :=
  let y := (s.course crs).slotN slot
  if !y.urgent && y.eligibleSince.any (fun n => n + 32 ≤ s.clock) then
    .next (s.onCourse crs (fun c => c.onSlot slot (fun y => { y with urgent := true })))
  else .next s

/-- YIELD_WINDOW_END (R109): the 16 cycles after a word with Y = 1 are over. -/
def execYieldWindowEnd (crs slot : Nat) (s : State) : Out :=
  let y := (s.course crs).slotN slot
  if y.yieldUntil ≠ 0 ∧ y.yieldUntil ≤ s.clock then
    .next (s.onCourse crs (fun c => c.onSlot slot (fun y => { y with yieldUntil := 0 })))
  else .next s

/-- UNIT_OCCUPANCY_END (R174, R205, R225): a shared pipeline of a bay can take its next word. -/
def execUnitOccupancyEnd (core bay : Nat) (bu : BayUnit) (s : State) : Out :=
  let left := fun (n : Nat) => if n ≤ s.clock then 0 else n
  .next (s.onBay core bay (fun b =>
    match bu with
    | .special => { b with specialUntil := left b.specialUntil }
    | .crossbar => { b with crossbarUntil := left b.crossbarUntil }
    | .distribution => { b with distUntil := left b.distUntil }))

/-! ## Pairs (R117) -/

/-- Is an opcode of the fixed-ALU class (R111)? -/
def fixedAlu (op : Nat) : Bool :=
  (0x20 ≤ op && op ≤ 0x23) || (0x26 ≤ op && op ≤ 0x3B) || op == 0x3E || (0x40 ≤ op && op ≤ 0x4C) || op == 0x56 || op == 0x57

/-- May an opcode be the second of a pair: special function, crossbar, local memory, channel or ticket (R111, R117)? -/
def pairSecond (op : Nat) : Bool :=
  op == 0x24 || op == 0x25 || (0x4D ≤ op && op ≤ 0x55) || (0x60 ≤ op && op ≤ 0x6A) || (0x80 ≤ op && op ≤ 0x8C) ||
    (0xA0 ≤ op && op ≤ 0xA9)

/-- The lane registers that a word reads. -/
def readsOf (i : Instr) : List Nat := i.fields.flatMap (fun f => (f.laneReads 0xFFFFFFFF#32).map (fun r => r.1))

/-- The registers that a word writes. -/
def writesOf (i : Instr) : List RegId := i.fields.flatMap (fun f => f.writes false)

/-- The conditions of R117 on two words as such: their classes, at most one lane register of each bank, no register
written by both. -/
def pairable (a b : Instr) : Bool :=
  let rs := readsOf a ++ readsOf b
  fixedAlu a.opcode && pairSecond b.opcode && rs.all (fun m => rs.all (fun n => m == n || m % 4 != n % 4)) &&
    (writesOf a).all (fun r => !(writesOf b).contains r)

end Sys2Proof.Machine
end

