-- ==== Sys2Proof/Machine/Dispatch.lean ====
section
/-! DEFINITION. The meaning of every instruction, one arm for each constructor of Instr. -/

namespace Sys2Proof.Machine

/-- Run an instruction: the word at the cursor, or a step of the package. -/
def exec (i : Instr) (s : State) : Host.Outcome State Fault Refusal :=
  match i with
  -- Control words (R89, R124–R137)
  | .ill h body => Sys2Proof.Machine.execIll h body s
  | .nop h => Sys2Proof.Machine.execNop h s
  | .bra h t ofs => Sys2Proof.Machine.execBra h t ofs s
  | .brx r => Sys2Proof.Machine.execBrx r s
  | .call h unif a ofs => Sys2Proof.Machine.execCall h unif a ofs s
  | .ret r => Sys2Proof.Machine.execRet r s
  | .jmark h ofs => Sys2Proof.Machine.execJmark h ofs s
  | .join h => Sys2Proof.Machine.execJoin h s
  | .endLanes h => Sys2Proof.Machine.execEnd h s
  | .ipf h base n ofs => Sys2Proof.Machine.execIpf h base n ofs s
  | .refill r => Sys2Proof.Machine.execRefill r s
  | .ipush r => Sys2Proof.Machine.execIpush r s
  | .vacq r => Sys2Proof.Machine.execVacq r s
  | .vacqNb r => Sys2Proof.Machine.execVacqNb r s
  | .vrel r => Sys2Proof.Machine.execVrel r s
  | .barinit r => Sys2Proof.Machine.execBarinit r s
  | .arrive r ph => Sys2Proof.Machine.execArrive r ph s
  | .bwait r => Sys2Proof.Machine.execBwait r s
  | .waitc r path => Sys2Proof.Machine.execWaitc r path s
  | .clbar h => Sys2Proof.Machine.execClbar h s
  | .clbarArr h => Sys2Proof.Machine.execClbarArr h s
  | .clbarWait h => Sys2Proof.Machine.execClbarWait h s
  | .launch r => Sys2Proof.Machine.execLaunch r s
  -- Integer words (R160–R171)
  | .iadd r n32 sat => Sys2Proof.Machine.execIadd r n32 sat s
  | .isub r n32 sat => Sys2Proof.Machine.execIsub r n32 sat s
  | .imul r n32 part => Sys2Proof.Machine.execImul r n32 part s
  | .imad r n32 wide => Sys2Proof.Machine.execImad r n32 wide s
  | .idiv r n32 => Sys2Proof.Machine.execIdiv r n32 s
  | .irem r n32 => Sys2Proof.Machine.execIrem r n32 s
  | .imin r n32 => Sys2Proof.Machine.execImin r n32 s
  | .imax r n32 => Sys2Proof.Machine.execImax r n32 s
  | .iabs r sat => Sys2Proof.Machine.execIabs r sat s
  | .andOp r inv => Sys2Proof.Machine.execAnd r inv s
  | .orOp r inv => Sys2Proof.Machine.execOr r inv s
  | .xorOp r inv => Sys2Proof.Machine.execXor r inv s
  | .shl r wrap => Sys2Proof.Machine.execShl r wrap s
  | .shr r wrap => Sys2Proof.Machine.execShr r wrap s
  | .sar r wrap => Sys2Proof.Machine.execSar r wrap s
  | .rot r right => Sys2Proof.Machine.execRot r right s
  | .popc r => Sys2Proof.Machine.execPopc r s
  | .clz r => Sys2Proof.Machine.execClz r s
  | .brev r => Sys2Proof.Machine.execBrev r s
  | .bfe r sx => Sys2Proof.Machine.execBfe r sx s
  | .bfi r => Sys2Proof.Machine.execBfi r s
  | .icmp r cc n32 => Sys2Proof.Machine.execIcmp r cc n32 s
  | .sel r => Sys2Proof.Machine.execSel r s
  | .mov r => Sys2Proof.Machine.execMov r s
  | .movi k ext => Sys2Proof.Machine.execMovi k ext s
  | .iadd64 r sub ext => Sys2Proof.Machine.execIadd64 r sub ext s
  | .lea r sx => Sys2Proof.Machine.execLea r sx s
  | .mlopAnd r => Sys2Proof.Machine.execMlopAnd r s
  | .mlopOr r => Sys2Proof.Machine.execMlopOr r s
  | .mlopXor r => Sys2Proof.Machine.execMlopXor r s
  | .mlopAndn r => Sys2Proof.Machine.execMlopAndn r s
  | .mlopOrn r => Sys2Proof.Machine.execMlopOrn r s
  | .mlopNot r => Sys2Proof.Machine.execMlopNot r s
  | .mlopMov r => Sys2Proof.Machine.execMlopMov r s
  | .mlopFroms r => Sys2Proof.Machine.execMlopFroms r s
  | .mlopTos r => Sys2Proof.Machine.execMlopTos r s
  | .mlopAct r => Sys2Proof.Machine.execMlopAct r s
  | .srd r => Sys2Proof.Machine.execSrd r s
  | .swr r => Sys2Proof.Machine.execSwr r s
  | .swrSet r => Sys2Proof.Machine.execSwrSet r s
  | .swrClr r => Sys2Proof.Machine.execSwrClr r s
  | .iaddi w wide => Sys2Proof.Machine.execIaddi w wide s
  -- Vector words (R191–R203)
  | .fadd r rnd sat => Sys2Proof.Machine.execFadd r rnd sat s
  | .fsub r rnd sat => Sys2Proof.Machine.execFsub r rnd sat s
  | .fmul r rnd sat => Sys2Proof.Machine.execFmul r rnd sat s
  | .ffma r rnd sat => Sys2Proof.Machine.execFfma r rnd sat s
  | .fmin r nan => Sys2Proof.Machine.execFmin r nan s
  | .fmax r nan => Sys2Proof.Machine.execFmax r nan s
  | .fcmp r cc => Sys2Proof.Machine.execFcmp r cc s
  | .fcls r => Sys2Proof.Machine.execFcls r s
  | .hadd2 r rnd sat bf16 part => Sys2Proof.Machine.execHadd2 r rnd sat bf16 part s
  | .hmul2 r rnd sat bf16 part => Sys2Proof.Machine.execHmul2 r rnd sat bf16 part s
  | .hfma2 r rnd sat bf16 part => Sys2Proof.Machine.execHfma2 r rnd sat bf16 part s
  | .hmnx2 r max nan bf16 part => Sys2Proof.Machine.execHmnx2 r max nan bf16 part s
  | .cvt r rnd sat => Sys2Proof.Machine.execCvt r rnd sat s
  | .fdiv r rnd => Sys2Proof.Machine.execFdiv r rnd s
  | .fsqrt r rnd => Sys2Proof.Machine.execFsqrt r rnd s
  | .rcp r => Sys2Proof.Machine.execRcp r s
  | .rsq r => Sys2Proof.Machine.execRsq r s
  | .ex2 r => Sys2Proof.Machine.execEx2 r s
  | .lg2 r => Sys2Proof.Machine.execLg2 r s
  | .sin r => Sys2Proof.Machine.execSin r s
  | .cos r => Sys2Proof.Machine.execCos r s
  | .tanh r => Sys2Proof.Machine.execTanh r s
  | .frnd r rnd => Sys2Proof.Machine.execFrnd r rnd s
  | .fscl r rnd sat => Sys2Proof.Machine.execFscl r rnd sat s
  -- Lane crossbar and quantisation (R205–R222)
  | .shfl r mode seg => Sys2Proof.Machine.execShfl r mode seg s
  | .vote r mode => Sys2Proof.Machine.execVote r mode s
  | .redux r op idx seg => Sys2Proof.Machine.execRedux r op idx seg s
  | .scan r op excl seg => Sys2Proof.Machine.execScan r op excl seg s
  | .hdm r seg scale => Sys2Proof.Machine.execHdm r seg scale s
  | .qmax r ty seg => Sys2Proof.Machine.execQmax r ty seg s
  | .qscale r out fm => Sys2Proof.Machine.execQscale r out fm s
  | .qnt r rnd sat fm => Sys2Proof.Machine.execQnt r rnd sat fm s
  | .deq r rnd fm => Sys2Proof.Machine.execDeq r rnd fm s
  | .pack r w => Sys2Proof.Machine.execPack r w s
  | .unpack r w sx => Sys2Proof.Machine.execUnpack r w sx s
  -- Local memories (R256–R260)
  | .lds m clu => Sys2Proof.Machine.execLds m clu s
  | .sts m clu => Sys2Proof.Machine.execSts m clu s
  | .atoms m op clu => Sys2Proof.Machine.execAtoms m op clu s
  | .ldsf m clu => Sys2Proof.Machine.execLdsf m clu s
  | .ldx m => Sys2Proof.Machine.execLdx m s
  | .stx m => Sys2Proof.Machine.execStx m s
  | .atomx m op => Sys2Proof.Machine.execAtomx m op s
  | .ldk m => Sys2Proof.Machine.execLdk m s
  | .stk m => Sys2Proof.Machine.execStk m s
  -- Tickets (R266–R289)
  | .tld m nb => Sys2Proof.Machine.execTld m nb s
  | .ticketBytesLand x => Sys2Proof.Machine.execTicketBytesLand x s
  | .redeem r w => Sys2Proof.Machine.execRedeem r w s
  | .redeemSh r => Sys2Proof.Machine.execRedeemSh r s
  | .tdrop r => Sys2Proof.Machine.execTdrop r s
  | .tqry r => Sys2Proof.Machine.execTqry r s
  | .tqryLive r => Sys2Proof.Machine.execTqryLive r s
  -- Channels (R291–R323)
  | .stg m rel ntf => Sys2Proof.Machine.execStg m rel ntf s
  | .atomg m op rel ntf => Sys2Proof.Machine.execAtomg m op rel ntf s
  | .redg m op rel ntf => Sys2Proof.Machine.execRedg m op rel ntf s
  | .redgSh m op => Sys2Proof.Machine.execRedgSh m op s
  | .cjoin r => Sys2Proof.Machine.execCjoin r s
  | .cdrain r scope sc => Sys2Proof.Machine.execCdrain r scope sc s
  | .creset r => Sys2Proof.Machine.execCreset r s
  | .cstat r => Sys2Proof.Machine.execCstat r s
  | .cstatAddr r => Sys2Proof.Machine.execCstatAddr r s
  | .cstatWhere r => Sys2Proof.Machine.execCstatWhere r s
  | .evwait r => Sys2Proof.Machine.execEvwait r s
  | .evwaitRd r => Sys2Proof.Machine.execEvwaitRd r s
  | .evadd r => Sys2Proof.Machine.execEvadd r s
  | .locq r => Sys2Proof.Machine.execLocq r s
  | .packetArrival p => Sys2Proof.Machine.execPacketArrival p s
  | .acknowledgementArrival a => Sys2Proof.Machine.execAcknowledgementArrival a s
  | .refusalArrival r => Sys2Proof.Machine.execRefusalArrival r s
  | .closeArrival p => Sys2Proof.Machine.execCloseArrival p s
  | .resync p => Sys2Proof.Machine.execResync p s
  | .resyncAck r => Sys2Proof.Machine.execResyncAck r s
  | .movedRefusal r => Sys2Proof.Machine.execMovedRefusal r s
  -- The fabric (R391–R412)
  | .collPut r ntf => Sys2Proof.Machine.execCollPut r ntf s
  | .collGet r => Sys2Proof.Machine.execCollGet r s
  | .collAr r ty op => Sys2Proof.Machine.execCollAr r ty op s
  | .collWork id lane inp => Sys2Proof.Machine.execCollWork id lane inp s
  | .csig r => Sys2Proof.Machine.execCsig r s
  | .xsend r => Sys2Proof.Machine.execXsend r s
  | .tokenArrival t => Sys2Proof.Machine.execTokenArrival t s
  | .xsendStatus id far => Sys2Proof.Machine.execXsendStatus id far s
  | .xrecv r => Sys2Proof.Machine.execXrecv r s
  | .xrecvFree r => Sys2Proof.Machine.execXrecvFree r s
  | .xrecvCfg r => Sys2Proof.Machine.execXrecvCfg r s
  | .xrecvStat r => Sys2Proof.Machine.execXrecvStat r s
  | .dbarArr r => Sys2Proof.Machine.execDbarArr r s
  | .dbarWait r => Sys2Proof.Machine.execDbarWait r s
  | .dbarPhaseComplete ctx b arrived => Sys2Proof.Machine.execDbarPhaseComplete ctx b arrived s
  -- The transfer unit and barriers (R349–R367)
  | .cpy r dir size bar => Sys2Proof.Machine.execCpy r dir size bar s
  | .tcpy r sat rnd bar x st => Sys2Proof.Machine.execTcpy r sat rnd bar x st s
  | .transferOperation copy op data => Sys2Proof.Machine.execTransferOperation copy op data s
  -- Matrix units (R369–R386)
  | .mma r fa fb z => Sys2Proof.Machine.execMma r fa fb z s
  | .mmas r fa fb z => Sys2Proof.Machine.execMmas r fa fb z s
  | .mbatch h => Sys2Proof.Machine.execMbatch h s
  | .accz r => Sys2Proof.Machine.execAccz r s
  | .accld m => Sys2Proof.Machine.execAccld m s
  | .accst m => Sys2Proof.Machine.execAccst m s
  | .accrd r => Sys2Proof.Machine.execAccrd r s
  -- Distributions (R231–R246)
  | .dmk r eq => Sys2Proof.Machine.execDmk r eq s
  | .dget r w => Sys2Proof.Machine.execDget r w s
  | .dset r => Sys2Proof.Machine.execDset r s
  | .dadd r => Sys2Proof.Machine.execDadd r s
  | .dsub r => Sys2Proof.Machine.execDsub r s
  | .dmul r => Sys2Proof.Machine.execDmul r s
  | .dmin r => Sys2Proof.Machine.execDmin r s
  | .dmax r => Sys2Proof.Machine.execDmax r s
  | .dmap r fn => Sys2Proof.Machine.execDmap r fn s
  | .daff r => Sys2Proof.Machine.execDaff r s
  | .dmix r => Sys2Proof.Machine.execDmix r s
  | .dcond r => Sys2Proof.Machine.execDcond r s
  | .dmom r k => Sys2Proof.Machine.execDmom r k s
  | .dqtl r f32 => Sys2Proof.Machine.execDqtl r f32 s
  | .dcdf r le => Sys2Proof.Machine.execDcdf r le s
  | .dtagNew r => Sys2Proof.Machine.execDtagNew r s
  | .dtagCopy r => Sys2Proof.Machine.execDtagCopy r s
  | .dtagRead r => Sys2Proof.Machine.execDtagRead r s
  -- Traps and the handler (R435–R447)
  | .trap r => Sys2Proof.Machine.execTrap r s
  | .sret h => Sys2Proof.Machine.execSret h s
  | .sretEsc h => Sys2Proof.Machine.execSretEsc h s
  | .sysrd r => Sys2Proof.Machine.execSysrd r s
  | .sysrdV r => Sys2Proof.Machine.execSysrdV r s
  | .sysrdS r => Sys2Proof.Machine.execSysrdS r s
  | .sysrdPm r => Sys2Proof.Machine.execSysrdPm r s
  | .syswr r => Sys2Proof.Machine.execSyswr r s
  | .syswrV r => Sys2Proof.Machine.execSyswrV r s
  | .syswrS r => Sys2Proof.Machine.execSyswrS r s
  | .haltGrid h => Sys2Proof.Machine.execHaltGrid h s
  | .haltLanes h => Sys2Proof.Machine.execHaltLanes h s
  -- Translation (R424–R429)
  | .tlbinvPg r => Sys2Proof.Machine.execTlbinvPg r s
  | .tlbinvCtx h => Sys2Proof.Machine.execTlbinvCtx h s
  | .pgmap r => Sys2Proof.Machine.execPgmap r s
  | .pgprot r => Sys2Proof.Machine.execPgprot r s
  | .cinv r => Sys2Proof.Machine.execCinv r s
  | .cinvCtx h => Sys2Proof.Machine.execCinvCtx h s
  -- Steps of the core and the front end
  | .admitGrid q place => Sys2Proof.Machine.execAdmitGrid q place s
  | .haltRequest team => Sys2Proof.Machine.execHaltRequest team s
  | .restore place => Sys2Proof.Machine.execRestore place s
  | .pageMigration ctx what placement => Sys2Proof.Machine.execPageMigration ctx what placement s
  | .dieOutOfService die => Sys2Proof.Machine.execDieOutOfService die s
  | .unitFence kind n => Sys2Proof.Machine.execUnitFence kind n s
  | .linkFailure k ends => Sys2Proof.Machine.execLinkFailure k ends s
  | .linkReturn k ends => Sys2Proof.Machine.execLinkReturn k ends s
  -- The host port
  | .rdmaWrite key va bytes => Sys2Proof.Machine.execRdmaWrite key va bytes s
  | .rdmaRead key va n => Sys2Proof.Machine.execRdmaRead key va n s
  | .unsupportedRdmaRequest k => Sys2Proof.Machine.execUnsupportedRdmaRequest k s
  | .defineContext m => Sys2Proof.Machine.execDefineContext m s
  | .stopContext m => Sys2Proof.Machine.execStopContext m s
  | .destroyContext m => Sys2Proof.Machine.execDestroyContext m s
  | .createQueue m => Sys2Proof.Machine.execCreateQueue m s
  | .destroyQueue m => Sys2Proof.Machine.execDestroyQueue m s
  | .addPoolFrames m => Sys2Proof.Machine.execAddPoolFrames m s
  | .removeFrames m => Sys2Proof.Machine.execRemoveFrames m s
  | .migratePage m => Sys2Proof.Machine.execMigratePage m s
  | .exportWindow m => Sys2Proof.Machine.execExportWindow m s
  | .withdrawWindow m => Sys2Proof.Machine.execWithdrawWindow m s
  | .loadObject m => Sys2Proof.Machine.execLoadObject m s
  | .unload m => Sys2Proof.Machine.execUnload m s
  | .setGroupEntry m call => Sys2Proof.Machine.execSetGroupEntry m call s
  | .bindDomainBarrier m => Sys2Proof.Machine.execBindDomainBarrier m s
  | .hsQuery m => Sys2Proof.Machine.execHsQuery m s
  | .hsPermissions m => Sys2Proof.Machine.execHsPermissions m s
  | .hsMap m => Sys2Proof.Machine.execHsMap m s
  | .hsHostRegion m => Sys2Proof.Machine.execHsHostRegion m s
  | .attestationReport m => Sys2Proof.Machine.execAttestationReport m s
  | .fuseCounterAdvance m => Sys2Proof.Machine.execFuseCounterAdvance m s
  | .keySlotRevocation m => Sys2Proof.Machine.execKeySlotRevocation m s
  | .lifeCycleChange m => Sys2Proof.Machine.execLifeCycleChange m s
  | .readTelemetry m => Sys2Proof.Machine.execReadTelemetry m s
  | .readCounters m => Sys2Proof.Machine.execReadCounters m s
  | .readErrorLog m => Sys2Proof.Machine.execReadErrorLog m s
  | .agentAnswer m => Sys2Proof.Machine.execAgentAnswer m s
  | .packageReset => Sys2Proof.Machine.execPackageReset s
  | .railLimitEvent item value => Sys2Proof.Machine.execRailLimitEvent item value s
  | .tripLimit item value => Sys2Proof.Machine.execTripLimit item value s
  | .telemetryRefresh t => Sys2Proof.Machine.execTelemetryRefresh t s
  | .scrub place corrected => Sys2Proof.Machine.execScrub place corrected s
  | .uncorrectableStateError grid die part => Sys2Proof.Machine.execUncorrectableStateError grid die part s
  | .hostRegionAccessCompletion p accepted => Sys2Proof.Machine.execHostRegionAccessCompletion p accepted s
  | .managementQueuePairOpen => Sys2Proof.Machine.execManagementQueuePairOpen s
  | .receiveBufferPosted n => Sys2Proof.Machine.execReceiveBufferPosted n s
  | .undefinedOpRequest m => Sys2Proof.Machine.execUndefinedOpRequest m s
  -- Steps that the package makes by itself
  | .launchSubmit id => Sys2Proof.Machine.execLaunchSubmit id s
  | .tldQuotaResume crs slot => Sys2Proof.Machine.execTldQuotaResume crs slot s
  | .ticketAllocate req entry => Sys2Proof.Machine.execTicketAllocate req entry s
  | .allocationRetry req => Sys2Proof.Machine.execAllocationRetry req s
  | .redeemAtSlice req => Sys2Proof.Machine.execRedeemAtSlice req s
  | .redeemDelivery req => Sys2Proof.Machine.execRedeemDelivery req s
  | .redeemRefusal req => Sys2Proof.Machine.execRedeemRefusal req s
  | .tdropAtSlice req => Sys2Proof.Machine.execTdropAtSlice req s
  | .ticketExpiry entry => Sys2Proof.Machine.execTicketExpiry entry s
  | .shadowMerge team line => Sys2Proof.Machine.execShadowMerge team line s
  | .cdrainComplete crs slot => Sys2Proof.Machine.execCdrainComplete crs slot s
  | .evwaitWake crs slot => Sys2Proof.Machine.execEvwaitWake crs slot s
  | .openRetry key => Sys2Proof.Machine.execOpenRetry key s
  | .streamClose key => Sys2Proof.Machine.execStreamClose key s
  | .resyncTimer key => Sys2Proof.Machine.execResyncTimer key s
  | .resyncTimeout key => Sys2Proof.Machine.execResyncTimeout key s
  | .movedReissue team ch => Sys2Proof.Machine.execMovedReissue team ch s
  | .collComplete id => Sys2Proof.Machine.execCollComplete id s
  | .collTimeout id => Sys2Proof.Machine.execCollTimeout id s
  | .dbarArrivalCounted id => Sys2Proof.Machine.execDbarArrivalCounted id s
  | .dbarTimeout ctx b => Sys2Proof.Machine.execDbarTimeout ctx b s
  | .copyComplete copy => Sys2Proof.Machine.execCopyComplete copy s
  | .bwaitWake crs slot => Sys2Proof.Machine.execBwaitWake crs slot s
  | .clbarPhaseComplete cluster => Sys2Proof.Machine.execClbarPhaseComplete cluster s
  | .waitcComplete crs slot => Sys2Proof.Machine.execWaitcComplete crs slot s
  | .engineOpRetire crs path => Sys2Proof.Machine.execEngineOpRetire crs path s
  | .quarterStep core bay => Sys2Proof.Machine.execQuarterStep core bay s
  | .accumulatorEntry core bay => Sys2Proof.Machine.execAccumulatorEntry core bay s
  | .valueLands crs pid => Sys2Proof.Machine.execValueLands crs pid s
  | .escalationAnswer crs slot => Sys2Proof.Machine.execEscalationAnswer crs slot s
  | .handlerEntry crs slot => Sys2Proof.Machine.execHandlerEntry crs slot s
  | .demandFetch crs slot => Sys2Proof.Machine.execDemandFetch crs slot s
  | .fetchFillLands core line => Sys2Proof.Machine.execFetchFillLands core line s
  | .slotRefill crs => Sys2Proof.Machine.execSlotRefill crs s
  | .tailWordWrite q => Sys2Proof.Machine.execTailWordWrite q s
  | .coopWaitTimer q => Sys2Proof.Machine.execCoopWaitTimer q s
  | .admissionConsent q => Sys2Proof.Machine.execAdmissionConsent q s
  | .agentTimeout seq => Sys2Proof.Machine.execAgentTimeout seq s
  | .saveComplete team => Sys2Proof.Machine.execSaveComplete team s
  | .pendingValueLands crs pid => Sys2Proof.Machine.execPendingValueLands crs pid s
  | .teamFree team => Sys2Proof.Machine.execTeamFree team s
  | .completionSignal grid => Sys2Proof.Machine.execCompletionSignal grid s
  | .wipeComplete => Sys2Proof.Machine.execWipeComplete s
  | .fixedAluWriteback crs => Sys2Proof.Machine.execFixedAluWriteback crs s
  | .slotUrgency crs slot => Sys2Proof.Machine.execSlotUrgency crs slot s
  | .yieldWindowEnd crs slot => Sys2Proof.Machine.execYieldWindowEnd crs slot s
  | .unitOccupancyEnd core bay bu => Sys2Proof.Machine.execUnitOccupancyEnd core bay bu s
  | .destinationAccessTimeout p => Sys2Proof.Machine.execDestinationAccessTimeout p s
  | .idleInsertion die => Sys2Proof.Machine.execIdleInsertion die s
  | .streamReset p => Sys2Proof.Machine.execStreamReset p s

end Sys2Proof.Machine
end

