-- ==== Sys2Proof/Machine/Turns.lean ====
section
/-! DEFINITION. Whose turn it is: a bay's issue event, alone or as a pair (R86, R87, R106, R117–R119, R437), the events
that the package's other parts wait to make, and the clock (R153). -/

namespace Sys2Proof.Machine

/-! ## An issue event -/

/-- The word at an address of a line (R66). -/
def ILine.word (l : ILine) (pc : Nat) : BitVec 64 := BitVec.ofNat 64 (ofBytes ((l.bytes.drop (pc % 128)).take 8))

/-- The line holds an uncorrectable error: no word fetched from it issues (R138). -/
def ILine.isBad (l : ILine) : Bool := !l.bad.isEmpty

/-- The line that a slot fetches from is the most recently used (R134). -/
def State.touchLine (s : State) (core : Nat) (l : ILine) : State :=
  s.onCore core (fun k => { k with icache := k.icache.map (fun m =>
    if m.ctx == l.ctx && m.line == l.line then { m with used := s.stamp } else m) })

/-- A word from a line with an uncorrectable error: DATA_ERROR as it comes to issue, and the line is not kept (R138).
(Log 13, DEDUCED.) -/
def State.badLine (s : State) (crs j : Nat) (l : ILine) : State :=
  let core := (s.course crs).core
  let s := s.onCore core (fun k => { k with icache := k.icache.filter (fun m => !(m.ctx == l.ctx && m.line == l.line)) })
  let s := (s.onBay core (s.course crs).bay (fun b => { b with issued := some s.clock })).count 0 core 0 1
  s.raise crs j (s.fetchTrap crs j 0x12 0 (2 * 256))

/-- A word that the decoder refuses: ILLEGAL_INSTRUCTION at the word (R86, orders 1 and 2). -/
def State.undecoded (s : State) (w : BitVec 64) : State :=
  let x := s.wordCtx (Raw.ofWord w).head
  s.settle x (.trap (x.trap 0x01))

/-- Has the slot at the cursor issued in this cycle? -/
def State.hasIssued (s : State) : Bool := ((s.course s.cur.crs).slotN s.cur.slot).lastIssue == some s.clock

/-- The word after the one at the cursor and its line, if it may issue jointly with it (R117). -/
def State.partner (s : State) (i : Instr) : Option (Instr × ILine) :=
  let c := s.course s.cur.crs
  let pc := (c.slotN s.cur.slot).pc + 8
  match s.lineOf c pc with
  | none => none
  | some l =>
    if l.isBad then none
    else match decodeWord (l.word pc) with
      | .ok i2 => if pairable i i2 then some (i2, l) else none
      | .error _ => none

/-- The second word of a pair has not issued jointly: it could not, or its own description makes the slot wait (R108,
R117). -/
def State.notJoint (s : State) : Bool :=
  let y := (s.course s.cur.crs).slotN s.cur.slot
  y.stalled || (match y.wait with
    | .none | .trap _ _ | .arith _ _ => false
    | _ => true)

/-- Two words issue as two single words, and the event is counted (R118). -/
def State.fallback (s : State) : State := s.count 0 (s.course s.cur.crs).core 1 1

/-- Issue the second word of a pair, after the first has given s: it reads what stood before the pair (R119), and its GAP
governs once it has issued (R118). Its line l has then been used too (R134). -/
def State.issueSecond (s : State) (i2 : Instr) (l : ILine) : Out :=
  let gap := (s.course s.cur.crs).nextIssue
  let here := fun (s : State) (f : Course → Course) => s.onCourse s.cur.crs f
  match exec i2 (here { s with cur := { s.cur with second := true } } (fun c => { c with nextIssue := s.clock })) with
  | .next t =>
    if t.notJoint then .next s.fallback
    else
      let t := ({ t with cur := { t.cur with second := false } } : State).touchLine (t.course t.cur.crs).core l
      .next (if (t.course t.cur.crs).nextIssue = t.clock then here t (fun c => { c with nextIssue := gap }) else t)
  | o => o

/-- Issue a word with P = 1 (R87, R117–R119).
(Log 76, DEDUCED.) -/
def State.issuePair (s : State) (i : Instr) : Out :=
  let pc := ((s.course s.cur.crs).slotN s.cur.slot).pc
  match exec i s with
  | .next t =>
    let y := (t.course t.cur.crs).slotN t.cur.slot
    if !t.hasIssued then .next t
    else match s.partner i with
      | none => .next t.fallback
      | some (i2, l) => if y.wait == .none && y.pc == pc + 8 then t.issueSecond i2 l else .next t
  | o => o

/-- Issue a decoded word: alone, or with the next one where its P bit asks for it. -/
def State.issueWord (s : State) (i : Instr) : Out := if i.head?.any (fun h => h.p) then s.issuePair i else exec i s

/-- A slot's turn to issue: a deferred refusal first, else its next word.
(Log 127, DESIGN CHOICE.) -/
def State.slotTurn (s : State) (crs j : Nat) : Out :=
  let s := { s with cur := ⟨crs, j, false⟩ }
  let c := s.course crs
  match c.nextRefusal j with
  | some t => .next (s.takeRefusal crs j t)
  | none =>
    match s.lineOf c (c.slotN j).pc with
    | none => .next s
    | some l =>
      if l.isBad then .next (s.badLine crs j l)
      else
        let s := s.touchLine c.core l
        match decodeWord (l.word (c.slotN j).pc) with
        | .error _ => .next (s.undecoded (l.word (c.slotN j).pc))
        | .ok i => s.issueWord i

/-- A bay's turn: the slot that its scheduler chooses, if it may make an issue event and some slot may issue. -/
def State.bayTurn (s : State) (core bay : Nat) : Option Out := (s.pick core bay).map (fun e => s.slotTurn e.1 e.2)

/-! ## The clock (R109, R153, R285) -/

/-- Is a slot eligible in this cycle: it may issue, and its next word would (R108)? -/
def State.eligible (s : State) (crs j : Nat) : Bool :=
  let c := s.course crs
  s.mayIssue c j && s.hasTurn c j &&
    (match s.slotTurn crs j with
      | .next t => !((t.course crs).slotN j).stalled
      | _ => true)

/-- A slot as the cycle ends. -/
def Slot.endCycle (y : Slot) (clock : Nat) (eligible : Bool) : Slot :=
  { y with stalled := false, wantsEntry := false, urgent := y.urgent && eligible,
           eligibleSince := if eligible then some (y.eligibleSince.getD clock) else none }

/-- A landing entry ages while its grid's context has a running team (R285).
(Log 77, DEDUCED.)
(Log 131, DESIGN CHOICE.) -/
def State.ages (s : State) (e : Entry) : Bool :=
  (e.state == .pending || e.state == .ready) &&
    s.teams.any (fun _ t => t.state == .running && (s.grid t.grid).ctx == (s.grid e.grid).ctx)

/-- The next cycle begins. -/
def State.tick (s : State) : State :=
  { s with
    clock := s.clock + 1
    courses := s.courses.map (fun h c =>
      { c with slot0 := c.slot0.endCycle s.clock (s.eligible h 0), slot1 := c.slot1.endCycle s.clock (s.eligible h 1) })
    entries := s.entries.map (fun _ e => if s.ages e then { e with age := e.age + 1 } else e) }

/-! ## What the parts of the package wait to do -/

/-- What a part of the package may do: a step, with the item that it acts on. -/
abbrev Move := State → Out

/-- Must a ticket expire by now: in the hardware mode before its age exceeds the lifetime by 2 µs, in the host-assisted mode by
100 µs (R285, R469)? -/
def State.mustExpire (s : State) (e : Entry) : Bool :=
  let late := if (s.context (s.grid e.grid).ctx).duty.testBit 3 then 100 else 2
  s.expires e && (s.grid e.grid).lr.lifeCycles + late * Config.cyclesPerUs ≤ e.age

/-- Events that are due at once: fixed-ALU results after 4 cycles (R112), urgency after 32 (R109), and tickets at the end of
their time (R285). -/
def State.due (s : State) : Option Move :=
  (s.courses.findSome? (fun e =>
    if e.2.alu.any (fun w => w.issued + 4 ≤ s.clock) ||
        [e.2.slot0, e.2.slot1].any (fun y => match y.wait with
          | .arith n _ => n ≤ s.clock
          | _ => false) then some (execFixedAluWriteback e.1)
    else none)).orElse (fun _ =>
  (s.courses.findSome? (fun e =>
    ([0, 1].find? (fun j => !(e.2.slotN j).urgent && (e.2.slotN j).eligibleSince.any (fun n => n + 32 ≤ s.clock))).map
      (fun j => execSlotUrgency e.1 j))).orElse (fun _ =>
  s.entries.findSome? (fun e => if s.mustExpire e.2 then some (execTicketExpiry e.1) else none)))

/-- What a slot waits for. -/
def State.slotEvents (s : State) (crs j : Nat) (y : Slot) : List Move :=
  match y.wait with
  | .none =>
    (if (s.lineOf (s.course crs) y.pc).isNone then [execDemandFetch crs j] else []) ++ [execYieldWindowEnd crs j]
  | .bwait _ _ => [execBwaitWake crs j]
  | .waitc _ _ => [execWaitcComplete crs j]
  | .evwait _ _ => [execEvwaitWake crs j]
  | .cdrain _ _ _ _ => [execCdrainComplete crs j]
  | .quota _ _ => [execTldQuotaResume crs j]
  | .trap _ _ => [execHandlerEntry crs j]
  | .escalated _ _ => [execEscalationAnswer crs j]
  | _ => []

/-- The events of a course. -/
def State.courseEvents (s : State) (crs : Nat) (c : Course) : List Move :=
  s.slotEvents crs 0 c.slot0 ++ s.slotEvents crs 1 c.slot1 ++ [execSlotRefill crs] ++
    c.pend.flatMap (fun p => [execValueLands crs p.id, execPendingValueLands crs p.id]) ++
    [EnginePath.copy, .mat, .coll, .xch].map (fun p => execEngineOpRetire crs p)

/-- The events of a core. -/
def coreEvents (core : Nat) (k : Core) : List Move :=
  k.fills.map (fun f => execFetchFillLands core f.2) ++
    [0, 1, 2, 3].flatMap (fun b => [execQuarterStep core b, execAccumulatorEntry core b] ++
      [BayUnit.special, .crossbar, .distribution].map (fun u => execUnitOccupancyEnd core b u))

/-- The reads of a copy's operation that have come back. -/
def State.returned (s : State) (copy op : Nat) : List ReadReturn :=
  s.net.flatMap (fun m => match m with
    | .data d => if d.reader = .copy copy op && d.key.chip = s.chip then [d] else []
    | _ => [])

/-- The events of a team: its copies, channels and streams, its save and its end. -/
def State.teamEvents (s : State) (h : Nat) (t : Team) : List Move :=
  t.copies.flatMap (fun e =>
    (List.range e.2.ops.length).map (fun n => execTransferOperation e.1 n (s.returned e.1 n)) ++ [execCopyComplete e.1]) ++
  t.chans.flatMap (fun e =>
    execMovedReissue h e.1 :: e.2.streams.flatMap (fun st =>
      let k : StreamKey := ⟨s.chip, h, e.1, st.dest⟩
      [execOpenRetry k, execStreamClose k, execResyncTimer k, execResyncTimeout k])) ++
  t.shadows.map (fun x => execShadowMerge h x.line) ++ [execClbarPhaseComplete h, execSaveComplete h, execTeamFree h]

/-- The event of a message in flight. What goes to another package, or waits for the host, is outside. -/
def State.netEvents (s : State) (m : NetMsg) : List Move :=
  match m with
  | .packet p =>
    if p.key.dest.chip ≠ s.chip || p.key.dest.host then []
    else match p.body with
      | .close => [execCloseArrival p]
      | .reset => [execStreamReset p]
      | .resync _ => [execResync p]
      | _ => [execPacketArrival p, execDestinationAccessTimeout p]
  | .ack a => [execAcknowledgementArrival a]
  | .refusal r => if r.moved then [execMovedRefusal r] else [execRefusalArrival r]
  | .resyncAck r => [execResyncAck r]
  | .data d => [execTicketBytesLand d]
  | _ => []

/-- The events of the ticket slices and of the landing entries (R268–R285). A request is refused at most 8 times in one
cycle: the refusals that follow change nothing (R277). -/
def State.sliceEvents (s : State) : List Move :=
  s.tldReqs.flatMap (fun e =>
    let free := (List.range Config.entriesPerSlice).find? (fun n => s.entryFree e.2.die e.2.slice n)
    (match free with
      | some n => [execTicketAllocate e.1 n]
      | none => []) ++ (if e.2.refusals < 8 then [execAllocationRetry e.1] else [])) ++
  s.sliceReqs.flatMap (fun e => [execRedeemAtSlice e.1, execRedeemRefusal e.1, execTdropAtSlice e.1]) ++
  s.entries.flatMap (fun e => [execRedeemDelivery e.1, execTicketExpiry e.1])

/-- Has TIMEOUT passed since a COLL issued (R401)? -/
def State.collLate (s : State) (k : Coll) : Bool :=
  match k.mode with
  | .ar _ _ g _ => (s.groupOf k.ctx g).any (fun gr => k.since + gr.timeout ≤ s.clock)
  | _ => false

/-- The events of the collective die (R391–R412). What other packages contribute comes in from outside. -/
def State.fabricEvents (s : State) : List Move :=
  s.colls.flatMap (fun e =>
    e.2.lanes.map (fun l => execCollWork e.1 l.lane {}) ++ [execCollComplete e.1] ++
      (if s.collLate e.2 then [execCollTimeout e.1] else [])) ++
  s.tokens.map (fun t => execTokenArrival t) ++ s.xsends.flatMap (fun e => [execXsendStatus e.1 []]) ++
  s.launches.flatMap (fun e => [execLaunchSubmit e.1]) ++ s.dbarArrs.flatMap (fun e => [execDbarArrivalCounted e.1]) ++
  s.contexts.flatMap (fun e => e.2.dbars.flatMap (fun b => [execDbarPhaseComplete e.1 b.1 [], execDbarTimeout e.1 b.1]))

/-- A rectangle of unfenced cores for the teams of one cluster that need a place, on cores loaded as they stand and further (R30,
R36, R49, R50): each team by its rank, with the saved team that it is, if any, whose image needs room too (R131, R389). -/
def State.spot (s : State) (r : LaunchRec) (ts : List (Nat × Option Nat)) (more : Tab Load) : Option (List (Nat × Nat)) :=
  (rectangles r).findSome? (fun cs =>
    let l := ts.filterMap (fun t =>
      let c := cs.getD t.1 0
      ([0, 1, 2, 3].find? (fun o => (((s.coreLoad [] c).add (Tab.get {} more c)).add (teamLoad r o)).fits &&
        t.2.all (fun h => s.imageFits h c o))).map (fun o => (c, o)))
    if cs.all s.coreUsable && l.length = ts.length then some l else none)

/-- Places for clusters, one after another. -/
def State.spots (s : State) (r : LaunchRec) : List (List (Nat × Option Nat)) → Tab Load → List (Nat × Nat)
  | [], _ => []
  | ts :: rest, more =>
    match s.spot r ts more with
    | none => []
    | some l => l ++ s.spots r rest (l.foldl (fun m e => Tab.put m e.1 ((Tab.get {} m e.1).add (teamLoad r e.2))) more)

/-- n whole clusters of fresh teams. -/
def freshClusters (r : LaunchRec) (n : Nat) : List (List (Nat × Option Nat)) :=
  List.replicate n ((List.range (r.w * r.h)).map (fun k => (k, none)))

/-- Places for teams, in the order of a list. -/
def placeTeams (ts : List Nat) (l : List (Nat × Nat)) : List Placement := List.zipWith (fun t p => ⟨t, p.1, p.2⟩) ts l

/-- What a queue may start, at the first place that does; or what it pre-empts for. -/
def State.startEvents (s : State) (qn : Nat) : List Move :=
  (s.nexts qn).map (fun x =>
    let r := s.nextRec x
    let first := match x with
      | .cluster g => (s.grid g).nextTeam
      | .fresh _ => 0
    execAdmitGrid qn (placeTeams ((List.range (r.needed * (r.w * r.h))).map (fun i => first + i))
      (s.spots r (freshClusters r r.needed) []))) ++ [execAdmitGrid qn []]

/-- The events of a queue: the tail word and the record at its head. -/
def queueEvents (qn : Nat) : List Move := [execTailWordWrite qn, execCoopWaitTimer qn, execAdmissionConsent qn]

/-- The restore of a saved team's cluster or co-operative grid, in the order of the team numbers. -/
def State.restoreEvents (s : State) (h : Nat) (t : Team) : List Move :=
  if t.state = .saved then
    let r := (s.grid t.grid).lr
    let S := r.w * r.h
    let us := sortBy (fun a b => (s.team a).number ≤ (s.team b).number) ((s.unitOf h).filter (fun k => (s.team k).state == .saved))
    let cs := (us.map (fun k => (s.team k).number / S)).foldl insertNat []
    let clusters := cs.map (fun c => (us.filter (fun k => (s.team k).number / S == c)).map (fun k => ((s.team k).number % S, some k)))
    [execRestore (placeTeams us (s.spots r clusters []))]
  else []

/-- A request that the host waits for is gone on with (R474). -/
def busyEvents (m : HostMsg) : List Move := [execStopContext m, execDestroyContext m, execMigratePage m, execLifeCycleChange m]

/-- Everything that some part of the package may have to do, in the order in which it is tried. -/
def State.waitingEvents (s : State) : List Move :=
  s.courses.flatMap (fun e => s.courseEvents e.1 e.2) ++ s.cores.flatMap (fun e => coreEvents e.1 e.2) ++
    s.ingress.flatMap (fun g => g.part.toList.map execPacketArrival) ++ s.net.flatMap s.netEvents ++ s.sliceEvents ++ s.fabricEvents ++ s.teams.flatMap (fun e => s.teamEvents e.1 e.2) ++
    s.grids.flatMap (fun e => [execCompletionSignal e.1]) ++ s.queues.flatMap (fun e => queueEvents e.1) ++
    s.queueNumbers.flatMap s.startEvents ++ s.moves.map (fun m => execPageMigration m.ctx (.page m.va) 0) ++
    s.teams.flatMap (fun e => s.restoreEvents e.1 e.2) ++ s.asks.flatMap (fun e => [execAgentTimeout e.1]) ++
    (match s.busy with
      | some m => busyEvents m
      | none => []) ++
    [execWipeComplete]

/-- The first event that changes something. -/
def State.internal (s : State) : Option Out :=
  s.waitingEvents.findSome? (fun f =>
    match f s with
    | .next t => if t = s then none else some (.next t)
    | o => some o)

/-! ## The next turn -/

/-- The first bay with a slot that may issue. -/
def State.anyBay (s : State) : Option Out := s.courses.findSome? (fun e => s.bayTurn e.2.core e.2.bay)

/-- With nothing on the agenda: the bays issue, then the other parts of the package do what they can, then the clock
advances. The order is the model's choice; any other order is an agenda.
(Log 10, DESIGN CHOICE.) -/
def State.ownTurn (s : State) : Out :=
  match s.anyBay with
  | some o => o
  | none =>
    match s.internal with
    | some o => o
    | none => .next s.tick

/-- One turn of the agenda. A turn that finds nothing to do changes nothing; a word issues only from a bay. -/
def State.turn (s : State) : Turn → Out
  | .event i => if i.head?.isSome then .next s else exec i s
  | .bay core bay => (s.bayTurn core bay).getD (.next s)
  | .tick => .next s.tick

/-- The number of the event goes on: free values differ from step to step. -/
def bump : Out → Out
  | .next t => .next { t with stamp := t.stamp + 1 }
  | o => o

/-- One step: what is due; else the first turn of the agenda; else the package's own turn. -/
def State.advanceOne (s : State) : Out :=
  match s.due with
  | some f => f s
  | none =>
    match s.agenda with
    | t :: rest => ({ s with agenda := rest }).turn t
    | [] => s.ownTurn

end Sys2Proof.Machine
end

