-- ==== Sys2Proof/Machine/Step.lean ====
section
/-! DEFINITION. One step of the package, and the placing of an instruction where the next step runs it. -/

namespace Sys2Proof.Machine

/-- One step. -/
def step (s : State) : Host.Outcome State Fault Refusal := bump s.advanceOne

/-- The context, grid, team and course that withFetchWord places: context 1 runs team 0 of grid 0 on core 0, with one
course of 32 lanes in bay 0 whose PC is 0. -/
def State.placed (s : State) : State :=
  { s with
    up := true, wiping := false, cur := ⟨0, 0, false⟩, agenda := []
    contexts := Tab.put s.contexts 1 { tag := 1, root := 1, duty := 0 }
    grids := Tab.put s.grids 0
      { ctx := 1, queue := 0, recNo := 0, prio := 0, admitted := 0, nextTeam := 1,
        lr := { base := 128, pool := 4, dregs := 8, tiles := 4, shared := 65536, xfer := 16, chans := 16, events := 128, windows := 128 } }
    teams := Tab.put s.teams 0 { grid := 0, number := 0, core := 0, offset := 0, courses := [0] }
    courses := Tab.put s.courses 0
      { team := 0, idx := 0, core := 0, bay := 0, place := 0, slot0 := { pc := 0, mask := 0xFFFFFFFF#32 }, slot1 := {},
        live := 0xFFFFFFFF#32 } }

/-- The line of code at address 0 of context 1, in the instruction cache of core 0. -/
def codeLine (bytes : List Byte) : ILine := { ctx := 1, line := 0, bytes := bytes, bad := [], used := 0 }

/-- An instruction of nbits bits, numbered as the opcode table numbers them, where the next step fetches: the first word
of a course that runs on core 0, alone in the package (R46, R66, R134). The words after it are zero.
(Log 11, DEDUCED.) -/
def State.withFetchWord (s : State) (nbits w : Nat) : State :=
  let line := codeLine (bytesOf 8 (w % 2 ^ nbits) ++ List.replicate 120 0#8)
  ({ s.placed with courses := [(0, s.placed.course 0)], cores := [] }).onCore 0 (fun k => { k with icache := [line] })

end Sys2Proof.Machine
end

