-- ==== Sys2Proof/Safety.lean ====
section
/-! DEFINITION. The terms in which statements speak of a run: a word that passes its checks, the state that a word
leaves, what a register holds once every result on its way has landed, and what a step leaves unchanged. -/

namespace Sys2Proof.Machine

/-! ## A word that issues -/

/-- The word i with head h is at issue at the cursor and passes the checks of R86 and R151. -/
def State.passes (s : State) (i : Instr) (h : Head) : Bool :=
  let x := s.wordCtx h
  let c := s.issuer x
  s.atIssue && (!privileged i || x.sup) && i.fields.all (fun f => f.ok (s.limits c x.sup)) && !c.destEmpty x i.fields &&
    !c.sourceEmpty x i.fields && (i.ownPoison || (s.poisoned c x i.fields).isNone)

/-- What the meaning of a word answers when its effect has given t: the issue is accounted for and the slot goes on at
the next word (R67, R106, R140). -/
def State.went (t : State) (x : Ctx) : Out := .next ((t.account x).advance x.crs x.j x.act)

/-- The word has issued and its slot waits. -/
def State.waits (t : State) (x : Ctx) (w : Wait) : Out :=
  .next ((t.account x).onCourse x.crs (fun c => c.onSlot x.j (fun y => { y with wait := w, act := x.act })))

/-- The word has issued and set its slot itself. -/
def State.jumped (t : State) (x : Ctx) : Out := .next (t.account x)

/-- The word traps: the bay has made its issue event, and the slot waits to enter the handler (R86, R435). -/
def State.trapped (s : State) (x : Ctx) (t : TrapRec) : Out := .next (((s.accountTrap x).noteTrap x.crs t).raise x.crs x.j t)

/-- The word could not issue in this cycle (R108). -/
def State.blocked (s : State) (x : Ctx) (empty : Bool) : Out :=
  .next ((s.count 0 (s.course x.crs).core 5 (b2n empty)).onCourse x.crs (fun c =>
    c.onSlot x.j (fun y => { y with stalled := true })))

/-- In every state in which the word passes its checks, its meaning answers what out says. -/
def Does (i : Instr) (h : Head) (out : State → Ctx → Out) : Prop :=
  ∀ s, s.passes i h = true → exec i s = out s (s.wordCtx h)

/-- The same where a further condition holds. -/
def DoesIf (i : Instr) (h : Head) (ok : State → Ctx → Prop) (out : State → Ctx → Out) : Prop :=
  ∀ s, s.passes i h = true → ok s (s.wordCtx h) → exec i s = out s (s.wordCtx h)

/-- L is the lowest lane of Active() of which bad holds. -/
def firstLane (x : Ctx) (bad : Nat → Prop) (L : Nat) : Prop := L ∈ lanesOf x.act ∧ bad L ∧ ∀ l ∈ lanesOf x.act, l < L → ¬ bad l

/-- The word traps at a page that it looked up, or after pages that it looked up: their translations are held (R422). -/
def State.trappedPast (s : State) (x : Ctx) (vas : List Nat) (t : TrapRec) : Out := .next (((((s.looked x vas).accountTrap
  x).noteTrap x.crs t).raise x.crs x.j t))

/-- The word could not issue in this cycle, and the translations that it looked up are held; entry tells whether it waits for an
entry of the stream table (R295, R422). -/
def State.heldPast (s : State) (x : Ctx) (vas : List Nat) (entry : Bool) : Out :=
  .next ((s.looked x vas).onCourse x.crs (fun c => c.onSlot x.j (fun y =>
    { y with stalled := true, wantsEntry := y.wantsEntry || entry })))

/-- The first of a list of checks that does not pass answers r, when the pages of vas have been looked up. -/
def stopsAt {α : Type} (f : α → Looked) (l : List α) (r : PageRes) (vas : List Nat) : Prop :=
  r ≠ .ok ∧ ∃ pre a post, l = pre ++ a :: post ∧ (∀ b ∈ pre, (f b).res = .ok) ∧ (f a).res = r ∧
    vas = pre.flatMap (fun b => (f b).vas) ++ (f a).vas

/-! ## Operands -/

/-- A source of w registers in lane L. -/
def State.src (s : State) (x : Ctx) (o : Operand) (w L : Nat) : Nat := s.val x (s.issuer x) o w L

/-- A 32-bit source as an integer. -/
def State.isrc (s : State) (x : Ctx) (o : Operand) (n32 : Bool) (L : Nat) : Int := s.ival x (s.issuer x) o n32 L

/-- An FP32 source. -/
def State.fsrc (s : State) (x : Ctx) (o : Operand) (L : Nat) : Fp := s.fval x (s.issuer x) o L

/-- A uniform source. -/
def State.usrc (s : State) (x : Ctx) (o : Operand) : Nat := s.val x (s.issuer x) o 1 0

/-! ## Results (R69, R112, R114) -/

/-- Every lane of Active() computes once; the uniform form computes once, in the lowest lane (R69, R153). -/
def computing (u : Bool) (act : LaneMask) : List Nat :=
  if u then (lanesOf act).take 1 else lanesOf act

/-- The registers from d that take the value v in the lanes of Active(), or the uniform registers that take it. -/
def regWrites (x : Ctx) (u : Bool) (d w : Nat) (v : Nat → Nat) : List AluDst :=
  (computing u x.act).flatMap (fun L => (List.range w).map (fun i =>
    if u then .unif x.sup (d + i) (regPart (v L) i) 0xFFFFFFFF#32 else .lane x.sup (d + i) L (regPart (v L) i) 0xFFFFFFFF#32))

/-- The flags of the lanes that compute, together. -/
def flagsOf (x : Ctx) (u : Bool) (fl : Nat → Word) : Word := (computing u x.act).foldl (fun a L => a ||| fl L) 0#32

/-- A fixed-ALU word's results are on their way: the writes, and the flags if it sets any (R112, R154). -/
def State.aluSent (s : State) (x : Ctx) (ws : List AluDst) (fl : Word) : State :=
  s.onCourse x.crs (fun c => { c with
    alu := c.alu ++ (ws ++ (if wordFlags x.sup fl = 0#32 then [] else [AluDst.flags (wordFlags x.sup fl)])).map (fun w => ⟨s.clock, w⟩) })

/-- A fixed-ALU word does this where ok holds: where no flag that it sets is enabled, its results go on their way and
the slot goes on; where one is, the slot waits at the next word for the ARITH trap that follows its results (R156). -/
def AluDoesIf (i : Instr) (h : Head) (ok : State → Ctx → Prop) (res : State → Ctx → List AluDst × Word) : Prop :=
  DoesIf i h (fun s x => ok s x ∧ (s.issuer x).trapsOn (wordFlags x.sup (res s x).2) = false)
    (fun s x => (s.aluSent x (res s x).1 (res s x).2).went x) ∧
  DoesIf i h (fun s x => ok s x ∧ (s.issuer x).trapsOn (wordFlags x.sup (res s x).2) = true)
    (fun s x => .next (((s.aluSent x (res s x).1 (res s x).2).account x).pauses x.crs x.j x.act
      (.arith (s.clock + 4) (arithTrap x.pc x.act (wordFlags x.sup (res s x).2)))))

/-- A fixed-ALU word does this whenever it passes its checks. -/
def AluDoes (i : Instr) (h : Head) (res : State → Ctx → List AluDst × Word) : Prop := AluDoesIf i h (fun _ _ => True) res

/-- A fixed-ALU word that delivers v in w registers from d, with flags. -/
def AluGives (i : Instr) (h : Head) (u : Bool) (d : BitVec 8) (w : Nat) (v : State → Ctx → Nat → Nat × Word) : Prop :=
  AluDoes i h (fun s x => (regWrites x u d.toNat w (fun L => (v s x L).1), flagsOf x u (fun L => (v s x L).2)))

/-- The same for a word that sets no flag. -/
def AluValue (i : Instr) (h : Head) (u : Bool) (d : BitVec 8) (w : Nat) (v : State → Ctx → Nat → Nat) : Prop :=
  AluGives i h u d w (fun s x L => (v s x L, 0#32))

/-- The values that land for a variable-latency word. -/
def lateValues (x : Ctx) (u : Bool) (d w : Nat) (v : Nat → Nat) : List Landing :=
  (computing u x.act).flatMap (fun L => (List.range w).map (fun i =>
    if u then .unif x.sup (d + i) (regPart (v L) i) else .lane x.sup (d + i) L (regPart (v L) i) false))

/-- The registers that it leaves empty until then. -/
def lateFills (x : Ctx) (u : Bool) (d w : Nat) : List (RegId × LaneMask) :=
  (List.range w).map (fun i => (⟨x.sup, !u, d + i⟩, if u then 0#32 else x.act))

/-! ## The shared units of a bay (R174, R205, R225) -/

/-- The bay of the course that issues. -/
def State.issuerBay (s : State) (x : Ctx) : Bay := (s.core (s.issuer x).core).bay (s.issuer x).bay

/-- The special-function pipeline can take a word. -/
def specialFree (s : State) (x : Ctx) : Prop := (s.issuerBay x).specialUntil ≤ s.clock
/-- The lane crossbar can take a word. -/
def crossbarFree (s : State) (x : Ctx) : Prop := (s.issuerBay x).crossbarUntil ≤ s.clock
/-- The distribution unit can take a word. -/
def distFree (s : State) (x : Ctx) : Prop := (s.issuerBay x).distUntil ≤ s.clock

/-- The unit can take a word. -/
def unitFree (unit : PendUnit) (s : State) (x : Ctx) : Prop :=
  match unit with
  | .special => specialFree s x
  | .crossbar => crossbarFree s x
  | .dist => distFree s x
  | _ => True

/-- A variable-latency word delivers v in w registers from d after its issue in the state that pre gives; it issues only
where free holds. With no active lane it waits for the unit alone and changes no register (R69, R114, R153, R205). -/
def LateDoes (i : Instr) (h : Head) (unit : PendUnit) (free : State → Ctx → Prop) (pre : State → Ctx → State) (u : Bool)
    (d : BitVec 8) (w : Nat) (may : State → Ctx → Word) (v : State → Ctx → Nat → Nat) (fl : State → Ctx → Word) : Prop :=
  DoesIf i h (fun s x => x.act = 0#32 ∧ unitFree unit s x) (fun s x => s.went x) ∧
  DoesIf i h (fun s x => x.act ≠ 0#32 ∧ free s x) (fun s x =>
    ((pre s x).addPend x unit (.values (lateValues x u d.toNat w (v s x))) (lateFills x u d.toNat w) (fl s x) (may s x)).went x)

/-- How many quarters of the course hold an active lane. -/
def quarters (act : LaneMask) : Nat :=
  ([0, 8, 16, 24].filter (fun q => (List.range 8).any (fun i => act.getLsbD (q + i)))).length

/-- A special-function word occupies its pipeline for k cycles per quarter with an active lane, k in the uniform form. -/
def occupySpecial (k : Nat) (u : Bool) (s : State) (x : Ctx) : State :=
  s.onBay (s.issuer x).core (s.issuer x).bay (fun b => { b with
    specialUntil := s.clock + (if u then k else k * quarters x.act) })

/-- A crossbar word occupies the crossbar for k cycles. -/
def occupyCrossbar (k : Nat) (s : State) (x : Ctx) : State :=
  s.onBay (s.issuer x).core (s.issuer x).bay (fun b => { b with crossbarUntil := s.clock + k })

/-- A distribution word occupies the unit for k cycles. -/
def occupyDist (k : Nat) (s : State) (x : Ctx) : State :=
  s.onBay (s.issuer x).core (s.issuer x).bay (fun b => { b with distUntil := s.clock + k })

/-- A special-function word: v with its flags, lane by lane. -/
def SpecialGives (i : Instr) (h : Head) (k : Nat) (u : Bool) (d : BitVec 8) (may : Word)
    (v : State → Ctx → Nat → Nat × Word) : Prop :=
  LateDoes i h .special specialFree (occupySpecial k u) u d 1 (fun _ _ => may) (fun s x L => (v s x L).1)
    (fun s x => flagsOf x u (fun L => (v s x L).2))

/-- A crossbar word: the values by lane, and the flags of the word. -/
def CrossbarGives (i : Instr) (h : Head) (k : Nat) (u : Bool) (d : BitVec 8) (w : Nat) (may : Word)
    (v : State → Ctx → Nat → Nat) (fl : State → Ctx → Word) : Prop :=
  LateDoes i h .crossbar crossbarFree (occupyCrossbar k) u d w (fun _ _ => may) v fl

/-- A distribution word that delivers to a lane register. -/
def DistGives (i : Instr) (h : Head) (k : Nat) (d : BitVec 8) (may : Word) (v : State → Ctx → Nat → Nat × Word) : Prop :=
  LateDoes i h .dist distFree (occupyDist k) false d 1 (fun _ _ => may) (fun s x L => (v s x L).1)
    (fun s x => flagsOf x false (fun L => (v s x L).2))

/-- A distribution word that delivers to a distribution register, with a fresh tag where tag says so (R228, R229). -/
def DistMakes (i : Instr) (h : Head) (k : State → Ctx → Nat) (d : BitVec 8) (tag : State → Ctx → Bool) (may : Word)
    (v : State → Ctx → Nat → DCell × Word) : Prop :=
  DoesIf i h (fun s x => x.act = 0#32 ∧ distFree s x) (fun s x => s.went x) ∧
  DoesIf i h (fun s x => x.act ≠ 0#32 ∧ distFree s x) (fun s x =>
    (((occupyDist (k s x) s x).addPend x .dist (.values ((lanesOf x.act).map (fun L => .dist d.toNat L (v s x L).1))) []
      (flagsOf x false (fun L => (v s x L).2)) may).onCourse x.crs (fun c =>
        (if tag s x then c.takeTag else c).markDist d.toNat x.act)).went x)

/-! ## Requests of the host (R473, R474) -/

/-- The port is up with its management queue pair open, no request is being performed, and m is a request of an OP whose
head is well formed. -/
def State.takesRequest (s : State) (m : HostMsg) (op : Nat) : Prop :=
  s.up = true ∧ s.mgmtOpen = true ∧ s.busy = none ∧ s.bootFailed = false ∧ m.op = op ∧ m.rsv = 0 ∧ m.status = 0 ∧ m.ctx ≤ 255 ∧
    m.body.length ≤ 65536

/-- The same, and the life-cycle state lets the request be performed (R467). -/
def State.canServe (s : State) (m : HostMsg) (op : Nat) : Prop :=
  s.takesRequest m op ∧ LifeCycle.serves s.lifeCycle op = true

/-! ## Whose turn it is -/

/-- The next step of s is the turn of slot j of course crs, in u: nothing is due, and either the agenda names the slot's
bay or, with an empty agenda, the bay of the first course picks the slot (R106, R109). -/
def State.nextSlot (s u : State) (crs j : Nat) : Prop :=
  s.due = none ∧
    ((∃ core bay rest, s.agenda = .bay core bay :: rest ∧ u = { s with agenda := rest } ∧ u.pick core bay = some (crs, j)) ∨
     (s.agenda = [] ∧ u = s ∧ ∃ h c t, s.courses = (h, c) :: t ∧ s.pick c.core c.bay = some (crs, j)))

/-! ## What a word leaves unchanged -/

/-- A lane or uniform register of a file is no destination of the word, which issues in supervisor mode where inSup. -/
def notDest (i : Instr) (inSup sup lane : Bool) (n : Nat) : Prop :=
  sup = inSup → ∀ f ∈ i.fields, ∀ r ∈ f.writes sup, r ≠ ⟨sup, lane, n⟩

/-- Course crs of t has the registers that it has in s, but for the destinations of the word i. -/
def sameRegs (s t : State) (crs : Nat) (i : Instr) : Prop :=
  let inSup := (s.course crs).sup.isSome
  (∀ sup n L, L < 32 → notDest i inSup sup true n → (t.course crs).laneCell sup n L = (s.course crs).laneCell sup n L) ∧
  (∀ sup n, notDest i inSup sup false n → (t.course crs).unifCell sup n = (s.course crs).unifCell sup n) ∧
  (∀ n L, L < 32 → (∀ f ∈ i.fields, f ≠ .distD n) →
    Tab.get {} (t.course crs).d (cellKey n L) = Tab.get {} (s.course crs).d (cellKey n L))

/-- Course crs of t has the flags, mask registers and special registers that it has in s. -/
def sameSpecials (s t : State) (crs : Nat) : Prop :=
  (t.course crs).flg = (s.course crs).flg ∧ (t.course crs).ctl = (s.course crs).ctl ∧ (t.course crs).m = (s.course crs).m ∧
  (t.course crs).fm = (s.course crs).fm ∧ (t.course crs).live = (s.course crs).live ∧
  (t.course crs).blocks = (s.course crs).blocks

/-- Main memory, its poison and every other course are as they were. -/
def sameElsewhere (s t : State) (crs : Nat) : Prop :=
  (∀ a, t.memRead a 1 = s.memRead a 1) ∧ t.poison = s.poison ∧ ∀ h, h ≠ crs → t.course h = s.course h

end Sys2Proof.Machine
end

