-- ==== Sys2Proof/Certificates/Slice0/Obligations.lean ====
section
/-! DEFINITION. The statements about the package, for the provers: each formalises rules of the spec. -/

open Sys2Proof Sys2Proof.Machine

/-! ## Integer words -/

/-- R161–R164, R169, R170: the arithmetic words, lane by lane and in the uniform form. An exact result wraps to 32 bits,
or under .sat is clamped with SAT. -/
def Obligations.IntegerArithmetic : Prop :=
  (∀ r n32 sat, AluGives (.iadd r n32 sat) r.head r.u r.d 1 (fun s x L =>
    satInt sat n32 (s.isrc x r.a n32 L + s.isrc x r.b n32 L))) ∧
  (∀ r n32 sat, AluGives (.isub r n32 sat) r.head r.u r.d 1 (fun s x L =>
    satInt sat n32 (s.isrc x r.a n32 L - s.isrc x r.b n32 L))) ∧
  (∀ r n32 part, AluValue (.imul r n32 part) r.head r.u r.d (if part = .wide then 2 else 1) (fun s x L =>
    let p := intBits (s.isrc x r.a n32 L * s.isrc x r.b n32 L) 64
    if part = .hi then p / 2 ^ 32 else p)) ∧
  (∀ r n32 wide, AluValue (.imad r n32 wide) r.head r.u r.d (if wide then 2 else 1) (fun s x L =>
    intBits (s.isrc x r.a n32 L * s.isrc x r.b n32 L + s.src x r.c (if wide then 2 else 1) L)
      (32 * (if wide then 2 else 1)))) ∧
  (∀ r n32, AluValue (.imin r n32) r.head r.u r.d 1 (fun s x L =>
    intBits (min (s.isrc x r.a n32 L) (s.isrc x r.b n32 L)) 32)) ∧
  (∀ r n32, AluValue (.imax r n32) r.head r.u r.d 1 (fun s x L =>
    intBits (max (s.isrc x r.a n32 L) (s.isrc x r.b n32 L)) 32)) ∧
  (∀ r sat, AluGives (.iabs r sat) r.head r.u r.d 1 (fun s x L =>
    if s.isrc x r.a false L = -(2 ^ 31) then (if sat then (0x7FFFFFFF, flSAT) else (0x80000000, flIOV))
    else ((s.isrc x r.a false L).natAbs, 0#32))) ∧
  (∀ r n32, SpecialGives (.idiv r n32) r.head 1 r.u r.d (if n32 then flIDZ else flIDZ ||| flIOV) (fun s x L =>
    let a := s.isrc x r.a n32 L
    let b := s.isrc x r.b n32 L
    if b = 0 then (0xFFFFFFFF, flIDZ)
    else if n32 = false ∧ a = -(2 ^ 31) ∧ b = -1 then (0x80000000, flIOV)
    else (intBits (Int.tdiv a b) 32, 0#32))) ∧
  (∀ r n32, SpecialGives (.irem r n32) r.head 1 r.u r.d (if n32 then flIDZ else flIDZ ||| flIOV) (fun s x L =>
    let a := s.isrc x r.a n32 L
    let b := s.isrc x r.b n32 L
    if b = 0 then (intBits a 32, flIDZ)
    else if n32 = false ∧ a = -(2 ^ 31) ∧ b = -1 then (0, flIOV)
    else (intBits (Int.tmod a b) 32, 0#32))) ∧
  (∀ w wide, AluValue (.iaddi w wide) w.head w.u w.d (if wide then 2 else 1) (fun s x L =>
    intBits (s.src x ⟨if w.u then .unif else .lane, w.a⟩ (if wide then 2 else 1) L + signExt w.imm.toNat 24)
      (32 * (if wide then 2 else 1)))) ∧
  (∀ r sub ext, AluValue (.iadd64 r sub ext) r.head r.u r.d 2 (fun s x L =>
    let b : Int := match ext with
      | .pair => s.src x r.b 2 L
      | .zx => s.src x r.b 1 L
      | .sx => signExt (s.src x r.b 1 L) 32
    intBits (if sub then s.src x r.a 2 L - b else s.src x r.a 2 L + b) 64)) ∧
  (∀ r sx, AluValue (.lea r sx) r.head r.u r.d 2 (fun s x L =>
    let i : Int := if sx then signExt (s.src x r.b 1 L) 32 else s.src x r.b 1 L
    intBits (s.src x r.a 2 L + i * (2 ^ r.c.field.toNat : Nat)) 64))

/-- R166–R169: logic, shifts, bit fields, compares, selection and moves. -/
def Obligations.IntegerBits : Prop :=
  (∀ r inv, AluValue (.andOp r inv) r.head r.u r.d 1 (fun s x L => s.src x r.a 1 L &&& invIf inv (s.src x r.b 1 L))) ∧
  (∀ r inv, AluValue (.orOp r inv) r.head r.u r.d 1 (fun s x L => s.src x r.a 1 L ||| invIf inv (s.src x r.b 1 L))) ∧
  (∀ r inv, AluValue (.xorOp r inv) r.head r.u r.d 1 (fun s x L => s.src x r.a 1 L ^^^ invIf inv (s.src x r.b 1 L))) ∧
  (∀ r wrap, AluValue (.shl r wrap) r.head r.u r.d 1 (fun s x L =>
    s.src x r.a 1 L * 2 ^ shiftAmount wrap (s.src x r.b 1 L))) ∧
  (∀ r wrap, AluValue (.shr r wrap) r.head r.u r.d 1 (fun s x L =>
    s.src x r.a 1 L / 2 ^ shiftAmount wrap (s.src x r.b 1 L))) ∧
  (∀ r wrap, AluValue (.sar r wrap) r.head r.u r.d 1 (fun s x L =>
    intBits (signExt (s.src x r.a 1 L) 32 / (2 ^ shiftAmount wrap (s.src x r.b 1 L) : Nat)) 32)) ∧
  (∀ r right, AluValue (.rot r right) r.head r.u r.d 1 (fun s x L =>
    let n := s.src x r.b 1 L % 32
    rotl (s.src x r.a 1 L) (if right then 32 - n else n))) ∧
  (∀ r, AluValue (.popc r) r.head r.u r.d 1 (fun s x L =>
    ((List.range 32).filter (fun i => (s.src x r.a 1 L).testBit i)).length)) ∧
  (∀ r, AluValue (.clz r) r.head r.u r.d 1 (fun s x L => clzVal (s.src x r.a 1 L))) ∧
  (∀ r, AluValue (.brev r) r.head r.u r.d 1 (fun s x L => brevVal (s.src x r.a 1 L))) ∧
  (∀ r sx, AluValue (.bfe r sx) r.head r.u r.d 1 (fun s x L =>
    bfeVal sx (s.src x r.a 1 L) (s.src x r.b 1 L) (s.src x r.c 1 L))) ∧
  (∀ r, AluValue (.bfi r) r.head r.u r.d 1 (fun s x L => bfiVal (s.src x r.a 1 L) (s.src x r.b 1 L) (s.src x r.c 1 L))) ∧
  (∀ r cc n32, AluDoes (.icmp r cc n32) r.head (fun s x =>
    let hit := fun L => icmpVal cc (s.isrc x r.a n32 L) (s.isrc x r.b n32 L)
    (if r.u then regWrites x true r.d.toNat 1 (fun L => if hit L then 1 else 0)
     else [.mask r.d.toNat (maskOfLanes ((lanesOf x.act).filter hit)) x.act], 0#32))) ∧
  (∀ r, AluValue (.sel r) r.head r.u r.d 1 (fun s x L =>
    let pick := if r.u then s.usrc x r.c != 0 else (s.maskVal (s.issuer x) r.c.field.toNat).getLsbD L
    if pick then s.src x r.a 1 L else s.src x r.b 1 L)) ∧
  (∀ r, AluValue (.mov r) r.head r.u r.d 1 (fun s x L => s.src x r.a 1 L)) ∧
  (∀ k ext, AluValue (.movi k ext) k.head k.u k.d (if ext = .w32 then 1 else 2) (fun _ _ _ =>
    if ext = .s64 then intBits (signExt k.imm.toNat 32) 64 else k.imm.toNat))

/-- R143, R171: the mask words write the bits of Active() of a mask register; MLOP.act writes all its bits. -/
def Obligations.MaskWords : Prop :=
  let two := fun (i : Instr) (r : RWord) (f : Word → Word → Word) => AluDoes i r.head (fun s x =>
    ([.mask r.d.toNat (f (s.maskVal (s.issuer x) r.a.field.toNat) (s.maskVal (s.issuer x) r.b.field.toNat)) x.act], 0#32))
  (∀ r, two (.mlopAnd r) r (fun a b => a &&& b)) ∧
  (∀ r, two (.mlopOr r) r (fun a b => a ||| b)) ∧
  (∀ r, two (.mlopXor r) r (fun a b => a ^^^ b)) ∧
  (∀ r, two (.mlopAndn r) r (fun a b => a &&& ~~~b)) ∧
  (∀ r, two (.mlopOrn r) r (fun a b => a ||| ~~~b)) ∧
  (∀ r, two (.mlopNot r) r (fun a _ => ~~~a)) ∧
  (∀ r, two (.mlopMov r) r (fun a _ => a)) ∧
  (∀ r, AluDoes (.mlopFroms r) r.head (fun s x => ([.mask r.d.toNat (wd (s.usrc x r.a)) x.act], 0#32))) ∧
  (∀ r, AluValue (.mlopTos r) r.head true r.d 1 (fun s x _ => (s.maskVal (s.issuer x) r.a.field.toNat).toNat)) ∧
  (∀ r, AluDoes (.mlopAct r) r.head (fun _ x =>
    (if x.act = 0#32 then [] else [.mask r.d.toNat x.act 0xFFFFFFFF#32], 0#32)))

/-- R158, R159: SRD delivers a course register and the SWR words change one, once no earlier word of the course can
still set FLG; with no active lane they do nothing. -/
def Obligations.CourseRegisters : Prop :=
  let ready := fun (n : Nat) (s : State) (x : Ctx) => n = 0 → s.flgBusy x.crs (s.issuer x) = false
  let write := fun (i : Instr) (r : RWord) (f : Word → Word → Word) =>
    DoesIf i r.head (fun _ x => x.act = 0#32) (fun s x => s.went x) ∧
    DoesIf i r.head (fun s x => x.act ≠ 0#32 ∧ ready r.d.toNat s x) (fun s x =>
      (s.setCourse x.crs ((s.issuer x).setReg r.d.toNat
        (f (s.courseReg (s.issuer x) r.d.toNat) (wd (s.usrc x r.a))))).went x)
  (∀ r, LateDoes (.srd r) r.head .other (fun s x => ready r.a.field.toNat s x) (fun s _ => s) true r.d 1 (fun _ _ => 0#32)
    (fun s x _ => (s.courseReg (s.issuer x) r.a.field.toNat).toNat) (fun _ _ => 0#32)) ∧
  (∀ r, write (.swr r) r (fun _ v => v)) ∧
  (∀ r, write (.swrSet r) r (fun o v => o ||| v)) ∧
  (∀ r, write (.swrClr r) r (fun o v => o &&& ~~~v)) ∧
  (∀ (c : Course) v, (c.setReg 0 v).flg = v &&& 0x1FF#32 ∧ (c.setReg 1 v).ctl = v &&& 0x101FF#32)

/-! ## Vector words -/

/-- R193–R196, R198, R199: the FP32 words, the conversions between formats that are valid, and their flags. An exact
result is rounded once in the word's mode. -/
def Obligations.VectorArithmetic : Prop :=
  let out := fun (x : Ctx) (mode : Rnd) (sat : Bool) (rand : Nat) (p : Fp × Word) =>
    let y := (fmtF32 x.ftz).round mode sat rand p.1
    (y.1, p.2 ||| y.2)
  let rand := fun (s : State) (x : Ctx) (o : Operand) (L : Nat) => s.src x o 1 L % 2 ^ 16
  (∀ r rnd sat, AluGives (.fadd r rnd sat) r.head r.u r.d 1 (fun s x L =>
    out x rnd sat (rand s x r.c L) ((s.fsrc x r.a L).add (decide (rnd = .rd)) (s.fsrc x r.b L)))) ∧
  (∀ r rnd sat, AluGives (.fsub r rnd sat) r.head r.u r.d 1 (fun s x L =>
    out x rnd sat (rand s x r.c L) ((s.fsrc x r.a L).add (decide (rnd = .rd)) (s.fsrc x r.b L).flip))) ∧
  (∀ r rnd sat, AluGives (.fmul r rnd sat) r.head r.u r.d 1 (fun s x L =>
    out x rnd sat (rand s x r.c L) ((s.fsrc x r.a L).mul (s.fsrc x r.b L)))) ∧
  (∀ r rnd sat, AluGives (.ffma r rnd sat) r.head r.u r.d 1 (fun s x L =>
    out x rnd.toRnd sat 0
      (Fp.fma (decide (rnd = .rd)) (s.fsrc x r.a L) (s.fsrc x r.b L) (s.fsrc x r.c L)))) ∧
  (∀ r nan, AluDoes (.fmin r nan) r.head (fun s x =>
    (regWrites x r.u r.d.toNat 1 (fun L => (match minMaxPick false nan (s.fsrc x r.a L) (s.fsrc x r.b L) with
      | none => 0x7FC00000#32
      | some a => flush32 x.ftz (s.fbits x (s.issuer x) (if a then r.a else r.b) L)).toNat),
     flagsOf x r.u (fun L => snanFlag [s.fsrc x r.a L, s.fsrc x r.b L])))) ∧
  (∀ r nan, AluDoes (.fmax r nan) r.head (fun s x =>
    (regWrites x r.u r.d.toNat 1 (fun L => (match minMaxPick true nan (s.fsrc x r.a L) (s.fsrc x r.b L) with
      | none => 0x7FC00000#32
      | some a => flush32 x.ftz (s.fbits x (s.issuer x) (if a then r.a else r.b) L)).toNat),
     flagsOf x r.u (fun L => snanFlag [s.fsrc x r.a L, s.fsrc x r.b L])))) ∧
  (∀ r cc, AluDoes (.fcmp r cc) r.head (fun s x =>
    let hit := fun L => fcmpVal cc (s.fsrc x r.a L) (s.fsrc x r.b L)
    (if r.u then regWrites x true r.d.toNat 1 (fun L => if (hit L).1 then 1 else 0)
     else [.mask r.d.toNat (maskOfLanes ((lanesOf x.act).filter (fun L => (hit L).1))) x.act],
     flagsOf x r.u (fun L => (hit L).2)))) ∧
  (∀ r, AluValue (.fcls r) r.head r.u r.d 1 (fun s x L => fclsVal (s.fbits x (s.issuer x) r.a L))) ∧
  (∀ r rnd sat, AluDoesIf (.cvt r rnd sat) r.head
    (fun s x => ∀ n ∈ [r.c.field.toNat / 16, r.c.field.toNat % 16], 8 ≤ n → fmtValid ((s.issuer x).fmReg (n - 8)) = true)
    (fun s x =>
      let f := fun L =>
        let v := if r.a.kind = .imm then Fp.ofInt r.a.immVal
          else cvtSource (s.issuer x) x.ftz (r.c.field.toNat / 16) (s.src x r.a (cvtRegs (r.c.field.toNat / 16)) L)
        let y := cvtRound (s.issuer x) x.ftz (r.c.field.toNat % 16) rnd sat (rand s x r.b L) v
        (y.1, y.2 ||| snanFlag [v])
      (regWrites x r.u r.d.toNat (cvtRegs (r.c.field.toNat % 16)) (fun L => (f L).1),
        flagsOf x r.u (fun L => (f L).2)))) ∧
  (∀ r rnd, AluGives (.frnd r rnd) r.head r.u r.d 1 (fun s x L => frndVal x.ftz rnd (rand s x r.b L) (s.fsrc x r.a L))) ∧
  (∀ r rnd sat, AluGives (.fscl r rnd sat) r.head r.u r.d 1 (fun s x L =>
    fsclVal x.ftz rnd.toRnd sat (s.fsrc x r.a L) (signExt (s.src x r.b 1 L) 32)))

/-- R197: a packed word computes its enabled 16-bit elements and writes no other bit of the destination. -/
def Obligations.PackedArithmetic : Prop :=
  let word := fun (i : Instr) (r : RWord) (part : PackPart) (f : State → Ctx → Nat → Nat → Nat × Word) =>
    AluDoes i r.head (fun s x =>
      let es := (if part = .hi then [] else [0]) ++ (if part = .lo then [] else [1])
      let bits := match part with
        | .both => 0xFFFFFFFF#32
        | .lo => 0x0000FFFF#32
        | .hi => 0xFFFF0000#32
      let v := fun L => wd (es.foldl (fun a k => a + (f s x k L).1 % 2 ^ 16 * 2 ^ (16 * k)) 0)
      ((computing r.u x.act).map (fun L =>
        if r.u then .unif x.sup r.d.toNat (v L) bits else .lane x.sup r.d.toNat L (v L) bits),
       (computing r.u x.act).foldl (fun a L => es.foldl (fun b k => b ||| (f s x k L).2) a) 0#32))
  let src := fun (s : State) (x : Ctx) (bf16 : Bool) (o : Operand) (k L : Nat) => s.pval x (s.issuer x) o (packFmt bf16) k L
  let rand := fun (s : State) (x : Ctx) (o : Operand) (k L : Nat) => s.src x o 1 L / 2 ^ (16 * k) % 2 ^ 16
  let out := fun (bf16 : Bool) (mode : Rnd) (sat : Bool) (rand : Nat) (p : Fp × Word) =>
    let y := (packFmt bf16).round mode sat rand p.1
    (y.1, p.2 ||| y.2)
  (∀ r rnd sat bf16 part, word (.hadd2 r rnd sat bf16 part) r part (fun s x k L =>
    out bf16 rnd sat (rand s x r.c k L) ((src s x bf16 r.a k L).add (decide (rnd = .rd)) (src s x bf16 r.b k L)))) ∧
  (∀ r rnd sat bf16 part, word (.hmul2 r rnd sat bf16 part) r part (fun s x k L =>
    out bf16 rnd sat (rand s x r.c k L) ((src s x bf16 r.a k L).mul (src s x bf16 r.b k L)))) ∧
  (∀ r rnd sat bf16 part, word (.hfma2 r rnd sat bf16 part) r part (fun s x k L =>
    out bf16 rnd.toRnd sat 0
      (Fp.fma (decide (rnd = .rd)) (src s x bf16 r.a k L) (src s x bf16 r.b k L) (src s x bf16 r.c k L)))) ∧
  (∀ r max nan bf16 part, word (.hmnx2 r max nan bf16 part) r part (fun s x k L =>
    (match minMaxPick max nan (src s x bf16 r.a k L) (src s x bf16 r.b k L) with
      | none => (packFmt bf16).nanCode
      | some a => s.pbits x (s.issuer x) (if a then r.a else r.b) (packFmt bf16) k L,
     snanFlag [src s x bf16 r.a k L, src s x bf16 r.b k L])))

/-- R174, R200–R203: the words of the special-function pipeline; FDIV and FSQRT take two cycles for each quarter. -/
def Obligations.SpecialFunctions : Prop :=
  let nv := flNV ||| flDZ ||| flOF ||| flUF ||| flNX
  let fn := fun (i : Instr) (r : RWord) (may : Word) (f : Bool → Nat → Fp → Word × Word) =>
    SpecialGives i r.head 1 r.u r.d may (fun s x L =>
      let y := f x.ftz (s.fbits x (s.issuer x) r.a L).toNat (s.fsrc x r.a L)
      (y.1.toNat, y.2))
  (∀ r rnd, SpecialGives (.fdiv r rnd) r.head 2 r.u r.d nv (fun s x L =>
    finish32 x.ftz rnd.toRnd false 0 ((s.fsrc x r.a L).div (s.fsrc x r.b L)))) ∧
  (∀ r rnd, SpecialGives (.fsqrt r rnd) r.head 2 r.u r.d (flNV ||| flNX) (fun s x L =>
    finish32 x.ftz rnd.toRnd false 0 (s.fsrc x r.a L).sqrt)) ∧
  (∀ r, fn (.rcp r) r nv rcpFn) ∧
  (∀ r, fn (.rsq r) r (flNV ||| flDZ ||| flNX) rsqFn) ∧
  (∀ r, fn (.ex2 r) r (flNV ||| flOF ||| flUF ||| flNX) ex2Fn) ∧
  (∀ r, fn (.lg2 r) r (flNV ||| flDZ ||| flNX) lg2Fn) ∧
  (∀ r, fn (.sin r) r (flNV ||| flUF ||| flNX) (sinCosFn false)) ∧
  (∀ r, fn (.cos r) r (flNV ||| flNX) (sinCosFn true)) ∧
  (∀ r, fn (.tanh r) r (flNV ||| flUF ||| flNX) tanhFn)

/-! ## The lane crossbar and the quantiser -/

/-- R206–R213: SHFL, VOTE, REDUX and SCAN. SHFL reads the lane that its mode names; where that lane's register is empty it
waits, or traps under its E bit, before it looks at poison; REDUX and SCAN combine the active lanes of each segment. -/
def Obligations.CrossLane : Prop :=
  let regs := fun (s : State) (x : Ctx) (r : RWord) => s.laneAll x (s.issuer x) r.a.field.toNat
  let upTo := fun (s : State) (x : Ctx) (r : RWord) (excl : Bool) (seg : Seg) (L : Nat) =>
    let S := s.segSize (s.issuer x) seg
    (segValues (regs s x r) x.act S (segBase S L)).take (L - segBase S L + (if excl then 0 else 1))
  let from_ := fun (r : RWord) (mode : ShflMode) (seg : Seg) (s : State) (x : Ctx) (L : Nat) =>
    shflLane mode (Seg.size seg) (s.lrOf (s.issuer x)).width16 (s.src x r.b 1 L) L
  (∀ r mode seg, DoesIf (.shfl r mode seg) r.head (fun s x => x.act = 0#32 ∧ crossbarFree s x) (fun s x => s.went x)) ∧
  (∀ r mode seg, DoesIf (.shfl r mode seg) r.head
    (fun s x => ∃ L, L < 32 ∧ x.act.getLsbD L = true ∧
      ((s.issuer x).laneCell x.sup r.a.field.toNat (from_ r mode seg s x L)).empty = true)
    (fun s x => if r.head.e then s.trapped x (x.trap 0x09) else s.blocked x true)) ∧
  (∀ r mode seg, DoesIf (.shfl r mode seg) r.head
    (fun s x => x.act ≠ 0#32 ∧ crossbarFree s x ∧ s.fieldPoison (s.issuer x) x r.b.reg1Imm = none ∧
      ∀ L, x.act.getLsbD L = true →
        ((s.issuer x).laneCell x.sup r.a.field.toNat (from_ r mode seg s x L)).empty = false ∧
        s.lanePoison (s.issuer x) x.sup r.a.field.toNat (from_ r mode seg s x L) = false)
    (fun s x => ((occupyCrossbar 1 s x).addPend x .crossbar (.values (lateValues x false r.d.toNat 1 (fun L =>
        (s.laneVal (s.issuer x) x.sup r.a.field.toNat (from_ r mode seg s x L)).toNat)))
      (lateFills x false r.d.toNat 1) 0#32 0#32).went x)) ∧
  (∀ r mode, CrossbarGives (.vote r mode) r.head 1 true r.d 1 0#32 (fun s x _ =>
    let m := s.maskVal (s.issuer x) r.a.field.toNat &&& x.act
    match mode with
    | .mask => m.toNat
    | .count => popCount m
    | .first => lowestLane m
    | .some => if m = 0#32 then 0 else 1
    | .every => if m = x.act then 1 else 0
    | .same => if (lanesOf x.act).all (fun L => s.laneVal (s.issuer x) x.sup r.a.field.toNat L ==
        s.laneVal (s.issuer x) x.sup r.a.field.toNat (lowestLane x.act)) then 1 else 0) (fun _ _ => 0#32)) ∧
  (∀ r op idx seg, CrossbarGives (.redux r op idx seg) r.head 1 r.u r.d (if idx then 2 else 1) (RedOp.may op)
    (fun s x L =>
      let S := s.segSize (s.issuer x) seg
      let y := (RedOp.reduce x.ftz op S (segValues (regs s x r) x.act S (segBase S L))).1
      let mine := (segLanes S (segBase S L)).filter (fun l => x.act.getLsbD l)
      let at_ := if RedOp.isFp op && isNan32 y then mine.headD 0
        else (mine.find? (fun l => RedOp.source x.ftz op ((regs s x r).getD l 0#32) == y)).getD 0
      y.toNat + at_ * 2 ^ 32)
    (fun s x =>
      let S := s.segSize (s.issuer x) seg
      (segBases S x.act).foldl (fun a b => a ||| (RedOp.reduce x.ftz op S (segValues (regs s x r) x.act S b)).2) 0#32)) ∧
  (∀ r op excl seg, CrossbarGives (.scan r op excl seg) r.head 1 false r.d 1 (RedOp.may op)
    (fun s x L => (RedOp.scanAt x.ftz op (upTo s x r excl seg L)).1.toNat)
    (fun s x => (lanesOf x.act).foldl (fun a L => a ||| (RedOp.scanAt x.ftz op (upTo s x r excl seg L)).2)
      (RedOp.sourceFlags op ((lanesOf x.act).map (fun L => (regs s x r).getD L 0#32)))))

/-- R217–R222: HDM, the quantiser and the packing words, with every format register valid. -/
def Obligations.Quantiser : Prop :=
  let fmt := fun (fm : BitVec 3) (s : State) (x : Ctx) => fmtOfReg ((s.issuer x).fmReg fm.toNat)
  let reg := fun (s : State) (x : Ctx) (r : RWord) (L : Nat) => s.laneVal (s.issuer x) x.sup r.a.field.toNat L
  let valid := fun (i : Instr) (r : RWord) (fm : BitVec 3) (k : Nat) (u : Bool) (may : State → Ctx → Word)
      (v : State → Ctx → Nat → Nat × Word) =>
    LateDoes i r.head .crossbar (fun s x => crossbarFree s x ∧ fmtValid ((s.issuer x).fmReg fm.toNat) = true)
      (occupyCrossbar k) u r.d 1 may (fun s x L => (v s x L).1) (fun s x => flagsOf x u (fun L => (v s x L).2))
  let hdm := fun (s : State) (x : Ctx) (r : RWord) (scale : HdmScale) (S L : Nat) =>
    (hdmVals x.ftz scale S ((List.range S).map (fun p =>
      if x.act.getLsbD (segBase S L + p) then flush32 x.ftz (reg s x r (segBase S L + p)) else 0#32))).getD (L % S) (0#32, 0#32)
  (∀ r seg scale, CrossbarGives (.hdm r seg scale) r.head 2 false r.d 1 (flNV ||| flOF ||| flUF ||| flNX)
    (fun s x L => (hdm s x r scale (s.segSize (s.issuer x) seg) L).1.toNat)
    (fun s x => (lanesOf x.act).foldl (fun a L => a ||| (hdm s x r scale (s.segSize (s.issuer x) seg) L).2) 0#32)) ∧
  (∀ r ty seg, r.u = false → CrossbarGives (.qmax r ty seg) r.head 1 false r.d 1 (if ty = .i32 then 0#32 else flNV)
    (fun s x L =>
      let S := s.segSize (s.issuer x) seg
      (qmaxVal ty x.ftz (((List.range S).filter (fun p => x.act.getLsbD (segBase S L + p))).map (fun p =>
        reg s x r (segBase S L + p)))).1.toNat)
    (fun s x =>
      let S := s.segSize (s.issuer x) seg
      (segBases S x.act).foldl (fun a b => a |||
        (qmaxVal ty x.ftz (((List.range S).filter (fun p => x.act.getLsbD (b + p))).map (fun p => reg s x r (b + p)))).2) 0#32)) ∧
  (∀ r out fm, valid (.qscale r out fm) r fm 1 r.u (fun s x => qscaleMay out (fmt fm s x).maxMag) (fun s x L =>
    qscaleVal x.ftz out (fmt fm s x).maxMag (s.fsrc x r.a L))) ∧
  (∀ r rnd sat fm, valid (.qnt r rnd sat fm) r fm 2 false (fun s x => qntMay sat (fmt fm s x)) (fun s x L =>
    let q := (s.fsrc x r.a L).div (s.fsrc x r.b L)
    let y := (fmt fm s x).round rnd sat (s.src x r.c 1 L % 2 ^ 16) q.1
    (y.1, q.2 ||| y.2))) ∧
  (∀ r rnd fm, valid (.deq r rnd fm) r fm 1 false (fun s x => deqMay (fmt fm s x)) (fun s x L =>
    finish32 x.ftz rnd.toRnd false 0 (((fmt fm s x).value (s.src x r.a 1 L)).mul (s.fsrc x r.b L)))) ∧
  (∀ r w, CrossbarGives (.pack r w) r.head 1 false r.d 1 0#32 (fun s x L =>
    let k := PackWidth.bits w
    let g := 32 / k
    (List.range g).foldl (fun y i =>
      if x.act.getLsbD (segBase g L + i) then y + (reg s x r (segBase g L + i)).toNat % 2 ^ k * 2 ^ (k * i) else y) 0)
    (fun _ _ => 0#32)) ∧
  (∀ r w sx, CrossbarGives (.unpack r w sx) r.head 1 false r.d 1 0#32 (fun s x L =>
    let k := PackWidth.bits w
    let e := (reg s x r L).toNat / 2 ^ (k * (L % (32 / k))) % 2 ^ k
    if sx then intBits (signExt e k) 32 else e)
    (fun _ _ => 0#32))

/-! ## Distributions -/

/-- R225–R229, R234, R235, R238–R242, R246: the words that deliver a distribution value: its points, weights, tag and
marks in every active lane. A fresh tag is the course's counter. -/
def Obligations.DistributionValues : Prop :=
  let get := fun (s : State) (x : Ctx) (o : Operand) (L : Nat) => (s.issuer x).dsource x.ftz o.field.toNat L
  let raw := fun (s : State) (x : Ctx) (o : Operand) (L : Nat) => (s.issuer x).distVal o.field.toNat L
  let fresh := fun (s : State) (x : Ctx) => (s.issuer x).tagCtr
  let apart := fun (r : RWord) (s : State) (x : Ctx) => (lanesOf x.act).any (fun L => (get s x r.a L).tag != (get s x r.b L).tag)
  let binary := fun (i : Instr) (r : RWord) (may : Word) (f : Ctx → Word → Word → Word × Word) =>
    DistMakes i r.head (fun s x => if apart r s x then 32 else 4) r.d (apart r) may (fun s x L =>
      combineDist x.ftz (f x) (fresh s x) (get s x r.a L) (get s x r.b L))
  let point := fun (i : Instr) (r : RWord) (may : Word) (f : State → Ctx → Nat → Word → Word × Word) =>
    DistMakes i r.head (fun _ _ => 4) r.d (fun _ _ => false) may (fun s x L =>
      ({ get s x r.a L with x := (get s x r.a L).x.map (fun w => (f s x L w).1) },
       (get s x r.a L).x.foldl (fun a w => a ||| (f s x L w).2) 0#32))
  let arith := flNV ||| flOF ||| flUF ||| flNX ||| flDNR
  let sigNan := fun (ps : List Point) => if ps.any (fun p => p.2.2 != 0 && isSnan32 p.2.1) then flNV else 0#32
  (∀ r eq, DistMakes (.dmk r eq) r.head (fun _ _ => 4) r.d (fun _ _ => true) (if eq then flNV else flDNR ||| flNV) (fun s x L =>
    let xs := (List.range 8).map (fun i => flush32 x.ftz (s.laneVal (s.issuer x) x.sup (r.a.field.toNat + i) L))
    let us := (List.range 8).map (fun i =>
      s.src x { r.b with field := r.b.field + BitVec.ofNat 8 (i / 2) } 1 L / 2 ^ (16 * (i % 2)) % 2 ^ 16)
    let w := if eq then (List.replicate 8 4096, false) else dmkWeights us
    ({ x := xs, w := w.1, tag := fresh s x, mis := w.2 }, flIf w.2 flDNR ||| flIf (xs.any isSnan32) flNV))) ∧
  (∀ r, DistMakes (.dset r) r.head (fun _ _ => 4) r.d (fun _ _ => false) flNV (fun s x L =>
    let v := s.dscalar x (s.issuer x) r.b L
    ({ raw s x r.a L with x := setAt (raw s x r.a L).x (s.src x r.c 1 L % 8) (if isNan32 v then 0x7FC00000#32 else v) },
      flIf (isSnan32 v) flNV))) ∧
  (∀ r, binary (.dadd r) r arith (fun x p q => rne32 x.ftz ((f32 x.ftz p).add false (f32 x.ftz q)))) ∧
  (∀ r, binary (.dsub r) r arith (fun x p q => rne32 x.ftz ((f32 x.ftz p).add false (f32 x.ftz q).flip))) ∧
  (∀ r, binary (.dmul r) r arith (fun x p q => rne32 x.ftz ((f32 x.ftz p).mul (f32 x.ftz q)))) ∧
  (∀ r, binary (.dmin r) r (flNV ||| flDNR) (fun _ => minMaxNan false)) ∧
  (∀ r, binary (.dmax r) r (flNV ||| flDNR) (fun _ => minMaxNan true)) ∧
  (∀ r fn, point (.dmap r fn) r (dmapMay fn) (fun _ x _ w => dmapVal fn x.ftz w)) ∧
  (∀ r, point (.daff r) r (flNV ||| flOF ||| flUF ||| flNX) (fun s x L w =>
    rne32 x.ftz (Fp.fma false (f32 x.ftz w) (f32 x.ftz (s.dscalar x (s.issuer x) r.b L))
      (f32 x.ftz (s.dscalar x (s.issuer x) r.c L))))) ∧
  (∀ r, DistMakes (.dmix r) r.head (fun _ _ => 16) r.d (fun _ _ => true) (flNV ||| flSAT) (fun s x L =>
    let P := min (s.src x r.c 1 L) 32768
    let ps := (List.range 16).map (fun k =>
      if k < 8 then (k, (get s x r.a L).x.getD k 0#32, P * (get s x r.a L).w.getD k 0)
      else (k, (get s x r.b L).x.getD (k - 8) 0#32, (32768 - P) * (get s x r.b L).w.getD (k - 8) 0))
    ({ x := condense x.ftz ps, w := List.replicate 8 4096, tag := fresh s x,
       mis := (get s x r.a L).mis || (get s x r.b L).mis, cnd := true },
      flIf (P != s.src x r.c 1 L) flSAT ||| sigNan ps))) ∧
  (∀ r, DistMakes (.dcond r) r.head (fun _ _ => 8) r.d (fun _ _ => true) flNV (fun s x L =>
    let ps := (List.range 8).map (fun k => (k, (get s x r.a L).x.getD k 0#32, (get s x r.a L).w.getD k 0 * 2 ^ 15))
    ({ x := condense x.ftz ps, w := List.replicate 8 4096, tag := fresh s x, mis := (get s x r.a L).mis, cnd := true }, sigNan ps))) ∧
  (∀ r, DistMakes (.dtagNew r) r.head (fun _ _ => 4) r.d (fun _ _ => true) 0#32 (fun s x L =>
    ({ raw s x r.a L with tag := fresh s x }, 0#32))) ∧
  (∀ r, DistMakes (.dtagCopy r) r.head (fun _ _ => 4) r.d (fun _ _ => false) 0#32 (fun s x L =>
    ({ raw s x r.a L with tag := (raw s x r.b L).tag }, 0#32)))

/-- R236, R243–R246: the words that deliver a number read from a distribution register. -/
def Obligations.DistributionReads : Prop :=
  let get := fun (s : State) (x : Ctx) (o : Operand) (L : Nat) => (s.issuer x).dsource x.ftz o.field.toNat L
  let raw := fun (s : State) (x : Ctx) (o : Operand) (L : Nat) => (s.issuer x).distVal o.field.toNat L
  (∀ r w, DistGives (.dget r w) r.head 4 r.d 0#32 (fun s x L =>
    let n := s.src x r.b 1 L % 8
    (if w then (raw s x r.a L).w.getD n 0 else ((raw s x r.a L).x.getD n 0#32).toNat, 0#32))) ∧
  (∀ r k, DistGives (.dmom r k) r.head 8 r.d (flNV ||| flOF ||| flUF ||| flNX) (fun s x L =>
    let y := momentVal x.ftz (Moment.k k) (get s x r.a L)
    (y.1.toNat, y.2))) ∧
  (∀ r f, DistGives (.dqtl r f) r.head 8 r.d (flSAT ||| flIf f flNV) (fun s x L =>
    let b := s.fsrc x r.b L
    let y := if f then (if b.isNan then (0x7FC00000#32, snanFlag [b]) else quantileVal (get s x r.a L) (massOf b))
      else quantileVal (get s x r.a L) (s.src x r.b 1 L)
    (y.1.toNat, y.2))) ∧
  (∀ r le, DistGives (.dcdf r le) r.head 4 r.d flNV (fun s x L =>
    let b := s.fsrc x r.b L
    if b.isNan then (0x7FC00000, snanFlag [b])
    else
      let below := (get s x r.a L).points.filter (fun p =>
        let v := f32 false p.2.1
        !v.isNan && (v.cmp b == .lt || (le && v.cmp b == .eq)))
      ((toF32 false .rne false 0 (.fin (Rat3.scaled false ((below.map (fun p => p.2.2)).sum) (-15)))).1.toNat, 0#32))) ∧
  (∀ r, DistGives (.dtagRead r) r.head 4 r.d 0#32 (fun s x L =>
    let d := raw s x r.a L
    (d.tag + ((if d.mis then 1 else 0) + 2 * (if d.cnd then 1 else 0)) * 2 ^ 16, 0#32)))

/-! ## Local memories -/

/-- R249, R250, R252, R253, R256–R260: an access whose addresses are aligned and in range for every active lane is
issued: its operands are read, its destination is empty until it is performed, and it is remembered with its lanes. The
lowest lane that is misaligned or out of range traps. -/
def Obligations.LocalAccesses : Prop :=
  let ready := fun (m : MWord) (reach : Reach) (n al : Nat) (s : State) (x : Ctx) => x.act ≠ 0#32 ∧ ∀ L, x.act.getLsbD L = true →
    s.effAddr x (s.issuer x) m 1 L % (al : Int) = 0 ∧
    (s.locate (s.issuer x) reach (s.effAddr x (s.issuer x) m 1 L) n L).isSome = true
  let bad := fun (m : MWord) (reach : Reach) (n al : Nat) (s : State) (x : Ctx) (L : Nat) =>
    s.effAddr x (s.issuer x) m 1 L % (al : Int) ≠ 0 ∨
    (s.locate (s.issuer x) reach (s.effAddr x (s.issuer x) m 1 L) n L).isSome = false
  let place := fun (m : MWord) (reach : Reach) (n : Nat) (s : State) (x : Ctx) (L : Nat) =>
    (s.locate (s.issuer x) reach (s.effAddr x (s.issuer x) m 1 L) n L).getD (.shared (s.issuer x).team, 0)
  let reg := fun (s : State) (x : Ctx) (n w L : Nat) => s.laneGroup (s.issuer x) x.sup n w L
  let access := fun (i : Instr) (m : MWord) (reach : Reach) (n al : Nat) (op : Ctx → LocalOp) (w : Nat) (may : Word)
      (x1 x2 : State → Ctx → Nat → Nat) (k : Nat) =>
    DoesIf i m.head (fun _ x => x.act = 0#32) (fun s x => s.went x) ∧
    (∀ L, DoesIf i m.head (fun s x => firstLane x (bad m reach n al s x) L ∧ s.effAddr x (s.issuer x) m 1 L % (al : Int) ≠ 0)
      (fun s x => s.trapped x (x.addrTrap 0x08 0 L (intBits (s.effAddr x (s.issuer x) m 1 L) 64) 0))) ∧
    (∀ L, DoesIf i m.head (fun s x => firstLane x (bad m reach n al s x) L ∧ s.effAddr x (s.issuer x) m 1 L % (al : Int) = 0)
      (fun s x => s.trapped x (if reach = .spill then x.addrTrap 0x0B 0 L (intBits (s.effAddr x (s.issuer x) m 1 L) 64) 0
        else x.addrTrap 0x07 2 L (intBits (s.effAddr x (s.issuer x) m 1 L) 64) k))) ∧
    DoesIf i m.head (ready m reach n al) (fun s x =>
      ((groupAccess ((lanesOf x.act).map (fun L =>
        ((place m reach n s x L).1, ⟨L, (place m reach n s x L).2, x1 s x L, x2 s x L⟩)))).foldl (fun s g =>
          s.addPend x .localMem (.access g.1 (op x) g.2)
            ((List.range w).map (fun k => (⟨x.sup, true, m.ds.toNat + k⟩, maskOfLanes (g.2.map (fun a => a.lane)))))
            0#32 may) s).went x)
  let load := fun (i : Instr) (m : MWord) (reach : Reach) =>
    access i m reach m.size.bytes m.size.bytes (fun x => .load x.sup m.ds.toNat m.size.bytes) m.size.regs 0#32
      (fun _ _ _ => 0) (fun _ _ _ => 0) 0
  let store := fun (i : Instr) (m : MWord) (reach : Reach) =>
    access i m reach m.size.bytes m.size.bytes (fun _ => .store m.size.bytes) 0 0#32
      (fun s x L => reg s x m.ds.toNat m.size.regs L) (fun _ _ _ => 0) 1
  let atom := fun (i : Instr) (m : MWord) (op : AtomOp) (reach : Reach) =>
    access i m reach m.size.bytes m.size.bytes (fun x => .atom x.sup m.ds.toNat m.size.bytes op x.ftz) m.size.regs (AtomOp.may op)
      (fun s x L => reg s x m.ds.toNat m.size.regs L)
      (fun s x L => if op = .cas then reg s x (m.ds.toNat + m.size.regs) m.size.regs L else 0) 2
  (∀ m clu, load (.lds m clu) m (if clu then .cluster else .own)) ∧
  (∀ m clu, store (.sts m clu) m (if clu then .cluster else .own)) ∧
  (∀ m op clu, atom (.atoms m op clu) m op (if clu then .cluster else .own)) ∧
  (∀ m clu, access (.ldsf m clu) m (if clu then .cluster else .own) 1024 1024 (fun x => .fragment x.sup m.ds.toNat) 8 0#32
    (fun _ _ _ => 0) (fun _ _ _ => 0) 0) ∧
  (∀ m, load (.ldx m) m .scratch) ∧
  (∀ m, store (.stx m) m .scratch) ∧
  (∀ m op, atom (.atomx m op) m op .scratch) ∧
  (∀ m, load (.ldk m) m .spill) ∧
  (∀ m, store (.stk m) m .spill)

/-! ## Control words -/

/-- R125: which lanes a BRA takes, for each thing that it tests. -/
def branchConditionsHold : Prop :=
  ∀ (s : State) (x : Ctx) (L : Nat), L < 32 →
    let c := s.issuer x
    (s.taken x .always).getLsbD L = x.act.getLsbD L ∧
    (∀ r cc, (s.taken x (.lane r cc)).getLsbD L =
      (x.act.getLsbD L && signCond cc (signExt (s.laneVal c x.sup r.toNat L).toNat 32))) ∧
    (∀ r cc, (s.taken x (.unif r cc)).getLsbD L =
      (x.act.getLsbD L && signCond cc (signExt (s.unifVal c x.sup r.toNat).toNat 32))) ∧
    (∀ m, (s.taken x (.mask m .set)).getLsbD L = (x.act.getLsbD L && (s.maskVal c m.toNat).getLsbD L)) ∧
    (∀ m, (s.taken x (.mask m .clr)).getLsbD L = (x.act.getLsbD L && !(s.maskVal c m.toNat).getLsbD L)) ∧
    (∀ m, (s.taken x (.mask m .any)).getLsbD L = (x.act.getLsbD L && decide (s.maskVal c m.toNat &&& x.act ≠ 0#32))) ∧
    (∀ m, (s.taken x (.mask m .all)).getLsbD L = (x.act.getLsbD L && decide (s.maskVal c m.toNat &&& x.act = x.act))) ∧
    (∀ m, (s.taken x (.mask m .none)).getLsbD L = (x.act.getLsbD L && decide (s.maskVal c m.toNat &&& x.act = 0#32)))

/-- R89, R125–R128: ILL, NOP and the branches. A branch that no lane takes goes on; one that every lane takes moves the
slot; a divergent one puts the lanes that go on into the other slot, or into a path entry where that slot is taken. A
target outside the address space, and a path entry that does not fit, trap at the branch. Where the branch is the last
word of the address space, the lanes that go on in the other slot overflow there. -/
def Obligations.Branches : Prop :=
  let goTo := fun (s : State) (x : Ctx) (j pc : Nat) (taken : Bool) (m : LaneMask) =>
    s.onCourse x.crs (fun c => c.onSlot j (fun y => y.goto s.clock pc taken m))
  let rest := fun (s : State) (x : Ctx) (T : LaneMask) => ((s.issuer x).slotN x.j).mask &&& ~~~T
  let far := fun (X : Int) => X < 0 ∨ 2 ^ 52 ≤ X
  let branch := fun (i : Instr) (h : Head) (X : Ctx → Int) (T : State → Ctx → LaneMask) (link : Ctx → Course → Course) =>
    DoesIf i h (fun s x => T s x = 0#32) (fun s x => (s.onCourse x.crs (link x)).went x) ∧
    DoesIf i h (fun s x => T s x ≠ 0#32 ∧ far (X x)) (fun s x => s.trapped x (x.targetTrap (X x))) ∧
    DoesIf i h (fun s x => T s x ≠ 0#32 ∧ ¬ far (X x) ∧ rest s x (T s x) = 0#32) (fun s x =>
      (goTo (s.onCourse x.crs (link x)) x x.j (X x).toNat true (T s x)).jumped x) ∧
    DoesIf i h (fun s x => T s x ≠ 0#32 ∧ ¬ far (X x) ∧ rest s x (T s x) ≠ 0#32 ∧ s.otherTaken (s.issuer x) x.j = true ∧
        s.regionFits (s.issuer x) 1 = false)
      (fun s x => s.trapped x (x.trap 0x0B)) ∧
    DoesIf i h (fun s x => T s x ≠ 0#32 ∧ ¬ far (X x) ∧ rest s x (T s x) ≠ 0#32 ∧
        s.otherTaken (s.issuer x) x.j = true ∧ s.regionFits (s.issuer x) 1 = true)
      (fun s x => ((goTo (s.onCourse x.crs (link x)) x x.j (X x).toNat true (T s x)).pushPaths x.crs x.act
        [(x.pc + 8, rest s x (T s x))]).jumped x) ∧
    DoesIf i h (fun s x => T s x ≠ 0#32 ∧ ¬ far (X x) ∧ rest s x (T s x) ≠ 0#32 ∧ s.otherTaken (s.issuer x) x.j = false)
      (fun s x =>
        let u := goTo (goTo (s.onCourse x.crs (link x)) x x.j (X x).toNat true (T s x)) x (1 - x.j) (x.pc + 8) false
          (rest s x (T s x))
        if x.pc + 8 = 2 ^ 52 then (u.raise x.crs (1 - x.j) (overflowTrap x.act ((u.course x.crs).supIn (1 - x.j)))).jumped x
        else u.jumped x)
  (∀ h body, Does (.ill h body) h (fun s x => s.trapped x (x.trap 0x01))) ∧
  (∀ h, Does (.nop h) h (fun s x => s.went x)) ∧
  (∀ h t ofs, branch (.bra h t ofs) h (fun x => x.pc + 8 * signExt ofs.toNat 32) (fun s x => s.taken x t) (fun _ c => c)) ∧
  (∀ h u a ofs, branch (.call h u a ofs) h (fun x => x.pc + 8 * signExt ofs.toNat 32) (fun _ x => x.act) (fun x c =>
    if x.act = 0#32 then c
    else if u then
      (c.writeNow (.unif x.sup a.toNat (regPart (x.pc + 8) 0))).writeNow (.unif x.sup (a.toNat + 1) (regPart (x.pc + 8) 1))
    else (lanesOf x.act).foldl (fun c L =>
      (c.writeNow (.lane x.sup a.toNat L (regPart (x.pc + 8) 0) false)).writeNow
        (.lane x.sup (a.toNat + 1) L (regPart (x.pc + 8) 1) false)) c)) ∧
  branchConditionsHold

/-- R126: a misaligned target of BRX or RET, and one outside the address space, trap at the word for the lowest such
lane. -/
def indirectTrapsHold : Prop :=
  ∀ (r : RWord) (i : Instr), i = .brx r ∨ i = .ret r → ∀ L,
    DoesIf i r.head (fun s x => (lanesOf x.act).find? (fun L => s.src x r.a 2 L % 8 != 0) = some L)
      (fun s x => s.trapped x { x.trap 0x08 with lane := some L, addr := s.src x r.a 2 L }) ∧
    DoesIf i r.head (fun s x => (∀ l ∈ lanesOf x.act, s.src x r.a 2 l % 8 = 0) ∧
        (lanesOf x.act).find? (fun L => decide (2 ^ 52 ≤ s.src x r.a 2 L)) = some L)
      (fun s x => s.trapped x { x.trap 0x05 with sub := 1, lane := some L, addr := s.src x r.a 2 L })

/-- R120, R126–R128, R140: BRX and RET to one target that every lane of the slot shares, and to several, where a group at
the address past the last word overflows; JMARK and JOIN on the rejoin stack. -/
def Obligations.Rejoining : Prop :=
  let X := fun (r : RWord) (s : State) (x : Ctx) (L : Nat) => s.src x r.a 2 L
  let groups := fun (r : RWord) (s : State) (x : Ctx) =>
    groupTargets ((lanesOf ((s.issuer x).slotN x.j).mask).map (fun L => (L, if x.act.getLsbD L then X r s x L else x.pc + 8)))
  let good := fun (r : RWord) (s : State) (x : Ctx) => ∀ L ∈ lanesOf x.act, X r s x L % 8 = 0 ∧ X r s x L < 2 ^ 52
  let goTo := fun (s : State) (x : Ctx) (j : Nat) (g : Nat × LaneMask) =>
    let t := s.onCourse x.crs (fun c => c.onSlot j (fun y => y.goto s.clock g.1 (g.2 &&& x.act != 0#32) g.2))
    if g.1 = 2 ^ 52 then t.raise x.crs j (overflowTrap x.act ((t.course x.crs).supIn j)) else t
  let indirect := fun (i : Instr) (r : RWord) =>
    DoesIf i r.head (fun s x => good r s x ∧ (groups r s x).length = 1) (fun s x =>
      (goTo s x x.j ((groups r s x).headD (0, 0#32))).jumped x) ∧
    DoesIf i r.head (fun s x => good r s x ∧ 2 ≤ (groups r s x).length ∧ s.otherTaken (s.issuer x) x.j = false ∧
        s.regionFits (s.issuer x) ((groups r s x).length - 2) = true) (fun s x =>
      ((goTo (goTo s x x.j ((groups r s x).headD (0, 0#32))) x (1 - x.j) ((groups r s x).getD 1 (0, 0#32))).pushPaths x.crs x.act
        ((groups r s x).drop 2)).jumped x) ∧
    DoesIf i r.head (fun s x => good r s x ∧ 2 ≤ (groups r s x).length ∧ s.otherTaken (s.issuer x) x.j = true ∧
        s.regionFits (s.issuer x) ((groups r s x).length - 1) = true) (fun s x =>
      ((goTo s x x.j ((groups r s x).headD (0, 0#32))).pushPaths x.crs x.act ((groups r s x).drop 1)).jumped x)
  let here := fun (x : Ctx) (e : Rejoin) => e.l == x.pc
  (∀ r, indirect (.brx r) r) ∧
  (∀ r, indirect (.ret r) r) ∧
  (∀ h ofs, DoesIf (.jmark h ofs) h (fun _ x => x.act = 0#32) (fun s x => s.went x)) ∧
  (∀ h ofs, DoesIf (.jmark h ofs) h (fun _ x => x.act ≠ 0#32 ∧ ((x.pc : Int) + 8 * signExt ofs.toNat 32 < 0 ∨
      2 ^ 52 ≤ (x.pc : Int) + 8 * signExt ofs.toNat 32))
    (fun s x => s.trapped x (x.targetTrap ((x.pc : Int) + 8 * signExt ofs.toNat 32)))) ∧
  (∀ h ofs, DoesIf (.jmark h ofs) h (fun s x => x.act ≠ 0#32 ∧ 0 ≤ (x.pc : Int) + 8 * signExt ofs.toNat 32 ∧
      (x.pc : Int) + 8 * signExt ofs.toNat 32 < 2 ^ 52 ∧
      ((s.issuer x).rejoin.length = 8 → s.regionFits (s.issuer x) 1 = true))
    (fun s x => (s.setRejoins x.crs (⟨((x.pc : Int) + 8 * signExt ofs.toNat 32).toNat, ((s.issuer x).slotN x.j).mask, 0#32⟩ ::
      s.rejoins (s.issuer x))).went x)) ∧
  (∀ h, DoesIf (.join h) h (fun s x => x.act = 0#32 ∨ (s.rejoins (s.issuer x)).find? (here x) = none) (fun s x => s.went x)) ∧
  (∀ h (e : Rejoin), DoesIf (.join h) h
    (fun s x => x.act ≠ 0#32 ∧ (s.rejoins (s.issuer x)).find? (here x) = some e ∧
      e.a ||| ((s.issuer x).slotN x.j).mask = e.f)
    (fun s x => ((s.setRejoins x.crs (dropFirst (here x) (s.rejoins (s.issuer x)))).onCourse x.crs (fun c =>
      c.onSlot x.j (fun y => { y with mask := e.f }))).went x)) ∧
  (∀ h (e : Rejoin), DoesIf (.join h) h
    (fun s x => x.act ≠ 0#32 ∧ (s.rejoins (s.issuer x)).find? (here x) = some e ∧
      e.a ||| ((s.issuer x).slotN x.j).mask ≠ e.f)
    (fun s x => ((s.setRejoins x.crs (mapFirst (here x) (fun y => { y with a := e.a ||| ((s.issuer x).slotN x.j).mask })
      (s.rejoins (s.issuer x)))).onCourse x.crs (fun c => c.onSlot x.j Slot.parted)).jumped x)) ∧
  indirectTrapsHold

/-- R129, R145: what END and VACQ change: the lanes no longer live; and the blocks held and used, the registers of a new
block being zero. -/
def retirementHolds : Prop :=
  (∀ (s : State) crs j m, ((s.retire crs j m).course crs).live = (s.course crs).live &&& ~~~m) ∧
  (∀ (s : State) crs set, set < 16 → ((s.takeBlocks crs set).course crs).blocks = (s.course crs).blocks ||| set) ∧
  (∀ (s : State) crs set n L, L < 32 → inBlocks set n = true → inBlocks (s.course crs).blocks n = false → n < 256 →
    ((s.takeBlocks crs set).course crs).laneCell false n L = {}) ∧
  (∀ (s : State) crs set sup n L, L < 32 → (sup = true ∨ inBlocks set n = false ∨ inBlocks (s.course crs).blocks n = true) →
    ((s.takeBlocks crs set).course crs).laneCell sup n L = (s.course crs).laneCell sup n L)

/-- R107, R129, R131–R133, R145–R149: END retires the lanes of Active(); REFILL gives items of the team's queue to the
lanes that ask and retires those for which there is none; IPUSH adds as many items as there is room for; the VACQ
words take blocks of the pool where no course waits and enough are free, and VREL gives them back. -/
def Obligations.LanesAndBlocks : Prop :=
  let set := fun (r : RWord) => r.a.field.toNat
  let have_ := fun (r : RWord) (s : State) (x : Ctx) => (s.issuer x).wanted (set r) = []
  let can := fun (r : RWord) (s : State) (x : Ctx) => (s.issuer x).wanted (set r) ≠ [] ∧
    s.vacqWaiters (s.issuer x).core (s.issuer x).bay = [] ∧
    ((s.issuer x).wanted (set r)).length ≤ s.poolFree (s.issuer x).team (s.issuer x).bay
  let tell := fun (r : RWord) (x : Ctx) (t : State) (n : Nat) =>
    (t.addPend x .other (.values (lateValues x true r.d.toNat 1 (fun _ => n))) (lateFills x true r.d.toNat 1) 0#32 0#32).went x
  let ask := fun (r : RWord) (s : State) (x : Ctx) => lanesOf (x.act &&& s.maskVal (s.issuer x) (set r))
  let items := fun (s : State) (x : Ctx) => (s.team (s.issuer x).team).items
  let gone := fun (r : RWord) (s : State) (x : Ctx) => maskOfLanes ((ask r s x).drop (items s x).length)
  let filled := fun (r : RWord) (s : State) (x : Ctx) =>
    let fed := (ask r s x).zip (items s x)
    (s.onTeam (s.issuer x).team (fun t => { t with items := t.items.drop fed.length })).onCourse x.crs (fun c =>
      { ((fed.foldl (fun c e => c.writeNow (.lane x.sup r.d.toNat e.1 e.2 false)) c).flushMask (set r)).setMask (set r) 0#32
          (maskOfLanes (fed.map (fun e => e.1))) with nextIssue := s.clock + 8 })
  (∀ h, DoesIf (.endLanes h) h (fun _ x => x.act = 0#32) (fun s x => s.went x)) ∧
  (∀ h, DoesIf (.endLanes h) h (fun s x => x.act ≠ 0#32 ∧ (s.issuer x).ownMask x.j &&& ~~~x.act = 0#32)
    (fun s x => (s.retire x.crs x.j x.act).jumped x)) ∧
  (∀ h, DoesIf (.endLanes h) h (fun s x => x.act ≠ 0#32 ∧ (s.issuer x).ownMask x.j &&& ~~~x.act ≠ 0#32)
    (fun s x => (s.retire x.crs x.j x.act).went x)) ∧
  (∀ r, DoesIf (.refill r) r.head
    (fun s x => gone r s x = 0#32 ∧ (s.issuer x).ownMask x.j ≠ 0#32) (fun s x => (filled r s x).went x)) ∧
  (∀ r, DoesIf (.refill r) r.head
    (fun s x => gone r s x ≠ 0#32 ∧ (s.issuer x).ownMask x.j &&& ~~~gone r s x ≠ 0#32)
    (fun s x => ((filled r s x).retire x.crs x.j (gone r s x)).went x)) ∧
  (∀ r, DoesIf (.refill r) r.head
    (fun s x => gone r s x ≠ 0#32 ∧ (s.issuer x).ownMask x.j &&& ~~~gone r s x = 0#32)
    (fun s x => ((filled r s x).retire x.crs x.j (gone r s x)).jumped x)) ∧
  (∀ r, DoesIf (.ipush r) r.head (fun _ x => x.act = 0#32) (fun s x => s.went x)) ∧
  (∀ r, DoesIf (.ipush r) r.head (fun _ x => x.act ≠ 0#32) (fun s x =>
    let new := ((lanesOf x.act).take (1024 - s.itemsOn (s.issuer x).core)).map (fun L =>
      s.laneVal (s.issuer x) x.sup r.a.field.toNat L)
    tell r x (s.onTeam (s.issuer x).team (fun t => { t with items := t.items ++ new })) new.length)) ∧
  (∀ r, DoesIf (.vacq r) r.head (fun s x => x.act = 0#32 ∨ have_ r s x) (fun s x => s.went x)) ∧
  (∀ r, DoesIf (.vacq r) r.head (fun s x => x.act ≠ 0#32 ∧ can r s x) (fun s x => (s.takeBlocks x.crs (set r)).went x)) ∧
  (∀ r, DoesIf (.vacq r) r.head (fun s x => x.act ≠ 0#32 ∧ ¬ have_ r s x ∧ ¬ can r s x) (fun s x =>
    s.waits x (.vacq (set r) s.stamp))) ∧
  (∀ r, DoesIf (.vacqNb r) r.head (fun _ x => x.act = 0#32) (fun s x => s.went x)) ∧
  (∀ r, DoesIf (.vacqNb r) r.head (fun s x => x.act ≠ 0#32 ∧ have_ r s x) (fun s x => tell r x s 1)) ∧
  (∀ r, DoesIf (.vacqNb r) r.head (fun s x => x.act ≠ 0#32 ∧ can r s x) (fun s x =>
    tell r x (s.takeBlocks x.crs (set r)) 1)) ∧
  (∀ r, DoesIf (.vacqNb r) r.head (fun s x => x.act ≠ 0#32 ∧ ¬ have_ r s x ∧ ¬ can r s x) (fun s x => tell r x s 0)) ∧
  (∀ r, DoesIf (.vrel r) r.head (fun _ x => x.act = 0#32) (fun s x => s.went x)) ∧
  (∀ r, DoesIf (.vrel r) r.head
    (fun s x => x.act ≠ 0#32 ∧
      (s.issuer x).v.any (fun k y => inBlocks (set r &&& (s.issuer x).blocks) (k / 32) && y.empty) = true)
    (fun s x => s.blocked x true)) ∧
  (∀ r, DoesIf (.vrel r) r.head
    (fun s x => x.act ≠ 0#32 ∧
      (s.issuer x).v.any (fun k y => inBlocks (set r &&& (s.issuer x).blocks) (k / 32) && y.empty) = false)
    (fun s x => ((s.returnBlocks x.crs (set r &&& (s.issuer x).blocks)).servePool (s.issuer x).core (s.issuer x).bay).went x)) ∧
  retirementHolds

/-- R363, R366, R367: a slot that waits at BWAIT or CLBAR goes on at the next word once its phase has completed. -/
def barrierWakesHold : Prop :=
  (∀ (s : State) crs j b P, ((s.course crs).slotN j).wait = .bwait b P → s.running (s.course crs) = true →
    (s.bar (s.course crs).team b).passed P = true →
    exec (.bwaitWake crs j) s = .next ((s.passBar crs (s.bwaitFences (s.course crs).team b P)).advance crs j
      ((s.course crs).slotN j).act)) ∧
  (∀ (s : State) crs j b P, ((s.course crs).slotN j).wait = .bwait b P → (s.bar (s.course crs).team b).passed P = false →
    exec (.bwaitWake crs j) s = .next s) ∧
  (∀ (s : State) cl crs p, s.clusterTeams cl = [cl] → (s.team cl).courses = [crs] → (s.course crs).slot0.wait = .clbar p →
    (∀ q, (s.course crs).slot1.wait ≠ .clbar q) → s.running (s.course crs) = true → (s.course crs).team = cl →
    p + 1 ≤ (s.course crs).clArrivals →
    exec (.clbarPhaseComplete cl) s = .next ((s.passBar crs (s.clbarFences [crs] p)).advance crs 0 (s.course crs).slot0.act))

/-- R363–R367: the barrier words and the cluster barrier. ARRIVE counts its arrivals one by one, and a phase completes
with the last, and marks what the course has issued; BWAIT and CLBAR go on where the phase has completed and otherwise
wait for it. -/
def Obligations.BarrierWords : Prop :=
  let b := fun (r : RWord) => r.a.field.toNat
  let bar := fun (r : RWord) (s : State) (x : Ctx) => s.bar (s.issuer x).team (b r)
  let idle := fun (i : Instr) (h : Head) => DoesIf i h (fun _ x => x.act = 0#32) (fun s x => s.went x)
  let counted := fun (s : State) (x : Ctx) => s.onCourse x.crs (fun c => { c with
    clArrivals := c.clArrivals + 1
    clMarks := c.clMarks.filter (fun m => c.sharedPend m.2 none) ++ [(c.clArrivals, c.nextPend)] })
  let arrived := fun (r : RWord) (s : State) (x : Ctx) => s.setBar (s.issuer x).team (b r)
    { (bar r s x).arrive (s.usrc x r.b) with
      marks := (bar r s x).marks.filter (fun m => (s.course m.2.1).sharedPend m.2.2 (some (s.issuer x).team)) ++
        [((bar r s x).phase, x.crs, (s.issuer x).nextPend)] }
  (∀ r, idle (.barinit r) r.head ∧ idle (.arrive r false) r.head ∧ idle (.bwait r) r.head) ∧
  (∀ r, DoesIf (.barinit r) r.head (fun s x => x.act ≠ 0#32 ∧ 1 ≤ s.usrc x r.b ∧ s.usrc x r.b ≤ 4095) (fun s x =>
    (s.setBar (s.issuer x).team (b r) { bar r s x with exp := s.usrc x r.b, pend := s.usrc x r.b }).went x)) ∧
  (∀ r, DoesIf (.barinit r) r.head (fun s x => x.act ≠ 0#32 ∧ (s.usrc x r.b = 0 ∨ 4095 < s.usrc x r.b))
    (fun s x => s.trapped x x.illegalOperand)) ∧
  (∀ r, DoesIf (.arrive r false) r.head
    (fun s x => x.act ≠ 0#32 ∧ 1 ≤ s.usrc x r.b ∧ s.usrc x r.b ≤ 4095 ∧ (bar r s x).exp ≠ 0)
    (fun s x => (arrived r s x).went x)) ∧
  (∀ r, DoesIf (.arrive r true) r.head
    (fun s x => x.act ≠ 0#32 ∧ 1 ≤ s.usrc x r.b ∧ s.usrc x r.b ≤ 4095 ∧ (bar r s x).exp ≠ 0)
    (fun s x => ((arrived r s x).addPend x .other
      (.values (lateValues x true r.d.toNat 1 (fun _ => (bar r s x).phase))) (lateFills x true r.d.toNat 1) 0#32 0#32).went x)) ∧
  (∀ r ph, DoesIf (.arrive r ph) r.head
    (fun s x => x.act ≠ 0#32 ∧ (s.usrc x r.b = 0 ∨ 4095 < s.usrc x r.b ∨ (bar r s x).exp = 0))
    (fun s x => s.trapped x x.illegalOperand)) ∧
  (∀ r, DoesIf (.bwait r) r.head (fun s x => x.act ≠ 0#32 ∧ (bar r s x).passed (s.usrc x r.b % 2 ^ 16) = true) (fun s x =>
    (s.passBar x.crs (s.bwaitFences (s.issuer x).team (b r) (s.usrc x r.b % 2 ^ 16))).went x)) ∧
  (∀ r, DoesIf (.bwait r) r.head (fun s x => x.act ≠ 0#32 ∧ (bar r s x).passed (s.usrc x r.b % 2 ^ 16) = false) (fun s x =>
    s.waits x (.bwait (b r) (s.usrc x r.b % 2 ^ 16)))) ∧
  (∀ h, idle (.clbar h) h ∧ idle (.clbarArr h) h ∧ idle (.clbarWait h) h) ∧
  (∀ h, DoesIf (.clbarArr h) h (fun _ x => x.act ≠ 0#32) (fun s x => (counted s x).went x)) ∧
  (∀ h, DoesIf (.clbar h) h (fun _ x => x.act ≠ 0#32) (fun s x =>
    (counted s x).waits x (.clbar (s.course x.crs).clArrivals))) ∧
  (∀ h, DoesIf (.clbarWait h) h (fun s x => x.act ≠ 0#32 ∧ (s.course x.crs).clArrivals = 0) (fun s x => s.went x)) ∧
  (∀ h, DoesIf (.clbarWait h) h (fun s x => x.act ≠ 0#32 ∧ (s.course x.crs).clArrivals ≠ 0) (fun s x =>
    s.waits x (.clbar ((s.course x.crs).clArrivals - 1)))) ∧
  (∀ (y : Barrier) k, y.arrive (k + 1) =
    (if y.pend ≤ 1 then { y with phase := (y.phase + 1) % 2 ^ 16, pend := y.exp } else { y with pend := y.pend - 1 }).arrive k) ∧
  barrierWakesHold

/-! ## Fetching and the slots -/

/-- R134–R138: a slot without its line starts a fill, a miss, or waits for one in flight, or traps where its page cannot be
fetched from; the fill brings the line as its home holds it; IPF starts fills and never traps. -/
def Obligations.Fetching : Prop :=
  let c := fun (s : State) crs => s.course crs
  let wants := fun (s : State) crs j => (c s crs).taken j = true ∧ ((c s crs).slotN j).wait = .none ∧ s.running (c s crs) = true ∧
    (c s crs).nextRefusal j = none ∧ (s.core (c s crs).core).cached (s.ctxOf (c s crs)) (((c s crs).slotN j).pc / 128) = none
  let waits := fun (s : State) crs j => (s.onCourse crs (fun c => c.onSlot j (fun y => { y with wait := .fetch })))
  (∀ (s : State) crs j, wants s crs j →
    (s.core (c s crs).core).fills.contains (s.ctxOf (c s crs), ((c s crs).slotN j).pc / 128) = true →
    exec (.demandFetch crs j) s = .next (waits s crs j)) ∧
  (∀ (s : State) crs j pa, wants s crs j →
    (s.core (c s crs).core).fills.contains (s.ctxOf (c s crs), ((c s crs).slotN j).pc / 128) = false →
    s.fetchPage (s.ctxOf (c s crs)) ((c s crs).slotN j).pc = .ok pa → (s.core (c s crs).core).fills.length < 16 →
    exec (.demandFetch crs j) s = .next ((waits ((s.onCore (c s crs).core (fun k => { k with
      fills := k.fills ++ [(s.ctxOf (c s crs), ((c s crs).slotN j).pc / 128)] })).tlbFill (s.ctxOf (c s crs))
        [((c s crs).slotN j).pc]) crs j).count 0 (c s crs).core 3 1)) ∧
  (∀ (s : State) crs j code sub, wants s crs j →
    (s.core (c s crs).core).fills.contains (s.ctxOf (c s crs), ((c s crs).slotN j).pc / 128) = false →
    s.fetchPage (s.ctxOf (c s crs)) ((c s crs).slotN j).pc = .fault code sub →
    exec (.demandFetch crs j) s = .next ((s.noteTrap crs (s.fetchTrap crs j code sub 0)).raise crs j (s.fetchTrap crs j code sub 0))) ∧
  (∀ (s : State) core line ctx pa, (s.core core).fills.find? (fun f => f.2 == line) = some (ctx, line) →
    s.fetchPage ctx (line * 128) = .ok pa →
    ∃ t, exec (.fetchFillLands core line) s = .next t ∧
      (t.core core).cached ctx line = some (ILine.mk ctx line (s.memRead pa 128)
        ((wordsOf 0 128).filter (fun w => poisonedIn s.poison (pa + w) 4)) s.stamp)) ∧
  (∀ h base n ofs, DoesIf (.ipf h base n ofs) h (fun _ x => x.act = 0#32) (fun s x => s.went x)) ∧
  (∀ h base n ofs, DoesIf (.ipf h base n ofs) h (fun _ x => x.act ≠ 0#32) (fun s x =>
    let from_ : Nat := match base with
      | none => x.pc
      | some a => s.unifGroup (s.issuer x) x.sup a.toNat 2
    let T : Int := from_ + 8 * signExt ofs.toNat 32
    (s.prefetchLines (s.issuer x).core (s.ctxOf (s.issuer x)) ((List.range (n.val + 1)).map (fun (k : Nat) =>
      T / 128 * 128 + 128 * (k : Int)))).went x))

/-- R109, R112, R120–R122, R156, R174, R205, R225: the events of a slot and of a bay: refilling from the rejoin stack or,
with no ready entry there, from the most recent path entry (that a refilled path begins no earlier than 3 cycles later is the
model's choice, log 116), urgency after 32 cycles, the end of a yield, the end of an occupancy, and fixed-ALU results landing
4 cycles after issue, with the ARITH trap that follows them. -/
def Obligations.SlotEvents : Prop :=
  let landed := fun (s : State) crs => s.onCourse crs (fun c =>
    { (c.alu.filter (fun w => decide (w.issued + 4 ≤ s.clock))).foldl (fun c w => c.applyAlu w.dst) c with
      alu := c.alu.filter (fun w => !decide (w.issued + 4 ≤ s.clock)) })
  (∀ (s : State) crs j n t, j < 2 → ((s.course crs).slotN j).wait = .arith n t →
    (∀ m u, ((s.course crs).slotN (1 - j)).wait ≠ .arith m u) →
    exec (.fixedAluWriteback crs) s = .next (if n ≤ s.clock then (landed s crs).raise crs j t else landed s crs)) ∧
  (∀ (s : State) crs k, (s.rejoins (s.course crs)).find? Rejoin.ready = none → (s.course crs).pathCount = k + 1 →
    let b := s.memRead (s.pathAddr (s.course crs) k) 16
    let pc := ofBytes (b.take 8)
    let m := wd (ofBytes ((b.drop 8).take 4)) &&& (s.course crs).live
    let c := (s.refillSlot crs 0).course crs
    c.slot0.pc = pc ∧ c.slot0.mask = m ∧ c.slot0.notBefore = s.clock + 3 ∧ c.pathCount = k ∧
      c.slot0.wait = (if pc = 2 ^ 52 then
        .trap (overflowTrap ((Tab.find (s.course crs).pastEnd k).getD m) ((s.course crs).supIn 0)) s.stamp else .none)) ∧
  (∀ (s : State) crs, (s.course crs).taken 0 = false → s.canRefill (s.course crs) = true →
    exec (.slotRefill crs) s = .next (s.refillSlot crs 0)) ∧
  (∀ (s : State) crs, (s.course crs).taken 0 = true → (s.course crs).taken 1 = false → s.canRefill (s.course crs) = true →
    exec (.slotRefill crs) s = .next (s.refillSlot crs 1)) ∧
  (∀ (s : State) crs e t, (s.rejoins (s.course crs)) = e :: t → e.a = e.f → e.a ≠ 0#32 → (s.course crs).rejoin ≠ [] →
    (((s.refillSlot crs 0).course crs).slot0.pc = e.l + 8 ∧ ((s.refillSlot crs 0).course crs).slot0.mask = e.a ∧
     ((s.refillSlot crs 0).course crs).slot0.wait =
       if e.l + 8 = 2 ^ 52 then .trap (overflowTrap e.a ((s.course crs).supIn 0)) s.stamp else .none)) ∧
  (∀ (s : State) crs j n, ((s.course crs).slotN j).urgent = false → ((s.course crs).slotN j).eligibleSince = some n →
    n + 32 ≤ s.clock → exec (.slotUrgency crs j) s = .next (s.onCourse crs (fun c => c.onSlot j (fun y => { y with urgent := true })))) ∧
  (∀ (s : State) crs j, ((s.course crs).slotN j).yieldUntil ≠ 0 → ((s.course crs).slotN j).yieldUntil ≤ s.clock →
    exec (.yieldWindowEnd crs j) s = .next (s.onCourse crs (fun c => c.onSlot j (fun y => { y with yieldUntil := 0 })))) ∧
  (∀ (s : State) core bay, ((s.core core).bay bay).specialUntil ≤ s.clock →
    exec (.unitOccupancyEnd core bay .special) s = .next (s.onBay core bay (fun b => { b with specialUntil := 0 }))) ∧
  (∀ (s : State) core bay, ((s.core core).bay bay).crossbarUntil ≤ s.clock →
    exec (.unitOccupancyEnd core bay .crossbar) s = .next (s.onBay core bay (fun b => { b with crossbarUntil := 0 }))) ∧
  (∀ (s : State) core bay, ((s.core core).bay bay).distUntil ≤ s.clock →
    exec (.unitOccupancyEnd core bay .distribution) s = .next (s.onBay core bay (fun b => { b with distUntil := 0 })))

/-! ## Traps, the handler and results that land -/

/-- R438–R441: taking a trap. Outside supervisor mode, with a handler, the bank free and no earlier trap waiting for it,
the course enters supervisor mode: the record is kept, the slot's mask is kept, HS0 to HS9 hold the record, every
HV register is zero and full, the slot's PC is the handler address and its mask the record's MASK. -/
def Obligations.HandlerEntry : Prop :=
  ∀ (s : State) crs j t n, j < 2 →
    ((s.course crs).slotN j).wait = .trap t n → s.running (s.course crs) = true → t.inSup = false →
    (s.gridOf (s.course crs).team).lr.handler ≠ 0 →
    ¬ (t.code = 0x06 ∧ (s.context (s.ctxOf (s.course crs))).duty.testBit 1 = true) →
    (s.core (s.course crs).core).bank = none → (s.course crs).sup = none →
    (∀ k, (s.course crs).reenter = some k → k = j) → s.trapAhead (s.course crs).core n = false →
    ∃ t', exec (.handlerEntry crs j) s = .next t' ∧ (t'.core (s.course crs).core).bank = some crs ∧
      ((t'.course crs).slotN j).pc = (s.gridOf (s.course crs).team).lr.handler ∧
      ((t'.course crs).slotN j).mask = t.mask &&& (s.course crs).live ∧ ((t'.course crs).slotN j).wait = .none ∧
      (t'.course crs).slotN (1 - j) = (s.course crs).slotN (1 - j) ∧
      (∃ u, (t'.course crs).sup = some u ∧ u.trap = t ∧ u.slot = j ∧ u.slotMask = ((s.course crs).slotN j).mask) ∧
      (∀ n L, (t'.course crs).laneCell true n L = {}) ∧
      ((t'.course crs).unifCell true 0).val = t.causeWord ∧ ((t'.course crs).unifCell true 1).val = t.laneWord ∧
      ((t'.course crs).unifCell true 2).val = regPart t.pc 0 ∧ ((t'.course crs).unifCell true 3).val = regPart t.pc 1 ∧
      ((t'.course crs).unifCell true 4).val = regPart t.addr 0 ∧ ((t'.course crs).unifCell true 5).val = regPart t.addr 1 ∧
      ((t'.course crs).unifCell true 6).val = wd t.info ∧ ((t'.course crs).unifCell true 7).val = t.mask ∧
      ((t'.course crs).unifCell true 8).val = regPart t.aux 0 ∧ ((t'.course crs).unifCell true 9).val = regPart t.aux 1 ∧
      (∀ n, 10 ≤ n → (t'.course crs).unifCell true n = {}) ∧
      (∀ n L, (t'.course crs).laneCell false n L = (s.course crs).laneCell false n L) ∧
      (∀ n, (t'.course crs).unifCell false n = (s.course crs).unifCell false n) ∧
      (t'.course crs).flg = (s.course crs).flg ∧ (t'.course crs).ctl = (s.course crs).ctl ∧ t'.mem = s.mem ∧
      (∀ h, h ≠ crs → t'.course h = s.course h)

/-- R62, R438, R469: a trap of a word issued in supervisor mode, and one for which the grid has no handler, abort the
grid with cause 0x0100 plus the trap's code; where duty 4 is host-assisted the agent is asked first, one question for the
grid, and until it answers no course of the grid runs (that one question is sent and that the courses wait is the model's
reading, logs 84 and 97). -/
def Obligations.TrapAborts : Prop :=
  ∀ (s : State) crs j t n, ((s.course crs).slotN j).wait = .trap t n → s.running (s.course crs) = true →
    (t.inSup = true ∨ ((s.gridOf (s.course crs).team).lr.handler = 0 ∧
      ¬ (t.code = 0x06 ∧ (s.context (s.ctxOf (s.course crs))).duty.testBit 1 = true))) →
    exec (.handlerEntry crs j) s = .next (s.abortGrid (s.team (s.course crs).team).grid (0x0100 + t.code) (some t)) ∧
    ((s.grid (s.team (s.course crs).team).grid).abort = none → (s.grid (s.team (s.course crs).team).grid).done = false →
      (s.context (s.ctxOf (s.course crs))).duty.testBit 4 = false →
      ((s.abortGrid (s.team (s.course crs).team).grid (0x0100 + t.code) (some t)).grid
        (s.team (s.course crs).team).grid).abort = some ⟨0x0100 + t.code, some t⟩) ∧
    ((s.grid (s.team (s.course crs).team).grid).abort = none → (s.grid (s.team (s.course crs).team).grid).done = false →
      (s.context (s.ctxOf (s.course crs))).duty.testBit 4 = true →
      let t' := s.abortGrid (s.team (s.course crs).team).grid (0x0100 + t.code) (some t)
      Tab.find t'.asks s.devSeq = some ⟨.recovery (s.team (s.course crs).team).grid (0x0100 + t.code) (some t), s.clock, none⟩ ∧
      t'.grid (s.team (s.course crs).team).grid = s.grid (s.team (s.course crs).team).grid ∧
      t'.running (s.course crs) = false)

/-- R140, R437, R443–R447: the words of the handler. TRAP is taken after the word, and where it is the last word of the
address space its PC_OVERFLOW is the slot's further trap; SRET goes on at RESUME with the slot's own mask
and frees the bank; SRET.esc sends the trap to the host; SYSRD and SYSWR read and write the record, FLG, CTL and the
registers of the course; HALT ends the grid, and HALT.lanes retires the slot's lanes. -/
def Obligations.HandlerWords : Prop :=
  let rec_ := fun (s : State) (x : Ctx) => (s.issuer x).record
  let resume := fun (p : Nat) => p % 8 = 0 ∧ p < 2 ^ 52
  let full := fun (r : RWord) (s : State) (x : Ctx) => (s.issuer x).laneEmpty false r.c.field.toNat x.act = false
  let always := fun (_ : State) (_ : Ctx) => True
  let past := fun (s : State) (x : Ctx) => if x.pc + 8 = 2 ^ 52 then (s.account x).onCourse x.crs (fun c =>
      { c with refusals := ⟨x.j, 0, overflowTrap x.act (c.supIn x.j)⟩ :: c.refusals }) else s.account x
  (∀ r, DoesIf (.trap r) r.head (fun _ x => x.act = 0#32) (fun s x => s.went x)) ∧
  (∀ r, DoesIf (.trap r) r.head (fun _ x => x.act ≠ 0#32) (fun s x => .next ((past s x).raise x.crs x.j
    { code := 0x15, after := true, pc := x.pc, resume := x.pc + 8, mask := x.act, info := s.usrc x r.a, inSup := x.sup }))) ∧
  (∀ h, DoesIf (.sret h) h (fun _ x => x.act = 0#32) (fun s x => s.went x)) ∧
  (∀ h, DoesIf (.sret h) h (fun s x => x.act ≠ 0#32 ∧ (s.issuer x).sup.isSome ∧ resume (rec_ s x).resume) (fun s x =>
    (s.leaveSup x.crs (rec_ s x).resume).jumped x)) ∧
  (∀ h u cause, DoesIf (.sret h) h (fun s x => x.act ≠ 0#32 ∧ (s.issuer x).sup = some u ∧
      ((u.trap.resume % 8 ≠ 0 ∧ cause = 0x0108) ∨ (u.trap.resume % 8 = 0 ∧ 2 ^ 52 ≤ u.trap.resume ∧ cause = 0x0105)))
    (fun s x => (s.abortGrid (s.team (s.issuer x).team).grid cause (some u.trap)).jumped x)) ∧
  (∀ h u, DoesIf (.sretEsc h) h (fun s x => x.act ≠ 0#32 ∧ (s.issuer x).sup = some u ∧ resume u.trap.resume ∧
      (s.core (s.issuer x).core).bank = some x.crs)
    (fun s x => ((s.onCore (s.issuer x).core (fun k => { k with bank := none })).escalate x.crs x.j u.trap).jumped x)) ∧
  (∀ r, LateDoes (.sysrd r) r.head .other always (fun s _ => s) true r.d 1 (fun _ _ => 0#32)
    (fun s x _ => (s.sysReg (s.issuer x) (rec_ s x) r.a.field.toNat).toNat) (fun _ _ => 0#32)) ∧
  (∀ r, LateDoes (.sysrdV r) r.head .other (full r) (fun s _ => s) false r.d 1 (fun _ _ => 0#32)
    (fun s x L => (s.laneVal (s.issuer x) false r.c.field.toNat L).toNat) (fun _ _ => 0#32)) ∧
  (∀ r, LateDoes (.sysrdS r) r.head .other (fun s x => ((s.issuer x).unifCell false r.c.field.toNat).empty = false)
    (fun s _ => s) true r.d 1 (fun _ _ => 0#32) (fun s x _ => (s.unifVal (s.issuer x) false r.c.field.toNat).toNat)
    (fun _ _ => 0#32)) ∧
  (∀ r, LateDoes (.sysrdPm r) r.head .other (full r) (fun s _ => s) true r.d 1 (fun _ _ => 0#32)
    (fun s x _ => (maskOfLanes (lanes.filter (fun L => s.lanePoison (s.issuer x) false r.c.field.toNat L))).toNat)
    (fun _ _ => 0#32)) ∧
  (∀ r, DoesIf (.syswr r) r.head (fun _ x => x.act ≠ 0#32) (fun s x =>
    (s.setCourse x.crs ((s.issuer x).setSysReg r.d.toNat (wd (s.usrc x r.a)))).went x)) ∧
  (∀ r, DoesIf (.syswrV r) r.head (full r) (fun s x =>
    (s.onCourse x.crs (fun c => (lanesOf x.act).foldl (fun c L =>
      c.writeNow (.lane false r.c.field.toNat L (s.laneVal (s.issuer x) x.sup r.a.field.toNat L) false)) c)).went x)) ∧
  (∀ r, DoesIf (.syswrS r) r.head (fun s x => x.act ≠ 0#32 ∧ ((s.issuer x).unifCell false r.c.field.toNat).empty = false)
    (fun s x => (s.onCourse x.crs (fun c => c.writeNow (.unif false r.c.field.toNat (wd (s.usrc x r.a))))).went x)) ∧
  (∀ h, DoesIf (.haltGrid h) h (fun _ x => x.act ≠ 0#32) (fun s x =>
    (s.abortGrid (s.team (s.issuer x).team).grid (0x0100 + (rec_ s x).code) (some (rec_ s x))).jumped x)) ∧
  (∀ h u, DoesIf (.haltLanes h) h (fun s x => x.act ≠ 0#32 ∧ (s.issuer x).sup = some u ∧ resume u.trap.resume) (fun s x =>
    ((s.leaveSup x.crs u.trap.resume).retire x.crs x.j ((s.issuer x).slotN x.j).mask).jumped x))

/-- R423, R446: an escalated trap that the host serves goes on: a handler's trap returns to RESUME, another retries its
word; one that it declines aborts the grid. -/
def escalationsEnd : Prop :=
  (∀ (s : State) crs j t, ((s.course crs).slotN j).wait = .escalated t (some false) →
    exec (.escalationAnswer crs j) s = .next (s.abortGrid (s.team (s.course crs).team).grid (0x0100 + t.code) (some t))) ∧
  (∀ (s : State) crs j t, ((s.course crs).slotN j).wait = .escalated t (some true) → s.running (s.course crs) = true →
    (∀ u, (s.course crs).sup = some u → u.slot ≠ j) →
    exec (.escalationAnswer crs j) s = .next (s.onCourse crs (fun c => c.onSlot j (fun y => { y with wait := .none })))) ∧
  (∀ (s : State) crs j t u, ((s.course crs).slotN j).wait = .escalated t (some true) → s.running (s.course crs) = true →
    (s.course crs).sup = some u → u.slot = j → u.trap.resume % 8 = 0 → u.trap.resume < 2 ^ 52 →
    exec (.escalationAnswer crs j) s = .next (s.leaveSup crs u.trap.resume))

/-- R446: leaving supervisor mode. The slot has the mask that it had at the trap, less the lanes retired since, and the
core's bank is free. -/
def Obligations.LeavingSupervisorMode : Prop :=
  escalationsEnd ∧
  ∀ (s : State) crs pc u, (s.course crs).sup = some u → u.slot < 2 → (s.core (s.course crs).core).bank = some crs →
    let t := s.leaveSup crs pc
    (t.course crs).sup = none ∧ ((t.course crs).slotN u.slot).pc = pc ∧
    ((t.course crs).slotN u.slot).mask = u.slotMask &&& (s.course crs).live ∧ ((t.course crs).slotN u.slot).wait = .none ∧
    (t.core (s.course crs).core).bank = none ∧ (∀ n L, (t.course crs).laneCell false n L = (s.course crs).laneCell false n L) ∧
    (∀ n, (t.course crs).unifCell false n = (s.course crs).unifCell false n) ∧ t.mem = s.mem ∧
    (∀ h, h ≠ crs → t.course h = s.course h)

/-- R112–R114, R156, R157, R190, R258–R260, R450: results land. Fixed-ALU results are written 4 cycles after their issue. A pending
word whose unit and memory have no earlier word outstanding lands: its registers are written and full, its flags are
ORed into FLG, and one of them that is enabled raises ARITH once the last part of the word has landed (by the TE of the moment
of landing, which is the model's choice, log 92); a local access is performed on its memory, lane by lane in ascending
order. -/
def Obligations.ResultsLand : Prop :=
  let alone := fun (s : State) (crs : Nat) (p : Pend) => ∀ q ∈ (s.course crs).pend, q.id ≠ p.id → q.turn ≠ p.turn
  let landed := fun (s : State) (crs : Nat) (p : Pend) (ls : List Landing) =>
    s.setCourse crs { (ls.foldl Course.land (s.course crs)) with
      pend := (s.course crs).pend.filter (fun q => q.id != p.id)
      flg := (s.course crs).flg ||| p.flags }
  (∀ (s : State) crs, (∀ j, ∀ n t, ((s.course crs).slotN j).wait ≠ .arith n t) →
    exec (.fixedAluWriteback crs) s = .next (s.onCourse crs (fun c =>
      { (c.alu.filter (fun w => decide (w.issued + 4 ≤ s.clock))).foldl (fun c w => c.applyAlu w.dst) c with
        alu := c.alu.filter (fun w => !decide (w.issued + 4 ≤ s.clock)) }))) ∧
  (∀ (s : State) crs p ls, (s.team (s.course crs).team).state ≠ .saved → alone s crs p →
    (s.course crs).pend.find? (fun q => q.id == p.id) = some p → p.kind = .values ls → s.mayLand crs p = true →
    (s.course crs).trapsOn p.flags = false → p.orphan = false →
    exec (.valueLands crs p.id) s = .next (landed s crs p ls)) ∧
  (∀ (s : State) crs p ls, (s.team (s.course crs).team).state ≠ .saved → alone s crs p →
    (s.course crs).pend.find? (fun q => q.id == p.id) = some p → p.kind = .values ls → s.mayLand crs p = true →
    (s.course crs).trapsOn p.flags = true → p.orphan = false → (s.course crs).taken p.slot = true →
    (s.course crs).sup = none → (s.course crs).reenter = none → ((s.course crs).slotN p.slot).wait = .none →
    exec (.valueLands crs p.id) s = .next ((landed s crs p ls).raise crs p.slot
      { code := 0x0A, after := true, pc := p.pc, info := p.flags.toNat, mask := p.act,
        resume := ((s.course crs).slotN p.slot).pc })) ∧
  (∀ (s : State) crs p ls, (s.team (s.course crs).team).state = .saved → alone s crs p →
    (s.course crs).pend.find? (fun q => q.id == p.id) = some p → p.kind = .values ls → s.mayLand crs p = true →
    (s.course crs).trapsOn p.flags = false → p.orphan = false →
    exec (.pendingValueLands crs p.id) s = .next (landed s crs p ls)) ∧
  (∀ (s : State) crs p sp op as, (s.team (s.course crs).team).state ≠ .saved → alone s crs p →
    (s.course crs).pend.find? (fun q => q.id == p.id) = some p → p.kind = .access sp op as → s.mayLand crs p = true →
    (s.course crs).trapsOn (p.flags ||| wordFlags p.sup (performAccess op (s.spaceBlock sp) as).2.2) = false →
    exec (.valueLands crs p.id) s = .next ((s.setSpace sp (performAccess op (s.spaceBlock sp) as).1).landPend crs p.id
      (performAccess op (s.spaceBlock sp) as).2.1
      (p.flags ||| wordFlags p.sup (performAccess op (s.spaceBlock sp) as).2.2)))

/-! ## Channels -/

/-- The conditions under which a channel word whose address in lane L is E sends: an active lane, the channel whole, the
counter that it names held, no poisoned source, every address aligned and in the address space, its pages writable. -/
def channelClear (i : Instr) (m : MWord) (ntf : Bool) (s : State) (x : Ctx) : Prop :=
  let c := s.issuer x
  let E := s.chanAddr x c m ntf
  x.act ≠ 0#32 ∧ (s.chan c.team m.ch.toNat).cause = 0 ∧ (ntf = true → MWord.counter m < (s.lrOf c).events) ∧
    s.poisoned c x i.fields = none ∧
    (∀ L ∈ lanesOf x.act, E L % (m.size.bytes : Int) = 0 ∧ 0 ≤ E L ∧ E L + m.size.bytes ≤ (2 ^ 52 : Nat)) ∧
    s.checkPages (s.ctxOf c) (x.trap 0) true ((lanesOf x.act).map (fun L => ⟨L, (E L).toNat, 2, .any⟩)) = .ok

/-- The lanes of a channel word with their addresses and homes. -/
def channelItems (m : MWord) (ntf : Bool) (s : State) (x : Ctx) : List Item :=
  (lanesOf x.act).map (fun L =>
    let va := (s.chanAddr x (s.issuer x) m ntf L).toNat
    ⟨L, va, (s.home (s.ctxOf (s.issuer x)) va).1, (s.home (s.ctxOf (s.issuer x)) va).2⟩)

/-- The packets of a channel word: each group's bodies in order, the notify with the last of each destination. -/
def channelPackets (s : State) (team ch : Nat) (ntf : Option Nat) (groups : List (Dest × List PacketBody)) : List OutPacket :=
  groups.flatMap (fun g => (markLast ntf g.2).zipIdx.map (fun b =>
    { pkt := { s.packetOf team ch g.1 b.1.1 with ntf := b.1.2 }, op := s.nextOpOf team, first := b.2 == 0, counter := ntf,
      told := if ntf.isSome then groups.map (fun g => g.1) else [] }))

/-- R293, R294, R298–R304: the channel words. A store or reduction whose lanes pass their checks and for which there is
room places its packets, cut at 256 bytes of data for each destination, takes the team's next operation number, and
sends what may be sent; .rel first merges the shadow copies and holds the channel until every earlier operation is
done. ATOMG also leaves its destinations empty; REDG.sh adds to shadow copies. Where a stream's window or the hold buffer
has no room the word cannot issue, and where it opens a stream and the stream table is full it waits for an entry; the
translations of its pages are held (R422). -/
def Obligations.ChannelWords : Prop :=
  let team := fun (s : State) (x : Ctx) => (s.issuer x).team
  let fill := fun (m : MWord) (ntf : Bool) (s : State) (x : Ctx) =>
    s.tlbFill (s.ctxOf (s.issuer x)) ((channelItems m ntf s x).map (fun i => i.va))
  let rel := fun (r : Bool) (m : MWord) (s : State) (x : Ctx) => if r then s.release (team s x) m.ch.toNat else s
  let data := fun (m : MWord) (s : State) (x : Ctx) (L : Nat) => s.laneGroup (s.issuer x) x.sup m.ds.toNat m.size.regs L
  let ask := fun (m : MWord) (ntf : Bool) => if ntf then some (MWord.counter m) else none
  let sizes := fun (g : State → Ctx → List (Dest × List PacketBody)) (s : State) (x : Ctx) =>
    (g s x).map (fun y => (y.1, y.2.length))
  let room := fun (m : MWord) (r ntf : Bool) (g : State → Ctx → List (Dest × List PacketBody)) (s : State) (x : Ctx) =>
    (fill m ntf s x).roomFor (team s x) m.ch.toNat r (sizes g s x)
  let vas := fun (g : State → Ctx → List (Dest × List PacketBody)) (s : State) (x : Ctx) =>
    (g s x).flatMap (fun y => y.2.flatMap (fun b => (packetElems b).map (fun e => e.1)))
  let waits := fun (i : Instr) (m : MWord) (r ntf : Bool) (g : State → Ctx → List (Dest × List PacketBody)) =>
    DoesIf i m.head (fun _ x => x.act = 0#32) (fun s x => s.went x) ∧
    DoesIf i m.head (fun s x => channelClear i m ntf s x ∧ room m r ntf g s x = false ∧
        (fill m ntf s x).entriesFor (team s x) m.ch.toNat (sizes g s x) = true) (fun s x => s.heldPast x (vas g s x) false) ∧
    DoesIf i m.head (fun s x => channelClear i m ntf s x ∧
        (fill m ntf s x).entriesFor (team s x) m.ch.toNat (sizes g s x) = false) (fun s x => s.heldPast x (vas g s x) true)
  let plain := fun (i : Instr) (m : MWord) (r ntf : Bool) (g : State → Ctx → List (Dest × List PacketBody)) =>
    waits i m r ntf g ∧
    DoesIf i m.head (fun s x => channelClear i m ntf s x ∧ room m r ntf g s x = true) (fun s x =>
      let t := rel r m (fill m ntf s x) (s.wordCtx m.head)
      (((t.placePackets (team s x) m.ch.toNat (channelPackets t (team s x) m.ch.toNat (ask m ntf) (g s x))).bumpOp
        (team s x)).pump (team s x)).went x)
  let stores := fun (m : MWord) (ntf : Bool) (s : State) (x : Ctx) =>
    (byDest (fun i => i.dest) (mergeStores (channelItems m ntf s x))).map (fun g =>
      (g.1, (cutRun m.size.bytes g.2).map (fun l => PacketBody.store (l.map (fun i =>
        ⟨i.va, i.pa, bytesOf m.size.bytes (data m s x i.lane), false⟩)))))
  let sums := fun (m : MWord) (op : RedgOp) (ntf : Bool) (s : State) (x : Ctx) =>
    (byDest (fun i => i.dest) (channelItems m ntf s x)).map (fun g =>
      (g.1, (cutRun m.size.bytes g.2).map (fun l => PacketBody.reduce op m.size.bytes (l.map (fun i =>
        ⟨i.va, i.pa, i.lane, data m s x i.lane % 2 ^ (8 * m.size.bytes), 0⟩)))))
  let atoms := fun (m : MWord) (op : AtomOp) (ntf : Bool) (s : State) (x : Ctx) =>
    (byDest (fun i => i.dest) (channelItems m ntf s x)).map (fun g =>
      (g.1, (cutRun (if op = .cas then 2 * m.size.bytes else m.size.bytes) g.2).map (fun l =>
        PacketBody.atom op m.size.bytes m.ds.toNat (s.atomElems x (s.issuer x) m op l))))
  let shadows := fun (m : MWord) (op : RedgOp) (s : State) (x : Ctx) =>
    (channelItems m false s x).foldl (fun (t : Option State) i => t.bind (fun t =>
      t.shadowAdd (team s x) m.ch.toNat op m.size.bytes i.va i.pa i.dest (data m s x i.lane % 2 ^ (8 * m.size.bytes))))
      (some (fill m false s x))
  let ones := fun (m : MWord) (s : State) (x : Ctx) => (channelItems m false s x).map (fun i => (i.dest, 1))
  (∀ m r ntf, plain (.stg m r ntf) m r ntf (stores m ntf)) ∧
  (∀ m op r ntf, plain (.redg m op r ntf) m r ntf (sums m op ntf)) ∧
  (∀ m op r ntf, waits (.atomg m op r ntf) m r ntf (atoms m op ntf)) ∧
  (∀ m op r ntf, DoesIf (.atomg m op r ntf) m.head
    (fun s x => channelClear (.atomg m op r ntf) m ntf s x ∧ room m r ntf (atoms m op ntf) s x = true)
    (fun s x =>
      let t := rel r m (fill m ntf s x) (s.wordCtx m.head)
      let y := (channelPackets t (team s x) m.ch.toNat (ask m ntf) (atoms m op ntf s x)).foldl
        (fun (a : State × List OutPacket) q =>
          match q.pkt.body with
          | .atom _ _ _ es =>
            (a.1.addPend x .other .remote ((List.range m.size.regs).map (fun i =>
              (⟨x.sup, true, m.ds.toNat + i⟩, maskOfLanes (es.map (fun e => e.lane))))) 0#32 0#32,
             a.2 ++ [{ q with atomg := some (x.crs, (a.1.course x.crs).nextPend, m.ds.toNat) }])
          | _ => (a.1, a.2 ++ [q])) (t, [])
      (((y.1.placePackets (team s x) m.ch.toNat y.2).bumpOp (team s x)).pump (team s x)).went x)) ∧
  (∀ m op, DoesIf (.redgSh m op) m.head (fun _ x => x.act = 0#32) (fun s x => s.went x)) ∧
  (∀ m op t, DoesIf (.redgSh m op) m.head
    (fun s x => channelClear (.redgSh m op) m false s x ∧ shadows m op s x = some t) (fun s x =>
      ((t.onChan (team s x) m.ch.toNat (fun c =>
        { c with lastDest := (byDest (fun i => i.dest) (channelItems m false s x)).getLast?.map (fun g => g.1) })).pump
          (team s x)).went x)) ∧
  (∀ m op, DoesIf (.redgSh m op) m.head
    (fun s x => channelClear (.redgSh m op) m false s x ∧ shadows m op s x = none ∧
      s.entriesFor (team s x) m.ch.toNat (ones m s x) = true)
    (fun s x => s.heldPast x ((channelItems m false s x).map (fun i => i.va)) false)) ∧
  (∀ m op, DoesIf (.redgSh m op) m.head
    (fun s x => channelClear (.redgSh m op) m false s x ∧ shadows m op s x = none ∧
      s.entriesFor (team s x) m.ch.toNat (ones m s x) = false)
    (fun s x => s.heldPast x ((channelItems m false s x).map (fun i => i.va)) true))

/-- R300, R422, R501: the checks of a channel word in their order: a broken channel, the counter of a notify, poison, alignment
and the address space, each for the lowest lane, and its pages. A page that is being moved makes the word wait. -/
def Obligations.ChannelChecks : Prop :=
  ∀ (m : MWord) (i : Instr) (ntf : Bool), (∃ r, i = .stg m r ntf) ∨ (∃ op r, i = .atomg m op r ntf) ∨
      (∃ op r, i = .redg m op r ntf) ∨ (ntf = false ∧ ∃ op, i = .redgSh m op) →
    let ch := m.ch.toNat
    let c := fun (s : State) (x : Ctx) => s.chan (s.issuer x).team ch
    let E := fun (s : State) (x : Ctx) => s.chanAddr x (s.issuer x) m ntf
    let held := fun (s : State) (x : Ctx) => ntf = true → MWord.counter m < (s.lrOf (s.issuer x)).events
    DoesIf i m.head (fun s x => x.act ≠ 0#32 ∧ (c s x).cause ≠ 0) (fun s x =>
      s.trapped x { x.trap 0x11 with addr := (c s x).addr, info := ch + 16 * (c s x).cause }) ∧
    DoesIf i m.head (fun s x => x.act ≠ 0#32 ∧ (c s x).cause = 0 ∧ ¬ held s x) (fun s x => s.trapped x x.illegalOperand) ∧
    (∀ p, DoesIf i m.head (fun s x => x.act ≠ 0#32 ∧ (c s x).cause = 0 ∧ held s x ∧
        s.poisoned (s.issuer x) x i.fields = some p) (fun s x => s.trapped x (x.dataError p))) ∧
    (∀ L, DoesIf i m.head (fun s x => x.act ≠ 0#32 ∧ (c s x).cause = 0 ∧ held s x ∧
        s.poisoned (s.issuer x) x i.fields = none ∧
        (lanesOf x.act).find? (fun L => E s x L % (m.size.bytes : Int) ≠ 0) = some L)
      (fun s x => s.trapped x (x.addrTrap 0x08 0 L (intBits (E s x L) 64) 0))) ∧
    (∀ L, DoesIf i m.head (fun s x => x.act ≠ 0#32 ∧ (c s x).cause = 0 ∧ held s x ∧
        s.poisoned (s.issuer x) x i.fields = none ∧ (∀ l ∈ lanesOf x.act, E s x l % (m.size.bytes : Int) = 0) ∧
        (lanesOf x.act).find? (fun L => E s x L < 0 || decide ((2 ^ 52 : Int) < E s x L + m.size.bytes)) = some L)
      (fun s x => s.trapped x (x.addrTrap 0x07 2 L (intBits (E s x L) 64) 1))) ∧
    (let pages := fun (s : State) (x : Ctx) => s.lookPages (s.ctxOf (s.issuer x)) (x.trap 0) true
       ((lanesOf x.act).map (fun L => ⟨L, (E s x L).toNat, 2, .any⟩))
     let before := fun (s : State) (x : Ctx) => x.act ≠ 0#32 ∧ (c s x).cause = 0 ∧ held s x ∧
       s.poisoned (s.issuer x) x i.fields = none ∧
       ∀ L ∈ lanesOf x.act, E s x L % (m.size.bytes : Int) = 0 ∧ 0 ≤ E s x L ∧ E s x L + m.size.bytes ≤ (2 ^ 52 : Nat)
     (∀ t, DoesIf i m.head (fun s x => before s x ∧ (pages s x).res = .trap t) (fun s x => s.trappedPast x (pages s x).vas t)) ∧
     DoesIf i m.head (fun s x => before s x ∧ (pages s x).res = .wait) (fun s x => s.heldPast x (pages s x).vas false))

/-- R306–R311, R314–R316, R422: CJOIN, CDRAIN, CRESET, CSTAT, the event-counter words and LOCQ, which looks its pages up and
waits for one that is being moved. -/
def Obligations.ChannelControl : Prop :=
  let team := fun (s : State) (x : Ctx) => (s.issuer x).team
  let ch := fun (r : RWord) => r.a.field.toNat
  let always := fun (_ : State) (_ : Ctx) => True
  let chans := fun (o : Operand) (s : State) (x : Ctx) => maskChannels (s.usrc x o % 2 ^ 16) (s.lrOf (s.issuer x)).chans
  let mask := fun (l : List Nat) => l.foldl (fun a k => a + 2 ^ k) 0
  let own := fun (r : RWord) (s : State) (x : Ctx) => s.usrc x r.a < (s.lrOf (s.issuer x)).events
  let asked := fun (r : RWord) (s : State) (x : Ctx) =>
    ((computing r.u x.act).map (fun L => s.src x r.a 2 L)).filter (fun E => decide (E < 2 ^ 52))
  let ctr := fun (r : RWord) (s : State) (x : Ctx) => s.event (dieOf (s.issuer x).core) (s.ctxOf (s.issuer x)) (s.usrc x r.a)
  (∀ r, DoesIf (.cjoin r) r.head
    (fun s x => x.act ≠ 0#32 ∧ ∀ k, (k = ch r ∨ k ∈ chans r.b s x) → k < 16 → (s.chan (team s x) k).cause = 0)
    (fun s x => (s.onChan (team s x) (ch r) (fun c =>
      { c with gates := c.gates ++ [⟨s.nextOpOf (team s x), mask (chans r.b s x)⟩] })).went x)) ∧
  (∀ r scope sc, DoesIf (.cdrain r scope sc) r.head (fun _ x => x.act = 0#32) (fun s x => s.went x)) ∧
  (∀ r scope sc, DoesIf (.cdrain r scope sc) r.head (fun _ x => x.act ≠ 0#32) (fun s x =>
    let t := if Scope.merges scope then (s.mergeAll (team s x)).pump (team s x) else s
    t.waits x (.cdrain (mask (chans r.a s x)) (t.nextOpOf (team s x)) sc (Scope.merges scope)))) ∧
  (∀ r, DoesIf (.creset r) r.head
    (fun s x => x.act ≠ 0#32 ∧ (s.chan (team s x) (ch r)).busyBelow (s.nextOpOf (team s x)) = false)
    (fun s x => (s.resetChan (team s x) (ch r)).went x)) ∧
  (∀ r, DoesIf (.creset r) r.head
    (fun s x => x.act ≠ 0#32 ∧ (s.chan (team s x) (ch r)).busyBelow (s.nextOpOf (team s x)) = true)
    (fun s x => (s.onChan (team s x) (ch r) (fun c => { c with resetting := true })).waits x
      (.creset (ch r) (s.nextOpOf (team s x))))) ∧
  (∀ r, LateDoes (.cstat r) r.head .other always (fun s _ => s) true r.d 1 (fun _ _ => 0#32)
    (fun s x _ => (s.chan (team s x) (ch r)).status) (fun _ _ => 0#32)) ∧
  (∀ r, LateDoes (.cstatAddr r) r.head .other always (fun s _ => s) true r.d 2 (fun _ _ => 0#32)
    (fun s x _ => (s.chan (team s x) (ch r)).addr) (fun _ _ => 0#32)) ∧
  (∀ r, LateDoes (.cstatWhere r) r.head .other always (fun s _ => s) true r.d 1 (fun _ _ => 0#32)
    (fun s x _ => destWord (if (s.chan (team s x) (ch r)).cause ≠ 0 then (s.chan (team s x) (ch r)).brokenAt
      else (s.chan (team s x) (ch r)).lastDest)) (fun _ _ => 0#32)) ∧
  (∀ r, DoesIf (.evwait r) r.head (fun s x => x.act ≠ 0#32 ∧ own r s x ∧ s.src x r.b 2 0 ≤ ctr r s x) (fun s x =>
    (s.acquire (team s x)).went x)) ∧
  (∀ r, DoesIf (.evwait r) r.head (fun s x => x.act ≠ 0#32 ∧ own r s x ∧ ctr r s x < s.src x r.b 2 0) (fun s x =>
    s.waits x (.evwait (s.usrc x r.a) (s.src x r.b 2 0)))) ∧
  (∀ r, LateDoes (.evwaitRd r) r.head .other (own r) (fun s _ => s) true r.d 2 (fun _ _ => 0#32)
    (fun s x _ => ctr r s x) (fun _ _ => 0#32)) ∧
  (∀ r, DoesIf (.evadd r) r.head (fun s x => x.act ≠ 0#32 ∧ own r s x) (fun s x =>
    (s.setEvent (dieOf (s.issuer x).core) (s.ctxOf (s.issuer x)) (s.usrc x r.a) (ctr r s x + s.usrc x r.b)).went x)) ∧
  (∀ i (r : RWord), i = .evwait r ∨ i = .evwaitRd r ∨ i = .evadd r →
    DoesIf i r.head (fun s x => x.act ≠ 0#32 ∧ ¬ own r s x) (fun s x => s.trapped x x.illegalOperand)) ∧
  (∀ r, LateDoes (.locq r) r.head .other
    (fun s x => ∀ E ∈ asked r s x, s.translate (s.ctxOf (s.issuer x)) E ≠ .wait)
    (fun s x => s.tlbFill (s.ctxOf (s.issuer x)) (asked r s x)) r.u r.d 1 (fun _ _ => 0#32)
    (fun s x L => s.location (s.ctxOf (s.issuer x)) (s.src x r.a 2 L)) (fun _ _ => 0#32)) ∧
  (∀ r, DoesIf (.locq r) r.head
    (fun s x => x.act ≠ 0#32 ∧ ∃ E ∈ asked r s x, s.translate (s.ctxOf (s.issuer x)) E = .wait)
    (fun s x => s.heldPast x (asked r s x) false))

/-- R307, R310, R316: the waits of CDRAIN, EVWAIT and CRESET end: CDRAIN when every named operation is done, with a
channel trap where a named channel is broken; EVWAIT when its counter has reached the value; CRESET when no operation of its
channel is outstanding, each time that operations of its team have been settled. -/
def Obligations.ChannelWakes : Prop :=
  (∀ (s : State) crs j mask upto sc mg, ((s.course crs).slotN j).wait = .cdrain mask upto sc mg →
    s.running (s.course crs) = true → (s.team (s.course crs).team).drained mask upto mg = true →
    s.lowestBroken (s.course crs).team (maskChannels mask 16) = none →
    exec (.cdrainComplete crs j) s = .next ((if sc then s.acquire (s.course crs).team else s).advance crs j
      ((s.course crs).slotN j).act)) ∧
  (∀ (s : State) crs j mask upto sc mg k, ((s.course crs).slotN j).wait = .cdrain mask upto sc mg →
    s.running (s.course crs) = true → (s.team (s.course crs).team).drained mask upto mg = true →
    s.lowestBroken (s.course crs).team (maskChannels mask 16) = some k →
    let c := s.chan (s.course crs).team k
    let t : TrapRec := { code := if c.cause = 3 ∨ c.cause = 4 then 0x10 else 0x0F, pc := ((s.course crs).slotN j).pc,
                         resume := ((s.course crs).slotN j).pc, mask := ((s.course crs).slotN j).act,
                         inSup := (s.course crs).supIn j, addr := c.addr, info := k + 16 * c.cause }
    exec (.cdrainComplete crs j) s = .next ((s.noteTrap crs t).raise crs j t)) ∧
  (∀ (s : State) crs j mask upto sc mg, ((s.course crs).slotN j).wait = .cdrain mask upto sc mg →
    (s.team (s.course crs).team).drained mask upto mg = false → exec (.cdrainComplete crs j) s = .next s) ∧
  (∀ (s : State) crs j k v, ((s.course crs).slotN j).wait = .evwait k v → s.running (s.course crs) = true →
    v ≤ s.event (dieOf (s.course crs).core) (s.ctxOf (s.course crs)) k →
    exec (.evwaitWake crs j) s = .next ((s.acquire (s.course crs).team).advance crs j ((s.course crs).slotN j).act)) ∧
  (∀ (s : State) crs j k v, ((s.course crs).slotN j).wait = .evwait k v →
    s.event (dieOf (s.course crs).core) (s.ctxOf (s.course crs)) k < v → exec (.evwaitWake crs j) s = .next s) ∧
  (∀ (s : State) crs j ch n, j < 2 → ((s.course crs).slotN j).wait = .creset ch n →
    (∀ k m, ((s.course crs).slotN (1 - j)).wait ≠ .creset k m) → let team := (s.course crs).team
    ((s.chan team ch).busyBelow (s.team team).opSeq = false →
      s.wakeReset crs = (s.resetChan team ch).advance crs j ((s.course crs).slotN j).act) ∧
    ((s.chan team ch).busyBelow (s.team team).opSeq = true → s.wakeReset crs = s)) ∧
  (∀ (s : State) team crs, ((s.pump team).team team).state = .running → ((s.pump team).team team).courses = [crs] →
    s.afterSettle team = (s.pump team).wakeReset crs) ∧
  (∀ (s : State) team ch, let c := (s.resetChan team ch).chan team ch
    c.cause = 0 ∧ c.addr = 0 ∧ c.brokenAt = none ∧ c.lastDest = none ∧ c.resetting = false)

/-- R294–R297, R302–R304, R312–R320: what comes back to a channel, at the package whose team has the stream: an
acknowledgement retires packets; a refusal of the oldest packet breaks the channel, or retries, or has the packet sent again
to the page's new home; an idle stream closes; a packet unanswered for 50 µs starts the handshake. -/
def Obligations.ChannelReturns : Prop :=
  let st := fun (s : State) (k : StreamKey) => (s.chan k.team k.ch).stream k.dest
  let taken := fun (s : State) (m : NetMsg) => { s with net := s.net.erase m }
  let lives := fun (s : State) (k : StreamKey) => s.ownStream k = true ∧ (s.team k.team).state ≠ .saved
  let due := fun (s : State) (q : OutPacket) => q.retryAt.any (fun n => n ≤ s.clock)
  let homed := fun (x : Bool) (y : Stream) => if x then { y with rehome := false, old := [] } else y
  let leaves := fun (s : State) (y : Stream) (q : OutPacket) =>
    NetMsg.packet { q.pkt with die := dieOf (s.team q.pkt.key.team).core, core := (s.team q.pkt.key.team).core % 160,
                               rehome := y.rehome }
  let refused := fun (s : State) (r : NetRefusal) (q : OutPacket) =>
    NetMsg.refusal r ∈ s.net ∧ s.ownStream r.key = true ∧ s.refusedPacket r = some q
  (∀ (s : State) a, NetMsg.ack a ∈ s.net → a.key.chip = s.chip → s.ownStream a.key = true →
    exec (.acknowledgementArrival a) s =
      .next (((taken s (.ack a)).ackStream a.key a.gen a.upto a.olds).afterSettle a.key.team)) ∧
  (∀ (s : State) k gen upto olds q, q ∈ (st (s.ackStream k gen upto olds) k).pkts →
    ¬ (q.sentAt.isSome = true ∧ q.moved = false ∧ q.pkt.gen = gen ∧ seqUpto q.pkt.seq upto = true)) ∧
  (∀ (s : State) r q, refused s r q → r.moved = false → r.retry = true →
    exec (.refusalArrival r) s = .next ((taken s (.refusal r)).onRefused r (fun q =>
      [{ q with retryAt := some (s.clock + 800) }]))) ∧
  (∀ (s : State) r q, refused s r q → r.moved = false → r.retry = false → (st s r.key).oldest = some q →
    exec (.refusalArrival r) s = .next (((((((taken s (.refusal r)).breakChan 16 r.key.team r.key.ch r.cause r.addr
      (some r.key.dest)).onRefused r (fun _ => [])).refuseOne q).onChan r.key.team r.key.ch (fun c =>
        c.noteDone r.key.dest ((((taken s (.refusal r)).breakChan 16 r.key.team r.key.ch r.cause r.addr
          (some r.key.dest)).onRefused r (fun _ => [])).refuseOne q).stamp))).afterSettle r.key.team)) ∧
  (∀ (s : State) r q, refused s r q → r.moved = false → r.retry = false → (st s r.key).oldest ≠ some q →
    exec (.refusalArrival r) s = .next { s with net := s.net.erase (.refusal r) ++ [.refusal r] }) ∧
  (∀ (s : State) r q, refused s r q → r.moved = true →
    exec (.movedRefusal r) s = .next (((taken s (.refusal r)).onRefused r (fun q => [{ q with moved := true }])).onChan
      r.key.team r.key.ch (fun c => { c.onStream r.key.dest (fun y =>
        { y with resync := if y.oldest.isSome then y.resync else none }) with paused := true }))) ∧
  (∀ (s : State) k, lives s k → exec (.openRetry k) s = .next
    { s.onChan k.team k.ch (fun c => c.onStream k.dest (fun y => homed (!((st s k).pkts.filter (due s)).isEmpty)
        { y with pkts := y.pkts.map (fun q => if due s q then { q with retryAt := none, sentAt := some s.clock } else q) })) with
      net := s.net ++ ((st s k).pkts.filter (due s)).map (leaves s (st s k)) }) ∧
  (∀ (s : State) k, k.chip = s.chip → (s.team k.team).state ≠ .saved → (s.team k.team).state ≠ .halting →
    (st s k).opened = true → (st s k).pkts = [] →
    ((st s k).idleSince + 1600 ≤ s.clock ∨
      (256 ≤ s.streamsOn (s.team k.team).core ∧ s.entryWanted (s.team k.team).core = true)) →
    exec (.streamClose k) s = .next ((s.teams.keys (fun _ u => u.core == (s.team k.team).core)).foldl State.pump
      { s.onChan k.team k.ch (fun c => c.onStream k.dest (fun y =>
          { y with opened := false, gen := (y.gen + 1) % 256, nextSeq := 0, resync := none, rehome := false, old := [] })) with
        net := s.net ++ [.packet { s.packetOf k.team k.ch k.dest .close with
          gen := (st s k).gen, seq := (st s k).nextSeq, rehome := (st s k).rehome }] })) ∧
  (∀ (s : State) k q n, lives s k → (st s k).resync = none → (st s k).oldest = some q → q.sentAt = some n →
    n + 40000 ≤ s.clock → q.retryAt = none →
    exec (.resyncTimer k) s = .next ((s.sendResync k 1).count 1 (dieOf (s.team k.team).core) 6 1)) ∧
  (∀ (s : State) k n q, (st s k).oldest = some q → s.sendResync k n =
    { s.onChan k.team k.ch (fun c => c.onStream k.dest (fun y =>
        { y with resync := some (n, s.clock), rehome := false, old := [] })) with
      net := s.net ++ [.packet { s.packetOf k.team k.ch k.dest (.resync q.pkt.seq) with
        gen := (st s k).gen, seq := (st s k).nextSeq, rehome := (st s k).rehome }] }) ∧
  (∀ (s : State) k n, (st s k).oldest = none →
    s.sendResync k n = s.onChan k.team k.ch (fun c => c.onStream k.dest (fun y => { y with resync := none }))) ∧
  (∀ (s : State) k n sent, lives s k → (st s k).resync = some (n, sent) → sent + 16000 ≤ s.clock → n < 3 →
    exec (.resyncTimeout k) s = .next (s.sendResync k (n + 1))) ∧
  (∀ (s : State) k sent, lives s k → (st s k).resync = some (3, sent) → sent + 16000 ≤ s.clock →
    ∃ u, u = (st s k).outstanding.foldl State.refuseOne (s.breakChan 16 k.team k.ch 4
        (((st s k).oldest.map (fun q => packetAddr q.pkt)).getD 0) (some k.dest)) ∧
      exec (.resyncTimeout k) s = .next ((u.onChan k.team k.ch (fun c => (c.onStream k.dest (fun y =>
        { y with pkts := y.pkts.filter (fun q => q.sentAt.isNone), resync := none })).noteDone k.dest u.stamp)).afterSettle
          k.team)) ∧
  (∀ (s : State) r, NetMsg.resyncAck r ∈ s.net → s.ownStream r.key = true → (st s r.key).resync ≠ none →
    (st s r.key).gen = r.gen → r.stopped = none → r.key.chip = s.chip → (s.team r.key.team).state ≠ .saved →
    ∃ u, u = ((taken s (.resyncAck r)).ackStream r.key r.gen ((r.next + 2 ^ 16 - 1) % 2 ^ 16) r.olds).onChan r.key.team r.key.ch
        (fun c => c.onStream r.key.dest (fun y => { y with resync := none })) ∧
      (let again := ((st u r.key).outstanding.filter (fun q => !q.moved)).map (leaves u (st u r.key))
       exec (.resyncAck r) s = .next (({ u.onChan r.key.team r.key.ch (fun c => c.onStream r.key.dest (fun y =>
          homed (!again.isEmpty)
            { y with pkts := y.pkts.map (fun q => if q.sentAt.isSome then { q with sentAt := some u.clock } else q) })) with
        net := u.net ++ again } : State).afterSettle r.key.team))) ∧
  (∀ (s : State) r, NetMsg.resyncAck r ∈ s.net → s.ownStream r.key = true → (st s r.key).resync ≠ none →
    (st s r.key).gen = r.gen → r.stopped = none → r.key.chip = s.chip → (s.team r.key.team).state = .saved →
    ∃ u, u = ((taken s (.resyncAck r)).ackStream r.key r.gen ((r.next + 2 ^ 16 - 1) % 2 ^ 16) r.olds).onChan r.key.team r.key.ch
        (fun c => c.onStream r.key.dest (fun y => { y with resync := none })) ∧
      exec (.resyncAck r) s = .next (u.onChan r.key.team r.key.ch (fun c => c.onStream r.key.dest (fun y =>
        { y with resync := if y.oldest.isSome then some (0, 0) else none })))) ∧
  (∀ (s : State) team ch, (s.chan team ch).paused = true → (s.team team).state = .running →
    (∀ y ∈ (s.chan team ch).streams, ∀ q ∈ y.pkts, ¬ (q.sentAt.isSome = true ∧ q.moved = false)) →
    (∀ q ∈ (s.chan team ch).movedPackets, ∀ e ∈ packetElems q.pkt.body, s.walkWaits (s.gridOf team).ctx e.1 = false) →
    let qs := (s.chan team ch).movedPackets
    let v := (s.forgetMoved qs).onChan team ch (fun c => { c with paused := false })
    let parts := qs.flatMap (fun q => (v.rehomePacket (s.gridOf team).ctx q.pkt).map (fun p => (q, p)))
    let u := v.onChan team ch (fun c => { c with streams := c.streams.map Stream.withoutMoved })
    let new := parts.filterMap (fun p => p.2.1.map (fun d =>
      (p.1, { p.1.reissued d p.2.2 with first := !p.1.told.contains d || (p.1.first && d == p.1.pkt.key.dest) })))
    (∀ p ∈ parts, p.2.1 ≠ none) →
    exec (.movedReissue team ch) s = .next (((qs.foldl (fun r q => insertNat r q.op) []).foldl (fun (t : State) n =>
        t.onChan team ch (fun c => c.renotify (qs.filter (fun q => q.op == n))
          ((new.filter (fun p => p.1.op == n)).map (fun p => p.2))))
      (new.foldl (fun (t : State) p => t.onChan team ch (fun c => (c.readsMoved p.1 p.2 t.stamp).onStream p.2.pkt.key.dest
        (fun y => { y with pkts := insertByOp p.2 y.pkts }))) u)).afterSettle team)) ∧
  (∀ (s : State) team ch q b e, (s.chan team ch).paused = true → (s.team team).state = .running →
    (∀ y ∈ (s.chan team ch).streams, ∀ q ∈ y.pkts, ¬ (q.sentAt.isSome = true ∧ q.moved = false)) →
    (∀ q ∈ (s.chan team ch).movedPackets, ∀ e ∈ packetElems q.pkt.body, s.walkWaits (s.gridOf team).ctx e.1 = false) →
    let qs := (s.chan team ch).movedPackets
    let v := (s.forgetMoved qs).onChan team ch (fun c => { c with paused := false })
    let parts := qs.flatMap (fun q => (v.rehomePacket (s.gridOf team).ctx q.pkt).map (fun p => (q, p)))
    parts.find? (fun p => p.2.1.isNone) = some (q, none, b) → (packetElems b).head? = some e →
    exec (.movedReissue team ch) s = .next ((v.breakChan 16 team ch
      (match v.walk (s.gridOf team).ctx e.1 with
        | .leaf l => if leafLost l then 6 else 2
        | _ => 2) e.1 (some q.pkt.key.dest)).afterSettle team)) ∧
  (∀ (s : State) team line sh, (s.team team).shadows.find? (fun x => x.line == line) = some sh →
    ((s.team team).state = .running → 1024 ≤ s.shadowsIn sh.die sh.slice) →
    exec (.shadowMerge team line) s = .next ((s.mergeShadow team sh).pump team))

/-- R293, R295–R297, R301, R305, R306, R312, R316, R318, R320, R420, R502: what arrives at a stream's destination in this
package. A packet in order whose elements may all be accessed is applied, at once or in two parts (R293); one that may not
stops the stream; one that has been applied is acknowledged again and dropped, whatever has become of the stream; one ahead
of its turn is held; resets, closes and RESYNCs are answered. What becomes of a stream whose CLOSE has come is the model's
reading of R295 and R296 (log 95). -/
def Obligations.StreamDestination : Prop :=
  let here := fun (s : State) (p : Packet) => p.key.dest.chip = s.chip ∧ p.key.dest.host = false ∧ NetMsg.packet p ∈ s.net
  let taken := fun (s : State) (p : Packet) => { s with net := s.net.erase (.packet p) }
  let shut := fun (s : State) (p : Packet) (g : Ingress) => s.ingressOf p.key = some g ∧ g.closed = true ∧ g.part ≠ some p
  let mine := fun (g : Ingress) (p : Packet) => p.rehome = false ∧ p.gen = g.gen
  let awaits := fun (g : Ingress) (p : Packet) => mine g p ∧ p.seq = g.next ∧ g.stopped = none ∧ g.part = none
  let expected := fun (s : State) (g : Ingress) (p : Packet) => isData p.body = true ∧ s.ingressOf p.key = some g ∧
    g.closed = false ∧ p.key.dest.chip = s.chip ∧ awaits g p ∧ NetMsg.packet p ∈ s.net
  (∀ (s : State) p g, here s p → isData p.body = true → s.ingressOf p.key = some g → g.closed = false → g.part ≠ some p →
    exec (.packetArrival p) s = .next ((taken s p).admitPacket g p)) ∧
  (∀ (s : State) p, here s p → isData p.body = true → s.ingressOf p.key = none → s.ingressOn p.key.dest.die < 8192 →
    exec (.packetArrival p) s = .next ((taken s p).admitPacket (openIngress p) p)) ∧
  (∀ (s : State) p, here s p → isData p.body = true → s.ingressOf p.key = none → 8192 ≤ s.ingressOn p.key.dest.die →
    exec (.packetArrival p) s = .next ((taken s p).refusePacket p 0 (packetAddr p) false true)) ∧
  (∀ (s : State) p g, here s p → isData p.body = true → shut s p g → genOlder g.gen p.gen = true →
    s.ingressOn p.key.dest.die < 8192 →
    exec (.packetArrival p) s = .next ((taken s p).admitPacket (openIngress p) p)) ∧
  (∀ (s : State) p g, here s p → isData p.body = true → shut s p g → genOlder g.gen p.gen = false →
    exec (.packetArrival p) s = .next (taken s p)) ∧
  (∀ (s : State) p g, p.key.dest.chip = s.chip → p.key.dest.host = false → isData p.body = true →
    s.ingressOf p.key = some g → g.part = some p →
    exec (.packetArrival p) s = .next (s.ingest g.held.length true g p)) ∧
  (∀ (s : State) g p, awaits g p → g.held = [] → s.verdict p = .apply → s.pieceOf p = bodySize p.body →
    let g' := { g.applied (s.applyPacket p).2 with part := none }
    s.admitPacket g p = (((s.applyPacket p).1.notify p).setIngress g').sendAck g') ∧
  (∀ (s : State) g p, awaits g p → s.verdict p = .apply → s.pieceOf p < bodySize p.body →
    let b := cutBody (s.pieceOf p) p.body
    let r := s.applyPacket { p with body := b.1 }
    s.admitPacket g p = r.1.setIngress { g with part := some { p with body := b.2 }, olds := g.olds ++ r.2 }) ∧
  (∀ (s : State) g p cause record addr, awaits g p → s.verdict p = .refuse cause record addr →
    s.admitPacket g p = s.stopStream g p cause record addr) ∧
  (∀ (s : State) g p, awaits g p → s.verdict p = .moved → s.admitPacket g p = s.moveStream g p) ∧
  (∀ (s : State) g p, mine g p → g.hasApplied p.seq = true → s.admitPacket g p = (s.setIngress g).sendAck g) ∧
  (∀ (s : State) g p cause, mine g p → g.hasApplied p.seq = false → g.stopped = some cause →
    s.admitPacket g p = (s.setIngress g).refusePacket p cause (packetAddr p) false false) ∧
  (∀ (s : State) g p, mine g p → g.hasApplied p.seq = false → g.stopped = none → p.seq ≠ g.next → g.moved = false →
    (∀ q ∈ g.held, ¬ (q.gen = p.gen ∧ q.seq = p.seq)) →
    s.admitPacket g p = (s.setIngress { g with held := g.held ++ [p] }).count 1 g.key.dest.die 5 1) ∧
  (∀ (s : State) g p, genOlder p.gen g.gen = true → s.admitPacket g p = s) ∧
  (∀ (s : State) p, p.key.dest.chip = s.chip → NetMsg.packet p ∈ s.net → p.body = .reset → p.rehome = false →
    let g := (s.ingressOf p.key).getD (openIngress p)
    genOlder p.gen g.gen = false → ¬ (g.closed = true ∧ p.gen = g.gen) →
    exec (.streamReset p) s = .next ((taken s p).resume { g with
      gen := p.gen, next := p.seq, stopped := none, moved := false, closed := false, part := none
      held := g.held.filter (fun q => !genOlder q.gen p.gen) })) ∧
  (∀ (s : State) p g, p.key.dest.chip = s.chip → NetMsg.packet p ∈ s.net → p.body = .close → s.ingressOf p.key = some g →
    genOlder p.gen g.gen = false → g.closed = false → (∀ q ∈ g.held, genOlder p.gen q.gen = false) →
    exec (.closeArrival p) s = .next ((taken s p).setIngress
      { g with gen := p.gen, closed := true, held := [], olds := [], stopped := none, moved := false, part := none })) ∧
  (∀ (s : State) p g u, p.key.dest.chip = s.chip → NetMsg.packet p ∈ s.net → p.body = .resync u → p.rehome = false →
    s.ingressOf p.key = some g → g.gen = p.gen →
    exec (.resync p) s = .next { (taken s p).setIngress g with
      net := s.net.erase (.packet p) ++ [.resyncAck ⟨p.key, g.gen, g.next, g.olds, g.stopped⟩] }) ∧
  (∀ (s : State) p g u, p.key.dest.chip = s.chip → NetMsg.packet p ∈ s.net → p.body = .resync u → p.rehome = false →
    s.ingressOf p.key = some g → g.gen ≠ p.gen → genOlder p.gen g.gen = false →
    exec (.resync p) s = .next { taken s p with net := s.net.erase (.packet p) ++ [.resyncAck ⟨p.key, p.gen, u, [], none⟩] }) ∧
  (∀ (s : State) p g, expected s g p → s.lateHere p = true →
    exec (.destinationAccessTimeout p) s = .next ((taken s p).stopStream g p 3 4 (packetAddr p))) ∧
  (∀ (s : State) p g, expected s g p → p.key.dest.host = true → (∀ e ∈ packetElems p.body, e.2.2 = false) →
    exec (.hostRegionAccessCompletion p false) s = .next ((taken s p).stopStream g p 2 3 (packetAddr p)) ∧
    exec (.hostRegionAccessCompletion p true) s =
      (let w := s.hostAccesses (s.regionOf p.ctag) p.body
       let g' := g.applied (w.2.map (fun o => ⟨p.seq, o.1, o.2, false⟩))
       .next ((({ taken s p with hostOut := s.hostOut ++ w.1 } : State).setIngress g').sendAck g')))

/-- R301, R305, R306, R502: applying a packet to memory. A store writes its elements and nothing else; an atomic word
reads the old value, writes the new one, and leaves a poisoned element alone; a notify adds 1 to its counter. -/
def Obligations.PacketsApplied : Prop :=
  (∀ (s : State) p e, p.body = .store [e] → ∀ a, (s.applyPacket p).1.memRead a 1 =
    if e.pa ≤ a ∧ a < e.pa + e.bytes.length then [e.bytes.getD (a - e.pa) 0#8] else s.memRead a 1) ∧
  (∀ (s : State) op n e, poisonedIn s.poison e.pa n = false → ∀ a, (s.applyAtom op n e).1.memRead a 1 =
    if e.pa ≤ a ∧ a < e.pa + n
    then [(bytesOf n (atomNew op false n (ofBytes (s.memRead e.pa n)) e.x1 e.x2).1).getD (a - e.pa) 0#8] else s.memRead a 1) ∧
  (∀ (s : State) op n e, poisonedIn s.poison e.pa n = true → (s.applyAtom op n e).1 = s) ∧
  (∀ (s : State) op n e, (s.applyAtom op n e).2.1 = ofBytes (s.memRead e.pa n)) ∧
  (∀ (s : State) p reader es, p.body = .read reader es → (s.applyPacket p).1.mem = s.mem) ∧
  (∀ (s : State) p k ctx, p.ntf = some k → s.ctxByTag p.ctag = some ctx → k < s.countersHeld ctx →
    (s.notify p).event p.key.dest.die ctx k = (s.event p.key.dest.die ctx k + 1) % 2 ^ 64) ∧
  (∀ (s : State) p, p.ntf = none → s.notify p = s)

/-! ## Tickets -/

/-- R284: the states that TQRY delivers, for a ticket of the asking context. -/
def ticketStatesHold : Prop :=
  ∀ (s : State) (own t : Nat), let e := s.entry (ticketKey t)
    let gone := ¬ (e.matches t = true ∧ (e.state = .pending ∨ e.state = .ready))
    s.ticketState own 0 = 0 ∧
    (t ≠ 0 → ticketTag t ≠ own → s.ticketState own t = 4) ∧
    (t ≠ 0 → ticketTag t = own → e.matches t = true → e.state = .pending → s.ticketState own t = 1) ∧
    (t ≠ 0 → ticketTag t = own → e.matches t = true → e.state = .ready → e.poison = [] → s.ticketState own t = 2) ∧
    (t ≠ 0 → ticketTag t = own → e.matches t = true → e.state = .ready → e.poison ≠ [] → s.ticketState own t = 3) ∧
    (t ≠ 0 → ticketTag t = own → gone → e.expired = some (ticketGen t) → e.ctag = own →
      t / 2 ^ 17 % 2 ^ 15 = 0 → s.ticketState own t = 5) ∧
    (t ≠ 0 → ticketTag t = own → gone → e.expired ≠ some (ticketGen t) → s.ticketState own t = 4)

/-- R266–R268, R273, R277–R285: the ticket words. TLD under its quota issues its reads and takes the next operation
number; at its quota it waits, or under .nb delivers 0; before that its checks trap in their order: the channel, each lane's
alignment and range, the pages. REDEEM asks the slice and leaves its destination empty; REDEEM.sh waits for the slice's verdict,
after its checks of the ticket, of the offset's alignment and of the shared block, and waits to issue while the copy counter would
pass 255; TDROP asks the slice; TQRY delivers a state. -/
def Obligations.TicketWords : Prop :=
  let c := fun (s : State) (x : Ctx) => s.issuer x
  let E := fun (m : MWord) (s : State) (x : Ctx) (L : Nat) => s.effAddr x (c s x) m 2 L
  let chan := fun (m : MWord) (s : State) (x : Ctx) => s.chan (c s x).team m.ch.toNat
  let aligned := fun (m : MWord) (s : State) (x : Ctx) L => E m s x L % (m.size.bytes : Int) = 0
  let inside := fun (m : MWord) (s : State) (x : Ctx) L => 0 ≤ E m s x L ∧ E m s x L + m.size.bytes ≤ (2 ^ 52 : Nat)
  let pages := fun (m : MWord) (s : State) (x : Ctx) =>
    s.lookPages (s.ctxOf (c s x)) (x.trap 0) true ((lanesOf x.act).map (fun L => ⟨L, (E m s x L).toNat, 1, .any⟩))
  let clear := fun (m : MWord) (s : State) (x : Ctx) => x.act ≠ 0#32 ∧ (chan m s x).cause = 0 ∧
    (∀ L ∈ lanesOf x.act, aligned m s x L ∧ inside m s x L) ∧ (pages m s x).res = .ok
  let items := fun (m : MWord) (s : State) (x : Ctx) => (lanesOf x.act).map (fun L =>
    (⟨L, (E m s x L).toNat, (s.home (s.ctxOf (c s x)) (E m s x L).toNat).1, (s.home (s.ctxOf (c s x)) (E m s x L).toNat).2⟩ : Item))
  let filled := fun (m : MWord) (s : State) (x : Ctx) => s.tlbFill (s.ctxOf (c s x)) ((items m s x).map (fun i => i.va))
  let quota := fun (s : State) (x : Ctx) => (s.lrOf (c s x)).quota
  let live := fun (s : State) (x : Ctx) => (s.team (c s x).team).live
  let t := fun (r : RWord) (s : State) (x : Ctx) => s.src x r.a 2 0
  let sound := fun (r : RWord) (s : State) (x : Ctx) => t r s x ≠ 0 ∧ t r s x / 2 ^ 17 % 2 ^ 15 = 0 ∧ ticketGen (t r s x) ≠ 0 ∧
    ticketTag (t r s x) = (s.context (s.ctxOf (c s x))).tag
  let good := fun (r : RWord) (s : State) (x : Ctx) => sound r s x ∧ s.fenced.contains (.die, bitsOf (t r s x) 16 14) = false
  let sizes := fun (m : MWord) (s : State) (x : Ctx) =>
    (byDest (fun i => i.dest) (items m s x)).map (fun g => (g.1, (cutRun m.size.bytes g.2).length))
  (∀ m nb, DoesIf (.tld m nb) m.head (fun _ x => x.act = 0#32) (fun s x => s.went x)) ∧
  (∀ m nb, DoesIf (.tld m nb) m.head
    (fun s x => clear m s x ∧ live s x < quota s x ∧ s.roomFor (c s x).team m.ch.toNat false (sizes m s x) = true)
    (fun s x => ((filled m s x).startTld x.crs x.pc x.j m.ds.toNat m.ch.toNat
      m.size.bytes x.act x.sup (items m s x)).went x)) ∧
  (∀ m nb, DoesIf (.tld m nb) m.head (fun s x => clear m s x ∧ live s x < quota s x ∧
      s.roomFor (c s x).team m.ch.toNat false (sizes m s x) = false)
    (fun s x => s.heldPast x ((items m s x).map (fun i => i.va)) (!s.entriesFor (c s x).team m.ch.toNat (sizes m s x)))) ∧
  (∀ m, DoesIf (.tld m true) m.head (fun s x => clear m s x ∧ quota s x ≤ live s x) (fun s x =>
    ((filled m s x).addPend x .other (.values (lateValues x true m.ds.toNat 2 (fun _ => 0)))
      (lateFills x true m.ds.toNat 2) 0#32 0#32).went x)) ∧
  (∀ m, DoesIf (.tld m false) m.head (fun s x => clear m s x ∧ quota s x ≤ live s x) (fun s x =>
    (filled m s x).waits x (.quota (heldTld x.crs (c s x).team m.ch.toNat m.size.bytes (items m s x)) m.ds.toNat))) ∧
  (∀ m nb, DoesIf (.tld m nb) m.head (fun s x => x.act ≠ 0#32 ∧ (chan m s x).cause ≠ 0) (fun s x =>
    s.trapped x { x.trap 0x11 with addr := (chan m s x).addr, info := m.ch.toNat + 16 * (chan m s x).cause })) ∧
  (∀ m nb L, DoesIf (.tld m nb) m.head (fun s x => (chan m s x).cause = 0 ∧ firstLane x (fun l => ¬ aligned m s x l ∨ ¬ inside m s x l) L)
    (fun s x => s.trapped x (if E m s x L % (m.size.bytes : Int) ≠ 0 then x.addrTrap 0x08 0 L (intBits (E m s x L) 64) 0
      else x.addrTrap 0x07 2 L (intBits (E m s x L) 64) 0))) ∧
  (∀ m nb t, DoesIf (.tld m nb) m.head (fun s x => x.act ≠ 0#32 ∧ (chan m s x).cause = 0 ∧
      (∀ L ∈ lanesOf x.act, aligned m s x L ∧ inside m s x L) ∧ (pages m s x).res = .trap t)
    (fun s x => s.trappedPast x (pages m s x).vas t)) ∧
  (∀ m nb, DoesIf (.tld m nb) m.head (fun s x => x.act ≠ 0#32 ∧ (chan m s x).cause = 0 ∧
      (∀ L ∈ lanesOf x.act, aligned m s x L ∧ inside m s x L) ∧ (pages m s x).res = .wait)
    (fun s x => s.heldPast x (pages m s x).vas false)) ∧
  (∀ r w, DoesIf (.redeem r w) r.head (fun s x => x.act ≠ 0#32 ∧ good r s x) (fun s x =>
    ((s.addPend x .other .remote (lateFills x false r.d.toNat (RedeemWidth.bytes w / 4)) 0#32 0#32).askSlice
      (.redeem (t r s x) (.regs x.crs (c s x).nextPend r.d.toNat (RedeemWidth.bytes w) x.act x.sup) x.pc x.j x.act x.sup none)).went x)) ∧
  (∀ r i, ((∃ w, i = .redeem r w) ∨ i = .redeemSh r) →
    DoesIf i r.head (fun s x => t r s x = 0 ∨ t r s x / 2 ^ 17 % 2 ^ 15 ≠ 0 ∨ ticketGen (t r s x) = 0 ∨
        ticketTag (t r s x) ≠ (s.context (s.ctxOf (c s x))).tag)
      (fun s x => s.trapped x { x.trap 0x0C with aux := t r s x, info := x.act.toNat }) ∧
    DoesIf i r.head (fun s x => sound r s x ∧ s.fenced.contains (.die, bitsOf (t r s x) 16 14) = true)
      (fun s x => s.trapped x (x.trap 0x13)) ∧
    DoesIf i r.head (fun s x => x.act = 0#32 ∧ good r s x) (fun s x => s.went x)) ∧
  (∀ r, DoesIf (.redeemSh r) r.head (fun s x => x.act ≠ 0#32 ∧ good r s x ∧ s.usrc x r.b % 16 ≠ 0)
    (fun s x => s.trapped x { x.trap 0x08 with addr := s.usrc x r.b })) ∧
  (∀ r, DoesIf (.redeemSh r) r.head (fun s x => x.act ≠ 0#32 ∧ good r s x ∧ s.usrc x r.b % 16 = 0 ∧
      (s.lrOf (c s x)).shared < s.usrc x r.b + 512)
    (fun s x => s.trapped x { x.trap 0x07 with sub := 2, addr := s.usrc x r.b, info := 1 })) ∧
  (∀ r, DoesIf (.redeemSh r) r.head (fun s x => x.act ≠ 0#32 ∧ good r s x ∧ s.usrc x r.b % 16 = 0 ∧
      s.usrc x r.b + 512 ≤ (s.lrOf (c s x)).shared ∧ s.copyFull x.crs = true) (fun s x => s.blocked x false)) ∧
  (∀ (s : State) crs, s.copyFull crs = true ↔
    255 ≤ (s.course crs).eng.copy.length + (s.sliceReqs.filter (fun e => e.2.asksFor crs)).length) ∧
  (∀ r, DoesIf (.redeemSh r) r.head (fun s x => x.act ≠ 0#32 ∧ good r s x ∧ s.usrc x r.b % 16 = 0 ∧
      s.usrc x r.b + 512 ≤ (s.lrOf (c s x)).shared ∧ s.copyFull x.crs = false)
    (fun s x => (s.askSlice (.redeem (t r s x) (.shared x.crs 0 (s.usrc x r.b) (c s x).nextPend s.stamp 0) x.pc x.j x.act
      x.sup none)).waits x
      (.verdict (Tab.fresh s.sliceReqs)))) ∧
  (∀ r, DoesIf (.tdrop r) r.head (fun s x => x.act = 0#32 ∨ t r s x = 0) (fun s x => s.went x)) ∧
  (∀ r, DoesIf (.tdrop r) r.head (fun s x => x.act ≠ 0#32 ∧ t r s x ≠ 0) (fun s x =>
    (s.askSlice (.drop (t r s x) (s.context (s.ctxOf (c s x))).tag)).went x)) ∧
  (∀ r, DoesIf (.tqry r) r.head (fun _ x => x.act ≠ 0#32) (fun s x =>
    (s.addPend x .other (.query r.d.toNat (t r s x) x.sup) (lateFills x true r.d.toNat 1) 0#32 0#32).went x)) ∧
  (∀ r, LateDoes (.tqryLive r) r.head .other (fun _ _ => True) (fun s _ => s) true r.d 1 (fun _ _ => 0#32)
    (fun s x _ => live s x) (fun _ _ => 0#32)) ∧
  ticketStatesHold

/-- R269–R282, R285, R289, R435: the life of a landing entry. Allocation gives it the next generation and lands the ticket; its last
bytes make it ready; a redemption of a live ticket claims it, and is delivered once every byte is there, the entry
then being free: into registers at once, into shared memory by 32 writes of 16 bytes, each after the accesses of that memory
which the course issued before; a refused redemption is deferred or, for REDEEM.sh, traps; TDROP and expiry end it. A TLD that
waits for its quota has not issued: a deferred refusal goes before it. -/
def Obligations.LandingEntries : Prop :=
  let free := fun (s : State) (r : TldReq) (n : Nat) => n < 512 ∧ (s.entry (entryKey r.die r.slice n)).state = .free ∧
    s.fenced.contains (.slice, r.die * 32 + r.slice) = false ∧ s.mayAllocate r = true
  let shared := fun (s : State) (crs : Nat) => Space.shared (s.course crs).team
  let claimed := fun (s : State) (n : Nat) (cl : Claim) =>
    (s.entry n).state = .claimed ∧ (s.entry n).waiting = [] ∧ (s.entry n).claim = some cl
  let freed := fun (s : State) (n : Nat) =>
    (s.setEntry n { s.entry n with state := .free, claim := none }).returnTicket (s.entry n).team
  let live := fun (e : Entry) (t : Nat) => e.matches t = true ∧ (e.state = .pending ∨ e.state = .ready)
  let done := fun (s : State) (q : Nat) => { s with sliceReqs := Tab.del s.sliceReqs q }
  (∀ (s : State) req r n, Tab.find s.tldReqs req = some r → free s r n →
    ∃ t, exec (.ticketAllocate req n) s = .next t ∧ Tab.find t.tldReqs req = none ∧
      (t.entry (entryKey r.die r.slice n)).gen = (s.entry (entryKey r.die r.slice n)).gen % 65535 + 1 ∧
      (t.entry (entryKey r.die r.slice n)).team = r.team ∧ (t.entry (entryKey r.die r.slice n)).size = r.n ∧
      (t.entry (entryKey r.die r.slice n)).claim = none ∧
      ((t.entry (entryKey r.die r.slice n)).state = .pending ∨ (t.entry (entryKey r.die r.slice n)).state = .ready)) ∧
  (∀ (s : State) req r, Tab.find s.tldReqs req = some r → s.mayAllocate r = false → r.refusals < 7 →
    exec (.allocationRetry req) s = .next (({ s with tldReqs := Tab.put s.tldReqs req { r with refusals := r.refusals + 1 } }).count
      1 r.die 4 1)) ∧
  (∀ (s : State) x key gen, x.reader = .ticket key gen → NetMsg.data x ∈ s.net → x.key.chip = s.chip →
    (s.entry key).gen = gen → x.lane ∈ (s.entry key).waiting → (s.entry key).team = x.key.team →
    exec (.ticketBytesLand x) s = .next ((((({ s with net := s.net.erase (.data x) } : State).setEntry key
      (((s.entry key).landBytes x.lane (x.bytes.take (s.entry key).size) x.poison).settleState)).refillFrom x).onChan x.key.team
        x.key.ch (fun c => if x.refused then c else c.readLanded x.reader x.key.dest 1 s.stamp)).afterSettle x.key.team)) ∧
  (∀ (s : State) q t crs p d w act sup pc j, Tab.find s.sliceReqs q = some (.redeem t (.regs crs p d w act sup) pc j act sup none) →
    live (s.entry (ticketKey t)) t → exec (.redeemAtSlice q) s = .next ((done s q).setEntry (ticketKey t)
      { s.entry (ticketKey t) with state := .claimed, claim := some (.regs crs p d w act sup) })) ∧
  (∀ (s : State) q t crs k o after turn made pc j act sup,
    Tab.find s.sliceReqs q = some (.redeem t (.shared crs k o after turn made) pc j act sup none) →
    live (s.entry (ticketKey t)) t → s.running (s.course crs) = true → ((s.course crs).slotN j).wait = .verdict q →
    exec (.redeemAtSlice q) s = .next ((((done s q).setEntry (ticketKey t) { s.entry (ticketKey t) with
      state := .claimed, claim := some (.shared crs (s.course crs).nextOp o after turn 0) }).setCourse crs
        ((s.course crs).countOp .copy [])).advance crs j act)) ∧
  (∀ (s : State) q t cl pc j act sup, Tab.find s.sliceReqs q = some (.redeem t cl pc j act sup none) →
    ¬ live (s.entry (ticketKey t)) t → exec (.redeemAtSlice q) s = .next { s with sliceReqs := (Tab.put s.sliceReqs q
      (.redeem t cl pc j act sup (some ((s.entry (ticketKey t)).refusalCause t)))) }) ∧
  (∀ (s : State) n crs p d w act sup, claimed s n (.regs crs p d w act sup) →
    exec (.redeemDelivery n) s = .next ((freed s n).landPend crs p ((lanesOf act).flatMap (fun L =>
      (List.range (w / 4)).map (fun k =>
        let o := w * L + 4 * k
        .lane sup (d + k) L (if (s.entry n).poison.contains o then 0#32 else wd (ofBytes (cellsAt (s.entry n).image o 4)))
          ((s.entry n).poison.contains o)))) 0#32)) ∧
  (∀ (s : State) n crs k o after turn made, claimed s n (.shared crs k o after turn made) →
    s.redeemWaits crs after turn = true → exec (.redeemDelivery n) s = .next s) ∧
  (∀ (s : State) n crs k o after turn made, claimed s n (.shared crs k o after turn made) →
    s.redeemWaits crs after turn = false → made + 1 < 32 → exec (.redeemDelivery n) s = .next
      ((s.setEntry n { s.entry n with claim := some (.shared crs k o after turn (made + 1)) }).setSpace (shared s crs)
        ((s.entry n).writePart (s.spaceBlock (shared s crs)) o made))) ∧
  (∀ (s : State) n crs k o after turn made, claimed s n (.shared crs k o after turn made) →
    s.redeemWaits crs after turn = false → 32 ≤ made + 1 → ∃ u, exec (.redeemDelivery n) s = .next u ∧
      (u.entry n).state = .free ∧ (u.entry n).claim = none ∧
      u.spaceBlock (shared s crs) = (s.entry n).writePart (s.spaceBlock (shared s crs)) o made) ∧
  (∀ (e : Entry) (b : Block) o k a, (e.writePart b o k).read a 1 =
    if o + 16 * k ≤ a ∧ a < o + 16 * k + 16 then [cellAt e.image (a - o)] else b.read a 1) ∧
  (∀ (s : State) q t crs p d w act pc j code, Tab.find s.sliceReqs q =
      some (.redeem t (.regs crs p d w act false) pc j act false (some code)) → (s.course crs).live ≠ 0#32 →
    ∃ u, exec (.redeemRefusal q) s = .next u ∧ (u.course crs).refusals = insertFurther ⟨2, p,
      { code := code, defer := true, pc := pc, aux := t, info := act.toNat }⟩ (s.course crs).refusals) ∧
  (∀ (s : State) q t crs c0 o after turn made pc j act sup code, Tab.find s.sliceReqs q =
      some (.redeem t (.shared crs c0 o after turn made) pc j act sup (some code)) →
    ((s.course crs).slotN j).wait = .verdict q →
    exec (.redeemRefusal q) s = .next ((done s q).raise crs j
      { code := code, pc := pc, resume := pc, mask := act, aux := t, info := act.toNat, inSup := sup })) ∧
  (∀ (s : State) q t g, Tab.find s.sliceReqs q = some (.drop t g) → live (s.entry (ticketKey t)) t →
    exec (.tdropAtSlice q) s = .next (((done s q).setEntry (ticketKey t) { s.entry (ticketKey t) with
        state := if (s.entry (ticketKey t)).waiting = [] then .free else .draining }).returnTicket (s.entry (ticketKey t)).team)) ∧
  (∀ (s : State) n, ((s.entry n).state = .pending ∨ (s.entry n).state = .ready) →
    (s.grid (s.entry n).grid).lr.lifeCycles ≤ (s.entry n).age →
    exec (.ticketExpiry n) s = .next ((s.setEntry n { s.entry n with
      state := if (s.entry n).waiting = [] then .free else .draining
      expired := some (s.entry n).gen }).returnTicket (s.entry n).team)) ∧
  (∀ (s : State) crs j r d, ((s.course crs).slotN j).wait = .quota r d → s.running (s.course crs) = true →
    (s.course crs).notBarred j = true → (s.course crs).nextRefusal j = none →
    (s.team (s.course crs).team).live < (s.lrOf (s.course crs)).quota →
    exec (.tldQuotaResume crs j) s = .next ((s.startTld crs ((s.course crs).slotN j).pc j d r.ch r.n ((s.course crs).slotN j).act
      ((s.course crs).supIn j) (r.lanes.map (fun l => (⟨l.1, l.2.1, l.2.2.2, l.2.2.1⟩ : Item)))).advance crs j
        ((s.course crs).slotN j).act)) ∧
  (∀ (s : State) crs j r d t, ((s.course crs).slotN j).wait = .quota r d → s.running (s.course crs) = true →
    (s.course crs).notBarred j = true → (s.course crs).nextRefusal j = some t →
    exec (.tldQuotaResume crs j) s = .next (s.takeRefusal crs j t))

/-! ## The transfer unit -/

/-- The destinations that a copy reaches. -/
def copyDests (ts : List OpTraffic) : List Dest :=
  (byDest (fun (d : Dest) => d) (ts.flatMap OpTraffic.dests)).map (fun d => d.1)

/-- R353: the checks of one lane of CPY in their order: the poison of its address registers, its place in the local memory, and
alignment, address space and page of each main address, the source first. -/
def copyLaneChecksHold : Prop :=
  ∀ (s : State) (x : Ctx) (c : Course) (r : RWord) dir n L all,
    let m := CpyDir.mains dir
    let E := s.cpyAddrs x c r dir L
    let look := s.cpyLane x c r dir n L all
    let regs := (List.range (CpyDir.widths dir).1).map (fun i => r.a.field.toNat + i) ++
      (List.range (CpyDir.widths dir).2).map (fun i => r.d.toNat + i)
    let clean := ∀ q ∈ regs, s.lanePoison c x.sup q L = false
    let near := if m.1 && m.2 then none else if m.1 then s.checkLocal x c (CpyDir.reach dir) n n 1 L E.2
      else s.checkLocal x c (CpyDir.reach dir) n n 0 L E.1
    let fits := fun (e : Nat) => e % n = 0 ∧ e + n ≤ 2 ^ 52
    let page := fun (e need : Nat) => s.mainPage x c e need L all
    (∀ q, regs.find? (fun q => s.lanePoison c x.sup q L) = some q → look = ⟨.trap (x.dataError (L, q)), []⟩) ∧
    (∀ t, clean → near = some t → look = ⟨.trap t, []⟩) ∧
    (clean → near = none → m.1 = true → E.1 % n ≠ 0 → look = ⟨.trap (x.addrTrap 0x08 0 L E.1 0), []⟩) ∧
    (clean → near = none → m.1 = true → E.1 % n = 0 → 2 ^ 52 < E.1 + n → look = ⟨.trap (x.addrTrap 0x07 2 L E.1 0), []⟩) ∧
    (clean → near = none → m.1 = true → fits E.1 → (page E.1 1).res ≠ .ok → look = page E.1 1) ∧
    (∀ before, clean → near = none → m.2 = true → (if m.1 then fits E.1 ∧ (page E.1 1).res = .ok ∧ before = [E.1] else before = []) →
      (E.2 % n ≠ 0 → look = ⟨.trap (x.addrTrap 0x08 0 L E.2 0), before⟩) ∧
      (E.2 % n = 0 → 2 ^ 52 < E.2 + n → look = ⟨.trap (x.addrTrap 0x07 2 L E.2 1), before⟩) ∧
      (fits E.2 → look = ⟨(page E.2 2).res, before ++ [E.2]⟩)) ∧
    (clean → near = none → m.1 = true → m.2 = false → fits E.1 → (page E.1 1).res = .ok → look = ⟨.ok, [E.1]⟩)

/-- R360: what the checks of a descriptor of TCPY refuse. -/
def descriptorChecksHold : Prop :=
  ∀ (d : TcpyDesc) (space : Nat) (x : Ctx),
    let dims := 1 ≤ d.cols ∧ d.cols ≤ 4096 ∧ 1 ≤ d.rows ∧ d.rows ≤ 4096
    let pair := if d.store then formPair d.lf d.mf false else formPair d.mf d.lf true
    (2 ^ 52 ≤ d.g → d.badField = some 1) ∧
    (d.g < 2 ^ 52 → ¬ dims → d.badField = some 4) ∧
    (d.g < 2 ^ 52 → dims → (2 ^ 14 ≤ d.form ∨ pair = false ∨ d.width < d.planes ∨ (d.canon = false ∧ d.q < d.lb) ∨
      (d.store = true ∧ d.p < d.mb)) → d.badField = some 7) ∧
    (d.misaligned = true ↔ (∃ n ∈ [d.g, d.p, d.o, d.mb, d.lb], n % 16 ≠ 0) ∨ (d.canon = false ∧ d.q % 16 ≠ 0) ∨
      (d.canon = true ∧ d.o % 1024 ≠ 0)) ∧
    (space < d.o + d.extent → d.outside space x =
      some { x.trap 0x07 with sub := 2, addr := d.o, info := if d.store then 0 else 1 }) ∧
    (d.o + d.extent ≤ space → 2 ^ 52 < d.g + (d.rows - 1) * d.p + d.mb → d.outside space x =
      some { x.trap 0x07 with sub := 2, addr := d.g, info := if d.store then 1 else 0 })

/-- R349–R356, R360, R422: CPY and TCPY. A copy whose operands pass their checks and for which the team has a queue place is
counted on the course's copy path, given its transfer operations, and its reads start; the first check that fails traps: the
queue, the channel and the barrier, then of CPY the first lane that fails, and of TCPY its descriptor's fields, alignment,
bounds and pages. Without a queue place, or without room on its channel, the word waits. -/
def Obligations.CopyWords : Prop :=
  let c := fun (s : State) (x : Ctx) => s.issuer x
  let b := fun (r : RWord) (bar : Bool) => if bar then some r.c.field.toNat else none
  let dests := fun (ts : List OpTraffic) => (copyDests ts).map (fun d => (d, 0))
  let place := fun (s : State) (x : Ctx) => s.copyRoom x.crs (c s x)
  let fits := fun (r : RWord) (s : State) (x : Ctx) (ts : List OpTraffic) =>
    s.roomFor (c s x).team r.b.field.toNat false (dests ts)
  let room := fun (r : RWord) (s : State) (x : Ctx) (ts : List OpTraffic) => place s x = true ∧ fits r s x ts = true
  let all := fun (r : RWord) (dir : CpyDir) (s : State) (x : Ctx) => (lanesOf x.act).flatMap (fun L =>
    (if (CpyDir.mains dir).1 then [(L, (s.cpyAddrs x (c s x) r dir L).1)] else []) ++
      (if (CpyDir.mains dir).2 then [(L, (s.cpyAddrs x (c s x) r dir L).2)] else []))
  let groups := fun (r : RWord) (dir : CpyDir) (n : Nat) (s : State) (x : Ctx) => groupCopy ((lanesOf x.act).map (fun L =>
    (⟨L, s.cpySide (c s x) dir (CpyDir.mains dir).1 (s.cpyAddrs x (c s x) r dir L).1 n L,
      s.cpySide (c s x) dir (CpyDir.mains dir).2 (s.cpyAddrs x (c s x) r dir L).2 n L⟩ : CopyLane)))
  let traffic := fun (r : RWord) (dir : CpyDir) (n : Nat) (s t : State) (x : Ctx) =>
    (groups r dir n s x).zipIdx.map (fun (p : List CopyLane × Nat) =>
      let rd := t.copyReads (c s x).team r.b.field.toNat (8 * s.stamp) p.2 n (mainItems (fun l => l.src) p.1)
      ((rd.1, rd.2, t.copyWrites (c s x).team r.b.field.toNat (8 * s.stamp) p.2 n (mainItems (fun l => l.dst) p.1)) : OpTraffic))
  let filled := fun (r : RWord) (dir : CpyDir) (s : State) (x : Ctx) =>
    s.tlbFill (s.ctxOf (c s x)) ((all r dir s x).map (fun a => a.2))
  let d := fun (r : RWord) (sat : Bool) (rnd : Rnd4) (xs st : Bool) (s : State) (x : Ctx) => s.latch x (c s x) r sat rnd xs st
  let sound := fun (r : RWord) (sat : Bool) (rnd : Rnd4) (bar xs st : Bool) (s : State) (x : Ctx) =>
    let d := d r sat rnd xs st s x
    x.act ≠ 0#32 ∧ s.copyChecks x r.b.field.toNat (b r bar) = none ∧ d.badField = none ∧ d.misaligned = false ∧
      d.outside (if xs then (s.lrOf (c s x)).scratch else (s.lrOf (c s x)).shared) x = none
  let look := fun (r : RWord) (sat : Bool) (rnd : Rnd4) (xs st : Bool) (s : State) (x : Ctx) =>
    s.lookPages (s.ctxOf (c s x)) (x.trap 0) false (d r sat rnd xs st s x).pages
  let tcpyTraffic := fun (r : RWord) (d : TcpyDesc) (s t : State) (x : Ctx) => d.pieces.zipIdx.map (fun (p : XferOp × Nat) =>
    let item := fun (e : Nat) =>
      (⟨e, d.elemVa p.1 e, (s.home (s.ctxOf (c s x)) (d.elemVa p.1 e)).1, (s.home (s.ctxOf (c s x)) (d.elemVa p.1 e)).2⟩ : Item)
    let main := t.copyReads (c s x).team r.b.field.toNat (8 * s.stamp) p.2 d.elem ((p.1.reads.filter (fun e => e < 64)).map item)
    let sc := t.copyReads (c s x).team r.b.field.toNat (8 * s.stamp) p.2 1 ((p.1.reads.filter (fun e => 64 ≤ e)).map item)
    let wr := if d.store then
        t.copyWrites (c s x).team r.b.field.toNat (8 * s.stamp) p.2 16 ((List.range (p.1.len / 16)).map item)
      else []
    ((main.1 ++ sc.1, main.2 ++ sc.2, wr) : OpTraffic))
  (∀ r dir size bar, DoesIf (.cpy r dir size bar) r.head (fun _ x => x.act = 0#32) (fun s x => s.went x)) ∧
  (∀ r dir size bar, DoesIf (.cpy r dir size bar) r.head
    (fun s x => x.act ≠ 0#32 ∧ s.copyChecks x r.b.field.toNat (b r bar) = none ∧
      (∀ L ∈ lanesOf x.act, (s.cpyLane x (c s x) r dir (CpySize.bytes size) L (all r dir s x)).res = .ok) ∧
      room r s x (traffic r dir (CpySize.bytes size) s (filled r dir s x) x))
    (fun s x => ((filled r dir s x).startCopy x (8 * s.stamp)
      (s.newCopy x r.b.field.toNat (b r bar) (CpySize.bytes size) ((groups r dir (CpySize.bytes size) s x).map (fun g =>
        { lanes := g, reads := (mainItems (fun l => l.src) g).map (fun i => i.lane) })) none 0#32)
      (traffic r dir (CpySize.bytes size) s (filled r dir s x) x)).went x)) ∧
  (∀ r sat rnd bar xs st, DoesIf (.tcpy r sat rnd bar xs st) r.head (fun _ x => x.act = 0#32) (fun s x => s.went x)) ∧
  (∀ r sat rnd bar xs st, DoesIf (.tcpy r sat rnd bar xs st) r.head
    (fun s x =>
      let d := d r sat rnd xs st s x
      sound r sat rnd bar xs st s x ∧ (look r sat rnd xs st s x).res = .ok ∧
        room r s x (tcpyTraffic r d s (s.tlbFill (s.ctxOf (c s x)) (d.pages.map (fun a => a.va))) x))
    (fun s x =>
      let d := d r sat rnd xs st s x
      let t := s.tlbFill (s.ctxOf (c s x)) (d.pages.map (fun a => a.va))
      (t.startCopy x (8 * s.stamp) (s.newCopy x r.b.field.toNat (b r bar) d.elem d.pieces (some d) d.may)
        (tcpyTraffic r d s t x)).went x)) ∧
  (∀ r dir size bar t vas, DoesIf (.cpy r dir size bar) r.head
    (fun s x => x.act ≠ 0#32 ∧ s.copyChecks x r.b.field.toNat (b r bar) = none ∧
      stopsAt (fun L => s.cpyLane x (c s x) r dir (CpySize.bytes size) L (all r dir s x)) (lanesOf x.act) (.trap t) vas)
    (fun s x => s.trappedPast x vas t)) ∧
  (∀ r dir size bar vas, DoesIf (.cpy r dir size bar) r.head
    (fun s x => x.act ≠ 0#32 ∧ s.copyChecks x r.b.field.toNat (b r bar) = none ∧
      stopsAt (fun L => s.cpyLane x (c s x) r dir (CpySize.bytes size) L (all r dir s x)) (lanesOf x.act) .wait vas)
    (fun s x => s.heldPast x vas false)) ∧
  (∀ r dir size bar, DoesIf (.cpy r dir size bar) r.head
    (fun s x => x.act ≠ 0#32 ∧ s.copyChecks x r.b.field.toNat (b r bar) = none ∧
      (∀ L ∈ lanesOf x.act, (s.cpyLane x (c s x) r dir (CpySize.bytes size) L (all r dir s x)).res = .ok) ∧
      place s x = false) (fun s x => s.heldPast x ((all r dir s x).map (fun a => a.2)) false)) ∧
  (∀ r dir size bar, DoesIf (.cpy r dir size bar) r.head
    (fun s x => x.act ≠ 0#32 ∧ s.copyChecks x r.b.field.toNat (b r bar) = none ∧
      (∀ L ∈ lanesOf x.act, (s.cpyLane x (c s x) r dir (CpySize.bytes size) L (all r dir s x)).res = .ok) ∧
      place s x = true ∧ fits r s x (traffic r dir (CpySize.bytes size) s (filled r dir s x) x) = false)
    (fun s x => s.heldPast x ((all r dir s x).map (fun a => a.2)) (!s.entriesFor (c s x).team r.b.field.toNat
      (dests (traffic r dir (CpySize.bytes size) s (filled r dir s x) x))))) ∧
  (∀ r sat rnd bar xs st k, DoesIf (.tcpy r sat rnd bar xs st) r.head
    (fun s x => x.act ≠ 0#32 ∧ s.copyChecks x r.b.field.toNat (b r bar) = none ∧ (d r sat rnd xs st s x).badField = some k)
    (fun s x => s.trapped x { x.illegalOperand with info := r.a.field.toNat + k })) ∧
  (∀ r sat rnd bar xs st, DoesIf (.tcpy r sat rnd bar xs st) r.head
    (fun s x => let d := d r sat rnd xs st s x
      x.act ≠ 0#32 ∧ s.copyChecks x r.b.field.toNat (b r bar) = none ∧ d.badField = none ∧ d.misaligned = true)
    (fun s x => s.trapped x { x.trap 0x08 with addr := (d r sat rnd xs st s x).g })) ∧
  (∀ r sat rnd bar xs st t, DoesIf (.tcpy r sat rnd bar xs st) r.head
    (fun s x => let d := d r sat rnd xs st s x
      x.act ≠ 0#32 ∧ s.copyChecks x r.b.field.toNat (b r bar) = none ∧ d.badField = none ∧ d.misaligned = false ∧
        d.outside (if xs then (s.lrOf (c s x)).scratch else (s.lrOf (c s x)).shared) x = some t)
    (fun s x => s.trapped x t)) ∧
  (∀ r sat rnd bar xs st, DoesIf (.tcpy r sat rnd bar xs st) r.head
    (fun s x => sound r sat rnd bar xs st s x ∧ (look r sat rnd xs st s x).res = .wait)
    (fun s x => s.heldPast x (look r sat rnd xs st s x).vas false)) ∧
  (∀ r sat rnd bar xs st t, DoesIf (.tcpy r sat rnd bar xs st) r.head
    (fun s x => sound r sat rnd bar xs st s x ∧ (look r sat rnd xs st s x).res = .trap t)
    (fun s x => s.trappedPast x (look r sat rnd xs st s x).vas t)) ∧
  (∀ r sat rnd bar xs st, DoesIf (.tcpy r sat rnd bar xs st) r.head
    (fun s x => sound r sat rnd bar xs st s x ∧ (look r sat rnd xs st s x).res = .ok ∧ place s x = false)
    (fun s x => s.heldPast x ((d r sat rnd xs st s x).pages.map (fun a => a.va)) false)) ∧
  (∀ r sat rnd bar xs st, DoesIf (.tcpy r sat rnd bar xs st) r.head
    (fun s x => sound r sat rnd bar xs st s x ∧ (look r sat rnd xs st s x).res = .ok ∧ place s x = true ∧
      fits r s x (tcpyTraffic r (d r sat rnd xs st s x) s
        (s.tlbFill (s.ctxOf (c s x)) ((d r sat rnd xs st s x).pages.map (fun a => a.va))) x) = false)
    (fun s x => s.heldPast x ((d r sat rnd xs st s x).pages.map (fun a => a.va)) (!s.entriesFor (c s x).team r.b.field.toNat
      (dests (tcpyTraffic r (d r sat rnd xs st s x) s
        (s.tlbFill (s.ctxOf (c s x)) ((d r sat rnd xs st s x).pages.map (fun a => a.va))) x))))) ∧
  (∀ r (i : Instr) bar t, ((∃ dir size, i = .cpy r dir size bar) ∨ (∃ sat rnd xs st, i = .tcpy r sat rnd bar xs st)) →
    DoesIf i r.head (fun s x => x.act ≠ 0#32 ∧ s.copyChecks x r.b.field.toNat (b r bar) = some t) (fun s x => s.trapped x t)) ∧
  copyLaneChecksHold ∧ descriptorChecksHold

/-- R337–R340, R345, R349–R351, R353, R356–R362: the rest of a copy's life. A transfer operation whose bytes are all there
is performed, one element after another, after every access of its local memory that its course issued before the copy; a
copy whose operations and writes are done completes: it is counted off, its flags are ORed into FLG, its barrier arrival is
made, and a flag enabled by the TE held then traps (the model's choice of the moment, log 92); completed operations retire from the head of a path, and WAITC goes on when few enough are
left. -/
def Obligations.CopyProgress : Prop :=
  let ready := fun (s : State) (id op team : Nat) (cp : Copy) (o : XferOp) => s.copyTeam id = some team ∧
    (s.team team).state ≠ .saved ∧ Tab.find (s.team team).copies id = some cp ∧ cp.ops[op]? = some o ∧ o.done = false
  let finished := fun (s : State) (id team : Nat) (cp : Copy) => s.copyTeam id = some team ∧ (s.team team).state ≠ .saved ∧
    Tab.find (s.team team).copies id = some cp ∧ (s.team team).copyDone id cp = true
  let off := fun (s : State) (id team : Nat) (cp : Copy) =>
    (s.onTeam team (fun t => { t with copies := Tab.del t.copies id })).onCourse cp.crs (fun c =>
      { (c.opDone .copy cp.count).orFlags (cp.flags &&& cp.may) with holds := c.holds.filter (fun k => k.1 != id) })
  let begun := fun (cp : Copy) (o : XferOp) (data : List ReadReturn) =>
    { o with lanes := mergeLanes o.lanes, left := cp.elems { o with lanes := mergeLanes o.lanes } data }
  (∀ (s t : State) id op data team cp o, ready s id op team cp o → o.got = none →
    s.copyWaits team id cp (begun cp o data) = false → dataFits id op team o.reads data = true → s.takeData data = some t →
    let u := (data.foldl State.refillFrom t).onChan team cp.ch (fun c =>
      (byDest (fun (x : ReadReturn) => x.key.dest) (data.filter (fun x => !x.refused))).foldl (fun (c : Chan) g =>
        c.readLanded (.copy id op) g.1 g.2.length (data.foldl State.refillFrom t).stamp) c)
    exec (.transferOperation id op data) s = .next (u.stepXfer team id op cp (begun cp o data) data)) ∧
  (∀ (s : State) id op data old team cp o, ready s id op team cp o → o.got = some old →
    exec (.transferOperation id op data) s = .next (s.stepXfer team id op cp o old)) ∧
  (∀ (s : State) id op data team cp o, ready s id op team cp o → o.got = none →
    s.copyWaits team id cp (begun cp o data) = true → exec (.transferOperation id op data) s = .next s) ∧
  (∀ (s : State) id team cp, finished s id team cp → (s.course cp.crs).trapsOn (cp.flags &&& cp.may) = false → cp.bar = none →
    exec (.copyComplete id) s = .next (off s id team cp)) ∧
  (∀ (s : State) id team cp, finished s id team cp → (s.course cp.crs).trapsOn (cp.flags &&& cp.may) = true → cp.bar = none →
    (s.course cp.crs).taken cp.slot = true → (s.course cp.crs).sup = none → (s.course cp.crs).reenter = none →
    ((s.course cp.crs).slotN cp.slot).wait = .none →
    exec (.copyComplete id) s = .next ((off s id team cp).raise cp.crs cp.slot
      { arithTrap cp.pc cp.act (cp.flags &&& cp.may) with resume := ((s.course cp.crs).slotN cp.slot).pc })) ∧
  (∀ (s : State) id team cp b, finished s id team cp → (s.course cp.crs).trapsOn (cp.flags &&& cp.may) = false →
    cp.bar = some b → ∃ t, exec (.copyComplete id) s = .next t ∧ t.bar team b = (s.bar team b).arrive 1 ∧
      Tab.find (t.team team).copies id = none) ∧
  (∀ r path, DoesIf (.waitc r path) r.head
    (fun s x => x.act = 0#32 ∨ ((s.issuer x).eng.path path).length ≤ s.usrc x r.a) (fun s x => s.went x)) ∧
  (∀ r path, DoesIf (.waitc r path) r.head
    (fun s x => x.act ≠ 0#32 ∧ s.usrc x r.a < ((s.issuer x).eng.path path).length)
    (fun s x => s.waits x (.waitc path (s.usrc x r.a)))) ∧
  (∀ (s : State) crs j path n, ((s.course crs).slotN j).wait = .waitc path n → s.running (s.course crs) = true →
    ((s.course crs).eng.path path).length ≤ n →
    exec (.waitcComplete crs j) s = .next (s.advance crs j ((s.course crs).slotN j).act)) ∧
  (∀ (s : State) crs path, ∃ t, exec (.engineOpRetire crs path) s = .next t ∧
    ((t.course crs).eng.path path) = ((s.course crs).eng.path path).dropWhile (fun k => k.done) ∧
    (∀ p, p ≠ path → (t.course crs).eng.path p = (s.course crs).eng.path p))

/-! ## The matrix unit -/

/-- R369–R373, R376–R385, R390: the matrix words and the accumulator words. A word that passes its checks and finds room
in its bay's operand queue puts its entries there and goes on; a matrix word with an empty fragment waits or traps, one
with a poisoned fragment or a format register that names no format traps; ACCZ past the team's tiles, and an ACCLD or
ACCST out of place, trap. MBATCH counts the open entries as one operation. -/
def Obligations.MatrixWords : Prop :=
  let c := fun (s : State) (x : Ctx) => s.issuer x
  let regs := fun (r : RWord) (sc : Option Nat) (s : State) (x : Ctx) =>
    (List.range 8).map (fun i => (r.a.field.toNat + i, x.act)) ++
      (List.range 8).map (fun i => (r.b.field.toNat + i, s.columnLanes (c s x))) ++
      sc.toList.map (fun n => (n, s.columnLanes (c s x)))
  let empty := fun (r : RWord) (sc : Option Nat) (s : State) (x : Ctx) =>
    (regs r sc s x).any (fun g => (c s x).laneEmpty x.sup g.1 g.2)
  let bad := fun (r : RWord) (sc : Option Nat) (s : State) (x : Ctx) => ((regs r sc s x).flatMap (fun g =>
    ((lanesOf g.2).filter (fun L => s.lanePoison (c s x) x.sup g.1 L)).map (fun L => (L, g.1)))).head?
  let qs := fun (x : Ctx) => [0, 1, 2, 3].filter (fun q => (lanesOf x.act).any (fun L => L / 8 == q))
  let word := fun (fa : MatFmt) (s : State) (x : Ctx) => (matFm fa).elim 0#32 (c s x).fmReg
  let fmt := fun (fa : MatFmt) (s : State) (x : Ctx) => matFmtOf fa (word fa s x)
  let works := fun (r : RWord) (fa fb : MatFmt) (z : Bool) (sc : Option Nat) (s : State) (x : Ctx) =>
    let scale := fun L => (sc.map (fun n => s.laneVal (c s x) x.sup n L)).getD 0#32
    (qs x).map (fun k => MatWork.quarter (r.d.toNat + k)
      (((lanesOf x.act).filter (fun L => L / 8 == k)).map (fun L =>
        (L % 8, s.fragment x (c s x) r.a.field.toNat L, scale L)))
      ((lanesOf (s.columnLanes (c s x))).map (fun L => (L, s.fragment x (c s x) r.b.field.toNat L, scale L)))
      fa fb (word fa s x) (word fb s x) (matDepth (fmt fa s x) (fmt fb s x)) sc.isSome z x.ftz 0)
  let may := fun (fa fb : MatFmt) (sc : Option Nat) (s : State) (x : Ctx) =>
    if (fmt fa s x).e == 0 && (fmt fb s x).e == 0 && !sc.isSome then 0#32 else matMay (fmt fa s x) (fmt fb s x) sc.isSome
  let product := fun (i : Instr) (r : RWord) (fa fb : MatFmt) (z : Bool) (sc : Option Nat) =>
    let fms := [fa, fb].filterMap matFm
    DoesIf i r.head (fun _ x => x.act = 0#32) (fun s x => s.went x) ∧
    DoesIf i r.head (fun s x => x.act ≠ 0#32 ∧ empty r sc s x = false ∧ bad r sc s x = none ∧
        (c s x).badFormat fms = none ∧ s.queueRoom (c s x) (qs x).length = true)
      (fun s x => (s.enqueue x (works r fa fb z sc s x) (may fa fb sc s x) true (c s x).nextPend).went x) ∧
    DoesIf i r.head (fun s x => x.act ≠ 0#32 ∧ empty r sc s x = false ∧ bad r sc s x = none ∧
        (c s x).badFormat fms = none ∧ s.queueRoom (c s x) (qs x).length = false) (fun s x => s.blocked x false) ∧
    DoesIf i r.head (fun s x => x.act ≠ 0#32 ∧ empty r sc s x = true)
      (fun s x => if x.h.e then s.trapped x (x.trap 0x09) else s.blocked x true) ∧
    (∀ p, DoesIf i r.head (fun s x => x.act ≠ 0#32 ∧ empty r sc s x = false ∧ bad r sc s x = some p)
      (fun s x => s.trapped x (x.dataError p))) ∧
    (∀ n, DoesIf i r.head (fun s x => x.act ≠ 0#32 ∧ empty r sc s x = false ∧ bad r sc s x = none ∧
        (c s x).badFormat fms = some n) (fun s x => s.trapped x (x.formatTrap n)))
  let one := fun (w : MatWork) (s : State) (x : Ctx) => s.enqueue x [w] 0#32 true (c s x).nextPend
  let room := fun (s : State) (x : Ctx) => s.queueRoom (c s x) 1 = true
  let X := fun (m : MWord) (s : State) (x : Ctx) => s.effAddr x (c s x) m 1 0
  let inTeam := fun (m : MWord) (s : State) (x : Ctx) =>
    X m s x % 128 = 0 ∧ 0 ≤ X m s x ∧ X m s x + 1024 ≤ ((s.lrOf (c s x)).shared : Int)
  let tile := fun (i : Instr) (m : MWord) (kind : Nat) (w : Nat → Nat → MatWork) =>
    DoesIf i m.head (fun _ x => x.act = 0#32) (fun s x => s.went x) ∧
    DoesIf i m.head (fun s x => x.act ≠ 0#32 ∧ inTeam m s x ∧ room s x)
      (fun s x => (one (w m.ds.toNat (X m s x).toNat) s x).went x) ∧
    DoesIf i m.head (fun s x => x.act ≠ 0#32 ∧ X m s x % 128 ≠ 0)
      (fun s x => s.trapped x { x.trap 0x08 with addr := intBits (X m s x) 64 }) ∧
    DoesIf i m.head (fun s x => x.act ≠ 0#32 ∧ X m s x % 128 = 0 ∧ ¬ inTeam m s x)
      (fun s x => s.trapped x { x.trap 0x07 with sub := 2, addr := intBits (X m s x) 64, info := kind })
  (∀ r fa fb z, product (.mma r fa fb z) r fa fb z none) ∧
  (∀ r fa fb z, product (.mmas r fa fb z) r fa fb z (some r.c.field.toNat)) ∧
  (∀ r, DoesIf (.accz r) r.head (fun _ x => x.act = 0#32) (fun s x => s.went x)) ∧
  (∀ r, DoesIf (.accz r) r.head
    (fun s x => x.act ≠ 0#32 ∧ r.d.toNat + r.a.field.toNat ≤ 4 * (s.lrOf (c s x)).tiles ∧ room s x)
    (fun s x => (one (.zero r.d.toNat r.a.field.toNat) s x).went x)) ∧
  (∀ r, DoesIf (.accz r) r.head (fun s x => x.act ≠ 0#32 ∧ 4 * (s.lrOf (c s x)).tiles < r.d.toNat + r.a.field.toNat)
    (fun s x => s.trapped x x.illegalOperand)) ∧
  (∀ m, tile (.accld m) m 0 (fun d o => .load d o (List.range 64))) ∧
  (∀ m, tile (.accst m) m 1 (fun d o => .store d o (List.range 64))) ∧
  (∀ r, DoesIf (.accrd r) r.head (fun _ x => x.act = 0#32) (fun s x => s.went x)) ∧
  (∀ r, DoesIf (.accrd r) r.head (fun s x => x.act ≠ 0#32 ∧ room s x) (fun s x =>
    let t := s.addPend x .other .remote ((List.range 8).map (fun i => (⟨x.sup, true, r.d.toNat + i⟩, x.act))) 0#32 0#32
    (t.enqueue x [.read r.a.field.toNat (c s x).nextPend r.d.toNat x.sup x.act] 0#32 false (c s x).nextPend).went x)) ∧
  (∀ h, DoesIf (.mbatch h) h (fun _ x => x.act = 0#32) (fun s x => s.went x)) ∧
  (∀ h, DoesIf (.mbatch h) h (fun s x => x.act ≠ 0#32 ∧ (c s x).eng.mat.length < 255) (fun s x =>
    (s.setCourse x.crs { (c s x).countOp .mat (c s x).openAcc with openAcc := [] }).went x)) ∧
  (∀ h, DoesIf (.mbatch h) h (fun s x => x.act ≠ 0#32 ∧ 255 ≤ (c s x).eng.mat.length) (fun s x => s.blocked x false))

/-- R377–R384, R389: the entry at the head of an operand queue is performed: a step of a quarter-operation, ACCZ, ACCRD, or one
16-byte element of an ACCLD or ACCST (any of those left, log 117), on the tiles of its team. A quarter-operation of a halting team stops at its step, unless an ACCRD of the team is
still queued (log 57). -/
def Obligations.MatrixUnit : Prop :=
  let q := fun (s : State) core bay => ((s.core core).bay bay).queue
  let team := fun (s : State) (e : MatEntry) => (s.course e.crs).team
  let done := fun (s : State) core bay (e : MatEntry) rest =>
    (s.setQueue core bay rest).onCourse e.crs (fun c => c.entryDone e.id)
  (∀ (s : State) core bay e rest tile rows cols fa fb wa wb k sc z ftz n, q s core bay = e :: rest →
    e.work = .quarter tile rows cols fa fb wa wb k sc z ftz n → (s.team (team s e)).state ≠ .halting →
    n + 1 < k / matStride k →
    let r := (s.team (team s e)).quarterStep ⟨matFmtOf fa wa, matFmtOf fb wb, k, sc, ftz⟩ tile rows cols z n
    exec (.quarterStep core bay) s = .next ((s.setTeam (team s e) r.1).setQueue core bay
      ({ e with work := .quarter tile rows cols fa fb wa wb k sc z ftz (n + 1), flags := e.flags ||| r.2 } :: rest))) ∧
  (∀ (s : State) core bay e tile rows cols fa fb wa wb k sc z ftz n, q s core bay = [e] →
    e.work = .quarter tile rows cols fa fb wa wb k sc z ftz n → (s.team (team s e)).state ≠ .halting →
    k / matStride k ≤ n + 1 →
    let r := (s.team (team s e)).quarterStep ⟨matFmtOf fa wa, matFmtOf fb wb, k, sc, ftz⟩ tile rows cols z n
    (s.course e.crs).trapsOn (e.mates ||| wordFlags e.sup (e.flags ||| r.2)) = false →
    exec (.quarterStep core bay) s = .next (((s.setTeam (team s e) r.1).setQueue core bay []).onCourse e.crs (fun c =>
      (c.entryDone e.id).orFlags (wordFlags e.sup (e.flags ||| r.2))))) ∧
  (∀ (s : State) core bay e tile rows cols fa fb wa wb k sc z ftz n, q s core bay = [e] →
    e.work = .quarter tile rows cols fa fb wa wb k sc z ftz n → (s.team (team s e)).state = .halting →
    exec (.quarterStep core bay) s = .next s) ∧
  (∀ (s : State) core bay e rest tile n, q s core bay = e :: rest → e.work = .zero tile n →
    exec (.accumulatorEntry core bay) s = .next (done (s.onTeam (team s e) (fun t => t.zeroTiles tile n)) core bay e rest)) ∧
  (∀ (s : State) core bay e rest, q s core bay = e :: rest → ((∃ t o l, e.work = .load t o l) ∨ ∃ t o l, e.work = .store t o l) →
    s.entryWaits e = true → exec (.accumulatorEntry core bay) s = .next s) ∧
  (∀ (s : State) core bay e rest tile o l k, q s core bay = e :: rest → e.work = .load tile o l → s.entryWaits e = false →
    s.nextElem l = some k → exec (.accumulatorEntry core bay) s = .next
      (let t := s.onTeam (team s e) (fun t => t.loadPart tile o k)
       if l.erase k = [] then done t core bay e rest
       else t.setQueue core bay ({ e with work := .load tile o (l.erase k) } :: rest))) ∧
  (∀ (s : State) core bay e rest tile o l k, q s core bay = e :: rest → e.work = .store tile o l → s.entryWaits e = false →
    s.nextElem l = some k → exec (.accumulatorEntry core bay) s = .next
      (let t := s.onTeam (team s e) (fun t => t.storePart tile o k)
       if l.erase k = [] then done t core bay e rest
       else t.setQueue core bay ({ e with work := .store tile o (l.erase k) } :: rest))) ∧
  (∀ (s : State) l, l ≠ [] → ∃ k ∈ l, s.nextElem l = some k) ∧
  (∀ (s : State) core bay e rest tile pid d sup act, q s core bay = e :: rest → e.work = .read tile pid d sup act →
    exec (.accumulatorEntry core bay) s = .next (done (s.readTile e.crs pid tile d sup act) core bay e rest)) ∧
  (∀ (t : Team) tile n k i c, i < 8 → c < 32 →
    (t.zeroTiles tile n).accElem k i c = if tile ≤ k ∧ k < tile + n then {} else t.accElem k i c) ∧
  (∀ (t : Team) tile o k i c, k < 64 → i < 8 → c < 32 → (t.loadPart tile o k).accElem tile i c = if k = 8 * i + c / 4 then
      ⟨wd (ofBytes (t.shared.read (o + 128 * i + 4 * c) 4)), poisonedIn t.shared.poison (o + 128 * i + 4 * c) 4⟩
    else t.accElem tile i c) ∧
  (∀ (t : Team) tile o k i c, k < 64 → i < 8 → c < 32 → k = 8 * i + c / 4 →
    (t.storePart tile o k).shared.read (o + 128 * i + 4 * c) 4 = bytesOf 4 (t.accElem tile i c).val.toNat) ∧
  (∀ (t : Team) tile o k a, k < 64 → (a < o + 16 * k ∨ o + 16 * k + 16 ≤ a) →
    (t.storePart tile o k).shared.read a 1 = t.shared.read a 1)

/-! ## The fabric -/

/-- R399: the checks of one lane of COLL in their order: the poison of its descriptor registers, the descriptor's fields, the
alignment of each of its addresses and that its bytes lie in one 256-byte block, and the page of each. -/
def collLaneChecksHold : Prop :=
  ∀ (s : State) (x : Ctx) (c : Course) (r : RWord) mode all L,
    let sides := s.collSides x c r mode L
    let n := s.collReg x c r L 5
    let wrong := fun (e : CollSide) => e.1 % mode.align ≠ 0 ∨ e.1 / 256 ≠ (e.1 + n - 1) / 256
    let page := fun (e : CollSide) => s.mainPage x c e.1 e.2.1 L all e.2.2
    let look := s.collLane x c r mode all L
    let clean := ∀ i, i < 8 → s.lanePoison c x.sup (r.a.field.toNat + i) L = false
    (∀ i, i < 8 → s.lanePoison c x.sup (r.a.field.toNat + i) L = true →
      (∀ k, k < i → s.lanePoison c x.sup (r.a.field.toNat + k) L = false) →
      look = ⟨.trap (x.dataError (L, r.a.field.toNat + i)), []⟩) ∧
    (clean → s.collFields x c r mode L = false → look = ⟨.trap { x.illegalOperand with lane := some L }, []⟩) ∧
    (∀ pre e post, clean → s.collFields x c r mode L = true → sides = pre ++ e :: post → (∀ y ∈ pre, ¬ wrong y) → wrong e →
      look = ⟨.trap (x.addrTrap 0x08 0 L e.1 0), []⟩) ∧
    (∀ v vas, clean → s.collFields x c r mode L = true → (∀ e ∈ sides, ¬ wrong e) → stopsAt page sides v vas → look = ⟨v, vas⟩) ∧
    (clean → s.collFields x c r mode L = true → (∀ e ∈ sides, ¬ wrong e) → (∀ e ∈ sides, (page e).res = .ok) →
      look = ⟨.ok, sides.map (fun e => e.1)⟩)

/-- R395–R399, R422: COLL and CSIG. A COLL whose lanes pass their checks is counted, leaves its status registers empty and hands
its descriptors to the collective die; the first lane whose check fails traps, the translations looked up until then being held,
and a page that is being moved makes the word wait; .ar without a group of this package, and a
notify of a counter that is not held, trap. CSIG delivers the order signature of a group, or 0. -/
def Obligations.CollectiveWords : Prop :=
  let c := fun (s : State) (x : Ctx) => s.issuer x
  let all := fun (r : RWord) (mode : State → Ctx → CollMode) (s : State) (x : Ctx) =>
    (lanesOf x.act).flatMap (fun L => (s.collSides x (c s x) r (mode s x) L).map (fun e => (L, e.1)))
  let look := fun (r : RWord) (mode : State → Ctx → CollMode) (s : State) (x : Ctx) =>
    s.collLane x (c s x) r (mode s x) (all r mode s x)
  let checked := fun (r : RWord) (mode : State → Ctx → CollMode) (s : State) (x : Ctx) =>
    ∀ L ∈ lanesOf x.act, (look r mode s x L).res = .ok
  let starts := fun (i : Instr) (r : RWord) (ok : State → Ctx → Prop) (mode : State → Ctx → CollMode) =>
    DoesIf i r.head (fun _ x => x.act = 0#32) (fun s x => s.went x) ∧
    DoesIf i r.head (fun s x => x.act ≠ 0#32 ∧ ok s x ∧ checked r mode s x ∧ (c s x).eng.coll.length < 255)
      (fun s x => (s.startColl x (c s x) r (mode s x)).went x) ∧
    DoesIf i r.head (fun s x => x.act ≠ 0#32 ∧ ok s x ∧ checked r mode s x ∧ 255 ≤ (c s x).eng.coll.length)
      (fun s x => s.heldPast x ((all r mode s x).map (fun a => a.2)) false) ∧
    (∀ t vas, DoesIf i r.head (fun s x => x.act ≠ 0#32 ∧ ok s x ∧ stopsAt (look r mode s x) (lanesOf x.act) (.trap t) vas)
      (fun s x => s.trappedPast x vas t)) ∧
    (∀ vas, DoesIf i r.head (fun s x => x.act ≠ 0#32 ∧ ok s x ∧ stopsAt (look r mode s x) (lanesOf x.act) .wait vas)
      (fun s x => s.heldPast x vas false)) ∧
    DoesIf i r.head (fun s x => x.act ≠ 0#32 ∧ ¬ ok s x) (fun s x => s.trapped x x.illegalOperand)
  let grp := fun (r : RWord) (s : State) (x : Ctx) => s.groupOf (s.ctxOf (c s x)) (s.usrc x r.b)
  (∀ r ntf, starts (.collPut r ntf) r (fun s x => ntf = true → s.usrc x r.c < (s.lrOf (c s x)).events)
    (fun s x => .put (if ntf then some (s.usrc x r.c) else none))) ∧
  (∀ r, starts (.collGet r) r (fun _ _ => True) (fun _ _ => .get)) ∧
  (∀ r ty op, starts (.collAr r ty op) r
    (fun s x => s.usrc x r.b ≤ 255 ∧ ∃ g, grp r s x = some g ∧ s.chip ∈ g.members)
    (fun s x => .ar ty op (s.usrc x r.b) (((grp r s x).map (fun g => g.joined)).getD 0))) ∧
  (∀ r, LateDoes (.csig r) r.head .other (fun s x => s.usrc x r.a ≤ 255) (fun s _ => s) true r.d 2 (fun _ _ => 0#32)
    (fun s x _ => ((s.groupOf (s.ctxOf (c s x)) (s.usrc x r.a)).map Group.signature).getD 0) (fun _ _ => 0#32)) ∧
  (∀ r, DoesIf (.csig r) r.head (fun s x => x.act ≠ 0#32 ∧ 255 < s.usrc x r.a) (fun s x => s.trapped x x.illegalOperand)) ∧
  collLaneChecksHold

/-- R392, R398, R400–R402: the work of the collective die. A .put writes its bytes at their home and notifies with the
last lane for a die, and one to another package is done when it is acknowledged; a .get writes what the remote bytes hold; a
.ar combines the chunks of all members along the tree and writes the result; the status gives the lanes that are done and
the cause, that of the lowest lane that has one, and a notify goes with the last lane's bytes (the model's reading, log 40); a
.ar some member of which stays away times out. -/
def Obligations.CollectiveWork : Prop :=
  let lane := fun (s : State) id L k l => Tab.find s.colls id = some k ∧ k.cause = 0 ∧
    k.lanes.find? (fun y => y.lane == L) = some l ∧ l.done = false ∧ l.cause = 0 ∧
    ∀ m ∈ k.lanes, s.walkWaits k.ctx m.localVa = false ∧ (m.peer.chip = s.chip → s.walkWaits k.ctx m.remoteVa = false)
  let quiet : CollInput → Prop := fun inp => inp.arrived = none ∧ inp.asked = none ∧ inp.cause = 0
  let done := fun (s : State) id L => s.onCollLane id L (fun m => { m with done := true })
  let put := fun (s : State) (k : Coll) (l : CollLane) (h : Dest × Nat) (n : Option Nat) =>
    ({ chip := s.chip, ctag := (s.context k.ctx).tag, dest := l.peer, va := l.remoteVa, pa := l.remotePa,
       bytes := (s.bytesAt h.2 l.len).1, poison := (s.bytesAt h.2 l.len).2, ntf := n } : CollPut)
  (∀ (s : State) id L k l inp ntf h, lane s id L k l → quiet inp → k.mode = .put ntf → l.result = none →
    s.ownPlace k.ctx l.localVa true = .ok h → h.1.host = false → l.peer.chip = s.chip →
    (ntf = none ∨ k.lastFor l = true) → (s.deliverPut (put s k l h ntf)).2 = 0 →
    exec (.collWork id L inp) s = .next (done (s.deliverPut (put s k l h ntf)).1 id L)) ∧
  (∀ (s : State) id L k l inp ntf h, lane s id L k l → quiet inp → k.mode = .put ntf → l.result = none →
    s.ownPlace k.ctx l.localVa true = .ok h → h.1.host = false → l.peer.chip ≠ s.chip →
    s.reaches s.chip l.peer.chip = true → (ntf = none ∨ k.lastFor l = true) →
    exec (.collWork id L inp) s = .next
      (let w := put s k l h ntf
       let t := s.onCollLane id L (fun m => { m with result := some (w.bytes, w.poison) })
       { t with net := s.net ++ [.put w] })) ∧
  (∀ (s : State) id L k l inp ntf x, lane s id L k l → quiet inp → k.mode = .put ntf → l.result = some x → inp.acked = true →
    exec (.collWork id L inp) s = .next (done s id L)) ∧
  (∀ (s : State) id L k l inp h g, lane s id L k l → quiet inp → k.mode = .get → l.peer.chip = s.chip →
    s.ownPlace k.ctx l.remoteVa true = .ok h → h.1.host = false → s.ownPlace k.ctx l.localVa false = .ok g →
    exec (.collWork id L inp) s = .next (done (s.putAt k.ctx g (s.bytesAt h.2 l.len)) id L)) ∧
  (∀ (s : State) id L k l inp ty op g seq x h, lane s id L k l → quiet inp → k.mode = .ar ty op g seq → l.result = some x →
    s.ownPlace k.ctx l.localVa false = .ok h → exec (.collWork id L inp) s = .next (done (s.putAt k.ctx h x) id L)) ∧
  (∀ (s : State) id L k l inp ty op g seq x, Tab.find s.colls id = some k → k.cause = 0 →
    k.lanes.find? (fun y => y.lane == L) = some l → l.done = false → l.cause = 0 →
    (∀ m ∈ k.lanes, s.walkWaits k.ctx m.localVa = false ∧ (m.peer.chip = s.chip → s.walkWaits k.ctx m.remoteVa = false)) →
    inp.arrived = none → inp.asked = none → k.mode = .ar ty op g seq → l.result = some x → (inp.cause = 1 ∨ inp.cause = 4) →
    exec (.collWork id L inp) s = .next (s.collFail id inp.cause)) ∧
  (∀ (s : State) ctx h x a, h.1.host = false → (s.putAt ctx h x).memRead a 1 =
    if h.2 ≤ a ∧ a < h.2 + x.1.length then [x.1.getD (a - h.2) 0#8] else s.memRead a 1) ∧
  (∀ (s t : State) id L k l inp ty op g seq gr own, lane s id L k l → quiet inp → k.mode = .ar ty op g seq → l.result = none →
    s.groupOf k.ctx g = some gr → s.groupWhole gr = true →
    let me := gr.rankOf s.chip
    let ranks := (List.range gr.members.length).filter (fun r => r != me)
    (∀ r ∈ ranks, ∃ c ∈ inp.chunks, c.rank = r) →
    chunksAgree k ranks ty op (inp.chunks.filter (fun c => c.rank != me)) = true →
    s.ownChunks k me inp = .ok (some (t, own)) →
    exec (.collWork id L inp) s = .next { t with colls := Tab.put t.colls id { k with lanes := k.lanes.map (fun m =>
      { m with result := some (combine gr ty op m.len (fun r => if r = me then Tab.get ([], []) own m.key
          else ((inp.chunks.find? (fun c => c.rank == r && c.key == m.key)).map (fun c => (c.bytes, c.poison))).getD ([], []))) }) } }) ∧
  (∀ (s : State) id L inp w, inp.arrived = some w → w.dest.chip = s.chip → w.dest.host = false → w.chip ≠ s.chip →
    s.tagWaits w.ctag w.va = false →
    exec (.collWork id L inp) s = .next { (s.deliverPut w).1 with net := (s.deliverPut w).1.net ++ [.putDone w (s.deliverPut w).2] }) ∧
  (∀ (s : State) w, s.verdict (enginePacket w.chip w.ctag w.dest w.va w.pa w.bytes false w.ntf) = .apply → w.ntf = none →
    s.deliverPut w = ((s.noteTail w.pa w.bytes.length).memWrite w.pa w.bytes (w.poison.map (fun o => w.pa + o)), 0)) ∧
  (∀ (s : State) id k d sup, Tab.find s.colls id = some k → (k.cause ≠ 0 ∨ ∀ l ∈ k.lanes, l.done = true ∨ l.cause ≠ 0) →
    (s.course k.crs).pendDest k.pend = some (d, sup) →
    let cause := if k.cause ≠ 0 then k.cause else (((k.lanes.map (fun l => l.cause)).find? (fun c => c != 0)).getD 0)
    exec (.collComplete id) s = .next
      (let t := s.landPend k.crs k.pend [.unif sup d (maskOfLanes ((k.lanes.filter (fun l => l.done)).map (fun l => l.lane))),
          .unif sup (d + 1) (wd (cause + b2n k.rebuilt * 2 ^ 8))] 0#32
       { t.onCourse k.crs (fun c => c.opDone .coll k.count) with colls := Tab.del t.colls id })) ∧
  (∀ (s : State) id k ty op g seq gr, Tab.find s.colls id = some k → k.mode = .ar ty op g seq → s.groupOf k.ctx g = some gr →
    k.cause = 0 → k.since + gr.timeout ≤ s.clock → 2 ≤ gr.members.length → (∀ l ∈ k.lanes, l.result = none) →
    exec (.collTimeout id) s = .next (s.collFail id (if s.groupWhole gr then 2 else 6)))

/-- R404–R406, R410, R422: the exchange words. XSEND with a size of 16 to 4080 in steps of 16 makes one token for each lane, and
traps at the first lane whose descriptor is poisoned, has a wrong field, is misaligned, or names a page that fails; XRECV in
its four forms acts on its window as its answer lands (the model's reading, log 41); a window that the grid does not hold
traps. -/
def Obligations.ExchangeWords : Prop :=
  let c := fun (s : State) (x : Ctx) => s.issuer x
  let S := fun (r : RWord) (s : State) (x : Ctx) => s.usrc x r.b
  let sizeOk := fun (r : RWord) (s : State) (x : Ctx) => S r s x % 16 = 0 ∧ 16 ≤ S r s x ∧ S r s x ≤ 4080
  let va := fun (r : RWord) (s : State) (x : Ctx) (L : Nat) => s.collReg x (c s x) r L 0 + s.collReg x (c s x) r L 1 * 2 ^ 32
  let place := fun (s : State) (v : Nat) => v < 2 ^ 18 ∧ s.inDomain (v % 2 ^ 10) = true
  let fields := fun (r : RWord) (s : State) (x : Ctx) (L : Nat) => place s (s.collReg x (c s x) r L 2) ∧
    (s.collReg x (c s x) r L 3 = 0x80000000 ∨ place s (s.collReg x (c s x) r L 3)) ∧ s.collReg x (c s x) r L 6 = 0 ∧
    s.collReg x (c s x) r L 7 = 0
  let all := fun (r : RWord) (s : State) (x : Ctx) =>
    (lanesOf x.act).flatMap (fun L => pagesOf L (va r s x L) (S r s x) 1 .package)
  let look := fun (r : RWord) (s : State) (x : Ctx) => s.sendLane x (c s x) r (S r s x) (all r s x)
  let win := fun (r : RWord) (s : State) (x : Ctx) => s.usrc x r.a
  let xrecv := fun (i : Instr) (r : RWord) (w : Nat) (act : State → Ctx → WindowAct) =>
    DoesIf i r.head (fun _ x => x.act = 0#32) (fun s x => s.went x) ∧
    DoesIf i r.head (fun s x => x.act ≠ 0#32 ∧ win r s x < (s.lrOf (c s x)).windows ∧ (c s x).eng.xch.length < 255) (fun s x =>
      ((s.addPend x .other (.window (win r s x) (act s x) (c s x).nextOp r.d.toNat x.sup) (lateFills x true r.d.toNat w)
        0#32 0#32).onCourse x.crs (fun c => c.countOp .xch [])).went x) ∧
    DoesIf i r.head (fun s x => x.act ≠ 0#32 ∧ (s.lrOf (c s x)).windows ≤ win r s x)
      (fun s x => s.trapped x x.illegalOperand)
  (∀ r, DoesIf (.xsend r) r.head (fun _ x => x.act = 0#32) (fun s x => s.went x)) ∧
  (∀ r, DoesIf (.xsend r) r.head (fun s x => x.act ≠ 0#32 ∧ ¬ sizeOk r s x) (fun s x => s.trapped x x.illegalOperand)) ∧
  (∀ r t vas, DoesIf (.xsend r) r.head (fun s x => x.act ≠ 0#32 ∧ sizeOk r s x ∧ stopsAt (look r s x) (lanesOf x.act) (.trap t) vas)
    (fun s x => s.trappedPast x vas t)) ∧
  (∀ r vas, DoesIf (.xsend r) r.head (fun s x => x.act ≠ 0#32 ∧ sizeOk r s x ∧ stopsAt (look r s x) (lanesOf x.act) .wait vas)
    (fun s x => s.heldPast x vas false)) ∧
  (∀ r, DoesIf (.xsend r) r.head (fun s x => x.act ≠ 0#32 ∧ sizeOk r s x ∧ (∀ L ∈ lanesOf x.act, (look r s x L).res = .ok) ∧
      255 ≤ (c s x).eng.xch.length) (fun s x => s.heldPast x ((all r s x).map (fun a => a.va)) false)) ∧
  (∀ (s : State) (x : Ctx) r L,
    let page := fun (a : PageAcc) =>
      s.mainPage x (c s x) a.va a.need L ((all r s x).map (fun b => (b.lane, b.va))) a.rule
    let clean := ∀ i, i < 8 → s.lanePoison (c s x) x.sup (r.a.field.toNat + i) L = false
    (∀ i, i < 8 → s.lanePoison (c s x) x.sup (r.a.field.toNat + i) L = true →
      (∀ k, k < i → s.lanePoison (c s x) x.sup (r.a.field.toNat + k) L = false) →
      look r s x L = ⟨.trap (x.dataError (L, r.a.field.toNat + i)), []⟩) ∧
    (clean → ¬ fields r s x L → look r s x L = ⟨.trap { x.illegalOperand with lane := some L }, []⟩) ∧
    (clean → fields r s x L → va r s x L % 16 ≠ 0 → look r s x L = ⟨.trap (x.addrTrap 0x08 0 L (va r s x L) 0), []⟩) ∧
    (∀ v vas, clean → fields r s x L → va r s x L % 16 = 0 → stopsAt page (pagesOf L (va r s x L) (S r s x) 1 .package) v vas →
      look r s x L = ⟨v, vas⟩)) ∧
  (∀ r, DoesIf (.xsend r) r.head (fun s x => x.act ≠ 0#32 ∧ sizeOk r s x ∧
      (∀ L ∈ lanesOf x.act, (look r s x L).res = .ok) ∧ (c s x).eng.xch.length < 255)
    (fun s x =>
      let id := Tab.fresh s.xsends
      let t := ((s.tlbFill (s.ctxOf (c s x)) ((all r s x).map (fun a => a.va))).addPend x .other .remote
        [(⟨x.sup, true, r.d.toNat⟩, x.act)] 0#32 0#32).onCourse x.crs (fun c => c.countOp .xch [])
      ({ t with
          xsends := Tab.put s.xsends id
            { crs := x.crs, pend := (c s x).nextPend, count := (c s x).nextOp, lanes := lanesOf x.act, done := [] }
          tokens := s.tokens ++ s.tokensOf x (c s x) r (S r s x) id } : State).went x)) ∧
  (∀ r, xrecv (.xrecv r) r 2 (fun s x => .claim (s.usrc x r.b))) ∧
  (∀ r, xrecv (.xrecvFree r) r 1 (fun s x => .free (s.usrc x r.b))) ∧
  (∀ r, xrecv (.xrecvCfg r) r 1 (fun s x =>
    let u := fun i => (s.unifVal (c s x) x.sup (r.b.field.toNat + i)).toNat
    .cfg (u 0 + u 1 * 2 ^ 32) (u 2 % 2 ^ 16) (u 2 / 2 ^ 16) (u 3) (s.lrOf (c s x)).events)) ∧
  (∀ r, xrecv (.xrecvStat r) r 2 (fun _ _ => .stat))

/-- R404, R407–R410: tokens and windows. The routing engine sends the tokens of a send list in order; at its window a
token fills the next slot with its header and its bytes; a full window forwards it once to its secondary or drops it; a
window that is not there, or too small, gives status 3. XRECV claims placed tokens and frees slots, never beyond what is
there. -/
def Obligations.Windows : Prop :=
  let w := fun (s : State) ctx win => Tab.find s.windows (windowKey ctx win)
  (∀ (s : State) t, t.sent = false → t.schip = s.chip → t ∈ s.tokens → s.nextToSend t = true → s.tokenWaits t = true →
    exec (.tokenArrival t) s = .next s) ∧
  (∀ (s : State) t, t.sent = false → t.schip = s.chip → t ∈ s.tokens → s.nextToSend t = true → s.tokenWaits t = false →
    exec (.tokenArrival t) s = .next (s.routeToken t)) ∧
  (∀ (s : State) t, t.sent = true → t ∈ s.tokens → t.redir = false → t.primChip = s.chip →
    Tab.get 0 s.listNext (listKey t) = t.seq →
    exec (.tokenArrival t) s = .next (({ s with
      tokens := s.tokens.erase t
      listNext := Tab.put s.listNext (listKey t) (t.seq + 1) } : State).placeToken t t.primWin)) ∧
  (∀ (s : State) t sec, t.sent = true → t ∈ s.tokens → t.redir = true → t.sec = some sec → sec.1 = s.chip →
    exec (.tokenArrival t) s = .next (({ s with tokens := s.tokens.erase t } : State).placeToken t sec.2)) ∧
  (∀ (s u : State) t ctx win y, s.ctxByTag t.ctag = some ctx → w s ctx win = some y → t.size + 16 ≤ 64 * y.z →
    (y.f + 2 ^ 32 - y.fr) % 2 ^ 32 < y.n →
    s.windowWrite ctx (y.base + 64 * y.z * (y.f % y.n)) (tokenHeader t ++ t.bytes, t.poison.map (fun o => o + 16)) = .ok u →
    s.placeToken t win =
      ((({ u with windows := Tab.put u.windows (windowKey ctx win) { y with f := (y.f + 1) % 2 ^ 32, v := (y.v + 1) % 2 ^ 32 } }
        : State).windowNotify ctx t { y with f := (y.f + 1) % 2 ^ 32, v := (y.v + 1) % 2 ^ 32 }).tokenResult t (y.f % y.n)
          (if t.redir then 1 else 0))) ∧
  (∀ (s : State) t ctx win y sec, s.ctxByTag t.ctag = some ctx → w s ctx win = some y → t.size + 16 ≤ 64 * y.z →
    y.n ≤ (y.f + 2 ^ 32 - y.fr) % 2 ^ 32 → t.redir = false → t.sec = some sec →
    s.placeToken t win = (s.count 2 0 66 1).redirect t sec) ∧
  (∀ (s : State) t ctx win y, s.ctxByTag t.ctag = some ctx → w s ctx win = some y → t.size + 16 ≤ 64 * y.z →
    y.n ≤ (y.f + 2 ^ 32 - y.fr) % 2 ^ 32 → (t.redir = true ∨ t.sec = none) →
    s.placeToken t win = (s.count 2 0 67 1).tokenResult t 0 2) ∧
  (∀ (s : State) t ctx win, s.ctxByTag t.ctag = some ctx →
    (w s ctx win = none ∨ ∃ y, w s ctx win = some y ∧ 64 * y.z < t.size + 16) → s.placeToken t win = s.tokenResult t 0 3) ∧
  (∀ (s : State) id k d sup far, Tab.find s.xsends id = some k → (s.course k.crs).pendDest k.pend = some (d, sup) →
    (∀ L ∈ k.lanes, k.done.any (fun e => e.lane == L) = true) → (∀ t ∈ s.tokens, ¬ (t.schip = s.chip ∧ t.word = id)) →
    exec (.xsendStatus id far) s = .next
      (let status := fun (L : Nat) => ((k.done.find? (fun e => e.lane == L)).map (fun e =>
         let stat := e.stat % 4
         wd (if stat < 2 then e.slot % 2 ^ 16 * 2 ^ 16 + stat else stat))).getD 0#32
       ((({ s with xsends := Tab.del s.xsends id } : State).landPend k.crs k.pend (k.lanes.map (fun L =>
         .lane sup d L (status L) false)) 0#32).onCourse k.crs (fun c => c.opDone .xch k.count)))) ∧
  (∀ (s : State) ctx win n y, w s ctx win = some y →
    let m := min n ((y.v + 2 ^ 32 - y.c) % 2 ^ 32)
    s.windowAct ctx win (.claim n) =
      ({ s with windows := Tab.put s.windows (windowKey ctx win) { y with c := (y.c + m) % 2 ^ 32 } }, y.c + m * 2 ^ 32)) ∧
  (∀ (s : State) ctx win n y, w s ctx win = some y →
    let m := min n ((y.c + 2 ^ 32 - y.fr) % 2 ^ 32)
    s.windowAct ctx win (.free n) =
      ({ s with windows := Tab.put s.windows (windowKey ctx win) { y with fr := (y.fr + m) % 2 ^ 32 } }, m)) ∧
  (∀ (s : State) ctx win y, w s ctx win = some y → s.windowAct ctx win .stat = (s, y.v + y.c * 2 ^ 32)) ∧
  (∀ (s : State) ctx win act, w s ctx win = none → (∀ a b c d e, act ≠ .cfg a b c d e) → s.windowAct ctx win act = (s, 0)) ∧
  (∀ (s : State) ctx win b n z k ev, s.windowOk ctx b n z k ev = true → w s ctx win = none →
    s.tokenInFlight ctx win = false → s.windowAct ctx win (.cfg b n z k ev) =
      ({ s with windows := Tab.put s.windows (windowKey ctx win) { base := b, n := n, z := z, counter := k } }, 0)) ∧
  (∀ (s : State) ctx win b n z k ev, s.windowOk ctx b n z k ev = false → s.windowAct ctx win (.cfg b n z k ev) = (s, 2))

/-- R335, R411, R412: domain barriers. DBAR.arr holds its arrival until the team's earlier operations are settled, and it
then counts and delivers its phase; DBAR.wait goes on where the phase has completed; a phase completes once every member
has arrived; a barrier that the context does not have, or whose group this package is no member of, traps. That the timeout
runs from the package's first arrival of a phase is the model's reading (log 41). -/
def Obligations.DomainBarriers : Prop :=
  let c := fun (s : State) (x : Ctx) => s.issuer x
  let b := fun (r : RWord) (s : State) (x : Ctx) => s.usrc x r.a
  (∀ r, DoesIf (.dbarArr r) r.head (fun _ x => x.act = 0#32) (fun s x => s.went x)) ∧
  (∀ r, DoesIf (.dbarArr r) r.head (fun s x => x.act ≠ 0#32 ∧ (s.dbarFor x (b r s x)).isSome = true) (fun s x =>
    let t := (s.mergeAll (c s x).team).pump (c s x).team
    let u := t.addPend x .other .remote [(⟨x.sup, false, r.d.toNat⟩, 0#32)] 0#32 0#32
    let a : DbarArr := ⟨x.crs, (c s x).team, (c s x).nextPend, b r s x, t.nextOpOf (c s x).team⟩
    ({ u with dbarArrs := Tab.put u.dbarArrs (Tab.fresh u.dbarArrs) a } : State).went x)) ∧
  (∀ r, DoesIf (.dbarWait r) r.head (fun _ x => x.act = 0#32) (fun s x => s.went x)) ∧
  (∀ r d, DoesIf (.dbarWait r) r.head
    (fun s x => x.act ≠ 0#32 ∧ s.dbarFor x (b r s x) = some d ∧ d.passed (s.usrc x r.b % 2 ^ 16) = true)
    (fun s x => (s.acquire (c s x).team).went x)) ∧
  (∀ r d, DoesIf (.dbarWait r) r.head
    (fun s x => x.act ≠ 0#32 ∧ s.dbarFor x (b r s x) = some d ∧ d.passed (s.usrc x r.b % 2 ^ 16) = false)
    (fun s x => s.waits x (.dbar (b r s x) (s.usrc x r.b % 2 ^ 16)))) ∧
  (∀ i (r : RWord), i = .dbarArr r ∨ i = .dbarWait r →
    DoesIf i r.head (fun s x => x.act ≠ 0#32 ∧ s.dbarFor x (b r s x) = none) (fun s x => s.trapped x x.illegalOperand)) ∧
  (∀ (s : State) id a d dst sup, Tab.find s.dbarArrs id = some a → (s.team a.team).drained 0xFFFF a.upto true = true →
    Tab.find (s.context (s.gridOf a.team).ctx).dbars a.bar = some d → (s.course a.crs).pendDest a.pend = some (dst, sup) →
    exec (.dbarArrivalCounted id) s = .next ((({ s with dbarArrs := Tab.del s.dbarArrs id } : State).setDbar
      (s.gridOf a.team).ctx a.bar { d with arrivals := d.arrivals + 1, since := if d.arrivals = 0 then some s.clock else d.since }).landPend
        a.crs a.pend [.unif sup dst (wd ((d.completed + d.arrivals) % 2 ^ 16))] 0#32)) ∧
  (∀ (s : State) id a, Tab.find s.dbarArrs id = some a → (s.team a.team).drained 0xFFFF a.upto true = false →
    exec (.dbarArrivalCounted id) s = .next s) ∧
  (∀ (s : State) ctx k arrived d g, s.dbarOf ctx k = some (d, g) → 1 ≤ d.arrivals →
    (∀ m ∈ g.members, m = s.chip ∨ m ∈ arrived) → (∀ h ∈ s.courses, s.ctxOf (s.course h.1) ≠ ctx) →
    exec (.dbarPhaseComplete ctx k arrived) s = .next (s.setDbar ctx k { d with
      completed := (d.completed + 1) % 2 ^ 16, arrivals := d.arrivals - 1,
      since := if d.arrivals = 1 then none else some s.clock })) ∧
  (∀ (s : State) crs j k P d, ((s.course crs).slotN j).wait = .dbar k P →
    Tab.find (s.context (s.ctxOf (s.course crs))).dbars k = some d → s.running (s.course crs) = true → d.passed P = true →
    s.wakeDbar crs j = (s.acquire (s.course crs).team).advance crs j ((s.course crs).slotN j).act) ∧
  (∀ (s : State) ctx k arrived d g m, s.dbarOf ctx k = some (d, g) → m ∈ g.members → m ≠ s.chip → m ∉ arrived →
    exec (.dbarPhaseComplete ctx k arrived) s = .next s) ∧
  (∀ (s : State) ctx k d g n, s.dbarOf ctx k = some (d, g) → d.since = some n → n + g.timeout < s.clock →
    exec (.dbarTimeout ctx k) s = .next ((s.setDbar ctx k { d with since := none }).mgmt ctx 6 (le 4 k ++ le 4 d.completed)))

/-! ## The front end -/

/-- R41–R43, R56–R58: LAUNCH hands its record to the front end and goes on, its destination empty; once the team's earlier
operations are acknowledged, the record enters the ring and the tail word is written, or the status says why not: 3 where the
record cannot be read, 2 where the queue cannot be used or written, which halts it, 1 where it is full. A submission waits while
a page that it needs is being moved (R430). A tail word covers new records, and one out of range halts its queue; what it does
where the tail word cannot be read or is poisoned is the model's choice (logs 52 and 120). -/
def Obligations.Launching : Prop :=
  let addr := fun (r : RWord) (s : State) (x : Ctx) => s.unifGroup (s.issuer x) x.sup r.a.field.toNat 2
  let may := fun (s : State) id (r : LaunchReq) => Tab.find s.launches id = some r ∧
    (∀ e ∈ s.launches, ¬ (e.1 < id ∧ e.2.crs = r.crs ∧ e.2.queue = r.queue)) ∧
    (s.team r.team).busyBelow 0xFFFF r.upto = false ∧ s.launchWaits (s.gridOf r.team).ctx r = false
  let answer := fun (t : State) id (r : LaunchReq) d sup st =>
    ({ t with launches := Tab.del t.launches id } : State).landPend r.crs r.pend [.unif sup d (wd st)] 0#32
  (∀ r, DoesIf (.launch r) r.head (fun _ x => x.act = 0#32) (fun s x => s.went x)) ∧
  (∀ r, DoesIf (.launch r) r.head (fun s x => x.act ≠ 0#32 ∧ addr r s x % 128 = 0) (fun s x =>
    let t := s.addPend x .other .remote [(⟨x.sup, false, r.d.toNat⟩, 0#32)] 0#32 0#32
    let y : LaunchReq := { crs := x.crs, team := (s.issuer x).team, pend := (s.issuer x).nextPend, queue := s.usrc x r.b,
                           addr := addr r s x, upto := s.nextOpOf (s.issuer x).team }
    ({ t with launches := Tab.put s.launches (Tab.fresh s.launches) y } : State).went x)) ∧
  (∀ r, DoesIf (.launch r) r.head (fun s x => x.act ≠ 0#32 ∧ addr r s x % 128 ≠ 0) (fun s x =>
    s.trapped x { x.trap 0x08 with addr := addr r s x })) ∧
  (∀ (s : State) id r d sup, may s id r → (s.course r.crs).pendDest r.pend = some (d, sup) →
    (∀ q, Tab.find s.queues r.queue = some q → q.devFed = false ∨ q.ctx ≠ (s.gridOf r.team).ctx ∨ q.halted = true) →
    exec (.launchSubmit id) s = .next (answer s id r d sup 2)) ∧
  (∀ (s : State) id r d sup q, may s id r → (s.course r.crs).pendDest r.pend = some (d, sup) →
    Tab.find s.queues r.queue = some q → q.devFed = true → q.ctx = (s.gridOf r.team).ctx → q.halted = false →
    q.used = q.slots → exec (.launchSubmit id) s = .next (answer s id r d sup 1)) ∧
  (∀ (s s1 s2 : State) id r d sup q b, may s id r → (s.course r.crs).pendDest r.pend = some (d, sup) →
    Tab.find s.queues r.queue = some q → q.devFed = true → q.ctx = (s.gridOf r.team).ctx → q.halted = false →
    q.used ≠ q.slots → s.frontRead q.ctx r.addr 128 = some b → Bytes2.bad b = false →
    (s.frontAsks q.ctx r.addr 128).frontWrite q.ctx (q.slotAddr q.tail) (b.map (fun y => y.1)) = some s1 →
    s1.frontWrite q.ctx q.tailAddr (bytesOf 8 ((q.tail + 1) % 2 ^ 32)) = some s2 → s2.courses = s.courses →
    exec (.launchSubmit id) s = .next (answer ({ s2 with
      queues := Tab.put s2.queues r.queue { q with tail := (q.tail + 1) % 2 ^ 32 } } : State) id r d sup 0)) ∧
  (∀ (s : State) id r d sup q, may s id r → (s.course r.crs).pendDest r.pend = some (d, sup) →
    Tab.find s.queues r.queue = some q → q.launchable (s.gridOf r.team).ctx = true → q.used ≠ q.slots →
    s.frontRead (s.gridOf r.team).ctx r.addr 128 = none → exec (.launchSubmit id) s = .next (answer s id r d sup 3)) ∧
  (∀ (s : State) id r, Tab.find s.launches id = some r → s.launchWaits (s.gridOf r.team).ctx r = true →
    exec (.launchSubmit id) s = .next s) ∧
  (∀ (s : State) ctx r, s.launchWaits ctx r = true ↔ ∃ q, Tab.find s.queues r.queue = some q ∧ q.launchable ctx = true ∧
    q.used ≠ q.slots ∧ (s.frontWaits ctx r.addr = true ∨ s.frontWaits ctx (q.slotAddr q.tail) = true ∨
      s.frontWaits ctx q.tailAddr = true)) ∧
  (∀ (s : State) q x b, Tab.find s.queues q = some x → x.halted = false → s.tailWord x.ctx x.tailAddr = some b →
    Bytes2.bad b = false → Bytes2.num b % 2 ^ 32 ≠ x.tail → x.devFed = false →
    ({ x with tail := Bytes2.num b % 2 ^ 32 } : Queue).used ≤ x.slots →
    exec (.tailWordWrite q) s = .next { s.frontAsks x.ctx x.tailAddr 8 with
      queues := Tab.put s.queues q { x with tail := Bytes2.num b % 2 ^ 32 } }) ∧
  (∀ (s : State) q x b, Tab.find s.queues q = some x → x.halted = false → s.tailWord x.ctx x.tailAddr = some b →
    Bytes2.bad b = false → Bytes2.num b % 2 ^ 32 ≠ x.tail →
    (x.devFed = true ∨ x.slots < ({ x with tail := Bytes2.num b % 2 ^ 32 } : Queue).used) →
    exec (.tailWordWrite q) s = .next ((s.frontAsks x.ctx x.tailAddr 8).haltQueue q)) ∧
  (∀ (s : State) q x b, Tab.find s.queues q = some x → x.halted = false → s.tailWord x.ctx x.tailAddr = some b →
    x.devFed = true → x.touched = true → exec (.tailWordWrite q) s = .next ((s.frontAsks x.ctx x.tailAddr 8).haltQueue q)) ∧
  (∀ (s : State) ctx va, (s.home ctx va).1.host = false → (s.home ctx va).1.chip = s.chip →
    s.frontPage ctx va 2 = .ok → s.inService (s.home ctx va).1.die = true →
    s.tailWord ctx va = some (Block.take2 ⟨s.mem, s.poison⟩ (s.home ctx va).2 8))

/-- R39, R44, R46–R55, R469, R470: admission. The front end takes the record of a queue whose turn it is; what waits is
started at a place that holds it; a record that is declined is refused, one that waits too long blocks its queue's
priority, and a request that the host's agent leaves unanswered for 100 ms counts as refused. That a head word which cannot
be written is passed over is the model's choice (log 60), as is that a waiting record of a halted queue still blocks (log 121). -/
def Obligations.Admission : Prop :=
  let q := fun (s : State) qn => Tab.find s.queues qn
  let serves := fun (s : State) => s.wiping = false ∧ s.lifeCycle = .deployed
  let may := fun (s : State) qn x => s.queueHeld qn x = false ∧ s.higherFirst (s.nextPrio qn x) = false ∧
    s.startsInTurn qn x = true
  let starts := fun (s : State) qn place x => s.ownHeld qn x = false ∧ may s qn x ∧ (s.startNext qn place x).isSome
  let headWritten := fun (s : State) (x : Queue) (t : State) =>
    let asked := s.frontAsks x.ctx (x.slotAddr x.head) 128
    let w := asked.frontWrite x.ctx x.headAddr (bytesOf 8 ((x.head + 1) % 2 ^ 32))
    w = some t ∨ (w = none ∧ t = asked)
  (∀ (s : State) qn x, serves s → q s qn = some x → s.higherFirst x.prio = false → x.ready = true → s.inTurn qn x = true →
    s.recordWaits x = false → exec (.admitGrid qn []) s = .next (s.takeRecord qn x)) ∧
  (∀ (s : State) qn x, serves s → q s qn = some x → x.ready = true → s.recordWaits x = true →
    exec (.admitGrid qn []) s = .next s) ∧
  (∀ (s t : State) qn x cause, s.recordFault x.ctx (s.frontRead x.ctx (x.slotAddr x.head) 128) = some cause →
    headWritten s x t →
    s.takeRecord qn x = (({ t with lastServed := Tab.put s.lastServed x.prio qn } : State).setQueueRec qn
      { x with head := (x.head + 1) % 2 ^ 32 }).refuseRecord qn x.ctx x.head
        (signalOf (s.frontRead x.ctx (x.slotAddr x.head) 128)) cause) ∧
  (∀ (s t : State) qn x b, s.frontRead x.ctx (x.slotAddr x.head) 128 = some b → s.recordFault x.ctx (some b) = none →
    headWritten s x t → (s.context x.ctx).duty.testBit 0 = false →
    s.takeRecord qn x = ({ t with lastServed := Tab.put s.lastServed x.prio qn } : State).setQueueRec qn
      { x with
        head := (x.head + 1) % 2 ^ 32
        waiting := some { lr := parseRecord (b.map (fun y => y.1)), recNo := x.head, since := s.clock } }) ∧
  (∀ (s : State) ctx b, Bytes2.bad b = false → recordOk (b.map (fun y => y.1)) = false → s.recordFault ctx (some b) = some 0x0001) ∧
  (∀ (s : State) ctx, s.recordFault ctx none = some 0x0002) ∧
  (∀ (s : State) ctx b, let r := parseRecord (b.map (fun y => y.1))
    Bytes2.bad b = false → recordOk (b.map (fun y => y.1)) = true →
    (s.inCode ctx r.entry = false ∨ (r.handler ≠ 0 ∧ s.inCode ctx r.handler = false)) → s.recordFault ctx (some b) = some 0x0004) ∧
  (∀ (s t : State) qn x w place, serves s → q s qn = some x → place ≠ [] → x.waiting = some w →
    x.halted = false → w.refused = none → (w.asked = none ∨ w.consent = some true) →
    (∀ g ∈ s.partGrids qn, ¬ starts s qn place (.cluster g)) → may s qn (.fresh w) →
    s.startNext qn place (.fresh w) = some t → exec (.admitGrid qn place) s = .next t) ∧
  (∀ (s t : State) qn l g r place, serves s → place ≠ [] → s.partGrids qn = l ++ g :: r →
    (∀ h ∈ l, ¬ starts s qn place (.cluster h)) → s.ownHeld qn (.cluster g) = false →
    may s qn (.cluster g) → s.startNext qn place (.cluster g) = some t → exec (.admitGrid qn place) s = .next t) ∧
  (∀ (s : State) qn g, g ∈ s.partGrids qn ↔ ∃ x, (g, x) ∈ (s.grids : List (Nat × Grid)) ∧ x.queue = qn ∧ x.done = false ∧
    x.abort = none ∧ x.nextTeam < x.lr.teams) ∧
  (∀ (s : State) qn x, serves s → s.nexts qn = [x] → (∀ y, q s qn = some y → y.ready = false) → s.ownHeld qn x = false →
    s.higherFirst (s.nextPrio qn x) = false →
    exec (.admitGrid qn []) s = .next ((s.preempt qn x).getD s)) ∧
  (∀ (s t : State) g p, s.teamFits (s.grid g).lr p.core p.offset = true → (s.grid g).lr.courses = 1 → (s.grid g).lr.spill = 0 →
    s.startTeam g p = some t →
    t.team (Tab.fresh s.teams) = { grid := g, number := p.team, core := p.core, offset := p.offset,
                                   courses := [Tab.fresh s.courses], acquire := s.stamp } ∧
    t.course (Tab.fresh s.courses) = startCourse (s.grid g).lr (Tab.fresh s.teams) 0 p.core (bayAt 0 p.offset)
      (s.freePlace p.core (bayAt 0 p.offset) []) [] ∧ t.mem = s.mem ∧
    ∀ h, h ≠ Tab.fresh s.courses → t.course h = s.course h) ∧
  (∀ r team i core bay place sp, let c := startCourse r team i core bay place sp
    c.slot0.pc = r.entry ∧ c.slot0.mask = (if r.width16 then 0xFFFF#32 else 0xFFFFFFFF#32) ∧ c.live = c.slot0.mask ∧
    c.slot1.mask = 0#32 ∧ (c.unifCell false 0).val = regPart r.arg 0 ∧ (c.unifCell false 1).val = regPart r.arg 1 ∧
    (∀ n, 2 ≤ n → c.unifCell false n = {}) ∧ (∀ n L, c.laneCell false n L = {}) ∧ c.flg = 0#32 ∧ c.ctl = 0#32) ∧
  (∀ (s : State) qn x w, q s qn = some x → x.waiting = some w → w.lr.coop = true → w.since + 80000 ≤ s.clock →
    exec (.coopWaitTimer qn) s = .next (s.setQueueRec qn { x with waiting := some { w with blocks := true } })) ∧
  (∀ (s : State) qn x w, q s qn = some x → x.waiting = some w → w.consent = some false → w.refused = none →
    (w.lr.signal = 0 ∨ s.frontWaits x.ctx w.lr.signal = false) →
    exec (.admissionConsent qn) s = .next ((s.setQueueRec qn { x with waiting := none }).refuseRecord qn x.ctx w.recNo
      w.lr.signal 0x0005)) ∧
  (∀ (s : State) seq a qn, Tab.find s.asks seq = some a → a.answer = none → a.since + 80000000 ≤ s.clock →
    a.what = .admission qn →
    exec (.agentTimeout seq) s = .next ((({ s with asks := Tab.del s.asks seq } : State).consentAnswer seq false).mgmt
      (s.askCtx a.what) 7 (le 4 seq))) ∧
  (∀ (s : State) seq a crs j, Tab.find s.asks seq = some a → a.answer = none → a.since + 80000000 ≤ s.clock →
    a.what = .firstTouch crs j →
    exec (.agentTimeout seq) s = .next ((({ s with asks := Tab.del s.asks seq } : State).escalationAnswered crs j false).mgmt
      (s.askCtx a.what) 7 (le 4 seq))) ∧
  (∀ (s : State) seq a g cause t, Tab.find s.asks seq = some a → a.answer = none → a.since + 80000000 ≤ s.clock →
    a.what = .recovery g cause t →
    exec (.agentTimeout seq) s = .next ((({ s with asks := Tab.del s.asks seq } : State).abortNow g cause t).mgmt
      (s.askCtx a.what) 7 (le 4 seq)))

/-- R53, R54, R59–R62, R251, R286, R313, R449–R454: halting, saving and restoring a team, freeing it, and the end of its
grid. -/
def Obligations.TeamsEnd : Prop :=
  let g := fun (s : State) h => (s.team h).grid
  (∀ (s : State) h, (s.team h).state = .running → s.unitOf h = [h] →
    exec (.haltRequest h) s = .next ((((s.onTeam h (fun t => { t with state := .halting })).mergeAll h).pump h).serveCores [h])) ∧
  (∀ (s : State) h, (s.team h).state ≠ .running → exec (.haltRequest h) s = .next s) ∧
  (∀ (s t : State) h l, (s.team h).state = .halting → s.quiet h = true → (s.team h).settled = true →
    s.parkedOn (s.team h).core < 32 →
    s.takeFrames (s.grid (g s h)).ctx .image (fun f => f.tier == 0 && f.die == dieOf (s.team h).core)
      (s.grid (g s h)).lr.imageFrames = some (t, l) →
    exec (.saveComplete h) s = .next (t.saveTeam h l (some (s.team h).core))) ∧
  (∀ (s : State) h, ((s.team h).state ≠ .halting ∨ s.quiet h = false) → exec (.saveComplete h) s = .next s) ∧
  (∀ (s : State) h crs l p, (s.team h).courses = [crs] →
    let t := s.saveTeam h l p
    (t.team h).state = .saved ∧ (t.team h).image = l ∧ (t.team h).shared = (s.team h).shared ∧
      (t.team h).acc = (s.team h).acc ∧ (t.course crs).v = (s.course crs).v ∧ (t.course crs).s = (s.course crs).s ∧
      (t.course crs).m = (s.course crs).m ∧ (t.course crs).flg = (s.course crs).flg ∧ (t.course crs).d = (s.course crs).d ∧
      (t.course crs).rejoin = (s.course crs).rejoin ∧ t.mem = s.mem) ∧
  (∀ (s t : State) p, (s.team p.team).state = .saved → s.unitOf p.team = [p.team] →
    s.clustersOk (s.gridOf p.team).lr [((s.team p.team).number, p.core)] = true → s.copyWaitsMove p.team = false →
    s.restoreTeam p = some t →
    exec (.restore [p]) s = .next (t.wakeTeam p.team)) ∧
  (∀ (s : State) h, (s.team h).state = .ended → (s.team h).shadows = [] → (s.team h).settled = true → (s.team h).copies = [] →
    s.matQueued (s.team h) = false → s.accessing (s.team h) = false → ((s.grid (g s h)).abort.isSome = true ∨ (s.team h).untrapped = none) →
    exec (.teamFree h) s = .next (s.freeTeam h)) ∧
  (∀ (s : State) h c, (s.team h).state = .ended → (s.team h).shadows = [] → (s.team h).settled = true → (s.team h).copies = [] →
    s.matQueued (s.team h) = false → s.accessing (s.team h) = false → (s.grid (g s h)).abort = none → (s.team h).untrapped = some c →
    exec (.teamFree h) s = .next (s.abortGrid (g s h) (0x0100 + causeTrap c.cause) none)) ∧
  (∀ (s : State) h, ((s.freeTeam h).team h).state = .freed ∧
    (s.freeTeam h).grid (g s h) = { s.grid (g s h) with freed := (s.grid (g s h)).freed + 1 }) ∧
  (∀ (s t : State) n, s.drained n = true → (s.grid n).abort = none → (s.grid n).lr.signal ≠ 0 →
    s.frontWaits (s.grid n).ctx (s.grid n).lr.signal = false →
    (s.reclaim n).frontWrite (s.grid n).ctx (s.grid n).lr.signal (bytesOf 8 (s.grid n).lr.value) = some t →
    exec (.completionSignal n) s = .next (t.releaseGrid n).trimFar) ∧
  (∀ (s t : State) n a, s.drained n = true → (s.grid n).abort = some a → a.trap = none → (s.grid n).lr.signal ≠ 0 →
    s.frontWaits (s.grid n).ctx (s.grid n).lr.signal = false →
    (s.reclaim n).frontWrite (s.grid n).ctx (s.grid n).lr.signal (bytesOf 8 (errorWord (s.grid n).recNo a.cause)) = some t →
    exec (.completionSignal n) s = .next ((t.logPost (s.grid n).ctx
      { kind := 2, queue := (s.grid n).queue, recNo := (s.grid n).recNo, word := errorWord (s.grid n).recNo a.cause,
        time := s.clock, pc := 0, addr := 0, info := 0, lane := 0 }).releaseGrid n).trimFar) ∧
  (∀ (s : State) h, (s.team h).state = .ended → (s.team h).shadows = [] → s.accessing (s.team h) = true →
    exec (.teamFree h) s = .next s) ∧
  (∀ (s : State) n, s.claimedOf n = true → s.drained n = false) ∧
  (∀ (s : State) n, s.drained n = false → exec (.completionSignal n) s = .next s) ∧
  (∀ (s : State) n, ((s.releaseGrid n).grid n).done = true)

/-! ## Pages, units and links -/

/-- R415–R418: a walk reads one entry at each level, from the root entry down; what it finds first that is poisoned, malformed or
invalid is its fault, with the level of the entry. A block or a level-3 leaf ends it, and a page that is being moved makes it wait.
An entry that allows first touch gives its own fault. That a poisoned entry counts as malformed is R456. -/
def walksHold : Prop :=
  let at_ := fun (e va lvl : Nat) => tableAddr e + entryOfs va lvl
  let root := fun (s : State) c => (s.context c).root
  let second := fun (s : State) c va e1 => tableOk (root s c) = true ∧ s.entryAt (at_ (root s c) va 1) = some e1 ∧ tableOk e1 = true
  let third := fun (s : State) c va e1 e2 => second s c va e1 ∧ s.entryAt (at_ e1 va 2) = some e2 ∧ tableOk e2 = true
  (∀ e, tableOk e = true ↔ bitsOf e 1 0 = 1 ∧ bitsOf e 63 45 = 0 ∧ bitsOf e 14 2 = 0 ∧
    (bitsOf e 40 15 + 1) * 2 ^ 15 ≤ tierBytes (leafTier e)) ∧
  (∀ e va, at_ e va 1 = physAddr (leafDie e) (leafTier e) (bitsOf e 40 15 * 2 ^ 15) + 8 * (va / 2 ^ 40 % 4096)) ∧
  (∀ e va, at_ e va 2 = physAddr (leafDie e) (leafTier e) (bitsOf e 40 15 * 2 ^ 15) + 8 * (va / 2 ^ 28 % 4096)) ∧
  (∀ e va, at_ e va 3 = physAddr (leafDie e) (leafTier e) (bitsOf e 40 15 * 2 ^ 15) + 8 * (va / 2 ^ 16 % 4096)) ∧
  (∀ (s : State) a, s.entryAt a = none ↔ poisonedIn s.poison a 8 = true) ∧
  (∀ (s : State) a e, s.entryAt a = some e → e = s.memWord a) ∧
  (∀ (s : State) c va, tableOk (root s c) = false → s.walk c va = .fault 3 0) ∧
  (∀ (s : State) c va, tableOk (root s c) = true → s.entryAt (at_ (root s c) va 1) = none → s.walk c va = .fault 3 1) ∧
  (∀ (s : State) c va e, tableOk (root s c) = true → s.entryAt (at_ (root s c) va 1) = some e → tableOk e = false →
    s.walk c va = if entryType e = 0 then .fault 1 1 else .fault 3 1) ∧
  (∀ (s : State) c va e1, second s c va e1 → s.entryAt (at_ e1 va 2) = none → s.walk c va = .fault 3 2) ∧
  (∀ (s : State) c va e1 e, second s c va e1 → s.entryAt (at_ e1 va 2) = some e → tableOk e = false →
    s.walk c va = if entryType e = 0 then .fault 1 2
      else if entryType e ≠ 2 ∨ s.leafOk c e 4096 = false then .fault 3 2
      else if leafMig e = true then .wait else .leaf (e + va / 2 ^ 16 % 4096 * 2 ^ 20)) ∧
  (∀ (s : State) c va e1 e2, third s c va e1 e2 → s.entryAt (at_ e2 va 3) = none → s.walk c va = .fault 3 3) ∧
  (∀ (s : State) c va e1 e2 e, third s c va e1 e2 → s.entryAt (at_ e2 va 3) = some e →
    s.walk c va = if entryType e = 0 then
        (if e.testBit 2 = false then .fault 1 3 else if e / 64 = 0 then .fault 2 3 else .fault 3 3)
      else if entryType e ≠ 2 ∨ s.leafOk c e 1 = false then .fault 3 3
      else if leafMig e = true then .wait else .leaf e) ∧
  (∀ (s : State) c e n, let f := leafFrameNo e
    let here := leafChip e = s.chip ∧ leafHost e = false
    s.leafOk c e n = true ↔ e.testBit 63 = false ∧ bitsOf e 57 56 = 0 ∧ bitsOf e 19 6 = 0 ∧ e.testBit 2 = false ∧
      (leafHost e = true → leafHs e = true ∧ leafDie e = 0 ∧ leafTier e = 0) ∧
      (leafHost e = false → (leafFrame e + n) * 2 ^ 16 ≤ tierBytes (leafTier e)) ∧ leafFrame e % n = 0 ∧
      (e.testBit 4 = true → here → ∀ k ∈ s.codeFrames, ¬ (f ≤ k ∧ k < f + n)) ∧
      (e.testBit 5 = true → here ∧ ∀ i < n, f + i ∈ s.ownCode c))

/-- R419–R423, R501: a word's pages are checked in the order of the first access that touches each, each page by the four checks
in their order, and the first that fails decides. The trap of a missing translation names the page and the lanes that touch it;
the others name the address. A translation may be the tables' own, one that a TLB still holds, or one through another hinted leaf
of the page's 4 MiB. -/
def pageChecksHold : Prop :=
  let need := fun (as : List PageAcc) => as.foldl (fun n b => n ||| b.need) 0
  let named := fun (base : TrapRec) (byLane : Bool) (a : PageAcc) n =>
    { base with lane := if byLane then some a.lane else none, addr := a.va, info := n - 1 }
  (∀ (s : State) c va, s.otherLeaves c va = [] → s.translate c va = s.walk c va) ∧
  (∀ (s : State) c va, s.translate c va = s.walk c va ∨ ∃ e ∈ s.otherLeaves c va, s.translate c va = .leaf e) ∧
  (∀ (s : State) c va e, e ∈ s.otherLeaves c va ↔
    (∃ t ∈ s.tlb, t.ctx = c ∧ t.page / t.pages = va / 2 ^ 16 / t.pages ∧ s.displacedLeaf c (va / 2 ^ 16) t.page t.leaf = some e) ∨
    (∃ h ∈ s.hintedLeaves c va, s.displacedLeaf c (va / 2 ^ 16) (va / 2 ^ 22 * 64 + h.1) h.2 = some e)) ∧
  (∀ (s : State) c base byLane a r sub lvl, let as : List PageAcc := a :: r
    (2 ^ 52 ≤ a.va ∧ sub = 1 ∨ a.va < 2 ^ 52 ∧ s.translate c a.va = .fault sub lvl) →
    s.checkPage c base byLane as = .trap { named base byLane a (need as) with
      code := 0x06, sub := sub, addr := a.va / 2 ^ 16 * 2 ^ 16,
      mask := if byLane then maskOfLanes (as.map (fun b => b.lane)) else base.mask }) ∧
  (∀ (s : State) c base byLane a r, a.va < 2 ^ 52 → s.translate c a.va = .wait → s.checkPage c base byLane (a :: r) = .wait) ∧
  (∀ (s : State) c base byLane a r e, let as : List PageAcc := a :: r
    a.va < 2 ^ 52 → s.translate c a.va = .leaf e →
    s.checkPage c base byLane as =
      if leafPerm e &&& need as ≠ need as then .trap { named base byLane a (need as) with code := 0x07, sub := 1 }
      else if (leafChip e ≠ s.chip ∧ leafDw e = false) ∨ (∃ b ∈ as, b.rule.ok s.chip e = false) then
        .trap { named base byLane a (need as) with code := 0x07, sub := 3 }
      else if leafLost e = true then .trap { named base byLane a (need as) with code := 0x13, info := 0 }
      else .ok) ∧
  groupPages [] = [] ∧
  (∀ a r, groupPages (a :: r) = (a :: r).filter (fun b => b.va / 2 ^ 16 == a.va / 2 ^ 16) ::
    groupPages (r.filter (fun b => b.va / 2 ^ 16 != a.va / 2 ^ 16))) ∧
  (∀ (s : State) c base byLane as, (∀ p ∈ groupPages as, s.checkPage c base byLane p = .ok) → s.checkPages c base byLane as = .ok) ∧
  (∀ (s : State) c base byLane as l p r, groupPages as = l ++ p :: r → (∀ q ∈ l, s.checkPage c base byLane q = .ok) →
    s.checkPage c base byLane p ≠ .ok → s.checkPages c base byLane as = s.checkPage c base byLane p)

/-- R415–R434, R478, R501: walks and the checks of pages; the paging words and page migration. PGMAP maps a first-touch page to a zeroed frame; PGPROT changes
the permissions of a page, at its issue or as its status lands; TLBINV drops translations and CINV lines of code; a page that
moves keeps its bytes, and so does a table. A move waits until no packet for its frame is half applied, and from its beginning
the old home refuses packets for the page with MOVED. That a move has two steps is the model's reading of R430 (log 96), and that
the frame of a table moves with all that it holds its reading of R431 (log 124). -/
def Obligations.Paging : Prop :=
  let ctx := fun (s : State) (x : Ctx) => s.ctxOf (s.issuer x)
  let pair := fun (r : RWord) (s : State) (x : Ctx) => s.src x r.a 2 0
  let page := fun (r : RWord) (s : State) (x : Ctx) => pair r s x / 2 ^ 16 * 2 ^ 16
  let give := fun (r : RWord) (x : Ctx) (t : State) (v : Nat) =>
    (t.addPend x .other (.values (lateValues x true r.d.toNat 1 (fun _ => v))) (lateFills x true r.d.toNat 1) 0#32 0#32).went x
  let idle := fun (i : Instr) (h : Head) => DoesIf i h (fun _ x => x.act = 0#32) (fun s x => s.went x)
  walksHold ∧ pageChecksHold ∧
  (∀ r, idle (.pgmap r) r.head ∧ idle (.pgprot r) r.head ∧ idle (.tlbinvPg r) r.head ∧ idle (.cinv r) r.head) ∧
  (∀ h, idle (.tlbinvCtx h) h ∧ idle (.cinvCtx h) h) ∧
  (∀ r, DoesIf (.pgmap r) r.head (fun s x => x.act ≠ 0#32 ∧ placementOk (s.usrc x r.b) = true ∧ page r s x < 2 ^ 52 ∧
      s.walk (ctx s x) (page r s x) ≠ .wait)
    (fun s x =>
      let y := s.mapPage (ctx s x) (page r s x) (s.usrc x r.b) (dieOf (s.issuer x).core)
      give r x y.1 y.2)) ∧
  (∀ r, DoesIf (.pgmap r) r.head (fun s x => x.act ≠ 0#32 ∧ placementOk (s.usrc x r.b) = false)
    (fun s x => s.trapped x x.illegalOperand)) ∧
  (∀ r, DoesIf (.pgprot r) r.head
    (fun s x => x.act ≠ 0#32 ∧ (page r s x < 2 ^ 52 → s.walk (ctx s x) (page r s x) ≠ .wait))
    (fun s x =>
      let y := s.protPage (ctx s x) (page r s x) (s.usrc x r.b)
      if Config.freeBit s.stamp (2 ^ 43) then
        (s.addPend x .other (.perm (page r s x) (s.usrc x r.b) r.d.toNat x.sup) (lateFills x true r.d.toNat 1) 0#32 0#32).went x
      else give r x y.1 y.2)) ∧
  (∀ r, DoesIf (.pgprot r) r.head
    (fun s x => x.act ≠ 0#32 ∧ page r s x < 2 ^ 52 ∧ s.walk (ctx s x) (page r s x) = .wait) (fun s x => s.blocked x false)) ∧
  (∀ r, DoesIf (.tlbinvPg r) r.head (fun _ x => x.act ≠ 0#32) (fun s x =>
    (s.invalidate (ctx s x) (some (pair r s x / 2 ^ 16))).went x)) ∧
  (∀ h, DoesIf (.tlbinvCtx h) h (fun _ x => x.act ≠ 0#32) (fun s x => (s.invalidate (ctx s x) none).went x)) ∧
  (∀ r, DoesIf (.cinv r) r.head (fun s x => x.act ≠ 0#32 ∧ 1 ≤ s.usrc x r.b ∧ s.usrc x r.b ≤ 127) (fun s x =>
    (s.dropLines (ctx s x) (fun k => pair r s x / 128 ≤ k && k < pair r s x / 128 + s.usrc x r.b)).went x)) ∧
  (∀ r, DoesIf (.cinv r) r.head (fun s x => x.act ≠ 0#32 ∧ (s.usrc x r.b = 0 ∨ 127 < s.usrc x r.b))
    (fun s x => s.trapped x x.illegalOperand)) ∧
  (∀ h, DoesIf (.cinvCtx h) h (fun _ x => x.act ≠ 0#32) (fun s x => (s.dropLines (ctx s x) (fun _ => true)).went x)) ∧
  (∀ (s : State) c va p here e, s.walk c va = .leaf e → s.mapPage c va p here = (s, 1)) ∧
  (∀ (s : State) c va p here l, s.walk c va = .fault 2 l → s.frameAt c p here = none → s.mapPage c va p here = (s, 2)) ∧
  (∀ (s : State) c va p here l, s.walk c va = .fault 1 l → s.mapPage c va p here = (s, 3)) ∧
  (∀ (s : State) c page va, (∀ t ∈ (s.invalidate c (some page)).tlb, t.covers c page = false) ∧
    (va / 2 ^ 16 = page → ∀ f ∈ (s.invalidate c (some page)).farLines, ¬ (f.ctx = c ∧ f.va = va))) ∧
  (∀ (s : State) c va p, let V := va / 2 ^ 16 * 2 ^ 16
    s.moveOf c V = none → Tab.has s.contexts c = true → (s.context c).duty.testBit 2 = false → placementOk p = true →
    va < 2 ^ 52 → s.moveWaits c V = false → exec (.pageMigration c (.page va) p) s = .next (s.migrate c V p false).1) ∧
  (∀ (s : State) c va p m, s.moveOf c (va / 2 ^ 16 * 2 ^ 16) = some m → s.partIn (leafFrameNo m.leaf) = false →
    exec (.pageMigration c (.page va) p) s = .next (s.endMove m)) ∧
  (∀ (s : State) c va p m, s.moveOf c (va / 2 ^ 16 * 2 ^ 16) = some m → s.partIn (leafFrameNo m.leaf) = true →
    exec (.pageMigration c (.page va) p) s = .next s) ∧
  (∀ (s : State) c va p lvl at_ e f, 1 ≤ lvl → lvl ≤ 3 → Tab.has s.contexts c = true → (s.context c).duty.testBit 2 = false →
    placementOk p = true → va < 2 ^ 52 → s.tableName c va lvl = some (at_, e) → s.partIn (tableAddr e / 2 ^ 16) = false →
    s.frameAt c p (leafDie e) = some f → exec (.pageMigration c (.table va lvl) p) s = .next (s.moveTable c va lvl f)) ∧
  (∀ (s : State) c va p lvl at_ e, s.tableName c va lvl = some (at_, e) → s.partIn (tableAddr e / 2 ^ 16) = true →
    exec (.pageMigration c (.table va lvl) p) s = .next s) ∧
  (∀ (s : State) c va e f, (s.beginMove c va e f).moved = (c, va / 2 ^ 16, leafFrameNo e) :: s.moved ∧
    (s.beginMove c va e f).moves = s.moves ++ [⟨c, va, e, f⟩]) ∧
  (∀ (s t : State) c va any die tier a e, s.level2 c va = some (die, tier, a, e) → entryType e = 2 → s.splinter c va any = some t →
    ∀ l ∈ t.farLines, ¬ (l.ctx = c ∧ l.va / 2 ^ 28 = va / 2 ^ 28)) ∧
  (∀ (s : State) c va p asked e, s.walk c va = .leaf e → (leafHs e = true ∨ leafLost e = true ∨ leafChip e ≠ s.chip) →
    s.migrate c va p asked = (s, 1)) ∧
  (∀ (s : State) a b n i, i < n → (s.copyRange a b n).memRead (b + i) 1 = s.memRead (a + i) 1) ∧
  (∀ (s : State) a b n k, (k < b ∨ b + n ≤ k) → (s.copyRange a b n).memRead k 1 = s.memRead k 1) ∧
  (∀ (s : State) a n b, (s.zeroRange a n).memRead b 1 = if a ≤ b ∧ b < a + n then [0#8] else s.memRead b 1)

/-- R13, R15, R26, R27, R30, R317, R393, R402, R432, R433: units that are fenced and links that fail and return. A die leaves
service once no packet is half applied. A link group that has lost its last port does not return. What a fenced slice takes
with it, which ports make a group and which returns rebuild a tree are the model's choices (logs 54, 100 and 112). -/
def Obligations.UnitsAndLinks : Prop :=
  (∀ (s : State) die, die < 8 → s.inService die = true → s.halfApplied = false →
    exec (.dieOutOfService die) s = .next (s.loseDie die)) ∧
  (∀ (s : State) die, s.halfApplied = true → exec (.dieOutOfService die) s = .next s ∧ exec (.unitFence .die die) s = .next s) ∧
  (∀ (s : State) die, die < 8 → s.fenced.contains (.die, die) = false → s.halfApplied = false →
    exec (.unitFence .die die) s = .next (s.loseDie die)) ∧
  (∀ (s : State) die, s.inService die = false → exec (.dieOutOfService die) s = .next s) ∧
  (∀ (s : State) n, n < 1280 → s.fenced.contains (.core, n) = false →
    exec (.unitFence .core n) s = .next (((s.fence .core n).vacate (fun c => c == n)).recheck)) ∧
  (∀ (s : State) k n, s.fenced.contains (k, n) = true → exec (.unitFence k n) s = .next s) ∧
  (∀ (s : State) k n, (s.fence k n).fenced = s.fenced ++ [(k, n)]) ∧
  (∀ (s : State) die e, e / (4096 * 256) = die → Tab.find (s.dropDie die).events e = none) ∧
  (∀ (s : State) die g, die < 8 → Tab.find (s.dropDie die).scratch (g * 8 + die) = none) ∧
  (∀ (s : State) n, n < 256 → s.fenced.contains (.slice, n) = false →
    exec (.unitFence .slice n) s = .next (s.fence .slice n).trimFar.recheck) ∧
  (∀ (s : State) n q, s.portPeer n = some q → s.fenced.contains (.port, n) = false →
    exec (.unitFence .port n) s = .next ((s.fence .port n).losePort n).recheck) ∧
  (∀ (s : State) a b, s.inDomain a = true → s.inDomain b = true → directPair a b = true → linkDown s.linksDown a b = false →
    s.allGroups = [] → s.streamsOver (s.usesGroup a b) = [] →
    exec (.linkFailure .domain (a, b)) s = .next { s with linksDown := s.linksDown ++ [(a, b)] }) ∧
  (∀ (s : State) a b, linkDown s.linksDown a b = true → exec (.linkFailure .domain (a, b)) s = .next s) ∧
  (∀ (s : State) a b, dieLink a b = true → linkDown s.dieLinksDown a b = false →
    exec (.linkFailure .dies (a, b)) s = .next (({ s with dieLinksDown := s.dieLinksDown ++ [(a, b)] } : State).pathFails
      (s.streamsOver (s.usesDieLink a b)))) ∧
  (∀ (s : State) a b t (d : Dest), d.chip ≠ s.chip → a < 8 → b ≤ 8 →
    (s.usesDieLink a b t d = true ↔ (b = 8 ∧ a = dieOf t.core) ∨ (a = 8 ∧ b = dieOf t.core))) ∧
  (∀ (s : State) a b, linkDown s.linksDown a b = true → s.groupFenced a b = false → s.allGroups = [] →
    exec (.linkReturn .domain (a, b)) s =
      .next { s with linksDown := s.linksDown.filter (fun l => l != (a, b) && l != (b, a)) }) ∧
  (∀ (s : State) a b, (linkDown s.linksDown a b = false ∨ s.groupFenced a b = true) →
    exec (.linkReturn .domain (a, b)) s = .next s) ∧
  (∀ (s : State) a b, exec (.linkReturn .dies (a, b)) s =
    .next { s with dieLinksDown := s.dieLinksDown.filter (fun l => l != (a, b) && l != (b, a)) }) ∧
  (∀ (s : State) c n g, ((s.rebuildTree c n g).groupOf c n) = some { g with
    parents := treeParents g.members g.topo g.keystone s.linksDown, gen := (g.gen + 1) % 2 ^ 22,
    lost := g.lostLinks s.linksDown s.linksDown.length [] })

/-! ## The host port -/

/-- R471–R475: RDMA and the form of requests. A write through a window of its context is applied whole; a read delivers the
bytes, or an operational error where one is poisoned; an access outside every window, or to a page that faults, is
refused; other kinds are invalid. A request with an undefined OP, a malformed one and one that names no context are
answered as such, in the order of R474: the form, the context, then what the life-cycle state bars. The management queue pair
opens and takes receive buffers. That a request barred by the life-cycle state answers with some nonzero STATUS is the model's
choice (log 98): R467 gives none. -/
def Obligations.HostPort : Prop :=
  let ready := fun (s : State) => s.up = true ∧ s.bootFailed = false
  (∀ (s t : State) key va x w, ready s → s.rdmaWindow key va x.length true = some w → s.rangeWaits w.ctx va x.length = false →
    s.rangeWrite w.ctx va x = some t → exec (.rdmaWrite key va x) s = .next (t.out .rdmaDone)) ∧
  (∀ (s : State) key va x, ready s → s.rdmaWindow key va x.length true = none →
    exec (.rdmaWrite key va x) s = .next (s.out .rdmaAccessError)) ∧
  (∀ (s : State) key va x w, ready s → s.rdmaWindow key va x.length true = some w → s.rangeWaits w.ctx va x.length = false →
    s.rangeWrite w.ctx va x = none → exec (.rdmaWrite key va x) s = .next (s.out .rdmaAccessError)) ∧
  (∀ (s : State) key va n w b, ready s → s.rdmaWindow key va n false = some w → s.rangeWaits w.ctx va n = false →
    s.rangeRead w.ctx va n = some b → (∀ y ∈ b, y.2 = false) →
    exec (.rdmaRead key va n) s = .next ((s.rangeAsks w.ctx va n).out (.rdmaData (b.map (fun y => y.1))))) ∧
  (∀ (s : State) c va n, (∀ p ∈ segments va n, (s.home c p.1).1.host = false) → s.rangeAsks c va n = s) ∧
  (∀ (s : State) key va n w b i, ready s → s.rdmaWindow key va n false = some w → s.rangeWaits w.ctx va n = false →
    s.rangeRead w.ctx va n = some b → b.findIdx? (fun y => y.2) = some i →
    let t := s.rangeAsks w.ctx va n
    exec (.rdmaRead key va n) s = .next ((t.count 1 (t.home w.ctx (va + i)).1.die 1 1).out .rdmaOperationalError)) ∧
  (∀ (s : State) key va n, ready s → s.rdmaWindow key va n false = none →
    exec (.rdmaRead key va n) s = .next (s.out .rdmaAccessError)) ∧
  (∀ (s : State) key va n write w, s.rdmaWindow key va n write = some w →
    Tab.find s.exported key = some w ∧ w.base ≤ va ∧ va + n ≤ w.base + w.len ∧ (write = true → w.write = true) ∧
      (s.context w.ctx).stopped = false) ∧
  (∀ (s : State) k, ready s → exec (.unsupportedRdmaRequest k) s = .next (s.out .rdmaInvalidRequest)) ∧
  (∀ (s : State) m, s.takesRequest m m.op → definedOps.contains m.op = false →
    exec (.undefinedOpRequest m) s = .next (s.respond m 0xFFFF [])) ∧
  (∀ (s : State) m, s.takesRequest m 0x0001 → m.shaped 16 [(0, 8), (8, 2), (12, 4)] = false →
    exec (.defineContext m) s = .next (s.respond m 0xFFFF [])) ∧
  (∀ (s : State) m, s.up = true → s.mgmtOpen = true → s.busy = none → s.bootFailed = false → m.op = 0x0080 → 65536 < m.body.length →
    exec (.keySlotRevocation m) s = (if m.field 0 4 = 1 then .next (s.respond m 0xFFFF []) else .next s)) ∧
  (∀ (s : State) m, s.takesRequest m 0x0090 → m.shaped 8 [(0, 4)] = true → m.field 0 4 < 512 → s.lifeCycle ≠ .deployed →
    ∃ n, n ≠ 0 ∧ exec (.readTelemetry m) s = .next (s.respond m n [])) ∧
  (∀ (s : State) m i, s.takesRequest m m.op → Tab.has s.contexts m.ctx = false →
    ((i = .createQueue m ∧ m.op = 0x0010 ∧ m.shaped 32 [(0, 1), (1, 1), (2, 1), (4, 4), (8, 8), (16, 8), (24, 8)] = true) ∨
     (i = .destroyQueue m ∧ m.op = 0x0011 ∧ m.shaped 8 [(0, 4)] = true) ∨
     (i = .unload m ∧ m.op = 0x0041 ∧ m.shaped 8 [(0, 4)] = true) ∨
     (i = .withdrawWindow m ∧ m.op = 0x0031 ∧ m.shaped 8 [(0, 4)] = true)) →
    exec i s = .next (s.respond m 0xFFFE [])) ∧
  (∀ (s : State) m st b, (s.respond m st b).hostOut =
      s.hostOut ++ .response { m with rsv := 0, status := st, body := b } :: s.later.map .response ∧
    (s.respond m st b).busy = none ∧ (s.respond m st b).later = []) ∧
  (∀ (s : State), s.up = true → exec .managementQueuePairOpen s = .next { s with mgmtOpen := true }) ∧
  (∀ (s : State) n, s.mgmtOpen = true → s.held = [] →
    exec (.receiveBufferPosted n) s = .next { s with rxBuffers := s.rxBuffers + n }) ∧
  (∀ (s : State) x, s.mgmtOpen = true → s.held = [x] → s.rxBuffers = 0 →
    exec (.receiveBufferPosted 1) s = .next { s with held := [], hostOut := s.hostOut ++ [.message x] })

/-- R38, R40, R62, R424, R430, R472, R476–R478: contexts, queues, pool frames and exported windows: what each request does,
and the status with which each is turned away. That status 1 goes before what else is wrong, and that an export may end at the top
of the address space, are the model's choices (logs 63 and 64). -/
def Obligations.ContextsAndQueues : Prop :=
  let has := fun (s : State) (m : HostMsg) => Tab.has s.contexts m.ctx = true
  let create := fun (m : HostMsg) => m.shaped 32 [(0, 1), (1, 1), (2, 1), (4, 4), (8, 8), (16, 8), (24, 8)] = true
  (∀ (s : State) m, s.canServe m 0x0001 → m.shaped 16 [(0, 8), (8, 2), (12, 4)] = true → Tab.has s.contexts m.ctx = false →
    m.field 8 2 ≠ 0 → s.ctxByTag (m.field 8 2) = none → tableOk (m.field 0 8) = true → m.field 12 4 < 128 →
    s.lifeCycle ≠ .decommissioned → s.wiping = false →
    exec (.defineContext m) s = .next ((s.setContext m.ctx { tag := m.field 8 2, root := m.field 0 8, duty := m.field 12 4 }).respond
      m 0 [])) ∧
  (∀ (s : State) m, s.canServe m 0x0001 → m.shaped 16 [(0, 8), (8, 2), (12, 4)] = true → has s m →
    exec (.defineContext m) s = .next (s.respond m 1 [])) ∧
  (∀ (s : State) m, s.canServe m 0x0002 → m.shaped 8 [(0, 4)] = true → m.field 0 4 = 0 → has s m →
    exec (.stopContext m) s = .next { s.stopCtx m.ctx 0x0006 with busy := some m }) ∧
  (∀ (s : State) m, s.busy = some m → m.field 0 4 = 0 → s.ctxDrained m.ctx = true →
    exec (.stopContext m) s = .next (s.respond m 0 [])) ∧
  (∀ (s : State) m, s.canServe m 0x0002 → m.shaped 8 [(0, 4)] = true → m.field 0 4 = 1 → has s m →
    exec (.destroyContext m) s = .next { s.stopCtx m.ctx 0x0006 with busy := some m }) ∧
  (∀ (s : State) m, s.busy = some m → m.field 0 4 = 1 → s.ctxDrained m.ctx = true →
    exec (.destroyContext m) s = .next ((s.releaseCtx m.ctx).respond m 0 [])) ∧
  (∀ (s : State) c f a, (s.context c).pool = [f] → Frame.no f.1 * 2 ^ 16 ≤ a → a < (Frame.no f.1 + 1) * 2 ^ 16 →
    (s.releaseCtx c).memRead a 1 = [0#8] ∧ Tab.has (s.releaseCtx c).contexts c = false) ∧
  (∀ (s t u : State) m, s.canServe m 0x0010 → create m → has s m → Tab.has s.queues (m.field 0 1) = false →
    s.frontWaits m.ctx (m.field 16 8) = false → s.frontWaits m.ctx (m.field 24 8) = false →
    s.rangeWaits m.ctx (m.field 8 8) (128 * m.field 4 4) = false → s.queueOk m.ctx m = true →
    s.frontWrite m.ctx (m.field 24 8) (bytesOf 8 0) = some t → t.frontWrite m.ctx (m.field 16 8) (bytesOf 8 0) = some u →
    exec (.createQueue m) s = .next ((u.setQueueRec (m.field 0 1)
      { ctx := m.ctx, prio := m.field 1 1, devFed := m.field 2 1 == 1, slots := m.field 4 4, ring := m.field 8 8,
        tailAddr := m.field 16 8, headAddr := m.field 24 8 }).respond m 0 [])) ∧
  (∀ (s : State) m, s.canServe m 0x0010 → create m → has s m → m.field 0 1 ≤ 63 → Tab.has s.queues (m.field 0 1) = true →
    exec (.createQueue m) s = .next (s.respond m 1 [])) ∧
  (∀ (s : State) m q, s.canServe m 0x0011 → m.shaped 8 [(0, 4)] = true → has s m → Tab.find s.queues (m.field 0 4) = some q →
    q.ctx = m.ctx → s.asks = [] →
    exec (.destroyQueue m) s = .next (({ s with queues := Tab.del s.queues (m.field 0 4) } : State).respond m 0 [])) ∧
  (∀ (s : State) m, s.canServe m 0x0011 → m.shaped 8 [(0, 4)] = true → has s m → Tab.find s.queues (m.field 0 4) = none →
    exec (.destroyQueue m) s = .next (s.respond m 1 [])) ∧
  (∀ (s : State) m, s.canServe m 0x0020 → msgFramesOk m = true → has s m → msgFramesBeyond m = false →
    (msgFrames m).any s.pooled = false →
    exec (.addPoolFrames m) s = .next ((s.onContext m.ctx (fun c =>
      { c with pool := c.pool ++ (msgFrames m).map (fun f => (f, .free)) })).respond m 0 [])) ∧
  (∀ (s : State) m, s.canServe m 0x0020 → msgFramesOk m = true → has s m → msgFramesBeyond m = false →
    (msgFrames m).any s.pooled = true → exec (.addPoolFrames m) s = .next (s.respond m 2 [])) ∧
  (∀ (s : State) m, s.canServe m 0x0021 → msgFramesOk m = true → has s m → msgFramesBeyond m = false →
    (∀ f ∈ msgFrames m, (∃ e ∈ (s.context m.ctx).pool, e.1 = f) ∧ s.usesFrame (Frame.no f) = false ∧
      ∀ e ∈ (s.context m.ctx).pool, e.1 = f → e.2 = .free ∨ e.2 = .page) →
    exec (.removeFrames m) s = .next ((s.onContext m.ctx (fun c =>
      { c with pool := c.pool.filter (fun e => !(msgFrames m).contains e.1) })).respond m 0 [])) ∧
  (∀ (s : State) m f e, s.canServe m 0x0021 → msgFramesOk m = true → has s m → msgFramesBeyond m = false →
    (∀ f ∈ msgFrames m, ∃ e ∈ (s.context m.ctx).pool, e.1 = f) → f ∈ msgFrames m → e ∈ (s.context m.ctx).pool → e.1 = f →
    (s.usesFrame (Frame.no f) = true ∨ (e.2 ≠ .free ∧ e.2 ≠ .page)) →
    exec (.removeFrames m) s = .next (s.respond m 3 [])) ∧
  (∀ (s : State) m, let va := m.field 0 8 / 2 ^ 16 * 2 ^ 16
    s.canServe m 0x0022 → m.shaped 16 [(0, 8), (8, 4)] = true → placementOk (m.field 8 4) = true → has s m → va < 2 ^ 52 →
    s.walkWaits m.ctx va = false → s.moveWaits m.ctx va = false →
    ((s.migrate m.ctx va (m.field 8 4) true).2 = 0 →
      exec (.migratePage m) s = .next { (s.migrate m.ctx va (m.field 8 4) true).1 with busy := some m }) ∧
    ((s.migrate m.ctx va (m.field 8 4) true).2 ≠ 0 →
      exec (.migratePage m) s = .next ((s.migrate m.ctx va (m.field 8 4) true).1.respond m (s.migrate m.ctx va (m.field 8 4) true).2 []))) ∧
  (∀ (s : State) m k, s.busy = some m → s.moveOf m.ctx (m.field 0 8 / 2 ^ 16 * 2 ^ 16) = some k →
    s.partIn (leafFrameNo k.leaf) = false → exec (.migratePage m) s = .next ((s.endMove k).respond m 0 [])) ∧
  (∀ (s : State) m k, s.busy = some m → s.moveOf m.ctx (m.field 0 8 / 2 ^ 16 * 2 ^ 16) = some k →
    s.partIn (leafFrameNo k.leaf) = true → exec (.migratePage m) s = .next s) ∧
  (∀ (s : State) m, s.canServe m 0x0030 → m.shaped 24 [(0, 8), (8, 8), (16, 1)] = true → m.field 16 1 ≤ 1 → has s m →
    m.field 8 8 ≠ 0 → m.field 0 8 % 2 ^ 16 = 0 → m.field 8 8 % 2 ^ 16 = 0 → m.field 0 8 + m.field 8 8 ≤ 2 ^ 52 →
    s.exported.length < 4096 →
    ∃ key, Tab.find s.exported key = none ∧
      let w : Exported := ⟨m.ctx, m.field 0 8, m.field 8 8, m.field 16 1 == 1⟩
      exec (.exportWindow m) s = .next (({ s with exported := Tab.put s.exported key w } : State).respond m 0
        (le 4 key ++ le 4 0))) ∧
  (∀ (s : State) m w, s.canServe m 0x0031 → m.shaped 8 [(0, 4)] = true → has s m →
    Tab.find s.exported (m.field 0 4) = some w →
    exec (.withdrawWindow m) s = .next (({ s with exported := Tab.del s.exported (m.field 0 4) } : State).respond m 0 [])) ∧
  (∀ (s : State) m, s.canServe m 0x0031 → m.shaped 8 [(0, 4)] = true → has s m → Tab.find s.exported (m.field 0 4) = none →
    exec (.withdrawWindow m) s = .next (s.respond m 1 []))

/-- R391–R394, R411, R426, R434, R457–R464, R479, R480: code objects, group entries, domain barriers and host-shared pages. That
UNLOAD answers 1 while a grid lives, whatever the handle, is the model's order of its statuses (log 63). -/
def Obligations.ObjectsAndGroups : Prop :=
  let has := fun (s : State) (m : HostMsg) => Tab.has s.contexts m.ctx = true
  let hs := fun (s : State) (m : HostMsg) (a : Nat) => s.canServe m 0x0060 ∧ hsShaped m = true ∧ has s m ∧ m.field 0 4 = a
  let bases := fun (m : HostMsg) => (List.range (m.field 0x10 4)).map (fun i => m.field (0x18 + 8 * i) 8)
  (∀ (s : State) m b, s.canServe m 0x0040 →
    m.shaped (24 + 8 * m.field 0x10 4) [(0, 8), (8, 8), (16, 4), (24, 8 * m.field 0x10 4)] = true → has s m →
    m.field 0 8 + m.field 8 8 ≤ 2 ^ 52 → s.rangeWaits m.ctx (m.field 0 8) (m.field 8 8) = false →
    s.rangeRead m.ctx (m.field 0 8) (m.field 8 8) = some b → Bytes2.bad b = false →
    exec (.loadObject m) s =
      (let r := (s.rangeAsks m.ctx (m.field 0 8) (m.field 8 8)).loadBytes m.ctx (b.map (fun y => y.1)) (bases m)
       .next (r.1.respond m r.2.1 r.2.2))) ∧
  (∀ (s : State) c b ask, objectOk b = false → s.loadBytes c b ask = (s, 1, [])) ∧
  (∀ (s : State) c b ask, objectOk b = true → ask.length = (objCounts b).1 → s.objectSigned b = false →
    s.loadBytes c b ask = (s, 2, [])) ∧
  (∀ (s : State) c b ask, objectOk b = true → ask.length = (objCounts b).1 → s.objectSigned b = true → field b 6 2 < s.fuse →
    s.loadBytes c b ask = (s, 3, [])) ∧
  (∀ (s t : State) c b ask l f, objectOk b = true → ask.length = (objCounts b).1 → s.objectSigned b = true →
    s.fuse ≤ field b 6 2 → field b 5 1 = 2 → field b 4 1 = 0 → s.placeSections c ask 0 (objSections b) [] = some l →
    relocsOk b = true → (s.context c).objects.length < 2 ^ 32 → s.mapSections c b l = some (t, f) →
    ∃ h, s.loadBytes c b ask = (t.recordObject c h b l f, 0, le 4 h ++ le 4 0 ++ l.flatMap (bytesOf 8)) ∧
      ∀ o ∈ (s.context c).objects, o.handle ≠ h) ∧
  (∀ (s : State) c h b l f a, (s.recordObject c h b l f).inCode c a =
    (s.inCode c a || ((objSections b).zip l).any (fun p => p.1.kind == 1 && p.2 ≤ a && a < p.2 + Section.span p.1 p.2))) ∧
  (∀ (s : State) m o, s.canServe m 0x0041 → m.shaped 8 [(0, 4)] = true → has s m → s.gridsLive m.ctx = false →
    (s.context m.ctx).objects.find? (fun o => o.handle == m.field 0 4) = some o → o.pages.any (s.walkWaits m.ctx) = false →
    exec (.unload m) s = .next (((o.pages.foldl (fun s p => s.unmapPage m.ctx p) s).onContext m.ctx (fun c =>
      { c with objects := c.objects.filter (fun y => y.handle != m.field 0 4) })).respond m 0 [])) ∧
  (∀ (s : State) m, s.canServe m 0x0041 → m.shaped 8 [(0, 4)] = true → has s m → s.gridsLive m.ctx = true →
    exec (.unload m) s = .next (s.respond m 1 [])) ∧
  (∀ (s : State) m reply l, s.canServe m 0x0050 → m.shaped 24 [(0, 2), (8, 16)] = true → m.field 0 2 ≤ 255 → has s m →
    ((m.field 8 16).testBit 0 = true → s.rangeWaits m.ctx (m.field 16 8) (2 * bitsOf (m.field 8 16) 19 9) = false) →
    entryOk (m.field 8 16) = true → s.memberList m.ctx (m.field 8 16) = some l → s.membersOk l = true →
    ((∀ k ∈ l, k = s.chip) ∨ (reply ≠ .refused ∧ reply ≠ .silent)) → (s.context m.ctx).duty.testBit 5 = false →
    exec (.setGroupEntry m (.host reply)) s = .next ((s.setGroup m.ctx (m.field 0 2) (m.field 8 16) l).respond m 0 [])) ∧
  (∀ (s : State) c n e l, e.testBit 0 = true → (s.setGroup c n e l).groupOf c n = some
    { entry := e, members := l, parents := treeParents l (bitsOf e 21 20) (bitsOf e 31 22) s.linksDown,
      lost := ({ entry := e, members := l, parents := [] } : Group).lostLinks s.linksDown s.linksDown.length [] }) ∧
  (∀ (s : State) m, s.canServe m 0x0051 → m.shaped 8 [(0, 1), (2, 2)] = true → m.field 0 1 ≤ 63 → m.field 2 2 ≤ 255 →
    has s m → (s.groupOf m.ctx (m.field 2 2)).isSome = true → s.waitsOn m.ctx (m.field 0 1) = false → s.dbarArrs = [] →
    exec (.bindDomainBarrier m) s = .next ((s.setDbar m.ctx (m.field 0 1) { group := m.field 2 2 }).respond m 0 [])) ∧
  (∀ (s : State) m, s.canServe m 0x0051 → m.shaped 8 [(0, 1), (2, 2)] = true → m.field 0 1 ≤ 63 → m.field 2 2 ≤ 255 →
    has s m → s.groupOf m.ctx (m.field 2 2) = none → exec (.bindDomainBarrier m) s = .next (s.respond m 1 [])) ∧
  (∀ (s : State) m e, hs s m 0 → m.field 8 8 % 2 ^ 16 = 0 → m.field 8 8 < 2 ^ 52 → m.field 4 4 = 0 → m.field 16 8 = 0 →
    m.field 24 8 = 0 → s.walk m.ctx (m.field 8 8) = .leaf e → exec (.hsQuery m) s = .next (s.respond m 0 (bytesOf 8 e))) ∧
  (∀ (s t : State) m e, hs s m 1 → hsLimits m = true → m.field 16 8 = 2 ^ 16 → s.walk m.ctx (m.field 8 8) = .leaf e →
    leafHs e = true → s.setPerm m.ctx (m.field 8 8) (m.field 4 4) = some t →
    exec (.hsPermissions m) s = .next (t.respond m 0 [])) ∧
  (∀ (s : State) m e, hs s m 1 → hsLimits m = true → m.field 16 8 = 2 ^ 16 → s.walk m.ctx (m.field 8 8) = .leaf e →
    leafHs e = false → exec (.hsPermissions m) s = .next (s.respond m 3 [])) ∧
  (∀ (s t : State) m l, hs s m 2 → hsLimits m = true → m.field 16 8 = 2 ^ 16 → m.field 24 8 < 2 ^ 63 →
    placementOk (m.field 24 8) = true → s.walk m.ctx (m.field 8 8) = .fault 1 l →
    s.mapShared m.ctx (m.field 8 8) (m.field 4 4) (m.field 24 8) = some t → exec (.hsMap m) s = .next (t.respond m 0 [])) ∧
  (∀ (s : State) m, hs s m 3 → m.field 4 4 = 0 → m.field 8 8 % 2 ^ 16 = 0 → m.field 16 8 % 2 ^ 16 = 0 →
    m.field 24 8 < 2 ^ 56 → (∀ e ∈ s.mapped m.ctx, ¬ (leafHost e.2.1 = true ∧ leafChip e.2.1 = s.chip)) →
    let r : HostRegion := ⟨m.field 8 8, m.field 16 8, m.field 24 8 % 2 ^ 32, m.field 24 8 / 2 ^ 32⟩
    exec (.hsHostRegion m) s = .next ((s.onContext m.ctx (fun c => { c with region := some r })).respond m 0 []))

/-- R455, R456, R462–R470, R481–R488: attestation, signed commands, telemetry, counters and the error log, the host agent's
answers, reset and wiping, limits of power and cooling, and errors of the memory. The signature of a report verifies under the
device key. That attestation answers 1 before it looks at the context is log 63, the time over which idle cycles count log 70, which
words a codeword holds log 99, and when the counts of the links rise log 113: choices of the model. -/
def Obligations.Management : Prop :=
  let signed := fun (s : State) (m : HostMsg) => s.canServe m 0x0080 ∧
    m.shaped (16 + m.field 8 4) [(0, 4), (4, 4), (8, 4), (16, m.field 8 4)] = true ∧
    s.codeSigned (sha256 (m.body.take 8 ++ s.identity)) (m.body.drop 16) = true ∧ s.lifeCycle ≠ .decommissioned
  let command := fun (s : State) (m : HostMsg) (i : Instr) => s.canServe m 0x0080 ∧
    m.shaped (16 + m.field 8 4) [(0, 4), (4, 4), (8, 4), (16, m.field 8 4)] = true ∧
    ((i = .fuseCounterAdvance m ∧ m.field 0 4 = 0 ∧ 1 ≤ m.field 4 4 ∧ m.field 4 4 ≤ 64) ∨
     (i = .keySlotRevocation m ∧ m.field 0 4 = 1 ∧ m.field 4 4 ≤ 3) ∨ (i = .lifeCycleChange m ∧ m.field 0 4 = 2 ∧ m.field 4 4 ≤ 3))
  let asked := fun (s : State) (m : HostMsg) (a : Ask) => s.canServe m 0x00A0 ∧ m.shaped 16 [(0, 4), (4, 4)] = true ∧
    Tab.find s.asks (m.field 0 4) = some a ∧ a.answer = none
  (∀ (s : State) m, s.canServe m 0x0070 → m.shaped 40 [(0, 32), (0x20, 4)] = true → s.hssIndex < 2 ^ 40 →
    (m.field 0x20 4 = 0xFFFFFFFF ∨ Tab.has s.contexts (m.field 0x20 4) = true) →
    exec (.attestationReport m) s =
      (let b := s.report (m.field 0x20 4) (m.body.take 32)
       let sig := deviceSign s.hssIndex (sha256 b)
       .next (({ s with hssIndex := s.hssIndex + 1 } : State).respond m 0 (b ++ bytesOf 4 sig.length ++ sig)))) ∧
  (∀ (s : State) m, s.canServe m 0x0070 → m.shaped 40 [(0, 32), (0x20, 4)] = true → 2 ^ 40 ≤ s.hssIndex →
    exec (.attestationReport m) s = .next (s.respond m 1 [])) ∧
  (∀ index h, index < 2 ^ 40 → hssVerify (be 4 2 ++ devicePublic 0) (deviceSign index h) (be 32 h.toNat) = true) ∧
  (∀ (s : State) c nonce, (s.report c nonce).take 32 = hashBytes (sha256 (be 4 2 ++ devicePublic 0))) ∧
  (∀ (s : State) m i, command s m i → s.codeSigned (sha256 (m.body.take 8 ++ s.identity)) (m.body.drop 16) = false →
    exec i s = .next (s.respond m 1 [])) ∧
  (∀ (s : State) m i, command s m i → s.codeSigned (sha256 (m.body.take 8 ++ s.identity)) (m.body.drop 16) = true →
    s.lifeCycle = .decommissioned → exec i s = .next (s.respond m 2 [])) ∧
  (∀ (s : State) m, signed s m → m.field 0 4 = 0 → 1 ≤ m.field 4 4 → m.field 4 4 ≤ 64 → m.field 4 4 ≤ s.fuse →
    exec (.fuseCounterAdvance m) s = .next (s.respond m 2 [])) ∧
  (∀ (s : State) m, signed s m → m.field 0 4 = 0 → 1 ≤ m.field 4 4 → m.field 4 4 ≤ 64 → s.fuse < m.field 4 4 →
    exec (.fuseCounterAdvance m) s = .next (({ s with fuse := m.field 4 4 } : State).respond m 0 []) ∨
    exec (.fuseCounterAdvance m) s = .next (s.respond m 3 [])) ∧
  (∀ (s : State) m, signed s m → m.field 0 4 = 1 → m.field 4 4 ≤ 3 →
    exec (.keySlotRevocation m) s = .next (({ s with revoked := s.revoked ||| 2 ^ m.field 4 4 } : State).respond m 0 [])) ∧
  (∀ (s : State) m, signed s m → m.field 0 4 = 2 → m.field 4 4 ≤ 3 →
    LifeCycle.moves s.lifeCycle (lifeOf (m.field 4 4)) = false →
    exec (.lifeCycleChange m) s = .next (s.respond m 2 [])) ∧
  (∀ (s : State) m, s.busy = some m → m.field 0 4 = 2 → (∀ g ∈ s.grids, g.2.done = true) → (∀ q ∈ s.queues, q.2.unrefused = false) →
    exec (.lifeCycleChange m) s = .next (({ s with lifeCycle := lifeOf (m.field 4 4) } : State).wiped.respond m 0 [])) ∧
  (∀ (s : State), s.wiped.mem = [] ∧ s.wiped.poison = [] ∧ s.wiped.contexts = [] ∧ s.wiped.courses = [] ∧ s.wiped.wiping = true ∧
    s.wiped.fuse = s.fuse ∧ s.wiped.keySlots = s.keySlots ∧ s.wiped.revoked = s.revoked ∧ s.wiped.hssIndex = s.hssIndex) ∧
  (∀ (s : State) m, s.canServe m 0x0090 → m.shaped 8 [(0, 4)] = true → m.field 0 4 < 512 →
    exec (.readTelemetry m) s = .next (s.respond m 0 (((List.range 9).filter (fun d =>
      (m.field 0 4).testBit d)).flatMap (fun d => telemetryBytes (s.dieTelemetry d))))) ∧
  (∀ (s : State) l, exec (.telemetryRefresh l) s = .next { s with telemetry := s.refresh l }) ∧
  (∀ (s : State) l, (s.refresh l).map (fun t => t.die) = List.range 9 ∧ ∀ a ∈ s.refresh l, ∀ b ∈ s.refresh l,
    a.powerMs = b.powerMs ∧ a.powerS = b.powerS ∧ a.inlet = b.inlet ∧ a.flow = b.flow) ∧
  (∀ (s : State) f l x, x ∈ f :: l → x.die < 9 → (∀ y ∈ f :: l, y.die = x.die → y = x) → s.refreshed f x ∈ s.refresh (f :: l)) ∧
  (∀ (s : State) f t, let r := s.refreshed f t
    r.powerMs = f.powerMs ∧ r.powerS = f.powerS ∧ r.inlet = f.inlet ∧ r.flow = f.flow ∧ r.die = t.die ∧
    r.idleFraction = s.idle.getD t.die 0 * 2 ^ 16 / max 1 s.clock ∧
    (t.die = 8 → r.rails.getD 0 0 = 0 ∧ r.currents.getD 0 0 = 0) ∧ (t.die ≠ 8 → r.rails.getD 1 0 = 0 ∧ r.currents.getD 1 0 = 0)) ∧
  (∀ (s : State) m, s.canServe m 0x0091 → m.shaped 8 [(0, 2), (4, 4)] = true → m.field 4 4 < (scopeSize (m.field 0 2)).1 →
    exec (.readCounters m) s =
      (let t := if m.field 0 2 = 2 then s.countLinks else s
       .next (t.respond m 0 ((List.range (scopeSize (m.field 0 2)).2).flatMap (fun i =>
         bytesOf 8 (t.counter (m.field 0 2) (m.field 4 4) i)))))) ∧
  (∀ (s : State) scope index i, s.counter scope index i = Tab.get 0 s.perf (perfKey scope index i)) ∧
  (∀ (s : State) i, s.counter 2 0 i < 2 ^ 64 → s.counter 2 0 i ≤ s.countLinks.counter 2 0 i ∧ s.countLinks.counter 2 0 i < 2 ^ 64) ∧
  (∀ (s : State) m, s.canServe m 0x0092 → m.shaped 8 [(0, 4), (4, 4)] = true → Tab.has s.contexts m.ctx = true →
    1 ≤ m.field 4 4 → m.field 4 4 ≤ 64 →
    exec (.readErrorLog m) s = .next (s.respond m 0 ((List.range (m.field 4 4)).flatMap (fun i =>
      (s.context m.ctx).logBytes (m.field 0 4 + i))))) ∧
  (∀ (s : State) m a crs j, asked s m a → a.what = .firstTouch crs j → m.field 4 4 < 2 →
    exec (.agentAnswer m) s = .next ((({ s with asks := Tab.del s.asks (m.field 0 4) } : State).escalationAnswered crs j
      (m.field 4 4 == 0)).respond m 0 [])) ∧
  (∀ (s : State) m a q, asked s m a → a.what = .admission q → m.field 4 4 < 2 →
    exec (.agentAnswer m) s = .next ((({ s with asks := Tab.del s.asks (m.field 0 4) } : State).consentAnswer (m.field 0 4)
      (m.field 4 4 == 0)).respond m 0 [])) ∧
  (∀ (s : State) m a g c t, asked s m a → a.what = .recovery g c t → m.field 4 4 = 2 →
    exec (.agentAnswer m) s = .next ((({ s with asks := Tab.del s.asks (m.field 0 4) } : State).abortNow g c t).respond m 0 [])) ∧
  (∀ (s : State) m a g c t, asked s m a → a.what = .recovery g c t → m.field 4 4 = 3 →
    exec (.agentAnswer m) s = .next ((({ s with asks := Tab.del s.asks (m.field 0 4) } : State).stopCtx (s.grid g).ctx 0x0006).respond
      m 0 [])) ∧
  (∀ (s : State) m, s.canServe m 0x00A0 → m.shaped 16 [(0, 4), (4, 4)] = true → m.field 4 4 ≤ 3 →
    Tab.find s.asks (m.field 0 4) = none → exec (.agentAnswer m) s = .next (s.respond m 1 [])) ∧
  (∀ (s : State), exec .packageReset s = .next s.restart) ∧
  (∀ (s : State), s.restart.mem = [] ∧ s.restart.courses = [] ∧ s.restart.contexts = [] ∧ s.restart.up = false ∧
    s.restart.wiping = true ∧ s.restart.fuse = s.fuse ∧ s.restart.lifeCycle = s.lifeCycle) ∧
  (∀ (s : State), s.restart.bootFailed = (!s.codeSigned Config.milovHash Config.milovSignature || decide (Config.milovVersion.toNat < s.fuse))) ∧
  (∀ (s : State), s.wiping = true → s.bootFailed = false → s.up = true ∨ s.fenced = [] →
    exec .wipeComplete s = .next { s with wiping := false, up := true }) ∧
  (∀ (s : State) k n, s.wiping = true → s.bootFailed = false → s.up = false → s.fenced = [(k, n)] →
    exec .wipeComplete s = .next (({ s with wiping := false, up := true } : State).mgmt 0 3 (le 4 (UnitKind.code k) ++ le 4 n))) ∧
  (∀ (s : State) k v, beyondLimit k v false = true →
    exec (.railLimitEvent k v) s = .next (s.mgmt 0 4 (le 4 k ++ le 4 (intBits v 32)))) ∧
  (∀ (s : State) k v, beyondLimit k v true = true → exec (.tripLimit k v) s = .next s.restart) ∧
  (∀ (s : State) die, die < 8 → ∃ t, exec (.idleInsertion die) s = .next t ∧ t = { s with idle := t.idle } ∧
    t.idle.getD die 0 = s.idle.getD die 0 + 1 ∧ ∀ d, d < 8 → d ≠ die → t.idle.getD d 0 = s.idle.getD d 0) ∧
  (∀ (s : State) p, s.placeExists p = false → exec (.scrub p true) s = .next s ∧ exec (.scrub p false) s = .next s) ∧
  (∀ (s : State) p, s.placeExists p = true → exec (.scrub p true) s = .next (s.count 1 (s.placeDie p) 0 1) ∧
    exec (.scrub p false) s = .next ((s.poisonPlace p).count 1 (s.placeDie p) 1 1)) ∧
  (∀ (s : State) a, s.placeDie (.dram a) = a / 2 ^ 38 ∧ s.placeExists (.dram a) = physExists a) ∧
  (∀ (s : State) crs n L k, L < 32 → k / 2 = L / 2 → ((s.poisonPlace (.lane crs n L)).course crs).laneCell false n k =
    { (s.course crs).laneCell false n k with poison := true }) ∧
  (∀ (s : State) h ofs w, (s.spaceBlock (.shared h)).poison = [] →
    poisonedIn ((s.poisonPlace (.shared h ofs)).spaceBlock (.shared h)).poison (4 * w) 4 = decide (4 * w / 8 = ofs / 8)) ∧
  (∀ (s : State) n, (s.poisonPlace (.tlb n)).tlb = s.tlb.eraseIdx n) ∧
  (∀ (s : State) die a w, poisonedIn (s.poisonPlace (.homeLine die a)).poison (a / 8 * 8 + 4 * w) 4 =
    (decide (w < 2) || poisonedIn s.poison (a / 8 * 8 + 4 * w) 4)) ∧
  (∀ (s : State) a, physExists a = true → ∃ t, exec (.scrub (.dram a) false) s = .next t ∧ t.mem = s.mem ∧
    ∀ w, poisonedIn t.poison (a / 64 * 64 + 4 * w) 4 = (decide (w < 16) || poisonedIn s.poison (a / 64 * 64 + 4 * w) 4)) ∧
  (∀ (s : State) g die part, (s.grid g).done = false →
    exec (.uncorrectableStateError g die part) s = .next (((s.abortGrid g 0x0112 none).count 1 die 1 1).mgmt (s.grid g).ctx 10
      (le 4 die ++ le 4 part)))

/-! ## Words as such: decoding, issue, and what they leave unchanged -/

/-- R66–R85, R88: every well-formed word that is encoded is decoded to what it was. -/
def Obligations.DecodeEncode : Prop := ∀ (i : Instr) w, i.wf = true → encode i = some w → decodeWord w = .ok i

/-- R66–R85, R88: what the decoder reads from a word is well formed, and its encoding is the word: every bit of a word that
decodes has a meaning. -/
def Obligations.EncodeDecode : Prop := ∀ w (i : Instr), decodeWord w = .ok i → i.wf = true ∧ encode i = some w

/-- R67, R68, R70–R72, R80, R83, R84, R88: words that the spec writes out with their assembly, and two that are no
instruction. -/
def Obligations.DecodeWords : Prop :=
  let h : Head := ⟨false, 0#3, false, false, 0#3, false⟩
  let m1 : Head := { h with mask := 1#3 }
  let no : Operand := ⟨.lane, 0#8⟩
  decodeWord 0x0000000000000000#64 = .ok (.ill h 0#46) ∧
  decodeWord 0x0004000000000000#64 = .ok (.nop h) ∧
  decodeWord 0x2881C1C0BEC00800#64 = .ok (.iadd ⟨⟨false, 2#3, true, false, 3#3, true⟩, 7#8, ⟨.lane, 2#8⟩, ⟨.imm, 0xFB#8⟩, no, false⟩
    false false) ∧
  decodeWord 0x00F8010100FFFFFF#64 = .ok (.iaddi ⟨h, 4#8, 4#8, false, 0xFFFFFF#24⟩ false) ∧
  decodeWord 0x000800CD00000003#64 = .ok (.bra h (.lane 3#8 .lt) 3#32) ∧
  decodeWord 0x0200010081800010#64 = .ok (.lds ⟨h, 4#8, 2#8, 0#4, .b64, false, 16#16⟩ false) ∧
  decodeWord 0x0280030289020005#64 = .ok (.stg ⟨h, 12#8, 10#8, 2#4, .b32, false, 5#16⟩ false true) ∧
  decodeWord 0x013080C08000C208#64 = .ok (.cvt ⟨m1, 3#8, ⟨.lane, 2#8⟩, no, ⟨.imm, 3#8⟩, false⟩ .rne true) ∧
  decodeWord 0x0180018140400803#64 = .ok (.shfl ⟨h, 6#8, ⟨.lane, 5#8⟩, ⟨.imm, 1#8⟩, no, false⟩ .bfly .s32) ∧
  decodeWord 0x0374870102400401#64 = .ok (.dqtl ⟨m1, 28#8, ⟨.lane, 4#8⟩, ⟨.unif, 9#8⟩, no, false⟩ true) ∧
  decodeWord 0x0228020500001000#64 = .ok (.redeem ⟨h, 8#8, ⟨.unif, 20#8⟩, no, no, false⟩ .b32) ∧
  decodeWord 0x0308800204000012#64 = .ok (.mma ⟨m1, 0#8, ⟨.lane, 8#8⟩, ⟨.lane, 16#8⟩, no, false⟩ .e4m3 .e4m3 false) ∧
  decodeWord 0x02B4050002002880#64 = .ok (.xrecv ⟨h, 20#8, ⟨.imm, 0#8⟩, ⟨.imm, 8#8⟩, no, true⟩) ∧
  decodeWord 0x038800C0000A0001#64 = .ok (.sysrdV ⟨h, 3#8, no, no, ⟨.lane, 40#8⟩, false⟩) ∧
  decodeWord 0x0044000100001080#64 = .ok (.waitc ⟨h, 0#8, ⟨.unif, 4#8⟩, no, no, true⟩ .copy) ∧
  (decodeWord 0x0050000000000000#64).toOption = none ∧
  (decodeWord 0x0080400000000000#64).toOption = none

/-- R66, R86, R106, R117, R118, R134, R138, R279, R437: a step runs the word at the PC of the slot whose turn it is. A
deferred refusal goes first; a word with an uncorrectable error raises DATA_ERROR; bits that are no word raise
ILLEGAL_INSTRUCTION; a word that asks for a pair issues with the next one where it may. -/
def Obligations.StepRunsWord : Prop :=
  ∀ (s u : State) crs j, s.nextSlot u crs j →
    let v : State := { u with cur := ⟨crs, j, false⟩ }
    let c := v.course crs
    let pc := (c.slotN j).pc
    (∀ t, c.nextRefusal j = some t → step s = bump (.next (v.takeRefusal crs j t))) ∧
    (∀ l, c.nextRefusal j = none → v.lineOf c pc = some l → l.bad ≠ [] → step s = bump (.next (v.badLine crs j l))) ∧
    (∀ l, c.nextRefusal j = none → v.lineOf c pc = some l → l.bad = [] →
      let t := v.touchLine c.core l
      (∀ e, decodeWord (l.word pc) = .error e →
        step s = bump (t.trapped (t.wordCtx (Raw.ofWord (l.word pc)).head) ((t.wordCtx (Raw.ofWord (l.word pc)).head).trap 0x01))) ∧
      (∀ i, decodeWord (l.word pc) = .ok i → i.head?.any (fun h => h.p) = false → step s = bump (exec i t)) ∧
      (∀ i, decodeWord (l.word pc) = .ok i → i.head?.any (fun h => h.p) = true → step s = bump (t.issuePair i)) ∧
      (∀ i y, decodeWord (l.word pc) = .ok i → i.head?.any (fun h => h.p) = true → exec i t = .next y → y.cur = t.cur →
        y.hasIssued = true → t.partner i = none → step s = bump (.next y.fallback)))

/-- R67, R86, R106, R108, R109, R140, R151, R300, R324, R435, R442, R488: the checks of a word in their order, and the account of
its issue. A channel word with no active lane neither waits nor traps on a register; that it still meets the checks of decoding is
the model's reading (log 91). A word that traps has made its bay's issue event (log 22), and changes nothing else. -/
def Obligations.WordIssue : Prop :=
  (∀ (i : Instr) h (s : State), i.head? = some h →
    let x := s.wordCtx h
    let c := s.issuer x
    let legal := (privileged i = true → x.sup = true) ∧ i.fields.all (fun f => f.ok (s.limits c x.sup)) = true
    (s.atIssue = false → exec i s = .next s) ∧
    (s.atIssue = true → privileged i = true → x.sup = false → exec i s = s.trapped x (x.trap 0x03)) ∧
    (s.atIssue = true → (privileged i = true → x.sup = true) → i.fields.all (fun f => f.ok (s.limits c x.sup)) = false →
      exec i s = s.trapped x x.illegalOperand) ∧
    (s.atIssue = true → legal → idles i x = false → c.destEmpty x i.fields = true → exec i s = s.blocked x true) ∧
    (s.atIssue = true → legal → idles i x = false → c.destEmpty x i.fields = false → c.sourceEmpty x i.fields = true →
      exec i s = if h.e then s.trapped x (x.trap 0x09) else s.blocked x true) ∧
    (s.atIssue = true → legal → idles i x = true → exec i s = s.went x) ∧
    (idles i x = true → x.act = 0#32) ∧
    (x.act = 0#32 → 0xA0 ≤ i.opcode → i.opcode ≤ 0xA9 → idles i x = true) ∧
    (∀ p, s.atIssue = true → legal → c.destEmpty x i.fields = false → c.sourceEmpty x i.fields = false → i.ownPoison = false →
      s.poisoned c x i.fields = some p → exec i s = s.trapped x (x.dataError p))) ∧
  (∀ (s : State) x, let t := s.account x
    (t.course x.crs).nextIssue = max (s.course x.crs).nextIssue (s.clock + x.h.gap.toNat + 1) ∧
    ((t.course x.crs).slotN x.j).lastIssue = some s.clock ∧
    ((t.course x.crs).slotN x.j).yieldUntil = (if x.h.y then s.clock + 17 else ((s.course x.crs).slotN x.j).yieldUntil) ∧
    ((t.course x.crs).slotN x.j).pc = ((s.course x.crs).slotN x.j).pc ∧
    ((t.course x.crs).slotN x.j).mask = ((s.course x.crs).slotN x.j).mask ∧ t.mem = s.mem ∧
    (∀ h, h ≠ x.crs → t.course h = s.course h)) ∧
  (∀ (s : State) x, let t := s.accountTrap x
    let c := s.course x.crs
    (∀ h, t.course h = s.course h) ∧ t.mem = s.mem ∧ t.poison = s.poison ∧ t.teams = s.teams ∧
    (c.bay < 4 → ((t.core c.core).bay c.bay).issued = some s.clock) ∧
    t.counter 0 c.core 0 = s.counter 0 c.core 0 + (if s.cur.second then 0 else 1)) ∧
  (∀ (s : State) crs j act, ((s.course crs).slotN j).pc + 8 ≠ 2 ^ 52 →
    s.advance crs j act = s.onCourse crs (fun c => c.onSlot j (fun y => { y with pc := y.pc + 8, wait := .none }))) ∧
  (∀ (s : State) crs j act, ((s.course crs).slotN j).pc + 8 = 2 ^ 52 →
    s.advance crs j act = s.raise crs j { code := 0x05, sub := 2, after := true, pc := 2 ^ 52 - 8, mask := act, resume := 2 ^ 52,
                                          inSup := (s.course crs).supIn j })

/-- R157, R174, R177, R198, R205, R219–R221, R225: a word waits while its bay's special-function pipeline, crossbar or
distribution unit is busy, even with no active lane, and one that names a format register that holds no format traps. -/
def Obligations.UnitsAndFormats : Prop :=
  let busy := fun (i : Instr) (h : Head) (at_ : Bay → Nat) =>
    DoesIf i h (fun s x => s.clock < at_ (s.issuerBay x)) (fun s x => s.blocked x false)
  let bad := fun (i : Instr) (r : RWord) (n : Nat) =>
    DoesIf i r.head (fun s x => x.act ≠ 0#32 ∧ fmtValid ((s.issuer x).fmReg n) = false) (fun s x => s.trapped x (x.formatTrap n))
  (∀ (i : Instr) h, i.head? = some h → (i.opcode = 0x24 ∨ i.opcode = 0x25 ∨ (0x4D ≤ i.opcode ∧ i.opcode ≤ 0x55)) →
    busy i h (fun b => b.specialUntil)) ∧
  (∀ (i : Instr) h, i.head? = some h → ((0x61 ≤ i.opcode ∧ i.opcode ≤ 0x65) ∨ i.opcode = 0x69 ∨ i.opcode = 0x6A) →
    busy i h (fun b => b.crossbarUntil)) ∧
  (∀ (i : Instr) h, i.head? = some h → 0xD0 ≤ i.opcode → i.opcode ≤ 0xDF → busy i h (fun b => b.distUntil)) ∧
  (∀ r i fm, ((∃ out, i = .qscale r out fm) ∨ (∃ rnd sat, i = .qnt r rnd sat fm) ∨ (∃ rnd, i = .deq r rnd fm)) →
    DoesIf i r.head (fun s x => (x.act = 0#32 ∨ fmtValid ((s.issuer x).fmReg fm.toNat) = true) ∧
      s.clock < (s.issuerBay x).crossbarUntil) (fun s x => s.blocked x false)) ∧
  (∀ r mode seg, DoesIf (.shfl r mode seg) r.head
    (fun s x => s.fieldPoison (s.issuer x) x r.b.reg1Imm = none ∧ s.clock < (s.issuerBay x).crossbarUntil ∧
      ∀ L, x.act.getLsbD L = true →
        let k := shflLane mode (Seg.size seg) (s.lrOf (s.issuer x)).width16 (s.src x r.b 1 L) L
        ((s.issuer x).laneCell x.sup r.a.field.toNat k).empty = false ∧
        s.lanePoison (s.issuer x) x.sup r.a.field.toNat k = false)
    (fun s x => s.blocked x false)) ∧
  (∀ r out fm, bad (.qscale r out fm) r fm.toNat) ∧
  (∀ r rnd sat fm, bad (.qnt r rnd sat fm) r fm.toNat) ∧
  (∀ r rnd fm, bad (.deq r rnd fm) r fm.toNat) ∧
  (∀ r rnd sat n, ([r.c.field.toNat / 16, r.c.field.toNat % 16].filterMap cvtFm) = [n] → bad (.cvt r rnd sat) r n) ∧
  (∀ (s : State) crs j pc act fl, (s.course crs).trapsOn fl = false → s.heldTrap crs j pc act fl = s)

/-- R112, R114, R142, R143, R150: what is written when results land: the register that a result names holds its value and
is not poisoned, what lands is full, flags are added, m0 keeps all ones, and no other register changes. -/
def Obligations.RegisterWrites : Prop :=
  let file := fun (c : Course) (sp : Bool) => sp = true → c.sup.isSome = true
  (∀ (c : Course) sp n L v bits k M, L < 32 → M < 32 → file c sp → (c.applyAlu (.lane sp n L v bits)).laneCell sp k M =
    if k = n ∧ M = L then { c.laneCell sp n L with val := mergeBits (c.laneCell sp n L).val v bits, poison := false }
    else c.laneCell sp k M) ∧
  (∀ (c : Course) sp n v bits k, file c sp → (c.applyAlu (.unif sp n v bits)).unifCell sp k =
    if k = n then { c.unifCell sp n with val := mergeBits (c.unifCell sp n).val v bits } else c.unifCell sp k) ∧
  (∀ (c : Course) n v bits, n ≠ 0 → Tab.get 0#32 (c.applyAlu (.mask n v bits)).m n = mergeBits (Tab.get 0#32 c.m n) v bits) ∧
  (∀ (c : Course) v bits, c.applyAlu (.mask 0 v bits) = c) ∧
  (∀ (s : State) c, s.maskVal c 0 = 0xFFFFFFFF#32) ∧
  (∀ (c : Course) f, c.applyAlu (.flags f) = { c with flg := c.flg ||| f }) ∧
  (∀ (c : Course) sp n L v p k M, L < 32 → M < 32 → file c sp → (c.land (.lane sp n L v p)).laneCell sp k M =
    if k = n ∧ M = L then ⟨v, false, p⟩ else c.laneCell sp k M) ∧
  (∀ (c : Course) sp n v k, file c sp → (c.land (.unif sp n v)).unifCell sp k = if k = n then ⟨v, false⟩ else c.unifCell sp k) ∧
  (∀ (c : Course) sp sp' n L v p k M, sp' ≠ sp → (c.land (.lane sp n L v p)).laneCell sp' k M = c.laneCell sp' k M) ∧
  (∀ (c : Course) sp sp' n L v p k, (c.land (.lane sp n L v p)).unifCell sp' k = c.unifCell sp' k) ∧
  (∀ old v bits i, (mergeBits old v bits).getLsbD i = if bits.getLsbD i then v.getLsbD i else old.getLsbD i) ∧
  (∀ (s : State) crs pid ls fl h, h ≠ crs → (s.landPend crs pid ls fl).course h = s.course h) ∧
  (∀ (s : State) crs pid ls fl, (s.landPend crs pid ls fl).mem = s.mem)

/-- R67, R112–R114, R228, R258, R292: what an instruction word leaves unchanged when it issues. No word of classes 1 to 6,
but for SWR, changes at issue any register that is not its destination, any flag, mask register or special register, any
other course, or any byte of main memory: results, stores and packets come later. NOP, IPF, the barrier words, WAITC and
LAUNCH change no register but their destination. The words of the control flow (class 0) change no flag, and no byte of
memory but those of the control region at the end of the course's spill area, where path and rejoin entries are kept (R121); nor
does HALT.lanes. TRAP, SYSRD, TLBINV and CINV change no register but their destination; SYSWR changes the register that it names;
PGMAP writes its frame and the entry of its page, PGPROT the entries of the page's group and what a splinter writes; no other
supervisor word writes memory. -/
def Obligations.WordFrame : Prop :=
  (∀ (i : Instr) (s t : State), 0x20 ≤ i.opcode → i.opcode < 0xE0 → i.opcode ≠ 0x3D → exec i s = .next t →
    sameRegs s t s.cur.crs i ∧ sameSpecials s t s.cur.crs ∧ sameElsewhere s t s.cur.crs) ∧
  (∀ (i : Instr) (s t : State), i.head?.isSome = true →
    i.opcode ∈ [0x01, 0x09, 0x0B, 0x0E, 0x0F, 0x10, 0x11, 0x12, 0x13] → exec i s = .next t →
    sameRegs s t s.cur.crs i ∧ sameSpecials s t s.cur.crs ∧ sameElsewhere s t s.cur.crs) ∧
  (∀ (i : Instr) (s t : State), i.head?.isSome = true → (i.opcode < 0x20 ∨ ∃ h, i = .haltLanes h) → exec i s = .next t →
    let c := s.course s.cur.crs
    let sp := (s.lrOf c).spill
    let first := 32 * sp - regionBytes sp
    (∀ a, (∀ o, first ≤ o → o < first + max (regionBytes sp) (16 * (c.rejoin.length + c.rejoinCount)) →
        a < c.spillAt o ∨ c.spillAt o + 16 ≤ a) → t.memRead a 1 = s.memRead a 1) ∧
      (t.course s.cur.crs).flg = c.flg ∧ (t.course s.cur.crs).ctl = c.ctl) ∧
  (∀ (i : Instr) (s t : State), i.opcode ∈ [0xE0, 0xE2, 0xE4, 0xE7] → exec i s = .next t →
    sameRegs s t s.cur.crs i ∧ sameSpecials s t s.cur.crs ∧ sameElsewhere s t s.cur.crs) ∧
  (∀ (i : Instr) (s t : State), ((∃ h, i = .sret h ∨ i = .sretEsc h ∨ i = .haltGrid h)) → exec i s = .next t →
    (∀ a, t.memRead a 1 = s.memRead a 1) ∧ t.poison = s.poison ∧
      (t.course s.cur.crs).flg = (s.course s.cur.crs).flg ∧ (t.course s.cur.crs).ctl = (s.course s.cur.crs).ctl) ∧
  (∀ (r : RWord) (s t : State), exec (.syswr r) s = .next t →
    let c := s.course s.cur.crs
    let d := t.course s.cur.crs
    sameRegs s t s.cur.crs (.syswr r) ∧ sameElsewhere s t s.cur.crs ∧ d.m = c.m ∧ d.fm = c.fm ∧ d.live = c.live ∧
      d.blocks = c.blocks ∧ (r.d.toNat ≠ 12 → d.flg = c.flg) ∧ (r.d.toNat ∈ [8, 9, 12] → d.ctl = c.ctl)) ∧
  (∀ (r : RWord) (i : Instr) (s t : State), (i = .syswrV r ∨ i = .syswrS r) → exec i s = .next t →
    let c := s.course s.cur.crs
    let d := t.course s.cur.crs
    sameSpecials s t s.cur.crs ∧ sameElsewhere s t s.cur.crs ∧
      (∀ sup n L, L < 32 → ¬ (i = .syswrV r ∧ sup = false ∧ n = r.c.field.toNat ∧ (s.wordCtx r.head).act.getLsbD L = true) →
        d.laneCell sup n L = c.laneCell sup n L) ∧
      (∀ sup n, ¬ (i = .syswrS r ∧ sup = false ∧ n = r.c.field.toNat) → d.unifCell sup n = c.unifCell sup n)) ∧
  (∀ (r : RWord) (s t : State), exec (.pgmap r) s = .next t →
    let x := s.wordCtx r.head
    let c := s.ctxOf (s.issuer x)
    let va := s.src x r.a 2 0 / 2 ^ 16 * 2 ^ 16
    sameRegs s t s.cur.crs (.pgmap r) ∧ sameSpecials s t s.cur.crs ∧ (∀ h, h ≠ s.cur.crs → t.course h = s.course h) ∧
    ∀ a, (∀ f, s.frameAt c (s.usrc x r.b) (dieOf (s.issuer x).core) = some f →
        let z := (s.zeroRange (Frame.no f * 2 ^ 16) (2 ^ 16)).setUse c (Frame.no f) .page
        (a < Frame.no f * 2 ^ 16 ∨ (Frame.no f + 1) * 2 ^ 16 ≤ a) ∧
        ∀ b, z.leafEntryAddr c va = some b → a < b ∨ b + 8 ≤ a) →
      t.memRead a 1 = s.memRead a 1) ∧
  (∀ (r : RWord) (s t : State), exec (.pgprot r) s = .next t →
    let x := s.wordCtx r.head
    let c := s.ctxOf (s.issuer x)
    let va := s.src x r.a 2 0 / 2 ^ 16 * 2 ^ 16
    sameRegs s t s.cur.crs (.pgprot r) ∧ sameSpecials s t s.cur.crs ∧ (∀ h, h ≠ s.cur.crs → t.course h = s.course h) ∧
    ∀ a, (∀ u, s.splinter c va false = some u → u.memRead a 1 = s.memRead a 1 ∧
        (∀ b, u.leafEntryAddr c (va / 2 ^ 22 * 2 ^ 22) = some b → a < b ∨ b + 512 ≤ a) ∧
        ∀ b, (u.clearGroup c va).leafEntryAddr c va = some b → a < b ∨ b + 8 ≤ a) →
      t.memRead a 1 = s.memRead a 1) ∧
  (∀ (s u : State) c va any die tier a2 e2, s.level2 c va = some (die, tier, a2, e2) → s.splinter c va any = some u →
    u = s ∨ ∃ f half, s.splinterHalf c die tier any = some (f, half) ∧
      let base := physAddr f.die f.tier (f.n * 2 ^ 16 + half * 2 ^ 15)
      ∀ a, (a < base ∨ base + 2 ^ 15 ≤ a) → (a < a2 ∨ a2 + 8 ≤ a) → u.memRead a 1 = s.memRead a 1)

/-- The model's canonical form of main memory (log 7): addresses strictly rising, no listed
byte zero. Every step keeps it. -/
def Obligations.StepKeepsMemory : Prop :=
  ∀ (s t : State), Memory.wf s.mem = true → step s = .next t → Memory.wf t.mem = true

/-- R46, R153, R268, R468, R485: the package right after reset: nothing is defined, main memory reads as zero, the cycle
counter is 0, the port is down until the wipe is complete; and the first step of its own completes the wipe. -/
def Obligations.ResetState : Prop :=
  let s := State.reset
  s.clock = 0 ∧ s.contexts = [] ∧ s.queues = [] ∧ s.grids = [] ∧ s.teams = [] ∧ s.courses = [] ∧ s.net = [] ∧ s.exported = [] ∧
  (∀ a, s.memRead a 1 = [0#8]) ∧ s.poison = [] ∧ Memory.wf s.mem = true ∧ (∀ n, s.entry n = {}) ∧ (∀ d c k, s.event d c k = 0) ∧
  s.up = false ∧ s.wiping = true ∧ s.mgmtOpen = false ∧
  step s = .next { s with wiping := false, up := true, stamp := 1 } ∧
  (∀ (t : State) m, t.up = false → exec (.defineContext m) t = .next t)
end

