-- ==== Sys2Proof/Laws/Issue.lean ====
section
/-! SUPPORT. How a word issues, said once: a word that passes its checks puts its result into the state, and what each
shared shape of result then leaves. -/

namespace Sys2Proof.Machine

/-- A word that passes the checks of R86 and R151 comes to what its body says. -/
theorem issue_of_passes {s : State} {i : Instr} {h : Head} {b : Ctx → Res} (hp : s.passes i h = true) :
    s.issue i h b = .next (s.settle (s.wordCtx h) (b (s.wordCtx h))) := by
  simp only [State.passes, Bool.and_eq_true, Bool.or_eq_true, Bool.not_eq_true', Option.isNone_iff_eq_none] at hp
  obtain ⟨⟨⟨⟨⟨h1, h2⟩, h3⟩, h4⟩, h5⟩, h6⟩ := hp
  rw [State.issue, if_pos h1]
  simp only [State.checkWord]
  have : (privileged i && !(s.wordCtx h).sup) = false := by
    rcases h2 with h2 | h2 <;> simp [h2]
  rw [if_neg (by simp [this]), if_neg (by simp [h3])]
  split
  · rfl
  rw [if_neg (by simp [h4]), if_neg (by simp [h5])]
  rcases h6 with h6 | h6
  · simp [h6]
  · by_cases h7 : i.ownPoison = true <;> simp [h7, h6]

/-- A mask without lanes is empty. -/
theorem eq_zero_of_lanesOf {m : LaneMask} (h : lanesOf m = []) : m = 0#32 := by
  apply BitVec.eq_of_getLsbD_eq
  intro L hL
  have : L ∉ lanesOf m := by simp [h]
  simpa only [lanesOf, lanes, List.mem_filter, List.mem_range, hL, true_and, Bool.not_eq_true, BitVec.getLsbD_zero] using this

/-- The lanes for which a word computes. -/
theorem span_eq (x : Ctx) (u : Bool) : x.span u = computing u x.act := by
  unfold Ctx.span computing lowestLane
  cases u
  · rfl
  · simp only [if_true]
    by_cases h : x.act = 0#32
    · rw [if_pos h, h]; decide
    · rw [if_neg h]
      cases hl : lanesOf x.act with
      | nil => exact absurd (eq_zero_of_lanesOf hl) h
      | cons a t => rfl

/-- A fixed-ALU word's writes, lane by lane. -/
theorem aluWrites_each (x : Ctx) (u : Bool) (d w : Nat) (v : Nat → Nat × Word) :
    Results.aluWrites (x.each u v) x.sup u d w = regWrites x u d w (fun L => (v L).1) := by
  simp [Results.aluWrites, regWrites, Ctx.each, span_eq, List.flatMap_map]

/-- A variable-latency word's values, lane by lane. -/
theorem landings_each (x : Ctx) (u : Bool) (d w : Nat) (v : Nat → Nat × Word) :
    Results.landings (x.each u v) x.sup u d w = lateValues x u d w (fun L => (v L).1) := by
  simp [Results.landings, lateValues, Ctx.each, span_eq, List.flatMap_map]

/-- The flags of a word's lanes. -/
theorem flags_each (x : Ctx) (u : Bool) (v : Nat → Nat × Word) :
    Results.flags (x.each u v) = flagsOf x u (fun L => (v L).2) := by
  simp [Results.flags, flagsOf, Ctx.each, span_eq, List.foldl_map]

/-- The registers that a word with an active lane leaves empty. -/
theorem fills_eq {x : Ctx} (u : Bool) (d w : Nat) (h : x.act ≠ 0#32) : x.fills u d w = lateFills x u d w := by
  simp [Ctx.fills, lateFills, h]

/-- What a fixed-ALU result leaves: the ARITH trap waits where a flag that it sets is enabled. -/
theorem settle_aluRes (s : State) (x : Ctx) (ws : List AluDst) (fl : Word) : s.settle x (s.aluRes x ws fl) =
    if (s.issuer x).trapsOn (wordFlags x.sup fl) then ((s.aluSent x ws fl).account x).pauses x.crs x.j x.act
      (.arith (s.clock + 4) (arithTrap x.pc x.act (wordFlags x.sup fl)))
    else ((s.aluSent x ws fl).account x).advance x.crs x.j x.act := by
  unfold State.aluRes State.aluSent State.onCourse State.issuer
  by_cases h : wordFlags x.sup fl = 0#32 <;> simp [h] <;> split <;> simp_all [State.settle]

/-- A meaning that is a fixed-ALU result. -/
theorem aluDoes_of {i : Instr} {h : Head} {res : State → Ctx → List AluDst × Word}
    (hx : ∀ s, exec i s = s.issue i h (fun x => s.aluRes x (res s x).1 (res s x).2)) : AluDoes i h res := by
  constructor <;> intro s hp ht <;> rw [hx, issue_of_passes hp, settle_aluRes]
  · rw [if_neg (by simp [ht.2])]; rfl
  · rw [if_pos ht.2]

/-- A meaning that is a fixed-ALU word of one value per lane. -/
theorem aluGives_of {i : Instr} {h : Head} {u : Bool} {d : BitVec 8} {w : Nat} {v : State → Ctx → Nat → Nat × Word}
    (hx : ∀ s, exec i s = s.issue i h (fun x => s.aluWord x u d.toNat w (v s x))) : AluGives i h u d w v :=
  aluDoes_of (fun s => by simp only [hx, State.aluWord, aluWrites_each, flags_each])

/-- A variable-latency word that has an active lane. -/
theorem settle_lateWord {s : State} {x : Ctx} (unit : PendUnit) (u : Bool) (d w : Nat) (may : Word) (f : Nat → Nat × Word)
    (h : x.act ≠ 0#32) (t : State) : s.settle x (t.lateWord x unit u d w may f) =
    ((t.addPend x unit (.values (lateValues x u d w (fun L => (f L).1))) (lateFills x u d w)
      (flagsOf x u (fun L => (f L).2)) may).account x).advance x.crs x.j x.act := by
  simp [State.lateWord, h, State.settle, landings_each, flags_each, fills_eq]

/-- What a word that passes its checks answers: its body's result put into the state. -/
theorem exec_of_passes {s : State} {i : Instr} {h : Head} {b : Ctx → Res} (he : exec i s = s.issue i h b)
    (hp : s.passes i h = true) : exec i s = .next (s.settle (s.wordCtx h) (b (s.wordCtx h))) := by rw [he, issue_of_passes hp]

/-- A fixed-ALU word whose value in each lane is known. -/
theorem aluGives_congr {i : Instr} {h : Head} {u : Bool} {d : BitVec 8} {w : Nat} {v v' : State → Ctx → Nat → Nat × Word}
    (hx : ∀ s, exec i s = s.issue i h (fun x => s.aluWord x u d.toNat w (v s x))) (hv : ∀ s x L, v s x L = v' s x L) :
    AluGives i h u d w v' :=
  (show v = v' by funext s x L; exact hv s x L) ▸ aluGives_of hx

/-- A map over a list needs its function on the members only. -/
theorem flatMap_congr_of {α β : Type} {l : List α} {f g : α → List β} (h : ∀ a ∈ l, f a = g a) : l.flatMap f = l.flatMap g := by
  induction l with
  | nil => rfl
  | cons a t ih => rw [List.flatMap_cons, List.flatMap_cons, h a (by simp), ih (fun b hb => h b (by simp [hb]))]

/-- Two functions that agree in the lanes that compute give the same values. -/
theorem lateValues_congr {x : Ctx} {u : Bool} {d w : Nat} {f g : Nat → Nat} (h : ∀ L ∈ computing u x.act, f L = g L) :
    lateValues x u d w f = lateValues x u d w g := flatMap_congr_of (fun L hL => by rw [h L hL])

/-- A variable-latency word whose body, with an active lane, is a late word. -/
theorem lateDoes_of {i : Instr} {h : Head} {unit : PendUnit} {free : State → Ctx → Prop} {pre : State → Ctx → State} {u : Bool}
    {d : BitVec 8} {w : Nat} {may : State → Ctx → Word} {f : State → Ctx → Nat → Nat × Word} {b : State → Ctx → Res}
    {v : State → Ctx → Nat → Nat} {fl : State → Ctx → Word} (hx : ∀ s, exec i s = s.issue i h (b s))
    (h0 : ∀ s x, x.act = 0#32 → unitFree unit s x → b s x = .go s)
    (h1 : ∀ s x, x.act ≠ 0#32 → free s x → b s x = (pre s x).lateWord x unit u d.toNat w (may s x) (f s x))
    (hv : ∀ s x L, x.act ≠ 0#32 → free s x → L ∈ computing u x.act → (f s x L).1 = v s x L)
    (hf : ∀ s x, x.act ≠ 0#32 → free s x → flagsOf x u (fun L => (f s x L).2) = fl s x) : LateDoes i h unit free pre u d w may v fl := by
  constructor
  · rintro s hp ⟨ha, hr⟩
    rw [exec_of_passes (hx s) hp, h0 _ _ ha hr]; rfl
  · rintro s hp ⟨ha, hr⟩
    rw [exec_of_passes (hx s) hp, h1 _ _ ha hr, settle_lateWord _ _ _ _ _ _ ha, hf _ _ ha hr,
      lateValues_congr (fun L hL => hv _ _ L ha hr hL)]
    rfl

/-- A word that sets no flag in any lane. -/
theorem flagsOf_zero (x : Ctx) (u : Bool) : flagsOf x u (fun _ => 0#32) = 0#32 := by
  unfold flagsOf
  induction computing u x.act with
  | nil => rfl
  | cons a t ih => simpa using ih

/-- A quarter of the course holds an active lane. -/
theorem any_quarter (act : LaneMask) (q : Nat) (hq : q + 8 ≤ 32) :
    (lanesOf act).any (fun L => q ≤ L && L < q + 8) = (List.range 8).any (fun i => act.getLsbD (q + i)) := by
  apply Bool.eq_iff_iff.2
  simp only [List.any_eq_true, lanesOf, lanes, List.mem_filter, List.mem_range, Bool.and_eq_true, decide_eq_true_eq]
  constructor
  · rintro ⟨L, ⟨h1, h2⟩, h3, h4⟩
    exact ⟨L - q, by omega, by rw [show q + (L - q) = L by omega]; exact h2⟩
  · rintro ⟨i, h1, h2⟩
    exact ⟨q + i, ⟨by omega, h2⟩, by omega, by omega⟩

/-- The quarters that a special-function word occupies. -/
theorem specialCycles_eq (k : Nat) (u : Bool) (act : LaneMask) : specialCycles k u act = if u then k else k * quarters act := by
  have h : ∀ q ∈ [0, 8, 16, 24], (lanesOf act).any (fun L => q ≤ L && L < q + 8) = (List.range 8).any (fun i => act.getLsbD (q + i)) :=
    fun q hq => any_quarter act q (by simp at hq; omega)
  unfold specialCycles quarters
  rw [List.filter_congr h]

/-- A special-function word: its meaning is `specialWord`. -/
theorem specialGives_of {i : Instr} {h : Head} {k : Nat} {u : Bool} {d : BitVec 8} {may : Word} {f v : State → Ctx → Nat → Nat × Word}
    (hx : ∀ s, exec i s = s.issue i h (fun x => s.specialWord x k u d.toNat may (f s x))) (hv : ∀ s x L, f s x L = v s x L) :
    SpecialGives i h k u d may v := by
  have : f = v := by funext s x L; exact hv s x L
  subst this
  refine lateDoes_of hx (fun s x h0 h2 => ?_) (fun s x h1 h2 => ?_) (fun _ _ _ _ _ _ => rfl) (fun _ _ _ _ => rfl)
  · simp only [unitFree, specialFree, State.issuerBay] at h2
    unfold State.specialWord
    rw [if_neg (by omega), if_pos h0]
  · simp only [specialFree, State.issuerBay] at h2
    unfold State.specialWord occupySpecial
    rw [if_neg (by omega), if_neg h1, specialCycles_eq]

/-- A list that a word computes for holds only active lanes. -/
theorem mem_computing {u : Bool} {act : LaneMask} {L : Nat} (h : L ∈ computing u act) : L < 32 ∧ act.getLsbD L = true := by
  have : L ∈ lanesOf act := by
    unfold computing at h; split at h
    · exact List.mem_of_mem_take h
    · exact h
  simpa [lanesOf, lanes] using this

/-- A word with an active lane computes somewhere. -/
theorem computing_ne {x : Ctx} {u : Bool} (h : x.act ≠ 0#32) : computing u x.act ≠ [] := by
  intro e
  apply h
  apply eq_zero_of_lanesOf
  unfold computing at e
  split at e
  · cases hl : lanesOf x.act with
    | nil => rfl
    | cons a t => rw [hl] at e; cases e
  · exact e

/-- Flags that every lane sets. -/
theorem foldl_or_const (fl : Word) (l : List Nat) (a : Word) (h : a = fl ∨ (a = 0#32 ∧ l ≠ [])) :
    l.foldl (fun a _ => a ||| fl) a = fl := by
  induction l generalizing a with
  | nil => simpa using h
  | cons b t ih =>
    rw [List.foldl_cons]; apply ih; left
    rcases h with h | h
    · simp [h]
    · simp [h.1]

/-- The flags of a word whose lanes all set the same. -/
theorem flagsOf_const {x : Ctx} (u : Bool) (fl : Word) (h : x.act ≠ 0#32) : flagsOf x u (fun _ => fl) = fl :=
  foldl_or_const fl _ _ (.inr ⟨rfl, computing_ne h⟩)

/-- A crossbar word, under the condition with which it issues. -/
theorem crossbarDoes_of {i : Instr} {h : Head} {k : Nat} {u : Bool} {d : BitVec 8} {w : Nat} {may : Word} {free : State → Ctx → Prop}
    {v v' : State → Ctx → Nat → Nat} {fl fl' : State → Ctx → Word} {b : State → Ctx → Res} (hx : ∀ s, exec i s = s.issue i h (b s))
    (h0 : ∀ s x, x.act = 0#32 → crossbarFree s x → b s x = .go s)
    (hb : ∀ s x, x.act ≠ 0#32 → free s x → crossbarFree s x ∧ b s x = s.crossbarWord x k u d.toNat w may (v s x) (fl s x))
    (hv : ∀ s x L, x.act ≠ 0#32 → free s x → L ∈ computing u x.act → v s x L = v' s x L)
    (hf : ∀ s x, x.act ≠ 0#32 → free s x → fl s x = fl' s x) :
    LateDoes i h .crossbar free (occupyCrossbar k) u d w (fun _ _ => may) v' fl' := by
  refine lateDoes_of (f := fun s x L => (v s x L, fl s x)) hx h0 (fun s x h1 h2 => ?_) hv (fun s x h1 h2 => ?_)
  · obtain ⟨h3, h4⟩ := hb s x h1 h2
    rw [h4]
    simp only [crossbarFree, State.issuerBay] at h3
    unfold State.crossbarWord occupyCrossbar
    rw [if_neg (by omega), if_neg h1]
  · rw [flagsOf_const _ _ h1, hf s x h1 h2]

/-- A crossbar word: its meaning is `crossbarWord`. -/
theorem crossbarGives_of {i : Instr} {h : Head} {k : Nat} {u : Bool} {d : BitVec 8} {w : Nat} {may : Word}
    {v v' : State → Ctx → Nat → Nat} {fl fl' : State → Ctx → Word}
    (hx : ∀ s, exec i s = s.issue i h (fun x => s.crossbarWord x k u d.toNat w may (v s x) (fl s x)))
    (hv : ∀ s x L, x.act ≠ 0#32 → L ∈ computing u x.act → v s x L = v' s x L) (hf : ∀ s x, x.act ≠ 0#32 → fl s x = fl' s x) :
    CrossbarGives i h k u d w may v' fl' :=
  crossbarDoes_of hx (fun s x h hf => by
      simp only [crossbarFree, State.issuerBay] at hf
      unfold State.crossbarWord; rw [if_neg (by omega), if_pos h]) (fun _ _ _ h2 => ⟨h2, rfl⟩)
    (fun s x L h1 _ h3 => hv s x L h1 h3) (fun s x h1 _ => hf s x h1)

/-- A compare word writes the lanes for which its condition holds. -/
theorem compareWord_eq (s : State) (x : Ctx) (r : RWord) (f : Nat → Bool × Word) : s.compareWord x r f =
    s.aluRes x (if r.u then regWrites x true r.d.toNat 1 (fun L => if (f L).1 then 1 else 0)
      else [.mask r.d.toNat (maskOfLanes ((lanesOf x.act).filter (fun L => (f L).1))) x.act])
      (flagsOf x r.u (fun L => (f L).2)) := by
  unfold State.compareWord
  by_cases h : r.u
  · simp [h, State.aluWord, aluWrites_each, flags_each, b2n]
  · simp [h, flagsOf, computing, List.foldl_map, List.filter_map, Function.comp_def]

/-! ## Checks that look pages up -/

/-- A word whose checks pass has its effect. -/
theorem then_ok {k : Looked} {f : Res} (h : k.res = .ok) : k.then f = f := by simp [Looked.then, h]

/-- A word one of whose checks fails traps, with the pages looked up before it. -/
theorem then_trap {k : Looked} {f : Res} {t : TrapRec} (h : k.res = .trap t) : k.then f = .trapLooked k.vas t := by
  simp [Looked.then, h]

/-- A word that meets a page that is being moved waits, with the pages looked up before it. -/
theorem then_wait {k : Looked} {f : Res} (h : k.res = .wait) : k.then f = .held k.vas false := by simp [Looked.then, h]

/-- Checks that all pass, after others that have passed. -/
theorem fold_ok {α : Type} {f : α → Looked} : ∀ {l : List α} {k : Looked}, (∀ a ∈ l, (f a).res = .ok) → k.res = .ok →
    l.foldl (fun r a => r.andThen (f a)) k = ⟨.ok, k.vas ++ l.flatMap (fun a => (f a).vas)⟩
  | [], ⟨r, vs⟩, _, hk => by subst hk; simp
  | a :: t, k, h, hk => by
    rw [List.foldl_cons, fold_ok (fun b hb => h b (by simp [hb])) (by simp [Looked.andThen, hk, h a])]
    simp [Looked.andThen, hk]

/-- A check that has failed decides. -/
theorem fold_failed {α : Type} {f : α → Looked} : ∀ {l : List α} {k : Looked}, k.res ≠ .ok →
    l.foldl (fun r a => r.andThen (f a)) k = k
  | [], _, _ => rfl
  | a :: t, k, h => by
    have e : k.andThen (f a) = k := by unfold Looked.andThen; split <;> simp_all
    rw [List.foldl_cons, e, fold_failed h]

/-- Checks that all pass. -/
theorem each_ok {α : Type} {f : α → Looked} {l : List α} (h : ∀ a ∈ l, (f a).res = .ok) :
    Looked.each f l = ⟨.ok, l.flatMap (fun a => (f a).vas)⟩ := by simp [Looked.each, fold_ok h]

/-- Checks of which the first that fails is known: those before it pass, and those after it are not made. -/
theorem each_fails {α : Type} {f : α → Looked} {l t : List α} {a : α} (h : ∀ b ∈ l, (f b).res = .ok) (ha : (f a).res ≠ .ok) :
    Looked.each f (l ++ a :: t) = ⟨(f a).res, l.flatMap (fun b => (f b).vas) ++ (f a).vas⟩ := by
  rw [Looked.each, List.foldl_append, fold_ok h rfl, List.foldl_cons, fold_failed (by simpa [Looked.andThen] using ha)]
  simp [Looked.andThen]

end Sys2Proof.Machine
end

