-- ==== Sys2Proof/Laws/Tables.lean ====
section
/-! SUPPORT. The sparse tables: an entry that is written is read back, and no other entry changes. The laws hold for every
table, ordered or not. -/

namespace Sys2Proof

variable {α : Type}

@[simp] theorem Tab.get_nil (d : α) (n : Nat) : Tab.get d [] n = d := rfl
@[simp] theorem Tab.find_nil (n : Nat) : Tab.find ([] : Tab α) n = none := rfl
@[simp] theorem Tab.has_nil (n : Nat) : Tab.has ([] : Tab α) n = false := rfl

/-- A table read after a write. -/
theorem Tab.get_put (d : α) (t : Tab α) (n k : Nat) (x : α) : Tab.get d (t.put n x) k = if n = k then x else Tab.get d t k := by
  induction t with
  | nil => simp [Tab.put, Tab.get]
  | cons e t ih =>
    obtain ⟨a, v⟩ := e
    simp only [Tab.put]
    split
    · subst a; simp only [Tab.get]; split <;> rfl
    · split
      · simp only [Tab.get]
      · simp only [Tab.get, ih]; split
        · subst a; rw [if_neg (by omega)]
        · rfl

@[simp] theorem Tab.get_put_same (d : α) (t : Tab α) (n : Nat) (x : α) : Tab.get d (t.put n x) n = x := by
  rw [Tab.get_put, if_pos rfl]

theorem Tab.get_put_other (d : α) (t : Tab α) {n k : Nat} (x : α) (h : k ≠ n) : Tab.get d (t.put n x) k = Tab.get d t k := by
  rw [Tab.get_put, if_neg (Ne.symm h)]

/-- A lookup after a write. -/
theorem Tab.find_put (t : Tab α) (n k : Nat) (x : α) : Tab.find (t.put n x) k = if n = k then some x else Tab.find t k := by
  induction t with
  | nil => simp [Tab.put, Tab.find]
  | cons e t ih =>
    obtain ⟨a, v⟩ := e
    simp only [Tab.put]
    split
    · subst a; simp only [Tab.find]; split <;> rfl
    · split
      · simp only [Tab.find]
      · simp only [Tab.find, ih]; split
        · subst a; rw [if_neg (by omega)]
        · rfl

@[simp] theorem Tab.find_put_same (t : Tab α) (n : Nat) (x : α) : Tab.find (t.put n x) n = some x := by
  rw [Tab.find_put, if_pos rfl]

/-- A lookup after a removal. -/
theorem Tab.find_del (t : Tab α) (n k : Nat) : Tab.find (t.del n) k = if n = k then none else Tab.find t k := by
  induction t with
  | nil => simp [Tab.del, Tab.find]
  | cons e t ih =>
    obtain ⟨a, v⟩ := e
    simp only [Tab.del]
    split
    · rw [ih]; subst a; split
      · rfl
      · rw [Tab.find, if_neg ‹_›]
    · simp only [Tab.find, ih]; split
      · subst a; rw [if_neg (by omega)]
      · rfl

@[simp] theorem Tab.find_del_same (t : Tab α) (n : Nat) : Tab.find (t.del n) n = none := by rw [Tab.find_del, if_pos rfl]

/-- Reading with a default is looking up. -/
theorem Tab.get_eq_find (d : α) (t : Tab α) (n : Nat) : Tab.get d t n = (Tab.find t n).getD d := by
  induction t with
  | nil => rfl
  | cons e t ih => obtain ⟨a, v⟩ := e; simp only [Tab.get, Tab.find, ih]; split <;> rfl

/-- What a table lists is looked up, and conversely. -/
theorem Tab.has_eq_find (t : Tab α) (n : Nat) : Tab.has t n = (Tab.find t n).isSome := by
  induction t with
  | nil => rfl
  | cons e t ih =>
    obtain ⟨a, v⟩ := e
    simp only [Tab.has, Tab.find, ih]
    by_cases h : a = n <;> simp [h]

/-- A table whose entries are all changed. -/
theorem Tab.find_map (f : Nat → α → α) (t : Tab α) (n : Nat) : Tab.find (t.map f) n = (Tab.find t n).map (f n) := by
  induction t with
  | nil => rfl
  | cons e t ih =>
    obtain ⟨a, v⟩ := e
    simp only [Tab.map, Tab.find, ih]
    split
    · subst a; rfl
    · rfl

theorem Tab.foldl_fresh (t : Tab α) (m : Nat) : m ≤ t.foldl (fun m e => max m (e.1 + 1)) m ∧
    ∀ e ∈ t, e.1 < t.foldl (fun m e => max m (e.1 + 1)) m := by
  induction t generalizing m with
  | nil => simp
  | cons e t ih =>
    obtain ⟨h1, h2⟩ := ih (max m (e.1 + 1))
    refine ⟨by simp only [List.foldl_cons]; omega, fun x hx => ?_⟩
    rcases List.mem_cons.1 hx with rfl | hx
    · simp only [List.foldl_cons]; omega
    · exact h2 x hx

theorem Tab.find_none_of (t : Tab α) (n : Nat) (h : ∀ e ∈ t, e.1 ≠ n) : Tab.find t n = none := by
  induction t with
  | nil => rfl
  | cons e t ih =>
    obtain ⟨a, v⟩ := e
    rw [Tab.find, if_neg (show ¬ a = n from h (a, v) (by simp)), ih (fun x hx => h x (by simp [hx]))]

/-- The handle of a new entry is no key. -/
@[simp] theorem Tab.find_fresh (t : Tab α) : Tab.find t t.fresh = none :=
  Tab.find_none_of _ _ (fun e he => Nat.ne_of_lt ((Tab.foldl_fresh t 0).2 e he))

end Sys2Proof
end

