-- ==== Sys2Proof/Laws/State.lean ====
section
/-! SUPPORT. What each update of the state changes and what it leaves: one lemma for each field, so that no proof unfolds
a record update. Here are the updates of courses, teams, grids, contexts, cores, event counters, performance counters and
main memory, and those of a course's slots and registers. -/

namespace Sys2Proof.Machine

variable (s : State) (c : Course)

/-! ## Fields of the state -/

@[simp] theorem setCourse_clock (h : Nat) (x : Course) : (s.setCourse h x).clock = s.clock := rfl
@[simp] theorem setCourse_chip (h : Nat) (x : Course) : (s.setCourse h x).chip = s.chip := rfl
@[simp] theorem setCourse_domain (h : Nat) (x : Course) : (s.setCourse h x).domain = s.domain := rfl
@[simp] theorem setCourse_stamp (h : Nat) (x : Course) : (s.setCourse h x).stamp = s.stamp := rfl
@[simp] theorem setCourse_cur (h : Nat) (x : Course) : (s.setCourse h x).cur = s.cur := rfl
@[simp] theorem setCourse_agenda (h : Nat) (x : Course) : (s.setCourse h x).agenda = s.agenda := rfl
@[simp] theorem setCourse_mem (h : Nat) (x : Course) : (s.setCourse h x).mem = s.mem := rfl
@[simp] theorem setCourse_poison (h : Nat) (x : Course) : (s.setCourse h x).poison = s.poison := rfl
@[simp] theorem setCourse_teams (h : Nat) (x : Course) : (s.setCourse h x).teams = s.teams := rfl
@[simp] theorem setCourse_grids (h : Nat) (x : Course) : (s.setCourse h x).grids = s.grids := rfl
@[simp] theorem setCourse_queues (h : Nat) (x : Course) : (s.setCourse h x).queues = s.queues := rfl
@[simp] theorem setCourse_contexts (h : Nat) (x : Course) : (s.setCourse h x).contexts = s.contexts := rfl
@[simp] theorem setCourse_cores (h : Nat) (x : Course) : (s.setCourse h x).cores = s.cores := rfl
@[simp] theorem setCourse_scratch (h : Nat) (x : Course) : (s.setCourse h x).scratch = s.scratch := rfl
@[simp] theorem setCourse_entries (h : Nat) (x : Course) : (s.setCourse h x).entries = s.entries := rfl
@[simp] theorem setCourse_events (h : Nat) (x : Course) : (s.setCourse h x).events = s.events := rfl
@[simp] theorem setCourse_farLines (h : Nat) (x : Course) : (s.setCourse h x).farLines = s.farLines := rfl
@[simp] theorem setCourse_ingress (h : Nat) (x : Course) : (s.setCourse h x).ingress = s.ingress := rfl
@[simp] theorem setCourse_net (h : Nat) (x : Course) : (s.setCourse h x).net = s.net := rfl
@[simp] theorem setCourse_tokens (h : Nat) (x : Course) : (s.setCourse h x).tokens = s.tokens := rfl
@[simp] theorem setCourse_listNext (h : Nat) (x : Course) : (s.setCourse h x).listNext = s.listNext := rfl
@[simp] theorem setCourse_listSent (h : Nat) (x : Course) : (s.setCourse h x).listSent = s.listSent := rfl
@[simp] theorem setCourse_tldReqs (h : Nat) (x : Course) : (s.setCourse h x).tldReqs = s.tldReqs := rfl
@[simp] theorem setCourse_sliceReqs (h : Nat) (x : Course) : (s.setCourse h x).sliceReqs = s.sliceReqs := rfl
@[simp] theorem setCourse_colls (h : Nat) (x : Course) : (s.setCourse h x).colls = s.colls := rfl
@[simp] theorem setCourse_xsends (h : Nat) (x : Course) : (s.setCourse h x).xsends = s.xsends := rfl
@[simp] theorem setCourse_windows (h : Nat) (x : Course) : (s.setCourse h x).windows = s.windows := rfl
@[simp] theorem setCourse_launches (h : Nat) (x : Course) : (s.setCourse h x).launches = s.launches := rfl
@[simp] theorem setCourse_dbarArrs (h : Nat) (x : Course) : (s.setCourse h x).dbarArrs = s.dbarArrs := rfl
@[simp] theorem setCourse_tlb (h : Nat) (x : Course) : (s.setCourse h x).tlb = s.tlb := rfl
@[simp] theorem setCourse_moved (h : Nat) (x : Course) : (s.setCourse h x).moved = s.moved := rfl
@[simp] theorem setCourse_moves (h : Nat) (x : Course) : (s.setCourse h x).moves = s.moves := rfl
@[simp] theorem setCourse_inbound (h : Nat) (x : Course) : (s.setCourse h x).inbound = s.inbound := rfl
@[simp] theorem setCourse_fenced (h : Nat) (x : Course) : (s.setCourse h x).fenced = s.fenced := rfl
@[simp] theorem setCourse_linksDown (h : Nat) (x : Course) : (s.setCourse h x).linksDown = s.linksDown := rfl
@[simp] theorem setCourse_dieLinksDown (h : Nat) (x : Course) : (s.setCourse h x).dieLinksDown = s.dieLinksDown := rfl
@[simp] theorem setCourse_up (h : Nat) (x : Course) : (s.setCourse h x).up = s.up := rfl
@[simp] theorem setCourse_wiping (h : Nat) (x : Course) : (s.setCourse h x).wiping = s.wiping := rfl
@[simp] theorem setCourse_bootFailed (h : Nat) (x : Course) : (s.setCourse h x).bootFailed = s.bootFailed := rfl
@[simp] theorem setCourse_mgmtOpen (h : Nat) (x : Course) : (s.setCourse h x).mgmtOpen = s.mgmtOpen := rfl
@[simp] theorem setCourse_rxBuffers (h : Nat) (x : Course) : (s.setCourse h x).rxBuffers = s.rxBuffers := rfl
@[simp] theorem setCourse_devSeq (h : Nat) (x : Course) : (s.setCourse h x).devSeq = s.devSeq := rfl
@[simp] theorem setCourse_held (h : Nat) (x : Course) : (s.setCourse h x).held = s.held := rfl
@[simp] theorem setCourse_asks (h : Nat) (x : Course) : (s.setCourse h x).asks = s.asks := rfl
@[simp] theorem setCourse_busy (h : Nat) (x : Course) : (s.setCourse h x).busy = s.busy := rfl
@[simp] theorem setCourse_later (h : Nat) (x : Course) : (s.setCourse h x).later = s.later := rfl
@[simp] theorem setCourse_hostOut (h : Nat) (x : Course) : (s.setCourse h x).hostOut = s.hostOut := rfl
@[simp] theorem setCourse_exported (h : Nat) (x : Course) : (s.setCourse h x).exported = s.exported := rfl
@[simp] theorem setCourse_lifeCycle (h : Nat) (x : Course) : (s.setCourse h x).lifeCycle = s.lifeCycle := rfl
@[simp] theorem setCourse_fuse (h : Nat) (x : Course) : (s.setCourse h x).fuse = s.fuse := rfl
@[simp] theorem setCourse_keySlots (h : Nat) (x : Course) : (s.setCourse h x).keySlots = s.keySlots := rfl
@[simp] theorem setCourse_topKeys (h : Nat) (x : Course) : (s.setCourse h x).topKeys = s.topKeys := rfl
@[simp] theorem setCourse_revoked (h : Nat) (x : Course) : (s.setCourse h x).revoked = s.revoked := rfl
@[simp] theorem setCourse_hssIndex (h : Nat) (x : Course) : (s.setCourse h x).hssIndex = s.hssIndex := rfl
@[simp] theorem setCourse_telemetry (h : Nat) (x : Course) : (s.setCourse h x).telemetry = s.telemetry := rfl
@[simp] theorem setCourse_idle (h : Nat) (x : Course) : (s.setCourse h x).idle = s.idle := rfl
@[simp] theorem setCourse_perf (h : Nat) (x : Course) : (s.setCourse h x).perf = s.perf := rfl
@[simp] theorem setCourse_lastServed (h : Nat) (x : Course) : (s.setCourse h x).lastServed = s.lastServed := rfl

@[simp] theorem onCourse_clock (h : Nat) (f : Course → Course) : (s.onCourse h f).clock = s.clock := rfl
@[simp] theorem onCourse_chip (h : Nat) (f : Course → Course) : (s.onCourse h f).chip = s.chip := rfl
@[simp] theorem onCourse_domain (h : Nat) (f : Course → Course) : (s.onCourse h f).domain = s.domain := rfl
@[simp] theorem onCourse_stamp (h : Nat) (f : Course → Course) : (s.onCourse h f).stamp = s.stamp := rfl
@[simp] theorem onCourse_cur (h : Nat) (f : Course → Course) : (s.onCourse h f).cur = s.cur := rfl
@[simp] theorem onCourse_agenda (h : Nat) (f : Course → Course) : (s.onCourse h f).agenda = s.agenda := rfl
@[simp] theorem onCourse_mem (h : Nat) (f : Course → Course) : (s.onCourse h f).mem = s.mem := rfl
@[simp] theorem onCourse_poison (h : Nat) (f : Course → Course) : (s.onCourse h f).poison = s.poison := rfl
@[simp] theorem onCourse_teams (h : Nat) (f : Course → Course) : (s.onCourse h f).teams = s.teams := rfl
@[simp] theorem onCourse_grids (h : Nat) (f : Course → Course) : (s.onCourse h f).grids = s.grids := rfl
@[simp] theorem onCourse_queues (h : Nat) (f : Course → Course) : (s.onCourse h f).queues = s.queues := rfl
@[simp] theorem onCourse_contexts (h : Nat) (f : Course → Course) : (s.onCourse h f).contexts = s.contexts := rfl
@[simp] theorem onCourse_cores (h : Nat) (f : Course → Course) : (s.onCourse h f).cores = s.cores := rfl
@[simp] theorem onCourse_scratch (h : Nat) (f : Course → Course) : (s.onCourse h f).scratch = s.scratch := rfl
@[simp] theorem onCourse_entries (h : Nat) (f : Course → Course) : (s.onCourse h f).entries = s.entries := rfl
@[simp] theorem onCourse_events (h : Nat) (f : Course → Course) : (s.onCourse h f).events = s.events := rfl
@[simp] theorem onCourse_farLines (h : Nat) (f : Course → Course) : (s.onCourse h f).farLines = s.farLines := rfl
@[simp] theorem onCourse_ingress (h : Nat) (f : Course → Course) : (s.onCourse h f).ingress = s.ingress := rfl
@[simp] theorem onCourse_net (h : Nat) (f : Course → Course) : (s.onCourse h f).net = s.net := rfl
@[simp] theorem onCourse_tokens (h : Nat) (f : Course → Course) : (s.onCourse h f).tokens = s.tokens := rfl
@[simp] theorem onCourse_listNext (h : Nat) (f : Course → Course) : (s.onCourse h f).listNext = s.listNext := rfl
@[simp] theorem onCourse_listSent (h : Nat) (f : Course → Course) : (s.onCourse h f).listSent = s.listSent := rfl
@[simp] theorem onCourse_tldReqs (h : Nat) (f : Course → Course) : (s.onCourse h f).tldReqs = s.tldReqs := rfl
@[simp] theorem onCourse_sliceReqs (h : Nat) (f : Course → Course) : (s.onCourse h f).sliceReqs = s.sliceReqs := rfl
@[simp] theorem onCourse_colls (h : Nat) (f : Course → Course) : (s.onCourse h f).colls = s.colls := rfl
@[simp] theorem onCourse_xsends (h : Nat) (f : Course → Course) : (s.onCourse h f).xsends = s.xsends := rfl
@[simp] theorem onCourse_windows (h : Nat) (f : Course → Course) : (s.onCourse h f).windows = s.windows := rfl
@[simp] theorem onCourse_launches (h : Nat) (f : Course → Course) : (s.onCourse h f).launches = s.launches := rfl
@[simp] theorem onCourse_dbarArrs (h : Nat) (f : Course → Course) : (s.onCourse h f).dbarArrs = s.dbarArrs := rfl
@[simp] theorem onCourse_tlb (h : Nat) (f : Course → Course) : (s.onCourse h f).tlb = s.tlb := rfl
@[simp] theorem onCourse_moved (h : Nat) (f : Course → Course) : (s.onCourse h f).moved = s.moved := rfl
@[simp] theorem onCourse_moves (h : Nat) (f : Course → Course) : (s.onCourse h f).moves = s.moves := rfl
@[simp] theorem onCourse_inbound (h : Nat) (f : Course → Course) : (s.onCourse h f).inbound = s.inbound := rfl
@[simp] theorem onCourse_fenced (h : Nat) (f : Course → Course) : (s.onCourse h f).fenced = s.fenced := rfl
@[simp] theorem onCourse_linksDown (h : Nat) (f : Course → Course) : (s.onCourse h f).linksDown = s.linksDown := rfl
@[simp] theorem onCourse_dieLinksDown (h : Nat) (f : Course → Course) : (s.onCourse h f).dieLinksDown = s.dieLinksDown := rfl
@[simp] theorem onCourse_up (h : Nat) (f : Course → Course) : (s.onCourse h f).up = s.up := rfl
@[simp] theorem onCourse_wiping (h : Nat) (f : Course → Course) : (s.onCourse h f).wiping = s.wiping := rfl
@[simp] theorem onCourse_bootFailed (h : Nat) (f : Course → Course) : (s.onCourse h f).bootFailed = s.bootFailed := rfl
@[simp] theorem onCourse_mgmtOpen (h : Nat) (f : Course → Course) : (s.onCourse h f).mgmtOpen = s.mgmtOpen := rfl
@[simp] theorem onCourse_rxBuffers (h : Nat) (f : Course → Course) : (s.onCourse h f).rxBuffers = s.rxBuffers := rfl
@[simp] theorem onCourse_devSeq (h : Nat) (f : Course → Course) : (s.onCourse h f).devSeq = s.devSeq := rfl
@[simp] theorem onCourse_held (h : Nat) (f : Course → Course) : (s.onCourse h f).held = s.held := rfl
@[simp] theorem onCourse_asks (h : Nat) (f : Course → Course) : (s.onCourse h f).asks = s.asks := rfl
@[simp] theorem onCourse_busy (h : Nat) (f : Course → Course) : (s.onCourse h f).busy = s.busy := rfl
@[simp] theorem onCourse_later (h : Nat) (f : Course → Course) : (s.onCourse h f).later = s.later := rfl
@[simp] theorem onCourse_hostOut (h : Nat) (f : Course → Course) : (s.onCourse h f).hostOut = s.hostOut := rfl
@[simp] theorem onCourse_exported (h : Nat) (f : Course → Course) : (s.onCourse h f).exported = s.exported := rfl
@[simp] theorem onCourse_lifeCycle (h : Nat) (f : Course → Course) : (s.onCourse h f).lifeCycle = s.lifeCycle := rfl
@[simp] theorem onCourse_fuse (h : Nat) (f : Course → Course) : (s.onCourse h f).fuse = s.fuse := rfl
@[simp] theorem onCourse_keySlots (h : Nat) (f : Course → Course) : (s.onCourse h f).keySlots = s.keySlots := rfl
@[simp] theorem onCourse_topKeys (h : Nat) (f : Course → Course) : (s.onCourse h f).topKeys = s.topKeys := rfl
@[simp] theorem onCourse_revoked (h : Nat) (f : Course → Course) : (s.onCourse h f).revoked = s.revoked := rfl
@[simp] theorem onCourse_hssIndex (h : Nat) (f : Course → Course) : (s.onCourse h f).hssIndex = s.hssIndex := rfl
@[simp] theorem onCourse_telemetry (h : Nat) (f : Course → Course) : (s.onCourse h f).telemetry = s.telemetry := rfl
@[simp] theorem onCourse_idle (h : Nat) (f : Course → Course) : (s.onCourse h f).idle = s.idle := rfl
@[simp] theorem onCourse_perf (h : Nat) (f : Course → Course) : (s.onCourse h f).perf = s.perf := rfl
@[simp] theorem onCourse_lastServed (h : Nat) (f : Course → Course) : (s.onCourse h f).lastServed = s.lastServed := rfl

@[simp] theorem setTeam_clock (h : Nat) (x : Team) : (s.setTeam h x).clock = s.clock := rfl
@[simp] theorem setTeam_chip (h : Nat) (x : Team) : (s.setTeam h x).chip = s.chip := rfl
@[simp] theorem setTeam_domain (h : Nat) (x : Team) : (s.setTeam h x).domain = s.domain := rfl
@[simp] theorem setTeam_stamp (h : Nat) (x : Team) : (s.setTeam h x).stamp = s.stamp := rfl
@[simp] theorem setTeam_cur (h : Nat) (x : Team) : (s.setTeam h x).cur = s.cur := rfl
@[simp] theorem setTeam_agenda (h : Nat) (x : Team) : (s.setTeam h x).agenda = s.agenda := rfl
@[simp] theorem setTeam_mem (h : Nat) (x : Team) : (s.setTeam h x).mem = s.mem := rfl
@[simp] theorem setTeam_poison (h : Nat) (x : Team) : (s.setTeam h x).poison = s.poison := rfl
@[simp] theorem setTeam_courses (h : Nat) (x : Team) : (s.setTeam h x).courses = s.courses := rfl
@[simp] theorem setTeam_grids (h : Nat) (x : Team) : (s.setTeam h x).grids = s.grids := rfl
@[simp] theorem setTeam_queues (h : Nat) (x : Team) : (s.setTeam h x).queues = s.queues := rfl
@[simp] theorem setTeam_contexts (h : Nat) (x : Team) : (s.setTeam h x).contexts = s.contexts := rfl
@[simp] theorem setTeam_cores (h : Nat) (x : Team) : (s.setTeam h x).cores = s.cores := rfl
@[simp] theorem setTeam_scratch (h : Nat) (x : Team) : (s.setTeam h x).scratch = s.scratch := rfl
@[simp] theorem setTeam_entries (h : Nat) (x : Team) : (s.setTeam h x).entries = s.entries := rfl
@[simp] theorem setTeam_events (h : Nat) (x : Team) : (s.setTeam h x).events = s.events := rfl
@[simp] theorem setTeam_farLines (h : Nat) (x : Team) : (s.setTeam h x).farLines = s.farLines := rfl
@[simp] theorem setTeam_ingress (h : Nat) (x : Team) : (s.setTeam h x).ingress = s.ingress := rfl
@[simp] theorem setTeam_net (h : Nat) (x : Team) : (s.setTeam h x).net = s.net := rfl
@[simp] theorem setTeam_tokens (h : Nat) (x : Team) : (s.setTeam h x).tokens = s.tokens := rfl
@[simp] theorem setTeam_listNext (h : Nat) (x : Team) : (s.setTeam h x).listNext = s.listNext := rfl
@[simp] theorem setTeam_listSent (h : Nat) (x : Team) : (s.setTeam h x).listSent = s.listSent := rfl
@[simp] theorem setTeam_tldReqs (h : Nat) (x : Team) : (s.setTeam h x).tldReqs = s.tldReqs := rfl
@[simp] theorem setTeam_sliceReqs (h : Nat) (x : Team) : (s.setTeam h x).sliceReqs = s.sliceReqs := rfl
@[simp] theorem setTeam_colls (h : Nat) (x : Team) : (s.setTeam h x).colls = s.colls := rfl
@[simp] theorem setTeam_xsends (h : Nat) (x : Team) : (s.setTeam h x).xsends = s.xsends := rfl
@[simp] theorem setTeam_windows (h : Nat) (x : Team) : (s.setTeam h x).windows = s.windows := rfl
@[simp] theorem setTeam_launches (h : Nat) (x : Team) : (s.setTeam h x).launches = s.launches := rfl
@[simp] theorem setTeam_dbarArrs (h : Nat) (x : Team) : (s.setTeam h x).dbarArrs = s.dbarArrs := rfl
@[simp] theorem setTeam_tlb (h : Nat) (x : Team) : (s.setTeam h x).tlb = s.tlb := rfl
@[simp] theorem setTeam_moved (h : Nat) (x : Team) : (s.setTeam h x).moved = s.moved := rfl
@[simp] theorem setTeam_moves (h : Nat) (x : Team) : (s.setTeam h x).moves = s.moves := rfl
@[simp] theorem setTeam_inbound (h : Nat) (x : Team) : (s.setTeam h x).inbound = s.inbound := rfl
@[simp] theorem setTeam_fenced (h : Nat) (x : Team) : (s.setTeam h x).fenced = s.fenced := rfl
@[simp] theorem setTeam_linksDown (h : Nat) (x : Team) : (s.setTeam h x).linksDown = s.linksDown := rfl
@[simp] theorem setTeam_dieLinksDown (h : Nat) (x : Team) : (s.setTeam h x).dieLinksDown = s.dieLinksDown := rfl
@[simp] theorem setTeam_up (h : Nat) (x : Team) : (s.setTeam h x).up = s.up := rfl
@[simp] theorem setTeam_wiping (h : Nat) (x : Team) : (s.setTeam h x).wiping = s.wiping := rfl
@[simp] theorem setTeam_bootFailed (h : Nat) (x : Team) : (s.setTeam h x).bootFailed = s.bootFailed := rfl
@[simp] theorem setTeam_mgmtOpen (h : Nat) (x : Team) : (s.setTeam h x).mgmtOpen = s.mgmtOpen := rfl
@[simp] theorem setTeam_rxBuffers (h : Nat) (x : Team) : (s.setTeam h x).rxBuffers = s.rxBuffers := rfl
@[simp] theorem setTeam_devSeq (h : Nat) (x : Team) : (s.setTeam h x).devSeq = s.devSeq := rfl
@[simp] theorem setTeam_held (h : Nat) (x : Team) : (s.setTeam h x).held = s.held := rfl
@[simp] theorem setTeam_asks (h : Nat) (x : Team) : (s.setTeam h x).asks = s.asks := rfl
@[simp] theorem setTeam_busy (h : Nat) (x : Team) : (s.setTeam h x).busy = s.busy := rfl
@[simp] theorem setTeam_later (h : Nat) (x : Team) : (s.setTeam h x).later = s.later := rfl
@[simp] theorem setTeam_hostOut (h : Nat) (x : Team) : (s.setTeam h x).hostOut = s.hostOut := rfl
@[simp] theorem setTeam_exported (h : Nat) (x : Team) : (s.setTeam h x).exported = s.exported := rfl
@[simp] theorem setTeam_lifeCycle (h : Nat) (x : Team) : (s.setTeam h x).lifeCycle = s.lifeCycle := rfl
@[simp] theorem setTeam_fuse (h : Nat) (x : Team) : (s.setTeam h x).fuse = s.fuse := rfl
@[simp] theorem setTeam_keySlots (h : Nat) (x : Team) : (s.setTeam h x).keySlots = s.keySlots := rfl
@[simp] theorem setTeam_topKeys (h : Nat) (x : Team) : (s.setTeam h x).topKeys = s.topKeys := rfl
@[simp] theorem setTeam_revoked (h : Nat) (x : Team) : (s.setTeam h x).revoked = s.revoked := rfl
@[simp] theorem setTeam_hssIndex (h : Nat) (x : Team) : (s.setTeam h x).hssIndex = s.hssIndex := rfl
@[simp] theorem setTeam_telemetry (h : Nat) (x : Team) : (s.setTeam h x).telemetry = s.telemetry := rfl
@[simp] theorem setTeam_idle (h : Nat) (x : Team) : (s.setTeam h x).idle = s.idle := rfl
@[simp] theorem setTeam_perf (h : Nat) (x : Team) : (s.setTeam h x).perf = s.perf := rfl
@[simp] theorem setTeam_lastServed (h : Nat) (x : Team) : (s.setTeam h x).lastServed = s.lastServed := rfl

@[simp] theorem onTeam_clock (h : Nat) (f : Team → Team) : (s.onTeam h f).clock = s.clock := rfl
@[simp] theorem onTeam_chip (h : Nat) (f : Team → Team) : (s.onTeam h f).chip = s.chip := rfl
@[simp] theorem onTeam_domain (h : Nat) (f : Team → Team) : (s.onTeam h f).domain = s.domain := rfl
@[simp] theorem onTeam_stamp (h : Nat) (f : Team → Team) : (s.onTeam h f).stamp = s.stamp := rfl
@[simp] theorem onTeam_cur (h : Nat) (f : Team → Team) : (s.onTeam h f).cur = s.cur := rfl
@[simp] theorem onTeam_agenda (h : Nat) (f : Team → Team) : (s.onTeam h f).agenda = s.agenda := rfl
@[simp] theorem onTeam_mem (h : Nat) (f : Team → Team) : (s.onTeam h f).mem = s.mem := rfl
@[simp] theorem onTeam_poison (h : Nat) (f : Team → Team) : (s.onTeam h f).poison = s.poison := rfl
@[simp] theorem onTeam_courses (h : Nat) (f : Team → Team) : (s.onTeam h f).courses = s.courses := rfl
@[simp] theorem onTeam_grids (h : Nat) (f : Team → Team) : (s.onTeam h f).grids = s.grids := rfl
@[simp] theorem onTeam_queues (h : Nat) (f : Team → Team) : (s.onTeam h f).queues = s.queues := rfl
@[simp] theorem onTeam_contexts (h : Nat) (f : Team → Team) : (s.onTeam h f).contexts = s.contexts := rfl
@[simp] theorem onTeam_cores (h : Nat) (f : Team → Team) : (s.onTeam h f).cores = s.cores := rfl
@[simp] theorem onTeam_scratch (h : Nat) (f : Team → Team) : (s.onTeam h f).scratch = s.scratch := rfl
@[simp] theorem onTeam_entries (h : Nat) (f : Team → Team) : (s.onTeam h f).entries = s.entries := rfl
@[simp] theorem onTeam_events (h : Nat) (f : Team → Team) : (s.onTeam h f).events = s.events := rfl
@[simp] theorem onTeam_farLines (h : Nat) (f : Team → Team) : (s.onTeam h f).farLines = s.farLines := rfl
@[simp] theorem onTeam_ingress (h : Nat) (f : Team → Team) : (s.onTeam h f).ingress = s.ingress := rfl
@[simp] theorem onTeam_net (h : Nat) (f : Team → Team) : (s.onTeam h f).net = s.net := rfl
@[simp] theorem onTeam_tokens (h : Nat) (f : Team → Team) : (s.onTeam h f).tokens = s.tokens := rfl
@[simp] theorem onTeam_listNext (h : Nat) (f : Team → Team) : (s.onTeam h f).listNext = s.listNext := rfl
@[simp] theorem onTeam_listSent (h : Nat) (f : Team → Team) : (s.onTeam h f).listSent = s.listSent := rfl
@[simp] theorem onTeam_tldReqs (h : Nat) (f : Team → Team) : (s.onTeam h f).tldReqs = s.tldReqs := rfl
@[simp] theorem onTeam_sliceReqs (h : Nat) (f : Team → Team) : (s.onTeam h f).sliceReqs = s.sliceReqs := rfl
@[simp] theorem onTeam_colls (h : Nat) (f : Team → Team) : (s.onTeam h f).colls = s.colls := rfl
@[simp] theorem onTeam_xsends (h : Nat) (f : Team → Team) : (s.onTeam h f).xsends = s.xsends := rfl
@[simp] theorem onTeam_windows (h : Nat) (f : Team → Team) : (s.onTeam h f).windows = s.windows := rfl
@[simp] theorem onTeam_launches (h : Nat) (f : Team → Team) : (s.onTeam h f).launches = s.launches := rfl
@[simp] theorem onTeam_dbarArrs (h : Nat) (f : Team → Team) : (s.onTeam h f).dbarArrs = s.dbarArrs := rfl
@[simp] theorem onTeam_tlb (h : Nat) (f : Team → Team) : (s.onTeam h f).tlb = s.tlb := rfl
@[simp] theorem onTeam_moved (h : Nat) (f : Team → Team) : (s.onTeam h f).moved = s.moved := rfl
@[simp] theorem onTeam_moves (h : Nat) (f : Team → Team) : (s.onTeam h f).moves = s.moves := rfl
@[simp] theorem onTeam_inbound (h : Nat) (f : Team → Team) : (s.onTeam h f).inbound = s.inbound := rfl
@[simp] theorem onTeam_fenced (h : Nat) (f : Team → Team) : (s.onTeam h f).fenced = s.fenced := rfl
@[simp] theorem onTeam_linksDown (h : Nat) (f : Team → Team) : (s.onTeam h f).linksDown = s.linksDown := rfl
@[simp] theorem onTeam_dieLinksDown (h : Nat) (f : Team → Team) : (s.onTeam h f).dieLinksDown = s.dieLinksDown := rfl
@[simp] theorem onTeam_up (h : Nat) (f : Team → Team) : (s.onTeam h f).up = s.up := rfl
@[simp] theorem onTeam_wiping (h : Nat) (f : Team → Team) : (s.onTeam h f).wiping = s.wiping := rfl
@[simp] theorem onTeam_bootFailed (h : Nat) (f : Team → Team) : (s.onTeam h f).bootFailed = s.bootFailed := rfl
@[simp] theorem onTeam_mgmtOpen (h : Nat) (f : Team → Team) : (s.onTeam h f).mgmtOpen = s.mgmtOpen := rfl
@[simp] theorem onTeam_rxBuffers (h : Nat) (f : Team → Team) : (s.onTeam h f).rxBuffers = s.rxBuffers := rfl
@[simp] theorem onTeam_devSeq (h : Nat) (f : Team → Team) : (s.onTeam h f).devSeq = s.devSeq := rfl
@[simp] theorem onTeam_held (h : Nat) (f : Team → Team) : (s.onTeam h f).held = s.held := rfl
@[simp] theorem onTeam_asks (h : Nat) (f : Team → Team) : (s.onTeam h f).asks = s.asks := rfl
@[simp] theorem onTeam_busy (h : Nat) (f : Team → Team) : (s.onTeam h f).busy = s.busy := rfl
@[simp] theorem onTeam_later (h : Nat) (f : Team → Team) : (s.onTeam h f).later = s.later := rfl
@[simp] theorem onTeam_hostOut (h : Nat) (f : Team → Team) : (s.onTeam h f).hostOut = s.hostOut := rfl
@[simp] theorem onTeam_exported (h : Nat) (f : Team → Team) : (s.onTeam h f).exported = s.exported := rfl
@[simp] theorem onTeam_lifeCycle (h : Nat) (f : Team → Team) : (s.onTeam h f).lifeCycle = s.lifeCycle := rfl
@[simp] theorem onTeam_fuse (h : Nat) (f : Team → Team) : (s.onTeam h f).fuse = s.fuse := rfl
@[simp] theorem onTeam_keySlots (h : Nat) (f : Team → Team) : (s.onTeam h f).keySlots = s.keySlots := rfl
@[simp] theorem onTeam_topKeys (h : Nat) (f : Team → Team) : (s.onTeam h f).topKeys = s.topKeys := rfl
@[simp] theorem onTeam_revoked (h : Nat) (f : Team → Team) : (s.onTeam h f).revoked = s.revoked := rfl
@[simp] theorem onTeam_hssIndex (h : Nat) (f : Team → Team) : (s.onTeam h f).hssIndex = s.hssIndex := rfl
@[simp] theorem onTeam_telemetry (h : Nat) (f : Team → Team) : (s.onTeam h f).telemetry = s.telemetry := rfl
@[simp] theorem onTeam_idle (h : Nat) (f : Team → Team) : (s.onTeam h f).idle = s.idle := rfl
@[simp] theorem onTeam_perf (h : Nat) (f : Team → Team) : (s.onTeam h f).perf = s.perf := rfl
@[simp] theorem onTeam_lastServed (h : Nat) (f : Team → Team) : (s.onTeam h f).lastServed = s.lastServed := rfl

@[simp] theorem setGrid_clock (h : Nat) (x : Grid) : (s.setGrid h x).clock = s.clock := rfl
@[simp] theorem setGrid_chip (h : Nat) (x : Grid) : (s.setGrid h x).chip = s.chip := rfl
@[simp] theorem setGrid_domain (h : Nat) (x : Grid) : (s.setGrid h x).domain = s.domain := rfl
@[simp] theorem setGrid_stamp (h : Nat) (x : Grid) : (s.setGrid h x).stamp = s.stamp := rfl
@[simp] theorem setGrid_cur (h : Nat) (x : Grid) : (s.setGrid h x).cur = s.cur := rfl
@[simp] theorem setGrid_agenda (h : Nat) (x : Grid) : (s.setGrid h x).agenda = s.agenda := rfl
@[simp] theorem setGrid_mem (h : Nat) (x : Grid) : (s.setGrid h x).mem = s.mem := rfl
@[simp] theorem setGrid_poison (h : Nat) (x : Grid) : (s.setGrid h x).poison = s.poison := rfl
@[simp] theorem setGrid_courses (h : Nat) (x : Grid) : (s.setGrid h x).courses = s.courses := rfl
@[simp] theorem setGrid_teams (h : Nat) (x : Grid) : (s.setGrid h x).teams = s.teams := rfl
@[simp] theorem setGrid_queues (h : Nat) (x : Grid) : (s.setGrid h x).queues = s.queues := rfl
@[simp] theorem setGrid_contexts (h : Nat) (x : Grid) : (s.setGrid h x).contexts = s.contexts := rfl
@[simp] theorem setGrid_cores (h : Nat) (x : Grid) : (s.setGrid h x).cores = s.cores := rfl
@[simp] theorem setGrid_scratch (h : Nat) (x : Grid) : (s.setGrid h x).scratch = s.scratch := rfl
@[simp] theorem setGrid_entries (h : Nat) (x : Grid) : (s.setGrid h x).entries = s.entries := rfl
@[simp] theorem setGrid_events (h : Nat) (x : Grid) : (s.setGrid h x).events = s.events := rfl
@[simp] theorem setGrid_farLines (h : Nat) (x : Grid) : (s.setGrid h x).farLines = s.farLines := rfl
@[simp] theorem setGrid_ingress (h : Nat) (x : Grid) : (s.setGrid h x).ingress = s.ingress := rfl
@[simp] theorem setGrid_net (h : Nat) (x : Grid) : (s.setGrid h x).net = s.net := rfl
@[simp] theorem setGrid_tokens (h : Nat) (x : Grid) : (s.setGrid h x).tokens = s.tokens := rfl
@[simp] theorem setGrid_listNext (h : Nat) (x : Grid) : (s.setGrid h x).listNext = s.listNext := rfl
@[simp] theorem setGrid_listSent (h : Nat) (x : Grid) : (s.setGrid h x).listSent = s.listSent := rfl
@[simp] theorem setGrid_tldReqs (h : Nat) (x : Grid) : (s.setGrid h x).tldReqs = s.tldReqs := rfl
@[simp] theorem setGrid_sliceReqs (h : Nat) (x : Grid) : (s.setGrid h x).sliceReqs = s.sliceReqs := rfl
@[simp] theorem setGrid_colls (h : Nat) (x : Grid) : (s.setGrid h x).colls = s.colls := rfl
@[simp] theorem setGrid_xsends (h : Nat) (x : Grid) : (s.setGrid h x).xsends = s.xsends := rfl
@[simp] theorem setGrid_windows (h : Nat) (x : Grid) : (s.setGrid h x).windows = s.windows := rfl
@[simp] theorem setGrid_launches (h : Nat) (x : Grid) : (s.setGrid h x).launches = s.launches := rfl
@[simp] theorem setGrid_dbarArrs (h : Nat) (x : Grid) : (s.setGrid h x).dbarArrs = s.dbarArrs := rfl
@[simp] theorem setGrid_tlb (h : Nat) (x : Grid) : (s.setGrid h x).tlb = s.tlb := rfl
@[simp] theorem setGrid_moved (h : Nat) (x : Grid) : (s.setGrid h x).moved = s.moved := rfl
@[simp] theorem setGrid_moves (h : Nat) (x : Grid) : (s.setGrid h x).moves = s.moves := rfl
@[simp] theorem setGrid_inbound (h : Nat) (x : Grid) : (s.setGrid h x).inbound = s.inbound := rfl
@[simp] theorem setGrid_fenced (h : Nat) (x : Grid) : (s.setGrid h x).fenced = s.fenced := rfl
@[simp] theorem setGrid_linksDown (h : Nat) (x : Grid) : (s.setGrid h x).linksDown = s.linksDown := rfl
@[simp] theorem setGrid_dieLinksDown (h : Nat) (x : Grid) : (s.setGrid h x).dieLinksDown = s.dieLinksDown := rfl
@[simp] theorem setGrid_up (h : Nat) (x : Grid) : (s.setGrid h x).up = s.up := rfl
@[simp] theorem setGrid_wiping (h : Nat) (x : Grid) : (s.setGrid h x).wiping = s.wiping := rfl
@[simp] theorem setGrid_bootFailed (h : Nat) (x : Grid) : (s.setGrid h x).bootFailed = s.bootFailed := rfl
@[simp] theorem setGrid_mgmtOpen (h : Nat) (x : Grid) : (s.setGrid h x).mgmtOpen = s.mgmtOpen := rfl
@[simp] theorem setGrid_rxBuffers (h : Nat) (x : Grid) : (s.setGrid h x).rxBuffers = s.rxBuffers := rfl
@[simp] theorem setGrid_devSeq (h : Nat) (x : Grid) : (s.setGrid h x).devSeq = s.devSeq := rfl
@[simp] theorem setGrid_held (h : Nat) (x : Grid) : (s.setGrid h x).held = s.held := rfl
@[simp] theorem setGrid_asks (h : Nat) (x : Grid) : (s.setGrid h x).asks = s.asks := rfl
@[simp] theorem setGrid_busy (h : Nat) (x : Grid) : (s.setGrid h x).busy = s.busy := rfl
@[simp] theorem setGrid_later (h : Nat) (x : Grid) : (s.setGrid h x).later = s.later := rfl
@[simp] theorem setGrid_hostOut (h : Nat) (x : Grid) : (s.setGrid h x).hostOut = s.hostOut := rfl
@[simp] theorem setGrid_exported (h : Nat) (x : Grid) : (s.setGrid h x).exported = s.exported := rfl
@[simp] theorem setGrid_lifeCycle (h : Nat) (x : Grid) : (s.setGrid h x).lifeCycle = s.lifeCycle := rfl
@[simp] theorem setGrid_fuse (h : Nat) (x : Grid) : (s.setGrid h x).fuse = s.fuse := rfl
@[simp] theorem setGrid_keySlots (h : Nat) (x : Grid) : (s.setGrid h x).keySlots = s.keySlots := rfl
@[simp] theorem setGrid_topKeys (h : Nat) (x : Grid) : (s.setGrid h x).topKeys = s.topKeys := rfl
@[simp] theorem setGrid_revoked (h : Nat) (x : Grid) : (s.setGrid h x).revoked = s.revoked := rfl
@[simp] theorem setGrid_hssIndex (h : Nat) (x : Grid) : (s.setGrid h x).hssIndex = s.hssIndex := rfl
@[simp] theorem setGrid_telemetry (h : Nat) (x : Grid) : (s.setGrid h x).telemetry = s.telemetry := rfl
@[simp] theorem setGrid_idle (h : Nat) (x : Grid) : (s.setGrid h x).idle = s.idle := rfl
@[simp] theorem setGrid_perf (h : Nat) (x : Grid) : (s.setGrid h x).perf = s.perf := rfl
@[simp] theorem setGrid_lastServed (h : Nat) (x : Grid) : (s.setGrid h x).lastServed = s.lastServed := rfl

@[simp] theorem setContext_clock (h : Nat) (x : Context) : (s.setContext h x).clock = s.clock := rfl
@[simp] theorem setContext_chip (h : Nat) (x : Context) : (s.setContext h x).chip = s.chip := rfl
@[simp] theorem setContext_domain (h : Nat) (x : Context) : (s.setContext h x).domain = s.domain := rfl
@[simp] theorem setContext_stamp (h : Nat) (x : Context) : (s.setContext h x).stamp = s.stamp := rfl
@[simp] theorem setContext_cur (h : Nat) (x : Context) : (s.setContext h x).cur = s.cur := rfl
@[simp] theorem setContext_agenda (h : Nat) (x : Context) : (s.setContext h x).agenda = s.agenda := rfl
@[simp] theorem setContext_mem (h : Nat) (x : Context) : (s.setContext h x).mem = s.mem := rfl
@[simp] theorem setContext_poison (h : Nat) (x : Context) : (s.setContext h x).poison = s.poison := rfl
@[simp] theorem setContext_courses (h : Nat) (x : Context) : (s.setContext h x).courses = s.courses := rfl
@[simp] theorem setContext_teams (h : Nat) (x : Context) : (s.setContext h x).teams = s.teams := rfl
@[simp] theorem setContext_grids (h : Nat) (x : Context) : (s.setContext h x).grids = s.grids := rfl
@[simp] theorem setContext_queues (h : Nat) (x : Context) : (s.setContext h x).queues = s.queues := rfl
@[simp] theorem setContext_cores (h : Nat) (x : Context) : (s.setContext h x).cores = s.cores := rfl
@[simp] theorem setContext_scratch (h : Nat) (x : Context) : (s.setContext h x).scratch = s.scratch := rfl
@[simp] theorem setContext_entries (h : Nat) (x : Context) : (s.setContext h x).entries = s.entries := rfl
@[simp] theorem setContext_events (h : Nat) (x : Context) : (s.setContext h x).events = s.events := rfl
@[simp] theorem setContext_farLines (h : Nat) (x : Context) : (s.setContext h x).farLines = s.farLines := rfl
@[simp] theorem setContext_ingress (h : Nat) (x : Context) : (s.setContext h x).ingress = s.ingress := rfl
@[simp] theorem setContext_net (h : Nat) (x : Context) : (s.setContext h x).net = s.net := rfl
@[simp] theorem setContext_tokens (h : Nat) (x : Context) : (s.setContext h x).tokens = s.tokens := rfl
@[simp] theorem setContext_listNext (h : Nat) (x : Context) : (s.setContext h x).listNext = s.listNext := rfl
@[simp] theorem setContext_listSent (h : Nat) (x : Context) : (s.setContext h x).listSent = s.listSent := rfl
@[simp] theorem setContext_tldReqs (h : Nat) (x : Context) : (s.setContext h x).tldReqs = s.tldReqs := rfl
@[simp] theorem setContext_sliceReqs (h : Nat) (x : Context) : (s.setContext h x).sliceReqs = s.sliceReqs := rfl
@[simp] theorem setContext_colls (h : Nat) (x : Context) : (s.setContext h x).colls = s.colls := rfl
@[simp] theorem setContext_xsends (h : Nat) (x : Context) : (s.setContext h x).xsends = s.xsends := rfl
@[simp] theorem setContext_windows (h : Nat) (x : Context) : (s.setContext h x).windows = s.windows := rfl
@[simp] theorem setContext_launches (h : Nat) (x : Context) : (s.setContext h x).launches = s.launches := rfl
@[simp] theorem setContext_dbarArrs (h : Nat) (x : Context) : (s.setContext h x).dbarArrs = s.dbarArrs := rfl
@[simp] theorem setContext_tlb (h : Nat) (x : Context) : (s.setContext h x).tlb = s.tlb := rfl
@[simp] theorem setContext_moved (h : Nat) (x : Context) : (s.setContext h x).moved = s.moved := rfl
@[simp] theorem setContext_moves (h : Nat) (x : Context) : (s.setContext h x).moves = s.moves := rfl
@[simp] theorem setContext_inbound (h : Nat) (x : Context) : (s.setContext h x).inbound = s.inbound := rfl
@[simp] theorem setContext_fenced (h : Nat) (x : Context) : (s.setContext h x).fenced = s.fenced := rfl
@[simp] theorem setContext_linksDown (h : Nat) (x : Context) : (s.setContext h x).linksDown = s.linksDown := rfl
@[simp] theorem setContext_dieLinksDown (h : Nat) (x : Context) : (s.setContext h x).dieLinksDown = s.dieLinksDown := rfl
@[simp] theorem setContext_up (h : Nat) (x : Context) : (s.setContext h x).up = s.up := rfl
@[simp] theorem setContext_wiping (h : Nat) (x : Context) : (s.setContext h x).wiping = s.wiping := rfl
@[simp] theorem setContext_bootFailed (h : Nat) (x : Context) : (s.setContext h x).bootFailed = s.bootFailed := rfl
@[simp] theorem setContext_mgmtOpen (h : Nat) (x : Context) : (s.setContext h x).mgmtOpen = s.mgmtOpen := rfl
@[simp] theorem setContext_rxBuffers (h : Nat) (x : Context) : (s.setContext h x).rxBuffers = s.rxBuffers := rfl
@[simp] theorem setContext_devSeq (h : Nat) (x : Context) : (s.setContext h x).devSeq = s.devSeq := rfl
@[simp] theorem setContext_held (h : Nat) (x : Context) : (s.setContext h x).held = s.held := rfl
@[simp] theorem setContext_asks (h : Nat) (x : Context) : (s.setContext h x).asks = s.asks := rfl
@[simp] theorem setContext_busy (h : Nat) (x : Context) : (s.setContext h x).busy = s.busy := rfl
@[simp] theorem setContext_later (h : Nat) (x : Context) : (s.setContext h x).later = s.later := rfl
@[simp] theorem setContext_hostOut (h : Nat) (x : Context) : (s.setContext h x).hostOut = s.hostOut := rfl
@[simp] theorem setContext_exported (h : Nat) (x : Context) : (s.setContext h x).exported = s.exported := rfl
@[simp] theorem setContext_lifeCycle (h : Nat) (x : Context) : (s.setContext h x).lifeCycle = s.lifeCycle := rfl
@[simp] theorem setContext_fuse (h : Nat) (x : Context) : (s.setContext h x).fuse = s.fuse := rfl
@[simp] theorem setContext_keySlots (h : Nat) (x : Context) : (s.setContext h x).keySlots = s.keySlots := rfl
@[simp] theorem setContext_topKeys (h : Nat) (x : Context) : (s.setContext h x).topKeys = s.topKeys := rfl
@[simp] theorem setContext_revoked (h : Nat) (x : Context) : (s.setContext h x).revoked = s.revoked := rfl
@[simp] theorem setContext_hssIndex (h : Nat) (x : Context) : (s.setContext h x).hssIndex = s.hssIndex := rfl
@[simp] theorem setContext_telemetry (h : Nat) (x : Context) : (s.setContext h x).telemetry = s.telemetry := rfl
@[simp] theorem setContext_idle (h : Nat) (x : Context) : (s.setContext h x).idle = s.idle := rfl
@[simp] theorem setContext_perf (h : Nat) (x : Context) : (s.setContext h x).perf = s.perf := rfl
@[simp] theorem setContext_lastServed (h : Nat) (x : Context) : (s.setContext h x).lastServed = s.lastServed := rfl

@[simp] theorem onContext_clock (h : Nat) (f : Context → Context) : (s.onContext h f).clock = s.clock := rfl
@[simp] theorem onContext_chip (h : Nat) (f : Context → Context) : (s.onContext h f).chip = s.chip := rfl
@[simp] theorem onContext_domain (h : Nat) (f : Context → Context) : (s.onContext h f).domain = s.domain := rfl
@[simp] theorem onContext_stamp (h : Nat) (f : Context → Context) : (s.onContext h f).stamp = s.stamp := rfl
@[simp] theorem onContext_cur (h : Nat) (f : Context → Context) : (s.onContext h f).cur = s.cur := rfl
@[simp] theorem onContext_agenda (h : Nat) (f : Context → Context) : (s.onContext h f).agenda = s.agenda := rfl
@[simp] theorem onContext_mem (h : Nat) (f : Context → Context) : (s.onContext h f).mem = s.mem := rfl
@[simp] theorem onContext_poison (h : Nat) (f : Context → Context) : (s.onContext h f).poison = s.poison := rfl
@[simp] theorem onContext_courses (h : Nat) (f : Context → Context) : (s.onContext h f).courses = s.courses := rfl
@[simp] theorem onContext_teams (h : Nat) (f : Context → Context) : (s.onContext h f).teams = s.teams := rfl
@[simp] theorem onContext_grids (h : Nat) (f : Context → Context) : (s.onContext h f).grids = s.grids := rfl
@[simp] theorem onContext_queues (h : Nat) (f : Context → Context) : (s.onContext h f).queues = s.queues := rfl
@[simp] theorem onContext_cores (h : Nat) (f : Context → Context) : (s.onContext h f).cores = s.cores := rfl
@[simp] theorem onContext_scratch (h : Nat) (f : Context → Context) : (s.onContext h f).scratch = s.scratch := rfl
@[simp] theorem onContext_entries (h : Nat) (f : Context → Context) : (s.onContext h f).entries = s.entries := rfl
@[simp] theorem onContext_events (h : Nat) (f : Context → Context) : (s.onContext h f).events = s.events := rfl
@[simp] theorem onContext_farLines (h : Nat) (f : Context → Context) : (s.onContext h f).farLines = s.farLines := rfl
@[simp] theorem onContext_ingress (h : Nat) (f : Context → Context) : (s.onContext h f).ingress = s.ingress := rfl
@[simp] theorem onContext_net (h : Nat) (f : Context → Context) : (s.onContext h f).net = s.net := rfl
@[simp] theorem onContext_tokens (h : Nat) (f : Context → Context) : (s.onContext h f).tokens = s.tokens := rfl
@[simp] theorem onContext_listNext (h : Nat) (f : Context → Context) : (s.onContext h f).listNext = s.listNext := rfl
@[simp] theorem onContext_listSent (h : Nat) (f : Context → Context) : (s.onContext h f).listSent = s.listSent := rfl
@[simp] theorem onContext_tldReqs (h : Nat) (f : Context → Context) : (s.onContext h f).tldReqs = s.tldReqs := rfl
@[simp] theorem onContext_sliceReqs (h : Nat) (f : Context → Context) : (s.onContext h f).sliceReqs = s.sliceReqs := rfl
@[simp] theorem onContext_colls (h : Nat) (f : Context → Context) : (s.onContext h f).colls = s.colls := rfl
@[simp] theorem onContext_xsends (h : Nat) (f : Context → Context) : (s.onContext h f).xsends = s.xsends := rfl
@[simp] theorem onContext_windows (h : Nat) (f : Context → Context) : (s.onContext h f).windows = s.windows := rfl
@[simp] theorem onContext_launches (h : Nat) (f : Context → Context) : (s.onContext h f).launches = s.launches := rfl
@[simp] theorem onContext_dbarArrs (h : Nat) (f : Context → Context) : (s.onContext h f).dbarArrs = s.dbarArrs := rfl
@[simp] theorem onContext_tlb (h : Nat) (f : Context → Context) : (s.onContext h f).tlb = s.tlb := rfl
@[simp] theorem onContext_moved (h : Nat) (f : Context → Context) : (s.onContext h f).moved = s.moved := rfl
@[simp] theorem onContext_moves (h : Nat) (f : Context → Context) : (s.onContext h f).moves = s.moves := rfl
@[simp] theorem onContext_inbound (h : Nat) (f : Context → Context) : (s.onContext h f).inbound = s.inbound := rfl
@[simp] theorem onContext_fenced (h : Nat) (f : Context → Context) : (s.onContext h f).fenced = s.fenced := rfl
@[simp] theorem onContext_linksDown (h : Nat) (f : Context → Context) : (s.onContext h f).linksDown = s.linksDown := rfl
@[simp] theorem onContext_dieLinksDown (h : Nat) (f : Context → Context) : (s.onContext h f).dieLinksDown = s.dieLinksDown := rfl
@[simp] theorem onContext_up (h : Nat) (f : Context → Context) : (s.onContext h f).up = s.up := rfl
@[simp] theorem onContext_wiping (h : Nat) (f : Context → Context) : (s.onContext h f).wiping = s.wiping := rfl
@[simp] theorem onContext_bootFailed (h : Nat) (f : Context → Context) : (s.onContext h f).bootFailed = s.bootFailed := rfl
@[simp] theorem onContext_mgmtOpen (h : Nat) (f : Context → Context) : (s.onContext h f).mgmtOpen = s.mgmtOpen := rfl
@[simp] theorem onContext_rxBuffers (h : Nat) (f : Context → Context) : (s.onContext h f).rxBuffers = s.rxBuffers := rfl
@[simp] theorem onContext_devSeq (h : Nat) (f : Context → Context) : (s.onContext h f).devSeq = s.devSeq := rfl
@[simp] theorem onContext_held (h : Nat) (f : Context → Context) : (s.onContext h f).held = s.held := rfl
@[simp] theorem onContext_asks (h : Nat) (f : Context → Context) : (s.onContext h f).asks = s.asks := rfl
@[simp] theorem onContext_busy (h : Nat) (f : Context → Context) : (s.onContext h f).busy = s.busy := rfl
@[simp] theorem onContext_later (h : Nat) (f : Context → Context) : (s.onContext h f).later = s.later := rfl
@[simp] theorem onContext_hostOut (h : Nat) (f : Context → Context) : (s.onContext h f).hostOut = s.hostOut := rfl
@[simp] theorem onContext_exported (h : Nat) (f : Context → Context) : (s.onContext h f).exported = s.exported := rfl
@[simp] theorem onContext_lifeCycle (h : Nat) (f : Context → Context) : (s.onContext h f).lifeCycle = s.lifeCycle := rfl
@[simp] theorem onContext_fuse (h : Nat) (f : Context → Context) : (s.onContext h f).fuse = s.fuse := rfl
@[simp] theorem onContext_keySlots (h : Nat) (f : Context → Context) : (s.onContext h f).keySlots = s.keySlots := rfl
@[simp] theorem onContext_topKeys (h : Nat) (f : Context → Context) : (s.onContext h f).topKeys = s.topKeys := rfl
@[simp] theorem onContext_revoked (h : Nat) (f : Context → Context) : (s.onContext h f).revoked = s.revoked := rfl
@[simp] theorem onContext_hssIndex (h : Nat) (f : Context → Context) : (s.onContext h f).hssIndex = s.hssIndex := rfl
@[simp] theorem onContext_telemetry (h : Nat) (f : Context → Context) : (s.onContext h f).telemetry = s.telemetry := rfl
@[simp] theorem onContext_idle (h : Nat) (f : Context → Context) : (s.onContext h f).idle = s.idle := rfl
@[simp] theorem onContext_perf (h : Nat) (f : Context → Context) : (s.onContext h f).perf = s.perf := rfl
@[simp] theorem onContext_lastServed (h : Nat) (f : Context → Context) : (s.onContext h f).lastServed = s.lastServed := rfl

@[simp] theorem setCore_clock (h : Nat) (x : Core) : (s.setCore h x).clock = s.clock := rfl
@[simp] theorem setCore_chip (h : Nat) (x : Core) : (s.setCore h x).chip = s.chip := rfl
@[simp] theorem setCore_domain (h : Nat) (x : Core) : (s.setCore h x).domain = s.domain := rfl
@[simp] theorem setCore_stamp (h : Nat) (x : Core) : (s.setCore h x).stamp = s.stamp := rfl
@[simp] theorem setCore_cur (h : Nat) (x : Core) : (s.setCore h x).cur = s.cur := rfl
@[simp] theorem setCore_agenda (h : Nat) (x : Core) : (s.setCore h x).agenda = s.agenda := rfl
@[simp] theorem setCore_mem (h : Nat) (x : Core) : (s.setCore h x).mem = s.mem := rfl
@[simp] theorem setCore_poison (h : Nat) (x : Core) : (s.setCore h x).poison = s.poison := rfl
@[simp] theorem setCore_courses (h : Nat) (x : Core) : (s.setCore h x).courses = s.courses := rfl
@[simp] theorem setCore_teams (h : Nat) (x : Core) : (s.setCore h x).teams = s.teams := rfl
@[simp] theorem setCore_grids (h : Nat) (x : Core) : (s.setCore h x).grids = s.grids := rfl
@[simp] theorem setCore_queues (h : Nat) (x : Core) : (s.setCore h x).queues = s.queues := rfl
@[simp] theorem setCore_contexts (h : Nat) (x : Core) : (s.setCore h x).contexts = s.contexts := rfl
@[simp] theorem setCore_scratch (h : Nat) (x : Core) : (s.setCore h x).scratch = s.scratch := rfl
@[simp] theorem setCore_entries (h : Nat) (x : Core) : (s.setCore h x).entries = s.entries := rfl
@[simp] theorem setCore_events (h : Nat) (x : Core) : (s.setCore h x).events = s.events := rfl
@[simp] theorem setCore_farLines (h : Nat) (x : Core) : (s.setCore h x).farLines = s.farLines := rfl
@[simp] theorem setCore_ingress (h : Nat) (x : Core) : (s.setCore h x).ingress = s.ingress := rfl
@[simp] theorem setCore_net (h : Nat) (x : Core) : (s.setCore h x).net = s.net := rfl
@[simp] theorem setCore_tokens (h : Nat) (x : Core) : (s.setCore h x).tokens = s.tokens := rfl
@[simp] theorem setCore_listNext (h : Nat) (x : Core) : (s.setCore h x).listNext = s.listNext := rfl
@[simp] theorem setCore_listSent (h : Nat) (x : Core) : (s.setCore h x).listSent = s.listSent := rfl
@[simp] theorem setCore_tldReqs (h : Nat) (x : Core) : (s.setCore h x).tldReqs = s.tldReqs := rfl
@[simp] theorem setCore_sliceReqs (h : Nat) (x : Core) : (s.setCore h x).sliceReqs = s.sliceReqs := rfl
@[simp] theorem setCore_colls (h : Nat) (x : Core) : (s.setCore h x).colls = s.colls := rfl
@[simp] theorem setCore_xsends (h : Nat) (x : Core) : (s.setCore h x).xsends = s.xsends := rfl
@[simp] theorem setCore_windows (h : Nat) (x : Core) : (s.setCore h x).windows = s.windows := rfl
@[simp] theorem setCore_launches (h : Nat) (x : Core) : (s.setCore h x).launches = s.launches := rfl
@[simp] theorem setCore_dbarArrs (h : Nat) (x : Core) : (s.setCore h x).dbarArrs = s.dbarArrs := rfl
@[simp] theorem setCore_tlb (h : Nat) (x : Core) : (s.setCore h x).tlb = s.tlb := rfl
@[simp] theorem setCore_moved (h : Nat) (x : Core) : (s.setCore h x).moved = s.moved := rfl
@[simp] theorem setCore_moves (h : Nat) (x : Core) : (s.setCore h x).moves = s.moves := rfl
@[simp] theorem setCore_inbound (h : Nat) (x : Core) : (s.setCore h x).inbound = s.inbound := rfl
@[simp] theorem setCore_fenced (h : Nat) (x : Core) : (s.setCore h x).fenced = s.fenced := rfl
@[simp] theorem setCore_linksDown (h : Nat) (x : Core) : (s.setCore h x).linksDown = s.linksDown := rfl
@[simp] theorem setCore_dieLinksDown (h : Nat) (x : Core) : (s.setCore h x).dieLinksDown = s.dieLinksDown := rfl
@[simp] theorem setCore_up (h : Nat) (x : Core) : (s.setCore h x).up = s.up := rfl
@[simp] theorem setCore_wiping (h : Nat) (x : Core) : (s.setCore h x).wiping = s.wiping := rfl
@[simp] theorem setCore_bootFailed (h : Nat) (x : Core) : (s.setCore h x).bootFailed = s.bootFailed := rfl
@[simp] theorem setCore_mgmtOpen (h : Nat) (x : Core) : (s.setCore h x).mgmtOpen = s.mgmtOpen := rfl
@[simp] theorem setCore_rxBuffers (h : Nat) (x : Core) : (s.setCore h x).rxBuffers = s.rxBuffers := rfl
@[simp] theorem setCore_devSeq (h : Nat) (x : Core) : (s.setCore h x).devSeq = s.devSeq := rfl
@[simp] theorem setCore_held (h : Nat) (x : Core) : (s.setCore h x).held = s.held := rfl
@[simp] theorem setCore_asks (h : Nat) (x : Core) : (s.setCore h x).asks = s.asks := rfl
@[simp] theorem setCore_busy (h : Nat) (x : Core) : (s.setCore h x).busy = s.busy := rfl
@[simp] theorem setCore_later (h : Nat) (x : Core) : (s.setCore h x).later = s.later := rfl
@[simp] theorem setCore_hostOut (h : Nat) (x : Core) : (s.setCore h x).hostOut = s.hostOut := rfl
@[simp] theorem setCore_exported (h : Nat) (x : Core) : (s.setCore h x).exported = s.exported := rfl
@[simp] theorem setCore_lifeCycle (h : Nat) (x : Core) : (s.setCore h x).lifeCycle = s.lifeCycle := rfl
@[simp] theorem setCore_fuse (h : Nat) (x : Core) : (s.setCore h x).fuse = s.fuse := rfl
@[simp] theorem setCore_keySlots (h : Nat) (x : Core) : (s.setCore h x).keySlots = s.keySlots := rfl
@[simp] theorem setCore_topKeys (h : Nat) (x : Core) : (s.setCore h x).topKeys = s.topKeys := rfl
@[simp] theorem setCore_revoked (h : Nat) (x : Core) : (s.setCore h x).revoked = s.revoked := rfl
@[simp] theorem setCore_hssIndex (h : Nat) (x : Core) : (s.setCore h x).hssIndex = s.hssIndex := rfl
@[simp] theorem setCore_telemetry (h : Nat) (x : Core) : (s.setCore h x).telemetry = s.telemetry := rfl
@[simp] theorem setCore_idle (h : Nat) (x : Core) : (s.setCore h x).idle = s.idle := rfl
@[simp] theorem setCore_perf (h : Nat) (x : Core) : (s.setCore h x).perf = s.perf := rfl
@[simp] theorem setCore_lastServed (h : Nat) (x : Core) : (s.setCore h x).lastServed = s.lastServed := rfl

@[simp] theorem onCore_clock (h : Nat) (f : Core → Core) : (s.onCore h f).clock = s.clock := rfl
@[simp] theorem onCore_chip (h : Nat) (f : Core → Core) : (s.onCore h f).chip = s.chip := rfl
@[simp] theorem onCore_domain (h : Nat) (f : Core → Core) : (s.onCore h f).domain = s.domain := rfl
@[simp] theorem onCore_stamp (h : Nat) (f : Core → Core) : (s.onCore h f).stamp = s.stamp := rfl
@[simp] theorem onCore_cur (h : Nat) (f : Core → Core) : (s.onCore h f).cur = s.cur := rfl
@[simp] theorem onCore_agenda (h : Nat) (f : Core → Core) : (s.onCore h f).agenda = s.agenda := rfl
@[simp] theorem onCore_mem (h : Nat) (f : Core → Core) : (s.onCore h f).mem = s.mem := rfl
@[simp] theorem onCore_poison (h : Nat) (f : Core → Core) : (s.onCore h f).poison = s.poison := rfl
@[simp] theorem onCore_courses (h : Nat) (f : Core → Core) : (s.onCore h f).courses = s.courses := rfl
@[simp] theorem onCore_teams (h : Nat) (f : Core → Core) : (s.onCore h f).teams = s.teams := rfl
@[simp] theorem onCore_grids (h : Nat) (f : Core → Core) : (s.onCore h f).grids = s.grids := rfl
@[simp] theorem onCore_queues (h : Nat) (f : Core → Core) : (s.onCore h f).queues = s.queues := rfl
@[simp] theorem onCore_contexts (h : Nat) (f : Core → Core) : (s.onCore h f).contexts = s.contexts := rfl
@[simp] theorem onCore_scratch (h : Nat) (f : Core → Core) : (s.onCore h f).scratch = s.scratch := rfl
@[simp] theorem onCore_entries (h : Nat) (f : Core → Core) : (s.onCore h f).entries = s.entries := rfl
@[simp] theorem onCore_events (h : Nat) (f : Core → Core) : (s.onCore h f).events = s.events := rfl
@[simp] theorem onCore_farLines (h : Nat) (f : Core → Core) : (s.onCore h f).farLines = s.farLines := rfl
@[simp] theorem onCore_ingress (h : Nat) (f : Core → Core) : (s.onCore h f).ingress = s.ingress := rfl
@[simp] theorem onCore_net (h : Nat) (f : Core → Core) : (s.onCore h f).net = s.net := rfl
@[simp] theorem onCore_tokens (h : Nat) (f : Core → Core) : (s.onCore h f).tokens = s.tokens := rfl
@[simp] theorem onCore_listNext (h : Nat) (f : Core → Core) : (s.onCore h f).listNext = s.listNext := rfl
@[simp] theorem onCore_listSent (h : Nat) (f : Core → Core) : (s.onCore h f).listSent = s.listSent := rfl
@[simp] theorem onCore_tldReqs (h : Nat) (f : Core → Core) : (s.onCore h f).tldReqs = s.tldReqs := rfl
@[simp] theorem onCore_sliceReqs (h : Nat) (f : Core → Core) : (s.onCore h f).sliceReqs = s.sliceReqs := rfl
@[simp] theorem onCore_colls (h : Nat) (f : Core → Core) : (s.onCore h f).colls = s.colls := rfl
@[simp] theorem onCore_xsends (h : Nat) (f : Core → Core) : (s.onCore h f).xsends = s.xsends := rfl
@[simp] theorem onCore_windows (h : Nat) (f : Core → Core) : (s.onCore h f).windows = s.windows := rfl
@[simp] theorem onCore_launches (h : Nat) (f : Core → Core) : (s.onCore h f).launches = s.launches := rfl
@[simp] theorem onCore_dbarArrs (h : Nat) (f : Core → Core) : (s.onCore h f).dbarArrs = s.dbarArrs := rfl
@[simp] theorem onCore_tlb (h : Nat) (f : Core → Core) : (s.onCore h f).tlb = s.tlb := rfl
@[simp] theorem onCore_moved (h : Nat) (f : Core → Core) : (s.onCore h f).moved = s.moved := rfl
@[simp] theorem onCore_moves (h : Nat) (f : Core → Core) : (s.onCore h f).moves = s.moves := rfl
@[simp] theorem onCore_inbound (h : Nat) (f : Core → Core) : (s.onCore h f).inbound = s.inbound := rfl
@[simp] theorem onCore_fenced (h : Nat) (f : Core → Core) : (s.onCore h f).fenced = s.fenced := rfl
@[simp] theorem onCore_linksDown (h : Nat) (f : Core → Core) : (s.onCore h f).linksDown = s.linksDown := rfl
@[simp] theorem onCore_dieLinksDown (h : Nat) (f : Core → Core) : (s.onCore h f).dieLinksDown = s.dieLinksDown := rfl
@[simp] theorem onCore_up (h : Nat) (f : Core → Core) : (s.onCore h f).up = s.up := rfl
@[simp] theorem onCore_wiping (h : Nat) (f : Core → Core) : (s.onCore h f).wiping = s.wiping := rfl
@[simp] theorem onCore_bootFailed (h : Nat) (f : Core → Core) : (s.onCore h f).bootFailed = s.bootFailed := rfl
@[simp] theorem onCore_mgmtOpen (h : Nat) (f : Core → Core) : (s.onCore h f).mgmtOpen = s.mgmtOpen := rfl
@[simp] theorem onCore_rxBuffers (h : Nat) (f : Core → Core) : (s.onCore h f).rxBuffers = s.rxBuffers := rfl
@[simp] theorem onCore_devSeq (h : Nat) (f : Core → Core) : (s.onCore h f).devSeq = s.devSeq := rfl
@[simp] theorem onCore_held (h : Nat) (f : Core → Core) : (s.onCore h f).held = s.held := rfl
@[simp] theorem onCore_asks (h : Nat) (f : Core → Core) : (s.onCore h f).asks = s.asks := rfl
@[simp] theorem onCore_busy (h : Nat) (f : Core → Core) : (s.onCore h f).busy = s.busy := rfl
@[simp] theorem onCore_later (h : Nat) (f : Core → Core) : (s.onCore h f).later = s.later := rfl
@[simp] theorem onCore_hostOut (h : Nat) (f : Core → Core) : (s.onCore h f).hostOut = s.hostOut := rfl
@[simp] theorem onCore_exported (h : Nat) (f : Core → Core) : (s.onCore h f).exported = s.exported := rfl
@[simp] theorem onCore_lifeCycle (h : Nat) (f : Core → Core) : (s.onCore h f).lifeCycle = s.lifeCycle := rfl
@[simp] theorem onCore_fuse (h : Nat) (f : Core → Core) : (s.onCore h f).fuse = s.fuse := rfl
@[simp] theorem onCore_keySlots (h : Nat) (f : Core → Core) : (s.onCore h f).keySlots = s.keySlots := rfl
@[simp] theorem onCore_topKeys (h : Nat) (f : Core → Core) : (s.onCore h f).topKeys = s.topKeys := rfl
@[simp] theorem onCore_revoked (h : Nat) (f : Core → Core) : (s.onCore h f).revoked = s.revoked := rfl
@[simp] theorem onCore_hssIndex (h : Nat) (f : Core → Core) : (s.onCore h f).hssIndex = s.hssIndex := rfl
@[simp] theorem onCore_telemetry (h : Nat) (f : Core → Core) : (s.onCore h f).telemetry = s.telemetry := rfl
@[simp] theorem onCore_idle (h : Nat) (f : Core → Core) : (s.onCore h f).idle = s.idle := rfl
@[simp] theorem onCore_perf (h : Nat) (f : Core → Core) : (s.onCore h f).perf = s.perf := rfl
@[simp] theorem onCore_lastServed (h : Nat) (f : Core → Core) : (s.onCore h f).lastServed = s.lastServed := rfl

@[simp] theorem onBay_clock (h b : Nat) (f : Bay → Bay) : (s.onBay h b f).clock = s.clock := rfl
@[simp] theorem onBay_chip (h b : Nat) (f : Bay → Bay) : (s.onBay h b f).chip = s.chip := rfl
@[simp] theorem onBay_domain (h b : Nat) (f : Bay → Bay) : (s.onBay h b f).domain = s.domain := rfl
@[simp] theorem onBay_stamp (h b : Nat) (f : Bay → Bay) : (s.onBay h b f).stamp = s.stamp := rfl
@[simp] theorem onBay_cur (h b : Nat) (f : Bay → Bay) : (s.onBay h b f).cur = s.cur := rfl
@[simp] theorem onBay_agenda (h b : Nat) (f : Bay → Bay) : (s.onBay h b f).agenda = s.agenda := rfl
@[simp] theorem onBay_mem (h b : Nat) (f : Bay → Bay) : (s.onBay h b f).mem = s.mem := rfl
@[simp] theorem onBay_poison (h b : Nat) (f : Bay → Bay) : (s.onBay h b f).poison = s.poison := rfl
@[simp] theorem onBay_courses (h b : Nat) (f : Bay → Bay) : (s.onBay h b f).courses = s.courses := rfl
@[simp] theorem onBay_teams (h b : Nat) (f : Bay → Bay) : (s.onBay h b f).teams = s.teams := rfl
@[simp] theorem onBay_grids (h b : Nat) (f : Bay → Bay) : (s.onBay h b f).grids = s.grids := rfl
@[simp] theorem onBay_queues (h b : Nat) (f : Bay → Bay) : (s.onBay h b f).queues = s.queues := rfl
@[simp] theorem onBay_contexts (h b : Nat) (f : Bay → Bay) : (s.onBay h b f).contexts = s.contexts := rfl
@[simp] theorem onBay_scratch (h b : Nat) (f : Bay → Bay) : (s.onBay h b f).scratch = s.scratch := rfl
@[simp] theorem onBay_entries (h b : Nat) (f : Bay → Bay) : (s.onBay h b f).entries = s.entries := rfl
@[simp] theorem onBay_events (h b : Nat) (f : Bay → Bay) : (s.onBay h b f).events = s.events := rfl
@[simp] theorem onBay_farLines (h b : Nat) (f : Bay → Bay) : (s.onBay h b f).farLines = s.farLines := rfl
@[simp] theorem onBay_ingress (h b : Nat) (f : Bay → Bay) : (s.onBay h b f).ingress = s.ingress := rfl
@[simp] theorem onBay_net (h b : Nat) (f : Bay → Bay) : (s.onBay h b f).net = s.net := rfl
@[simp] theorem onBay_tokens (h b : Nat) (f : Bay → Bay) : (s.onBay h b f).tokens = s.tokens := rfl
@[simp] theorem onBay_listNext (h b : Nat) (f : Bay → Bay) : (s.onBay h b f).listNext = s.listNext := rfl
@[simp] theorem onBay_listSent (h b : Nat) (f : Bay → Bay) : (s.onBay h b f).listSent = s.listSent := rfl
@[simp] theorem onBay_tldReqs (h b : Nat) (f : Bay → Bay) : (s.onBay h b f).tldReqs = s.tldReqs := rfl
@[simp] theorem onBay_sliceReqs (h b : Nat) (f : Bay → Bay) : (s.onBay h b f).sliceReqs = s.sliceReqs := rfl
@[simp] theorem onBay_colls (h b : Nat) (f : Bay → Bay) : (s.onBay h b f).colls = s.colls := rfl
@[simp] theorem onBay_xsends (h b : Nat) (f : Bay → Bay) : (s.onBay h b f).xsends = s.xsends := rfl
@[simp] theorem onBay_windows (h b : Nat) (f : Bay → Bay) : (s.onBay h b f).windows = s.windows := rfl
@[simp] theorem onBay_launches (h b : Nat) (f : Bay → Bay) : (s.onBay h b f).launches = s.launches := rfl
@[simp] theorem onBay_dbarArrs (h b : Nat) (f : Bay → Bay) : (s.onBay h b f).dbarArrs = s.dbarArrs := rfl
@[simp] theorem onBay_tlb (h b : Nat) (f : Bay → Bay) : (s.onBay h b f).tlb = s.tlb := rfl
@[simp] theorem onBay_moved (h b : Nat) (f : Bay → Bay) : (s.onBay h b f).moved = s.moved := rfl
@[simp] theorem onBay_moves (h b : Nat) (f : Bay → Bay) : (s.onBay h b f).moves = s.moves := rfl
@[simp] theorem onBay_inbound (h b : Nat) (f : Bay → Bay) : (s.onBay h b f).inbound = s.inbound := rfl
@[simp] theorem onBay_fenced (h b : Nat) (f : Bay → Bay) : (s.onBay h b f).fenced = s.fenced := rfl
@[simp] theorem onBay_linksDown (h b : Nat) (f : Bay → Bay) : (s.onBay h b f).linksDown = s.linksDown := rfl
@[simp] theorem onBay_dieLinksDown (h b : Nat) (f : Bay → Bay) : (s.onBay h b f).dieLinksDown = s.dieLinksDown := rfl
@[simp] theorem onBay_up (h b : Nat) (f : Bay → Bay) : (s.onBay h b f).up = s.up := rfl
@[simp] theorem onBay_wiping (h b : Nat) (f : Bay → Bay) : (s.onBay h b f).wiping = s.wiping := rfl
@[simp] theorem onBay_bootFailed (h b : Nat) (f : Bay → Bay) : (s.onBay h b f).bootFailed = s.bootFailed := rfl
@[simp] theorem onBay_mgmtOpen (h b : Nat) (f : Bay → Bay) : (s.onBay h b f).mgmtOpen = s.mgmtOpen := rfl
@[simp] theorem onBay_rxBuffers (h b : Nat) (f : Bay → Bay) : (s.onBay h b f).rxBuffers = s.rxBuffers := rfl
@[simp] theorem onBay_devSeq (h b : Nat) (f : Bay → Bay) : (s.onBay h b f).devSeq = s.devSeq := rfl
@[simp] theorem onBay_held (h b : Nat) (f : Bay → Bay) : (s.onBay h b f).held = s.held := rfl
@[simp] theorem onBay_asks (h b : Nat) (f : Bay → Bay) : (s.onBay h b f).asks = s.asks := rfl
@[simp] theorem onBay_busy (h b : Nat) (f : Bay → Bay) : (s.onBay h b f).busy = s.busy := rfl
@[simp] theorem onBay_later (h b : Nat) (f : Bay → Bay) : (s.onBay h b f).later = s.later := rfl
@[simp] theorem onBay_hostOut (h b : Nat) (f : Bay → Bay) : (s.onBay h b f).hostOut = s.hostOut := rfl
@[simp] theorem onBay_exported (h b : Nat) (f : Bay → Bay) : (s.onBay h b f).exported = s.exported := rfl
@[simp] theorem onBay_lifeCycle (h b : Nat) (f : Bay → Bay) : (s.onBay h b f).lifeCycle = s.lifeCycle := rfl
@[simp] theorem onBay_fuse (h b : Nat) (f : Bay → Bay) : (s.onBay h b f).fuse = s.fuse := rfl
@[simp] theorem onBay_keySlots (h b : Nat) (f : Bay → Bay) : (s.onBay h b f).keySlots = s.keySlots := rfl
@[simp] theorem onBay_topKeys (h b : Nat) (f : Bay → Bay) : (s.onBay h b f).topKeys = s.topKeys := rfl
@[simp] theorem onBay_revoked (h b : Nat) (f : Bay → Bay) : (s.onBay h b f).revoked = s.revoked := rfl
@[simp] theorem onBay_hssIndex (h b : Nat) (f : Bay → Bay) : (s.onBay h b f).hssIndex = s.hssIndex := rfl
@[simp] theorem onBay_telemetry (h b : Nat) (f : Bay → Bay) : (s.onBay h b f).telemetry = s.telemetry := rfl
@[simp] theorem onBay_idle (h b : Nat) (f : Bay → Bay) : (s.onBay h b f).idle = s.idle := rfl
@[simp] theorem onBay_perf (h b : Nat) (f : Bay → Bay) : (s.onBay h b f).perf = s.perf := rfl
@[simp] theorem onBay_lastServed (h b : Nat) (f : Bay → Bay) : (s.onBay h b f).lastServed = s.lastServed := rfl

@[simp] theorem setEvent_clock (d k n x : Nat) : (s.setEvent d k n x).clock = s.clock := rfl
@[simp] theorem setEvent_chip (d k n x : Nat) : (s.setEvent d k n x).chip = s.chip := rfl
@[simp] theorem setEvent_domain (d k n x : Nat) : (s.setEvent d k n x).domain = s.domain := rfl
@[simp] theorem setEvent_stamp (d k n x : Nat) : (s.setEvent d k n x).stamp = s.stamp := rfl
@[simp] theorem setEvent_cur (d k n x : Nat) : (s.setEvent d k n x).cur = s.cur := rfl
@[simp] theorem setEvent_agenda (d k n x : Nat) : (s.setEvent d k n x).agenda = s.agenda := rfl
@[simp] theorem setEvent_mem (d k n x : Nat) : (s.setEvent d k n x).mem = s.mem := rfl
@[simp] theorem setEvent_poison (d k n x : Nat) : (s.setEvent d k n x).poison = s.poison := rfl
@[simp] theorem setEvent_courses (d k n x : Nat) : (s.setEvent d k n x).courses = s.courses := rfl
@[simp] theorem setEvent_teams (d k n x : Nat) : (s.setEvent d k n x).teams = s.teams := rfl
@[simp] theorem setEvent_grids (d k n x : Nat) : (s.setEvent d k n x).grids = s.grids := rfl
@[simp] theorem setEvent_queues (d k n x : Nat) : (s.setEvent d k n x).queues = s.queues := rfl
@[simp] theorem setEvent_contexts (d k n x : Nat) : (s.setEvent d k n x).contexts = s.contexts := rfl
@[simp] theorem setEvent_cores (d k n x : Nat) : (s.setEvent d k n x).cores = s.cores := rfl
@[simp] theorem setEvent_scratch (d k n x : Nat) : (s.setEvent d k n x).scratch = s.scratch := rfl
@[simp] theorem setEvent_entries (d k n x : Nat) : (s.setEvent d k n x).entries = s.entries := rfl
@[simp] theorem setEvent_farLines (d k n x : Nat) : (s.setEvent d k n x).farLines = s.farLines := rfl
@[simp] theorem setEvent_ingress (d k n x : Nat) : (s.setEvent d k n x).ingress = s.ingress := rfl
@[simp] theorem setEvent_net (d k n x : Nat) : (s.setEvent d k n x).net = s.net := rfl
@[simp] theorem setEvent_tokens (d k n x : Nat) : (s.setEvent d k n x).tokens = s.tokens := rfl
@[simp] theorem setEvent_listNext (d k n x : Nat) : (s.setEvent d k n x).listNext = s.listNext := rfl
@[simp] theorem setEvent_listSent (d k n x : Nat) : (s.setEvent d k n x).listSent = s.listSent := rfl
@[simp] theorem setEvent_tldReqs (d k n x : Nat) : (s.setEvent d k n x).tldReqs = s.tldReqs := rfl
@[simp] theorem setEvent_sliceReqs (d k n x : Nat) : (s.setEvent d k n x).sliceReqs = s.sliceReqs := rfl
@[simp] theorem setEvent_colls (d k n x : Nat) : (s.setEvent d k n x).colls = s.colls := rfl
@[simp] theorem setEvent_xsends (d k n x : Nat) : (s.setEvent d k n x).xsends = s.xsends := rfl
@[simp] theorem setEvent_windows (d k n x : Nat) : (s.setEvent d k n x).windows = s.windows := rfl
@[simp] theorem setEvent_launches (d k n x : Nat) : (s.setEvent d k n x).launches = s.launches := rfl
@[simp] theorem setEvent_dbarArrs (d k n x : Nat) : (s.setEvent d k n x).dbarArrs = s.dbarArrs := rfl
@[simp] theorem setEvent_tlb (d k n x : Nat) : (s.setEvent d k n x).tlb = s.tlb := rfl
@[simp] theorem setEvent_moved (d k n x : Nat) : (s.setEvent d k n x).moved = s.moved := rfl
@[simp] theorem setEvent_moves (d k n x : Nat) : (s.setEvent d k n x).moves = s.moves := rfl
@[simp] theorem setEvent_inbound (d k n x : Nat) : (s.setEvent d k n x).inbound = s.inbound := rfl
@[simp] theorem setEvent_fenced (d k n x : Nat) : (s.setEvent d k n x).fenced = s.fenced := rfl
@[simp] theorem setEvent_linksDown (d k n x : Nat) : (s.setEvent d k n x).linksDown = s.linksDown := rfl
@[simp] theorem setEvent_dieLinksDown (d k n x : Nat) : (s.setEvent d k n x).dieLinksDown = s.dieLinksDown := rfl
@[simp] theorem setEvent_up (d k n x : Nat) : (s.setEvent d k n x).up = s.up := rfl
@[simp] theorem setEvent_wiping (d k n x : Nat) : (s.setEvent d k n x).wiping = s.wiping := rfl
@[simp] theorem setEvent_bootFailed (d k n x : Nat) : (s.setEvent d k n x).bootFailed = s.bootFailed := rfl
@[simp] theorem setEvent_mgmtOpen (d k n x : Nat) : (s.setEvent d k n x).mgmtOpen = s.mgmtOpen := rfl
@[simp] theorem setEvent_rxBuffers (d k n x : Nat) : (s.setEvent d k n x).rxBuffers = s.rxBuffers := rfl
@[simp] theorem setEvent_devSeq (d k n x : Nat) : (s.setEvent d k n x).devSeq = s.devSeq := rfl
@[simp] theorem setEvent_held (d k n x : Nat) : (s.setEvent d k n x).held = s.held := rfl
@[simp] theorem setEvent_asks (d k n x : Nat) : (s.setEvent d k n x).asks = s.asks := rfl
@[simp] theorem setEvent_busy (d k n x : Nat) : (s.setEvent d k n x).busy = s.busy := rfl
@[simp] theorem setEvent_later (d k n x : Nat) : (s.setEvent d k n x).later = s.later := rfl
@[simp] theorem setEvent_hostOut (d k n x : Nat) : (s.setEvent d k n x).hostOut = s.hostOut := rfl
@[simp] theorem setEvent_exported (d k n x : Nat) : (s.setEvent d k n x).exported = s.exported := rfl
@[simp] theorem setEvent_lifeCycle (d k n x : Nat) : (s.setEvent d k n x).lifeCycle = s.lifeCycle := rfl
@[simp] theorem setEvent_fuse (d k n x : Nat) : (s.setEvent d k n x).fuse = s.fuse := rfl
@[simp] theorem setEvent_keySlots (d k n x : Nat) : (s.setEvent d k n x).keySlots = s.keySlots := rfl
@[simp] theorem setEvent_topKeys (d k n x : Nat) : (s.setEvent d k n x).topKeys = s.topKeys := rfl
@[simp] theorem setEvent_revoked (d k n x : Nat) : (s.setEvent d k n x).revoked = s.revoked := rfl
@[simp] theorem setEvent_hssIndex (d k n x : Nat) : (s.setEvent d k n x).hssIndex = s.hssIndex := rfl
@[simp] theorem setEvent_telemetry (d k n x : Nat) : (s.setEvent d k n x).telemetry = s.telemetry := rfl
@[simp] theorem setEvent_idle (d k n x : Nat) : (s.setEvent d k n x).idle = s.idle := rfl
@[simp] theorem setEvent_perf (d k n x : Nat) : (s.setEvent d k n x).perf = s.perf := rfl
@[simp] theorem setEvent_lastServed (d k n x : Nat) : (s.setEvent d k n x).lastServed = s.lastServed := rfl

@[simp] theorem count_clock (a i k n : Nat) : (s.count a i k n).clock = s.clock := rfl
@[simp] theorem count_chip (a i k n : Nat) : (s.count a i k n).chip = s.chip := rfl
@[simp] theorem count_domain (a i k n : Nat) : (s.count a i k n).domain = s.domain := rfl
@[simp] theorem count_stamp (a i k n : Nat) : (s.count a i k n).stamp = s.stamp := rfl
@[simp] theorem count_cur (a i k n : Nat) : (s.count a i k n).cur = s.cur := rfl
@[simp] theorem count_agenda (a i k n : Nat) : (s.count a i k n).agenda = s.agenda := rfl
@[simp] theorem count_mem (a i k n : Nat) : (s.count a i k n).mem = s.mem := rfl
@[simp] theorem count_poison (a i k n : Nat) : (s.count a i k n).poison = s.poison := rfl
@[simp] theorem count_courses (a i k n : Nat) : (s.count a i k n).courses = s.courses := rfl
@[simp] theorem count_teams (a i k n : Nat) : (s.count a i k n).teams = s.teams := rfl
@[simp] theorem count_grids (a i k n : Nat) : (s.count a i k n).grids = s.grids := rfl
@[simp] theorem count_queues (a i k n : Nat) : (s.count a i k n).queues = s.queues := rfl
@[simp] theorem count_contexts (a i k n : Nat) : (s.count a i k n).contexts = s.contexts := rfl
@[simp] theorem count_cores (a i k n : Nat) : (s.count a i k n).cores = s.cores := rfl
@[simp] theorem count_scratch (a i k n : Nat) : (s.count a i k n).scratch = s.scratch := rfl
@[simp] theorem count_entries (a i k n : Nat) : (s.count a i k n).entries = s.entries := rfl
@[simp] theorem count_events (a i k n : Nat) : (s.count a i k n).events = s.events := rfl
@[simp] theorem count_farLines (a i k n : Nat) : (s.count a i k n).farLines = s.farLines := rfl
@[simp] theorem count_ingress (a i k n : Nat) : (s.count a i k n).ingress = s.ingress := rfl
@[simp] theorem count_net (a i k n : Nat) : (s.count a i k n).net = s.net := rfl
@[simp] theorem count_tokens (a i k n : Nat) : (s.count a i k n).tokens = s.tokens := rfl
@[simp] theorem count_listNext (a i k n : Nat) : (s.count a i k n).listNext = s.listNext := rfl
@[simp] theorem count_listSent (a i k n : Nat) : (s.count a i k n).listSent = s.listSent := rfl
@[simp] theorem count_tldReqs (a i k n : Nat) : (s.count a i k n).tldReqs = s.tldReqs := rfl
@[simp] theorem count_sliceReqs (a i k n : Nat) : (s.count a i k n).sliceReqs = s.sliceReqs := rfl
@[simp] theorem count_colls (a i k n : Nat) : (s.count a i k n).colls = s.colls := rfl
@[simp] theorem count_xsends (a i k n : Nat) : (s.count a i k n).xsends = s.xsends := rfl
@[simp] theorem count_windows (a i k n : Nat) : (s.count a i k n).windows = s.windows := rfl
@[simp] theorem count_launches (a i k n : Nat) : (s.count a i k n).launches = s.launches := rfl
@[simp] theorem count_dbarArrs (a i k n : Nat) : (s.count a i k n).dbarArrs = s.dbarArrs := rfl
@[simp] theorem count_tlb (a i k n : Nat) : (s.count a i k n).tlb = s.tlb := rfl
@[simp] theorem count_moved (a i k n : Nat) : (s.count a i k n).moved = s.moved := rfl
@[simp] theorem count_moves (a i k n : Nat) : (s.count a i k n).moves = s.moves := rfl
@[simp] theorem count_inbound (a i k n : Nat) : (s.count a i k n).inbound = s.inbound := rfl
@[simp] theorem count_fenced (a i k n : Nat) : (s.count a i k n).fenced = s.fenced := rfl
@[simp] theorem count_linksDown (a i k n : Nat) : (s.count a i k n).linksDown = s.linksDown := rfl
@[simp] theorem count_dieLinksDown (a i k n : Nat) : (s.count a i k n).dieLinksDown = s.dieLinksDown := rfl
@[simp] theorem count_up (a i k n : Nat) : (s.count a i k n).up = s.up := rfl
@[simp] theorem count_wiping (a i k n : Nat) : (s.count a i k n).wiping = s.wiping := rfl
@[simp] theorem count_bootFailed (a i k n : Nat) : (s.count a i k n).bootFailed = s.bootFailed := rfl
@[simp] theorem count_mgmtOpen (a i k n : Nat) : (s.count a i k n).mgmtOpen = s.mgmtOpen := rfl
@[simp] theorem count_rxBuffers (a i k n : Nat) : (s.count a i k n).rxBuffers = s.rxBuffers := rfl
@[simp] theorem count_devSeq (a i k n : Nat) : (s.count a i k n).devSeq = s.devSeq := rfl
@[simp] theorem count_held (a i k n : Nat) : (s.count a i k n).held = s.held := rfl
@[simp] theorem count_asks (a i k n : Nat) : (s.count a i k n).asks = s.asks := rfl
@[simp] theorem count_busy (a i k n : Nat) : (s.count a i k n).busy = s.busy := rfl
@[simp] theorem count_later (a i k n : Nat) : (s.count a i k n).later = s.later := rfl
@[simp] theorem count_hostOut (a i k n : Nat) : (s.count a i k n).hostOut = s.hostOut := rfl
@[simp] theorem count_exported (a i k n : Nat) : (s.count a i k n).exported = s.exported := rfl
@[simp] theorem count_lifeCycle (a i k n : Nat) : (s.count a i k n).lifeCycle = s.lifeCycle := rfl
@[simp] theorem count_fuse (a i k n : Nat) : (s.count a i k n).fuse = s.fuse := rfl
@[simp] theorem count_keySlots (a i k n : Nat) : (s.count a i k n).keySlots = s.keySlots := rfl
@[simp] theorem count_topKeys (a i k n : Nat) : (s.count a i k n).topKeys = s.topKeys := rfl
@[simp] theorem count_revoked (a i k n : Nat) : (s.count a i k n).revoked = s.revoked := rfl
@[simp] theorem count_hssIndex (a i k n : Nat) : (s.count a i k n).hssIndex = s.hssIndex := rfl
@[simp] theorem count_telemetry (a i k n : Nat) : (s.count a i k n).telemetry = s.telemetry := rfl
@[simp] theorem count_idle (a i k n : Nat) : (s.count a i k n).idle = s.idle := rfl
@[simp] theorem count_lastServed (a i k n : Nat) : (s.count a i k n).lastServed = s.lastServed := rfl

@[simp] theorem memWrite_clock (a : Nat) (x : List Byte) (bad : List Nat) : (s.memWrite a x bad).clock = s.clock := rfl
@[simp] theorem memWrite_chip (a : Nat) (x : List Byte) (bad : List Nat) : (s.memWrite a x bad).chip = s.chip := rfl
@[simp] theorem memWrite_domain (a : Nat) (x : List Byte) (bad : List Nat) : (s.memWrite a x bad).domain = s.domain := rfl
@[simp] theorem memWrite_stamp (a : Nat) (x : List Byte) (bad : List Nat) : (s.memWrite a x bad).stamp = s.stamp := rfl
@[simp] theorem memWrite_cur (a : Nat) (x : List Byte) (bad : List Nat) : (s.memWrite a x bad).cur = s.cur := rfl
@[simp] theorem memWrite_agenda (a : Nat) (x : List Byte) (bad : List Nat) : (s.memWrite a x bad).agenda = s.agenda := rfl
@[simp] theorem memWrite_courses (a : Nat) (x : List Byte) (bad : List Nat) : (s.memWrite a x bad).courses = s.courses := rfl
@[simp] theorem memWrite_teams (a : Nat) (x : List Byte) (bad : List Nat) : (s.memWrite a x bad).teams = s.teams := rfl
@[simp] theorem memWrite_grids (a : Nat) (x : List Byte) (bad : List Nat) : (s.memWrite a x bad).grids = s.grids := rfl
@[simp] theorem memWrite_queues (a : Nat) (x : List Byte) (bad : List Nat) : (s.memWrite a x bad).queues = s.queues := rfl
@[simp] theorem memWrite_contexts (a : Nat) (x : List Byte) (bad : List Nat) : (s.memWrite a x bad).contexts = s.contexts := rfl
@[simp] theorem memWrite_cores (a : Nat) (x : List Byte) (bad : List Nat) : (s.memWrite a x bad).cores = s.cores := rfl
@[simp] theorem memWrite_scratch (a : Nat) (x : List Byte) (bad : List Nat) : (s.memWrite a x bad).scratch = s.scratch := rfl
@[simp] theorem memWrite_entries (a : Nat) (x : List Byte) (bad : List Nat) : (s.memWrite a x bad).entries = s.entries := rfl
@[simp] theorem memWrite_events (a : Nat) (x : List Byte) (bad : List Nat) : (s.memWrite a x bad).events = s.events := rfl
@[simp] theorem memWrite_farLines (a : Nat) (x : List Byte) (bad : List Nat) : (s.memWrite a x bad).farLines = s.farLines := rfl
@[simp] theorem memWrite_ingress (a : Nat) (x : List Byte) (bad : List Nat) : (s.memWrite a x bad).ingress = s.ingress := rfl
@[simp] theorem memWrite_net (a : Nat) (x : List Byte) (bad : List Nat) : (s.memWrite a x bad).net = s.net := rfl
@[simp] theorem memWrite_tokens (a : Nat) (x : List Byte) (bad : List Nat) : (s.memWrite a x bad).tokens = s.tokens := rfl
@[simp] theorem memWrite_listNext (a : Nat) (x : List Byte) (bad : List Nat) : (s.memWrite a x bad).listNext = s.listNext := rfl
@[simp] theorem memWrite_listSent (a : Nat) (x : List Byte) (bad : List Nat) : (s.memWrite a x bad).listSent = s.listSent := rfl
@[simp] theorem memWrite_tldReqs (a : Nat) (x : List Byte) (bad : List Nat) : (s.memWrite a x bad).tldReqs = s.tldReqs := rfl
@[simp] theorem memWrite_sliceReqs (a : Nat) (x : List Byte) (bad : List Nat) : (s.memWrite a x bad).sliceReqs = s.sliceReqs := rfl
@[simp] theorem memWrite_colls (a : Nat) (x : List Byte) (bad : List Nat) : (s.memWrite a x bad).colls = s.colls := rfl
@[simp] theorem memWrite_xsends (a : Nat) (x : List Byte) (bad : List Nat) : (s.memWrite a x bad).xsends = s.xsends := rfl
@[simp] theorem memWrite_windows (a : Nat) (x : List Byte) (bad : List Nat) : (s.memWrite a x bad).windows = s.windows := rfl
@[simp] theorem memWrite_launches (a : Nat) (x : List Byte) (bad : List Nat) : (s.memWrite a x bad).launches = s.launches := rfl
@[simp] theorem memWrite_dbarArrs (a : Nat) (x : List Byte) (bad : List Nat) : (s.memWrite a x bad).dbarArrs = s.dbarArrs := rfl
@[simp] theorem memWrite_tlb (a : Nat) (x : List Byte) (bad : List Nat) : (s.memWrite a x bad).tlb = s.tlb := rfl
@[simp] theorem memWrite_moved (a : Nat) (x : List Byte) (bad : List Nat) : (s.memWrite a x bad).moved = s.moved := rfl
@[simp] theorem memWrite_moves (a : Nat) (x : List Byte) (bad : List Nat) : (s.memWrite a x bad).moves = s.moves := rfl
@[simp] theorem memWrite_inbound (a : Nat) (x : List Byte) (bad : List Nat) : (s.memWrite a x bad).inbound = s.inbound := rfl
@[simp] theorem memWrite_fenced (a : Nat) (x : List Byte) (bad : List Nat) : (s.memWrite a x bad).fenced = s.fenced := rfl
@[simp] theorem memWrite_linksDown (a : Nat) (x : List Byte) (bad : List Nat) : (s.memWrite a x bad).linksDown = s.linksDown := rfl
@[simp] theorem memWrite_dieLinksDown (a : Nat) (x : List Byte) (bad : List Nat) : (s.memWrite a x bad).dieLinksDown = s.dieLinksDown := rfl
@[simp] theorem memWrite_up (a : Nat) (x : List Byte) (bad : List Nat) : (s.memWrite a x bad).up = s.up := rfl
@[simp] theorem memWrite_wiping (a : Nat) (x : List Byte) (bad : List Nat) : (s.memWrite a x bad).wiping = s.wiping := rfl
@[simp] theorem memWrite_bootFailed (a : Nat) (x : List Byte) (bad : List Nat) : (s.memWrite a x bad).bootFailed = s.bootFailed := rfl
@[simp] theorem memWrite_mgmtOpen (a : Nat) (x : List Byte) (bad : List Nat) : (s.memWrite a x bad).mgmtOpen = s.mgmtOpen := rfl
@[simp] theorem memWrite_rxBuffers (a : Nat) (x : List Byte) (bad : List Nat) : (s.memWrite a x bad).rxBuffers = s.rxBuffers := rfl
@[simp] theorem memWrite_devSeq (a : Nat) (x : List Byte) (bad : List Nat) : (s.memWrite a x bad).devSeq = s.devSeq := rfl
@[simp] theorem memWrite_held (a : Nat) (x : List Byte) (bad : List Nat) : (s.memWrite a x bad).held = s.held := rfl
@[simp] theorem memWrite_asks (a : Nat) (x : List Byte) (bad : List Nat) : (s.memWrite a x bad).asks = s.asks := rfl
@[simp] theorem memWrite_busy (a : Nat) (x : List Byte) (bad : List Nat) : (s.memWrite a x bad).busy = s.busy := rfl
@[simp] theorem memWrite_later (a : Nat) (x : List Byte) (bad : List Nat) : (s.memWrite a x bad).later = s.later := rfl
@[simp] theorem memWrite_hostOut (a : Nat) (x : List Byte) (bad : List Nat) : (s.memWrite a x bad).hostOut = s.hostOut := rfl
@[simp] theorem memWrite_exported (a : Nat) (x : List Byte) (bad : List Nat) : (s.memWrite a x bad).exported = s.exported := rfl
@[simp] theorem memWrite_lifeCycle (a : Nat) (x : List Byte) (bad : List Nat) : (s.memWrite a x bad).lifeCycle = s.lifeCycle := rfl
@[simp] theorem memWrite_fuse (a : Nat) (x : List Byte) (bad : List Nat) : (s.memWrite a x bad).fuse = s.fuse := rfl
@[simp] theorem memWrite_keySlots (a : Nat) (x : List Byte) (bad : List Nat) : (s.memWrite a x bad).keySlots = s.keySlots := rfl
@[simp] theorem memWrite_topKeys (a : Nat) (x : List Byte) (bad : List Nat) : (s.memWrite a x bad).topKeys = s.topKeys := rfl
@[simp] theorem memWrite_revoked (a : Nat) (x : List Byte) (bad : List Nat) : (s.memWrite a x bad).revoked = s.revoked := rfl
@[simp] theorem memWrite_hssIndex (a : Nat) (x : List Byte) (bad : List Nat) : (s.memWrite a x bad).hssIndex = s.hssIndex := rfl
@[simp] theorem memWrite_telemetry (a : Nat) (x : List Byte) (bad : List Nat) : (s.memWrite a x bad).telemetry = s.telemetry := rfl
@[simp] theorem memWrite_idle (a : Nat) (x : List Byte) (bad : List Nat) : (s.memWrite a x bad).idle = s.idle := rfl
@[simp] theorem memWrite_perf (a : Nat) (x : List Byte) (bad : List Nat) : (s.memWrite a x bad).perf = s.perf := rfl
@[simp] theorem memWrite_lastServed (a : Nat) (x : List Byte) (bad : List Nat) : (s.memWrite a x bad).lastServed = s.lastServed := rfl

@[simp] theorem zeroRange_clock (a n : Nat) : (s.zeroRange a n).clock = s.clock := rfl
@[simp] theorem zeroRange_chip (a n : Nat) : (s.zeroRange a n).chip = s.chip := rfl
@[simp] theorem zeroRange_domain (a n : Nat) : (s.zeroRange a n).domain = s.domain := rfl
@[simp] theorem zeroRange_stamp (a n : Nat) : (s.zeroRange a n).stamp = s.stamp := rfl
@[simp] theorem zeroRange_cur (a n : Nat) : (s.zeroRange a n).cur = s.cur := rfl
@[simp] theorem zeroRange_agenda (a n : Nat) : (s.zeroRange a n).agenda = s.agenda := rfl
@[simp] theorem zeroRange_courses (a n : Nat) : (s.zeroRange a n).courses = s.courses := rfl
@[simp] theorem zeroRange_teams (a n : Nat) : (s.zeroRange a n).teams = s.teams := rfl
@[simp] theorem zeroRange_grids (a n : Nat) : (s.zeroRange a n).grids = s.grids := rfl
@[simp] theorem zeroRange_queues (a n : Nat) : (s.zeroRange a n).queues = s.queues := rfl
@[simp] theorem zeroRange_contexts (a n : Nat) : (s.zeroRange a n).contexts = s.contexts := rfl
@[simp] theorem zeroRange_cores (a n : Nat) : (s.zeroRange a n).cores = s.cores := rfl
@[simp] theorem zeroRange_scratch (a n : Nat) : (s.zeroRange a n).scratch = s.scratch := rfl
@[simp] theorem zeroRange_entries (a n : Nat) : (s.zeroRange a n).entries = s.entries := rfl
@[simp] theorem zeroRange_events (a n : Nat) : (s.zeroRange a n).events = s.events := rfl
@[simp] theorem zeroRange_ingress (a n : Nat) : (s.zeroRange a n).ingress = s.ingress := rfl
@[simp] theorem zeroRange_net (a n : Nat) : (s.zeroRange a n).net = s.net := rfl
@[simp] theorem zeroRange_tokens (a n : Nat) : (s.zeroRange a n).tokens = s.tokens := rfl
@[simp] theorem zeroRange_listNext (a n : Nat) : (s.zeroRange a n).listNext = s.listNext := rfl
@[simp] theorem zeroRange_listSent (a n : Nat) : (s.zeroRange a n).listSent = s.listSent := rfl
@[simp] theorem zeroRange_tldReqs (a n : Nat) : (s.zeroRange a n).tldReqs = s.tldReqs := rfl
@[simp] theorem zeroRange_sliceReqs (a n : Nat) : (s.zeroRange a n).sliceReqs = s.sliceReqs := rfl
@[simp] theorem zeroRange_colls (a n : Nat) : (s.zeroRange a n).colls = s.colls := rfl
@[simp] theorem zeroRange_xsends (a n : Nat) : (s.zeroRange a n).xsends = s.xsends := rfl
@[simp] theorem zeroRange_windows (a n : Nat) : (s.zeroRange a n).windows = s.windows := rfl
@[simp] theorem zeroRange_launches (a n : Nat) : (s.zeroRange a n).launches = s.launches := rfl
@[simp] theorem zeroRange_dbarArrs (a n : Nat) : (s.zeroRange a n).dbarArrs = s.dbarArrs := rfl
@[simp] theorem zeroRange_tlb (a n : Nat) : (s.zeroRange a n).tlb = s.tlb := rfl
@[simp] theorem zeroRange_moved (a n : Nat) : (s.zeroRange a n).moved = s.moved := rfl
@[simp] theorem zeroRange_moves (a n : Nat) : (s.zeroRange a n).moves = s.moves := rfl
@[simp] theorem zeroRange_inbound (a n : Nat) : (s.zeroRange a n).inbound = s.inbound := rfl
@[simp] theorem zeroRange_fenced (a n : Nat) : (s.zeroRange a n).fenced = s.fenced := rfl
@[simp] theorem zeroRange_linksDown (a n : Nat) : (s.zeroRange a n).linksDown = s.linksDown := rfl
@[simp] theorem zeroRange_dieLinksDown (a n : Nat) : (s.zeroRange a n).dieLinksDown = s.dieLinksDown := rfl
@[simp] theorem zeroRange_up (a n : Nat) : (s.zeroRange a n).up = s.up := rfl
@[simp] theorem zeroRange_wiping (a n : Nat) : (s.zeroRange a n).wiping = s.wiping := rfl
@[simp] theorem zeroRange_bootFailed (a n : Nat) : (s.zeroRange a n).bootFailed = s.bootFailed := rfl
@[simp] theorem zeroRange_mgmtOpen (a n : Nat) : (s.zeroRange a n).mgmtOpen = s.mgmtOpen := rfl
@[simp] theorem zeroRange_rxBuffers (a n : Nat) : (s.zeroRange a n).rxBuffers = s.rxBuffers := rfl
@[simp] theorem zeroRange_devSeq (a n : Nat) : (s.zeroRange a n).devSeq = s.devSeq := rfl
@[simp] theorem zeroRange_held (a n : Nat) : (s.zeroRange a n).held = s.held := rfl
@[simp] theorem zeroRange_asks (a n : Nat) : (s.zeroRange a n).asks = s.asks := rfl
@[simp] theorem zeroRange_busy (a n : Nat) : (s.zeroRange a n).busy = s.busy := rfl
@[simp] theorem zeroRange_later (a n : Nat) : (s.zeroRange a n).later = s.later := rfl
@[simp] theorem zeroRange_hostOut (a n : Nat) : (s.zeroRange a n).hostOut = s.hostOut := rfl
@[simp] theorem zeroRange_exported (a n : Nat) : (s.zeroRange a n).exported = s.exported := rfl
@[simp] theorem zeroRange_lifeCycle (a n : Nat) : (s.zeroRange a n).lifeCycle = s.lifeCycle := rfl
@[simp] theorem zeroRange_fuse (a n : Nat) : (s.zeroRange a n).fuse = s.fuse := rfl
@[simp] theorem zeroRange_keySlots (a n : Nat) : (s.zeroRange a n).keySlots = s.keySlots := rfl
@[simp] theorem zeroRange_topKeys (a n : Nat) : (s.zeroRange a n).topKeys = s.topKeys := rfl
@[simp] theorem zeroRange_revoked (a n : Nat) : (s.zeroRange a n).revoked = s.revoked := rfl
@[simp] theorem zeroRange_hssIndex (a n : Nat) : (s.zeroRange a n).hssIndex = s.hssIndex := rfl
@[simp] theorem zeroRange_telemetry (a n : Nat) : (s.zeroRange a n).telemetry = s.telemetry := rfl
@[simp] theorem zeroRange_idle (a n : Nat) : (s.zeroRange a n).idle = s.idle := rfl
@[simp] theorem zeroRange_perf (a n : Nat) : (s.zeroRange a n).perf = s.perf := rfl
@[simp] theorem zeroRange_lastServed (a n : Nat) : (s.zeroRange a n).lastServed = s.lastServed := rfl

/-! ## The parts that they write -/

@[simp] theorem course_setCourse (h k : Nat) (x : Course) : (s.setCourse h x).course k = if h = k then x else s.course k :=
  Tab.get_put ..
@[simp] theorem team_setTeam (h k : Nat) (x : Team) : (s.setTeam h x).team k = if h = k then x else s.team k := Tab.get_put ..
@[simp] theorem grid_setGrid (h k : Nat) (x : Grid) : (s.setGrid h x).grid k = if h = k then x else s.grid k := Tab.get_put ..
@[simp] theorem context_setContext (h k : Nat) (x : Context) :
    (s.setContext h x).context k = if h = k then x else s.context k := Tab.get_put ..
@[simp] theorem core_setCore (h k : Nat) (x : Core) : (s.setCore h x).core k = if h = k then x else s.core k := Tab.get_put ..

theorem course_onCourse (h k : Nat) (f : Course → Course) :
    (s.onCourse h f).course k = if h = k then f (s.course h) else s.course k := course_setCourse ..
theorem team_onTeam (h k : Nat) (f : Team → Team) : (s.onTeam h f).team k = if h = k then f (s.team h) else s.team k :=
  team_setTeam ..
theorem context_onContext (h k : Nat) (f : Context → Context) :
    (s.onContext h f).context k = if h = k then f (s.context h) else s.context k := context_setContext ..
theorem core_onCore (h k : Nat) (f : Core → Core) : (s.onCore h f).core k = if h = k then f (s.core h) else s.core k :=
  core_setCore ..

@[simp] theorem course_onCourse_same (h : Nat) (f : Course → Course) : (s.onCourse h f).course h = f (s.course h) := by
  rw [course_onCourse, if_pos rfl]
@[simp] theorem team_onTeam_same (h : Nat) (f : Team → Team) : (s.onTeam h f).team h = f (s.team h) := by
  rw [team_onTeam, if_pos rfl]
@[simp] theorem context_onContext_same (h : Nat) (f : Context → Context) :
    (s.onContext h f).context h = f (s.context h) := by rw [context_onContext, if_pos rfl]
@[simp] theorem core_onCore_same (h : Nat) (f : Core → Core) : (s.onCore h f).core h = f (s.core h) := by
  rw [core_onCore, if_pos rfl]

/-- An event counter after one is set. -/
theorem event_setEvent (d k n x d' k' n' : Nat) : (s.setEvent d k n x).event d' k' n' =
    if evKey d k n = evKey d' k' n' then x % 2 ^ 64 else s.event d' k' n' := Tab.get_put ..

@[simp] theorem course_setTeam (h : Nat) (x : Team) (m : Nat) : (s.setTeam h x).course m = s.course m := rfl
@[simp] theorem course_setGrid (h : Nat) (x : Grid) (m : Nat) : (s.setGrid h x).course m = s.course m := rfl
@[simp] theorem course_setContext (h : Nat) (x : Context) (m : Nat) : (s.setContext h x).course m = s.course m := rfl
@[simp] theorem course_setCore (h : Nat) (x : Core) (m : Nat) : (s.setCore h x).course m = s.course m := rfl
@[simp] theorem course_onTeam (h : Nat) (f : Team → Team) (m : Nat) : (s.onTeam h f).course m = s.course m := rfl
@[simp] theorem course_onContext (h : Nat) (f : Context → Context) (m : Nat) : (s.onContext h f).course m = s.course m := rfl
@[simp] theorem course_onCore (h : Nat) (f : Core → Core) (m : Nat) : (s.onCore h f).course m = s.course m := rfl
@[simp] theorem course_onBay (h b : Nat) (f : Bay → Bay) (m : Nat) : (s.onBay h b f).course m = s.course m := rfl
@[simp] theorem course_setEvent (d k n x : Nat) (m : Nat) : (s.setEvent d k n x).course m = s.course m := rfl
@[simp] theorem course_count (a i k n : Nat) (m : Nat) : (s.count a i k n).course m = s.course m := rfl
@[simp] theorem course_memWrite (a : Nat) (x : List Byte) (bad : List Nat) (m : Nat) : (s.memWrite a x bad).course m = s.course m := rfl

@[simp] theorem team_setCourse (h : Nat) (x : Course) (m : Nat) : (s.setCourse h x).team m = s.team m := rfl
@[simp] theorem team_setGrid (h : Nat) (x : Grid) (m : Nat) : (s.setGrid h x).team m = s.team m := rfl
@[simp] theorem team_setContext (h : Nat) (x : Context) (m : Nat) : (s.setContext h x).team m = s.team m := rfl
@[simp] theorem team_setCore (h : Nat) (x : Core) (m : Nat) : (s.setCore h x).team m = s.team m := rfl
@[simp] theorem team_onCourse (h : Nat) (f : Course → Course) (m : Nat) : (s.onCourse h f).team m = s.team m := rfl
@[simp] theorem team_onContext (h : Nat) (f : Context → Context) (m : Nat) : (s.onContext h f).team m = s.team m := rfl
@[simp] theorem team_onCore (h : Nat) (f : Core → Core) (m : Nat) : (s.onCore h f).team m = s.team m := rfl
@[simp] theorem team_onBay (h b : Nat) (f : Bay → Bay) (m : Nat) : (s.onBay h b f).team m = s.team m := rfl
@[simp] theorem team_setEvent (d k n x : Nat) (m : Nat) : (s.setEvent d k n x).team m = s.team m := rfl
@[simp] theorem team_count (a i k n : Nat) (m : Nat) : (s.count a i k n).team m = s.team m := rfl
@[simp] theorem team_memWrite (a : Nat) (x : List Byte) (bad : List Nat) (m : Nat) : (s.memWrite a x bad).team m = s.team m := rfl

@[simp] theorem grid_setCourse (h : Nat) (x : Course) (m : Nat) : (s.setCourse h x).grid m = s.grid m := rfl
@[simp] theorem grid_setTeam (h : Nat) (x : Team) (m : Nat) : (s.setTeam h x).grid m = s.grid m := rfl
@[simp] theorem grid_setContext (h : Nat) (x : Context) (m : Nat) : (s.setContext h x).grid m = s.grid m := rfl
@[simp] theorem grid_setCore (h : Nat) (x : Core) (m : Nat) : (s.setCore h x).grid m = s.grid m := rfl
@[simp] theorem grid_onCourse (h : Nat) (f : Course → Course) (m : Nat) : (s.onCourse h f).grid m = s.grid m := rfl
@[simp] theorem grid_onTeam (h : Nat) (f : Team → Team) (m : Nat) : (s.onTeam h f).grid m = s.grid m := rfl
@[simp] theorem grid_onContext (h : Nat) (f : Context → Context) (m : Nat) : (s.onContext h f).grid m = s.grid m := rfl
@[simp] theorem grid_onCore (h : Nat) (f : Core → Core) (m : Nat) : (s.onCore h f).grid m = s.grid m := rfl
@[simp] theorem grid_onBay (h b : Nat) (f : Bay → Bay) (m : Nat) : (s.onBay h b f).grid m = s.grid m := rfl
@[simp] theorem grid_setEvent (d k n x : Nat) (m : Nat) : (s.setEvent d k n x).grid m = s.grid m := rfl
@[simp] theorem grid_count (a i k n : Nat) (m : Nat) : (s.count a i k n).grid m = s.grid m := rfl
@[simp] theorem grid_memWrite (a : Nat) (x : List Byte) (bad : List Nat) (m : Nat) : (s.memWrite a x bad).grid m = s.grid m := rfl

@[simp] theorem context_setCourse (h : Nat) (x : Course) (m : Nat) : (s.setCourse h x).context m = s.context m := rfl
@[simp] theorem context_setTeam (h : Nat) (x : Team) (m : Nat) : (s.setTeam h x).context m = s.context m := rfl
@[simp] theorem context_setGrid (h : Nat) (x : Grid) (m : Nat) : (s.setGrid h x).context m = s.context m := rfl
@[simp] theorem context_setCore (h : Nat) (x : Core) (m : Nat) : (s.setCore h x).context m = s.context m := rfl
@[simp] theorem context_onCourse (h : Nat) (f : Course → Course) (m : Nat) : (s.onCourse h f).context m = s.context m := rfl
@[simp] theorem context_onTeam (h : Nat) (f : Team → Team) (m : Nat) : (s.onTeam h f).context m = s.context m := rfl
@[simp] theorem context_onCore (h : Nat) (f : Core → Core) (m : Nat) : (s.onCore h f).context m = s.context m := rfl
@[simp] theorem context_onBay (h b : Nat) (f : Bay → Bay) (m : Nat) : (s.onBay h b f).context m = s.context m := rfl
@[simp] theorem context_setEvent (d k n x : Nat) (m : Nat) : (s.setEvent d k n x).context m = s.context m := rfl
@[simp] theorem context_count (a i k n : Nat) (m : Nat) : (s.count a i k n).context m = s.context m := rfl
@[simp] theorem context_memWrite (a : Nat) (x : List Byte) (bad : List Nat) (m : Nat) : (s.memWrite a x bad).context m = s.context m := rfl

@[simp] theorem core_setCourse (h : Nat) (x : Course) (m : Nat) : (s.setCourse h x).core m = s.core m := rfl
@[simp] theorem core_setTeam (h : Nat) (x : Team) (m : Nat) : (s.setTeam h x).core m = s.core m := rfl
@[simp] theorem core_setGrid (h : Nat) (x : Grid) (m : Nat) : (s.setGrid h x).core m = s.core m := rfl
@[simp] theorem core_setContext (h : Nat) (x : Context) (m : Nat) : (s.setContext h x).core m = s.core m := rfl
@[simp] theorem core_onCourse (h : Nat) (f : Course → Course) (m : Nat) : (s.onCourse h f).core m = s.core m := rfl
@[simp] theorem core_onTeam (h : Nat) (f : Team → Team) (m : Nat) : (s.onTeam h f).core m = s.core m := rfl
@[simp] theorem core_onContext (h : Nat) (f : Context → Context) (m : Nat) : (s.onContext h f).core m = s.core m := rfl
@[simp] theorem core_setEvent (d k n x : Nat) (m : Nat) : (s.setEvent d k n x).core m = s.core m := rfl
@[simp] theorem core_count (a i k n : Nat) (m : Nat) : (s.count a i k n).core m = s.core m := rfl
@[simp] theorem core_memWrite (a : Nat) (x : List Byte) (bad : List Nat) (m : Nat) : (s.memWrite a x bad).core m = s.core m := rfl

/-! ## Fields of a course -/

@[simp] theorem Course.setSlot_team (j : Nat) (x : Slot) : (c.setSlot j x).team = c.team := by unfold Course.setSlot; split <;> rfl
@[simp] theorem Course.setSlot_idx (j : Nat) (x : Slot) : (c.setSlot j x).idx = c.idx := by unfold Course.setSlot; split <;> rfl
@[simp] theorem Course.setSlot_core (j : Nat) (x : Slot) : (c.setSlot j x).core = c.core := by unfold Course.setSlot; split <;> rfl
@[simp] theorem Course.setSlot_bay (j : Nat) (x : Slot) : (c.setSlot j x).bay = c.bay := by unfold Course.setSlot; split <;> rfl
@[simp] theorem Course.setSlot_place (j : Nat) (x : Slot) : (c.setSlot j x).place = c.place := by unfold Course.setSlot; split <;> rfl
@[simp] theorem Course.setSlot_live (j : Nat) (x : Slot) : (c.setSlot j x).live = c.live := by unfold Course.setSlot; split <;> rfl
@[simp] theorem Course.setSlot_rejoin (j : Nat) (x : Slot) : (c.setSlot j x).rejoin = c.rejoin := by unfold Course.setSlot; split <;> rfl
@[simp] theorem Course.setSlot_pathCount (j : Nat) (x : Slot) : (c.setSlot j x).pathCount = c.pathCount := by unfold Course.setSlot; split <;> rfl
@[simp] theorem Course.setSlot_rejoinCount (j : Nat) (x : Slot) : (c.setSlot j x).rejoinCount = c.rejoinCount := by unfold Course.setSlot; split <;> rfl
@[simp] theorem Course.setSlot_pastEnd (j : Nat) (x : Slot) : (c.setSlot j x).pastEnd = c.pastEnd := by unfold Course.setSlot; split <;> rfl
@[simp] theorem Course.setSlot_spill (j : Nat) (x : Slot) : (c.setSlot j x).spill = c.spill := by unfold Course.setSlot; split <;> rfl
@[simp] theorem Course.setSlot_v (j : Nat) (x : Slot) : (c.setSlot j x).v = c.v := by unfold Course.setSlot; split <;> rfl
@[simp] theorem Course.setSlot_s (j : Nat) (x : Slot) : (c.setSlot j x).s = c.s := by unfold Course.setSlot; split <;> rfl
@[simp] theorem Course.setSlot_m (j : Nat) (x : Slot) : (c.setSlot j x).m = c.m := by unfold Course.setSlot; split <;> rfl
@[simp] theorem Course.setSlot_fm (j : Nat) (x : Slot) : (c.setSlot j x).fm = c.fm := by unfold Course.setSlot; split <;> rfl
@[simp] theorem Course.setSlot_d (j : Nat) (x : Slot) : (c.setSlot j x).d = c.d := by unfold Course.setSlot; split <;> rfl
@[simp] theorem Course.setSlot_tagCtr (j : Nat) (x : Slot) : (c.setSlot j x).tagCtr = c.tagCtr := by unfold Course.setSlot; split <;> rfl
@[simp] theorem Course.setSlot_flg (j : Nat) (x : Slot) : (c.setSlot j x).flg = c.flg := by unfold Course.setSlot; split <;> rfl
@[simp] theorem Course.setSlot_ctl (j : Nat) (x : Slot) : (c.setSlot j x).ctl = c.ctl := by unfold Course.setSlot; split <;> rfl
@[simp] theorem Course.setSlot_blocks (j : Nat) (x : Slot) : (c.setSlot j x).blocks = c.blocks := by unfold Course.setSlot; split <;> rfl
@[simp] theorem Course.setSlot_alu (j : Nat) (x : Slot) : (c.setSlot j x).alu = c.alu := by unfold Course.setSlot; split <;> rfl
@[simp] theorem Course.setSlot_pend (j : Nat) (x : Slot) : (c.setSlot j x).pend = c.pend := by unfold Course.setSlot; split <;> rfl
@[simp] theorem Course.setSlot_nextPend (j : Nat) (x : Slot) : (c.setSlot j x).nextPend = c.nextPend := by unfold Course.setSlot; split <;> rfl
@[simp] theorem Course.setSlot_refusals (j : Nat) (x : Slot) : (c.setSlot j x).refusals = c.refusals := by unfold Course.setSlot; split <;> rfl
@[simp] theorem Course.setSlot_eng (j : Nat) (x : Slot) : (c.setSlot j x).eng = c.eng := by unfold Course.setSlot; split <;> rfl
@[simp] theorem Course.setSlot_nextOp (j : Nat) (x : Slot) : (c.setSlot j x).nextOp = c.nextOp := by unfold Course.setSlot; split <;> rfl
@[simp] theorem Course.setSlot_openAcc (j : Nat) (x : Slot) : (c.setSlot j x).openAcc = c.openAcc := by unfold Course.setSlot; split <;> rfl
@[simp] theorem Course.setSlot_holds (j : Nat) (x : Slot) : (c.setSlot j x).holds = c.holds := by unfold Course.setSlot; split <;> rfl
@[simp] theorem Course.setSlot_sup (j : Nat) (x : Slot) : (c.setSlot j x).sup = c.sup := by unfold Course.setSlot; split <;> rfl
@[simp] theorem Course.setSlot_reenter (j : Nat) (x : Slot) : (c.setSlot j x).reenter = c.reenter := by unfold Course.setSlot; split <;> rfl
@[simp] theorem Course.setSlot_nextIssue (j : Nat) (x : Slot) : (c.setSlot j x).nextIssue = c.nextIssue := by unfold Course.setSlot; split <;> rfl
@[simp] theorem Course.setSlot_clArrivals (j : Nat) (x : Slot) : (c.setSlot j x).clArrivals = c.clArrivals := by unfold Course.setSlot; split <;> rfl
@[simp] theorem Course.setSlot_clMarks (j : Nat) (x : Slot) : (c.setSlot j x).clMarks = c.clMarks := by unfold Course.setSlot; split <;> rfl
@[simp] theorem Course.setSlot_fences (j : Nat) (x : Slot) : (c.setSlot j x).fences = c.fences := by unfold Course.setSlot; split <;> rfl

@[simp] theorem Course.onSlot_team (j : Nat) (f : Slot → Slot) : (c.onSlot j f).team = c.team := by unfold Course.onSlot Course.setSlot; split <;> rfl
@[simp] theorem Course.onSlot_idx (j : Nat) (f : Slot → Slot) : (c.onSlot j f).idx = c.idx := by unfold Course.onSlot Course.setSlot; split <;> rfl
@[simp] theorem Course.onSlot_core (j : Nat) (f : Slot → Slot) : (c.onSlot j f).core = c.core := by unfold Course.onSlot Course.setSlot; split <;> rfl
@[simp] theorem Course.onSlot_bay (j : Nat) (f : Slot → Slot) : (c.onSlot j f).bay = c.bay := by unfold Course.onSlot Course.setSlot; split <;> rfl
@[simp] theorem Course.onSlot_place (j : Nat) (f : Slot → Slot) : (c.onSlot j f).place = c.place := by unfold Course.onSlot Course.setSlot; split <;> rfl
@[simp] theorem Course.onSlot_live (j : Nat) (f : Slot → Slot) : (c.onSlot j f).live = c.live := by unfold Course.onSlot Course.setSlot; split <;> rfl
@[simp] theorem Course.onSlot_rejoin (j : Nat) (f : Slot → Slot) : (c.onSlot j f).rejoin = c.rejoin := by unfold Course.onSlot Course.setSlot; split <;> rfl
@[simp] theorem Course.onSlot_pathCount (j : Nat) (f : Slot → Slot) : (c.onSlot j f).pathCount = c.pathCount := by unfold Course.onSlot Course.setSlot; split <;> rfl
@[simp] theorem Course.onSlot_rejoinCount (j : Nat) (f : Slot → Slot) : (c.onSlot j f).rejoinCount = c.rejoinCount := by unfold Course.onSlot Course.setSlot; split <;> rfl
@[simp] theorem Course.onSlot_pastEnd (j : Nat) (f : Slot → Slot) : (c.onSlot j f).pastEnd = c.pastEnd := by unfold Course.onSlot Course.setSlot; split <;> rfl
@[simp] theorem Course.onSlot_spill (j : Nat) (f : Slot → Slot) : (c.onSlot j f).spill = c.spill := by unfold Course.onSlot Course.setSlot; split <;> rfl
@[simp] theorem Course.onSlot_v (j : Nat) (f : Slot → Slot) : (c.onSlot j f).v = c.v := by unfold Course.onSlot Course.setSlot; split <;> rfl
@[simp] theorem Course.onSlot_s (j : Nat) (f : Slot → Slot) : (c.onSlot j f).s = c.s := by unfold Course.onSlot Course.setSlot; split <;> rfl
@[simp] theorem Course.onSlot_m (j : Nat) (f : Slot → Slot) : (c.onSlot j f).m = c.m := by unfold Course.onSlot Course.setSlot; split <;> rfl
@[simp] theorem Course.onSlot_fm (j : Nat) (f : Slot → Slot) : (c.onSlot j f).fm = c.fm := by unfold Course.onSlot Course.setSlot; split <;> rfl
@[simp] theorem Course.onSlot_d (j : Nat) (f : Slot → Slot) : (c.onSlot j f).d = c.d := by unfold Course.onSlot Course.setSlot; split <;> rfl
@[simp] theorem Course.onSlot_tagCtr (j : Nat) (f : Slot → Slot) : (c.onSlot j f).tagCtr = c.tagCtr := by unfold Course.onSlot Course.setSlot; split <;> rfl
@[simp] theorem Course.onSlot_flg (j : Nat) (f : Slot → Slot) : (c.onSlot j f).flg = c.flg := by unfold Course.onSlot Course.setSlot; split <;> rfl
@[simp] theorem Course.onSlot_ctl (j : Nat) (f : Slot → Slot) : (c.onSlot j f).ctl = c.ctl := by unfold Course.onSlot Course.setSlot; split <;> rfl
@[simp] theorem Course.onSlot_blocks (j : Nat) (f : Slot → Slot) : (c.onSlot j f).blocks = c.blocks := by unfold Course.onSlot Course.setSlot; split <;> rfl
@[simp] theorem Course.onSlot_alu (j : Nat) (f : Slot → Slot) : (c.onSlot j f).alu = c.alu := by unfold Course.onSlot Course.setSlot; split <;> rfl
@[simp] theorem Course.onSlot_pend (j : Nat) (f : Slot → Slot) : (c.onSlot j f).pend = c.pend := by unfold Course.onSlot Course.setSlot; split <;> rfl
@[simp] theorem Course.onSlot_nextPend (j : Nat) (f : Slot → Slot) : (c.onSlot j f).nextPend = c.nextPend := by unfold Course.onSlot Course.setSlot; split <;> rfl
@[simp] theorem Course.onSlot_refusals (j : Nat) (f : Slot → Slot) : (c.onSlot j f).refusals = c.refusals := by unfold Course.onSlot Course.setSlot; split <;> rfl
@[simp] theorem Course.onSlot_eng (j : Nat) (f : Slot → Slot) : (c.onSlot j f).eng = c.eng := by unfold Course.onSlot Course.setSlot; split <;> rfl
@[simp] theorem Course.onSlot_nextOp (j : Nat) (f : Slot → Slot) : (c.onSlot j f).nextOp = c.nextOp := by unfold Course.onSlot Course.setSlot; split <;> rfl
@[simp] theorem Course.onSlot_openAcc (j : Nat) (f : Slot → Slot) : (c.onSlot j f).openAcc = c.openAcc := by unfold Course.onSlot Course.setSlot; split <;> rfl
@[simp] theorem Course.onSlot_holds (j : Nat) (f : Slot → Slot) : (c.onSlot j f).holds = c.holds := by unfold Course.onSlot Course.setSlot; split <;> rfl
@[simp] theorem Course.onSlot_sup (j : Nat) (f : Slot → Slot) : (c.onSlot j f).sup = c.sup := by unfold Course.onSlot Course.setSlot; split <;> rfl
@[simp] theorem Course.onSlot_reenter (j : Nat) (f : Slot → Slot) : (c.onSlot j f).reenter = c.reenter := by unfold Course.onSlot Course.setSlot; split <;> rfl
@[simp] theorem Course.onSlot_nextIssue (j : Nat) (f : Slot → Slot) : (c.onSlot j f).nextIssue = c.nextIssue := by unfold Course.onSlot Course.setSlot; split <;> rfl
@[simp] theorem Course.onSlot_clArrivals (j : Nat) (f : Slot → Slot) : (c.onSlot j f).clArrivals = c.clArrivals := by unfold Course.onSlot Course.setSlot; split <;> rfl
@[simp] theorem Course.onSlot_clMarks (j : Nat) (f : Slot → Slot) : (c.onSlot j f).clMarks = c.clMarks := by unfold Course.onSlot Course.setSlot; split <;> rfl
@[simp] theorem Course.onSlot_fences (j : Nat) (f : Slot → Slot) : (c.onSlot j f).fences = c.fences := by unfold Course.onSlot Course.setSlot; split <;> rfl

@[simp] theorem Course.setLane_team (sup : Bool) (n L : Nat) (x : Cell) : (c.setLane sup n L x).team = c.team := by cases sup <;> rfl
@[simp] theorem Course.setLane_idx (sup : Bool) (n L : Nat) (x : Cell) : (c.setLane sup n L x).idx = c.idx := by cases sup <;> rfl
@[simp] theorem Course.setLane_core (sup : Bool) (n L : Nat) (x : Cell) : (c.setLane sup n L x).core = c.core := by cases sup <;> rfl
@[simp] theorem Course.setLane_bay (sup : Bool) (n L : Nat) (x : Cell) : (c.setLane sup n L x).bay = c.bay := by cases sup <;> rfl
@[simp] theorem Course.setLane_place (sup : Bool) (n L : Nat) (x : Cell) : (c.setLane sup n L x).place = c.place := by cases sup <;> rfl
@[simp] theorem Course.setLane_slot0 (sup : Bool) (n L : Nat) (x : Cell) : (c.setLane sup n L x).slot0 = c.slot0 := by cases sup <;> rfl
@[simp] theorem Course.setLane_slot1 (sup : Bool) (n L : Nat) (x : Cell) : (c.setLane sup n L x).slot1 = c.slot1 := by cases sup <;> rfl
@[simp] theorem Course.setLane_live (sup : Bool) (n L : Nat) (x : Cell) : (c.setLane sup n L x).live = c.live := by cases sup <;> rfl
@[simp] theorem Course.setLane_rejoin (sup : Bool) (n L : Nat) (x : Cell) : (c.setLane sup n L x).rejoin = c.rejoin := by cases sup <;> rfl
@[simp] theorem Course.setLane_pathCount (sup : Bool) (n L : Nat) (x : Cell) : (c.setLane sup n L x).pathCount = c.pathCount := by cases sup <;> rfl
@[simp] theorem Course.setLane_rejoinCount (sup : Bool) (n L : Nat) (x : Cell) : (c.setLane sup n L x).rejoinCount = c.rejoinCount := by cases sup <;> rfl
@[simp] theorem Course.setLane_pastEnd (sup : Bool) (n L : Nat) (x : Cell) : (c.setLane sup n L x).pastEnd = c.pastEnd := by cases sup <;> rfl
@[simp] theorem Course.setLane_spill (sup : Bool) (n L : Nat) (x : Cell) : (c.setLane sup n L x).spill = c.spill := by cases sup <;> rfl
@[simp] theorem Course.setLane_s (sup : Bool) (n L : Nat) (x : Cell) : (c.setLane sup n L x).s = c.s := by cases sup <;> rfl
@[simp] theorem Course.setLane_m (sup : Bool) (n L : Nat) (x : Cell) : (c.setLane sup n L x).m = c.m := by cases sup <;> rfl
@[simp] theorem Course.setLane_fm (sup : Bool) (n L : Nat) (x : Cell) : (c.setLane sup n L x).fm = c.fm := by cases sup <;> rfl
@[simp] theorem Course.setLane_d (sup : Bool) (n L : Nat) (x : Cell) : (c.setLane sup n L x).d = c.d := by cases sup <;> rfl
@[simp] theorem Course.setLane_tagCtr (sup : Bool) (n L : Nat) (x : Cell) : (c.setLane sup n L x).tagCtr = c.tagCtr := by cases sup <;> rfl
@[simp] theorem Course.setLane_flg (sup : Bool) (n L : Nat) (x : Cell) : (c.setLane sup n L x).flg = c.flg := by cases sup <;> rfl
@[simp] theorem Course.setLane_ctl (sup : Bool) (n L : Nat) (x : Cell) : (c.setLane sup n L x).ctl = c.ctl := by cases sup <;> rfl
@[simp] theorem Course.setLane_blocks (sup : Bool) (n L : Nat) (x : Cell) : (c.setLane sup n L x).blocks = c.blocks := by cases sup <;> rfl
@[simp] theorem Course.setLane_alu (sup : Bool) (n L : Nat) (x : Cell) : (c.setLane sup n L x).alu = c.alu := by cases sup <;> rfl
@[simp] theorem Course.setLane_pend (sup : Bool) (n L : Nat) (x : Cell) : (c.setLane sup n L x).pend = c.pend := by cases sup <;> rfl
@[simp] theorem Course.setLane_nextPend (sup : Bool) (n L : Nat) (x : Cell) : (c.setLane sup n L x).nextPend = c.nextPend := by cases sup <;> rfl
@[simp] theorem Course.setLane_refusals (sup : Bool) (n L : Nat) (x : Cell) : (c.setLane sup n L x).refusals = c.refusals := by cases sup <;> rfl
@[simp] theorem Course.setLane_eng (sup : Bool) (n L : Nat) (x : Cell) : (c.setLane sup n L x).eng = c.eng := by cases sup <;> rfl
@[simp] theorem Course.setLane_nextOp (sup : Bool) (n L : Nat) (x : Cell) : (c.setLane sup n L x).nextOp = c.nextOp := by cases sup <;> rfl
@[simp] theorem Course.setLane_openAcc (sup : Bool) (n L : Nat) (x : Cell) : (c.setLane sup n L x).openAcc = c.openAcc := by cases sup <;> rfl
@[simp] theorem Course.setLane_holds (sup : Bool) (n L : Nat) (x : Cell) : (c.setLane sup n L x).holds = c.holds := by cases sup <;> rfl
@[simp] theorem Course.setLane_reenter (sup : Bool) (n L : Nat) (x : Cell) : (c.setLane sup n L x).reenter = c.reenter := by cases sup <;> rfl
@[simp] theorem Course.setLane_nextIssue (sup : Bool) (n L : Nat) (x : Cell) : (c.setLane sup n L x).nextIssue = c.nextIssue := by cases sup <;> rfl
@[simp] theorem Course.setLane_clArrivals (sup : Bool) (n L : Nat) (x : Cell) : (c.setLane sup n L x).clArrivals = c.clArrivals := by cases sup <;> rfl
@[simp] theorem Course.setLane_clMarks (sup : Bool) (n L : Nat) (x : Cell) : (c.setLane sup n L x).clMarks = c.clMarks := by cases sup <;> rfl
@[simp] theorem Course.setLane_fences (sup : Bool) (n L : Nat) (x : Cell) : (c.setLane sup n L x).fences = c.fences := by cases sup <;> rfl

@[simp] theorem Course.setUnif_team (sup : Bool) (n : Nat) (x : SCell) : (c.setUnif sup n x).team = c.team := by cases sup <;> rfl
@[simp] theorem Course.setUnif_idx (sup : Bool) (n : Nat) (x : SCell) : (c.setUnif sup n x).idx = c.idx := by cases sup <;> rfl
@[simp] theorem Course.setUnif_core (sup : Bool) (n : Nat) (x : SCell) : (c.setUnif sup n x).core = c.core := by cases sup <;> rfl
@[simp] theorem Course.setUnif_bay (sup : Bool) (n : Nat) (x : SCell) : (c.setUnif sup n x).bay = c.bay := by cases sup <;> rfl
@[simp] theorem Course.setUnif_place (sup : Bool) (n : Nat) (x : SCell) : (c.setUnif sup n x).place = c.place := by cases sup <;> rfl
@[simp] theorem Course.setUnif_slot0 (sup : Bool) (n : Nat) (x : SCell) : (c.setUnif sup n x).slot0 = c.slot0 := by cases sup <;> rfl
@[simp] theorem Course.setUnif_slot1 (sup : Bool) (n : Nat) (x : SCell) : (c.setUnif sup n x).slot1 = c.slot1 := by cases sup <;> rfl
@[simp] theorem Course.setUnif_live (sup : Bool) (n : Nat) (x : SCell) : (c.setUnif sup n x).live = c.live := by cases sup <;> rfl
@[simp] theorem Course.setUnif_rejoin (sup : Bool) (n : Nat) (x : SCell) : (c.setUnif sup n x).rejoin = c.rejoin := by cases sup <;> rfl
@[simp] theorem Course.setUnif_pathCount (sup : Bool) (n : Nat) (x : SCell) : (c.setUnif sup n x).pathCount = c.pathCount := by cases sup <;> rfl
@[simp] theorem Course.setUnif_rejoinCount (sup : Bool) (n : Nat) (x : SCell) : (c.setUnif sup n x).rejoinCount = c.rejoinCount := by cases sup <;> rfl
@[simp] theorem Course.setUnif_pastEnd (sup : Bool) (n : Nat) (x : SCell) : (c.setUnif sup n x).pastEnd = c.pastEnd := by cases sup <;> rfl
@[simp] theorem Course.setUnif_spill (sup : Bool) (n : Nat) (x : SCell) : (c.setUnif sup n x).spill = c.spill := by cases sup <;> rfl
@[simp] theorem Course.setUnif_v (sup : Bool) (n : Nat) (x : SCell) : (c.setUnif sup n x).v = c.v := by cases sup <;> rfl
@[simp] theorem Course.setUnif_m (sup : Bool) (n : Nat) (x : SCell) : (c.setUnif sup n x).m = c.m := by cases sup <;> rfl
@[simp] theorem Course.setUnif_fm (sup : Bool) (n : Nat) (x : SCell) : (c.setUnif sup n x).fm = c.fm := by cases sup <;> rfl
@[simp] theorem Course.setUnif_d (sup : Bool) (n : Nat) (x : SCell) : (c.setUnif sup n x).d = c.d := by cases sup <;> rfl
@[simp] theorem Course.setUnif_tagCtr (sup : Bool) (n : Nat) (x : SCell) : (c.setUnif sup n x).tagCtr = c.tagCtr := by cases sup <;> rfl
@[simp] theorem Course.setUnif_flg (sup : Bool) (n : Nat) (x : SCell) : (c.setUnif sup n x).flg = c.flg := by cases sup <;> rfl
@[simp] theorem Course.setUnif_ctl (sup : Bool) (n : Nat) (x : SCell) : (c.setUnif sup n x).ctl = c.ctl := by cases sup <;> rfl
@[simp] theorem Course.setUnif_blocks (sup : Bool) (n : Nat) (x : SCell) : (c.setUnif sup n x).blocks = c.blocks := by cases sup <;> rfl
@[simp] theorem Course.setUnif_alu (sup : Bool) (n : Nat) (x : SCell) : (c.setUnif sup n x).alu = c.alu := by cases sup <;> rfl
@[simp] theorem Course.setUnif_pend (sup : Bool) (n : Nat) (x : SCell) : (c.setUnif sup n x).pend = c.pend := by cases sup <;> rfl
@[simp] theorem Course.setUnif_nextPend (sup : Bool) (n : Nat) (x : SCell) : (c.setUnif sup n x).nextPend = c.nextPend := by cases sup <;> rfl
@[simp] theorem Course.setUnif_refusals (sup : Bool) (n : Nat) (x : SCell) : (c.setUnif sup n x).refusals = c.refusals := by cases sup <;> rfl
@[simp] theorem Course.setUnif_eng (sup : Bool) (n : Nat) (x : SCell) : (c.setUnif sup n x).eng = c.eng := by cases sup <;> rfl
@[simp] theorem Course.setUnif_nextOp (sup : Bool) (n : Nat) (x : SCell) : (c.setUnif sup n x).nextOp = c.nextOp := by cases sup <;> rfl
@[simp] theorem Course.setUnif_openAcc (sup : Bool) (n : Nat) (x : SCell) : (c.setUnif sup n x).openAcc = c.openAcc := by cases sup <;> rfl
@[simp] theorem Course.setUnif_holds (sup : Bool) (n : Nat) (x : SCell) : (c.setUnif sup n x).holds = c.holds := by cases sup <;> rfl
@[simp] theorem Course.setUnif_reenter (sup : Bool) (n : Nat) (x : SCell) : (c.setUnif sup n x).reenter = c.reenter := by cases sup <;> rfl
@[simp] theorem Course.setUnif_nextIssue (sup : Bool) (n : Nat) (x : SCell) : (c.setUnif sup n x).nextIssue = c.nextIssue := by cases sup <;> rfl
@[simp] theorem Course.setUnif_clArrivals (sup : Bool) (n : Nat) (x : SCell) : (c.setUnif sup n x).clArrivals = c.clArrivals := by cases sup <;> rfl
@[simp] theorem Course.setUnif_clMarks (sup : Bool) (n : Nat) (x : SCell) : (c.setUnif sup n x).clMarks = c.clMarks := by cases sup <;> rfl
@[simp] theorem Course.setUnif_fences (sup : Bool) (n : Nat) (x : SCell) : (c.setUnif sup n x).fences = c.fences := by cases sup <;> rfl

@[simp] theorem Course.setMask_team (n : Nat) (v b : Word) : (c.setMask n v b).team = c.team := by unfold Course.setMask; split <;> rfl
@[simp] theorem Course.setMask_idx (n : Nat) (v b : Word) : (c.setMask n v b).idx = c.idx := by unfold Course.setMask; split <;> rfl
@[simp] theorem Course.setMask_core (n : Nat) (v b : Word) : (c.setMask n v b).core = c.core := by unfold Course.setMask; split <;> rfl
@[simp] theorem Course.setMask_bay (n : Nat) (v b : Word) : (c.setMask n v b).bay = c.bay := by unfold Course.setMask; split <;> rfl
@[simp] theorem Course.setMask_place (n : Nat) (v b : Word) : (c.setMask n v b).place = c.place := by unfold Course.setMask; split <;> rfl
@[simp] theorem Course.setMask_slot0 (n : Nat) (v b : Word) : (c.setMask n v b).slot0 = c.slot0 := by unfold Course.setMask; split <;> rfl
@[simp] theorem Course.setMask_slot1 (n : Nat) (v b : Word) : (c.setMask n v b).slot1 = c.slot1 := by unfold Course.setMask; split <;> rfl
@[simp] theorem Course.setMask_live (n : Nat) (v b : Word) : (c.setMask n v b).live = c.live := by unfold Course.setMask; split <;> rfl
@[simp] theorem Course.setMask_rejoin (n : Nat) (v b : Word) : (c.setMask n v b).rejoin = c.rejoin := by unfold Course.setMask; split <;> rfl
@[simp] theorem Course.setMask_pathCount (n : Nat) (v b : Word) : (c.setMask n v b).pathCount = c.pathCount := by unfold Course.setMask; split <;> rfl
@[simp] theorem Course.setMask_rejoinCount (n : Nat) (v b : Word) : (c.setMask n v b).rejoinCount = c.rejoinCount := by unfold Course.setMask; split <;> rfl
@[simp] theorem Course.setMask_pastEnd (n : Nat) (v b : Word) : (c.setMask n v b).pastEnd = c.pastEnd := by unfold Course.setMask; split <;> rfl
@[simp] theorem Course.setMask_spill (n : Nat) (v b : Word) : (c.setMask n v b).spill = c.spill := by unfold Course.setMask; split <;> rfl
@[simp] theorem Course.setMask_v (n : Nat) (v b : Word) : (c.setMask n v b).v = c.v := by unfold Course.setMask; split <;> rfl
@[simp] theorem Course.setMask_s (n : Nat) (v b : Word) : (c.setMask n v b).s = c.s := by unfold Course.setMask; split <;> rfl
@[simp] theorem Course.setMask_fm (n : Nat) (v b : Word) : (c.setMask n v b).fm = c.fm := by unfold Course.setMask; split <;> rfl
@[simp] theorem Course.setMask_d (n : Nat) (v b : Word) : (c.setMask n v b).d = c.d := by unfold Course.setMask; split <;> rfl
@[simp] theorem Course.setMask_tagCtr (n : Nat) (v b : Word) : (c.setMask n v b).tagCtr = c.tagCtr := by unfold Course.setMask; split <;> rfl
@[simp] theorem Course.setMask_flg (n : Nat) (v b : Word) : (c.setMask n v b).flg = c.flg := by unfold Course.setMask; split <;> rfl
@[simp] theorem Course.setMask_ctl (n : Nat) (v b : Word) : (c.setMask n v b).ctl = c.ctl := by unfold Course.setMask; split <;> rfl
@[simp] theorem Course.setMask_blocks (n : Nat) (v b : Word) : (c.setMask n v b).blocks = c.blocks := by unfold Course.setMask; split <;> rfl
@[simp] theorem Course.setMask_alu (n : Nat) (v b : Word) : (c.setMask n v b).alu = c.alu := by unfold Course.setMask; split <;> rfl
@[simp] theorem Course.setMask_pend (n : Nat) (v b : Word) : (c.setMask n v b).pend = c.pend := by unfold Course.setMask; split <;> rfl
@[simp] theorem Course.setMask_nextPend (n : Nat) (v b : Word) : (c.setMask n v b).nextPend = c.nextPend := by unfold Course.setMask; split <;> rfl
@[simp] theorem Course.setMask_refusals (n : Nat) (v b : Word) : (c.setMask n v b).refusals = c.refusals := by unfold Course.setMask; split <;> rfl
@[simp] theorem Course.setMask_eng (n : Nat) (v b : Word) : (c.setMask n v b).eng = c.eng := by unfold Course.setMask; split <;> rfl
@[simp] theorem Course.setMask_nextOp (n : Nat) (v b : Word) : (c.setMask n v b).nextOp = c.nextOp := by unfold Course.setMask; split <;> rfl
@[simp] theorem Course.setMask_openAcc (n : Nat) (v b : Word) : (c.setMask n v b).openAcc = c.openAcc := by unfold Course.setMask; split <;> rfl
@[simp] theorem Course.setMask_holds (n : Nat) (v b : Word) : (c.setMask n v b).holds = c.holds := by unfold Course.setMask; split <;> rfl
@[simp] theorem Course.setMask_sup (n : Nat) (v b : Word) : (c.setMask n v b).sup = c.sup := by unfold Course.setMask; split <;> rfl
@[simp] theorem Course.setMask_reenter (n : Nat) (v b : Word) : (c.setMask n v b).reenter = c.reenter := by unfold Course.setMask; split <;> rfl
@[simp] theorem Course.setMask_nextIssue (n : Nat) (v b : Word) : (c.setMask n v b).nextIssue = c.nextIssue := by unfold Course.setMask; split <;> rfl
@[simp] theorem Course.setMask_clArrivals (n : Nat) (v b : Word) : (c.setMask n v b).clArrivals = c.clArrivals := by unfold Course.setMask; split <;> rfl
@[simp] theorem Course.setMask_clMarks (n : Nat) (v b : Word) : (c.setMask n v b).clMarks = c.clMarks := by unfold Course.setMask; split <;> rfl
@[simp] theorem Course.setMask_fences (n : Nat) (v b : Word) : (c.setMask n v b).fences = c.fences := by unfold Course.setMask; split <;> rfl

/-- A slot after one is written. -/
theorem Course.slotN_setSlot (j k : Nat) (x : Slot) (hj : j < 2) (hk : k < 2) :
    (c.setSlot j x).slotN k = if j = k then x else c.slotN k := by
  obtain rfl | rfl : j = 0 ∨ j = 1 := by omega
  all_goals obtain rfl | rfl : k = 0 ∨ k = 1 := by omega
  all_goals rfl

@[simp] theorem Course.slotN_setSlot_same (j : Nat) (x : Slot) : (c.setSlot j x).slotN j = x := by
  unfold Course.setSlot Course.slotN; split <;> simp [*]

@[simp] theorem Course.slotN_onSlot_same (j : Nat) (f : Slot → Slot) : (c.onSlot j f).slotN j = f (c.slotN j) :=
  Course.slotN_setSlot_same ..

theorem cellKey_inj {n L n' L' : Nat} (hL : L < 32) (hL' : L' < 32) : cellKey n L = cellKey n' L' ↔ n = n' ∧ L = L' := by
  unfold cellKey; omega

/-- A lane register after one is written, in a file that is there. -/
theorem Course.laneCell_setLane (sup : Bool) (n L k M : Nat) (x : Cell) (h : sup = true → c.sup.isSome = true) (hL : L < 32)
    (hM : M < 32) : (c.setLane sup n L x).laneCell sup k M = if n = k ∧ L = M then x else c.laneCell sup k M := by
  cases sup
  · simp [Course.setLane, Course.laneCell, Course.laneFile, Tab.get_put, cellKey_inj hL hM]
  · cases hs : c.sup with
    | none => simp [hs] at h
    | some u => simp [Course.setLane, Course.laneCell, Course.laneFile, hs, Tab.get_put, cellKey_inj hL hM]

/-- A uniform register after one is written, in a file that is there. -/
theorem Course.unifCell_setUnif (sup : Bool) (n k : Nat) (x : SCell) (h : sup = true → c.sup.isSome = true) :
    (c.setUnif sup n x).unifCell sup k = if n = k then x else c.unifCell sup k := by
  cases sup
  · simp [Course.setUnif, Course.unifCell, Course.unifFile, Tab.get_put]
  · cases hs : c.sup with
    | none => simp [hs] at h
    | some u => simp [Course.setUnif, Course.unifCell, Course.unifFile, hs, Tab.get_put]

/-- A lane register of the other file is as it was. -/
theorem Course.laneCell_setLane_other (sup sup' : Bool) (n L k M : Nat) (x : Cell) (h : sup' ≠ sup) :
    (c.setLane sup n L x).laneCell sup' k M = c.laneCell sup' k M := by
  cases sup <;> cases sup' <;> try contradiction
  · rfl
  · rfl

/-- A uniform register is as it was when a lane register is written, and the other way round. -/
@[simp] theorem Course.unifCell_setLane (sup sup' : Bool) (n L k : Nat) (x : Cell) :
    (c.setLane sup n L x).unifCell sup' k = c.unifCell sup' k := by
  cases sup <;> cases sup' <;> try rfl
  cases hs : c.sup <;> simp [Course.setLane, Course.unifCell, Course.unifFile, hs]
@[simp] theorem Course.laneCell_setUnif (sup sup' : Bool) (n k M : Nat) (x : SCell) :
    (c.setUnif sup n x).laneCell sup' k M = c.laneCell sup' k M := by
  cases sup <;> cases sup' <;> try rfl
  cases hs : c.sup <;> simp [Course.setUnif, Course.laneCell, Course.laneFile, hs]

end Sys2Proof.Machine
end

