-- ==== Sys2Proof/Laws/Channel.lean ====
section
/-! SUPPORT. Channels and streams, said once: reading what a change of a channel or a stream leaves, taking a message that is
in flight, and what a channel word comes to whose lanes pass the checks of R300. -/

namespace Sys2Proof.Machine

/-! ## Reading a changed channel -/

/-- Changing one channel of one team changes that channel only. -/
@[simp] theorem chan_onChan (s : State) (team ch : Nat) (f : Chan → Chan) (h k : Nat) :
    (s.onChan team ch f).chan h k = if team = h ∧ ch = k then f (s.chan h k) else s.chan h k := by
  simp only [State.chan, State.onChan, State.onTeam, team_setTeam]
  by_cases hh : team = h
  · subst hh; by_cases hk : ch = k
    · subst hk; simp
    · simp [Tab.get_put, hk]
  · simp [hh]

/-- Changing a channel leaves the messages in flight. -/
@[simp] theorem net_onChan (s : State) (team ch : Nat) (f : Chan → Chan) : (s.onChan team ch f).net = s.net := rfl

/-- Changing a channel leaves the time. -/
@[simp] theorem clock_onChan (s : State) (team ch : Nat) (f : Chan → Chan) : (s.onChan team ch f).clock = s.clock := rfl

/-- Changing a channel leaves the number of the issue. -/
@[simp] theorem stamp_onChan (s : State) (team ch : Nat) (f : Chan → Chan) : (s.onChan team ch f).stamp = s.stamp := rfl

/-- A stream read after a change that keeps its destination. -/
theorem stream_onStream (c : Chan) (d : Dest) {f : Stream → Stream} (hf : ∀ y, (f y).dest = y.dest) :
    (c.onStream d f).stream d = f (c.stream d) := by
  simp only [Chan.onStream, Chan.stream]
  induction c.streams with
  | nil => simp [onStreamOf, hf]
  | cons a t ih =>
    by_cases ha : a.dest = d
    · simp [onStreamOf, ha, hf]
    · simpa [onStreamOf, ha] using ih

/-- The moment of an operation's end is no part of a stream. -/
@[simp] theorem stream_noteDone (c : Chan) (d e : Dest) (n : Nat) : (c.noteDone d n).stream e = c.stream e := rfl

/-! ## Messages -/

/-- A message in flight is taken. -/
theorem takeNet_mem {s : State} {m : NetMsg} (b : Bool) (h : m ∈ s.net) :
    s.takeNet m b = some { s with net := s.net.erase m } := by simp [State.takeNet, h]

/-- An answer in flight to a stream of this package is taken. -/
theorem takeBack_mem {s : State} {m : NetMsg} {k : StreamKey} (b : Bool) (h : m ∈ s.net) (hk : k.chip = s.chip) :
    s.takeBack m k b = some { s with net := s.net.erase m } := by simp [State.takeBack, hk, takeNet_mem b h]

/-- A stream whose source is a team here is one of this package. -/
theorem ownStream_chip {s : State} {k : StreamKey} (h : s.ownStream k = true) : k.chip = s.chip := by
  simp only [State.ownStream, Bool.and_eq_true, beq_iff_eq] at h; exact h.1.1

/-! ## Channel words -/

/-- The lanes of a channel word with their addresses and homes, after the checks of R300. -/
theorem writeChecks_clear {s : State} {x : Ctx} {i : Instr} {m : MWord} {ntf : Bool} {f : Course → List Item → Res}
    (h0 : x.act ≠ 0#32) (h1 : (s.chan (s.issuer x).team m.ch.toNat).cause = 0)
    (h2 : ntf = true → MWord.counter m < (s.lrOf (s.issuer x)).events) (h3 : s.poisoned (s.issuer x) x i.fields = none)
    (h4 : ∀ L ∈ lanesOf x.act, s.chanAddr x (s.issuer x) m ntf L % (m.size.bytes : Int) = 0 ∧
      0 ≤ s.chanAddr x (s.issuer x) m ntf L ∧ s.chanAddr x (s.issuer x) m ntf L + m.size.bytes ≤ (2 ^ 52 : Nat))
    (h5 : s.checkPages (s.ctxOf (s.issuer x)) (x.trap 0) true
      ((lanesOf x.act).map (fun L => ⟨L, (s.chanAddr x (s.issuer x) m ntf L).toNat, 2, .any⟩)) = .ok) :
    s.writeChecks x i m ntf f = f (s.issuer x) ((lanesOf x.act).map (fun L =>
      let h := s.home (s.ctxOf (s.issuer x)) (s.chanAddr x (s.issuer x) m ntf L).toNat
      ⟨L, (s.chanAddr x (s.issuer x) m ntf L).toNat, h.1, h.2⟩)) := by
  have e1 : (lanesOf x.act).find? (fun L => s.chanAddr x (s.issuer x) m ntf L % (m.size.bytes : Int) ≠ 0) = none := by
    simp only [List.find?_eq_none]; intro L hL; simp [(h4 L hL).1]
  have e2 : (lanesOf x.act).find? (fun L => s.chanAddr x (s.issuer x) m ntf L < 0 ||
      (Config.addrLimit : Int) < s.chanAddr x (s.issuer x) m ntf L + m.size.bytes) = none := by
    simp only [List.find?_eq_none]; intro L hL
    have := h4 L hL
    have e : ((Config.addrLimit : Nat) : Int) = 4503599627370496 := rfl
    simp only [Bool.or_eq_true, decide_eq_true_eq]; rw [e]; omega
  have e3 : (ntf && decide ((s.lrOf (s.issuer x)).events ≤ MWord.counter m)) = false := by
    cases ntf <;> simp; simpa using h2
  unfold State.writeChecks
  simp only [h0, if_false, h1, ne_eq, not_true, h3, e3]
  simp only [Ctx.addrCheck, e1, e2, Option.map_none]
  simp [then_ok h5]

/-- A channel word whose packets have room, and which notes nothing in them. -/
theorem sendWord_room {s : State} {team ch : Nat} {rel : Bool} {ntf : Option Nat} {groups : List (Dest × List PacketBody)}
    (h : s.roomFor team ch rel (groups.map (fun g => (g.1, g.2.length))) = true) :
    let t := if rel then s.release team ch else s
    s.sendWord team ch rel ntf groups (fun s q => (s, q)) =
      .go (((t.placePackets team ch (groups.flatMap (t.drafts team ch (t.nextOpOf team) ntf (groups.map (fun g => g.1))))).bumpOp
        team).pump team) := by
  have e : ∀ (l : List OutPacket) (a : State × List OutPacket),
      l.foldl (fun (a : State × List OutPacket) q => (a.1, a.2 ++ [q])) a = (a.1, a.2 ++ l) := by
    intro l; induction l with
    | nil => simp
    | cons b t ih => intro a; simp [ih]
  unfold State.sendWord
  simp only [h, Bool.not_true, Bool.false_eq_true, if_false, e]
  rfl

end Sys2Proof.Machine
end

