-- ==== Sys2Proof/Laws/Memory.lean ====
section
/-! SUPPORT. Byte memories: a byte that is written is read back and no other byte changes, whatever the memory lists; and
every operation on a memory keeps its canonical form. -/

namespace Sys2Proof.Machine

/-- A byte read after a byte is written. -/
theorem cellAt_cellPut (m : List Host.Cell) (n k : Nat) (x : Byte) :
    cellAt (cellPut m n x) k = if n = k then x else cellAt m k := by
  induction m with
  | nil => simp only [cellPut]; split <;> simp_all [cellAt]
  | cons e t ih =>
    obtain ⟨a, b⟩ := e
    simp only [cellPut]
    split
    · split
      · subst a; rw [ih, cellAt]; split <;> simp_all
      · simp only [cellAt, ih]; split
        · subst a; rw [if_neg (by omega)]
        · rfl
    · split
      · subst a; simp only [cellAt]; split <;> rfl
      · split
        · simp only [cellAt]
        · simp only [cellAt, ih]; split
          · subst a; rw [if_neg (by omega)]
          · rfl

/-- A byte read after bytes are written. -/
theorem cellAt_cellsPut (m : List Host.Cell) (a k : Nat) (x : List Byte) :
    cellAt (cellsPut m a x) k = if a ≤ k ∧ k < a + x.length then x.getD (k - a) 0#8 else cellAt m k := by
  induction x generalizing m a with
  | nil => simp only [cellsPut, List.length_nil]; rw [if_neg (by omega)]
  | cons b t ih =>
    rw [cellsPut, ih, cellAt_cellPut]
    simp only [List.length_cons]
    by_cases h1 : a = k
    · subst h1; rw [if_neg (by omega), if_pos rfl, if_pos (by omega)]; simp
    · by_cases h2 : a + 1 ≤ k ∧ k < a + 1 + t.length
      · rw [if_pos h2, if_pos (by omega)]
        obtain ⟨d, rfl⟩ : ∃ d, k = a + 1 + d := ⟨k - (a + 1), by omega⟩
        rw [show a + 1 + d - a = d + 1 by omega, show a + 1 + d - (a + 1) = d by omega]; simp
      · rw [if_neg h2, if_neg h1, if_neg (by omega)]

/-- Every listed address of a canonical memory is above a bound. -/
theorem Memory.wf_cons_iff (a : Nat) (b : Byte) (t : List Host.Cell) : Memory.wf ((a, b) :: t) = true ↔
    b ≠ 0#8 ∧ (∀ e ∈ t, a < e.1) ∧ Memory.wf t = true := by
  induction t generalizing a b with
  | nil => simp [Memory.wf]
  | cons e t ih =>
    obtain ⟨a', b'⟩ := e
    rw [Memory.wf]
    simp only [Bool.and_eq_true, bne_iff_ne, ne_eq, decide_eq_true_eq]
    constructor
    · rintro ⟨⟨h1, h2⟩, h3⟩
      refine ⟨h1, fun e he => ?_, h3⟩
      rcases List.mem_cons.1 he with rfl | he
      · exact h2
      · exact Nat.lt_trans h2 (((ih a' b').1 h3).2.1 e he)
    · rintro ⟨h1, h2, h3⟩
      exact ⟨⟨h1, h2 (a', b') (by simp)⟩, h3⟩

theorem mem_cellPut {m : List Host.Cell} {n : Nat} {x : Byte} {e : Host.Cell} (h : e ∈ cellPut m n x) : e ∈ m ∨ e = (n, x) := by
  induction m with
  | nil => simp only [cellPut] at h; split at h <;> simp_all
  | cons c t ih =>
    obtain ⟨a, b⟩ := c
    simp only [cellPut] at h
    split at h
    · split at h
      · rcases ih h with h | h <;> simp [h]
      · rcases List.mem_cons.1 h with h | h
        · simp [h]
        · rcases ih h with h | h <;> simp [h]
    · split at h
      · rcases List.mem_cons.1 h with h | h <;> simp [h]
      · split at h
        · rcases List.mem_cons.1 h with h | h
          · simp [h]
          · exact .inl h
        · rcases List.mem_cons.1 h with h | h
          · simp [h]
          · rcases ih h with h | h <;> simp [h]

/-- Writing a byte keeps the canonical form. -/
theorem wf_cellPut {m : List Host.Cell} (n : Nat) (x : Byte) (h : Memory.wf m = true) : Memory.wf (cellPut m n x) = true := by
  induction m with
  | nil =>
    simp only [cellPut]
    split
    · rfl
    · simp_all [Memory.wf]
  | cons c t ih =>
    obtain ⟨a, b⟩ := c
    obtain ⟨h1, h2, h3⟩ := (Memory.wf_cons_iff a b t).1 h
    simp only [cellPut]
    split
    · rename_i hx
      split
      · exact ih h3
      · rename_i ha
        refine (Memory.wf_cons_iff _ _ _).2 ⟨h1, fun e he => ?_, ih h3⟩
        rcases mem_cellPut he with he | rfl
        · exact h2 e he
        · exfalso
          have : ∀ m : List Host.Cell, (n, (0#8 : Byte)) ∈ cellPut m n 0#8 → False := by
            intro m
            induction m with
            | nil => simp [cellPut]
            | cons c t ih =>
              obtain ⟨a, b⟩ := c
              simp only [cellPut, if_pos]
              split
              · exact ih
              · intro hm
                rcases List.mem_cons.1 hm with hm | hm
                · simp_all
                · exact ih hm
          subst hx; exact this _ he
    · rename_i hx
      split
      · exact (Memory.wf_cons_iff _ _ _).2 ⟨hx, by subst_vars; exact h2, h3⟩
      · split
        · rename_i hn
          refine (Memory.wf_cons_iff _ _ _).2 ⟨hx, fun e he => ?_, h⟩
          rcases List.mem_cons.1 he with rfl | he
          · exact hn
          · exact Nat.lt_trans hn (h2 e he)
        · refine (Memory.wf_cons_iff _ _ _).2 ⟨h1, fun e he => ?_, ih h3⟩
          rcases mem_cellPut he with he | rfl
          · exact h2 e he
          · show a < n; omega

/-- Writing bytes keeps the canonical form. -/
theorem wf_cellsPut (m : List Host.Cell) (a : Nat) (x : List Byte) (h : Memory.wf m = true) : Memory.wf (cellsPut m a x) = true := by
  induction x generalizing m a with
  | nil => exact h
  | cons b t ih => exact ih _ _ (wf_cellPut _ _ h)

/-- Dropping bytes keeps the canonical form. -/
theorem wf_filter (m : List Host.Cell) (p : Host.Cell → Bool) (h : Memory.wf m = true) : Memory.wf (m.filter p) = true := by
  induction m with
  | nil => rfl
  | cons c t ih =>
    obtain ⟨a, b⟩ := c
    obtain ⟨h1, h2, h3⟩ := (Memory.wf_cons_iff a b t).1 h
    rw [List.filter_cons]
    split
    · exact (Memory.wf_cons_iff _ _ _).2 ⟨h1, fun e he => h2 e (List.mem_filter.1 he).1, ih h3⟩
    · exact ih h3

theorem wf_foldr_cellPut (l m : List Host.Cell) (f : Nat → Nat) (h : Memory.wf m = true) :
    Memory.wf (l.foldr (fun c m => cellPut m (f c.1) c.2) m) = true := by
  induction l with
  | nil => exact h
  | cons c t ih => exact wf_cellPut _ _ ih

/-! ## The operations of the package -/

theorem memRead_one (s : State) (a : Nat) : s.memRead a 1 = [cellAt s.mem a] := by simp [State.memRead, cellsAt]

/-- Main memory after a store. -/
theorem memRead_memWrite (s : State) (a k : Nat) (x : List Byte) (bad : List Nat) : (s.memWrite a x bad).memRead k 1 =
    if a ≤ k ∧ k < a + x.length then [x.getD (k - a) 0#8] else s.memRead k 1 := by
  simp only [memRead_one, State.memWrite, cellAt_cellsPut]; split <;> rfl

/-- A block after a store. -/
theorem read_write (b : Block) (a k : Nat) (x : List Byte) (bad : List Nat) : (b.write a x bad).read k 1 =
    if a ≤ k ∧ k < a + x.length then [x.getD (k - a) 0#8] else b.read k 1 := by
  simp [Block.read, Block.write, cellsAt, cellAt_cellsPut]; split <;> rfl

theorem cellAt_filter (m : List Host.Cell) (p : Nat → Bool) (k : Nat) :
    cellAt (m.filter (fun c => p c.1)) k = if p k then cellAt m k else 0#8 := by
  induction m with
  | nil => simp [cellAt]
  | cons c t ih =>
    obtain ⟨a, b⟩ := c
    rw [List.filter_cons]
    by_cases h : p a = true
    · rw [if_pos (by simpa using h), cellAt, ih, cellAt]
      by_cases ha : a = k
      · subst ha; simp [h]
      · simp [ha]
    · rw [if_neg (by simpa using h), ih, cellAt]
      by_cases ha : a = k
      · subst ha; simp [h]
      · simp [ha]

/-- Main memory after a range is zeroed. -/
theorem memRead_zeroRange (s : State) (a n k : Nat) : (s.zeroRange a n).memRead k 1 =
    if a ≤ k ∧ k < a + n then [0#8] else s.memRead k 1 := by
  simp only [memRead_one, State.zeroRange]
  rw [cellAt_filter s.mem (fun c => !(decide (a ≤ c) && decide (c < a + n)))]
  by_cases h : a ≤ k ∧ k < a + n
  · rw [if_pos h]; simp [h]
  · rw [if_neg h, if_pos (by simp; omega)]

theorem wf_memWrite (s : State) (a : Nat) (x : List Byte) (bad : List Nat) (h : Memory.wf s.mem = true) :
    Memory.wf (s.memWrite a x bad).mem = true := wf_cellsPut _ _ _ h

theorem wf_blockWrite (b : Block) (a : Nat) (x : List Byte) (bad : List Nat) (h : Memory.wf b.mem = true) :
    Memory.wf (b.write a x bad).mem = true := wf_cellsPut _ _ _ h

theorem wf_zeroRange (s : State) (a n : Nat) (h : Memory.wf s.mem = true) : Memory.wf (s.zeroRange a n).mem = true := wf_filter _ _ h

theorem wf_copyRange (s : State) (a b n : Nat) (h : Memory.wf s.mem = true) : Memory.wf (s.copyRange a b n).mem = true :=
  wf_foldr_cellPut _ _ (fun k => k - a + b) (wf_zeroRange _ _ _ h)

/-- A local memory written keeps the canonical form of main memory, which holds the spill areas. -/
theorem wf_setSpace (s : State) (sp : Space) (b : Block) (h : Memory.wf s.mem = true) (hb : Memory.wf b.mem = true) :
    Memory.wf (s.setSpace sp b).mem = true := by cases sp <;> first | exact h | exact hb

theorem wf_reset : Memory.wf State.reset.mem = true := rfl

/-! ## Sorted lists -/

theorem mem_insertBy {α : Type} (le : α → α → Bool) (a x : α) (l : List α) : x ∈ insertBy le a l ↔ x = a ∨ x ∈ l := by
  induction l with
  | nil => simp [insertBy]
  | cons b t ih =>
    simp only [insertBy]
    split
    · simp
    · simp [ih, or_left_comm]

/-- A sorted list has the items of the list. -/
@[simp] theorem mem_sortBy {α : Type} (le : α → α → Bool) (x : α) (l : List α) : x ∈ sortBy le l ↔ x ∈ l := by
  induction l with
  | nil => simp [sortBy]
  | cons a t ih => simp [sortBy, mem_insertBy, ih]

theorem length_insertBy {α : Type} (le : α → α → Bool) (a : α) (l : List α) : (insertBy le a l).length = l.length + 1 := by
  induction l with
  | nil => rfl
  | cons b t ih =>
    simp only [insertBy]
    split
    · rfl
    · simp [ih]

@[simp] theorem length_sortBy {α : Type} (le : α → α → Bool) (l : List α) : (sortBy le l).length = l.length := by
  induction l with
  | nil => rfl
  | cons a t ih => simp [sortBy, length_insertBy, ih]

end Sys2Proof.Machine
end

