-- ==== Sys2Proof/Tests/Slice0.lean ====
section
/-! SUPPORT. Tests: the decoder on words that the spec writes out, or that are put together by hand from its encoding
tables (R67, R70, R71, R88 and the table of each chapter); ill-formed terms, which the checks refuse; and a state and
operands that meet the hypotheses of each statement. -/

set_option Elab.async false

namespace Sys2Proof.Tests

open Sys2Proof Sys2Proof.Machine

/-! ## Decoding -/

/-- A head whose every bit is 0. -/
def h0 : Head := ⟨false, 0#3, false, false, 0#3, false⟩
/-- The same under mask register m1. -/
def h1 : Head := { h0 with mask := 1#3 }
/-- A lane-register operand. -/
def v (n : Nat) : Operand := ⟨.lane, BitVec.ofNat 8 n⟩
/-- A uniform-register operand. -/
def s (n : Nat) : Operand := ⟨.unif, BitVec.ofNat 8 n⟩
/-- An immediate operand. -/
def k (n : Nat) : Operand := ⟨.imm, BitVec.ofNat 8 n⟩
/-- A special source. -/
def x (n : Nat) : Operand := ⟨.special, BitVec.ofNat 8 n⟩
/-- A format-R word. -/
def r (d : Nat) (a b c : Operand) (u : Bool) : RWord := ⟨h0, BitVec.ofNat 8 d, a, b, c, u⟩
/-- A format-M word. -/
def m (ds base ch : Nat) (size : Size) (bk : Bool) (ofs : Nat) : MWord :=
  ⟨h0, BitVec.ofNat 8 ds, BitVec.ofNat 8 base, BitVec.ofNat 4 ch, size, bk, BitVec.ofNat 16 ofs⟩

/-- The decoder reads the word as the instruction. -/
def decodes (p : BitVec 64 × Instr) : Bool :=
  match decodeWord p.1 with
  | .ok i => decide (i = p.2)
  | .error _ => false

/-- The decoder refuses the word for a reason. -/
def refuses (w : BitVec 64) (e : DecodeError) : Bool :=
  match decodeWord w with
  | .ok _ => false
  | .error e' => decide (e' = e)

/-- Words of the control family. -/
def controlWords : List (BitVec 64 × Instr) :=
  [(0x0000000000000000#64, .ill h0 0#46),
   (0x0004000000000000#64, .nop h0),
   (0x000800CD00000003#64, .bra h0 (.lane 3#8 .lt) 3#32),
   (0x0008000000000002#64, .bra h0 .always 2#32),
   (0x0008034EFFFFFFDB#64, .bra h0 (.unif 13#8 .lt) 0xFFFFFFDB#32),
   (0x0008009700000007#64, .bra h0 (.mask 2#8 .none) 7#32),
   (0x0010008100000009#64, .call h0 true 2#8 9#32),
   (0x0010018000000009#64, .call h0 false 6#8 9#32),
   (0x0018000000000005#64, .jmark h0 5#32),
   (0x001C000000000000#64, .join h0),
   (0x0020000000000000#64, .endLanes h0),
   (0x002400040000000A#64, .ipf h0 none 1 10#32),
   (0x0024013D00000008#64, .ipf h0 (some 4#8) 15 8#32),
   (0x004C028101C01880#64, .launch (r 10 (s 4) (k 7) (v 0) true)),
   (0x000C000180000000#64, .brx (r 0 (v 6) (v 0) (v 0) false)),
   (0x0014000180001000#64, .ret (r 0 (s 6) (v 0) (v 0) false)),
   (0x002801C0C0000000#64, .refill (r 7 (v 3) (v 0) (v 0) false)),
   (0x002C024100000080#64, .ipush (r 9 (v 4) (v 0) (v 0) true)),
   (0x0030000140002080#64, .vacq (r 0 (k 5) (v 0) (v 0) true)),
   (0x0030024140002081#64, .vacqNb (r 9 (k 5) (v 0) (v 0) true)),
   (0x0034000140002080#64, .vrel (r 0 (k 5) (v 0) (v 0) true))]

/-- Words of the barriers family. -/
def barriersWords : List (BitVec 64 × Instr) :=
  [(0x0038000040400880#64, .barinit (r 0 (v 1) (k 1) (v 0) true)),
   (0x003C018040400881#64, .arrive (r 6 (v 1) (k 1) (v 0) true) true),
   (0x0040000040000880#64, .bwait (r 0 (v 1) (k 0) (v 0) true)),
   (0x0044000100001080#64, .waitc (r 0 (s 4) (v 0) (v 0) true) .copy),
   (0x0044000000002081#64, .waitc (r 0 (k 0) (v 0) (v 0) true) .mat),
   (0x00440000C0002083#64, .waitc (r 0 (k 3) (v 0) (v 0) true) .xch),
   (0x0048000000000080#64, .clbar h0),
   (0x0048000000000081#64, .clbarArr h0),
   (0x0048000000000082#64, .clbarWait h0)]

/-- Words of the integer family. -/
def integerWords : List (BitVec 64 × Instr) :=
  [(0x00800100C1400403#64, .iadd (r 4 (v 3) (s 5) (v 0) false) true true),
   (0x00840100C1400402#64, .isub (r 4 (v 3) (s 5) (v 0) false) false true),
   (0x00880100C1400404#64, .imul (r 4 (v 3) (s 5) (v 0) false) false .wide),
   (0x00880100C1400403#64, .imul (r 4 (v 3) (s 5) (v 0) false) true .hi),
   (0x00900100C1400400#64, .idiv (r 4 (v 3) (s 5) (v 0) false) false),
   (0x00940100C1400401#64, .irem (r 4 (v 3) (s 5) (v 0) false) true),
   (0x00980100C1400401#64, .imin (r 4 (v 3) (s 5) (v 0) false) true),
   (0x009C0100C1400400#64, .imax (r 4 (v 3) (s 5) (v 0) false) false),
   (0x00A40100C1400401#64, .andOp (r 4 (v 3) (s 5) (v 0) false) true),
   (0x00A80100C1400400#64, .orOp (r 4 (v 3) (s 5) (v 0) false) false),
   (0x00AC0100C1400400#64, .xorOp (r 4 (v 3) (s 5) (v 0) false) false),
   (0x00B00100C1400401#64, .shl (r 4 (v 3) (s 5) (v 0) false) true),
   (0x00B40100C1400400#64, .shr (r 4 (v 3) (s 5) (v 0) false) false),
   (0x00B80100C1400400#64, .sar (r 4 (v 3) (s 5) (v 0) false) false),
   (0x00BC0100C1400401#64, .rot (r 4 (v 3) (s 5) (v 0) false) true),
   (0x00D40100C1400400#64, .icmp (r 4 (v 3) (s 5) (v 0) false) .eq false),
   (0x008C0100C1428405#64, .imad (r 4 (v 3) (s 5) (v 10) false) true true),
   (0x00A00100C0000002#64, .iabs (r 4 (v 3) (v 0) (v 0) false) true),
   (0x00C00100C0000000#64, .popc (r 4 (v 3) (v 0) (v 0) false)),
   (0x00C40100C0000000#64, .clz (r 4 (v 3) (v 0) (v 0) false)),
   (0x00C80100C0000000#64, .brev (r 4 (v 3) (v 0) (v 0) false)),
   (0x00CC0100C1424401#64, .bfe (r 4 (v 3) (s 5) (v 9) false) true),
   (0x00D00100C1424400#64, .bfi (r 4 (v 3) (s 5) (v 9) false)),
   (0x00D80100C1418400#64, .sel (r 4 (v 3) (s 5) (v 6) false)),
   (0x00DC0100C0001000#64, .mov (r 4 (s 3) (v 0) (v 0) false)),
   (0x00E0032012345678#64, .movi ⟨h0, 12#8, true, 0x12345678#32⟩ .w32),
   (0x00E0030100000005#64, .movi ⟨h0, 12#8, false, 5#32⟩ .s64),
   (0x00F8010100FFFFFF#64, .iaddi ⟨h0, 4#8, 4#8, false, 0xFFFFFF#24⟩ false),
   (0x00E4010181400005#64, .iadd64 (r 4 (v 6) (v 5) (v 0) false) true .sx),
   (0x00E800800000DE00#64, .lea (r 2 (s 0) (x 0) (k 3) false) false),
   (0x00EC004080C00000#64, .mlopAnd (r 1 (v 2) (v 3) (v 0) false)),
   (0x00EC004080C00001#64, .mlopOr (r 1 (v 2) (v 3) (v 0) false)),
   (0x00EC004080C00002#64, .mlopXor (r 1 (v 2) (v 3) (v 0) false)),
   (0x00EC004080C00003#64, .mlopAndn (r 1 (v 2) (v 3) (v 0) false)),
   (0x00EC004080C00004#64, .mlopOrn (r 1 (v 2) (v 3) (v 0) false)),
   (0x00EC004080000005#64, .mlopNot (r 1 (v 2) (v 0) (v 0) false)),
   (0x00EC004080000006#64, .mlopMov (r 1 (v 2) (v 0) (v 0) false)),
   (0x00EC004140001007#64, .mlopFroms (r 1 (s 5) (v 0) (v 0) false)),
   (0x00EC024080000088#64, .mlopTos (r 9 (v 2) (v 0) (v 0) true)),
   (0x00EC004000000009#64, .mlopAct (r 1 (v 0) (v 0) (v 0) false)),
   (0x00F00242C0002080#64, .srd (r 9 (k 11) (v 0) (v 0) true)),
   (0x00F4004100001080#64, .swr (r 1 (s 4) (v 0) (v 0) true)),
   (0x00F4000800002081#64, .swrSet (r 0 (k 32) (v 0) (v 0) true)),
   (0x00F4000800002082#64, .swrClr (r 0 (k 32) (v 0) (v 0) true)),
   (0x0090824101400000#64, .idiv { r 9 (v 4) (v 5) (v 0) false with head := h1 } false),
   (0x009482C101400000#64, .irem { r 11 (v 4) (v 5) (v 0) false with head := h1 } false),
   (0x2881C1C0BEC00800#64, .iadd { r 7 (v 2) (k 0xFB) (v 0) false with head := ⟨false, 2#3, true, false, 3#3, true⟩ } false false),
   (0x30D400860680000A#64, .icmp { r 2 (v 24) (v 26) (v 0) false with head := { h0 with gap := 3#3 } } .lt true)]

/-- Words of the vector family. -/
def vectorWords : List (BitVec 64 × Instr) :=
  [(0x01000100C142440C#64, .fadd (r 4 (v 3) (s 5) (v 9) false) .rs true),
   (0x01040100C142440C#64, .fsub (r 4 (v 3) (s 5) (v 9) false) .rs true),
   (0x01080100C142440C#64, .fmul (r 4 (v 3) (s 5) (v 9) false) .rs true),
   (0x010C02004080C000#64, .ffma (r 8 (v 1) (v 2) (v 3) false) .rne false),
   (0x01100100C1400401#64, .fmin (r 4 (v 3) (s 5) (v 0) false) true),
   (0x01140100C1400400#64, .fmax (r 4 (v 3) (s 5) (v 0) false) false),
   (0x01180100C1400406#64, .fcmp (r 4 (v 3) (s 5) (v 0) false) .num),
   (0x011C0100C0000000#64, .fcls (r 4 (v 3) (v 0) (v 0) false)),
   (0x01200100C1400453#64, .hadd2 (r 4 (v 3) (s 5) (v 0) false) .rd false true .hi),
   (0x01240100C1400428#64, .hmul2 (r 4 (v 3) (s 5) (v 0) false) .rne true false .lo),
   (0x01280100C1424410#64, .hfma2 (r 4 (v 3) (s 5) (v 9) false) .rne false true .both),
   (0x012C0100C1400413#64, .hmnx2 (r 4 (v 3) (s 5) (v 0) false) true true true .both),
   (0x013080C08000C208#64, .cvt { r 3 (v 2) (v 0) (k 3) false with head := h1 } .rne true),
   (0x01340100C1400401#64, .fdiv (r 4 (v 3) (s 5) (v 0) false) .rz),
   (0x01380100C0000002#64, .fsqrt (r 4 (v 3) (v 0) (v 0) false) .ru),
   (0x013C0100C0000000#64, .rcp (r 4 (v 3) (v 0) (v 0) false)),
   (0x01400100C0000000#64, .rsq (r 4 (v 3) (v 0) (v 0) false)),
   (0x01440100C0000000#64, .ex2 (r 4 (v 3) (v 0) (v 0) false)),
   (0x01480100C0000000#64, .lg2 (r 4 (v 3) (v 0) (v 0) false)),
   (0x014C0100C0000000#64, .sin (r 4 (v 3) (v 0) (v 0) false)),
   (0x01500100C0000000#64, .cos (r 4 (v 3) (v 0) (v 0) false)),
   (0x01540100C0000000#64, .tanh (r 4 (v 3) (v 0) (v 0) false)),
   (0x01580100C2400004#64, .frnd (r 4 (v 3) (v 9) (v 0) false) .rs),
   (0x015C0100C140040B#64, .fscl (r 4 (v 3) (s 5) (v 0) false) .rd true)]

/-- Words of the crossbar family. -/
def crossbarWords : List (BitVec 64 × Instr) :=
  [(0x0180018140400803#64, .shfl (r 6 (v 5) (k 1) (v 0) false) .bfly .s32),
   (0x0188050280000080#64, .redux (r 20 (v 10) (v 0) (v 0) true) .add false .s32),
   (0x0188078680000013#64, .redux (r 30 (v 26) (v 0) (v 0) false) .minU true .s32),
   (0x0194808040000008#64, .qmax { r 2 (v 1) (v 0) (v 0) false with head := h1 } .f32 .s8),
   (0x019880C080000011#64, .qscale { r 3 (v 2) (v 0) (v 0) false with head := h1 } .f32 1#3),
   (0x019C810040C00010#64, .qnt { r 4 (v 1) (v 3) (v 0) false with head := h1 } .rne false 1#3),
   (0x01A4814100000000#64, .pack { r 5 (v 4) (v 0) (v 0) false with head := h1 } .b4),
   (0x01840100C0000084#64, .vote (r 4 (v 3) (v 0) (v 0) true) .every),
   (0x018C0100C0000038#64, .scan (r 4 (v 3) (v 0) (v 0) false) .addF true .s16),
   (0x01900100C0000006#64, .hdm (r 4 (v 3) (v 0) (v 0) false) .s8 .p2),
   (0x01A00100C1400433#64, .deq (r 4 (v 3) (s 5) (v 0) false) .rd 3#3),
   (0x01A80100C0000005#64, .unpack (r 4 (v 3) (v 0) (v 0) false) .b8 true)]

/-- Words of the distributions family. -/
def distributionsWords : List (BitVec 64 × Instr) :=
  [(0x0340000204000000#64, .dmk (r 0 (v 8) (v 16) (v 0) false) false),
   (0x0340804200000001#64, .dmk { r 1 (v 8) (v 0) (v 0) false with head := h1 } true),
   (0x034C00C040800000#64, .dadd (r 3 (v 1) (v 2) (v 0) false)),
   (0x036801004081C100#64, .dmix (r 4 (v 1) (v 2) (s 7) false)),
   (0x0370878100000001#64, .dmom { r 30 (v 4) (v 0) (v 0) false with head := h1 } .m2),
   (0x0374870102400401#64, .dqtl { r 28 (v 4) (s 9) (v 0) false with head := h1 } true),
   (0x037886C102800400#64, .dcdf { r 27 (v 4) (s 10) (v 0) false with head := h1 } false),
   (0x0344024040C00801#64, .dget (r 9 (v 1) (k 3) (v 0) false) true),
   (0x034801004141C600#64, .dset (r 4 (v 1) (s 5) (k 7) false)),
   (0x0350010040800000#64, .dsub (r 4 (v 1) (v 2) (v 0) false)),
   (0x0354010040800000#64, .dmul (r 4 (v 1) (v 2) (v 0) false)),
   (0x0358010040800000#64, .dmin (r 4 (v 1) (v 2) (v 0) false)),
   (0x035C010040800000#64, .dmax (r 4 (v 1) (v 2) (v 0) false)),
   (0x0360010040000005#64, .dmap (r 4 (v 1) (v 0) (v 0) false) .sqrt),
   (0x0364010041418100#64, .daff (r 4 (v 1) (v 5) (s 6) false)),
   (0x036C010040000000#64, .dcond (r 4 (v 1) (v 0) (v 0) false)),
   (0x037C010040000000#64, .dtagNew (r 4 (v 1) (v 0) (v 0) false)),
   (0x037C010040800001#64, .dtagCopy (r 4 (v 1) (v 2) (v 0) false)),
   (0x037C024040000002#64, .dtagRead (r 9 (v 1) (v 0) (v 0) false))]

/-- Words of the local family. -/
def localWords : List (BitVec 64 × Instr) :=
  [(0x0200010081800010#64, .lds (m 4 2 0 .b64 false 16) false),
   (0x0204024101000040#64, .sts (m 9 4 0 .b32 false 0x40) false),
   (0x0208824101000000#64, .atoms { m 9 4 0 .b32 false 0 with head := h1 } .add false),
   (0x020C020100400000#64, .ldsf (m 8 4 0 .b8 true 0) false),
   (0x021001008000FFFF#64, .ldx (m 4 2 0 .b8 false 65535)),
   (0x0214010080C00006#64, .stx (m 4 2 0 .b16 true 6)),
   (0x0218010081090008#64, .atomx (m 4 2 0 .b32 false 8) .cas),
   (0x021C010081000008#64, .ldk (m 4 2 0 .b32 false 8)),
   (0x0220010082400010#64, .stk (m 4 2 0 .b128 true 16)),
   (0x02080100812A0008#64, .atoms (m 4 2 0 .b32 false 8) .addF true)]

/-- Words of the tickets family. -/
def ticketsWords : List (BitVec 64 × Instr) :=
  [(0x0224050081000000#64, .tld (m 20 2 0 .b32 false 0) false),
   (0x0228020500001000#64, .redeem (r 8 (s 20) (v 0) (v 0) false) .b32),
   (0x0228000507801484#64, .redeemSh (r 0 (s 20) (s 30) (v 0) true)),
   (0x022C000500001080#64, .tdrop (r 0 (s 20) (v 0) (v 0) true)),
   (0x0230060500001080#64, .tqry (r 24 (s 20) (v 0) (v 0) true)),
   (0x022405010E410010#64, .tld (m 20 4 3 .b128 true 16) true),
   (0x0230060000000081#64, .tqryLive (r 24 (v 0) (v 0) (v 0) true))]

/-- Words of the channels family. -/
def channelsWords : List (BitVec 64 × Instr) :=
  [(0x0280018109000000#64, .stg (m 6 4 2 .b32 false 0) false false),
   (0x028001810D010008#64, .stg (m 6 4 3 .b32 false 8) true false),
   (0x0280030289020005#64, .stg (m 12 10 2 .b32 false 5) false true),
   (0x0284024105000000#64, .atomg (m 9 4 1 .b32 false 0) .add false false),
   (0x0288018101C80000#64, .redgSh (m 6 4 0 .b64 true 0) .add),
   (0x028C000080C00880#64, .cjoin (r 0 (v 2) (k 3) (v 0) true)),
   (0x02900001C0002084#64, .cdrain (r 0 (k 7) (v 0) (v 0) true) .pkg false),
   (0x0294000080000080#64, .creset (r 0 (v 2) (v 0) (v 0) true)),
   (0x0298078080000080#64, .cstat (r 30 (v 2) (v 0) (v 0) true)),
   (0x029C000142002480#64, .evwait (r 0 (k 5) (s 8) (v 0) true)),
   (0x02A0000140402880#64, .evadd (r 0 (k 5) (k 1) (v 0) true)),
   (0x02A4030100001080#64, .locq (r 12 (s 4) (v 0) (v 0) true)),
   (0x0288018105150008#64, .redg (m 6 4 1 .b32 false 8) .addF true false),
   (0x0298078080000081#64, .cstatAddr (r 30 (v 2) (v 0) (v 0) true)),
   (0x029807C080000082#64, .cstatWhere (r 31 (v 2) (v 0) (v 0) true)),
   (0x029C020140002081#64, .evwaitRd (r 8 (k 5) (v 0) (v 0) true))]

/-- Words of the fabric family. -/
def fabricWords : List (BitVec 64 × Instr) :=
  [(0x02A8028200C00882#64, .collAr (r 10 (v 8) (k 3) (v 0) true) .f32 .add),
   (0x02AC0300C0002080#64, .csig (r 12 (k 3) (v 0) (v 0) true)),
   (0x02B4050002002880#64, .xrecv (r 20 (k 0) (k 8) (v 0) true)),
   (0x02B8018080002080#64, .dbarArr (r 6 (k 2) (v 0) (v 0) true)),
   (0x02B8000081802481#64, .dbarWait (r 0 (k 2) (s 6) (v 0) true)),
   (0x02A802820000C2C0#64, .collPut (r 10 (v 8) (v 0) (k 3) true) true),
   (0x02A8028200000081#64, .collGet (r 10 (v 8) (v 0) (v 0) true)),
   (0x02B0010201400400#64, .xsend (r 4 (v 8) (s 5) (v 0) false)),
   (0x02B4010041402481#64, .xrecvFree (r 4 (k 1) (s 5) (v 0) true)),
   (0x02B4010042002482#64, .xrecvCfg (r 4 (k 1) (s 8) (v 0) true)),
   (0x02B4010040002083#64, .xrecvStat (r 4 (k 1) (v 0) (v 0) true))]

/-- Words of the transfer family. -/
def transferWords : List (BitVec 64 × Instr) :=
  [(0x0300020080004A30#64, .cpy (r 8 (v 2) (k 0) (k 1) false) .g2s .b128 true),
   (0x0304000600001881#64, .tcpy (r 0 (s 24) (k 0) (v 0) true) false .rne false false true),
   (0x0304000400405AC4#64, .tcpy (r 0 (s 16) (k 1) (k 1) true) true .rne true false false),
   (0x0300010080000808#64, .cpy (r 4 (v 2) (k 0) (v 0) false) .g2s .b64 false)]

/-- Words of the matrix family. -/
def matrixWords : List (BitVec 64 × Instr) :=
  [(0x0308800204000012#64, .mma { r 0 (v 8) (v 16) (v 0) false with head := h1 } .e4m3 .e4m3 false),
   (0x030C01080A0C002D#64, .mmas (r 4 (v 32) (v 40) (v 48) false) .fm1 .fm1 false),
   (0x0310000000000080#64, .mbatch h0),
   (0x0314010100002080#64, .accz (r 4 (k 4) (v 0) (v 0) true)),
   (0x0318000100400000#64, .accld (m 0 4 0 .b8 true 0)),
   (0x031C000100400400#64, .accst (m 0 4 0 .b8 true 0x400)),
   (0x0320060000000000#64, .accrd (r 24 (v 0) (v 0) (v 0) false))]

/-- Words of the handler family. -/
def handlerWords : List (BitVec 64 × Instr) :=
  [(0x0380000140002080#64, .trap (r 0 (k 5) (v 0) (v 0) true)),
   (0x0384000000000080#64, .sret h0),
   (0x0384000000000081#64, .sretEsc h0),
   (0x0388010200002080#64, .sysrd (r 4 (k 8) (v 0) (v 0) true)),
   (0x038800C0000A0001#64, .sysrdV (r 3 (v 0) (v 0) (v 40) false)),
   (0x0388028000000182#64, .sysrdS (r 10 (v 0) (v 0) (s 0) true)),
   (0x038C020100001080#64, .syswr (r 8 (s 4) (v 0) (v 0) true)),
   (0x03A0000000000080#64, .haltGrid h0),
   (0x03A0000000000081#64, .haltLanes h0),
   (0x0390000100001080#64, .tlbinvPg (r 0 (s 4) (v 0) (v 0) true)),
   (0x0390000000000081#64, .tlbinvCtx h0),
   (0x0394008103C01880#64, .pgmap (r 2 (s 4) (k 15) (v 0) true)),
   (0x0398018100401880#64, .pgprot (r 6 (s 4) (k 1) (v 0) true)),
   (0x039C000101001880#64, .cinv (r 0 (s 4) (k 4) (v 0) true)),
   (0x039C000000000081#64, .cinvCtx h0),
   (0x03880100000A0083#64, .sysrdPm (r 4 (v 0) (v 0) (v 40) true)),
   (0x038C0000C00A0001#64, .syswrV (r 0 (v 3) (v 0) (v 40) false)),
   (0x038C0000C0025182#64, .syswrS (r 0 (s 3) (v 0) (s 9) true))]

theorem test_decode_control : controlWords.all decodes = true := by decide
theorem test_decode_barriers : barriersWords.all decodes = true := by decide
theorem test_decode_integer : integerWords.all decodes = true := by decide
theorem test_decode_vector : vectorWords.all decodes = true := by decide
theorem test_decode_crossbar : crossbarWords.all decodes = true := by decide
theorem test_decode_distributions : distributionsWords.all decodes = true := by decide
theorem test_decode_local : localWords.all decodes = true := by decide
theorem test_decode_tickets : ticketsWords.all decodes = true := by decide
theorem test_decode_channels : channelsWords.all decodes = true := by decide
theorem test_decode_fabric : fabricWords.all decodes = true := by decide
theorem test_decode_transfer : transferWords.all decodes = true := by decide
theorem test_decode_matrix : matrixWords.all decodes = true := by decide
theorem test_decode_handler : handlerWords.all decodes = true := by decide

/-- What is no word: opcodes that the map reserves, an undefined subcode, a mask negated without a mask register, and
unused fields that are not zero (R68, R76, R79, R88). -/
theorem test_decode_refuses : refuses 0x0050000000000000#64 .reservedOpcode = true ∧
    refuses 0x03FC000000000000#64 .reservedOpcode = true ∧ refuses 0x0080000000000004#64 .undefinedSubcode = true ∧
    refuses 0x0004400000000000#64 .maskNegated = true ∧ refuses 0x0004000000000080#64 .undefinedForm = true ∧
    refuses 0x001C000100000000#64 .undefinedForm = true := by decide

/-! ## Ill-formed terms -/

/-- Every word of the lists is well formed, and its encoding is the word: the hypotheses of DecodeEncode and
EncodeDecode. -/
def encodes (p : BitVec 64 × Instr) : Bool := p.2.wf && decide (encode p.2 = some p.1)

theorem test_encode_a : (controlWords ++ barriersWords ++ integerWords).all encodes = true := by decide
theorem test_encode_b : (vectorWords ++ crossbarWords ++ distributionsWords ++ localWords).all encodes = true := by decide
theorem test_encode_c : (ticketsWords ++ channelsWords ++ fabricWords ++ transferWords ++ matrixWords ++ handlerWords).all encodes =
    true := by decide

/-- A mask negated without a mask register (R68). -/
theorem test_ill_mask : (Instr.nop { h0 with mneg := true }).wf = false := by decide

/-- Fields that POPC does not use, and U where BRX and BARINIT do not define it (R76, R79). -/
theorem test_ill_unused : (Instr.popc (r 1 (v 2) (v 1) (v 0) false)).wf = false ∧ (Instr.popc (r 1 (v 2) (v 0) (s 0) false)).wf = false ∧
    (Instr.brx (r 1 (v 6) (v 0) (v 0) false)).wf = false ∧ (Instr.mlopAct (r 1 (v 6) (v 0) (v 0) false)).wf = false ∧
    (Instr.brx (r 0 (v 6) (v 0) (v 0) true)).wf = false ∧ (Instr.barinit (r 0 (v 1) (k 2) (v 0) false)).wf = false := by decide

/-- Sizes, CH, BK and OFS that a format-M word does not accept (R256, R272, R298, R299, R375). -/
theorem test_ill_memory : (Instr.lds (m 4 2 1 .b64 false 16) false).wf = false ∧ (Instr.atoms (m 4 2 0 .b64 false 16) .addF false).wf = false ∧
    (Instr.atoms (m 4 2 0 .b8 false 16) .add false).wf = false ∧ (Instr.ldsf (m 4 2 0 .b8 false 16) false).wf = false ∧
    (Instr.ldk (m 4 2 0 .b8 false 16)).wf = false ∧ (Instr.tld (m 4 2 0 .b16 false 16) false).wf = false ∧
    (Instr.stg (m 4 2 0 .b32 false 4096) false true).wf = false ∧ (Instr.atomg (m 4 2 0 .b8 false 0) .add false false).wf = false ∧
    (Instr.redg (m 4 2 0 .b64 false 0) .addF false false).wf = false ∧ (Instr.redgSh (m 4 2 0 .b16 false 0) .add).wf = false ∧
    (Instr.accst (m 4 2 0 .b32 true 0)).wf = false := by decide

/-- .idx of a sum, segments of a uniform REDUX, formats of two widths, and MMAS of 16 bits (R214, R371, R375). -/
theorem test_ill_form : (Instr.redux (r 4 (v 3) (v 0) (v 0) false) .add true .s32).wf = false ∧
    (Instr.redux (r 4 (v 3) (v 0) (v 0) true) .add false .s16).wf = false ∧ (Instr.mma (r 0 (v 8) (v 16) (v 0) false) .bf16 .e4m3 false).wf = false ∧
    (Instr.mmas (r 0 (v 8) (v 16) (v 24) false) .f16 .f16 false).wf = false := by decide

/-- A step that is no instruction word. -/
theorem test_ill_step : Instr.wipeComplete.wf = false ∧ encode .wipeComplete = none := by decide

/-! ## States that meet the hypotheses of the statements -/

/-- The package that withFetchWord places, about to issue the first word of its one course. -/
def ready : State := State.reset.withFetchWord 64 0

/-- The course of the ready package changed. -/
def readyWith (f : Course → Course) : State := ready.onCourse 0 f

/-- The ready course in supervisor mode, with the handler bank. -/
def inHandler : State :=
  (readyWith (fun c => { c with sup := some ⟨{ code := 0x15, pc := 0, resume := 8 }, 0, 0xFFFFFFFF#32, [], []⟩ })).onCore 0
    (fun k => { k with bank := some 0 })

/-- Lane register n of the ready course is w in lane L. -/
def laneIs (n L : Nat) (w : Word) (c : Course) : Course := c.setLane false n L { val := w }

/-- Uniform register n of the ready course is w. -/
def unifIs (n : Nat) (w : Word) (c : Course) : Course := c.setUnif false n { val := w }

/-- The words of a list pass their checks in s. -/
def allPass (s : State) (l : List (BitVec 64 × Instr)) : Bool := l.all (fun p => p.2.head?.any (fun h => s.passes p.2 h))

/-- The word i with head h passes its checks in s, and ok holds of it there. -/
abbrev meets (s : State) (i : Instr) (h : Head) (ok : State → Ctx → Prop) : Prop := s.passes i h = true ∧ ok s (s.wordCtx h)

/-- Every word of the lists passes its checks in the ready state, or in the handler: the hypothesis of every clause about
a word. -/
theorem test_words_pass : allPass ready controlWords = true ∧ allPass ready barriersWords = true ∧
    allPass ready integerWords = true ∧ allPass ready vectorWords = true ∧ allPass ready crossbarWords = true ∧
    allPass ready distributionsWords = true ∧ allPass ready localWords = true ∧ allPass ready ticketsWords = true ∧
    allPass ready channelsWords = true ∧ allPass ready fabricWords = true ∧ allPass ready transferWords = true ∧
    allPass ready matrixWords = true ∧ allPass inHandler handlerWords = true := by decide +kernel

/-- There a word has active lanes, one under m1 has none, and the shared units of the bay are free. -/
theorem test_ready : (ready.wordCtx h0).act = 0xFFFFFFFF#32 ∧ (ready.wordCtx h1).act = 0#32 ∧
    (ready.issuerBay (ready.wordCtx h0)).specialUntil ≤ ready.clock ∧
    (ready.issuerBay (ready.wordCtx h0)).crossbarUntil ≤ ready.clock ∧
    (ready.issuerBay (ready.wordCtx h0)).distUntil ≤ ready.clock := by decide

/-- The ready course with every exception enabled and the largest integer in v3. -/
def armed : State := readyWith (fun c => (laneIs 3 0 0x7FFFFFFF#32 c).setReg 1 0x1FF#32)

/-- IntegerArithmetic, IntegerBits, MaskWords, VectorArithmetic: a flag that traps, and one that does not. -/
theorem test_fixedAlu :
    let i := Instr.iadd (r 4 (v 3) (v 3) (v 0) false) false true
    meets armed i h0 (fun s x => (satInt true false (s.isrc x (v 3) false 0 + s.isrc x (v 3) false 0)).2 = flSAT ∧
      (s.issuer x).trapsOn (wordFlags x.sup flSAT) = true) ∧
    meets ready i h0 (fun s x => (s.issuer x).trapsOn (wordFlags x.sup flSAT) = false) := by decide

/-- CourseRegisters: FLG can be read and written. -/
theorem test_courseRegisters : meets ready (.srd (r 9 (k 0) (v 0) (v 0) true)) h0 (fun s x =>
    x.act ≠ 0#32 ∧ s.flgBusy x.crs (s.issuer x) = false) := by decide

/-- The ready course with format register 1 set for E4M3. -/
def formatted : State := readyWith (fun c => c.setReg 9 0x000507C8#32)

/-- VectorArithmetic, Quantiser: a valid format register. -/
theorem test_formats : meets formatted (.cvt (r 3 (v 2) (v 0) (k 9) false) .rne true) h0 (fun s x =>
      ∀ n ∈ [9 / 16, 9 % 16], 8 ≤ n → fmtValid ((s.issuer x).fmReg (n - 8)) = true) ∧
    meets formatted (.qnt (r 4 (v 1) (v 3) (v 0) false) .rne false 1#3) h0 (fun s x => x.act ≠ 0#32 ∧
      (s.issuerBay x).crossbarUntil ≤ s.clock ∧ fmtValid ((s.issuer x).fmReg 1) = true) := by decide

/-- CrossLane: the lanes that a SHFL reads are full and not poisoned; one of them is empty, with e and without; no lane is
active. -/
theorem test_crossLane :
    let w := r 6 (v 5) (k 1) (v 0) false
    let we := { w with head := { h0 with e := true } }
    let from_ := fun (s : State) (x : Ctx) L => shflLane .bfly (Seg.size .s32) (s.lrOf (s.issuer x)).width16 (s.src x w.b 1 L) L
    let hole := readyWith (fun c => c.setLane false 5 31 ⟨0#32, true, false⟩)
    meets ready (.shfl w .bfly .s32) h0 (fun s x => x.act ≠ 0#32 ∧ (s.issuerBay x).crossbarUntil ≤ s.clock ∧
      s.fieldPoison (s.issuer x) x w.b.reg1Imm = none ∧ ∀ L, L < 32 → x.act.getLsbD L = true →
      ((s.issuer x).laneCell x.sup w.a.field.toNat (from_ s x L)).empty = false ∧
      s.lanePoison (s.issuer x) x.sup w.a.field.toNat (from_ s x L) = false) ∧
    meets hole (.shfl w .bfly .s32) h0 (fun s x => x.act.getLsbD 30 = true ∧
      ((s.issuer x).laneCell x.sup w.a.field.toNat (from_ s x 30)).empty = true) ∧
    meets hole (.shfl we .bfly .s32) we.head (fun s x => x.act.getLsbD 30 = true ∧
      ((s.issuer x).laneCell x.sup w.a.field.toNat (from_ s x 30)).empty = true) ∧
    meets ready (.shfl { w with head := h1 } .bfly .s32) h1 (fun s x => x.act = 0#32 ∧ (s.issuerBay x).crossbarUntil ≤ s.clock) := by decide

/-- The ready package with 64 KiB of scratchpad on each die and a spill area of 64 bytes for each lane. -/
def roomy : State := (readyWith (fun c => { c with spill := [9] })).setGrid 0
  { ready.grid 0 with lr := { (ready.grid 0).lr with scratch := 65536, spill := 64 } }

/-- LocalAccesses: the last bytes of each memory. -/
theorem test_localAccesses :
    let fits := fun (m : MWord) (reach : Reach) (n : Nat) (s : State) (x : Ctx) => x.act ≠ 0#32 ∧ ∀ L ∈ lanesOf x.act,
      s.effAddr x (s.issuer x) m 1 L % (n : Int) = 0 ∧
      (s.locate (s.issuer x) reach (s.effAddr x (s.issuer x) m 1 L) n L).isSome = true
    let here := fun (sz : Size) (ofs : Nat) => m 4 2 0 sz false ofs
    let last : Nat := 32768
    let s := roomy.onCourse 0 (fun c => (lanes.foldl (fun c L => laneIs 2 L 32768#32 c) c))
    meets s (.lds (here .b64 (last - 8)) false) h0 (fits (here .b64 (last - 8)) .own 8) ∧
    meets s (.atoms (here .b32 (last - 4)) .add true) h0 (fits (here .b32 (last - 4)) .cluster 4) ∧
    meets s (.stx (here .b128 (last - 16))) h0 (fits (here .b128 (last - 16)) .scratch 16) ∧
    meets roomy (.ldk (here .b32 28)) h0 (fits (here .b32 28) .spill 4) ∧
    meets roomy (.ldsf (m 8 2 0 .b8 true 31744) false) h0 (fits (m 8 2 0 .b8 true 31744) .own 1024) := by decide

/-- The ready course with a negative v3 in lane 0, so that a branch on it diverges. -/
def diverging : State := readyWith (laneIs 3 0 0xFFFFFFFF#32)

/-- Branches: the branch that no lane takes, every lane takes, and lane 0 alone takes, with the other slot free, taken,
and taken in a course with a spill area; and a target below and above the address space. -/
theorem test_branches :
    let rest := fun (s : State) (x : Ctx) T => ((s.issuer x).slotN x.j).mask &&& ~~~T
    let lt := BraTest.lane 3#8 .lt
    let other := fun (s : State) => s.onCourse 0 (fun c => c.onSlot 1 (fun y => { y with pc := 64, mask := 1#32 }))
    meets ready (.bra h0 lt 3#32) h0 (fun s x => s.taken x lt = 0#32) ∧
    meets ready (.bra h0 .always 3#32) h0 (fun s x => s.taken x .always ≠ 0#32 ∧ x.pc + 8 * signExt 3 32 = 24 ∧
      rest s x (s.taken x .always) = 0#32) ∧
    meets ready (.bra h0 .always 0xFFFFFFFF#32) h0 (fun s x => s.taken x .always ≠ 0#32 ∧
      x.pc + 8 * signExt 0xFFFFFFFF 32 < 0) ∧
    meets (readyWith (fun c => c.onSlot 0 (fun y => { y with pc := 2 ^ 52 - 8 }))) (.call h0 true 4#8 1#32) h0 (fun _ x =>
      x.act ≠ 0#32 ∧ (2 ^ 52 : Int) ≤ x.pc + 8 * signExt 1 32) ∧
    meets diverging (.bra h0 lt 3#32) h0 (fun s x => s.taken x lt = 1#32 ∧ rest s x (s.taken x lt) ≠ 0#32 ∧
      x.pc + 8 ≠ 2 ^ 52 ∧ s.otherTaken (s.issuer x) x.j = false) ∧
    meets (other diverging) (.bra h0 lt 3#32) h0 (fun s x => s.taken x lt = 1#32 ∧ rest s x (s.taken x lt) ≠ 0#32 ∧
      s.otherTaken (s.issuer x) x.j = true ∧ s.regionFits (s.issuer x) 1 = false) ∧
    meets (other (roomy.onCourse 0 (laneIs 3 0 0xFFFFFFFF#32))) (.bra h0 lt 3#32) h0 (fun s x => s.taken x lt = 1#32 ∧
      rest s x (s.taken x lt) ≠ 0#32 ∧ x.pc + 8 ≠ 2 ^ 52 ∧ s.otherTaken (s.issuer x) x.j = true ∧
      s.regionFits (s.issuer x) 1 = true) ∧
    meets (diverging.onCourse 0 (fun c => c.onSlot 0 (fun y => { y with pc := 2 ^ 52 - 8 }))) (.bra h0 lt 0#32) h0 (fun s x =>
      s.taken x lt = 1#32 ∧ (x.pc : Int) + 8 * signExt 0 32 < 2 ^ 52 ∧ rest s x (s.taken x lt) ≠ 0#32 ∧ x.pc + 8 = 2 ^ 52 ∧
      s.otherTaken (s.issuer x) x.j = false) := by decide

/-- Rejoining: targets of BRX, aligned and not, of no lane, of one target and of two; JMARK with its target in range and
out of it, and with the stack full; a mark at the address of the word, with its last lanes arriving or not. -/
theorem test_rejoining :
    let w := r 0 (v 6) (v 0) (v 0) false
    let X := fun (s : State) (x : Ctx) L => s.src x w.a 2 L
    let groups := fun (s : State) (x : Ctx) => groupTargets ((lanesOf ((s.issuer x).slotN x.j).mask).map (fun L =>
      (L, if x.act.getLsbD L then X s x L else x.pc + 8)))
    let good := fun (s : State) (x : Ctx) => ∀ L ∈ lanesOf x.act, X s x L % 8 = 0 ∧ X s x L < 2 ^ 52
    let other := fun (s : State) => s.onCourse 0 (fun c => c.onSlot 1 (fun y => { y with pc := 64, mask := 1#32 }))
    let two := fun (s : State) => s.onCourse 0 (laneIs 6 0 64#32)
    let mark := fun (a : LaneMask) => readyWith (fun c => { c with rejoin := [⟨0, 0xFFFFFFFF#32, a⟩] })
    let part := fun (s : State) => s.onCourse 0 (fun c => c.onSlot 0 (fun y => { y with mask := 0xFFFF#32 }))
    let eight := fun (s : State) => s.onCourse 0 (fun c => { c with rejoin := List.replicate 8 ⟨64, 1#32, 0#32⟩ })
    let none_ := { h1 with mask := 1#3 }
    meets ready (.brx w) h0 (fun s x => good s x ∧ (groups s x).length = 1) ∧
    meets ready (.jmark none_ 0#32) none_ (fun _ x => x.act = 0#32) ∧
    meets ready (.jmark h0 0x80000000#32) h0 (fun _ x => x.act ≠ 0#32 ∧ (x.pc : Int) + 8 * signExt 0x80000000 32 < 0) ∧
    meets (eight roomy) (.jmark h0 0#32) h0 (fun s x => x.act ≠ 0#32 ∧ 0 ≤ (x.pc : Int) + 8 * signExt 0 32 ∧
      (s.issuer x).rejoin.length = 8 ∧ s.regionFits (s.issuer x) 1 = true) ∧
    meets ready (.join none_) none_ (fun _ x => x.act = 0#32) ∧
    meets (two ready) (.ret w) h0 (fun s x => good s x ∧ (groups s x).length = 2 ∧ s.otherTaken (s.issuer x) x.j = false ∧
      s.regionFits (s.issuer x) 0 = true) ∧
    meets (other (two roomy)) (.ret w) h0 (fun s x => good s x ∧ (groups s x).length = 2 ∧ s.otherTaken (s.issuer x) x.j = true ∧
      s.regionFits (s.issuer x) 1 = true) ∧
    meets (readyWith (laneIs 6 3 4#32)) (.brx w) h0 (fun s x => (lanesOf x.act).find? (fun L => X s x L % 8 != 0) = some 3) ∧
    meets (readyWith (laneIs 7 3 0x100000#32)) (.brx w) h0 (fun s x => (∀ l ∈ lanesOf x.act, X s x l % 8 = 0) ∧
      (lanesOf x.act).find? (fun L => decide (2 ^ 52 ≤ X s x L)) = some 3) ∧
    meets ready (.jmark h0 0#32) h0 (fun s x => x.act ≠ 0#32 ∧ 0 ≤ (x.pc : Int) + 8 * signExt 0 32 ∧
      (s.issuer x).rejoin.length ≠ 8) ∧
    meets ready (.join h0) h0 (fun s x => (s.rejoins (s.issuer x)).find? (fun e => e.l == x.pc) = none) ∧
    meets (part (mark 0xFFFF0000#32)) (.join h0) h0 (fun s x => x.act ≠ 0#32 ∧
      (s.rejoins (s.issuer x)).find? (fun e => e.l == x.pc) = some ⟨0, 0xFFFFFFFF#32, 0xFFFF0000#32⟩ ∧
      0xFFFF0000#32 ||| ((s.issuer x).slotN x.j).mask = 0xFFFFFFFF#32) ∧
    meets (part (mark 0#32)) (.join h0) h0 (fun s x => x.act ≠ 0#32 ∧
      (s.rejoins (s.issuer x)).find? (fun e => e.l == x.pc) = some ⟨0, 0xFFFFFFFF#32, 0#32⟩ ∧
      0#32 ||| ((s.issuer x).slotN x.j).mask ≠ 0xFFFFFFFF#32) := by decide

/-- LanesAndBlocks: END of all lanes and of some; REFILL with items for every lane, for some, and for none; IPUSH; VACQ with
blocks held, to be had, and not to be had; VREL of full registers and of an empty one. -/
theorem test_lanesAndBlocks :
    let set := fun (w : RWord) => w.a.field.toNat
    let five := r 9 (k 5) (v 0) (v 0) true
    let can := fun (w : RWord) (s : State) (x : Ctx) => (s.issuer x).wanted (set w) ≠ [] ∧
      s.vacqWaiters (s.issuer x).core (s.issuer x).bay = [] ∧
      ((s.issuer x).wanted (set w)).length ≤ s.poolFree (s.issuer x).team (s.issuer x).bay
    let half := { h0 with mask := 2#3 }
    let masked := readyWith (fun c => { c with m := [(2, 0xFF#32)] })
    meets ready (.endLanes h0) h0 (fun s x => x.act ≠ 0#32 ∧ (s.issuer x).ownMask x.j &&& ~~~x.act = 0#32) ∧
    meets masked (.endLanes half) half (fun s x => x.act = 0xFF#32 ∧ (s.issuer x).ownMask x.j &&& ~~~x.act ≠ 0#32) ∧
    let gone := fun (s : State) (x : Ctx) => maskOfLanes ((lanesOf (x.act &&& s.maskVal (s.issuer x) 2)).drop
      (s.team (s.issuer x).team).items.length)
    let feeds := fun (n : Nat) (m : LaneMask) => (readyWith (fun c => { c with m := [(2, m)] })).onTeam 0 (fun t =>
      { t with items := List.replicate n 7#32 })
    let refill := Instr.refill (r 7 (v 2) (v 0) (v 0) false)
    meets (feeds 8 0xFF#32) refill h0 (fun s x => gone s x = 0#32 ∧ (s.issuer x).ownMask x.j ≠ 0#32) ∧
    meets (feeds 7 0xFF#32) refill h0 (fun s x => gone s x = 0x80#32 ∧ (s.issuer x).ownMask x.j &&& ~~~gone s x ≠ 0#32) ∧
    meets (feeds 0 0xFFFFFFFF#32) refill h0 (fun s x => gone s x ≠ 0#32 ∧ (s.issuer x).ownMask x.j &&& ~~~gone s x = 0#32) ∧
    meets ready (.ipush (r 9 (v 4) (v 0) (v 0) true)) h0 (fun _ x => x.act ≠ 0#32) ∧
    meets (readyWith (fun c => { c with blocks := 5 })) (.vacq { five with d := 0#8 }) h0 (fun s x =>
      (s.issuer x).wanted (set five) = []) ∧
    meets (readyWith (fun c => { c with blocks := 5 })) (.vacqNb five) h0 (fun s x => x.act ≠ 0#32 ∧
      (s.issuer x).wanted (set five) = []) ∧
    meets ready (.vacqNb five) h0 (fun s x => x.act ≠ 0#32 ∧ can five s x) ∧
    meets (ready.onTeam 0 (fun t => { t with poolUsed := [(0, 3)] })) (.vacq { five with d := 0#8 }) h0 (fun s x => x.act ≠ 0#32 ∧
      (s.issuer x).wanted (set five) ≠ [] ∧ ¬ can five s x) ∧
    meets ((readyWith (fun c => { c with blocks := 5 })).onCourse 0 (fun c => c.setLane false 128 31 ⟨0#32, true, false⟩))
      (.vrel { five with d := 0#8 }) h0 (fun s x => x.act ≠ 0#32 ∧
      (s.issuer x).v.any (fun k y => inBlocks (set five &&& (s.issuer x).blocks) (k / 32) && y.empty) = true) ∧
    meets ready (.vacq { five with d := 0#8 }) h0 (fun s x => x.act ≠ 0#32 ∧ can five s x) ∧
    meets (ready.onTeam 0 (fun t => { t with poolUsed := [(0, 3)] })) (.vacqNb five) h0 (fun s x => x.act ≠ 0#32 ∧
      (s.issuer x).wanted (set five) ≠ [] ∧ ¬ can five s x) ∧
    meets (readyWith (fun c => { c with blocks := 5 })) (.vrel { five with d := 0#8 }) h0 (fun s x => x.act ≠ 0#32 ∧
      (s.issuer x).v.any (fun k y => inBlocks (set five &&& (s.issuer x).blocks) (k / 32) && y.empty) = false) ∧
    inBlocks 5 128 = true ∧ inBlocks 0 128 = false := by decide

/-- The ready course with its slot 0 waiting. -/
def waiting (w : Wait) : State := readyWith (fun c => c.onSlot 0 (fun y => { y with wait := w, act := 1#32 }))

/-- The ready team with barrier 1 at phase 0, expecting 2 arrivals. -/
def barred (s : State) : State := s.setBar 0 1 { exp := 2, pend := 2 }

/-- BarrierWords: ARRIVE with the smallest and the largest count, and with a barrier not set up; BWAIT that goes on, waits,
and wakes; CLBAR. -/
theorem test_barrierWords :
    let w := r 0 (v 1) (s 5) (v 0) true
    let five := fun (n : Nat) => (barred ready).onCourse 0 (unifIs 5 (wd n))
    meets (five 1) (.arrive w false) h0 (fun s x => x.act ≠ 0#32 ∧ s.usrc x w.b = 1 ∧ (s.bar 0 1).exp ≠ 0) ∧
    meets (five 4095) (.barinit w) h0 (fun s x => x.act ≠ 0#32 ∧ s.usrc x w.b = 4095) ∧
    meets (five 4096) (.arrive w false) h0 (fun s x => x.act ≠ 0#32 ∧ 4095 < s.usrc x w.b) ∧
    meets ready (.arrive w false) h0 (fun s x => x.act ≠ 0#32 ∧ (s.bar 0 1).exp = 0) ∧
    meets (five 0) (.bwait w) h0 (fun s x => x.act ≠ 0#32 ∧ (s.bar 0 1).passed (s.usrc x w.b % 2 ^ 16) = false) ∧
    meets (five 0xFFFF) (.bwait w) h0 (fun s x => x.act ≠ 0#32 ∧ (s.bar 0 1).passed (s.usrc x w.b % 2 ^ 16) = true) ∧
    meets ready (.clbarWait h0) h0 (fun s x => x.act ≠ 0#32 ∧ (s.course x.crs).clArrivals = 0) ∧
    meets (readyWith (fun c => { c with clArrivals := 1 })) (.clbarWait h0) h0 (fun s x => x.act ≠ 0#32 ∧
      (s.course x.crs).clArrivals ≠ 0) ∧
    (let s := barred (waiting (.bwait 1 0xFFFF))
     s.running (s.course 0) = true ∧ (s.bar (s.course 0).team 1).passed 0xFFFF = true ∧
       (s.bar (s.course 0).team 1).passed 0 = false) ∧
    (let s := (waiting (.clbar 0)).onCourse 0 (fun c => { c with clArrivals := 1 })
     s.clusterTeams 0 = [0] ∧ (s.team 0).courses = [0] ∧ (s.course 0).slot0.wait = .clbar 0 ∧ (s.course 0).slot1.wait = .none ∧
       s.running (s.course 0) = true ∧ 0 + 1 ≤ (s.course 0).clArrivals) := by
  decide

/-- Pages of context 1: page 0 holds code (frame 3), page 1 data (frame 4), page 2 is for first touch, page 3 is not
mapped, page 4 is host-shared (frame 5). Their tables: the root at 0, where entry 0 names the table at 2^15, whose entry 0
names the table at 2^16, whose entries are the leaves (R415–R418). -/
def paged (s : State) : State :=
  ({ s with mem := [(0, 0x01#8), (1, 0x80#8), (2 ^ 15, 0x01#8), (2 ^ 15 + 2, 0x01#8), (2 ^ 16, 0x2A#8), (2 ^ 16 + 2, 0x30#8),
                    (2 ^ 16 + 8, 0x1A#8), (2 ^ 16 + 10, 0x40#8), (2 ^ 16 + 16, 0x04#8), (2 ^ 16 + 32, 0x1A#8),
                    (2 ^ 16 + 34, 0x50#8), (2 ^ 16 + 39, 0x08#8)] } : State).onContext 1 (fun c => { c with
    pool := [(⟨0, 0, 0⟩, .table), (⟨0, 0, 1⟩, .table), (⟨0, 0, 3⟩, .object), (⟨0, 0, 4⟩, .page), (⟨0, 0, 6⟩, .free)]
    objects := [{ handle := 1, message := 0#256, code := [(0, 65536)], frames := [3], pages := [0] }] })

/-- A package whose course has no line of its code in the cache. -/
def cold : State := paged { ready with cores := [] }

/-- Fetching: no line, with a fill in flight and without; a page that is not mapped; a fill; and IPF. -/
theorem test_fetching :
    let wants := fun (s : State) => (s.course 0).taken 0 = true ∧ ((s.course 0).slotN 0).wait = .none ∧
      s.running (s.course 0) = true ∧ (s.course 0).nextRefusal 0 = none ∧
      (s.core 0).cached (s.ctxOf (s.course 0)) (((s.course 0).slotN 0).pc / 128) = none
    let busy := cold.onCore 0 (fun k => { k with fills := [(1, 0)] })
    let lost := cold.onCourse 0 (fun c => c.onSlot 0 (fun y => { y with pc := 3 * 2 ^ 16 }))
    (wants busy ∧ (busy.core 0).fills.contains (1, 0) = true) ∧
    (wants cold ∧ (cold.core 0).fills = [] ∧ cold.fetchPage 1 0 = .ok (3 * 2 ^ 16)) ∧
    (wants lost ∧ (lost.core 0).fills = [] ∧ lost.fetchPage 1 (3 * 2 ^ 16) = .fault 4 1) ∧
    ((busy.core 0).fills.find? (fun f => f.2 == 0) = some (1, 0) ∧ busy.fetchPage 1 (0 * 128) = .ok (3 * 2 ^ 16)) ∧
    meets ready (.ipf h0 none 15 0#32) h0 (fun _ x => x.act ≠ 0#32) := by decide

/-- SlotEvents: a free slot and something to refill it with; a slot that becomes urgent in this cycle; a yield and an
occupancy that end. -/
theorem test_slotEvents :
    let fork := readyWith (fun c => { c.onSlot 0 Slot.freed with rejoin := [⟨64, 3#32, 3#32⟩] })
    let fork1 := readyWith (fun c => { c with rejoin := [⟨64, 3#32, 3#32⟩] })
    let late := { readyWith (fun c => c.onSlot 0 (fun y => { y with eligibleSince := some 5, yieldUntil := 37 })) with clock := 37 }
    ((fork.course 0).taken 0 = false ∧ fork.canRefill (fork.course 0) = true ∧
      fork.rejoins (fork.course 0) = [⟨64, 3#32, 3#32⟩] ∧ (fork.course 0).rejoin ≠ []) ∧
    (let s := readyWith (fun c => { c.onSlot 0 Slot.freed with rejoin := [⟨2 ^ 52 - 8, 3#32, 3#32⟩] })
     s.rejoins (s.course 0) = [⟨2 ^ 52 - 8, 3#32, 3#32⟩]) ∧
    ((fork1.course 0).taken 0 = true ∧ (fork1.course 0).taken 1 = false ∧ fork1.canRefill (fork1.course 0) = true) ∧
    (((late.course 0).slotN 0).urgent = false ∧ ((late.course 0).slotN 0).eligibleSince = some 5 ∧ 5 + 32 ≤ late.clock ∧
      ((late.course 0).slotN 0).yieldUntil ≠ 0 ∧ ((late.course 0).slotN 0).yieldUntil ≤ late.clock) ∧
    ((late.core 0).bay 0).specialUntil ≤ late.clock := by decide

/-- The ready course with a trap that its slot 0 has raised; its grid has a handler at 0x400. -/
def trapping (t : TrapRec) : State :=
  ((waiting (.trap t 0)).setGrid 0 { ready.grid 0 with lr := { (ready.grid 0).lr with handler := 0x400 } })

/-- HandlerEntry, TrapAborts: a trap that the handler takes; one of the handler; and one in a grid without a handler. -/
theorem test_traps :
    let t : TrapRec := { code := 0x01, mask := 1#32 }
    (let s := trapping t
     s.running (s.course 0) = true ∧ (s.gridOf (s.course 0).team).lr.handler ≠ 0 ∧ (s.core 0).bank = none ∧
       (s.course 0).sup = none ∧ (s.course 0).reenter = none ∧ t.inSup = false ∧ t.code ≠ 0x06 ∧ s.trapAhead 0 0 = false ∧
       ((s.course 0).slotN 0).wait = .trap t 0) ∧
    (let s := trapping { t with inSup := true }
     s.running (s.course 0) = true ∧ ((s.course 0).slotN 0).wait = .trap { t with inSup := true } 0 ∧
       (s.grid (s.team (s.course 0).team).grid).abort = none ∧ (s.grid (s.team (s.course 0).team).grid).done = false ∧
       (s.context (s.ctxOf (s.course 0))).duty.testBit 4 = false) ∧
    (let s := (trapping { t with inSup := true }).onContext 1 (fun c => { c with duty := 16 })
     s.running (s.course 0) = true ∧ ((s.course 0).slotN 0).wait = .trap { t with inSup := true } 0 ∧
       (s.grid (s.team (s.course 0).team).grid).abort = none ∧ (s.grid (s.team (s.course 0).team).grid).done = false ∧
       (s.context (s.ctxOf (s.course 0))).duty.testBit 4 = true) ∧
    (let s := waiting (.trap t 0)
     (s.gridOf (s.course 0).team).lr.handler = 0 ∧ s.running (s.course 0) = true) := by decide

/-- The handler with RESUME. -/
def resuming (p : Nat) : State := inHandler.onCourse 0 (fun c => { c with sup := c.sup.map (fun u => { u with
  trap := { u.trap with resume := p } }) })

/-- HandlerWords, LeavingSupervisorMode: RESUME at the last word of the address space, misaligned and beyond it; registers
of the course that can be read; and escalated traps answered. -/
theorem test_handlerWords :
    meets (resuming (2 ^ 52 - 8)) (.sret h0) h0 (fun s x => x.act ≠ 0#32 ∧ (s.issuer x).sup.isSome = true ∧
      (s.issuer x).record.resume % 8 = 0 ∧ (s.issuer x).record.resume < 2 ^ 52) ∧
    meets (resuming 4) (.sret h0) h0 (fun s x => x.act ≠ 0#32 ∧ (s.issuer x).record.resume % 8 ≠ 0) ∧
    meets (resuming (2 ^ 52)) (.sret h0) h0 (fun s x => x.act ≠ 0#32 ∧ (s.issuer x).record.resume % 8 = 0 ∧
      2 ^ 52 ≤ (s.issuer x).record.resume) ∧
    meets inHandler (.sretEsc h0) h0 (fun s x => x.act ≠ 0#32 ∧ (s.core (s.issuer x).core).bank = some x.crs) ∧
    meets (resuming 8) (.haltLanes h0) h0 (fun s x => x.act ≠ 0#32 ∧ ∃ u, (s.issuer x).sup = some u ∧ u.trap.resume % 8 = 0 ∧
      u.trap.resume < 2 ^ 52) ∧
    meets inHandler (.sysrdS (r 10 (v 0) (v 0) (s 0) true)) h0 (fun s x => ((s.issuer x).unifCell false 0).empty = false) ∧
    meets inHandler (.syswr (r 8 (s 4) (v 0) (v 0) true)) h0 (fun _ x => x.act ≠ 0#32) ∧
    meets inHandler (.sysrdV (r 3 (v 0) (v 0) (v 40) false)) h0 (fun s x => (s.issuer x).laneEmpty false 40 x.act = false) ∧
    meets inHandler (.syswrS (r 0 (s 3) (v 0) (s 40) true)) h0 (fun s x => x.act ≠ 0#32 ∧
      ((s.issuer x).unifCell false 40).empty = false) ∧
    meets inHandler (.haltGrid h0) h0 (fun _ x => x.act ≠ 0#32) ∧
    meets ready (.trap (r 0 (k 5) (v 0) (v 0) true)) h0 (fun _ x => x.act ≠ 0#32) ∧
    (let s := waiting (.escalated { code := 0x06 } (some true))
     s.running (s.course 0) = true ∧ (s.course 0).sup = none ∧ (s.course 0).slot0.wait = .escalated { code := 0x06 } (some true)) ∧
    (∃ u, (inHandler.course 0).sup = some u ∧ u.slot < 2 ∧ (inHandler.core (inHandler.course 0).core).bank = some 0 ∧
      u.trap.resume % 8 = 0 ∧ u.trap.resume < 2 ^ 52) := by
  refine ⟨by decide, by decide, by decide, by decide, ⟨by decide, by decide, ?_⟩, by decide, by decide, by decide, by decide,
    by decide, by decide, by decide, ?_⟩
  · exact ⟨⟨{ code := 0x15, pc := 0, resume := 8 }, 0, 0xFFFFFFFF#32, [], []⟩, by decide⟩
  exact ⟨⟨{ code := 0x15, pc := 0, resume := 8 }, 0, 0xFFFFFFFF#32, [], []⟩, by decide⟩

/-- The ready course with one pending word of unit 5. -/
def pending (k : PendKind) (s : State) : State := s.onCourse 0 (fun c => { c with
  nextPend := 1, pend := [{ id := 0, unit := .special, kind := k, fills := [(⟨false, true, 4⟩, 1#32)], flags := flNX, may := flNX, pc := 0, slot := 0, act := 1#32, sup := false }] })

/-- ResultsLand: a value and an access that may land, in a team that runs and in one that is saved. -/
theorem test_resultsLand :
    let alone := fun (s : State) => ∀ q ∈ (s.course 0).pend, q.id ≠ 0 → q.turn ≠ 0
    let value := pending (.values [.lane false 4 0 7#32 false]) ready
    let access := pending (.access (.shared 0) (.load false 4 4) [⟨0, 0, 0, 0⟩]) ready
    let saved := value.onTeam 0 (fun t => { t with state := .saved })
    let may := fun (s : State) => (s.course 0).pend.any (fun p => ((s.course 0).pend.find? (fun q => q.id == p.id)) == some p &&
      s.mayLand 0 p && !p.orphan && !(s.course 0).trapsOn p.flags)
    let on := value.onCourse 0 (fun c => c.setReg 1 flNX)
    ((value.team (value.course 0).team).state ≠ .saved ∧ may value = true ∧ alone value) ∧
    ((on.course 0).pend.all (fun p => on.mayLand 0 p && (on.course 0).trapsOn p.flags && !p.orphan && p.slot == 0) = true ∧
      (on.course 0).taken 0 = true ∧ (on.course 0).sup = none ∧ (on.course 0).reenter = none ∧
      ((on.course 0).slotN 0).wait = .none ∧ alone on) ∧
    ((saved.team (saved.course 0).team).state = .saved ∧ may saved = true) ∧
    ((access.team (access.course 0).team).state ≠ .saved ∧ may access = true) ∧
    (∀ j, ∀ n t, ((ready.course 0).slotN j).wait ≠ .arith n t) := by
  refine ⟨by decide, by decide, by decide, by decide, fun j n t => ?_⟩
  have : ((ready.course 0).slotN j).wait = .none := by unfold Course.slotN; split <;> rfl
  rw [this]; simp

/-- The ready package with the pages of `paged`. -/
def homed : State := paged ready

/-- The homed course with an address in the pair s2, and lane 0 alone in m1. -/
def aimed (a : Nat) : State := homed.onCourse 0 (fun c => { unifIs 2 (regPart a 0) (unifIs 3 (regPart a 1) c) with m := [(1, 1#32)] })

/-- A format-M word of channel 2 with the uniform base s2. -/
def toChan (sz : Size) : MWord := m 12 2 2 sz true 0

/-- A packet of channel 2 of team 0 for die 0 that stores one byte at physical address 4 × 2^16. -/
def parcel (seq : Nat) : Packet :=
  { key := ⟨0, 0, 2, ⟨0, 0, false⟩⟩, ctag := 1, die := 0, core := 0, gen := 0, seq := seq, rehome := false, ntf := none,
    body := .store [⟨2 ^ 16, 4 * 2 ^ 16, [7#8], false⟩] }

/-- A stream with its window full of packets in flight. -/
def fullStream : Stream :=
  { dest := ⟨0, 0, false⟩, opened := true, pkts := List.replicate 64 { pkt := parcel 0, op := 0, sentAt := some 0 } }

/-- Channel 2 of the team has the full stream. -/
def windowFull (s : State) : State := s.onChan 0 2 (fun c => { c with streams := [fullStream] })

/-- Channel 3 of the team has n streams open. -/
def streaming (n : Nat) (s : State) : State :=
  s.onChan 0 3 (fun c => { c with streams := List.replicate n { dest := ⟨0, 1, false⟩, opened := true } })

/-- ChannelWords: the last doubleword of a page, with room; a stream with its window full; a stream table with no entry free;
and, the page in outer memory, no slice to hold a shadow copy. -/
theorem test_channelWords : let w := { toChan .b64 with head := h1 }
    let a := 2 ^ 16 + 65528
    let clear := fun (i : Instr) (ntf : Bool) (s : State) (x : Ctx) =>
      x.act ≠ 0#32 ∧ (s.chan (s.issuer x).team w.ch.toNat).cause = 0 ∧ (ntf = true → MWord.counter w < (s.lrOf (s.issuer x)).events) ∧
      s.poisoned (s.issuer x) x i.fields = none ∧
      (∀ L ∈ lanesOf x.act, s.chanAddr x (s.issuer x) w ntf L % (w.size.bytes : Int) = 0 ∧ 0 ≤ s.chanAddr x (s.issuer x) w ntf L ∧
        s.chanAddr x (s.issuer x) w ntf L + w.size.bytes ≤ (2 ^ 52 : Nat)) ∧
      s.checkPages (s.ctxOf (s.issuer x)) (x.trap 0) true
        ((lanesOf x.act).map (fun L => ⟨L, (s.chanAddr x (s.issuer x) w ntf L).toNat, 2, .any⟩)) = .ok
    let room := fun (ntf : Bool) (s : State) (x : Ctx) =>
      (s.tlbFill (s.ctxOf (s.issuer x)) ((channelItems w ntf s x).map (fun i => i.va))).roomFor 0 2 true [(⟨0, 0, false⟩, 1)] = true
    meets (aimed a) (.stg w true true) h1 (fun s x => clear (.stg w true true) true s x ∧ room true s x) ∧
    meets (aimed a) (.redg w .add true false) h1 (fun s x => clear (.redg w .add true false) false s x ∧ room false s x) ∧
    meets (aimed a) (.atomg w .cas true false) h1 (fun s x => clear (.atomg w .cas true false) false s x ∧ room false s x) ∧
    let slices := fun (s : State) => { s.memWrite (2 ^ 16 + 13) [2#8] [] with fenced := (List.range 32).map (fun n => (.slice, n)) }
    let shadows := fun (s : State) (x : Ctx) => (channelItems w false s x).foldl (fun (t : Option State) i => t.bind (fun t =>
      t.shadowAdd 0 2 .add 8 i.va i.pa i.dest (s.laneGroup (s.issuer x) x.sup 12 2 i.lane % 2 ^ 64)))
      (some (s.tlbFill (s.ctxOf (s.issuer x)) ((channelItems w false s x).map (fun i => i.va))))
    meets (aimed a) (.redgSh w .add) h1 (fun s x => clear (.redgSh w .add) false s x ∧ (shadows s x).isSome = true) ∧
    meets (windowFull (aimed a)) (.stg w false false) h1 (fun s x => clear (.stg w false false) false s x ∧
      s.roomFor 0 2 false [(⟨0, 0, false⟩, 1)] = false ∧ s.entriesFor 0 2 [(⟨0, 0, false⟩, 1)] = true) ∧
    meets (streaming 256 (aimed a)) (.stg w false false) h1 (fun s x => clear (.stg w false false) false s x ∧
      s.entriesFor 0 2 [(⟨0, 0, false⟩, 1)] = false) ∧
    meets (slices (windowFull (aimed a))) (.redgSh w .add) h1 (fun s x => clear (.redgSh w .add) false s x ∧ (shadows s x).isNone = true ∧
      s.entriesFor 0 2 [(⟨0, 0, false⟩, 1)] = true) ∧
    meets (slices (streaming 256 (aimed a))) (.redgSh w .add) h1 (fun s x => clear (.redgSh w .add) false s x ∧ (shadows s x).isNone = true ∧
      s.entriesFor 0 2 [(⟨0, 0, false⟩, 1)] = false) := by
  and_intros <;> decide +kernel

/-- ChannelChecks: each check, failing alone. -/
theorem test_channelChecks : let w := toChan .b64
    let i := Instr.stg w false false
    let broken := homed.onChan 0 2 (fun c => { c with cause := 2, addr := 64 })
    meets broken i h0 (fun s x => x.act ≠ 0#32 ∧ (s.chan (s.issuer x).team w.ch.toNat).cause ≠ 0) ∧
    meets homed (.stg { w with ofs := 128#16 } false true) h0 (fun s x => x.act ≠ 0#32 ∧
      (s.lrOf (s.issuer x)).events ≤ MWord.counter { w with ofs := 128#16 }) ∧
    meets (homed.onCourse 0 (fun c => c.setLane false 12 4 ⟨0#32, false, true⟩)) i h0 (fun s x => x.act ≠ 0#32 ∧
      s.poisoned (s.issuer x) x i.fields = some (4, 12)) ∧
    meets (aimed 4) i h0 (fun s x => x.act ≠ 0#32 ∧
      (lanesOf x.act).find? (fun L => s.chanAddr x (s.issuer x) w false L % (w.size.bytes : Int) ≠ 0) = some 0) ∧
    meets (aimed (2 ^ 52)) i h0 (fun s x => x.act ≠ 0#32 ∧
      (lanesOf x.act).find? (fun L => s.chanAddr x (s.issuer x) w false L < 0 ||
        decide ((2 ^ 52 : Int) < s.chanAddr x (s.issuer x) w false L + w.size.bytes)) = some 0) := by
  and_intros <;> decide +kernel

/-- The homed package with a packet sent on channel 2. -/
def sent : State :=
  { homed.onChan 0 2 (fun c => { c with streams := [{ dest := ⟨0, 0, false⟩, opened := true, nextSeq := 1,
                                                       pkts := [{ pkt := parcel 0, op := 0, sentAt := some 0 }] }] }) with
    net := [.packet (parcel 0)] }

/-- ChannelControl: a channel with an operation outstanding and one without; counters of the grid, reached and not. -/
theorem test_channelControl :
    meets sent (.creset (r 0 (v 2) (v 0) (v 0) true)) h0 (fun s x => x.act ≠ 0#32 ∧ (s.chan 0 2).busyBelow 1 = true) ∧
    meets sent (.creset (r 0 (v 3) (v 0) (v 0) true)) h0 (fun s x => x.act ≠ 0#32 ∧ (s.chan 0 3).busyBelow (s.nextOpOf 0) = false) ∧
    meets ready (.cjoin (r 0 (v 3) (k 1) (v 0) true)) h0 (fun s x => x.act ≠ 0#32 ∧ ∀ n < 16, (s.chan 0 n).cause = 0) ∧
    meets ready (.evwait (r 0 (k 127) (s 2) (v 0) true)) h0 (fun s x => x.act ≠ 0#32 ∧ s.usrc x (k 127) < (s.lrOf (s.issuer x)).events ∧
      s.src x ⟨.unif, 2#8⟩ 2 0 ≤ s.event 0 1 127) ∧
    meets (readyWith (unifIs 2 1#32)) (.evwait (r 0 (k 127) (s 2) (v 0) true)) h0 (fun s x => x.act ≠ 0#32 ∧
      s.event 0 1 127 < s.src x ⟨.unif, 2#8⟩ 2 0) ∧
    meets (readyWith (unifIs 4 128#32)) (.evadd (r 0 (s 4) (k 1) (v 0) true)) h0 (fun s x => x.act ≠ 0#32 ∧
      ¬ s.usrc x ⟨.unif, 4#8⟩ < (s.lrOf (s.issuer x)).events) ∧
    meets (aimed 0) (.locq { r 4 (v 6) (v 0) (v 0) false with head := h1 }) h1 (fun s x => x.act ≠ 0#32 ∧ ∀ L ∈ lanesOf x.act,
      s.translate (s.ctxOf (s.issuer x)) (s.src x (v 6) 2 L) ≠ .wait) := by
  and_intros <;> decide +kernel

/-- ChannelWakes: a drain that is complete, on a whole channel and on a broken one, and one that is not; a counter reached
and not reached. -/
theorem test_channelWakes :
    let drain := fun (s : State) => s.onCourse 0 (fun c => c.onSlot 0 (fun y => { y with wait := .cdrain 4 1 true false }))
    let broken := (drain homed).onChan 0 2 (fun c => { c with cause := 2 })
    ((drain homed).running ((drain homed).course 0) = true ∧ ((drain homed).team 0).drained 4 1 false = true ∧
      (drain homed).lowestBroken 0 (maskChannels 4 16) = none) ∧
    (broken.running (broken.course 0) = true ∧ (broken.team 0).drained 4 1 false = true ∧
      broken.lowestBroken 0 (maskChannels 4 16) = some 2) ∧
    (((drain sent).course 0).slot0.wait = .cdrain 4 1 true false ∧ ((drain sent).team 0).drained 4 1 false = false) ∧
    (let s := waiting (.evwait 5 0)
     (s.course 0).slot0.wait = .evwait 5 0 ∧ s.running (s.course 0) = true ∧ 0 ≤ s.event (dieOf (s.course 0).core) 1 5) ∧
    (let s := waiting (.evwait 5 1)
     (s.course 0).slot0.wait = .evwait 5 1 ∧ s.event (dieOf (s.course 0).core) (s.ctxOf (s.course 0)) 5 < 1) := by
  and_intros <;> decide +kernel

/-- The refusal of the packet sent. -/
def refusal (moved retry : Bool) : NetRefusal := { key := (parcel 0).key, gen := 0, seq := 0, cause := 2, moved := moved, retry := retry, addr := 2 ^ 16 }

/-- ChannelReturns: what comes back for the packet sent, and the timers of its stream at their last cycle. -/
theorem test_channelReturns :
    let key := (parcel 0).key
    let on := fun (s : State) (f : Stream → Stream) => s.onChan 0 2 (fun c => c.onStream key.dest f)
    let st := fun (s : State) => (s.chan 0 2).stream key.dest
    let comes := fun (m : NetMsg) => { sent with net := [m] }
    let own := fun (s : State) => key.chip = s.chip ∧ s.ownStream key = true
    let asked := fun n => { on sent (fun y => { y with resync := some (n, 0) }) with clock := 16000 }
    own (comes (.ack ⟨key, 0, 0, []⟩)) ∧
    (∀ p ∈ [(false, true), (false, false), (true, false)], own (comes (.refusal (refusal p.1 p.2))) ∧
      ((comes (.refusal (refusal p.1 p.2))).refusedPacket (refusal p.1 p.2)).isSome = true ∧
      ((comes (.refusal (refusal p.1 p.2))).refusedPacket (refusal p.1 p.2)) =
        (st (comes (.refusal (refusal p.1 p.2)))).oldest) ∧
    (let s := on (comes (.refusal { refusal false false with seq := 1 })) (fun y => { y with
       pkts := y.pkts ++ [{ pkt := parcel 1, op := 1, sentAt := some 0 }] })
     own s ∧ (s.refusedPacket { refusal false false with seq := 1 }).any (fun q => (st s).oldest != some q) = true) ∧
    (let s := { on homed (fun y => { y with opened := true }) with clock := 1600 }
     (s.team 0).state ≠ .saved ∧ (st s).opened = true ∧ (st s).pkts = [] ∧ (st s).idleSince + 1600 ≤ s.clock) ∧
    (let s := { sent with clock := 40000 }
     own s ∧ (st s).resync = none ∧ (st s).oldest.any (fun q => q.sentAt == some 0 && q.retryAt == none) = true) ∧
    (own (asked 2) ∧ (st (asked 2)).resync = some (2, 0) ∧ (st (asked 3)).resync = some (3, 0)) ∧
    (let s := { asked 1 with net := [.resyncAck ⟨key, 0, 0, [], none⟩] }
     own s ∧ (st s).resync = some (1, 0) ∧ (st s).gen = 0) ∧
    (let s := (on sent (fun y => { y with pkts := y.pkts.map (fun q => { q with moved := true }) })).onChan 0 2 (fun c =>
       { c with paused := true })
     (s.chan 0 2).paused = true ∧ (s.team 0).state = .running ∧
       (∀ y ∈ (s.chan 0 2).streams, ∀ q ∈ y.pkts, ¬ (q.sentAt.isSome = true ∧ q.moved = false)) ∧
       (∀ q ∈ (s.chan 0 2).movedPackets, (∀ e ∈ packetElems q.pkt.body, s.walkWaits (s.gridOf 0).ctx e.1 = false) ∧
         ∀ p ∈ s.rehomePacket 1 q.pkt, p.1 ≠ none) ∧ (s.chan 0 2).movedPackets ≠ []) ∧
    (let s := (streaming 255 (on homed (fun y => { y with opened := true }))).onCourse 0 (fun c => c.onSlot 0 (fun y => { y with wantsEntry := true }))
     (s.team 0).state ≠ .saved ∧ (st s).opened = true ∧ (st s).pkts = [] ∧ 256 ≤ s.streamsOn 0 ∧ s.entryWanted 0 = true) ∧
    (st sent).oldest.isSome = true ∧
    (let s := homed.onTeam 0 (fun t => { t with shadows := [⟨key.dest, 2, 0, 0, [⟨0, 4, .add, 1, 256, 2⟩], 0, false⟩] })
     ((s.team 0).shadows.find? (fun x => x.line == 2)).isSome = true ∧ (s.team 0).state = .running) := by
  and_intros <;> decide +kernel

/-- The destination end of the stream, in generation 0. -/
def door (next : Nat) (stopped : Option Nat) : Ingress := { key := (parcel 0).key, gen := 0, next := next, stopped := stopped }

/-- StreamDestination, PacketsApplied: a packet in its turn at an open stream and at a new one, applied, refused and moved, and
one whose rest is applied; one already applied, also at a stopped stream, one ahead of its turn and one of an old generation; a
stream that is closed; a reset, a close and a RESYNC; a packet that has waited 100 µs; the answer of the host region. -/
theorem test_streamDestination :
    let at_ := fun (b : PacketBody) (g : List Ingress) =>
      ({ homed with net := [.packet { parcel 0 with body := b }], ingress := g } : State)
    let here := fun (s : State) (p : Packet) => p.key.dest.chip = s.chip ∧ p.key.dest.host = false ∧ s.net = [.packet p]
    let b := (parcel 0).body
    let p := fun b => { parcel 0 with body := b }
    (here (at_ b [door 0 none]) (p b) ∧ (at_ b [door 0 none]).ingressOf (parcel 0).key = some (door 0 none) ∧
      (at_ b [door 0 none]).verdict (p b) = .apply) ∧
    (here (at_ b []) (p b) ∧ (at_ b []).ingressOf (parcel 0).key = none ∧ (at_ b []).ingressOn 0 < 8192) ∧
    (isData b = true ∧ (door 0 none).closed = false ∧ (door 0 none).part = none ∧ homed.pieceOf (p b) = bodySize (p b).body) ∧
    (let two := p (.store [⟨2 ^ 16, 4 * 2 ^ 16, [7#8], false⟩, ⟨2 ^ 16 + 1, 4 * 2 ^ 16 + 1, [7#8], false⟩])
     homed.verdict two = .apply ∧ bodySize two.body = 2) ∧
    (let s := { at_ b [{ door 0 none with part := some (p b) }] with net := [] }
     s.ingressOf (parcel 0).key = some { door 0 none with part := some (p b) }) ∧
    (let shut := { door 5 none with closed := true }
     (here (at_ b [shut]) (p b) ∧ (at_ b [shut]).ingressOf (parcel 0).key = some shut ∧ genOlder shut.gen (p b).gen = false) ∧
       genOlder { shut with gen := 255 }.gen (p b).gen = true ∧ genOlder (p b).gen { shut with gen := 1 }.gen = true) ∧
    ((door 5 none).hasApplied 4 = true ∧ (door 5 (some 2)).hasApplied 5 = false ∧ (door 5 none).hasApplied 6 = false) ∧
    homed.verdict (p (.store [⟨2 ^ 16, 4 * 2 ^ 16, [7#8], true⟩])) = .refuse 1 1 (2 ^ 16) ∧
    ({ homed with moved := [(1, 1, 7)] } : State).verdict (p (.store [⟨2 ^ 16, 7 * 2 ^ 16, [7#8], false⟩])) = .moved ∧
    here (at_ .reset [door 0 (some 2)]) (p .reset) ∧
    (here (at_ .close [door 0 none]) (p .close) ∧ (at_ .close [door 0 none]).ingressOf (parcel 0).key = some (door 0 none)) ∧
    (here (at_ (.resync 1) [door 0 none]) (p (.resync 1)) ∧ (door 0 none).gen = (parcel 0).gen) ∧
    (let s := { sent with clock := 80000, ingress := [door 0 none] }
     s.ingressOf (parcel 0).key = some (door 0 none) ∧ NetMsg.packet (parcel 0) ∈ s.net ∧ s.lateHere (parcel 0) = true) ∧
    (∀ e ∈ packetElems b, e.2.2 = false) ∧
    (homed.ctxByTag 1 = some 1 ∧ 127 < homed.countersHeld 1) ∧ poisonedIn homed.poison (4 * 2 ^ 16) 1 = false := by
  and_intros <;> decide +kernel

/-- A ticket of context 1 for entry 3 of slice 0, in generation 1. -/
def coupon : Nat := ticketValue 1 1 3

/-- The homed course with the coupon in s20, and its landing entry. -/
def holding (e : Entry) : State :=
  { homed.onCourse 0 (fun c => unifIs 20 (regPart coupon 0) (unifIs 21 (regPart coupon 1) c)) with entries := [(3, e)] }

/-- The entry of the coupon, ready with 4 bytes for each lane. -/
def landed : Entry := { state := .ready, gen := 1, ctag := 1, size := 4 }

/-- TicketWords: TLD with room and at its quota; REDEEM of a good ticket and of none; a shared block that just fits. -/
theorem test_ticketWords :
    let w := { m 20 2 2 .b64 true 0 with head := h1 }
    let clear := fun (s : State) (x : Ctx) => x.act ≠ 0#32 ∧ (s.chan (s.issuer x).team 2).cause = 0 ∧
      (∀ L ∈ lanesOf x.act, s.effAddr x (s.issuer x) w 2 L % (w.size.bytes : Int) = 0 ∧ 0 ≤ s.effAddr x (s.issuer x) w 2 L ∧
        s.effAddr x (s.issuer x) w 2 L + w.size.bytes ≤ (2 ^ 52 : Nat)) ∧
      s.checkPages (s.ctxOf (s.issuer x)) (x.trap 0) true
        ((lanesOf x.act).map (fun L => ⟨L, (s.effAddr x (s.issuer x) w 2 L).toNat, 1, .any⟩)) = .ok
    let full := (aimed (2 ^ 16)).onTeam 0 (fun t => { t with live := 64 })
    let good := fun (s : State) (x : Ctx) => let t := s.src x ⟨.unif, 20#8⟩ 2 0
      t ≠ 0 ∧ t / 2 ^ 17 % 2 ^ 15 = 0 ∧ ticketGen t ≠ 0 ∧ ticketTag t = (s.context (s.ctxOf (s.issuer x))).tag ∧
      s.fenced.contains (.die, bitsOf t 16 14) = false
    meets (aimed (2 ^ 16)) (.tld w false) h1 (fun s x => clear s x ∧ (s.team 0).live < (s.lrOf (s.issuer x)).quota ∧
      s.roomFor 0 2 false [(⟨0, 0, false⟩, 1)] = true) ∧
    meets full (.tld w true) h1 (fun s x => clear s x ∧ (s.lrOf (s.issuer x)).quota ≤ (s.team 0).live) ∧
    meets (holding landed) (.redeem (r 8 (s 20) (v 0) (v 0) false) .b32) h0 (fun s x => x.act ≠ 0#32 ∧ good s x) ∧
    meets ready (.redeem (r 8 (s 20) (v 0) (v 0) false) .b32) h0 (fun s x => s.src x ⟨.unif, 20#8⟩ 2 0 = 0) ∧
    meets ((holding landed).onCourse 0 (unifIs 30 65024#32)) (.redeemSh (r 0 (s 20) (s 30) (v 0) true)) h0 (fun s x =>
      x.act ≠ 0#32 ∧ good s x ∧ s.usrc x ⟨.unif, 30#8⟩ % 16 = 0 ∧
      s.usrc x ⟨.unif, 30#8⟩ + 512 = (s.lrOf (s.issuer x)).shared ∧ s.copyFull x.crs = false) ∧
    meets (holding landed) (.tdrop (r 0 (s 20) (v 0) (v 0) true)) h0 (fun s x => x.act ≠ 0#32 ∧ s.src x ⟨.unif, 20#8⟩ 2 0 ≠ 0) ∧
    meets ({ holding landed with fenced := [(.die, bitsOf coupon 16 14)] } : State) (.redeem (r 8 (s 20) (v 0) (v 0) false) .b32) h0
      (fun s x => let t := s.src x ⟨.unif, 20#8⟩ 2 0
        t ≠ 0 ∧ t / 2 ^ 17 % 2 ^ 15 = 0 ∧ ticketGen t ≠ 0 ∧ ticketTag t = (s.context (s.ctxOf (s.issuer x))).tag ∧
        s.fenced.contains (.die, bitsOf t 16 14) = true) ∧
    meets (windowFull (aimed (2 ^ 16))) (.tld w false) h1 (fun s x => clear s x ∧
      (s.team 0).live < (s.lrOf (s.issuer x)).quota ∧ s.roomFor 0 2 false [(⟨0, 0, false⟩, 1)] = false ∧
      s.entriesFor 0 2 [(⟨0, 0, false⟩, 1)] = true) ∧
    (coupon ≠ 0 ∧ ticketTag coupon = 1 ∧ landed.matches coupon = true) := by
  and_intros <;> decide +kernel

/-- LandingEntries: a request with a free entry; bytes that land; redemptions, delivery, expiry, and a TLD that waits. -/
theorem test_landingEntries :
    let q : TldReq := { crs := 0, team := 0, pend := 0, ch := 2, n := 4, lanes := [], die := 0, slice := 0, refusals := 6,
                        prio := none, op := 0, acq := 0 }
    let asks := { homed with tldReqs := [(0, q)] }
    let data : ReadReturn := { key := (parcel 0).key, reader := .ticket 3 1, lane := 0, va := 0, pa := 0, bytes := [1#8],
                               poison := [], line := [], linePoison := [], moment := 0 }
    let comes := { holding { landed with state := .pending, waiting := [0] } with net := [.data data] }
    let claim := Claim.regs 0 0 8 4 1#32 false
    let live := fun (e : Entry) => e.matches coupon = true ∧ (e.state = .pending ∨ e.state = .ready)
    ((asks.entry (entryKey 0 0 511)).state = .free ∧ asks.mayAllocate q = true ∧
      asks.fenced.contains (.slice, 0 * 32 + 0) = false) ∧
    (let p := { q with prio := some 1, refusals := 9 }
     ({ homed with tldReqs := [(0, q), (1, p)] } : State).mayAllocate q = false ∧ q.refusals < 7) ∧
    (comes.net = [.data data] ∧ data.key.chip = comes.chip ∧ (comes.entry 3).gen = 1 ∧ 0 ∈ (comes.entry 3).waiting ∧
      (comes.entry 3).team = data.key.team) ∧
    (ticketKey coupon = 3 ∧ live ((holding landed).entry 3) ∧ ¬ live ((holding { landed with gen := 2 }).entry 3)) ∧
    (let e := (holding { landed with state := .claimed, claim := some claim }).entry 3
     e.state = .claimed ∧ e.waiting = [] ∧ e.claim = some claim) ∧
    ((holding landed).course 0).live ≠ 0#32 ∧
    (let s := (holding { landed with age := 2 ^ 40 }).setGrid 0 { ready.grid 0 with lr := { (ready.grid 0).lr with lifetime := 0 } }
     (s.entry 3).state = .ready ∧ (s.grid (s.entry 3).grid).lr.lifeCycles ≤ (s.entry 3).age) ∧
    (let s := waiting (.quota q 20)
     (s.course 0).slot0.wait = .quota q 20 ∧ s.running (s.course 0) = true ∧ (s.course 0).notBarred 0 = true ∧ (s.course 0).nextRefusal 0 = none ∧
       (s.team (s.course 0).team).live < (s.lrOf (s.course 0)).quota) ∧
    (∀ made ∈ [0, 31], (∀ s ∈ [holding { landed with state := .claimed, claim := some (.shared 0 0 16 0 0 made) }],
      (s.entry 3).state = .claimed ∧ (s.entry 3).waiting = [] ∧ s.redeemWaits 0 0 0 = false)) ∧
    (pending (.access (.shared 0) (.load false 4 4) []) homed).redeemWaits 0 1 0 = true ∧
    (let s := { holding landed with sliceReqs := [(7, .redeem coupon (.shared 0 0 16 0 0 0) 0 0 1#32 false none)] }
     let t := s.onCourse 0 (fun c => c.onSlot 0 (fun y => { y with wait := .verdict 7 }))
     live (t.entry (ticketKey coupon)) ∧ t.running (t.course 0) = true ∧ ((t.course 0).slotN 0).wait = .verdict 7 ∧
       Tab.find t.sliceReqs 7 = some (.redeem coupon (.shared 0 0 16 0 0 0) 0 0 1#32 false none)) := by
  and_intros <;> decide +kernel

/-- CopyWords: a lane that copies the last 16 bytes of a page into the team's block, and a tile of one row of 16 bytes. -/
theorem test_copyWords :
    let w := { r 8 (v 2) (k 2) (v 0) false with head := h1 }
    let s1 := (aimed 0).onCourse 0 (fun c => laneIs 2 0 (wd (2 ^ 16 + 65520)) (laneIs 8 0 65520#32 c))
    let t := r 0 (s 16) (k 2) (v 0) true
    let s2 := homed.onCourse 0 (fun c => unifIs 16 65536#32 (unifIs 18 65520#32 (unifIs 19 16#32 (unifIs 20 65552#32 (unifIs 21 16#32 c)))))
    let d := s2.latch (s2.wordCtx h0) (s2.issuer (s2.wordCtx h0)) t false .rne false false
    meets s1 (.cpy w .g2s .b128 false) h1 (fun s x => x.act = 1#32 ∧ s.copyChecks x 2 none = none ∧
      (s.cpyLane x (s.issuer x) w .g2s 16 0 [(0, 2 ^ 16 + 65520)]).res = .ok ∧ s.copyRoom x.crs (s.issuer x) = true ∧
      s.roomFor 0 2 false [(⟨0, 0, false⟩, 0)] = true) ∧
    meets s2 (.tcpy t false .rne false false false) h0 (fun s x => x.act ≠ 0#32 ∧ s.copyChecks x 2 none = none ∧
      d.badField = none ∧ d.misaligned = false ∧ d.outside (s.lrOf (s.issuer x)).shared x = none ∧
      (s.lookPages (s.ctxOf (s.issuer x)) (x.trap 0) false d.pages).res = .ok ∧ s.copyRoom x.crs (s.issuer x) = true) ∧
    meets (ready.setGrid 0 { ready.grid 0 with lr := { (ready.grid 0).lr with xfer := 0 } }) (.cpy (r 8 (v 2) (k 2) (v 0) false)
      .g2s .b128 false) h0 (fun s x => x.act ≠ 0#32 ∧ s.copyChecks x 2 none = some (x.trap 0x0E)) := by
  and_intros <;> decide +kernel

/-- A copy of 4 bytes from the fabric to the team's block, with its operation open. -/
def copying (done : Bool) : State :=
  homed.onTeam 0 (fun t => { t with copies := [(8,
    { crs := 0, count := 0, ch := 2, bar := none, n := 4, tcpy := none, after := 0, flags := 0#32, may := 0#32,
      pc := 0, slot := 0, act := 1#32,
      ops := [{ lanes := [⟨0, .main (2 ^ 16) (4 * 2 ^ 16) ⟨0, 0, false⟩, .here (.shared 0) 16⟩], reads := [0], done := done }] })] })

/-- CopyProgress: an operation whose bytes have come; a copy that is done; WAITC with as many operations as it allows and
with one more. -/
theorem test_copyProgress :
    let data : ReadReturn := { key := (parcel 0).key, reader := .copy 8 0, lane := 0, va := 2 ^ 16, pa := 4 * 2 ^ 16,
                               bytes := [1#8, 2#8, 3#8, 4#8], poison := [], line := [], linePoison := [], moment := 0 }
    let s := { copying false with net := [.data data] }
    let counts := fun (n : Nat) => readyWith (fun c => { c with eng := { copy := List.replicate n ⟨0, false, []⟩ } })
    (s.copyTeam 8 = some 0 ∧ (s.team 0).state ≠ .saved ∧ (Tab.find (s.team 0).copies 8).isSome = true ∧
      dataFits 8 0 0 [0] [data] = true ∧ (s.takeData [data]).isSome = true ∧
      (s.team 0).copies.all (fun e => e.2.ops.all (fun o => !o.done && o.got.isNone && !s.copyWaits 0 8 e.2 o)) = true) ∧
    ((pending (.access (.shared 0) (.load false 4 4) []) (copying false)).team 0).copies.all (fun e => e.2.ops.all (fun o =>
      (pending (.access (.shared 0) (.load false 4 4) []) (copying false)).copyWaits 0 8 { e.2 with after := 1 } o)) = true ∧
    ((copying true).copyTeam 8 = some 0 ∧
      ((copying true).team 0).copies.all (fun e => ((copying true).team 0).copyDone 8 e.2 && e.2.bar.isNone &&
        !((copying true).course e.2.crs).trapsOn (e.2.flags &&& e.2.may)) = true) ∧
    (let s := ((copying true).onTeam 0 (fun t => { t with copies := t.copies.map (fun _ cp => { cp with flags := flNX, may := flNX }) })).onCourse
       0 (fun c => c.setReg 1 flNX)
     (s.team 0).copies.all (fun e => (s.course e.2.crs).trapsOn (e.2.flags &&& e.2.may) && (s.course e.2.crs).taken e.2.slot) = true ∧
       (s.course 0).sup = none ∧ (s.course 0).reenter = none ∧ ((s.course 0).slotN 0).wait = .none) ∧
    meets (counts 2) (.waitc (r 0 (k 2) (v 0) (v 0) true) .copy) h0 (fun s x => ((s.issuer x).eng.path .copy).length ≤ s.usrc x (k 2)) ∧
    meets (counts 3) (.waitc (r 0 (k 2) (v 0) (v 0) true) .copy) h0 (fun s x => x.act ≠ 0#32 ∧
      s.usrc x (k 2) < ((s.issuer x).eng.path .copy).length) ∧
    (let s := waiting (.waitc .copy 0)
     s.running (s.course 0) = true ∧ ((s.course 0).eng.path .copy).length ≤ 0) := by
  and_intros <;> decide +kernel

/-- MatrixWords: full fragments and room; an empty fragment, a poisoned one, a format register that names no format; tiles
at the end of the team's, and an ACCST at the end of the block. -/
theorem test_matrixWords :
    let w := r 4 (v 32) (v 40) (v 48) false
    let i := Instr.mmas w .fm1 .fm1 false
    let regs := fun (s : State) (x : Ctx) => (List.range 8).map (fun i => (32 + i, x.act)) ++
      (List.range 8).map (fun i => (40 + i, s.columnLanes (s.issuer x))) ++ [(48, s.columnLanes (s.issuer x))]
    let empty := fun (s : State) (x : Ctx) => (regs s x).any (fun g => (s.issuer x).laneEmpty x.sup g.1 g.2)
    let bad := fun (s : State) (x : Ctx) => ((regs s x).flatMap (fun g =>
      ((lanesOf g.2).filter (fun L => s.lanePoison (s.issuer x) x.sup g.1 L)).map (fun L => (L, g.1)))).head?
    let e : MatEntry := ⟨4, 0, .zero 0 1, 0#32, 0#32, false, 0, 0, 0, 1#32⟩
    let full := formatted.onBay 0 0 (fun b => { b with queue := List.replicate 8 e })
    let st := fun (n : Nat) => m 0 4 0 .b8 true n
    let at_ := readyWith (unifIs 4 32768#32)
    meets formatted i h0 (fun s x => x.act ≠ 0#32 ∧ empty s x = false ∧ bad s x = none ∧
      (s.issuer x).badFormat [1, 1] = none ∧ s.queueRoom (s.issuer x) 4 = true) ∧
    meets full i h0 (fun s x => s.queueRoom (s.issuer x) 4 = false) ∧
    meets (readyWith (fun c => c.setLane false 40 5 ⟨0#32, true, false⟩)) i h0 (fun s x => x.act ≠ 0#32 ∧ empty s x = true) ∧
    meets (readyWith (fun c => c.setLane false 40 5 ⟨0#32, false, true⟩)) i h0 (fun s x => x.act ≠ 0#32 ∧ empty s x = false ∧
      bad s x = some (5, 40)) ∧
    meets ready i h0 (fun s x => empty s x = false ∧ bad s x = none ∧ (s.issuer x).badFormat [1, 1] = some 1) ∧
    meets ready (.accz (r 12 (k 4) (v 0) (v 0) true)) h0 (fun s x => x.act ≠ 0#32 ∧ 12 + 4 = 4 * (s.lrOf (s.issuer x)).tiles ∧
      s.queueRoom (s.issuer x) 1 = true) ∧
    meets ready (.accz (r 12 (k 5) (v 0) (v 0) true)) h0 (fun s x => x.act ≠ 0#32 ∧ 4 * (s.lrOf (s.issuer x)).tiles < 12 + 5) ∧
    meets at_ (.accst (st 31744)) h0 (fun s x => x.act ≠ 0#32 ∧ s.effAddr x (s.issuer x) (st 31744) 1 0 % 128 = 0 ∧
      s.effAddr x (s.issuer x) (st 31744) 1 0 + 1024 = ((s.lrOf (s.issuer x)).shared : Int)) ∧
    meets at_ (.accst (st 31872)) h0 (fun s x => x.act ≠ 0#32 ∧
      s.effAddr x (s.issuer x) (st 31872) 1 0 % 128 = 0 ∧
      ((s.lrOf (s.issuer x)).shared : Int) < s.effAddr x (s.issuer x) (st 31872) 1 0 + 1024) ∧
    meets ready (.accld (st 64)) h0 (fun s x => x.act ≠ 0#32 ∧
      s.effAddr x (s.issuer x) (st 64) 1 0 % 128 ≠ 0) ∧
    meets ready (.mbatch h0) h0 (fun s x => x.act ≠ 0#32 ∧ (s.issuer x).eng.mat.length < 255) ∧
    meets (readyWith (fun c => { c with eng := { mat := List.replicate 255 ⟨0, false, []⟩ } })) (.mbatch h0) h0 (fun s x =>
      x.act ≠ 0#32 ∧ 255 ≤ (s.issuer x).eng.mat.length) := by
  and_intros <;> decide +kernel

/-- MatrixUnit: a quarter-operation in its first step and in its last; an entry that may be performed. -/
theorem test_matrixUnit :
    let e := fun (w : MatWork) => ({ id := 4, crs := 0, work := w, flags := 0#32, sup := false, after := 0, pc := 0, slot := 0,
                                     act := 1#32 } : MatEntry)
    let q := fun (w : MatWork) => (ready.onBay 0 0 (fun b => { b with queue := [e w] }))
    let quarter := fun n => MatWork.quarter 0 [] [] .bf16 .bf16 0#32 0#32 16 false false false n
    (((q (quarter 0)).core 0).bay 0).queue = [e (quarter 0)] ∧ 0 + 1 < 16 / matStride 16 ∧ 16 / matStride 16 ≤ 16 / matStride 16 - 1 + 1 ∧
    ((q (quarter 0)).team 0).state ≠ .halting ∧
    ((q (quarter 0)).onTeam 0 (fun t => { t with state := .halting })).team ((q (quarter 0)).course (e (quarter 0)).crs).team =
      { (q (quarter 0)).team 0 with state := .halting } ∧
    (∀ w ∈ [MatWork.load 0 0 (List.range 64), .store 0 0 [7]], (q w).entryWaits (e w) = false) := by
  and_intros <;> decide +kernel

/-- The homed package with group 3, whose only member is this package, bound to domain barrier 2. -/
def grouped : State := homed.onContext 1 (fun c => { c with
  groups := [(3, { entry := 1 + 2 ^ 9, members := [0], parents := [0xFFFF] })], dbars := [(2, { group := 3 })] })

/-- CollectiveWords: a lane with 256 bytes, and one with 260, which R397 does not allow. -/
theorem test_collectiveWords :
    let w := { r 10 (v 8) (k 3) (v 0) true with head := h1 }
    let s := fun n => ({ grouped with courses := (aimed 0).courses } : State).onCourse 0 (fun c =>
      laneIs 8 0 65536#32 (laneIs 10 0 65792#32 (laneIs 13 0 n c)))
    let ar := ({ grouped with courses := (aimed 0).courses } : State).onCourse 0 (fun c => laneIs 8 0 65536#32 (laneIs 13 0 256#32 c))
    meets (s 256#32) (.collGet { w with b := ⟨.lane, 0#8⟩ }) h1 (fun s x => x.act = 1#32 ∧
      (s.collLane x (s.issuer x) w .get [(0, 65536), (0, 65792)] 0).res = .ok ∧ (s.issuer x).eng.coll.length < 255) ∧
    meets (s 260#32) (.collGet { w with b := ⟨.lane, 0#8⟩ }) h1 (fun s x => x.act = 1#32 ∧
      (s.collLane x (s.issuer x) w .get [(0, 65536), (0, 65792)] 0).res = .trap { x.illegalOperand with lane := some 0 }) ∧
    meets (s 256#32) (.collPut { w with b := ⟨.lane, 0#8⟩, c := k 127 } true) h1 (fun s x =>
      s.usrc x (k 127) < (s.lrOf (s.issuer x)).events ∧
      (s.collLane x (s.issuer x) w (.put (some 127)) [(0, 65536), (0, 65792)] 0).res = .ok) ∧
    meets ar (.collAr w .f32 .add) h1 (fun s x => s.usrc x (k 3) ≤ 255 ∧ s.groupOf (s.ctxOf (s.issuer x)) 3 =
        some { entry := 1 + 2 ^ 9, members := [0], parents := [0xFFFF] } ∧
      (s.collLane x (s.issuer x) w (.ar .f32 .add 3 0) [(0, 65536)] 0).res = .ok) ∧
    meets ready (.collAr { w with head := h0 } .f32 .add) h0 (fun s x => x.act ≠ 0#32 ∧ s.groupOf (s.ctxOf (s.issuer x)) 3 = none) ∧
    meets (readyWith (unifIs 3 256#32)) (.csig (r 12 ⟨.unif, 3#8⟩ (v 0) (v 0) true)) h0 (fun s x => x.act ≠ 0#32 ∧ 255 < s.usrc x ⟨.unif, 3#8⟩) := by
  and_intros <;> decide +kernel

/-- A COLL of one lane in flight: 256 bytes at page 1 to or from the bytes beside them. -/
def collecting (mode : CollMode) (result : Option (List Byte × List Nat)) : State :=
  { grouped with colls := [(0, { crs := 0, pend := 0, count := 0, ctx := 1, mode := mode, since := 0, lanes :=
      [{ lane := 0, localVa := 65536, localPa := 4 * 65536, remoteVa := 65792, remotePa := 4 * 65536 + 256, peer := ⟨0, 0, false⟩,
         len := 4, key := 7, result := result }] })] }

/-- CollectiveWork: a lane that may be worked on, for each mode; a put that arrives; a word that is complete; a timeout. -/
theorem test_collectiveWork :
    let lane := fun (s : State) => (Tab.find s.colls 0).any (fun k => k.cause == 0 && k.lanes.all (fun l => !l.done && l.cause == 0)) = true
    let place := fun (s : State) (va : Nat) (rd : Bool) => (match s.ownPlace 1 va rd with
      | .ok h => h == (⟨0, 0, false⟩, 3 * 65536 + va)
      | .error _ => false) = true
    let put := collecting (.put none) none
    let ar := collecting (.ar .i32 .add 3 0) none
    let p : CollPut := { chip := 1, ctag := 1, dest := ⟨0, 0, false⟩, va := 65536, pa := 4 * 65536, bytes := [1#8], poison := [], ntf := none }
    lane put ∧ place put 65536 true ∧ (lane (collecting .get none) ∧ place (collecting .get none) 65792 true ∧
      place (collecting .get none) 65536 false) ∧
    (lane ar ∧ (∃ g, ar.groupOf 1 3 = some g ∧ g.members = [ar.chip] ∧ ar.groupWhole g = true)) ∧
    (lane (collecting (.ar .i32 .add 3 0) (some ([1#8, 2#8, 3#8, 4#8], [])))) ∧
    (p.dest.chip = ready.chip ∧ p.chip ≠ ready.chip) ∧ homed.verdict (enginePacket 0 1 ⟨0, 0, false⟩ 65536 (4 * 65536) [1#8] false none) = .apply ∧
    (let s := (pending .remote put).onCourse 0 (fun c => c)
     (s.course 0).pendDest 0 = some (4, false)) ∧
    (let s := { (ar.onContext 1 (fun c => { c with groups := [(3, { entry := 1 + 2 * 2 ^ 9, members := [0, 1], parents := [0xFFFF, 0] })] })) with
       clock := 2 ^ 40 }
     ∃ g, s.groupOf 1 3 = some g ∧ 0 + g.timeout ≤ s.clock ∧ 2 ≤ g.members.length) := by
  refine ⟨by decide +kernel, by decide +kernel, by decide +kernel, ⟨by decide +kernel, ⟨_, rfl, by decide +kernel⟩⟩,
    by decide +kernel, by decide +kernel, by decide +kernel, by decide +kernel, ⟨_, rfl, by decide +kernel⟩⟩

/-- The aimed course with the registers of an XSEND to window 5 of this package in lane 0 of v8 to v15, from page 1. -/
def sending (va : Nat) : State := (aimed 0).onCourse 0 (fun c =>
  laneIs 8 0 (wd va) (laneIs 10 0 (wd (5 * 2 ^ 10)) (laneIs 11 0 0x80000000#32 c)))

/-- ExchangeWords: the largest and the smallest size, one beyond each, and windows at the end of the grid's. -/
theorem test_exchangeWords :
    let w := fun n => { r 4 (v 8) (s n) (v 0) false with head := h1 }
    let st := fun n => (sending 65536).onCourse 0 (unifIs 20 n)
    let all := fun (n : Nat) (s : State) (x : Ctx) => (lanesOf x.act).flatMap (fun L => pagesOf L
      (s.collReg x (s.issuer x) (w 20) L 0 + s.collReg x (s.issuer x) (w 20) L 1 * 2 ^ 32) n 1 .package)
    let recv := fun n => Instr.xrecvStat (r 10 (k n) (v 0) (v 0) true)
    (∀ p ∈ [(16#32, 16), (4080#32, 4080)], meets (st p.1) (.xsend (w 20)) h1 (fun s x => x.act ≠ 0#32 ∧ s.usrc x (w 20).b = p.2 ∧
      (∀ L ∈ lanesOf x.act, (s.sendLane x (s.issuer x) (w 20) p.2 (all p.2 s x) L).res = .ok) ∧ (s.issuer x).eng.xch.length < 255)) ∧
    meets (st 0#32) (.xsend (w 20)) h1 (fun s x => x.act ≠ 0#32 ∧ ¬ 16 ≤ s.usrc x (w 20).b) ∧
    meets (st 24#32) (.xsend (w 20)) h1 (fun s x => x.act ≠ 0#32 ∧ ¬ s.usrc x (w 20).b % 16 = 0) ∧
    meets (st 4096#32) (.xsend (w 20)) h1 (fun s x => x.act ≠ 0#32 ∧ ¬ s.usrc x (w 20).b ≤ 4080) ∧
    meets ready (recv 127) h0 (fun s x => x.act ≠ 0#32 ∧ s.usrc x (k 127) < (s.lrOf (s.issuer x)).windows) ∧
    meets (readyWith (unifIs 20 128#32)) (.xrecvStat (r 10 (s 20) (v 0) (v 0) true)) h0 (fun y x => x.act ≠ 0#32 ∧
      (y.lrOf (y.issuer x)).windows ≤ y.usrc x (s 20)) := by
  and_intros <;> decide +kernel

/-- A token of 16 bytes for window 5 of this package, in flight. -/
def token : Token :=
  { schip := 0, word := 0, lane := 0, ctag := 1, primChip := 0, primWin := 5, sec := none, redir := false, list := 0, seq := 0,
    tag := 0, index := 0, va := 65536, size := 16, sent := true, bytes := List.replicate 16 7#8, poison := [] }

/-- The homed package with window 5 of context 1: slots of 64 bytes at page 1. -/
def windowed (y : Window) : State := { homed with windows := [(windowKey 1 5, y)], tokens := [token] }

/-- Windows: a token to send, to place and forwarded; a window with a slot, full, and too small; a complete XSEND; and
what XRECV.cfg accepts and refuses. -/
theorem test_windows :
    let y : Window := { base := 65536, n := 2, z := 1, counter := 0xFFFFFFFF, f := 1 }
    let full : Window := { y with f := 2 }
    let big := { token with size := 64 }
    let has := fun (s : State) (t : Token) (y : Window) => s.ctxByTag t.ctag = some 1 ∧ Tab.find s.windows (windowKey 1 5) = some y
    (let t := { token with sent := false }
     let s := { windowed y with tokens := [t] }
     t ∈ s.tokens ∧ t.schip = s.chip ∧ s.nextToSend t = true) ∧
    (token ∈ (windowed y).tokens ∧ token.primChip = (windowed y).chip ∧ Tab.get 0 (windowed y).listNext (listKey token) = token.seq) ∧
    (let t := { token with redir := true, sec := some (0, 5) }
     let s := { windowed y with tokens := [t] }
     t ∈ s.tokens ∧ (0 : Nat) = s.chip) ∧
    (has (windowed y) token y ∧ token.size + 16 ≤ 64 * y.z ∧ (y.f + 2 ^ 32 - y.fr) % 2 ^ 32 < y.n ∧
      ((windowed y).windowWrite 1 (y.base + 64 * y.z * (y.f % y.n)) (tokenHeader token ++ token.bytes, [])).toOption.isSome = true) ∧
    (has (windowed full) token full ∧ full.n ≤ (full.f + 2 ^ 32 - full.fr) % 2 ^ 32) ∧
    (has (windowed y) big y ∧ 64 * y.z < big.size + 16) ∧
    (let s := pending .remote
       { homed with xsends := [(0, { crs := 0, pend := 0, count := 0, lanes := [0],
                                                           done := [⟨0, 1, 0⟩] })] }
     (s.course 0).pendDest 0 = some (4, false) ∧ (∀ L ∈ [0], [(⟨0, 1, 0⟩ : TokenDone)].any (fun e => e.lane == L) = true) ∧
       ∀ t ∈ s.tokens, ¬ (t.schip = s.chip ∧ t.word = 0)) ∧
    (homed.windowOk 1 65536 1024 1 127 128 = true ∧ Tab.find homed.windows (windowKey 1 5) = none ∧ homed.tokenInFlight 1 5 = false) ∧
    homed.windowOk 1 65536 1025 1 127 128 = false ∧ homed.windowOk 1 65536 1 65 127 128 = false ∧
      homed.windowOk 1 65536 1 1 128 128 = false ∧ homed.windowOk 1 65536 0 1 127 128 = false := by
  and_intros <;> decide +kernel

/-- DomainBarriers: a barrier of the context and none; phases passed at each end and not passed; an arrival that may be
counted and one that may not; a phase that may complete, where no course is placed, and one that another member holds up;
a timeout. -/
theorem test_domainBarriers :
    let a : DbarArr := ⟨0, 0, 0, 2, 0⟩
    let bar := fun (n : Nat) (since : Option Nat) => grouped.onContext 1 (fun c => { c with dbars := [(2, { group := 3, arrivals := n, since := since })] })
    let arr := fun s => pending .remote { s with dbarArrs := [(0, a)] }
    let i := Instr.dbarWait (r 0 (k 2) (k 1) (v 0) true)
    let d : DBar := { group := 3, completed := 5 }
    meets grouped (.dbarArr (r 4 (k 2) (v 0) (v 0) true)) h0 (fun s x => x.act ≠ 0#32 ∧ (s.dbarFor x 2).isSome = true) ∧
    meets grouped i h0 (fun s x => x.act ≠ 0#32 ∧ s.usrc x (k 2) = 2 ∧ s.dbarFor x 2 = some { group := 3 } ∧
      (DBar.passed { group := 3 } (s.usrc x (k 1) % 2 ^ 16)) = false) ∧
    (d.passed 4 = true ∧ d.passed 5 = false ∧ d.passed (2 ^ 16 + 5 - 32768) = true ∧ d.passed (2 ^ 16 + 5 - 32769) = false) ∧
    meets (grouped.onContext 1 (fun c => { c with dbars := [(2, d)] })) (.dbarWait (r 0 (k 2) (k 4) (v 0) true)) h0 (fun s x =>
      x.act ≠ 0#32 ∧ s.dbarFor x 2 = some d ∧ d.passed (s.usrc x (k 4) % 2 ^ 16) = true) ∧
    meets ready i h0 (fun s x => x.act ≠ 0#32 ∧ s.dbarFor x 2 = none) ∧
    (let s := arr grouped
     (s.team 0).drained 0xFFFF 0 true = true ∧ Tab.find (s.context (s.gridOf 0).ctx).dbars 2 = some { group := 3 } ∧
       (s.course 0).pendDest 0 = some (4, false)) ∧
    (sent.team 0).drained 0xFFFF 1 true = false ∧
    (let s := { bar 1 none with courses := [] }
     (∃ g, s.dbarOf 1 2 = some ({ group := 3, arrivals := 1 }, g) ∧ ∀ m ∈ g.members, m = s.chip) ∧
       ∀ h ∈ s.courses, s.ctxOf (s.course h.1) ≠ 1) ∧
    (let s := waiting (.dbar 2 4)
     let s := s.onContext 1 (fun c => { c with dbars := [(2, d)] })
     (s.course 0).slot0.wait = .dbar 2 4 ∧ Tab.find (s.context (s.ctxOf (s.course 0))).dbars 2 = some d ∧
       s.running (s.course 0) = true) ∧
    (let s := { bar 1 (some 0) with clock := 2 ^ 40 }
     ∃ g, s.dbarOf 1 2 = some ({ group := 3, arrivals := 1, since := some 0 }, g) ∧ 0 + g.timeout < s.clock) := by
  refine ⟨by decide +kernel, by decide +kernel, by decide +kernel, by decide +kernel, by decide +kernel, by decide +kernel,
    by decide +kernel, ⟨⟨_, rfl, by decide +kernel⟩, by decide +kernel⟩, by decide +kernel, ⟨_, rfl, by decide +kernel⟩⟩

/-- A queue of context 1 whose ring and words lie in page 1. -/
def fifo : Queue :=
  { ctx := 1, prio := 1, devFed := true, slots := 2, ring := 65536 + 4096, tailAddr := 65536 + 512, headAddr := 65536 + 520, tail := 1 }

/-- The homed package with queue 7 and a LAUNCH to it on its way. -/
def launching (q : Queue) : State := pending .remote
  { homed with queues := [(7, q)], launches := [(0, { crs := 0, team := 0, pend := 0, queue := 7, addr := 65536, upto := 0 })] }

/-- Launching: an aligned record and one at 64; a submission to a queue that is not device-fed, to a full one and to one
with room; tail words in and out of range. -/
theorem test_launching :
    let s1 := fun (n : Word) => readyWith (unifIs 4 n)
    let i := Instr.launch (r 10 (s 4) (k 7) (v 0) true)
    let may := fun (q : Queue) => Tab.find (launching q).launches 0 = some ⟨0, 0, 0, 7, 65536, 0⟩ ∧
      ((launching q).team 0).busyBelow 0xFFFF 0 = false ∧ ((launching q).course 0).pendDest 0 = some (4, false) ∧ q.ctx = ((launching q).gridOf 0).ctx ∧
      (launching q).launchWaits 1 ⟨0, 0, 0, 7, 65536, 0⟩ = false
    let tail := fun (q : Queue) (n : Nat) => ({ homed with queues := [(7, q)] } : State).memWrite (4 * 65536 + 512) (bytesOf 8 n) []
    let sees := fun (q : Queue) (n : Nat) => Tab.find (tail q n).queues 7 = some q ∧
      ((tail q n).tailWord q.ctx q.tailAddr).any (fun b => !Bytes2.bad b && Bytes2.num b % 2 ^ 32 != q.tail &&
        ({ q with tail := Bytes2.num b % 2 ^ 32 } : Queue).used == n) = true
    let host := { fifo with devFed := false }
    meets (s1 128#32) i h0 (fun s x => x.act ≠ 0#32 ∧ s.unifGroup (s.issuer x) x.sup 4 2 % 128 = 0) ∧
    meets (s1 64#32) i h0 (fun s x => x.act ≠ 0#32 ∧ s.unifGroup (s.issuer x) x.sup 4 2 % 128 ≠ 0) ∧
    may host ∧ (may { fifo with tail := 2 } ∧ ({ fifo with tail := 2 } : Queue).used = fifo.slots) ∧
    (may fifo ∧ fifo.used ≠ fifo.slots ∧ ((launching fifo).frontRead 1 65536 128).any (fun b => !Bytes2.bad b &&
      (((launching fifo).frontWrite 1 (fifo.slotAddr fifo.tail) (b.map (fun y => y.1))).bind (fun t =>
        t.frontWrite 1 fifo.tailAddr (bytesOf 8 2))).isSome) = true) ∧
    (sees host 2 ∧ 2 ≤ host.slots) ∧ (sees host 3 ∧ host.slots < 3) ∧ sees fifo 2 := by
  and_intros <;> decide +kernel

/-- The bytes of a launch record: one team of one course with 8 registers for each lane, entry at 0. -/
def record (teams : Nat) : List Byte :=
  (List.range 128).map (fun i =>
    if i = 0x10 then BitVec.ofNat 8 teams else if i = 0x14 ∨ i = 0x15 ∨ i = 0x16 then 1#8 else if i = 0x18 then 8#8
    else if i = 0x22 ∨ i = 0x24 then 1#8 else if i = 0x25 then 0xFF#8 else 0#8)

/-- The homed package with the record in the ring of queue 7, no team placed, and only the core 0 of a die to place one. -/
def fed (teams : Nat) (q : Queue) : State :=
  ({ homed with queues := [(7, q)], courses := [], teams := [], grids := [] } : State).memWrite (4 * 65536 + 4096) (record teams) []

theorem packed_mono (cap : Nat → Nat) (rs : List (List Nat)) (u : Tab Nat) (n : Nat) :
    n ≤ (rs.foldl (fun (a : Tab Nat × Nat) cs =>
      let k := cs.foldl (fun m c => min m (cap c - Tab.get 0 a.1 c)) 8
      if k = 0 then a else (cs.foldl (fun u c => Tab.put u c (Tab.get 0 u c + k)) a.1, a.2 + k)) (u, n)).2 := by
  induction rs generalizing u n with
  | nil => exact Nat.le_refl n
  | cons cs t ih =>
    simp only [List.foldl_cons]
    split
    · exact ih u n
    · exact Nat.le_trans (Nat.le_add_right n _) (ih _ _)

/-- Where core 0 has room, a team of a cluster of one fits. -/
theorem hasRoom_one (s : State) (r : LaunchRec) (held : Nat → Load) (hw : r.w = 1) (hh : r.h = 1) (hu : s.coreUsable 0 = true)
    (hc : 1 ≤ capacity r (held 0)) : s.hasRoom r 1 held = true := by
  have hk : ∀ die y x, rankCore r die y x = fun k => die * Config.coresPerDie + (y + k / 1) * 16 + x + k % 1 := by
    intros; funext k; simp only [rankCore, hw]
  have hr : rectangles r = [0] :: (rectangles r).tail := by simp only [rectangles, hw, hh, hk]; decide +kernel
  have h0 : Tab.get 0 ([] : Tab Nat) 0 = 0 := rfl
  have hg : (((List.range (Config.dies * Config.coresPerDie)).map (fun c =>
      if s.coreUsable c then capacity r (held c) else 0)).getD 0 0) = capacity r (held 0) := by
    simp [List.getD, show 0 < Config.dies * Config.coresPerDie by decide, hu]
  simp only [State.hasRoom, Bool.or_eq_true, decide_eq_true_eq, packed]
  refine .inl ?_
  rw [hr, List.foldl_cons]
  simp only [List.foldl_cons, List.foldl_nil, hg, h0, Nat.sub_zero]
  rw [if_neg (by omega)]
  exact Nat.le_trans (by omega) (packed_mono _ _ _ _)

/-- Admission: a record that is taken, one with fields out of range, one that is poisoned or lies nowhere, and one whose
entry is no code; what waits and fits; and the timers at their last cycle. -/
theorem test_admission :
    let q := fifo
    let s := fed 1 q
    let w : Waiting := { lr := parseRecord (record 1), recNo := 0, since := 0 }
    let waits := fun w => fed 1 { q with tail := 0, waiting := some w }
    let ask := fun (what : AgentAsk) => ({ homed with asks := [(5, { since := 0, what := what })], clock := 80000000 } : State)
    (Tab.find s.queues 7 = some q ∧ s.wiping = false ∧ s.lifeCycle = .deployed ∧ s.higherFirst q.prio = false ∧ q.ready = true ∧ s.inTurn 7 q = true ∧
      s.recordWaits q = false) ∧
    (∃ b, s.frontRead q.ctx (q.slotAddr q.head) 128 = some b ∧ s.recordFault q.ctx (some b) = none ∧
      s.frontWrite q.ctx (3 * 65536) (bytesOf 8 1) = none ∧ (s.context q.ctx).duty.testBit 0 = false) ∧
    (let b := (record 0).map (fun x => (x, false))
     Bytes2.bad b = false ∧ recordOk (b.map (fun y => y.1)) = false ∧ s.recordFault 1 (some b) = some 0x0001) ∧
    (Bytes2.bad ((record 1).map (fun x => (x, false))) = false ∧ recordOk (((record 1).map (fun x => (x, false))).map (fun y => y.1)) = true ∧
      ready.inCode 1 (parseRecord (record 1)).entry = false) ∧
    (let t := waits w
     t.higherFirst (t.nextPrio 7 (.fresh w)) = false ∧ t.queueHeld 7 (.fresh w) = false ∧ t.startsInTurn 7 (.fresh w) = true ∧
       w.refused = none ∧ t.partGrids 7 = [] ∧ (t.startNext 7 [⟨0, 0, 0⟩] (.fresh w)).isSome = true ∧
       (Tab.find t.queues 7).any (fun x => x.waiting == some w && !x.halted && w.asked.isNone) = true) ∧
    (let t := (waits w).setGrid 0 { ctx := 1, queue := 7, recNo := 0, prio := 1, lr := w.lr, admitted := 0 }
     t.partGrids 7 = [0] ∧ t.ownHeld 7 (.cluster 0) = false ∧ t.higherFirst (t.nextPrio 7 (.cluster 0)) = false ∧
       t.queueHeld 7 (.cluster 0) = false ∧ t.startsInTurn 7 (.cluster 0) = true ∧
       (t.startNext 7 [⟨0, 0, 0⟩] (.cluster 0)).isSome = true) ∧
    (let t := (waits w).setGrid 0 { ctx := 1, queue := 7, recNo := 0, prio := 1, lr := w.lr, admitted := 0 }
     t.teamFits (t.grid 0).lr 1279 3 = true ∧ (t.grid 0).lr.courses = 1 ∧ (t.grid 0).lr.spill = 0 ∧
       (t.startTeam 0 ⟨0, 1279, 3⟩).isSome = true) ∧
    (let t := { waits { w with lr := { w.lr with coop := true } } with clock := 80000 }
     (Tab.find t.queues 7).any (fun x => x.waiting.any (fun w => w.lr.coop && decide (w.since + 80000 ≤ t.clock))) = true) ∧
    (Tab.find (waits { w with consent := some false }).queues 7).any (fun x => x.waiting.any (fun w => w.consent == some false)) = true ∧
    (∀ what ∈ [AgentAsk.admission 7, .firstTouch 0 0, .recovery 0 0x0112 none], Tab.find (ask what).asks 5 = some { since := 0, what := what } ∧
      0 + 80000000 ≤ (ask what).clock) := by
  refine ⟨by decide +kernel, ⟨(record 1).map (fun x => (x, false)), by decide +kernel, ?_, by decide +kernel⟩, by decide +kernel, by decide +kernel,
    by decide +kernel, by decide +kernel, by decide +kernel, by decide +kernel, by decide +kernel⟩
  have h : (fed 1 fifo).neverFits (parseRecord (record 1)) = false := by
    have := hasRoom_one (fed 1 fifo) (parseRecord (record 1)) (fun _ => {}) (by decide +kernel) (by decide +kernel)
      (by decide +kernel) (by decide +kernel)
    have e : (parseRecord (record 1)).needed = 1 := by decide +kernel
    simp only [State.neverFits, e, this]
    decide +kernel
  have e : ((record 1).map (fun x => (x, false))).map (fun y : Byte × Bool => y.1) = record 1 := by decide +kernel
  simp only [State.recordFault, e, h]
  decide +kernel

/-- The homed package with team 0 in a state, its needs small enough for an image of one frame. -/
def ending (st : TeamState) : State :=
  (homed.onTeam 0 (fun t => { t with state := st })).setGrid 0 { homed.grid 0 with lr := { base := 8, signal := 65536, value := 9 } }

/-- The one free frame of the pool is the one that is taken. -/
theorem ending_takes : ((ending .halting).takeFrames 1 .image (fun f => f.tier == 0 && f.die == 0) 1).isSome = true := by
  have h : (ending .halting).freeFrames 1 (fun _ => true) = [⟨0, 0, 6⟩] := by decide +kernel
  simp [State.takeFrames, h, State.pickFrame, Nat.mod_one]

/-- TeamsEnd: a team that runs, one that may be saved, one that may be restored, one that may be freed and one that broke
a channel; and a grid that has drained, with a completion value or an error word to write. -/
theorem test_teamsEnd :
    let halting := ending .halting
    let saved := ending .saved
    let ended := ending .ended
    let broke := ended.onChan 0 2 (fun c => { c with cause := 2 })
    let free := fun (s : State) => (s.team 0).state = .ended ∧ (s.team 0).shadows = [] ∧ (s.team 0).settled = true ∧
      (s.team 0).copies = [] ∧ s.matQueued (s.team 0) = false ∧ s.accessing (s.team 0) = false
    let gone := ending .freed
    let dead := gone.setGrid 0 { gone.grid 0 with abort := some ⟨0x0112, none⟩ }
    let may := fun (s : State) (w : Nat) => s.drained 0 = true ∧ (s.grid 0).lr.signal ≠ 0 ∧
      s.frontWaits (s.grid 0).ctx (s.grid 0).lr.signal = false ∧
      ((s.reclaim 0).frontWrite (s.grid 0).ctx (s.grid 0).lr.signal (bytesOf 8 w)).isSome = true
    ((ending .running).team 0).state = .running ∧ (ending .running).unitOf 0 = [0] ∧
    (halting.team 0).state = .halting ∧ halting.quiet 0 = true ∧ (halting.team 0).settled = true ∧
      halting.parkedOn (halting.team 0).core = 0 ∧ (halting.grid 0).ctx = 1 ∧ (halting.grid 0).lr.imageFrames = 1 ∧
    (halting.team 0).courses = [0] ∧
    (saved.team 0).state = .saved ∧ saved.unitOf 0 = [0] ∧ saved.copyWaitsMove 0 = false ∧
      saved.clustersOk (saved.gridOf 0).lr [((saved.team 0).number, 1279)] = true ∧
      (saved.restoreTeam ⟨0, 1279, 2⟩).isSome = true ∧
    free ended ∧ (ended.team 0).untrapped = none ∧
    free broke ∧ (broke.grid 0).abort = none ∧ ((broke.team 0).untrapped).isSome = true ∧
    may gone 9 ∧ (gone.grid 0).abort = none ∧
    may dead (errorWord 0 0x0112) ∧ (dead.grid 0).abort = some ⟨0x0112, none⟩ ∧ (ending .running).drained 0 = false := by
  and_intros <;> decide +kernel

/-- The homed course in supervisor mode, with an address in the pair s2 of the handler bank and n in its s12. -/
def paging (a n : Nat) : State :=
  ((aimed 0).onCourse 0 (fun c => (((({ c with sup := inHandler.course 0 |>.sup } : Course).setUnif true 2 { val := regPart a 0 }).setUnif
    true 3 { val := regPart a 1 }).setUnif true 12 { val := wd n }))).onCore 0 (fun k => { k with bank := some 0 })

/-- Paging: each word with an address and an operand at the ends of what it takes; pages of each kind. -/
theorem test_paging :
    let w := fun (d : Nat) => { r d (s 2) (s 12) (v 0) true with head := h1 }
    let page := fun (s : State) (x : Ctx) => s.src x ⟨.unif, 2#8⟩ 2 0 / 2 ^ 16 * 2 ^ 16
    let n := fun (s : State) (x : Ctx) => s.usrc x ⟨.unif, 12#8⟩
    (∀ p ∈ [0, 15, 63], meets (paging (2 * 2 ^ 16) p) (.pgmap (w 10)) h1 (fun s x => x.act ≠ 0#32 ∧
      placementOk (n s x) = true ∧ page s x < 2 ^ 52 ∧ s.walk (s.ctxOf (s.issuer x)) (page s x) ≠ .wait)) ∧
    (∀ p ∈ [8, 14, 64], meets (paging (2 * 2 ^ 16) p) (.pgmap (w 10)) h1 (fun s x => x.act ≠ 0#32 ∧ placementOk (n s x) = false)) ∧
    meets (paging (2 ^ 52) 1) (.pgprot (w 10)) h1 (fun s x => x.act ≠ 0#32 ∧ ¬ page s x < 2 ^ 52) ∧
    meets (paging 65536 1) (.pgprot (w 10)) h1 (fun s x => x.act ≠ 0#32 ∧ s.walk (s.ctxOf (s.issuer x)) (page s x) ≠ .wait) ∧
    (∀ p ∈ [1, 127], meets (paging 65536 p) (.cinv (w 0)) h1 (fun s x => x.act ≠ 0#32 ∧ 1 ≤ n s x ∧ n s x ≤ 127)) ∧
    meets (paging 65536 128) (.cinv (w 0)) h1 (fun s x => x.act ≠ 0#32 ∧ 127 < n s x) ∧
    meets (paging 0 0) (.cinv (w 0)) h1 (fun s x => x.act ≠ 0#32 ∧ n s x = 0) ∧
    homed.walk 1 65536 = .leaf (2 + 3 * 2 ^ 3 + 4 * 2 ^ 20) ∧ homed.walk 1 (2 * 65536) = .fault 2 3 ∧
      homed.frameAt 1 1 0 = none ∧ homed.walk 1 (3 * 65536) = .fault 1 3 ∧
    Tab.has homed.contexts 1 = true ∧ (homed.context 1).duty.testBit 2 = false ∧
    homed.walk 1 (4 * 65536) = .leaf (2 + 3 * 2 ^ 3 + 5 * 2 ^ 20 + 2 ^ 59) ∧ leafHs (2 + 3 * 2 ^ 3 + 5 * 2 ^ 20 + 2 ^ 59) = true := by
  and_intros <;> decide +kernel

/-- UnitsAndLinks: units in service at each end, and links of a domain of two by two. -/
theorem test_unitsAndLinks :
    let two := { ready with domain := 2 }
    let down := { two with linksDown := [(0, 1)] }
    ready.inService 7 = true ∧ (ready.fence .die 7).inService 7 = false ∧ ready.fenced.contains (.core, 1279) = false ∧
    (two.inDomain 0 = true ∧ two.inDomain 1 = true ∧ directPair 0 1 = true ∧ linkDown two.linksDown 0 1 = false ∧
      two.allGroups = [] ∧ two.streamsOver (two.usesGroup 0 1) = []) ∧
    ((two.portPeer 0 = some 1 ∧ two.portPeer 63 = some 32 ∧ ready.portPeer 0 = none) ∧ two.fenced.contains (.port, 63) = false ∧
      two.fenced.contains (.slice, 255) = false) ∧
    (dieLink 6 7 = true ∧ linkDown two.dieLinksDown 6 7 = false) ∧
    linkDown down.linksDown 0 1 = true ∧ down.groupFenced 0 1 = false ∧ down.allGroups = [] ∧ ready.halfApplied = false := by
  and_intros <;> decide +kernel

/-- A request of an OP for context 1. -/
def msg (op : Nat) (body : List Byte) : HostMsg := { op := op, rsv := 0, status := 0, ctx := 1, seq := 3, body := body }

/-- The homed package with its management queue pair open, and page 1 exported under key 6. -/
def served : State := { homed with mgmtOpen := true, exported := [(6, ⟨1, 65536, 65536, true⟩)] }

/-- A request that can be served, as State.canServe has it. -/
abbrev serves (s : State) (m : HostMsg) (op : Nat) : Prop :=
  (s.up = true ∧ s.mgmtOpen = true ∧ s.busy = none ∧ s.bootFailed = false ∧ m.op = op ∧ m.rsv = 0 ∧ m.status = 0 ∧ m.ctx ≤ 255 ∧
    m.body.length ≤ 65536) ∧ LifeCycle.serves s.lifeCycle op = true

theorem serves_iff (s : State) (m : HostMsg) (op : Nat) : serves s m op ↔ s.canServe m op := Iff.rfl

/-- HostPort: accesses at the end of a window and beyond it; a poisoned word; requests of each form. -/
theorem test_hostPort :
    let poisoned := { served with poison := [4 * 65536 + 8] }
    (served.up = true ∧ served.bootFailed = false) ∧
    (served.rdmaWindow 6 (2 * 65536 - 1) 1 true).isSome = true ∧ served.rangeWaits 1 (2 * 65536 - 1) 1 = false ∧
      (served.rangeWrite 1 (2 * 65536 - 1) [7#8]).isSome = true ∧ served.rdmaWindow 6 (2 * 65536 - 1) 2 true = none ∧
      served.rdmaWindow 6 65535 1 false = none ∧ served.rangeRead 1 65536 1 = some [(0#8, false)] ∧
    (({ homed with exported := [(6, ⟨1, 3 * 65536, 65536, true⟩)] } : State).rdmaWindow 6 (3 * 65536) 1 true).isSome = true ∧
      homed.rangeWaits 1 (3 * 65536) 1 = false ∧ homed.rangeWrite 1 (3 * 65536) [7#8] = none ∧
    (poisoned.rangeRead 1 65536 12).any (fun b => (b.findIdx? (fun y => y.2)) == some 8) = true ∧
    serves served (msg 0x0003 []) 0x0003 ∧ definedOps.contains 0x0003 = false ∧
    (msg 0x0001 []).shaped 16 [(0, 8), (8, 2), (12, 4)] = false ∧
    (let m := { msg 0x0041 (List.replicate 8 0#8) with ctx := 2 }
     serves served m m.op ∧ Tab.has served.contexts m.ctx = false ∧ m.shaped 8 [(0, 4)] = true) ∧
    (let m := { msg 0x0010 (List.replicate 32 0#8) with ctx := 2 }
     serves served m m.op ∧ m.shaped 32 [(0, 1), (1, 1), (2, 1), (4, 4), (8, 8), (16, 8), (24, 8)] = true) ∧
    served.held = [] := by
  and_intros <;> decide +kernel

/-- ContextsAndQueues: requests that do their work and requests that are turned away. -/
theorem test_contextsAndQueues :
    let define := { msg 0x0001 (bytesOf 8 1 ++ bytesOf 8 5 ++ []) with ctx := 2, body := bytesOf 8 1 ++ bytesOf 4 5 ++ bytesOf 4 127 }
    let stop := fun (n : Nat) => msg 0x0002 (bytesOf 8 n)
    let create := msg 0x0010 (bytesOf 4 (63 + 3 * 2 ^ 8) ++ bytesOf 4 2 ++ bytesOf 8 65536 ++ bytesOf 8 (65536 + 512) ++ bytesOf 8 (65536 + 520))
    let gone := fun (n : Nat) => (({ homed with grids := [], busy := some (stop n) } : State))
    let queued := { served with queues := [(63, fifo)] }
    let frames := fun (op n k : Nat) => msg op (bytesOf 4 0 ++ bytesOf 4 n ++ bytesOf 4 k ++ bytesOf 4 0)
    let move := msg 0x0022 (bytesOf 8 65536 ++ bytesOf 8 15)
    let export_ := msg 0x0030 (bytesOf 8 (2 ^ 52 - 65536) ++ bytesOf 8 65536 ++ bytesOf 8 1)
    let withdraw := fun (n : Nat) => msg 0x0031 (bytesOf 8 n)
    let has := fun (m : HostMsg) => Tab.has served.contexts m.ctx = true
    (define.shaped 16 [(0, 8), (8, 2), (12, 4)] = true ∧ Tab.has served.contexts define.ctx = false ∧ define.field 8 2 = 5 ∧
      served.ctxByTag 5 = none ∧ tableOk (define.field 0 8) = true ∧ define.field 12 4 = 127 ∧ served.lifeCycle ≠ .decommissioned ∧
      served.wiping = false ∧ has { define with ctx := 1 }) ∧
    ((stop 0).shaped 8 [(0, 4)] = true ∧ (stop 0).field 0 4 = 0 ∧ (stop 1).field 0 4 = 1 ∧ has (stop 0)) ∧
    (∀ n ∈ [0, 1], (gone n).busy = some (stop n) ∧ (gone n).ctxDrained 1 = true) ∧
    (homed.onContext 1 (fun c => { c with pool := [(⟨7, 1, 0⟩, .free)] })).context 1 = { homed.context 1 with pool := [(⟨7, 1, 0⟩, .free)] } ∧
    (create.shaped 32 [(0, 1), (1, 1), (2, 1), (4, 4), (8, 8), (16, 8), (24, 8)] = true ∧ create.field 0 1 = 63 ∧
      Tab.has served.queues 63 = false ∧ served.frontWaits 1 (create.field 16 8) = false ∧
      served.frontWaits 1 (create.field 24 8) = false ∧ served.rangeWaits 1 (create.field 8 8) (128 * create.field 4 4) = false ∧
      served.queueOk 1 create = true ∧ ((served.frontWrite 1 (create.field 24 8) (bytesOf 8 0)).bind (fun t =>
        t.frontWrite 1 (create.field 16 8) (bytesOf 8 0))).isSome = true) ∧
    (Tab.has queued.queues 63 = true ∧ queued.asks = [] ∧ Tab.find queued.queues 63 = some fifo ∧
      (msg 0x0011 (bytesOf 8 63)).field 0 4 = 63 ∧ Tab.find served.queues 63 = none) ∧
    (msgFramesOk (frames 0x0020 1 9) = true ∧ msgFramesBeyond (frames 0x0020 1 9) = false ∧
      (msgFrames (frames 0x0020 1 9)).any served.pooled = false ∧ (msgFrames (frames 0x0020 4 6)).any served.pooled = true) ∧
    (∀ f ∈ msgFrames (frames 0x0021 1 6), (∃ e ∈ (served.context 1).pool, e.1 = f) ∧
      served.mapsFrame (served.mapped 1) (Frame.no f) = false ∧ ∀ e ∈ (served.context 1).pool, e.1 = f → e.2 = .free) ∧
    (move.shaped 16 [(0, 8), (8, 4)] = true ∧ placementOk (move.field 8 4) = true ∧ served.walk 1 65536 ≠ .wait) ∧
    (export_.shaped 24 [(0, 8), (8, 8), (16, 1)] = true ∧ export_.field 16 1 = 1 ∧ export_.field 8 8 ≠ 0 ∧
      export_.field 0 8 % 2 ^ 16 = 0 ∧ export_.field 0 8 + export_.field 8 8 = 2 ^ 52 ∧ served.exported.length < 4096) ∧
    ((withdraw 6).shaped 8 [(0, 4)] = true ∧ Tab.find served.exported 6 = some ⟨1, 65536, 65536, true⟩ ∧
      Tab.find served.exported 5 = none) := by
  and_intros <;> decide +kernel

/-- An object of one data section of no bytes, without kernels, with a signature of 8 bytes. -/
def object : List Byte :=
  bytesOf 4 0x51434F31 ++ [0#8, 2#8, 0#8, 0#8] ++ bytesOf 8 1 ++ bytesOf 8 0x50 ++ bytesOf 8 8 ++
  (bytesOf 4 2 ++ bytesOf 4 8 ++ bytesOf 8 0x40 ++ bytesOf 8 0 ++ bytesOf 8 0) ++ List.replicate 24 7#8

/-- ObjectsAndGroups: an object, the pages that it needs, a group, a barrier and host-shared pages. Signatures:
test_signed. -/
theorem test_objectsAndGroups :
    let load := msg 0x0040 (bytesOf 8 65536 ++ bytesOf 8 0x58 ++ bytesOf 8 1 ++ bytesOf 8 (8 * 65536))
    let entry := 1 + 2 ^ 9
    let group := msg 0x0050 (bytesOf 8 3 ++ bytesOf 8 entry ++ bytesOf 8 65536)
    let bind := fun (g : Nat) => msg 0x0051 (bytesOf 4 (63 + g * 2 ^ 16) ++ bytesOf 4 0)
    let hs := fun (a perm va len arg : Nat) => msg 0x0060 (bytesOf 4 a ++ bytesOf 4 perm ++ bytesOf 8 va ++ bytesOf 8 len ++ bytesOf 8 arg)
    let idle := { served with grids := [] }
    (load.shaped (24 + 8 * load.field 0x10 4) [(0, 8), (8, 8), (16, 4), (24, 8 * load.field 0x10 4)] = true ∧
      load.field 0 8 + load.field 8 8 ≤ 2 ^ 52 ∧ served.rangeWaits 1 65536 0x58 = false ∧
      (served.rangeRead 1 65536 0x58).any (fun b => !Bytes2.bad b) = true) ∧
    (objectOk [] = false ∧ objectOk object = true ∧ (objCounts object).1 = 1 ∧ field object 6 2 = 0 ∧ served.fuse ≤ 0 ∧
      ({ served with fuse := 1 } : State).fuse = 1 ∧ field object 5 1 = 2 ∧ field object 4 1 = 0 ∧ relocsOk object = true ∧
      served.placeSections 1 [8 * 65536] 0 (objSections object) [] = some [8 * 65536]) ∧
    (idle.gridsLive 1 = false ∧ served.gridsLive 1 = true ∧ ((idle.context 1).objects.find? (fun o => o.handle == 1)).isSome = true) ∧
    (group.shaped 24 [(0, 2), (8, 16)] = true ∧ group.field 0 2 = 3 ∧ entryOk (group.field 8 16) = true ∧
      served.rangeWaits 1 (group.field 16 8) (2 * bitsOf (group.field 8 16) 19 9) = false ∧
      served.memberList 1 (group.field 8 16) = some [0] ∧ served.membersOk [0] = true ∧ (served.context 1).duty.testBit 5 = false ∧
      Nat.testBit entry 0 = true) ∧
    ((bind 3).shaped 8 [(0, 1), (2, 2)] = true ∧ (bind 3).field 0 1 = 63 ∧ (bind 3).field 2 2 = 3 ∧ (grouped.groupOf 1 3).isSome = true ∧
      grouped.waitsOn 1 63 = false ∧ grouped.dbarArrs = [] ∧ served.groupOf 1 3 = none) ∧
    (∀ m ∈ [hs 0 0 65536 0 0, hs 1 7 (4 * 65536) 65536 0, hs 2 3 (3 * 65536) 65536 0, hs 3 0 65536 65536 (2 ^ 56 - 1)],
      hsShaped m = true ∧ serves served m 0x0060) ∧
    hsLimits (hs 1 7 (4 * 65536) 65536 0) = true ∧ served.walk 1 (4 * 65536) = .leaf (2 + 3 * 2 ^ 3 + 5 * 2 ^ 20 + 2 ^ 59) ∧
      (served.setPerm 1 (4 * 65536) 7).isSome = true ∧ hsLimits (hs 2 3 (3 * 65536) 65536 0) = true ∧ placementOk 0 = true ∧
      served.walk 1 (3 * 65536) = .fault 1 3 ∧
    (∀ e ∈ served.mapped 1, ¬ (leafHost e.2.1 = true ∧ leafChip e.2.1 = served.chip)) := by
  and_intros <;> decide +kernel

/-- ObjectsAndGroups: an object that can be mapped, and with the one free frame a host-shared page. -/
theorem test_mapped : (served.mapSections 1 object [8 * 65536]).isSome = true ∧ (served.mapShared 1 (3 * 65536) 3 0).isSome = true := by
  refine ⟨by decide +kernel, ?_⟩
  have h : (served.freeFrames 1 (fun f => f.tier == 0)).filter (fun f => f.die == 0) = [⟨0, 0, 6⟩] := by decide +kernel
  have e : served.frameAt 1 0 (Config.freeNat served.stamp (2 ^ 58) % 8) = some ⟨0, 0, 6⟩ := by
    simp [State.frameAt, placeDies, Nat.testBit, b2n, h, State.pickFrame, Nat.mod_one]
  simp only [State.mapShared, e]
  decide +kernel

/-- Management: requests at the ends of what they take; a request of the host's agent that waits for an answer.
Signatures: test_signed. -/
theorem test_management :
    let report := msg 0x0070 (List.replicate 32 1#8 ++ bytesOf 4 0xFFFFFFFF ++ bytesOf 4 0)
    let cmd := fun (a v : Nat) => msg 0x0080 (bytesOf 4 a ++ bytesOf 4 v ++ bytesOf 4 8 ++ bytesOf 4 0 ++ bytesOf 8 9)
    let answer := fun (n : Nat) => msg 0x00A0 (bytesOf 4 5 ++ bytesOf 4 n ++ bytesOf 8 0)
    let asked := fun (what : AgentAsk) => ({ served with asks := [(5, { since := 0, what := what })] } : State)
    (report.shaped 40 [(0, 32), (0x20, 4)] = true ∧ served.hssIndex < 2 ^ 40 ∧ report.field 0x20 4 = 0xFFFFFFFF) ∧
    (∀ m ∈ [cmd 0 1, cmd 0 64, cmd 1 3, cmd 2 0], serves served m 0x0080 ∧
      m.shaped (16 + m.field 8 4) [(0, 4), (4, 4), (8, 4), (16, m.field 8 4)] = true) ∧
    (served.fuse < 1 ∧ ({ served with fuse := 64 } : State).fuse = 64 ∧ LifeCycle.moves served.lifeCycle (lifeOf 0) = false) ∧
    (∀ g ∈ ({ served with grids := [], busy := some (cmd 2 3) } : State).grids, g.2.done = true) ∧
    ((msg 0x0090 (bytesOf 8 511)).shaped 8 [(0, 4)] = true ∧ (msg 0x0090 (bytesOf 8 511)).field 0 4 = 511) ∧
    (let m := msg 0x0091 (bytesOf 4 0 ++ bytesOf 4 1279)
     m.shaped 8 [(0, 2), (4, 4)] = true ∧ m.field 4 4 < (scopeSize (m.field 0 2)).1) ∧
    (let m := msg 0x0092 (bytesOf 4 0 ++ bytesOf 4 64)
     m.shaped 8 [(0, 4), (4, 4)] = true ∧ Tab.has served.contexts m.ctx = true ∧ m.field 4 4 = 64) ∧
    (∀ what ∈ [AgentAsk.firstTouch 0 0, .admission 7], ∀ n ∈ [0, 1], serves (asked what) (answer n) 0x00A0 ∧
      (answer n).shaped 16 [(0, 4), (4, 4)] = true ∧ Tab.find (asked what).asks ((answer n).field 0 4) = some { since := 0, what := what }) ∧
    Tab.find served.asks ((answer 3).field 0 4) = none ∧ State.reset.wiping = true ∧ State.reset.bootFailed = false ∧
    (beyondLimit 0 670 false = true ∧ beyondLimit 0 669 false = false ∧ beyondLimit 6 11001 true = true ∧ beyondLimit 6 11000 true = false) ∧
    physExists 0 = true ∧ (served.grid 0).done = false := by
  and_intros <;> decide +kernel

/-- The ready package with the first word of its line replaced and bits of it marked poisoned. -/
def withLine (w : Nat) (bad : List Nat) : State :=
  (State.reset.withFetchWord 64 w).onCore 0 (fun k => { k with icache := k.icache.map (fun l => { l with bad := bad }) })

/-- StepRunsWord: the ready package's next step is the turn of slot 0 of its course, with an empty agenda and with one
that names its bay; a deferred refusal, a poisoned word, bits that are no word, a word alone and words that ask for a
pair. -/
theorem test_stepRunsWord :
    let turn := fun (w : Nat) (bad : List Nat) => (withLine w bad).nextSlot (withLine w bad) 0 0
    turn 0x0004000000000000 [] ∧
    ({ ready with agenda := [.bay 0 0] } : State).nextSlot { ready with agenda := [] } 0 0 ∧
    ((readyWith (fun c => { c with refusals := [⟨2, 0, { code := 2 }⟩] })).course 0).nextRefusal 0 = some { code := 2 } ∧
    (((withLine 0 [4]).lineOf ((withLine 0 [4]).course 0) 0).any (fun l => decide (l.bad ≠ [])) = true ∧ turn 0 [4]) ∧
    (((withLine 0x0050000000000000 []).lineOf ((withLine 0 []).course 0) 0).any (fun l => l.bad.isEmpty &&
      (decodeWord (l.word 0)).toOption.isNone) = true ∧ turn 0x0050000000000000 []) ∧
    (((withLine 0x8004000000000000 []).lineOf ((withLine 0 []).course 0) 0).any (fun l =>
      (decodeWord (l.word 0)).toOption.any (fun i => i.head?.any (fun h => h.p))) = true ∧ turn 0x8004000000000000 []) := by
  refine ⟨⟨by decide, .inr ⟨rfl, rfl, 0, _, [], rfl, by decide⟩⟩, ⟨by decide, .inl ⟨0, 0, [], rfl, rfl, by decide⟩⟩, by decide,
    ⟨by decide, ⟨by decide, .inr ⟨rfl, rfl, 0, _, [], rfl, by decide⟩⟩⟩, ⟨by decide, ⟨by decide, .inr ⟨rfl, rfl, 0, _, [], rfl, by decide⟩⟩⟩,
    ⟨by decide, ⟨by decide, .inr ⟨rfl, rfl, 0, _, [], rfl, by decide⟩⟩⟩⟩

/-- The step from reset, and a step that runs the word which withFetchWord places: IADDI adds 5 to v2 into v4. -/
theorem test_step :
    (match step (State.reset.withFetchWord 64 0x00F8010080000005) with
     | .next t => ((t.course 0).alu.map (fun w => w.dst)).head? == some (.lane false 4 0 5#32 0xFFFFFFFF#32) && (t.course 0).slot0.pc == 8
     | _ => false) = true := by decide

/-- WordIssue: a word of the handler outside it, a field out of range, an empty destination, an empty source with and
without e, and a poisoned source. -/
theorem test_wordIssue :
    let legal := fun (s : State) (i : Instr) (h : Head) => let x := s.wordCtx h
      s.atIssue = true ∧ (privileged i = true → x.sup = true) ∧ i.fields.all (fun f => f.ok (s.limits (s.issuer x) x.sup)) = true
    let add := Instr.iadd (r 4 (v 3) (v 5) (v 0) false) false false
    let he := { h0 with e := true }
    let addE := Instr.iadd { r 4 (v 3) (v 5) (v 0) false with head := he } false false
    let empty := fun (n : Nat) => readyWith (fun c => c.setLane false n 31 ⟨0#32, true, false⟩)
    let bad := readyWith (fun c => c.setLane false 5 31 ⟨0#32, false, true⟩)
    State.reset.atIssue = false ∧ (ready.atIssue = true ∧ privileged (.cinvCtx h0) = true ∧ (ready.wordCtx h0).sup = false) ∧
    (let i := Instr.iadd (r 128 (v 3) (v 5) (v 0) false) false false
     ready.atIssue = true ∧ privileged i = false ∧ i.fields.all (fun f => f.ok (ready.limits (ready.issuer (ready.wordCtx h0)) false)) = false) ∧
    (legal (empty 4) add h0 ∧ ((empty 4).issuer ((empty 4).wordCtx h0)).destEmpty ((empty 4).wordCtx h0) add.fields = true) ∧
    (∀ p ∈ [(add, h0), (addE, he)], legal (empty 5) p.1 p.2 ∧
      ((empty 5).issuer ((empty 5).wordCtx p.2)).destEmpty ((empty 5).wordCtx p.2) p.1.fields = false ∧
      ((empty 5).issuer ((empty 5).wordCtx p.2)).sourceEmpty ((empty 5).wordCtx p.2) p.1.fields = true) ∧
    (legal bad add h0 ∧ add.ownPoison = false ∧ bad.poisoned (bad.issuer (bad.wordCtx h0)) (bad.wordCtx h0) add.fields = some (31, 5)) ∧
    ((ready.course 0).slotN 0).pc + 8 ≠ 2 ^ 52 ∧
    (((readyWith (fun c => c.onSlot 0 (fun y => { y with pc := 2 ^ 52 - 8 }))).course 0).slotN 0).pc + 8 = 2 ^ 52 := by
  and_intros <;> decide +kernel

/-- UnitsAndFormats: the shared units busy for one more cycle, and a format register that holds no format. -/
theorem test_unitsAndFormats :
    let busy := ready.onBay 0 0 (fun b => { b with specialUntil := 1, crossbarUntil := 1, distUntil := 1 })
    meets busy (.rcp (r 4 (v 3) (v 0) (v 0) false)) h0 (fun s x => x.act ≠ 0#32 ∧ s.clock < (s.issuerBay x).specialUntil) ∧
    meets busy (.shfl (r 4 (v 3) (k 1) (v 0) false) .bfly .s32) h0 (fun s x => s.clock < (s.issuerBay x).crossbarUntil) ∧
    meets busy (.dget (r 4 (v 0) (k 1) (v 0) false) false) h0 (fun s x => s.clock < (s.issuerBay x).distUntil) ∧
    meets ready (.deq (r 4 (v 3) (v 5) (v 0) false) .rne 1#3) h0 (fun s x => x.act ≠ 0#32 ∧ fmtValid ((s.issuer x).fmReg 1) = false) ∧
    [0x10 / 16, 0x10 % 16].filterMap cvtFm = [] ∧ (ready.course 0).trapsOn flNX = false := by
  and_intros <;> decide +kernel

/-- RegisterWrites, WordFrame, StepKeepsMemory: courses in both modes, words of each class and a memory with bytes. -/
theorem test_frames : (inHandler.course 0).sup.isSome = true ∧ 0x20 ≤ (Instr.rcp (r 4 (v 3) (v 0) (v 0) false)).opcode ∧
    (Instr.nop h0).head?.isSome = true ∧ (Instr.nop h0).opcode = 0x01 ∧ (Instr.jmark h0 5#32).opcode < 0x20 ∧
    Memory.wf homed.mem = true ∧ homed.mem ≠ [] := by decide

/-- Launching: the submission leaves the courses as they are; a tail word of a device-fed queue that another agent wrote. -/
theorem test_submission :
    ((launching fifo).frontRead 1 65536 128).all (fun b =>
      (((launching fifo).frontWrite 1 (fifo.slotAddr fifo.tail) (b.map (fun y => y.1))).bind (fun t =>
        t.frontWrite 1 fifo.tailAddr (bytesOf 8 2))).all (fun t => t.courses == (launching fifo).courses)) = true ∧
    (let q := { fifo with touched := true }
     let s : State := { homed with queues := [(7, q)] }
     Tab.find s.queues 7 = some q ∧ q.halted = false ∧ q.devFed = true ∧ (s.tailWord q.ctx q.tailAddr).isSome = true) := by
  and_intros <;> decide +kernel

/-- The data page while it is being moved: its leaf has MIG set (R417, R430). -/
def moving (s : State) : State :=
  { s.memWrite (2 ^ 16 + 15) [0x40#8] [] with moves := [⟨1, 65536, 2 + 3 * 2 ^ 3 + 4 * 2 ^ 20, ⟨0, 0, 6⟩⟩] }

/-- Paging: a page that is being moved, with a packet for it half applied and with none; the table of each level. -/
theorem test_moving :
    let w := { r 10 (s 2) (s 12) (v 0) true with head := h1 }
    let part := { moving homed with ingress := [{ key := (parcel 0).key, gen := 0, next := 0, part := some (parcel 0) }] }
    meets (moving (paging 65536 1)) (.pgprot w) h1 (fun s x => x.act ≠ 0#32 ∧
      s.walk (s.ctxOf (s.issuer x)) (s.src x ⟨.unif, 2#8⟩ 2 0 / 2 ^ 16 * 2 ^ 16) = .wait) ∧
    (moving homed).moveOf 1 65536 = some ⟨1, 65536, 2 + 3 * 2 ^ 3 + 4 * 2 ^ 20, ⟨0, 0, 6⟩⟩ ∧ (moving homed).partIn 4 = false ∧
    part.moveOf 1 65536 = some ⟨1, 65536, 2 + 3 * 2 ^ 3 + 4 * 2 ^ 20, ⟨0, 0, 6⟩⟩ ∧ part.partIn 4 = true ∧
    homed.moveOf 1 65536 = none ∧ homed.moveWaits 1 65536 = false ∧
    (∀ lvl ∈ [1, 2, 3], (homed.tableName 1 65536 lvl).isSome = true) := by
  and_intros <;> decide +kernel

/-- Paging: with the one free frame of the pool there is a frame for a table. -/
theorem test_tableFrame : (homed.frameAt 1 0 0).isSome = true := by
  have h : (homed.freeFrames 1 (fun f => f.tier == 0)).filter (fun f => f.die == 0) = [⟨0, 0, 6⟩] := by decide +kernel
  simp [State.frameAt, placeDies, Nat.testBit, b2n, h, State.pickFrame, Nat.mod_one]

/-- HostPort: a request with a body that is too long, and one in a life-cycle state that does not allow it. -/
theorem test_turnedAway :
    (let m := msg 0x0080 (List.replicate 65537 1#8)
     served.up = true ∧ served.mgmtOpen = true ∧ served.busy = none ∧ served.bootFailed = false ∧ 65536 < m.body.length) ∧
    (let s := { served with lifeCycle := .provisioned }
     let m := msg 0x0090 (bytesOf 8 511)
     s.takesRequest m 0x0090 ∧ m.shaped 8 [(0, 4)] = true ∧ m.field 0 4 < 512 ∧ s.lifeCycle ≠ .deployed) := by
  refine ⟨⟨rfl, rfl, rfl, rfl, ?_⟩, by unfold State.takesRequest; decide +kernel⟩
  show 65536 < (List.replicate 65537 1#8).length
  rw [List.length_replicate]; decide

/-- ContextsAndQueues: frames in use; a page that is free to move, one that is not the context's to move, and a move under way. -/
theorem test_poolFrames :
    let frames := fun (op n k : Nat) => msg op (bytesOf 4 0 ++ bytesOf 4 n ++ bytesOf 4 k ++ bytesOf 4 0)
    let move := fun (va : Nat) => msg 0x0022 (bytesOf 8 va ++ bytesOf 8 15)
    let moved := { served with busy := some (move 65536), moves := [⟨1, 65536, 2 + 3 * 2 ^ 3 + 4 * 2 ^ 20, ⟨0, 0, 6⟩⟩] }
    ((msgFrames (frames 0x0021 1 4)) = [⟨0, 0, 4⟩] ∧ served.usesFrame 4 = true ∧ (msgFrames (frames 0x0021 1 1)) = [⟨0, 0, 1⟩] ∧
      (served.context 1).pool.contains (⟨0, 0, 1⟩, .table) = true ∧ served.usesFrame 6 = false) ∧
    (∀ va ∈ [65536, 4 * 65536], placementOk ((move va).field 8 4) = true ∧ served.walkWaits 1 va = false ∧ served.moveWaits 1 va = false) ∧
    (served.migrate 1 (4 * 65536) 15 true).2 = 1 ∧
    moved.busy = some (move 65536) ∧ moved.moveOf 1 65536 = some ⟨1, 65536, 2 + 3 * 2 ^ 3 + 4 * 2 ^ 20, ⟨0, 0, 6⟩⟩ ∧ moved.partIn 4 = false := by
  and_intros <;> decide +kernel

/-- ContextsAndQueues: a page that can move to the one free frame. -/
theorem test_migrates : (homed.migrate 1 65536 0 true).2 = 0 := by
  have h : (homed.freeFrames 1 (fun f => f.tier == 0)).filter (fun f => f.die == 0) = [⟨0, 0, 6⟩] := by decide +kernel
  have e : homed.frameAt 1 0 0 = some ⟨0, 0, 6⟩ := by
    simp [State.frameAt, placeDies, Nat.testBit, b2n, h, State.pickFrame, Nat.mod_one]
  have w : homed.walk 1 65536 = .leaf (2 + 3 * 2 ^ 3 + 4 * 2 ^ 20) := by decide +kernel
  have o : homed.ownLeaf 1 65536 = some homed := by decide +kernel
  have d : leafDie (2 + 3 * 2 ^ 3 + 4 * 2 ^ 20) = 0 := by decide
  have c : (leafChip (2 + 3 * 2 ^ 3 + 4 * 2 ^ 20) ≠ homed.chip || leafHs (2 + 3 * 2 ^ 3 + 4 * 2 ^ 20) || leafLost (2 + 3 * 2 ^ 3 + 4 * 2 ^ 20) ||
    homed.inWindow 1 65536 || (true && homed.pageInCode 1 65536)) = false := by decide +kernel
  simp only [State.migrate, w, c, d, e, o]
  decide

/-- ObjectsAndGroups, Management: an object whose pages stay; answers to a question of recovery; a wipe after which a fenced
unit is reported; and places of errors. -/
theorem test_recovery :
    let answer := fun (n : Nat) => msg 0x00A0 (bytesOf 4 5 ++ bytesOf 4 n ++ bytesOf 8 0)
    let a : Ask := { since := 0, what := .recovery 0 0x0112 none }
    let s : State := { served with asks := [(5, a)] }
    let booting : State := { State.reset with fenced := [(.core, 1279)] }
    ((served.context 1).objects.all (fun o => o.pages.any (served.walkWaits 1) == false) = true) ∧
    (∀ n ∈ [2, 3], serves s (answer n) 0x00A0 ∧ (answer n).shaped 16 [(0, 4), (4, 4)] = true ∧
      Tab.find s.asks ((answer n).field 0 4) = some a ∧ a.answer = none ∧ (answer n).field 4 4 = n) ∧
    (booting.wiping = true ∧ booting.bootFailed = false ∧ booting.up = false ∧ booting.fenced = [(.core, 1279)]) ∧
    (∀ p ∈ [ErrorPlace.dram 0, .lane 0 255 31, .shared 5 0], ready.placeExists p = (p != .shared 5 0)) ∧
    (roomy.placeExists (.shared 0 7) = true ∧ (roomy.spaceBlock (.shared 0)).poison = []) ∧
    ready.placeExists (.tlb 0) = false ∧ ({ ready with tlb := [⟨1, 0, 1, 0⟩] } : State).placeExists (.tlb 0) = true := by
  and_intros <;> decide +kernel

/-- StepRunsWord: a pair that finds no partner; WordIssue: a store with no active lane; UnitsAndFormats: a busy pipeline and
no active lane. -/
theorem test_noLanes :
    let w := { toChan .b64 with head := h1 }
    let none_ := (aimed 0).onCourse 0 (fun c => { c with m := [(1, 0#32)] })
    let busy := ready.onBay 0 0 (fun b => { b with specialUntil := 1, crossbarUntil := 1, distUntil := 1 })
    idles (.stg w true true) (none_.wordCtx h1) = true ∧ (none_.wordCtx h1).act = 0#32 ∧ none_.atIssue = true ∧
    meets busy (.rcp { r 4 (v 3) (v 0) (v 0) false with head := h1 }) h1 (fun s x => x.act = 0#32 ∧ s.clock < (s.issuerBay x).specialUntil) ∧
    (withLine 0x8004000000000000 []).partner (.nop { h0 with p := true }) = none := by
  and_intros <;> decide +kernel

/-- SHA-256 of the three bytes "abc", as FIPS 180-4 gives it in its example. -/
theorem test_sha256 : sha256 [0x61#8, 0x62#8, 0x63#8] =
    0xba7816bf8f01cfea414140de5dae2223b00361a396177a9cb410ff61f20015ad#256 := by decide +kernel

theorem be_length (n v : Nat) : (be n v).length = n := by
  simp only [be, List.length_reverse]
  induction n generalizing v with
  | zero => rfl
  | succ k ih => simp only [bytesOf, List.length_cons, ih]

theorem shaBytes_length (m : List Byte) : (shaBytes m).length = 32 := by
  simp only [shaBytes, Sha.bytes, List.flatMap_cons, List.flatMap_nil, List.length_append, be_length, List.length_nil]

theorem lmsRoot_length (ident : List Byte) (n : Nat) (x : List Byte) (l : List (List Byte)) (h : x.length = 32) :
    (lmsRoot ident n x l).length = 32 := by
  induction l generalizing n x with
  | nil => exact h
  | cons p t ih => exact ih _ _ (shaBytes_length _)

/-- A signature of one level with H10 and W4, its chains and its path all zero, of leaf 0. -/
def blankSig : List Byte := be 4 0 ++ (be 4 0 ++ (be 4 3 ++ (List.replicate 2176 0#8 ++ (be 4 6 ++ List.replicate 320 0#8))))

/-- The root under which that signature of a message verifies. -/
def blankRoot (m : List Byte) : List Byte :=
  let ident : List Byte := List.replicate 16 0#8
  lmsRoot ident 1024 (shaBytes (ident ++ be 4 1024 ++ be 2 0x8282 ++
    otsKey (ident ++ be 4 0) (4, 67, 4) (List.replicate 32 0#8) (List.replicate 2144 0#8) m))
    ((List.range 10).map (fun i => ((List.replicate 320 0#8).drop (32 * i)).take 32))

/-- The public key with that root. -/
def blankKey (m : List Byte) : List Byte := be 4 1 ++ (be 4 6 ++ (be 4 3 ++ (List.replicate 16 0#8 ++ blankRoot m)))

theorem lms_blank (m : List Byte) : lmsVerify ((blankKey m).drop 4) (blankSig.drop 4) m = some [] := by
  have hl : ((blankKey m).drop 4).length = 56 := by
    rw [List.length_drop, blankKey, List.length_append, List.length_append, List.length_append, List.length_append, be_length, be_length,
      be_length, List.length_replicate, blankRoot, lmsRoot_length _ _ _ _ (shaBytes_length _)]
  have e1 : ((blankKey m).drop 4).take 4 = be 4 6 := rfl
  have e2 : (((blankKey m).drop 4).drop 4).take 4 = be 4 3 := rfl
  have e3 : (((blankKey m).drop 4).drop 8).take 16 = List.replicate 16 0#8 := rfl
  have e4 : ((blankKey m).drop 4).drop 24 = blankRoot m := rfl
  have s0 : ofBe ((blankSig.drop 4).take 4) = 0 := by decide +kernel
  have s1 : (blankSig.drop 4).length = 2508 := by decide +kernel
  have s2 : ((blankSig.drop 4).drop 4).take 4 = be 4 3 := by decide +kernel
  have s3 : ((blankSig.drop 4).drop 2184).take 4 = be 4 6 := by decide +kernel
  have s4 : ((blankSig.drop 4).drop 8).take 32 = List.replicate 32 0#8 := by decide +kernel
  have s5 : ((blankSig.drop 4).drop 40).take 2144 = List.replicate 2144 0#8 := by decide +kernel
  have s6 : ((blankSig.drop 4).drop 2188).take 320 = List.replicate 320 0#8 := by decide +kernel
  have s7 : (blankSig.drop 4).drop 2508 = [] := by decide +kernel
  have t1 : lmsHeight (ofBe (be 4 6)) = some 10 := by decide +kernel
  have t2 : otsParams (ofBe (be 4 3)) = some (4, 67, 4) := by decide +kernel
  simp only [lmsVerify, e1, e2, e3, e4, hl, t1, t2, s0, s1, s2, lmsKeyBytes, s4, s7, Nat.reduceMul, Nat.reduceAdd, s3, s5, s6]
  rw [if_neg (by decide), if_pos (by rfl)]

theorem hss_blank (m : List Byte) : hssVerify (blankKey m) blankSig m = true := by
  have a : ofBe ((blankKey m).take 4) = 1 := by
    have : (blankKey m).take 4 = be 4 1 := rfl
    rw [this]; decide
  have b : ofBe (blankSig.take 4) = 0 := by decide +kernel
  have c : blankSig.length = 2512 := by decide +kernel
  simp only [hssVerify, a, b, c, lms_blank]
  rfl
/-- The served package with a code-key slot, slot 3, whose key verifies the blank signature of a message. -/
def keyed (message : BitVec 256) (s : State) : State :=
  { s with keySlots := [none, none, none, some (sha256 (blankKey (be 32 message.toNat)))], topKeys := [blankKey (be 32 message.toNat)] }

theorem signed_of_key (s : State) (key sig : List Byte) (message : BitVec 256) (hk : s.keySlots = [none, none, none, some (sha256 key)])
    (ht : s.topKeys = [key]) (hr : s.revoked = 0) (hv : hssVerify key sig (be 32 message.toNat) = true) :
    s.codeSigned message sig = true := by
  simp only [State.codeSigned, hk, ht, hr, hv, List.any_cons, List.getD_cons_zero, List.getD_cons_succ, Option.any_some,
    Option.any_none, Nat.zero_testBit, beq_self_eq_true, Bool.not_false, Bool.true_and, Bool.true_or, Bool.or_true]

theorem keyed_signed (message : BitVec 256) (s : State) (h : s.revoked = 0) : (keyed message s).codeSigned message blankSig = true :=
  signed_of_key (keyed message s) (blankKey (be 32 message.toNat)) blankSig message rfl rfl h (hss_blank _)

/-- Management, ObjectsAndGroups: signed commands and a signed object, each under the key of a slot that is programmed and not
revoked; with no slot programmed neither is signed. -/
theorem test_signed :
    let cmd := fun (a v : Nat) => msg 0x0080 (bytesOf 4 a ++ bytesOf 4 v ++ bytesOf 4 2512 ++ bytesOf 4 0 ++ blankSig)
    let with_ := fun (m : HostMsg) => keyed (sha256 (m.body.take 8 ++ served.identity)) served
    let object := (object.take 0x18) ++ bytesOf 4 2512 ++ (object.take 0x50).drop 0x1C ++ blankSig
    (∀ m ∈ [cmd 0 1, cmd 0 64, cmd 1 0, cmd 1 3, cmd 2 0], serves (with_ m) m 0x0080 ∧
      m.shaped (16 + m.field 8 4) [(0, 4), (4, 4), (8, 4), (16, m.field 8 4)] = true ∧
      (with_ m).codeSigned (sha256 (m.body.take 8 ++ (with_ m).identity)) (m.body.drop 16) = true) ∧
    objectOk object = true ∧ (keyed (objectMessage object) served).objectSigned object = true ∧ served.objectSigned object = false := by
  refine ⟨fun m hm => ⟨by decide +revert +kernel, by decide +revert +kernel, ?_⟩, by decide +kernel, ?_, by decide +kernel⟩
  · have hb : m.body.drop 16 = blankSig := by decide +revert +kernel
    rw [hb]
    exact keyed_signed _ _ rfl
  · simp only [State.objectSigned, Bool.and_eq_true, beq_iff_eq]
    refine ⟨by decide +kernel, ?_⟩
    have hb : ∀ x : List Byte, x = x := fun _ => rfl
    have : (List.drop (field (object.take 0x18 ++ bytesOf 4 2512 ++ (object.take 0x50).drop 0x1C ++ blankSig) 0x10 8)
      (object.take 0x18 ++ bytesOf 4 2512 ++ (object.take 0x50).drop 0x1C ++ blankSig)) = blankSig := by decide +kernel
    rw [this]
    exact keyed_signed _ _ rfl

/-- The lowest lane of which bad holds: firstLane, where it can be decided. -/
abbrev first (x : Ctx) (bad : Nat → Prop) (L : Nat) : Prop := L ∈ lanesOf x.act ∧ bad L ∧ ∀ l ∈ lanesOf x.act, l < L → ¬ bad l

theorem first_iff (x : Ctx) (bad : Nat → Prop) (L : Nat) : first x bad L ↔ firstLane x bad L := Iff.rfl

/-- The answer of a check is a trap. -/
abbrev traps (l : Looked) : Prop := (match l.res with
  | .trap _ => true
  | _ => false) = true

/-- A check that traps gives a trap at which a list with its one lane stops: what the statements about lanes that fail assume. -/
theorem stops_at_trap (f : Nat → Looked) (l : List Nat) (a : Nat) (hl : l = [a]) (h : traps (f a)) :
    ∃ t, stopsAt f l (.trap t) (f a).vas := by
  subst hl
  cases e : (f a).res with
  | trap t => exact ⟨t, by simp, [], a, [], rfl, by simp, e, by simp⟩
  | ok => simp [traps, e] at h
  | wait => simp [traps, e] at h

/-- The same for a check that has to wait. -/
theorem stops_at_wait (f : Nat → Looked) (l : List Nat) (a : Nat) (hl : l = [a]) (h : (f a).res = .wait) :
    stopsAt f l .wait (f a).vas := ⟨by simp, [], a, [], by simp [hl], by simp, h, by simp⟩

/-- LocalAccesses: a lane misaligned behind lanes that pass, one past the end of each memory, and one past the spill area;
BarrierWords: counts that BARINIT does not take; HandlerWords: TRAP as the last word of the address space. -/
theorem test_localTraps :
    let here := fun (sz : Size) (ofs : Nat) => m 4 2 0 sz false ofs
    let at_ := fun (L n : Nat) => roomy.onCourse 0 (laneIs 2 L (wd n))
    let E := fun (w : MWord) (s : State) (x : Ctx) (L : Nat) => s.effAddr x (s.issuer x) w 1 L
    let bad := fun (w : MWord) (reach : Reach) (n : Nat) (s : State) (x : Ctx) (L : Nat) => E w s x L % (n : Int) ≠ 0 ∨
      (s.locate (s.issuer x) reach (E w s x L) n L).isSome = false
    let off := fun (w : MWord) (reach : Reach) (n : Nat) (L : Nat) (s : State) (x : Ctx) =>
      first x (bad w reach n s x) L ∧ E w s x L % (n : Int) ≠ 0
    let out := fun (w : MWord) (reach : Reach) (n : Nat) (L : Nat) (s : State) (x : Ctx) =>
      first x (bad w reach n s x) L ∧ E w s x L % (n : Int) = 0
    meets (at_ 3 4) (.lds (here .b64 8) false) h0 (off (here .b64 8) .own 8 3) ∧
    meets (at_ 3 65536) (.sts (here .b32 0) false) h0 (out (here .b32 0) .own 4 3) ∧
    meets (at_ 31 65536) (.atoms (here .b32 0) .add true) h0 (out (here .b32 0) .cluster 4 31) ∧
    meets (roomy.onCourse 0 (unifIs 2 512#32)) (.ldsf (m 8 2 0 .b8 true 0) false) h0 (off (m 8 2 0 .b8 true 0) .own 1024 0) ∧
    meets (at_ 3 65536) (.ldx (here .b128 0)) h0 (out (here .b128 0) .scratch 16 3) ∧
    meets (at_ 3 65544) (.stx (here .b128 0)) h0 (off (here .b128 0) .scratch 16 3) ∧
    meets roomy (.ldk (here .b32 64)) h0 (out (here .b32 64) .spill 4 0) ∧
    (∀ n ∈ [(0#32, 0), (4096#32, 4096)], meets ((barred ready).onCourse 0 (unifIs 5 n.1)) (.barinit (r 0 (v 1) (s 5) (v 0) true)) h0
      (fun y x => x.act ≠ 0#32 ∧ y.usrc x (s 5) = n.2)) ∧
    meets (readyWith (fun c => c.onSlot 0 (fun y => { y with pc := 2 ^ 52 - 8 }))) (.trap (r 0 (k 5) (v 0) (v 0) true)) h0
      (fun _ x => x.act ≠ 0#32 ∧ x.pc + 8 = 2 ^ 52) := by
  and_intros <;> decide +kernel

/-- SlotEvents: an ARITH that waits for its results, due and not due; and a path entry, with no ready entry on the rejoin
stack. -/
theorem test_slotMore :
    let s := waiting (.arith 4 { code := 0x0A })
    let path := (roomy.onCourse 0 (fun c => c.onSlot 0 Slot.freed)).pushPaths 0 1#32 [(72, 5#32)]
    (((s.course 0).slotN 0).wait = .arith 4 { code := 0x0A } ∧ ((s.course 0).slotN 1).wait = .none ∧ ¬ 4 ≤ s.clock ∧
      4 ≤ ({ s with clock := 4 } : State).clock) ∧
    ((path.rejoins (path.course 0)).find? Rejoin.ready = none ∧ (path.course 0).pathCount = 0 + 1 ∧
      ofBytes ((path.memRead (path.pathAddr (path.course 0) 0) 16).take 8) = 72 ∧ path.canRefill (path.course 0) = true) := by
  and_intros <;> decide +kernel

/-- ChannelChecks, ChannelControl: pages that are not mapped and pages that are being moved; ChannelWakes: a CRESET whose
operations are done, and one whose are not. -/
theorem test_channelPages :
    let w := { toChan .b64 with head := h1 }
    let i := Instr.stg w false false
    let pages := fun (s : State) (x : Ctx) => s.lookPages (s.ctxOf (s.issuer x)) (x.trap 0) true
      ((lanesOf x.act).map (fun L => ⟨L, (s.chanAddr x (s.issuer x) w false L).toNat, 2, .any⟩))
    let before := fun (s : State) (x : Ctx) => x.act ≠ 0#32 ∧ (s.chan (s.issuer x).team 2).cause = 0 ∧
      s.poisoned (s.issuer x) x i.fields = none ∧
      ∀ L ∈ lanesOf x.act, s.chanAddr x (s.issuer x) w false L % 8 = 0 ∧ 0 ≤ s.chanAddr x (s.issuer x) w false L ∧
        s.chanAddr x (s.issuer x) w false L + 8 ≤ (2 ^ 52 : Nat)
    let reset := fun (s : State) => s.onCourse 0 (fun c => c.onSlot 0 (fun y => { y with wait := .creset 2 1 }))
    meets (aimed (3 * 2 ^ 16)) i h1 (fun s x => before s x ∧ traps (pages s x)) ∧
    meets (moving (aimed (2 ^ 16))) i h1 (fun s x => before s x ∧ (pages s x).res = .wait) ∧
    meets ((moving (aimed 0)).onCourse 0 (laneIs 6 0 65536#32)) (.locq { r 4 (v 6) (v 0) (v 0) false with head := h1 }) h1 (fun s x =>
      x.act = 1#32 ∧ s.src x (v 6) 2 0 = 65536 ∧ s.translate (s.ctxOf (s.issuer x)) 65536 = .wait) ∧
    (((reset homed).course 0).slot0.wait = .creset 2 1 ∧ ((reset homed).course 0).slot1.wait = .none ∧
      ((reset homed).chan ((reset homed).course 0).team 2).busyBelow ((reset homed).team 0).opSeq = false) ∧
    (((reset sent).course 0).slot0.wait = .creset 2 1 ∧
      (((reset sent).onTeam 0 (fun t => { t with opSeq := 1 })).chan 0 2).busyBelow 1 = true) ∧
    (((reset homed).pump 0).team 0).state = .running ∧ (((reset homed).pump 0).team 0).courses = [0] := by
  and_intros <;> decide +kernel

/-- ChannelReturns: a packet whose retry is due; the answer to a RESYNC at a team that runs and at one that is saved; a packet
that was refused with MOVED, whose page has a home and has none; a refusal of a younger packet; and RESYNC with nothing left
to ask about. -/
theorem test_channelReturnsMore :
    let key := (parcel 0).key
    let on := fun (s : State) (f : Stream → Stream) => s.onChan 0 2 (fun c => c.onStream key.dest f)
    let st := fun (s : State) => (s.chan 0 2).stream key.dest
    let due := on sent (fun y => { y with pkts := y.pkts.map (fun q => { q with retryAt := some 0, sentAt := none }) })
    let answered := { on sent (fun y => { y with resync := some (1, 0) }) with net := [.resyncAck ⟨key, 0, 0, [], none⟩] }
    let saved := answered.onTeam 0 (fun t => { t with state := .saved })
    let lost := (sent.onChan 0 2 (fun c => { c.onStream key.dest (fun y => { y with pkts := y.pkts.map (fun q =>
      { q with moved := true, pkt := { q.pkt with body := .store [⟨3 * 2 ^ 16, 4 * 2 ^ 16, [7#8], false⟩] } }) }) with paused := true }))
    let parts := fun (s : State) => (s.chan 0 2).movedPackets.flatMap (fun q =>
      (((s.forgetMoved (s.chan 0 2).movedPackets).onChan 0 2 (fun c => { c with paused := false })).rehomePacket 1 q.pkt).map (fun p => (q, p)))
    (due.ownStream key = true ∧ (due.team 0).state ≠ .saved ∧ (st due).pkts.any (fun q => q.retryAt.any (fun n => n ≤ due.clock)) = true) ∧
    (∀ s ∈ [answered, saved], s.net = [.resyncAck ⟨key, 0, 0, [], none⟩] ∧ s.ownStream key = true ∧ (st s).resync ≠ none ∧ (st s).gen = 0 ∧
      key.chip = s.chip) ∧ (answered.team 0).state ≠ .saved ∧ (saved.team 0).state = .saved ∧
    ((lost.chan 0 2).paused = true ∧ (lost.team 0).state = .running ∧
      (∀ y ∈ (lost.chan 0 2).streams, ∀ q ∈ y.pkts, ¬ (q.sentAt.isSome = true ∧ q.moved = false)) ∧
      (∀ q ∈ (lost.chan 0 2).movedPackets, ∀ e ∈ packetElems q.pkt.body, lost.walkWaits 1 e.1 = false) ∧
      ((parts lost).find? (fun p => p.2.1.isNone)).any (fun p => p.2.1 == none && ((packetElems p.2.2).head?).isSome) = true) ∧
    (st homed).oldest = none ∧ (homed.team 0).state ≠ .halting := by
  and_intros <;> decide +kernel

/-- StreamDestination: a RESYNC and a reset of a generation that the stream has not reached, a reset with a packet half applied, and
packets of the host region. -/
theorem test_streamDestinationMore :
    let p := fun (b : PacketBody) (n : Nat) => { parcel 0 with body := b, gen := n }
    let at_ := fun (q : Packet) (g : Ingress) => ({ homed with net := [.packet q], ingress := [g] } : State)
    let old := { door 5 none with closed := true }
    let q := p (.resync 3) 1
    let again := p .reset 1
    let half := { door 0 (some 4) with part := some (parcel 0) }
    let host := { parcel 0 with key := ⟨0, 0, 2, ⟨0, 0, true⟩⟩ }
    let g : Ingress := { door 0 none with key := host.key }
    let s := { at_ host g with clock := 80000 }
    (q.key.dest.chip = (at_ q old).chip ∧ NetMsg.packet q ∈ (at_ q old).net ∧ q.rehome = false ∧ (at_ q old).ingressOf q.key = some old ∧
      old.gen ≠ q.gen ∧ genOlder q.gen old.gen = false) ∧
    (again.key.dest.chip = (at_ again half).chip ∧ NetMsg.packet again ∈ (at_ again half).net ∧
      (at_ again half).ingressOf again.key = some half ∧ genOlder again.gen half.gen = false ∧ ¬ (half.closed = true ∧ again.gen = half.gen)) ∧
    (isData host.body = true ∧ s.ingressOf host.key = some g ∧ g.closed = false ∧ host.key.dest.chip = s.chip ∧ host.rehome = false ∧
      host.gen = g.gen ∧ host.seq = g.next ∧ g.stopped = none ∧ g.part = none ∧ NetMsg.packet host ∈ s.net ∧ host.key.dest.host = true ∧
      (∀ e ∈ packetElems host.body, e.2.2 = false)) := by
  and_intros <;> decide +kernel

/-- TicketWords: a broken channel, a lane of TLD misaligned and one past the address space, pages that are not mapped and that are
being moved; REDEEM.sh misaligned, past the shared block, and with the copy counter at its end. -/
theorem test_ticketTraps :
    let w := { m 20 2 2 .b64 true 0 with head := h1 }
    let E := fun (s : State) (x : Ctx) (L : Nat) => s.effAddr x (s.issuer x) w 2 L
    let inside := fun (s : State) (x : Ctx) (L : Nat) => 0 ≤ E s x L ∧ E s x L + 8 ≤ (2 ^ 52 : Nat)
    let pages := fun (s : State) (x : Ctx) => s.lookPages (s.ctxOf (s.issuer x)) (x.trap 0) true
      ((lanesOf x.act).map (fun L => ⟨L, (E s x L).toNat, 1, .any⟩))
    let good := fun (s : State) (x : Ctx) => x.act ≠ 0#32 ∧ (s.chan (s.issuer x).team 2).cause = 0 ∧
      ∀ L ∈ lanesOf x.act, E s x L % 8 = 0 ∧ inside s x L
    let sound := fun (s : State) (x : Ctx) => let t := s.src x ⟨.unif, 20#8⟩ 2 0
      x.act ≠ 0#32 ∧ t ≠ 0 ∧ t / 2 ^ 17 % 2 ^ 15 = 0 ∧ ticketGen t ≠ 0 ∧ ticketTag t = (s.context (s.ctxOf (s.issuer x))).tag ∧
      s.fenced.contains (.die, bitsOf t 16 14) = false
    let sh := Instr.redeemSh (r 0 (s 20) (s 30) (v 0) true)
    let at_ := fun (n : Nat) => (holding landed).onCourse 0 (unifIs 30 (wd n))
    let full := (at_ 0).onCourse 0 (fun c => { c with eng := { copy := List.replicate 255 ⟨0, false, []⟩ } })
    meets ((aimed 65536).onChan 0 2 (fun c => { c with cause := 2, addr := 64 })) (.tld w false) h1 (fun s x => x.act ≠ 0#32 ∧
      (s.chan (s.issuer x).team 2).cause ≠ 0) ∧
    (∀ a ∈ [65540, 2 ^ 52], meets (aimed a) (.tld w true) h1 (fun s x => (s.chan (s.issuer x).team 2).cause = 0 ∧
      first x (fun l => ¬ E s x l % 8 = 0 ∨ ¬ inside s x l) 0)) ∧
    meets (aimed (3 * 65536)) (.tld w false) h1 (fun s x => good s x ∧ traps (pages s x)) ∧
    meets (moving (aimed 65536)) (.tld w false) h1 (fun s x => good s x ∧ (pages s x).res = .wait) ∧
    meets (at_ 8) sh h0 (fun y x => sound y x ∧ y.usrc x (s 30) % 16 ≠ 0) ∧
    meets (at_ 65040) sh h0 (fun y x => sound y x ∧ y.usrc x (s 30) % 16 = 0 ∧ (y.lrOf (y.issuer x)).shared < y.usrc x (s 30) + 512) ∧
    meets full sh h0 (fun y x => sound y x ∧ y.usrc x (s 30) % 16 = 0 ∧ y.usrc x (s 30) + 512 ≤ (y.lrOf (y.issuer x)).shared ∧
      y.copyFull x.crs = true) := by
  and_intros <;> decide +kernel

/-- LandingEntries: a TLD that waits for its quota behind a deferred refusal. -/
theorem test_quotaRefusal :
    let q : TldReq := { crs := 0, team := 0, pend := 0, ch := 2, n := 4, lanes := [], die := 0, slice := 0, refusals := 6,
                        prio := none, op := 0, acq := 0 }
    let s := (waiting (.quota q 20)).onCourse 0 (fun c => { c with refusals := [⟨2, 0, { code := 2, defer := true }⟩] })
    (s.course 0).slot0.wait = .quota q 20 ∧ s.running (s.course 0) = true ∧ (s.course 0).notBarred 0 = true ∧
      (s.course 0).nextRefusal 0 = some { code := 2, defer := true } := by
  and_intros <;> decide +kernel

/-- The aimed course with a lane 0 that copies 16 bytes from main memory at a to the team's block at o. -/
def cpying (a o : Nat) : State := (aimed 0).onCourse 0 (fun c => laneIs 2 0 (regPart a 0) (laneIs 3 0 (regPart a 1) (laneIs 8 0 (wd o) c)))

/-- The homed course with the descriptor of a tile of one row of n bytes: from a to the team's block at o. -/
def tiling (a o n q : Nat) : State := homed.onCourse 0 (fun c =>
  unifIs 16 (regPart a 0) (unifIs 17 (regPart a 1) (unifIs 18 (wd o) (unifIs 19 (wd n) (unifIs 20 (wd (65536 + n)) (unifIs 21 (wd q) c))))))

/-- The team's transfer queue has n copies. -/
def queued (n : Nat) (s : State) : State := s.onTeam 0 (fun t => { t with copies := (List.range n).map (fun i => (8 * i,
  { crs := 0, count := 0, ch := 0, bar := none, n := 4, tcpy := none, after := 0, flags := 0#32, may := 0#32, pc := 0, slot := 0,
    act := 0#32, ops := [] })) })

/-- CopyWords: a lane with a poisoned register, misaligned at each end, past the end of the block and of the address space, with a
page that is not mapped and one that is being moved; no place in the queue, and no room on the channel. -/
theorem test_cpyChecks :
    let w := { r 8 (v 2) (k 2) (v 0) false with head := h1 }
    let i := Instr.cpy w .g2s .b128 false
    let ready := fun (s : State) (x : Ctx) => x.act ≠ 0#32 ∧ s.copyChecks x 2 none = none ∧ lanesOf x.act = [0]
    let all := fun (s : State) (x : Ctx) => [(0, (s.cpyAddrs x (s.issuer x) w .g2s 0).1)]
    let look := fun (s : State) (x : Ctx) => s.cpyLane x (s.issuer x) w .g2s 16 0 (all s x)
    let bad := fun (s : State) => meets s i h1 (fun s x => ready s x ∧ traps (look s x))
    let fine := fun (s : State) (x : Ctx) => ready s x ∧ (look s x).res = .ok
    bad ((cpying 65536 0).onCourse 0 (fun c => c.setLane false 8 0 ⟨0#32, false, true⟩)) ∧ bad (cpying 65544 0) ∧ bad (cpying 65536 8) ∧
    bad (cpying 65536 65536) ∧ bad (cpying (2 ^ 52) 0) ∧ bad (cpying (3 * 65536) 0) ∧
    meets (moving (cpying 65536 0)) i h1 (fun s x => ready s x ∧ (look s x).res = .wait) ∧
    meets (queued 16 (cpying 65536 0)) i h1 (fun s x => fine s x ∧ s.copyRoom x.crs (s.issuer x) = false) ∧
    meets (windowFull (cpying 65536 0)) i h1 (fun s x => fine s x ∧ s.copyRoom x.crs (s.issuer x) = true ∧
      s.roomFor 0 2 false [(⟨0, 0, false⟩, 0)] = true) ∧
    meets (streaming 256 (cpying 65536 0)) i h1 (fun s x => fine s x ∧ s.copyRoom x.crs (s.issuer x) = true ∧
      s.roomFor 0 2 false [(⟨0, 0, false⟩, 0)] = false ∧ s.entriesFor 0 2 [(⟨0, 0, false⟩, 0)] = false) ∧
    (let x := (cpying 65536 0).wordCtx h1
     let c := (cpying 65536 0).issuer x
     (∀ q ∈ [2, 3, 8], (cpying 65536 0).lanePoison c x.sup q 0 = false) ∧ (cpying 65536 0).checkLocal x c .own 16 16 1 0 0 = none ∧
       65536 % 16 = 0 ∧ ((cpying 65536 0).mainPage x c 65536 1 0 [(0, 65536)]).res = .ok) := by
  and_intros <;> decide +kernel

/-- CopyWords: a descriptor with a field out of range in each register that can have one, misaligned, past the block and past the
address space, whose page is not mapped, and whose page is being moved; no place in the queue. -/
theorem test_tcpyChecks :
    let w := r 0 (s 16) (k 2) (v 0) true
    let i := Instr.tcpy w false .rne false false false
    let d := fun (s : State) (x : Ctx) => s.latch x (s.issuer x) w false .rne false false
    let ready := fun (s : State) (x : Ctx) => x.act ≠ 0#32 ∧ s.copyChecks x 2 none = none
    let clear := fun (s : State) (x : Ctx) => ready s x ∧ (d s x).badField = none ∧ (d s x).misaligned = false
    let sound := fun (s : State) (x : Ctx) => clear s x ∧ (d s x).outside (s.lrOf (s.issuer x)).shared x = none
    let look := fun (s : State) (x : Ctx) => s.lookPages (s.ctxOf (s.issuer x)) (x.trap 0) false (d s x).pages
    meets (tiling (2 ^ 52) 0 16 16) i h0 (fun s x => ready s x ∧ (d s x).badField = some 1) ∧
    meets ((tiling 65536 0 16 16).onCourse 0 (unifIs 20 65536#32)) i h0 (fun s x => ready s x ∧ (d s x).badField = some 4) ∧
    meets (tiling 65536 0 32 16) i h0 (fun s x => ready s x ∧ (d s x).badField = some 7) ∧
    meets (tiling 65544 0 16 16) i h0 (fun s x => ready s x ∧ (d s x).badField = none ∧ (d s x).misaligned = true) ∧
    (∀ p ∈ [(65536, 65536), (2 ^ 52 - 16, 0)], meets (tiling p.1 p.2 16 16) i h0 (fun s x => clear s x ∧
      ((d s x).outside (s.lrOf (s.issuer x)).shared x).isSome = decide (p.2 = 65536))) ∧
    meets (tiling (2 ^ 52 - 16) 0 32 32) i h0 (fun s x => clear s x ∧ ((d s x).outside (s.lrOf (s.issuer x)).shared x).isSome = true) ∧
    meets (tiling (3 * 65536) 0 16 16) i h0 (fun s x => sound s x ∧ traps (look s x)) ∧
    meets (moving (tiling 65536 0 16 16)) i h0 (fun s x => sound s x ∧ (look s x).res = .wait) ∧
    meets (queued 16 (tiling 65536 0 16 16)) i h0 (fun s x => sound s x ∧ (look s x).res = .ok ∧ s.copyRoom x.crs (s.issuer x) = false) ∧
    meets (tiling 65536 0 16 16) i h0 (fun s x => sound s x ∧ (look s x).res = .ok ∧ s.copyRoom x.crs (s.issuer x) = true) ∧
    meets (streaming 256 (tiling 65536 0 16 16)) i h0 (fun s x => sound s x ∧ (look s x).res = .ok ∧ s.copyRoom x.crs (s.issuer x) = true ∧
      s.roomFor 0 2 false [(⟨0, 0, false⟩, 0)] = false) := by
  and_intros <;> decide +kernel

/-- CopyProgress: an operation that is begun with its bytes, one that has them, and one behind an access of its memory. -/
theorem test_begun :
    let data : ReadReturn := { key := (parcel 0).key, reader := .copy 8 0, lane := 0, va := 2 ^ 16, pa := 4 * 2 ^ 16,
                               bytes := [1#8, 2#8, 3#8, 4#8], poison := [], line := [], linePoison := [], moment := 0 }
    let begun := fun (cp : Copy) (o : XferOp) =>
      { o with lanes := mergeLanes o.lanes, left := cp.elems { o with lanes := mergeLanes o.lanes } [data] }
    let each := fun (s : State) (f : Copy → XferOp → Bool) => (s.team 0).copies.all (fun e => e.2.ops.all (f e.2)) = true
    let got := (copying false).onTeam 0 (fun t => { t with copies := t.copies.map (fun _ cp => { cp with ops := cp.ops.map (fun o =>
      { o with got := some [data] }) }) })
    let behind := (pending (.access (.shared 0) (.load false 4 4) []) (copying false)).onTeam 0 (fun t =>
      { t with copies := t.copies.map (fun _ cp => { cp with after := 1 }) })
    each (copying false) (fun cp o => !(copying false).copyWaits 0 8 cp (begun cp o) && o.got.isNone && (begun cp o).left == [1]) ∧
    (got.copyTeam 8 = some 0 ∧ (got.team 0).state ≠ .saved ∧ each got (fun _ o => o.got == some [data] && !o.done)) ∧
    each behind (fun cp o => behind.copyWaits 0 8 cp (begun cp o) && o.got.isNone) := by
  and_intros <;> decide +kernel

/-- MatrixUnit: an ACCLD with its last element left, one that must wait, an ACCRD, and a quarter-operation of a halting team. -/
theorem test_tiles :
    let e := fun (w : MatWork) => ({ id := 4, crs := 0, work := w, flags := 0#32, sup := false, after := 1, pc := 0, slot := 0,
                                     act := 1#32 } : MatEntry)
    let q := fun (s : State) (w : MatWork) => (s.onBay 0 0 (fun b => { b with queue := [e w] }))
    let access := pending (.access (.shared 0) (.load false 4 4) []) ready
    (∀ l ∈ [[63], [0, 63]], ∀ w ∈ [MatWork.load 0 0 l, .store 0 0 l],
      (((q ready w).core 0).bay 0).queue = [e w] ∧ (q ready w).entryWaits (e w) = false ∧ (l.erase 63 = [] ↔ l = [63])) ∧
    (q ready (.load 0 0 [63])).nextElem [63] = some 63 ∧
    (q access (.load 0 0 [63])).entryWaits (e (.load 0 0 [63])) = true ∧
    (((q ready (.read 0 0 4 false 1#32)).core 0).bay 0).queue = [e (.read 0 0 4 false 1#32)] := by
  refine ⟨by decide +kernel, ?_, by decide +kernel, by decide +kernel⟩
  simp [State.nextElem, Nat.mod_one]

/-- CollectiveWords: a lane with a poisoned register, one with an address that is misaligned, one whose page is not mapped, and one
whose page is being moved; the counter of COLL words at its end; and a counter that the grid does not hold. -/
theorem test_collChecks :
    let w := { r 10 (v 8) (k 3) (v 0) true with head := h1, b := ⟨.lane, 0#8⟩ }
    let i := Instr.collGet w
    let base := ({ grouped with courses := (aimed 0).courses } : State)
    let at_ := fun (s : State) (a b : Nat) => s.onCourse 0 (fun c => laneIs 8 0 (wd a) (laneIs 10 0 (wd b) (laneIs 13 0 256#32 c)))
    let all := fun (s : State) (x : Ctx) => (s.collSides x (s.issuer x) w .get 0).map (fun e => (0, e.1))
    let look := fun (s : State) (x : Ctx) => s.collLane x (s.issuer x) w .get (all s x) 0
    let bad := fun (s : State) => meets s i h1 (fun s x => x.act ≠ 0#32 ∧ lanesOf x.act = [0] ∧ traps (look s x))
    let full := (at_ base 65536 65792).onCourse 0 (fun c => { c with eng := { coll := List.replicate 255 ⟨0, false, []⟩ } })
    bad ((at_ base 65536 65792).onCourse 0 (fun c => c.setLane false 9 0 ⟨0#32, false, true⟩)) ∧ bad (at_ base 65540 65792) ∧
    bad (at_ base 65536 (3 * 65536)) ∧ bad (at_ base (3 * 65536) 65536) ∧
    meets (moving (at_ base 65536 65792)) i h1 (fun s x => x.act ≠ 0#32 ∧ lanesOf x.act = [0] ∧ (look s x).res = .wait) ∧
    meets full i h1 (fun s x => x.act ≠ 0#32 ∧ lanesOf x.act = [0] ∧ (look s x).res = .ok ∧ 255 ≤ (s.issuer x).eng.coll.length) ∧
    meets ((at_ base 65536 65792).onCourse 0 (unifIs 20 128#32)) (.collPut { w with c := s 20 } true) h1 (fun y x => x.act ≠ 0#32 ∧
      ¬ y.usrc x (s 20) < (y.lrOf (y.issuer x)).events) ∧
    (let s := at_ base 65536 65792
     let x := s.wordCtx h1
     (∀ i, i < 8 → s.lanePoison (s.issuer x) x.sup (8 + i) 0 = false) ∧ s.collFields x (s.issuer x) w .get 0 = true ∧
       (∀ e ∈ s.collSides x (s.issuer x) w .get 0, e.1 % 16 = 0 ∧ e.1 / 256 = (e.1 + 255) / 256)) := by
  and_intros <;> decide +kernel

/-- CollectiveWork: no page of the lane is being moved; a cause that ends the operation although this package has its result; and a
put that arrives for a page that is not being moved. -/
theorem test_collCauses :
    let ar := collecting (.ar .i32 .add 3 0) (some ([1#8, 2#8, 3#8, 4#8], []))
    (∀ m ∈ [CollMode.put none, .get, .ar .i32 .add 3 0], (Tab.find (collecting m none).colls 0).any (fun k => k.lanes.all (fun l =>
      !(collecting m none).walkWaits 1 l.localVa && !(collecting m none).walkWaits 1 l.remoteVa && l.peer.chip == 0)) = true) ∧
    (Tab.find ar.colls 0).any (fun k => k.cause == 0 && k.lanes.all (fun l => !l.done && l.cause == 0 && l.result.isSome &&
      !ar.walkWaits 1 l.localVa && !ar.walkWaits 1 l.remoteVa)) = true ∧
    ready.tagWaits 1 65536 = false ∧ ready.reaches 0 0 = true := by
  and_intros <;> decide +kernel

/-- ExchangeWords: a lane with a poisoned register, a wrong field, a misaligned address, a page that is not mapped and one that is
being moved; the counter of exchange words at its end. Windows: a token whose page is being moved. -/
theorem test_sendChecks :
    let w := { r 4 (v 8) (s 20) (v 0) false with head := h1 }
    let st := fun (va : Nat) => (sending va).onCourse 0 (unifIs 20 16#32)
    let all := fun (s : State) (x : Ctx) => pagesOf 0 (s.collReg x (s.issuer x) w 0 0 + s.collReg x (s.issuer x) w 0 1 * 2 ^ 32) 16 1 .package
    let look := fun (s : State) (x : Ctx) => s.sendLane x (s.issuer x) w 16 (all s x) 0
    let ok := fun (y : State) (x : Ctx) => x.act ≠ 0#32 ∧ lanesOf x.act = [0] ∧ y.usrc x (s 20) = 16
    let bad := fun (s : State) => meets s (.xsend w) h1 (fun s x => ok s x ∧ traps (look s x))
    let full := (st 65536).onCourse 0 (fun c => { c with eng := { xch := List.replicate 255 ⟨0, false, []⟩ } })
    bad ((st 65536).onCourse 0 (fun c => c.setLane false 15 0 ⟨0#32, false, true⟩)) ∧ bad ((st 65536).onCourse 0 (laneIs 14 0 1#32)) ∧
    bad (st 65544) ∧ bad (st (3 * 65536)) ∧
    meets (moving (st 65536)) (.xsend w) h1 (fun s x => ok s x ∧ (look s x).res = .wait) ∧
    meets full (.xsend w) h1 (fun s x => ok s x ∧ (look s x).res = .ok ∧ 255 ≤ (s.issuer x).eng.xch.length) ∧
    (let t := { token with sent := false }
     let y : Window := { base := 65536, n := 2, z := 1, counter := 0xFFFFFFFF }
     let s := { windowed y with tokens := [t] }
     t ∈ s.tokens ∧ s.nextToSend t = true ∧ s.tokenWaits t = false ∧ (moving s).nextToSend t = true ∧ (moving s).tokenWaits t = true) := by
  and_intros <;> decide +kernel

/-- Launching: a record that cannot be read, and each page that a submission waits for. -/
theorem test_launchWaits :
    let q := { fifo with ring := 3 * 65536 }
    let at_ := fun (a : Nat) (q : Queue) => { launching q with launches := [(0, { crs := 0, team := 0, pend := 0, queue := 7, addr := a, upto := 0 })] }
    let waits := fun (a : Nat) (q : Queue) => (moving (at_ a q)).launchWaits 1 ⟨0, 0, 0, 7, a, 0⟩ = true ∧
      Tab.find (moving (at_ a q)).launches 0 = some ⟨0, 0, 0, 7, a, 0⟩
    let s := at_ (3 * 65536) fifo
    (Tab.find s.launches 0 = some ⟨0, 0, 0, 7, 3 * 65536, 0⟩ ∧ s.launchWaits 1 ⟨0, 0, 0, 7, 3 * 65536, 0⟩ = false ∧
      (∀ e ∈ s.launches, ¬ (e.1 < 0)) ∧ (s.team 0).busyBelow 0xFFFF 0 = false ∧ (s.course 0).pendDest 0 = some (4, false) ∧
      fifo.launchable (s.gridOf 0).ctx = true ∧ fifo.used ≠ fifo.slots ∧ s.frontRead 1 (3 * 65536) 128 = none) ∧
    waits 65536 { fifo with ring := 3 * 65536, tailAddr := 3 * 65536 } ∧ waits (3 * 65536) { fifo with tailAddr := 3 * 65536 } ∧
    waits (3 * 65536) q ∧
    (homed.frontPage 1 65536 2 = .ok ∧ (homed.home 1 65536).1 = ⟨0, 0, false⟩ ∧ homed.inService 0 = true) := by
  and_intros <;> decide +kernel

/-- Admission: a record whose page is being moved; a head word that can be written and one that cannot; a cluster of an older grid
with a younger one behind it; a queue with nothing ready that pre-empts; a declined record without a signal. -/
theorem test_admissionMore :
    let w : Waiting := { lr := parseRecord (record 1), recNo := 0, since := 0 }
    let s := fed 1 fifo
    let g : Grid := { ctx := 1, queue := 7, recNo := 0, prio := 1, lr := w.lr, admitted := 0 }
    let two := (fed 1 { fifo with tail := 0 }).setGrid 0 g |>.setGrid 1 { g with admitted := 5 }
    let held := fed 1 { fifo with tail := 0, waiting := some w }
    (Tab.find (moving s).queues 7 = some fifo ∧ fifo.ready = true ∧ (moving s).recordWaits fifo = true ∧ (moving s).wiping = false ∧
      (moving s).lifeCycle = .deployed) ∧
    (s.frontAsks 1 (fifo.slotAddr 0) 128 = s ∧ (s.frontWrite 1 fifo.headAddr (bytesOf 8 1)).isSome = true ∧
      s.frontWrite 1 (3 * 65536) (bytesOf 8 1) = none) ∧
    (two.partGrids 7 = [] ++ 0 :: [1] ∧ two.ownHeld 7 (.cluster 0) = false ∧ two.higherFirst (two.nextPrio 7 (.cluster 0)) = false) ∧
    (held.nexts 7 = [.fresh w] ∧ (Tab.find held.queues 7).all (fun y => !y.ready) = true ∧ held.ownHeld 7 (.fresh w) = false ∧
      held.higherFirst (held.nextPrio 7 (.fresh w)) = false) ∧
    ((Tab.find (fed 1 { fifo with tail := 0, waiting := some { w with consent := some false } }).queues 7).any (fun q => q.waiting.any (fun w =>
      w.consent == some false && w.refused.isNone && w.lr.signal == 0)) = true) ∧
    s.recordFault 1 none = some 0x0002 := by
  and_intros <;> decide +kernel

/-- TeamsEnd: a team that has ended with a local access still to be performed; a grid with a claimed ticket. -/
theorem test_teamWaits :
    let s := pending (.access (.shared 0) (.load false 4 4) []) (ending .ended)
    let c := { ending .freed with entries := [(3, { landed with state := .claimed, grid := 0 })] }
    ((s.team 0).state = .ended ∧ (s.team 0).shadows = [] ∧ s.accessing (s.team 0) = true) ∧
    (c.claimedOf 0 = true ∧ { c with entries := [] }.claimedOf 0 = false) := by
  and_intros <;> decide +kernel

/-- A doubleword of main memory written. -/
def wrote (a e : Nat) (s : State) : State := s.memWrite a (bytesOf 8 e) []

/-- Paging: walks that end at each level: a root entry and table entries that are malformed, poisoned and invalid; a block, whole
and malformed; a level-3 entry of each type; and a page that is being moved. -/
theorem test_walks :
    let root := fun (e : Nat) => homed.onContext 1 (fun c => { c with root := e })
    let bad := fun (a : Nat) => ({ homed with poison := [a] } : State)
    let block := 2 + 8
    let walk := fun (s : State) => s.walk 1 65536
    (root 0).walk 1 65536 = .fault 3 0 ∧ tableOk ((root 0).context 1).root = false ∧
    tableOk (homed.context 1).root = true ∧ homed.entryAt 0 = some (1 + 2 ^ 15) ∧ homed.entryAt (2 ^ 15) = some (1 + 2 ^ 16) ∧
    tableAddr (1 + 2 ^ 15) = 2 ^ 15 ∧ tableAddr (1 + 2 ^ 16) = 2 ^ 16 ∧ tableOk (1 + 2 ^ 15) = true ∧ tableOk (1 + 2 ^ 16) = true ∧
    (walk (bad 0) = .fault 3 1 ∧ walk (bad (2 ^ 15)) = .fault 3 2 ∧ walk (bad (2 ^ 16 + 8)) = .fault 3 3) ∧
    (walk (wrote 0 0 homed) = .fault 1 1 ∧ walk (wrote 0 3 homed) = .fault 3 1 ∧ walk (wrote (2 ^ 15) 0 homed) = .fault 1 2 ∧
      walk (wrote (2 ^ 15) 3 homed) = .fault 3 2 ∧ walk (wrote (2 ^ 15) (block + 64) homed) = .fault 3 2 ∧
      walk (wrote (2 ^ 15) block homed) = .leaf (block + 2 ^ 20) ∧ walk (wrote (2 ^ 15) (block + 2 ^ 62) homed) = .wait) ∧
    (walk (wrote (2 ^ 16 + 8) 0 homed) = .fault 1 3 ∧ walk (wrote (2 ^ 16 + 8) 4 homed) = .fault 2 3 ∧
      walk (wrote (2 ^ 16 + 8) 68 homed) = .fault 3 3 ∧ walk (wrote (2 ^ 16 + 8) 3 homed) = .fault 3 3 ∧
      walk (moving homed) = .wait) := by
  and_intros <;> decide +kernel

/-- Paging: accesses that touch one page: past the address space, to a page that is not mapped, to one that is being moved, without
the permission, with a permission, to a page of another package without DW, and to one that is lost; and two pages. -/
theorem test_pageChecks :
    let base := (ready.wordCtx h0).trap 0
    let leaf := 2 + 3 * 2 ^ 3 + 4 * 2 ^ 20
    let at_ := fun (e : Nat) => wrote (2 ^ 16 + 8) e homed
    let a := fun (va need : Nat) => [(⟨0, va, need, .any⟩ : PageAcc)]
    let fails := fun (s : State) (as : List PageAcc) (code sub : Nat) => (match s.checkPage 1 base true as with
      | .trap t => t.code == code && t.sub == sub
      | _ => false) = true
    fails homed (a (2 ^ 52) 1) 0x06 1 ∧ fails homed (a (3 * 65536) 1) 0x06 1 ∧ fails homed (a (2 * 65536) 1) 0x06 2 ∧
    (homed.translate 1 65536 = .leaf leaf ∧ homed.checkPage 1 base true (a 65536 3) = .ok ∧ homed.otherLeaves 1 65536 = []) ∧
    ((moving homed).translate 1 65536 = .wait ∧ (moving homed).checkPage 1 base true (a 65536 1) = .wait) ∧
    fails (at_ (2 + 8 + 4 * 2 ^ 20)) (a 65536 2) 0x07 1 ∧ fails (at_ (leaf + 2 ^ 46)) (a 65536 1) 0x07 3 ∧
    fails (at_ (leaf + 2 ^ 61)) (a 65536 1) 0x13 0 ∧
    groupPages (a 0 1 ++ a 65536 1 ++ a 8 1) = [a 0 1 ++ a 8 1, a 65536 1] ∧
    homed.checkPage 1 base true (a 0 1) = .ok ∧ homed.checkPage 1 base true (a (3 * 65536) 1) ≠ .ok := by
  and_intros <;> decide +kernel

/-- Paging: a page with a translation that a TLB still holds, and one with a hinted neighbour. -/
theorem test_otherLeaves :
    let leaf := 2 + 3 * 2 ^ 3 + 4 * 2 ^ 20
    let held := ({ wrote (2 ^ 16 + 8) 0 homed with tlb := [⟨1, 1, 1, leaf⟩] } : State)
    leaf ∈ held.otherLeaves 1 65536 ∧ held.walk 1 65536 = .fault 1 3 := by
  decide +kernel

/-- Paging: the table of each level with and without a packet half applied for its frame; a block that is splintered; WordFrame:
PGMAP, PGPROT and a page in a block. -/
theorem test_tablesMove :
    let part := { homed with ingress := [{ key := (parcel 0).key, gen := 0, next := 0, part := some { parcel 0 with
      body := .store [⟨0, 2 ^ 16, [7#8], false⟩] } }] }
    let block := wrote (2 ^ 15) (2 + 8) homed
    (∀ s ∈ [homed, part], s.tableName 1 65536 3 = some (some (2 ^ 15), 1 + 2 ^ 16)) ∧ homed.partIn (tableAddr (1 + 2 ^ 16) / 2 ^ 16) = false ∧
    part.partIn (tableAddr (1 + 2 ^ 16) / 2 ^ 16) = true ∧
    (block.level2 1 65536).any (fun e => entryType e.2.2.2 == 2) = true ∧ homed.moveWaits 1 65536 = false := by
  and_intros <;> decide +kernel

/-- Paging: with half of a frame free there is a table for the block that is splintered. -/
theorem test_splinters : (((wrote (2 ^ 15) (2 + 8) homed).onContext 1 (fun c =>
    { c with pool := c.pool ++ [(⟨0, 0, 7⟩, .upperHalfFree)] })).splinter 1 65536 false).isSome = true := by decide +kernel

/-- UnitsAndLinks: a packet half applied; a link group whose last port is fenced, and one with its ports; destinations in another
package. -/
theorem test_unitsMore :
    let half := { homed with ingress := [{ key := (parcel 0).key, gen := 0, next := 0, part := some (parcel 0) }] }
    let two := { ready with domain := 2, linksDown := [(0, 1)] }
    let bare := { two with fenced := (List.range 64).map (fun p => (.port, p)) }
    half.halfApplied = true ∧ two.groupFenced 0 1 = false ∧ bare.groupFenced 0 1 = true ∧ linkDown bare.linksDown 0 1 = true ∧
    (⟨1, 0, false⟩ : Dest).chip ≠ ready.chip ∧ (∀ p ∈ segments 65536 8, (served.home 1 p.1).1.host = false) := by
  and_intros <;> decide +kernel

/-- ContextsAndQueues: a move that waits for the rest of a packet; Management: a command with a signature that no key verifies, and
one in DECOMMISSIONED; a queue with no record to refuse; and a refresh of two dies. -/
theorem test_managementMore :
    let cmd := fun (a v : Nat) => msg 0x0080 (bytesOf 4 a ++ bytesOf 4 v ++ bytesOf 4 8 ++ bytesOf 4 0 ++ bytesOf 8 9)
    let old := { served with lifeCycle := .decommissioned }
    let k : PageMove := ⟨1, 65536, 2 + 3 * 2 ^ 3 + 4 * 2 ^ 20, ⟨0, 0, 6⟩⟩
    let s := { served with moves := [k], busy := some (msg 0x0022 (bytesOf 8 65536 ++ bytesOf 8 15)),
                           ingress := [{ key := (parcel 0).key, gen := 0, next := 0, part := some (parcel 0) }] }
    let t : Telemetry := ⟨3, 50, [], [], 0, 0, 0, 20, 1⟩
    (s.moveOf 1 65536 = some k ∧ s.partIn (leafFrameNo k.leaf) = true) ∧
    (∀ m ∈ [cmd 0 1, cmd 0 64, cmd 1 0, cmd 1 3, cmd 2 3], ∀ u ∈ [served, old], serves u m 0x0080 ∧
      m.shaped (16 + m.field 8 4) [(0, 4), (4, 4), (8, 4), (16, m.field 8 4)] = true ∧
      u.codeSigned (sha256 (m.body.take 8 ++ u.identity)) (m.body.drop 16) = false) ∧
    (fifo.unrefused = false ∧ (∀ y ∈ [t, { t with die := 8 }], y.die = t.die → y = t)) ∧
    served.placeExists (.homeLine 0 8) = true ∧ served.bootFailed = false := by
  and_intros <;> decide +kernel

/-- Management: a command signed in DECOMMISSIONED. -/
theorem test_signedOld :
    let m := msg 0x0080 (bytesOf 4 0 ++ bytesOf 4 1 ++ bytesOf 4 2512 ++ bytesOf 4 0 ++ blankSig)
    let old := { served with lifeCycle := .decommissioned }
    let s := keyed (sha256 (m.body.take 8 ++ old.identity)) old
    serves s m 0x0080 ∧ m.shaped (16 + m.field 8 4) [(0, 4), (4, 4), (8, 4), (16, m.field 8 4)] = true ∧ s.lifeCycle = .decommissioned ∧
      s.codeSigned (sha256 (m.body.take 8 ++ s.identity)) (m.body.drop 16) = true := by
  refine ⟨by decide +kernel, by decide +kernel, rfl, ?_⟩
  have hb : (msg 0x0080 (bytesOf 4 0 ++ bytesOf 4 1 ++ bytesOf 4 2512 ++ bytesOf 4 0 ++ blankSig)).body.drop 16 = blankSig := by
    decide +kernel
  rw [hb]
  exact keyed_signed _ _ rfl

/-- WordIssue: words of the channels with no active lane; UnitsAndFormats: each unit of the crossbar busy, a CVT that names a register
with no format; WordFrame: words of the handler. -/
theorem test_busyUnits :
    let none_ := (aimed 0).onCourse 0 (fun c => { c with m := [(1, 0#32)] })
    let busy := formatted.onBay 0 0 (fun b => { b with crossbarUntil := 1 })
    let sh := r 4 (v 3) (k 1) (v 0) false
    (∀ p ∈ channelsWords, (none_.wordCtx h1).act = 0#32 ∧ (0xA0 ≤ p.2.opcode ∧ p.2.opcode ≤ 0xA9 ∧ idles p.2 (none_.wordCtx h1) = true)) ∧
    (∀ i ∈ [Instr.qnt (r 4 (v 1) (v 3) (v 0) false) .rne false 1#3, .deq (r 4 (v 1) (v 3) (v 0) false) .rne 1#3,
        .qscale (r 4 (v 1) (v 0) (v 0) false) .f32 1#3], meets busy i h0 (fun s x =>
      fmtValid ((s.issuer x).fmReg 1) = true ∧ s.clock < (s.issuerBay x).crossbarUntil)) ∧
    meets busy (.shfl sh .bfly .s32) h0 (fun s x => s.fieldPoison (s.issuer x) x sh.b.reg1Imm = none ∧
      s.clock < (s.issuerBay x).crossbarUntil ∧ ∀ L, L < 32 → x.act.getLsbD L = true →
        let k := shflLane .bfly (Seg.size .s32) (s.lrOf (s.issuer x)).width16 (s.src x sh.b 1 L) L
        ((s.issuer x).laneCell x.sup 3 k).empty = false ∧ s.lanePoison (s.issuer x) x.sup 3 k = false) ∧
    (meets ready (.cvt (r 3 (v 2) (v 0) (k 9) false) .rne true) h0 (fun s x => x.act ≠ 0#32 ∧ fmtValid ((s.issuer x).fmReg 1) = false) ∧
      [9 / 16, 9 % 16].filterMap cvtFm = [1]) ∧
    ((ready.course 0).bay < 4 ∧ ready.cur.second = false) ∧
    (∀ p ∈ handlerWords, p.2.opcode ∈ [0xE0, 0xE1, 0xE2, 0xE3, 0xE4, 0xE5, 0xE6, 0xE7, 0xE8]) := by
  and_intros <;> decide +kernel

end Sys2Proof.Tests
end

/-! # Units that are fenced, and links that fail and return (R13, R15, R26, R27, R30, R317, R393, R402, R432, R433) -/

namespace Sys2Proof

/-- A lookup in a filtered table finds nothing under a key whose entries the filter removes. -/
theorem Tab.find_filter_none {α : Type} {keep : Nat × α → Bool} (t : Tab α) (n : Nat) (h : ∀ v, keep (n, v) = false) :
    Tab.find (t.filter keep) n = none := by
  refine Tab.find_none_of _ _ (fun e he hn => ?_)
  obtain ⟨a, v⟩ := e
  obtain rfl : a = n := hn
  simp [h v] at he

end Sys2Proof

namespace Sys2Proof.Machine

variable (s : State)

/-! ## What fencing records and what a lost die drops -/

@[simp] theorem send_fenced (op ctx code : Nat) (data : List Byte) : (s.send op ctx code data).fenced = s.fenced := by
  simp only [State.send]
  split
  · rfl
  · split <;> rfl

@[simp] theorem mgmt_fenced (ctx code : Nat) (data : List Byte) : (s.mgmt ctx code data).fenced = s.fenced := send_fenced ..

@[simp] theorem fence_fenced (k : UnitKind) (n : Nat) : (s.fence k n).fenced = s.fenced ++ [(k, n)] := mgmt_fenced ..

theorem dropDie_events_find (die e : Nat) (h : e / (4096 * 256) = die) : Tab.find (s.dropDie die).events e = none :=
  Tab.find_filter_none _ _ (fun _ => by simp [h])

theorem dropDie_scratch_find {die : Nat} (g : Nat) (h : die < 8) : Tab.find (s.dropDie die).scratch (g * 8 + die) = none := by
  have hm : (g * 8 + die) % 8 = die := by omega
  exact Tab.find_filter_none _ _ (fun _ => by simp [hm])

/-! ## A die that leaves service -/

@[simp] theorem exec_dieOutOfService (die : Nat) : exec (.dieOutOfService die) s = execDieOutOfService die s := rfl

variable {s}

theorem execDieOutOfService_loses {die : Nat} (hd : die < 8) (hin : s.inService die = true) (hh : s.halfApplied = false) :
    execDieOutOfService die s = .next (s.loseDie die) := by
  simp [execDieOutOfService, Config.dies, hd, hin, hh]

/-- A packet of which a part has been applied is applied first. -/
theorem execDieOutOfService_waits (die : Nat) (hh : s.halfApplied = true) : execDieOutOfService die s = .next s := by
  simp [execDieOutOfService, hh]

theorem execDieOutOfService_again {die : Nat} (hout : s.inService die = false) : execDieOutOfService die s = .next s := by
  simp [execDieOutOfService, hout]

/-! ## A unit that is fenced -/

variable (s) in
@[simp] theorem exec_unitFence (k : UnitKind) (n : Nat) : exec (.unitFence k n) s = execUnitFence k n s := rfl

theorem execUnitFence_again {k : UnitKind} {n : Nat} (hf : s.fenced.contains (k, n) = true) : execUnitFence k n s = .next s :=
  if_pos (by rw [hf, Bool.true_or])

/-- The check that every kind of unit meets first, passed. -/
theorem not_fenced_or_missing {k : UnitKind} {n : Nat} (hf : s.fenced.contains (k, n) = false) (he : s.unitExists k n = true) :
    ¬ (s.fenced.contains (k, n) || !s.unitExists k n) = true := by simp only [hf, he]; decide

theorem execUnitFence_die {die : Nat} (hd : die < 8) (hf : s.fenced.contains (.die, die) = false) (hh : s.halfApplied = false) :
    execUnitFence .die die s = .next (s.loseDie die) := by
  have hgo := not_fenced_or_missing hf (decide_eq_true hd)
  rw [execUnitFence, if_neg hgo, hh]
  rfl

/-- A die is not fenced while a packet is half applied. -/
theorem execUnitFence_die_waits (die : Nat) (hh : s.halfApplied = true) : execUnitFence .die die s = .next s := by
  simp [execUnitFence, hh]

theorem execUnitFence_core {n : Nat} (hn : n < 1280) (hf : s.fenced.contains (.core, n) = false) :
    execUnitFence .core n s = .next (((s.fence .core n).vacate (fun c => c == n)).recheck) :=
  if_neg (not_fenced_or_missing hf (decide_eq_true hn))

theorem execUnitFence_slice {n : Nat} (hn : n < 256) (hf : s.fenced.contains (.slice, n) = false) :
    execUnitFence .slice n s = .next (s.fence .slice n).trimFar.recheck :=
  if_neg (not_fenced_or_missing hf (decide_eq_true hn))

theorem execUnitFence_port {n q : Nat} (hp : s.portPeer n = some q) (hf : s.fenced.contains (.port, n) = false) :
    execUnitFence .port n s = .next ((s.fence .port n).losePort n).recheck :=
  if_neg (not_fenced_or_missing hf (by rw [State.unitExists, hp]; rfl))

/-! ## A link that fails -/

variable (s) in
@[simp] theorem exec_linkFailure (k : LinkKind) (l : Nat × Nat) : exec (.linkFailure k l) s = execLinkFailure k l s := rfl

variable (s) in
@[simp] theorem pathFails_nil : s.pathFails [] = s := rfl

/-- Which links are down is no part of a group's entry. -/
@[simp] theorem allGroups_linksDown (l : List (Nat × Nat)) : ({ s with linksDown := l } : State).allGroups = s.allGroups := rfl

theorem groupFails_again {a b : Nat} (hdown : linkDown s.linksDown a b = true) : s.groupFails a b = s :=
  if_pos (by rw [hdown, Bool.or_true])

/-- With no tree to rebuild and no stream on the link, a failure is a mark on the link. -/
theorem groupFails_idle {a b : Nat} (ha : s.inDomain a = true) (hb : s.inDomain b = true) (hp : directPair a b = true)
    (hup : linkDown s.linksDown a b = false) (hg : s.allGroups = []) (hk : s.streamsOver (s.usesGroup a b) = []) :
    s.groupFails a b = { s with linksDown := s.linksDown ++ [(a, b)] } := by
  simp [State.groupFails, ha, hb, hp, hup, hg, hk]

theorem execLinkFailure_dies {a b : Nat} (hl : dieLink a b = true) (hup : linkDown s.dieLinksDown a b = false) :
    execLinkFailure .dies (a, b) s = .next (({ s with dieLinksDown := s.dieLinksDown ++ [(a, b)] } : State).pathFails
      (s.streamsOver (s.usesDieLink a b))) := by
  simp [execLinkFailure, hl, hup]

/-- Traffic to another package leaves by the collective link of the team's own die (R15). -/
theorem usesDieLink_abroad_iff {d : Dest} (hd : d.chip ≠ s.chip) (a b : Nat) (t : Team) :
    s.usesDieLink a b t d = true ↔ (b = 8 ∧ a = dieOf t.core) ∨ (a = 8 ∧ b = dieOf t.core) := by
  simp [State.usesDieLink, hd, and_comm]

/-! ## A link that returns, and a tree that is rebuilt -/

variable (s) in
@[simp] theorem exec_linkReturn (k : LinkKind) (l : Nat × Nat) : exec (.linkReturn k l) s = execLinkReturn k l s := rfl

/-- With no tree to rebuild, a return takes the mark off the link. -/
theorem execLinkReturn_domain_idle {a b : Nat} (hdown : linkDown s.linksDown a b = true) (hf : s.groupFenced a b = false)
    (hg : s.allGroups = []) : execLinkReturn .domain (a, b) s =
      .next { s with linksDown := s.linksDown.filter (fun l => l != (a, b) && l != (b, a)) } := by
  simp [execLinkReturn, hdown, hf, hg]

/-- A link that is up does not return, nor one of a group whose ports are all fenced (R30). -/
theorem execLinkReturn_domain_stays {a b : Nat} (h : linkDown s.linksDown a b = false ∨ s.groupFenced a b = true) :
    execLinkReturn .domain (a, b) s = .next s := by
  rcases h with hup | hf
  · simp [execLinkReturn, hup]
  · simp [execLinkReturn, hf]

variable (s) in
theorem groupOf_rebuildTree (c n : Nat) (g : Group) : (s.rebuildTree c n g).groupOf c n =
    some { g.treed s.linksDown with gen := (g.gen + 1) % 2 ^ 22 } := by
  have hctx : (s.rebuildTree c n g).context c = { s.context c with
      groups := Tab.put (s.context c).groups n { g.treed s.linksDown with gen := (g.gen + 1) % 2 ^ 22 } } :=
    context_onContext_same s c (fun k =>
      { k with groups := Tab.put k.groups n { g.treed s.linksDown with gen := (g.gen + 1) % 2 ^ 22 } })
  rw [State.groupOf, hctx, Tab.find_put_same]

/-- Settles O46: each event comes to the one update that its checks leave, and each update keeps what the statement says. -/
theorem unitsAndLinks : Obligations.UnitsAndLinks :=
  ⟨fun _ _ hd hin hh => execDieOutOfService_loses hd hin hh,
   fun _ die hh => ⟨execDieOutOfService_waits die hh, execUnitFence_die_waits die hh⟩,
   fun _ _ hd hf hh => execUnitFence_die hd hf hh,
   fun _ _ hout => execDieOutOfService_again hout,
   fun _ _ hn hf => execUnitFence_core hn hf,
   fun _ _ _ hf => execUnitFence_again hf,
   fence_fenced,
   dropDie_events_find,
   fun s _ g hd => dropDie_scratch_find s g hd,
   fun _ _ hn hf => execUnitFence_slice hn hf,
   fun _ _ _ hp hf => execUnitFence_port hp hf,
   fun _ _ _ ha hb hp hup hg hk => congrArg Host.Outcome.next (groupFails_idle ha hb hp hup hg hk),
   fun _ _ _ hdown => congrArg Host.Outcome.next (groupFails_again hdown),
   fun _ _ _ hl hup => execLinkFailure_dies hl hup,
   fun _ a b t _ hd _ _ => usesDieLink_abroad_iff hd a b t,
   fun _ _ _ hdown hf hg => execLinkReturn_domain_idle hdown hf hg,
   fun _ _ _ h => execLinkReturn_domain_stays h,
   fun _ _ _ => rfl,
   groupOf_rebuildTree⟩

end Sys2Proof.Machine

/-! # Tables: lookups, tests and keys -/

namespace Sys2Proof

variable {α : Type} {p : Nat → α → Bool} {t : Tab α} {n : Nat} {x : α}

theorem Tab.any_eq_list_any (p : Nat → α → Bool) (t : Tab α) : Tab.any p t = List.any t (fun e => p e.1 e.2) := by
  induction t with
  | nil => rfl
  | cons e t ih => rw [Tab.any, List.any_cons, ih]

theorem Tab.keys_eq_map_filter (p : Nat → α → Bool) (t : Tab α) :
    Tab.keys p t = (List.filter (fun e => p e.1 e.2) t).map Prod.fst := by
  induction t with
  | nil => rfl
  | cons e t ih =>
    rw [Tab.keys, List.filter_cons, ih]
    split <;> rfl

theorem Tab.mem_of_find (h : Tab.find t n = some x) : (n, x) ∈ (t : List (Nat × α)) := by
  induction t with
  | nil => cases h
  | cons e t ih =>
    rw [Tab.find] at h
    split at h
    next hk =>
      obtain rfl := Option.some.inj h
      exact hk ▸ List.mem_cons_self
    next => exact List.mem_cons_of_mem _ (ih h)

/-- A table has an entry that meets a test where a lookup finds one. -/
theorem Tab.any_of_find (h : Tab.find t n = some x) (hp : p n x = true) : t.any p = true := by
  rw [Tab.any_eq_list_any]
  exact List.any_eq_true.2 ⟨(n, x), Tab.mem_of_find h, hp⟩

theorem Tab.mem_keys : n ∈ t.keys p ↔ ∃ x, (n, x) ∈ (t : List (Nat × α)) ∧ p n x = true := by
  simp [Tab.keys_eq_map_filter]

theorem Tab.mem_keys_of_find (h : Tab.find t n = some x) : n ∈ t.keys (fun _ _ => true) :=
  Tab.mem_keys.2 ⟨x, Tab.mem_of_find h, rfl⟩

theorem Tab.length_keys_le (p : Nat → α → Bool) (t : Tab α) : (t.keys p).length ≤ t.length := by
  rw [Tab.keys_eq_map_filter, List.length_map]
  exact List.length_filter_le ..

end Sys2Proof

namespace Sys2Proof.Machine

/-! # The package right after reset (R46, R485) -/

/-- What the wipe after reset leaves: the port is up. -/
def State.booted (s : State) : State := { s with wiping := false, up := true }

theorem reset_waitingEvents : State.reset.waitingEvents = [execWipeComplete] := rfl

theorem execWipeComplete_reset : execWipeComplete State.reset = .next State.reset.booted := rfl

theorem reset_booted_ne : State.reset.booted ≠ State.reset := fun h => Bool.false_ne_true (congrArg State.wiping h)

/-- Of all that the package may do after reset, only the wipe changes something. -/
theorem reset_internal : State.reset.internal = some (.next State.reset.booted) := by
  simp only [State.internal, reset_waitingEvents, List.findSome?_cons, execWipeComplete_reset, if_neg reset_booted_ne]

theorem reset_advanceOne : State.reset.advanceOne = .next State.reset.booted := by
  have hturn : State.reset.advanceOne = State.reset.ownTurn := rfl
  have hbay : State.reset.anyBay = none := rfl
  rw [hturn, State.ownTurn, hbay, reset_internal]

/-- While the port is down no request is performed. -/
theorem serve_down {s : State} {m : HostMsg} {op : Nat} {ok needsCtx : Bool} {f : State → Option State} (h : s.up = false) :
    s.serve m op ok needsCtx f = .next s := by
  simp [State.serve, h]

/-- Settles O60: the fields are those of `State.reset`, and of the package's own events only the wipe changes it. -/
theorem resetState : Obligations.ResetState := by
  have hstep : step State.reset = .next { State.reset with wiping := false, up := true, stamp := 1 } := by
    rw [step, reset_advanceOne]; rfl
  exact ⟨rfl, rfl, rfl, rfl, rfl, rfl, rfl, rfl, fun a => memRead_one _ a, rfl, wf_reset, fun _ => rfl, fun _ _ _ => rfl,
    rfl, rfl, rfl, hstep, fun t m h => (serve_down h : execDefineContext m t = .next t)⟩

/-! # Traps that end their grid (R62, R438, R469) -/

/-! ## What serving the pools and asking the agent leave -/

/-- A fold of updates that all keep a part keeps it. -/
theorem foldl_keeps {σ α β : Type} {f : σ → α → σ} {part : σ → β} (h : ∀ u a, part (f u a) = part u) (l : List α) (u : σ) :
    part (l.foldl f u) = part u := by
  induction l generalizing u with
  | nil => rfl
  | cons a l ih => rw [List.foldl_cons, ih, h]

section
variable (s : State)

@[simp] theorem advance_grids (crs j : Nat) (act : LaneMask) : (s.advance crs j act).grids = s.grids := by
  simp only [State.advance]; split <;> rfl

@[simp] theorem takeBlocks_grids (crs set : Nat) : (s.takeBlocks crs set).grids = s.grids := rfl

@[simp] theorem serveBay_grids (core bay n : Nat) : (s.serveBay core bay n).grids = s.grids := by
  induction n generalizing s with
  | zero => rfl
  | succ n ih =>
    rw [State.serveBay]
    split
    · rfl
    · dsimp only
      split
      · rw [ih, advance_grids, takeBlocks_grids]
      · rfl

@[simp] theorem servePool_grids (core bay : Nat) : (s.servePool core bay).grids = s.grids := serveBay_grids ..

@[simp] theorem serveCores_grids (l : List Nat) : (s.serveCores l).grids = s.grids :=
  foldl_keeps (part := State.grids) (fun _ _ => foldl_keeps (part := State.grids) (fun t _ => servePool_grids t ..) _ _) l s

@[simp] theorem serveCores_grid (l : List Nat) (g : Nat) : (s.serveCores l).grid g = s.grid g :=
  congrArg (fun t => Tab.get Grid.dead t g) (serveCores_grids s l)

/-- A message to the host changes what the port holds, and nothing else. -/
theorem send_eq (op ctx code : Nat) (data : List Byte) : ∃ seq buffers held out,
    s.send op ctx code data = { s with devSeq := seq, rxBuffers := buffers, held := held, hostOut := out } := by
  simp only [State.send]
  split
  · exact ⟨_, _, _, _, rfl⟩
  · split <;> exact ⟨_, _, _, _, rfl⟩

@[simp] theorem ask_grid (op ctx : Nat) (w : AgentAsk) (data : List Byte) (g : Nat) : (s.ask op ctx w data).grid g = s.grid g := by
  obtain ⟨_, _, _, _, h⟩ := send_eq s op ctx 0 data
  rw [State.ask, h]
  rfl

@[simp] theorem ask_team (op ctx : Nat) (w : AgentAsk) (data : List Byte) (k : Nat) : (s.ask op ctx w data).team k = s.team k := by
  obtain ⟨_, _, _, _, h⟩ := send_eq s op ctx 0 data
  rw [State.ask, h]
  rfl

theorem ask_find (op ctx : Nat) (w : AgentAsk) (data : List Byte) :
    Tab.find (s.ask op ctx w data).asks s.devSeq = some { what := w, since := s.clock } := Tab.find_put_same ..

end

/-! ## The end of a grid by abort -/

section
variable {s : State} {g cause : Nat} {t : Option TrapRec}

theorem abortNow_grid (ha : (s.grid g).abort = none) (hd : (s.grid g).done = false) :
    (s.abortNow g cause t).grid g = { s.grid g with abort := some ⟨cause, t⟩ } := by
  simp only [State.abortNow, ha, hd, Option.isSome_none, Bool.or_self, Bool.false_eq_true, if_false, serveCores_grid]
  exact Tab.get_put_same ..

/-- Duty 4 is not host-assisted: the abort takes place at once (R469). -/
theorem abortGrid_now (ha : (s.grid g).abort = none) (hd : (s.grid g).done = false)
    (hduty : (s.context (s.grid g).ctx).duty.testBit 4 = false) : s.abortGrid g cause t = s.abortNow g cause t := by
  simp [State.abortGrid, ha, hd, hduty]

/-- Duty 4 is host-assisted: the agent is asked, once for the grid (R469). -/
theorem abortGrid_asks (ha : (s.grid g).abort = none) (hd : (s.grid g).done = false)
    (hduty : (s.context (s.grid g).ctx).duty.testBit 4 = true) (hc : 0x0100 ≤ cause) (hq : s.asksOf g = false) :
    s.abortGrid g cause t = s.ask 0x8003 (s.grid g).ctx (.recovery g cause t)
      (recoveryBody (errorWord (s.grid g).recNo cause) t) := by
  simp [State.abortGrid, ha, hd, hduty, hc, hq]

/-- While the agent has not answered about its grid, a course does not run. -/
theorem running_of_asked {c : Course} {n : Nat} {a : Ask} (h : Tab.find s.asks n = some a)
    (hw : a.what = .recovery (s.team c.team).grid cause t) : s.running c = false := by
  have : s.asksOf (s.team c.team).grid = true := Tab.any_of_find h (by simp [hw])
  simp [State.running, this]

theorem asksOf_of_running {c : Course} (h : s.running c = true) : s.asksOf (s.team c.team).grid = false := by
  simp only [State.running, Bool.and_eq_true, Bool.not_eq_true'] at h
  exact h.2

end

/-! ## A trap that ends its grid -/

section
variable {s : State} {crs j n : Nat} {t : TrapRec}

theorem exec_handlerEntry_trap (hw : ((s.course crs).slotN j).wait = .trap t n) (hr : s.running (s.course crs) = true) :
    exec (.handlerEntry crs j) s = .next (s.takeTrap crs j t n) := by
  show execHandlerEntry crs j s = _
  simp [execHandlerEntry, hw, hr]

theorem takeTrap_aborts (h : t.inSup = true ∨ ((s.gridOf (s.course crs).team).lr.handler = 0 ∧
      ¬ (t.code = 0x06 ∧ (s.context (s.ctxOf (s.course crs))).duty.testBit 1 = true))) :
    s.takeTrap crs j t n = s.abortGrid (s.team (s.course crs).team).grid (0x0100 + t.code) (some t) := by
  rw [State.takeTrap]
  rcases h with hsup | ⟨hh, he⟩
  · exact if_pos hsup
  · split
    · rfl
    · exact (if_neg he).trans (if_pos hh)

end

/-- Settles O20: the trap is the abort, which takes place at once or asks the agent first. -/
theorem trapAborts : Obligations.TrapAborts := by
  intro s crs j t n hw hr hcause
  refine ⟨?_, fun ha hd hduty => ?_, fun ha hd hduty => ?_⟩
  · rw [exec_handlerEntry_trap hw hr, takeTrap_aborts hcause]
  · rw [abortGrid_now ha hd hduty, abortNow_grid ha hd]
  · intro t'
    have ht : t' = s.ask _ _ _ _ := abortGrid_asks ha hd hduty (Nat.le_add_right ..) (asksOf_of_running hr)
    rw [ht]
    refine ⟨ask_find .., ask_grid .., running_of_asked (t := some t) (cause := 0x0100 + t.code) (ask_find ..) ?_⟩
    rw [ask_team]

/-! # Requests about contexts, queues, pool frames and windows (R472, R476–R478) -/

section
variable {s : State} {m : HostMsg}

/-! ## Performing a request (R474) -/

section
variable {op : Nat} {ok needsCtx : Bool} {f : State → Option State} {t : State}

/-- A request that the port can serve is performed. -/
theorem serve_does (hs : s.canServe m op) (hok : ok = true) (hctx : needsCtx = true → Tab.has s.contexts m.ctx = true)
    (hf : f s = some t) : s.serve m op ok needsCtx f = .next t := by
  obtain ⟨⟨hup, hopen, hbusy, hboot, hop, hrsv, hst, hc, hlen⟩, hlife⟩ := hs
  have hc : ¬ 255 < m.ctx := Nat.not_lt.2 hc
  have hlen : ¬ 65536 < m.body.length := Nat.not_lt.2 hlen
  have hctx : (needsCtx && !Tab.has s.contexts m.ctx) = false := by
    cases needsCtx
    · rfl
    · simp [hctx rfl]
  simp [State.serve, hup, hopen, hbusy, hboot, hop, hrsv, hst, hc, hlen, hok, hctx, hlife, hf]

theorem canServe_not_busy (hs : s.canServe m op) : s.busy ≠ some m := by
  obtain ⟨⟨_, _, hbusy, _⟩, _⟩ := hs
  simp [hbusy]

end

/-! ## Contexts (R476) -/

theorem execDefineContext_new (hs : s.canServe m 0x0001) (hm : m.shaped 16 [(0, 8), (8, 2), (12, 4)] = true)
    (hnew : Tab.has s.contexts m.ctx = false) (htag : m.field 8 2 ≠ 0) (hfree : s.ctxByTag (m.field 8 2) = none)
    (hroot : tableOk (m.field 0 8) = true) (hduty : m.field 12 4 < 128) (hlife : s.lifeCycle ≠ .decommissioned)
    (hwipe : s.wiping = false) :
    execDefineContext m s =
      .next ((s.setContext m.ctx { tag := m.field 8 2, root := m.field 0 8, duty := m.field 12 4 }).respond m 0 []) := by
  refine serve_does hs hm (fun h => nomatch h) ?_
  simp [hnew, htag, hfree, hroot, Nat.not_le.2 hduty, hlife, hwipe]

theorem execDefineContext_taken (hs : s.canServe m 0x0001) (hm : m.shaped 16 [(0, 8), (8, 2), (12, 4)] = true)
    (hold : Tab.has s.contexts m.ctx = true) : execDefineContext m s = .next (s.respond m 1 []) := by
  refine serve_does hs hm (fun h => nomatch h) ?_
  simp [hold]

/-- Stop and destroy begin alike (R476). -/
theorem stopRequest_begins (destroy : Bool) (hs : s.canServe m 0x0002) (hm : m.shaped 8 [(0, 4)] = true)
    (hact : m.field 0 4 ≤ 1) (hctx : Tab.has s.contexts m.ctx = true) :
    s.stopRequest m true destroy = .next { s.stopCtx m.ctx 0x0006 with busy := some m } := by
  rw [State.stopRequest, if_neg (fun h => canServe_not_busy hs h.1), if_neg (by decide)]
  exact serve_does hs (by simp [hm, hact]) (fun _ => hctx) rfl

/-- They end alike, once the context's grids have retired. -/
theorem stopRequest_ends (destroy : Bool) (hb : s.busy = some m) (hd : s.ctxDrained m.ctx = true) :
    s.stopRequest m true destroy = .next ((if destroy then s.releaseCtx m.ctx else s).respond m 0 []) := by
  rw [State.stopRequest, if_pos ⟨hb, rfl⟩, State.endStop, if_neg (by simp [hd])]

theorem execStopContext_eq (ha : m.field 0 4 = 0) : execStopContext m s = s.stopRequest m true false := by
  simp [execStopContext, ha]

theorem execDestroyContext_eq (ha : m.field 0 4 = 1) : execDestroyContext m s = s.stopRequest m true true := by
  simp [execDestroyContext, ha]

/-- The frame of a context's pool is wiped when the context is released. -/
theorem releaseCtx_wipes {c a : Nat} {f : Frame × FrameUse} (hp : (s.context c).pool = [f]) (hlo : Frame.no f.1 * 2 ^ 16 ≤ a)
    (hhi : a < (Frame.no f.1 + 1) * 2 ^ 16) : (s.releaseCtx c).memRead a 1 = [0#8] := by
  have hmem : (s.releaseCtx c).mem = ((s.invalidate c none).zeroRange (Frame.no f.1 * 2 ^ 16) (2 ^ 16)).mem := by
    simp only [State.releaseCtx, hp, List.foldl_cons, List.foldl_nil]
  rw [memRead_one, hmem, ← memRead_one, memRead_zeroRange, if_pos (by omega)]

theorem releaseCtx_forgets (s : State) (c : Nat) : Tab.has (s.releaseCtx c).contexts c = false := by
  rw [Tab.has_eq_find, State.releaseCtx, Tab.find_del_same]
  rfl

/-! ## Queues (R477) -/

theorem execCreateQueue_new {t u : State} (hs : s.canServe m 0x0010)
    (hm : m.shaped 32 [(0, 1), (1, 1), (2, 1), (4, 4), (8, 8), (16, 8), (24, 8)] = true) (hctx : Tab.has s.contexts m.ctx = true)
    (hnew : Tab.has s.queues (m.field 0 1) = false) (htail : s.frontWaits m.ctx (m.field 16 8) = false)
    (hhead : s.frontWaits m.ctx (m.field 24 8) = false) (hring : s.rangeWaits m.ctx (m.field 8 8) (128 * m.field 4 4) = false)
    (hok : s.queueOk m.ctx m = true) (ht : s.frontWrite m.ctx (m.field 24 8) (bytesOf 8 0) = some t)
    (hu : t.frontWrite m.ctx (m.field 16 8) (bytesOf 8 0) = some u) :
    execCreateQueue m s = .next ((u.setQueueRec (m.field 0 1)
      { ctx := m.ctx, prio := m.field 1 1, devFed := m.field 2 1 == 1, slots := m.field 4 4, ring := m.field 8 8,
        tailAddr := m.field 16 8, headAddr := m.field 24 8 }).respond m 0 []) := by
  refine serve_does hs hm (fun _ => hctx) ?_
  simp [hnew, htail, hhead, hring, hok, ht, hu]

theorem execCreateQueue_taken (hs : s.canServe m 0x0010)
    (hm : m.shaped 32 [(0, 1), (1, 1), (2, 1), (4, 4), (8, 8), (16, 8), (24, 8)] = true) (hctx : Tab.has s.contexts m.ctx = true)
    (hn : m.field 0 1 ≤ 63) (hold : Tab.has s.queues (m.field 0 1) = true) :
    execCreateQueue m s = .next (s.respond m 1 []) := by
  refine serve_does hs hm (fun _ => hctx) ?_
  simp [hn, hold]

theorem execDestroyQueue_own {q : Queue} (hs : s.canServe m 0x0011) (hm : m.shaped 8 [(0, 4)] = true)
    (hctx : Tab.has s.contexts m.ctx = true) (hq : Tab.find s.queues (m.field 0 4) = some q) (hown : q.ctx = m.ctx)
    (hasks : s.asks = []) :
    execDestroyQueue m s = .next (({ s with queues := Tab.del s.queues (m.field 0 4) } : State).respond m 0 []) := by
  refine serve_does hs hm (fun _ => hctx) ?_
  simp [hq, hown, hasks]

theorem execDestroyQueue_unknown (hs : s.canServe m 0x0011) (hm : m.shaped 8 [(0, 4)] = true)
    (hctx : Tab.has s.contexts m.ctx = true) (hq : Tab.find s.queues (m.field 0 4) = none) :
    execDestroyQueue m s = .next (s.respond m 1 []) := by
  refine serve_does hs hm (fun _ => hctx) ?_
  simp [hq]

/-! ## Pool frames (R478) -/

theorem execAddPoolFrames_new (hs : s.canServe m 0x0020) (hm : msgFramesOk m = true) (hctx : Tab.has s.contexts m.ctx = true)
    (hin : msgFramesBeyond m = false) (hnew : (msgFrames m).any s.pooled = false) :
    execAddPoolFrames m s = .next ((s.onContext m.ctx (fun c =>
      { c with pool := c.pool ++ (msgFrames m).map (fun f => (f, .free)) })).respond m 0 []) := by
  refine serve_does hs hm (fun _ => hctx) ?_
  rw [if_neg (by simp [hin]), if_neg (by simp [hnew])]

theorem execAddPoolFrames_pooled (hs : s.canServe m 0x0020) (hm : msgFramesOk m = true) (hctx : Tab.has s.contexts m.ctx = true)
    (hin : msgFramesBeyond m = false) (hold : (msgFrames m).any s.pooled = true) :
    execAddPoolFrames m s = .next (s.respond m 2 []) := by
  refine serve_does hs hm (fun _ => hctx) ?_
  rw [if_neg (by simp [hin]), if_pos hold]

/-- Every frame that the message names is in the pool of its context. -/
def namesPool (s : State) (m : HostMsg) : Prop := ∀ f ∈ msgFrames m, ∃ e ∈ (s.context m.ctx).pool, e.1 = f

/-- No check on the names fails for frames of the context's own pool. -/
theorem frames_named (hin : msgFramesBeyond m = false) (hown : namesPool s m) :
    (msgFramesBeyond m || (msgFrames m).any (fun f => !(s.context m.ctx).pool.any (fun e => e.1 == f))) = false := by
  rw [hin, Bool.false_or, List.any_eq_false]
  intro f hf
  simp only [Bool.not_eq_true, Bool.not_eq_false', List.any_eq_true, beq_iff_eq]
  exact hown f hf

theorem execRemoveFrames_free (hs : s.canServe m 0x0021) (hm : msgFramesOk m = true) (hctx : Tab.has s.contexts m.ctx = true)
    (hin : msgFramesBeyond m = false) (hfree : ∀ f ∈ msgFrames m, (∃ e ∈ (s.context m.ctx).pool, e.1 = f) ∧
      s.usesFrame (Frame.no f) = false ∧ ∀ e ∈ (s.context m.ctx).pool, e.1 = f → e.2 = .free ∨ e.2 = .page) :
    execRemoveFrames m s = .next ((s.onContext m.ctx (fun c =>
      { c with pool := c.pool.filter (fun e => !(msgFrames m).contains e.1) })).respond m 0 []) := by
  refine serve_does hs hm (fun _ => hctx) ?_
  have hidle : (msgFrames m).any (fun f => s.usesFrame (Frame.no f) ||
      (s.context m.ctx).pool.any (fun e => e.1 == f && e.2 != .free && e.2 != .page)) = false := by
    rw [List.any_eq_false]
    intro f hf
    obtain ⟨_, hunused, huse⟩ := hfree f hf
    simp only [hunused, Bool.false_or, List.any_eq_true, not_exists, not_and, Bool.and_eq_true, beq_iff_eq, bne_iff_ne, and_imp]
    rintro e he rfl hne hnp
    exact (huse e he rfl).elim hne hnp
  rw [if_neg (by rw [frames_named hin (fun f hf => (hfree f hf).1)]; decide), if_neg (by rw [hidle]; decide)]

theorem execRemoveFrames_used {f : Frame} {e : Frame × FrameUse} (hs : s.canServe m 0x0021) (hm : msgFramesOk m = true)
    (hctx : Tab.has s.contexts m.ctx = true) (hin : msgFramesBeyond m = false) (hown : namesPool s m) (hf : f ∈ msgFrames m)
    (he : e ∈ (s.context m.ctx).pool) (hef : e.1 = f) (huse : s.usesFrame (Frame.no f) = true ∨ (e.2 ≠ .free ∧ e.2 ≠ .page)) :
    execRemoveFrames m s = .next (s.respond m 3 []) := by
  refine serve_does hs hm (fun _ => hctx) ?_
  have hbusy : (msgFrames m).any (fun f => s.usesFrame (Frame.no f) ||
      (s.context m.ctx).pool.any (fun e => e.1 == f && e.2 != .free && e.2 != .page)) = true := by
    refine List.any_eq_true.2 ⟨f, hf, Bool.or_eq_true_iff.2 (huse.imp id (fun hu => List.any_eq_true.2 ⟨e, he, ?_⟩))⟩
    simp [hef, hu]
  rw [if_neg (by rw [frames_named hin hown]; decide), if_pos hbusy]

/-! ## Migration (R430, R478) -/

/-- The page that a request to migrate names. -/
def pageOf (m : HostMsg) : Nat := m.field 0 8 / 2 ^ 16 * 2 ^ 16

theorem execMigratePage_asked (hs : s.canServe m 0x0022) (hm : m.shaped 16 [(0, 8), (8, 4)] = true)
    (hp : placementOk (m.field 8 4) = true) (hctx : Tab.has s.contexts m.ctx = true) (hva : pageOf m < 2 ^ 52)
    (hwalk : s.walkWaits m.ctx (pageOf m) = false) (hmove : s.moveWaits m.ctx (pageOf m) = false) :
    let r := s.migrate m.ctx (pageOf m) (m.field 8 4) true
    execMigratePage m s = .next (if r.2 = 0 then { r.1 with busy := some m } else r.1.respond m r.2 []) := by
  intro r
  rw [execMigratePage, if_neg (canServe_not_busy hs)]
  refine serve_does hs (by rw [hm, hp]; rfl) (fun _ => hctx) ?_
  have hva : ¬ Config.addrLimit ≤ pageOf m := Nat.not_le.2 hva
  have hwait : ¬ (s.walkWaits m.ctx (pageOf m) || s.moveWaits m.ctx (pageOf m)) = true := by simp [hwalk, hmove]
  exact (if_neg hva).trans (if_neg hwait)

theorem execMigratePage_moving {k : PageMove} (hb : s.busy = some m) (hk : s.moveOf m.ctx (pageOf m) = some k) :
    execMigratePage m s = .next (if s.partIn (leafFrameNo k.leaf) then s else (s.endMove k).respond m 0 []) := by
  rw [execMigratePage, if_pos hb]
  simp only [show s.moveOf m.ctx (m.field 0 8 / 2 ^ 16 * 2 ^ 16) = some k from hk]

/-! ## Exported windows (R472, R478) -/

/-- Consecutive numbers modulo 2^32 are distinct, as long as they do not go round. -/
theorem nodup_consecutive (a n : Nat) (hn : n ≤ 2 ^ 32) : ((List.range n).map (fun i => (a + i) % 2 ^ 32)).Nodup := by
  refine List.pairwise_map.2 (List.nodup_range.imp_of_mem (fun hi hj hne h => hne ?_))
  rw [List.mem_range] at hi hj
  omega

/-- The number that is picked is none of those in use: there are more candidates than these. -/
theorem pickNumber_fresh (s : State) (key : Nat) {used : List Nat} (h : used.length < 2 ^ 32) : s.pickNumber key used ∉ used := by
  rw [State.pickNumber]
  generalize hl : (List.range (used.length + 1)).map (fun i => (Config.freeNat s.stamp key + i) % 2 ^ 32) = l
  cases hf : l.find? (fun n => !used.contains n) with
  | some n => simpa using List.find?_some hf
  | none =>
    have hsub : l ⊆ used := fun n hn => by simpa using List.find?_eq_none.1 hf n hn
    have hle := List.Nodup.length_le_of_subset (hl ▸ nodup_consecutive _ _ h) hsub
    rw [← hl, List.length_map, List.length_range] at hle
    exact absurd hle (Nat.not_succ_le_self _)

theorem execExportWindow_new (hs : s.canServe m 0x0030) (hm : m.shaped 24 [(0, 8), (8, 8), (16, 1)] = true)
    (hw : m.field 16 1 ≤ 1) (hctx : Tab.has s.contexts m.ctx = true) (hlen : m.field 8 8 ≠ 0) (hbase : m.field 0 8 % 65536 = 0)
    (hlen' : m.field 8 8 % 65536 = 0) (hend : m.field 0 8 + m.field 8 8 ≤ 2 ^ 52) (hroom : s.exported.length < 4096) :
    ∃ key, Tab.find s.exported key = none ∧
      let w : Exported := ⟨m.ctx, m.field 0 8, m.field 8 8, m.field 16 1 == 1⟩
      execExportWindow m s = .next (({ s with exported := Tab.put s.exported key w } : State).respond m 0 (le 4 key ++ le 4 0)) := by
  refine ⟨s.pickNumber (2 ^ 52) (s.exported.keys (fun _ _ => true)), ?_, serve_does hs ?_ (fun _ => hctx) ?_⟩
  · have hlt := Nat.lt_of_le_of_lt (Tab.length_keys_le (fun _ _ => true) s.exported) hroom
    rw [Option.eq_none_iff_forall_ne_some]
    exact fun w hw => pickNumber_fresh s _ (Nat.lt_trans hlt (by decide)) (Tab.mem_keys_of_find hw)
  · simp [hm, hw]
  · have hend : ¬ Config.addrLimit < m.field 0 8 + m.field 8 8 := Nat.not_lt.2 hend
    have hroom : ¬ 4096 ≤ s.exported.length := Nat.not_le.2 hroom
    rw [if_neg (by simp [hlen, hbase, hlen', hend]), if_neg hroom]

theorem execWithdrawWindow_known {w : Exported} (hs : s.canServe m 0x0031) (hm : m.shaped 8 [(0, 4)] = true)
    (hctx : Tab.has s.contexts m.ctx = true) (hw : Tab.find s.exported (m.field 0 4) = some w) :
    execWithdrawWindow m s = .next (({ s with exported := Tab.del s.exported (m.field 0 4) } : State).respond m 0 []) := by
  refine serve_does hs hm (fun _ => hctx) ?_
  rw [if_pos (by rw [Tab.has_eq_find, hw]; rfl)]

theorem execWithdrawWindow_unknown (hs : s.canServe m 0x0031) (hm : m.shaped 8 [(0, 4)] = true)
    (hctx : Tab.has s.contexts m.ctx = true) (hw : Tab.find s.exported (m.field 0 4) = none) :
    execWithdrawWindow m s = .next (s.respond m 1 []) := by
  refine serve_does hs hm (fun _ => hctx) ?_
  rw [if_neg (by rw [Tab.has_eq_find, hw]; decide)]

end

/-- Settles O48: each request comes to the one status that its checks leave. -/
theorem contextsAndQueues : Obligations.ContextsAndQueues :=
  ⟨fun _ _ hs hm hnew htag hfree hroot hduty hlife hwipe => execDefineContext_new hs hm hnew htag hfree hroot hduty hlife hwipe,
   fun _ _ hs hm hold => execDefineContext_taken hs hm hold,
   fun _ _ hs hm ha hctx => (execStopContext_eq ha).trans (stopRequest_begins false hs hm (by omega) hctx),
   fun _ _ hb ha hd => (execStopContext_eq ha).trans (stopRequest_ends false hb hd),
   fun _ _ hs hm ha hctx => (execDestroyContext_eq ha).trans (stopRequest_begins true hs hm (by omega) hctx),
   fun _ _ hb ha hd => (execDestroyContext_eq ha).trans (stopRequest_ends true hb hd),
   fun s c _ _ hp hlo hhi => ⟨releaseCtx_wipes hp hlo hhi, releaseCtx_forgets s c⟩,
   fun _ _ _ _ hs hm hctx hnew htail hhead hring hok ht hu => execCreateQueue_new hs hm hctx hnew htail hhead hring hok ht hu,
   fun _ _ hs hm hctx hn hold => execCreateQueue_taken hs hm hctx hn hold,
   fun _ _ _ hs hm hctx hq hown hasks => execDestroyQueue_own hs hm hctx hq hown hasks,
   fun _ _ hs hm hctx hq => execDestroyQueue_unknown hs hm hctx hq,
   fun _ _ hs hm hctx hin hnew => execAddPoolFrames_new hs hm hctx hin hnew,
   fun _ _ hs hm hctx hin hold => execAddPoolFrames_pooled hs hm hctx hin hold,
   fun _ _ hs hm hctx hin hfree => execRemoveFrames_free hs hm hctx hin hfree,
   fun _ _ _ _ hs hm hctx hin hown hf he hef huse => execRemoveFrames_used hs hm hctx hin hown hf he hef huse,
   fun _ _ hs hm hp hctx hva hwalk hmove =>
     have h := execMigratePage_asked hs hm hp hctx hva hwalk hmove
     ⟨fun h0 => h.trans (congrArg Host.Outcome.next (if_pos h0)), fun h0 => h.trans (congrArg Host.Outcome.next (if_neg h0))⟩,
   fun _ _ _ hb hk hp => (execMigratePage_moving hb hk).trans (congrArg Host.Outcome.next (if_neg (by simp [hp]))),
   fun _ _ _ hb hk hp => (execMigratePage_moving hb hk).trans (congrArg Host.Outcome.next (if_pos hp)),
   fun _ _ hs hm hw hctx hlen hbase hlen' hend hroom => execExportWindow_new hs hm hw hctx hlen hbase hlen' hend hroom,
   fun _ _ _ hs hm hctx hw => execWithdrawWindow_known hs hm hctx hw,
   fun _ _ hs hm hctx hw => execWithdrawWindow_unknown hs hm hctx hw⟩

/-! # LAUNCH and tail words (R41–R43, R56–R58) -/

/-! ## Accesses of the front end (R41, R434) -/

section
variable {s : State}

/-- The front end's reads of the host region go out by the port and leave the queues. -/
@[simp] theorem frontAsks_queues (s : State) (ctx va n : Nat) : (s.frontAsks ctx va n).queues = s.queues := by
  simp only [State.frontAsks]; split <;> rfl

/-- A word of the package's own memory is seen as it stands. -/
theorem tailWord_own {ctx va : Nat} (hhost : (s.home ctx va).1.host = false) (hchip : (s.home ctx va).1.chip = s.chip)
    (hpage : s.frontPage ctx va 2 = .ok) (hin : s.inService (s.home ctx va).1.die = true) :
    s.tailWord ctx va = some (Block.take2 ⟨s.mem, s.poison⟩ (s.home ctx va).2 8) := by
  simp [State.tailWord, State.frontSees, hpage, hhost, hchip, hin]

end

/-! ## LAUNCH (R56, R57) -/

section
variable (r : RWord)

/-- The address of a LAUNCH's record. -/
def launchAddr (s : State) (x : Ctx) : Nat := s.unifGroup (s.issuer x) x.sup r.a.field.toNat 2

/-- What a LAUNCH hands to the front end. -/
def launchReq (s : State) (x : Ctx) : LaunchReq :=
  { crs := x.crs, team := (s.issuer x).team, pend := (s.issuer x).nextPend, queue := s.usrc x r.b, addr := launchAddr r s x,
    upto := s.nextOpOf (s.issuer x).team }

/-- The front end has taken a LAUNCH, whose destination is empty. -/
def launchSent (s : State) (x : Ctx) : State :=
  { s.addPend x .other .remote [(⟨x.sup, false, r.d.toNat⟩, 0#32)] 0#32 0#32 with
    launches := Tab.put s.launches (Tab.fresh s.launches) (launchReq r s x) }

/-- What a LAUNCH comes to once its checks have passed. -/
def launchBody (s : State) (x : Ctx) : Res :=
  if x.act = 0#32 then .go s
  else if launchAddr r s x % 128 ≠ 0 then .trap { x.trap 0x08 with addr := launchAddr r s x }
  else .go (launchSent r s x)

theorem exec_launch (s : State) : exec (.launch r) s = s.issue (.launch r) r.head (launchBody r s) := rfl

theorem launch_idle : DoesIf (.launch r) r.head (fun _ x => x.act = 0#32) (fun s x => s.went x) := by
  intro s hp hact
  rw [exec_of_passes (exec_launch r s) hp, launchBody, if_pos hact]
  rfl

theorem launch_sent : DoesIf (.launch r) r.head (fun s x => x.act ≠ 0#32 ∧ launchAddr r s x % 128 = 0)
    (fun s x => (launchSent r s x).went x) := by
  rintro s hp ⟨hact, haddr⟩
  rw [exec_of_passes (exec_launch r s) hp, launchBody, if_neg hact, if_neg (fun hne => hne haddr)]
  rfl

theorem launch_misaligned : DoesIf (.launch r) r.head (fun s x => x.act ≠ 0#32 ∧ launchAddr r s x % 128 ≠ 0)
    (fun s x => s.trapped x { x.trap 0x08 with addr := launchAddr r s x }) := by
  rintro s hp ⟨hact, haddr⟩
  rw [exec_of_passes (exec_launch r s) hp, launchBody, if_neg hact, if_pos haddr]
  rfl

end

/-! ## LAUNCH_SUBMIT (R57, R58) -/

section
variable {s : State} {id : Nat} {r : LaunchReq} {ctx : Nat}

/-- It is the turn of a LAUNCH: those before it in its course's order for the queue have gone, the team's earlier operations are
acknowledged, and no page that it needs is being moved. -/
def State.launchMay (s : State) (id : Nat) (r : LaunchReq) : Prop :=
  Tab.find s.launches id = some r ∧ (∀ e ∈ s.launches, ¬ (e.1 < id ∧ e.2.crs = r.crs ∧ e.2.queue = r.queue)) ∧
  (s.team r.team).busyBelow 0xFFFF r.upto = false ∧ s.launchWaits (s.gridOf r.team).ctx r = false

/-- A LAUNCH has been submitted: its status lands. -/
def State.launchAnswer (t : State) (id : Nat) (r : LaunchReq) (d : Nat) (sup : Bool) (st : Nat) : State :=
  ({ t with launches := Tab.del t.launches id } : State).landPend r.crs r.pend [.unif sup d (wd st)] 0#32

theorem landUnif_one {crs pid d v : Nat} {sup : Bool} (h : (s.course crs).pendDest pid = some (d, sup)) :
    s.landUnif crs pid 1 v = s.landPend crs pid [.unif sup d (wd v)] 0#32 := by
  rw [State.landUnif, h]
  simp [regPart]

/-- A LAUNCH whose turn it is lands the status of its submission. -/
theorem exec_launchSubmit {t : State} {d st : Nat} {sup : Bool} (hmay : s.launchMay id r)
    (hd : (s.course r.crs).pendDest r.pend = some (d, sup)) (hst : s.launchStatus (s.gridOf r.team).ctx r = (t, st))
    (hcrs : t.courses = s.courses) : exec (.launchSubmit id) s = .next (t.launchAnswer id r d sup st) := by
  obtain ⟨hfind, hahead, hbusy, hwaits⟩ := hmay
  have hahead : s.launches.any (fun k e => k < id && e.crs == r.crs && e.queue == r.queue) = false := by
    rw [Tab.any_eq_list_any, List.any_eq_false]
    intro e he
    simpa [and_assoc] using hahead e he
  have hd : (({ t with launches := Tab.del t.launches id } : State).course r.crs).pendDest r.pend = some (d, sup) := by
    rw [State.course, hcrs]; exact hd
  show execLaunchSubmit id s = _
  simp only [execLaunchSubmit, hfind, hahead, hbusy, hwaits, hst, Bool.or_self, Bool.false_eq_true, if_false]
  rw [landUnif_one hd, State.launchAnswer]

theorem exec_launchSubmit_waits (hfind : Tab.find s.launches id = some r)
    (hwaits : s.launchWaits (s.gridOf r.team).ctx r = true) : exec (.launchSubmit id) s = .next s := by
  show execLaunchSubmit id s = _
  simp [execLaunchSubmit, hfind, hwaits]

theorem launchable_iff {q : Queue} : q.launchable ctx = true ↔ q.devFed = true ∧ q.ctx = ctx ∧ q.halted = false := by
  simp [Queue.launchable, and_assoc]

theorem launchWaits_iff : s.launchWaits ctx r = true ↔ ∃ q, Tab.find s.queues r.queue = some q ∧ q.launchable ctx = true ∧
    q.used ≠ q.slots ∧ (s.frontWaits ctx r.addr = true ∨ s.frontWaits ctx (q.slotAddr q.tail) = true ∨
      s.frontWaits ctx q.tailAddr = true) := by
  simp [State.launchWaits, Option.any_eq_true, and_assoc, or_assoc]

/-- Only a device-fed queue of the context that is not halted takes a LAUNCH. -/
theorem launchStatus_unusable (h : ∀ q, Tab.find s.queues r.queue = some q → q.launchable ctx = false) :
    s.launchStatus ctx r = (s, 2) := by
  rw [State.launchStatus]
  cases hq : Tab.find s.queues r.queue with
  | none => rfl
  | some q => simp [h q hq]

theorem launchStatus_usable {q : Queue} (hq : Tab.find s.queues r.queue = some q) (h : q.launchable ctx = true) :
    s.launchStatus ctx r = s.submit ctx r.queue r.addr q := by
  simp [State.launchStatus, hq, h]

variable {qn addr : Nat} {q : Queue}

theorem submit_full (h : q.used = q.slots) : s.submit ctx qn addr q = (s, 1) := if_pos h

theorem submit_unread (h : q.used ≠ q.slots) (hb : s.frontRead ctx addr 128 = none) : s.submit ctx qn addr q = (s, 3) := by
  simp [State.submit, h, hb]

theorem submit_enters {s1 s2 : State} {b : Bytes2} (h : q.used ≠ q.slots) (hb : s.frontRead ctx addr 128 = some b)
    (hbad : Bytes2.bad b = false)
    (hslot : (s.frontAsks ctx addr 128).frontWrite ctx (q.slotAddr q.tail) (b.map (fun y => y.1)) = some s1)
    (htail : s1.frontWrite ctx q.tailAddr (bytesOf 8 ((q.tail + 1) % 2 ^ 32)) = some s2) :
    s.submit ctx qn addr q =
      ({ s2 with queues := Tab.put s2.queues qn { q with tail := (q.tail + 1) % 2 ^ 32 } }, 0) := by
  simp only [State.submit, if_neg h, hb, hbad, hslot, htail, Bool.false_eq_true, if_false]

end

/-! ## Tail words (R42, R43) -/

section
variable {s : State} {q : Nat} {x : Queue} {b : Bytes2}

/-- The front end has seen a tail word other than the one it knows, in a queue that is not halted. -/
theorem exec_tailWordWrite (hq : Tab.find s.queues q = some x) (hh : x.halted = false) (hb : s.tailWord x.ctx x.tailAddr = some b)
    (hnew : (x.devFed && x.touched) = true ∨ (Bytes2.bad b = false ∧ Bytes2.num b % 2 ^ 32 ≠ x.tail)) :
    let t := { x with tail := Bytes2.num b % 2 ^ 32 }
    let asked := s.frontAsks x.ctx x.tailAddr 8
    exec (.tailWordWrite q) s = .next (if x.devFed || decide (x.slots < t.used) then asked.haltQueue q
      else { asked with queues := Tab.put s.queues q t }) := by
  intro t asked
  have halts (h : (x.devFed && x.touched) = true) : (x.devFed || decide (x.slots < t.used)) = true := by
    rw [(Bool.and_eq_true_iff.1 h).1, Bool.true_or]
  have hasks : ((x.devFed && x.touched) || !(Bytes2.bad b || decide (Bytes2.num b % 2 ^ 32 = x.tail))) = true := by
    rcases hnew with h | ⟨hbad, htail⟩
    · rw [h, Bool.true_or]
    · rw [hbad, decide_eq_false htail, Bool.or_self, Bool.not_false, Bool.or_true]
  show execTailWordWrite q s = _
  have hseen : (if x.halted = true then none else s.tailWord x.ctx x.tailAddr) = some b := (if_neg (by simp [hh])).trans hb
  simp only [execTailWordWrite, hq, hseen, hasks, if_true]
  by_cases htouch : (x.devFed && x.touched) = true
  · rw [if_pos htouch, if_pos (halts htouch)]
  · obtain ⟨hbad, htail⟩ := hnew.resolve_left htouch
    rw [if_neg htouch, if_neg (by simp only [hbad, Bool.false_or, decide_eq_true_eq]; exact htail), frontAsks_queues]
    exact (apply_ite Host.Outcome.next ..).symm

end

/-- Settles O42: what LAUNCH and its submission come to follows the queue's state; so does a tail word. -/
theorem launching : Obligations.Launching := by
  refine ⟨launch_idle, launch_sent, launch_misaligned, fun s id r d sup hmay hd hq => ?unusable,
    fun s id r d sup q hmay hd hq hdev hctx hh hfull => ?full,
    fun s s1 s2 id r d sup q b hmay hd hq hdev hctx hh hroom hb hbad hslot htail hcrs => ?enters,
    fun s id r d sup q hmay hd hq hl hroom hb => ?unread, fun _ _ _ hf hw => exec_launchSubmit_waits hf hw,
    fun _ _ _ => launchWaits_iff, fun s q x b hq hh hb hbad hnew hdev hroom => ?covers,
    fun s q x b hq hh hb hbad hnew hhalt => ?halts, fun s q x b hq hh hb hdev htouch => ?touched,
    fun s ctx va hhost hchip hpage hin => tailWord_own hhost hchip hpage hin⟩
  case unusable =>
    refine exec_launchSubmit hmay hd (launchStatus_unusable (fun q hf => ?_)) rfl
    rw [Bool.eq_false_iff, ne_eq, launchable_iff]
    rintro ⟨hdev, hctx, hh⟩
    rcases hq q hf with h | h | h
    · simp [h] at hdev
    · exact h hctx
    · simp [h] at hh
  case full =>
    exact exec_launchSubmit hmay hd ((launchStatus_usable hq (launchable_iff.2 ⟨hdev, hctx, hh⟩)).trans (submit_full hfull)) rfl
  case enters =>
    have hl := launchStatus_usable hq (launchable_iff.2 ⟨hdev, hctx, hh⟩)
    rw [hctx] at hb hslot htail
    exact exec_launchSubmit hmay hd (hl.trans (submit_enters hroom hb hbad hslot htail)) hcrs
  case unread =>
    exact exec_launchSubmit hmay hd ((launchStatus_usable hq hl).trans (submit_unread hroom hb)) rfl
  case covers =>
    have hstays : ¬ (x.devFed || decide (x.slots < ({ x with tail := Bytes2.num b % 2 ^ 32 } : Queue).used)) = true := by
      rw [Bool.or_eq_true, decide_eq_true_eq]
      exact not_or.2 ⟨Bool.eq_false_iff.1 hdev, Nat.not_lt.2 hroom⟩
    rw [exec_tailWordWrite hq hh hb (.inr ⟨hbad, hnew⟩), if_neg hstays]
  case halts =>
    rw [exec_tailWordWrite hq hh hb (.inr ⟨hbad, hnew⟩), if_pos (by simpa using hhalt)]
  case touched =>
    rw [exec_tailWordWrite hq hh hb (.inl (by simp [hdev, htouch])), if_pos (by simp [hdev])]

/-! # Admission (R44–R55, R469, R470) -/

/-! ## Taking a record (R41, R47, R51) -/

section
variable {s t : State} {ctx va : Nat}

/-- What an access of the front end leaves of what the front end keeps itself. -/
def State.frontKept (s : State) : Nat × Tab Context × Tab Nat := (s.clock, s.contexts, s.lastServed)

theorem frontAsks_kept (s : State) (ctx va n : Nat) : (s.frontAsks ctx va n).frontKept = s.frontKept := by
  simp only [State.frontAsks]; split <;> rfl

theorem frontWrite_kept {x : List Byte} (h : s.frontWrite ctx va x = some t) : t.frontKept = s.frontKept := by
  simp only [State.frontWrite] at h
  split at h
  case h_2 => cases h
  split at h
  · split at h
    · cases h
    · split at h <;> (obtain rfl := Option.some.inj h; rfl)
  · split at h
    · obtain rfl := Option.some.inj h; rfl
    · cases h

/-- The head word of a queue has been written, or is passed over where it cannot be (log 60). -/
def headWritten (s : State) (x : Queue) (t : State) : Prop :=
  (s.frontAsks x.ctx (x.slotAddr x.head) 128).frontWrite x.ctx x.headAddr (bytesOf 8 ((x.head + 1) % 2 ^ 32)) = some t ∨
  ((s.frontAsks x.ctx (x.slotAddr x.head) 128).frontWrite x.ctx x.headAddr (bytesOf 8 ((x.head + 1) % 2 ^ 32)) = none ∧
    t = s.frontAsks x.ctx (x.slotAddr x.head) 128)

variable {x : Queue}

theorem headWritten_getD (h : headWritten s x t) :
    ((s.frontAsks x.ctx (x.slotAddr x.head) 128).frontWrite x.ctx x.headAddr (bytesOf 8 ((x.head + 1) % 2 ^ 32))).getD
      (s.frontAsks x.ctx (x.slotAddr x.head) 128) = t := by
  rcases h with h | ⟨h, rfl⟩ <;> rw [h] <;> rfl

theorem headWritten_kept (h : headWritten s x t) : t.clock = s.clock ∧ t.contexts = s.contexts ∧ t.lastServed = s.lastServed := by
  have hk : t.frontKept = s.frontKept := by
    rcases h with h | ⟨_, rfl⟩
    · rw [frontWrite_kept h, frontAsks_kept]
    · exact frontAsks_kept ..
  simpa [State.frontKept] using hk

theorem takeRecord_refused {qn cause : Nat} (hf : s.recordFault x.ctx (s.frontRead x.ctx (x.slotAddr x.head) 128) = some cause)
    (hw : headWritten s x t) :
    s.takeRecord qn x = (({ t with lastServed := Tab.put s.lastServed x.prio qn } : State).setQueueRec qn
      { x with head := (x.head + 1) % 2 ^ 32 }).refuseRecord qn x.ctx x.head
        (signalOf (s.frontRead x.ctx (x.slotAddr x.head) 128)) cause := by
  obtain ⟨_, _, hlast⟩ := headWritten_kept hw
  simp only [State.takeRecord, headWritten_getD hw, hf, hlast]

theorem takeRecord_waits {qn : Nat} {b : Bytes2} (hb : s.frontRead x.ctx (x.slotAddr x.head) 128 = some b)
    (hf : s.recordFault x.ctx (some b) = none) (hw : headWritten s x t) (hduty : (s.context x.ctx).duty.testBit 0 = false) :
    s.takeRecord qn x = ({ t with lastServed := Tab.put s.lastServed x.prio qn } : State).setQueueRec qn
      { x with
        head := (x.head + 1) % 2 ^ 32
        waiting := some { lr := parseRecord (b.map (fun y => y.1)), recNo := x.head, since := s.clock } } := by
  obtain ⟨hclock, hctx, hlast⟩ := headWritten_kept hw
  have hduty : (Tab.get Context.dead t.contexts x.ctx).duty.testBit 0 = false := by rw [hctx]; exact hduty
  simp only [State.takeRecord, hb, headWritten_getD hw, hf, hlast, hclock, State.context, hduty, Option.getD_some,
    Bool.false_eq_true, if_false]

end

/-! ## The checks of a record (R51) -/

section
variable {s : State} {ctx : Nat} {b : Bytes2}

theorem recordFault_malformed (hbad : Bytes2.bad b = false) (hok : recordOk (b.map (fun y => y.1)) = false) :
    s.recordFault ctx (some b) = some 0x0001 := by
  simp [State.recordFault, hbad, hok]

theorem recordFault_no_code (hbad : Bytes2.bad b = false) (hok : recordOk (b.map (fun y => y.1)) = true)
    (hcode : s.inCode ctx (parseRecord (b.map (fun y => y.1))).entry = false ∨
      ((parseRecord (b.map (fun y => y.1))).handler ≠ 0 ∧ s.inCode ctx (parseRecord (b.map (fun y => y.1))).handler = false)) :
    s.recordFault ctx (some b) = some 0x0004 := by
  have hfail : (!s.inCode ctx (parseRecord (b.map (fun y => y.1))).entry || ((parseRecord (b.map (fun y => y.1))).handler ≠ 0 &&
      !s.inCode ctx (parseRecord (b.map (fun y => y.1))).handler)) = true := by
    rcases hcode with h | ⟨hne, h⟩ <;> simp_all
  simp only [State.recordFault, hbad, hok, hfail, Bool.not_true, Bool.false_eq_true, if_false, if_true]

end

/-! ## What a queue starts (R44, R52, R54, R55) -/

section
variable {s t : State} {qn : Nat} {place : List Placement}

/-- The front end works: no wipe is in progress and the package is deployed. -/
def serves (s : State) : Prop := s.wiping = false ∧ s.lifeCycle = .deployed

/-- Nothing holds or goes before what a queue may start, and its turn has come. -/
def mayStart (s : State) (qn : Nat) (x : Next) : Prop :=
  s.queueHeld qn x = false ∧ s.higherFirst (s.nextPrio qn x) = false ∧ s.startsInTurn qn x = true

/-- It starts at a place. -/
def startsAt (s : State) (qn : Nat) (place : List Placement) (x : Next) : Prop :=
  s.ownHeld qn x = false ∧ mayStart s qn x ∧ (s.startNext qn place x).isSome

/-- What a queue starts at a place with one of the things that it may start. -/
def State.tryStart (s : State) (qn : Nat) (place : List Placement) (x : Next) : Option State :=
  if s.queueHeld qn x || s.higherFirst (s.nextPrio qn x) || !s.startsInTurn qn x then none else s.startNext qn place x

theorem tryStart_of_may {x : Next} (h : mayStart s qn x) : s.tryStart qn place x = s.startNext qn place x := by
  obtain ⟨hheld, hfirst, hturn⟩ := h
  simp [State.tryStart, hheld, hfirst, hturn]

theorem tryStart_none {x : Next} (hown : s.ownHeld qn x = false) (h : ¬ startsAt s qn place x) : s.tryStart qn place x = none := by
  by_cases hmay : mayStart s qn x
  · rw [tryStart_of_may hmay, ← Option.not_isSome_iff_eq_none]
    exact fun hs => h ⟨hown, hmay, hs⟩
  · refine if_pos ?_
    simp only [mayStart, not_and, Bool.not_eq_true] at hmay
    cases hheld : s.queueHeld qn x
    · cases hfirst : s.higherFirst (s.nextPrio qn x)
      · simp [hmay hheld hfirst]
      · rfl
    · rfl

theorem startAt_eq : s.startAt qn place =
    (((s.nexts qn).filter (fun x => !s.ownHeld qn x)).findSome? (s.tryStart qn place)).getD s := rfl

/-- What stands first among the things that start is started. -/
theorem startAt_first {l r : List Next} {x : Next} (hn : s.nexts qn = l ++ x :: r) (hl : ∀ y ∈ l, ¬ startsAt s qn place y)
    (hown : s.ownHeld qn x = false) (hmay : mayStart s qn x) (ht : s.startNext qn place x = some t) :
    s.startAt qn place = t := by
  have hnone : (l.filter (fun y => !s.ownHeld qn y)).findSome? (s.tryStart qn place) = none := by
    rw [List.findSome?_eq_none_iff]
    intro y hy
    obtain ⟨hy, hyown⟩ := List.mem_filter.1 hy
    exact tryStart_none (by simpa using hyown) (hl y hy)
  rw [startAt_eq, hn, List.filter_append, List.findSome?_append, hnone, List.filter_cons_of_pos (by simp [hown]),
    List.findSome?_cons, tryStart_of_may hmay, ht]
  rfl

/-- With a place, the front end starts what it may. -/
theorem exec_admitGrid_place (h : serves s) (hp : place ≠ []) : exec (.admitGrid qn place) s = .next (s.startAt qn place) := by
  obtain ⟨hwipe, hlife⟩ := h
  have hp : place.isEmpty = false := by simpa using hp
  show execAdmitGrid qn place s = _
  simp [execAdmitGrid, hwipe, hlife, hp]

theorem nexts_of_waiting {x : Queue} {w : Waiting} (hq : Tab.find s.queues qn = some x) (hw : x.waiting = some w)
    (hh : x.halted = false) (hr : w.refused = none) (hc : w.asked = none ∨ w.consent = some true) :
    s.nexts qn = (s.partGrids qn).map Next.cluster ++ [.fresh w] := by
  have hfree : (x.halted || w.refused.isSome || (w.asked.isSome && w.consent ≠ some true)) = false := by
    rcases hc with hc | hc <;> simp [hh, hr, hc]
  rw [State.nexts, hq]
  simp only [hw, hfree, Bool.false_eq_true, if_false]

/-- The clusters of grids partly started come first. -/
theorem nexts_of_partGrids {l r : List Nat} {g : Nat} (h : s.partGrids qn = l ++ g :: r) :
    ∃ rest, s.nexts qn = l.map Next.cluster ++ .cluster g :: rest := by
  rw [State.nexts, h, List.map_append, List.map_cons, List.append_assoc, List.cons_append]
  exact ⟨_, rfl⟩

theorem mem_partGrids {g : Nat} : g ∈ s.partGrids qn ↔ ∃ x, (g, x) ∈ (s.grids : List (Nat × Grid)) ∧ x.queue = qn ∧
    x.done = false ∧ x.abort = none ∧ x.nextTeam < x.lr.teams := by
  rw [State.partGrids, mem_sortBy, Tab.mem_keys]
  simp [and_assoc]

theorem clusters_do_not_start {l : List Nat} (h : ∀ g ∈ l, ¬ startsAt s qn place (.cluster g)) :
    ∀ y ∈ l.map Next.cluster, ¬ startsAt s qn place y := by
  intro y hy
  obtain ⟨g, hg, rfl⟩ := List.mem_map.1 hy
  exact h g hg

/-- Without a place, a record is taken in turn. -/
theorem exec_admitGrid_takes {x : Queue} (h : serves s) (hq : Tab.find s.queues qn = some x) (hf : s.higherFirst x.prio = false)
    (hr : x.ready = true) (ht : s.inTurn qn x = true) (hw : s.recordWaits x = false) :
    exec (.admitGrid qn []) s = .next (s.takeRecord qn x) := by
  obtain ⟨hwipe, hlife⟩ := h
  have hready : (Tab.find s.queues qn).filter Queue.ready = some x := by rw [hq, Option.filter_some, if_pos hr]
  show execAdmitGrid qn [] s = _
  simp only [execAdmitGrid, hready]
  simp [hwipe, hlife, hf, ht, hw]

theorem exec_admitGrid_record_waits {x : Queue} (h : serves s) (hq : Tab.find s.queues qn = some x) (hr : x.ready = true)
    (hw : s.recordWaits x = true) : exec (.admitGrid qn []) s = .next s := by
  obtain ⟨hwipe, hlife⟩ := h
  have hready : (Tab.find s.queues qn).filter Queue.ready = some x := by rw [hq, Option.filter_some, if_pos hr]
  show execAdmitGrid qn [] s = _
  simp only [execAdmitGrid, hready]
  simp [hwipe, hlife, hw]

/-- With no record to take, the front end pre-empts for what the queue would start. -/
theorem exec_admitGrid_preempts {x : Next} (h : serves s) (hn : s.nexts qn = [x])
    (hr : ∀ y, Tab.find s.queues qn = some y → y.ready = false) (hown : s.ownHeld qn x = false)
    (hf : s.higherFirst (s.nextPrio qn x) = false) : exec (.admitGrid qn []) s = .next ((s.preempt qn x).getD s) := by
  obtain ⟨hwipe, hlife⟩ := h
  have hnone : (Tab.find s.queues qn).filter Queue.ready = none := by
    rw [Option.filter_eq_none_iff]
    exact fun y hy => by simp [hr y hy]
  show execAdmitGrid qn [] s = _
  simp only [execAdmitGrid, hnone, hn]
  simp [hwipe, hlife, hown, hf]

end

/-! ## Starting a team (R46, R52) -/

section
variable {s t : State}

/-- A team of one course without a spill area takes its course's place, and nothing else changes. -/
theorem startTeam_one {g : Nat} {p : Placement} (hfit : s.teamFits (s.grid g).lr p.core p.offset = true)
    (hc : (s.grid g).lr.courses = 1) (hsp : (s.grid g).lr.spill = 0) (ht : s.startTeam g p = some t) :
    t = (s.setCourse (Tab.fresh s.courses) (startCourse (s.grid g).lr (Tab.fresh s.teams) 0 p.core (bayAt 0 p.offset)
      (s.freePlace p.core (bayAt 0 p.offset) []) [])).setTeam (Tab.fresh s.teams)
        { grid := g, number := p.team, core := p.core, offset := p.offset, courses := [Tab.fresh s.courses], acquire := s.stamp } := by
  have hframes : (s.grid g).lr.spillFrames = 0 := by rw [LaunchRec.spillFrames, hsp]
  have hone : (List.range (s.grid g).lr.courses).reverse = [0] := by rw [hc]; rfl
  rw [State.startTeam] at ht
  simp only [hfit, hone, State.startCourses, hframes, State.takeFrames, Bool.not_true, Bool.false_eq_true, if_false,
    Option.map_some] at ht
  exact (Option.some.inj ht).symm

theorem startCourse_unif_above (r : LaunchRec) (team i core bay place : Nat) (sp : List Nat) {n : Nat} (hn : 2 ≤ n) :
    (startCourse r team i core bay place sp).unifCell false n = {} := by
  have h0 : ¬ 0 = n := by omega
  have h1 : ¬ 1 = n := by omega
  simp [startCourse, Course.unifCell, Course.unifFile, Tab.get, h0, h1]

end

/-! ## Timers and consent (R55, R469, R470) -/

section
variable {s : State} {qn : Nat} {x : Queue} {w : Waiting}

theorem exec_coopWaitTimer_blocks (hq : Tab.find s.queues qn = some x) (hw : x.waiting = some w) (hc : w.lr.coop = true)
    (ht : w.since + 80000 ≤ s.clock) :
    exec (.coopWaitTimer qn) s = .next (s.setQueueRec qn { x with waiting := some { w with blocks := true } }) := by
  have ht : w.since + 100 * Config.cyclesPerUs ≤ s.clock := ht
  show execCoopWaitTimer qn s = _
  simp [execCoopWaitTimer, hq, hw, hc, ht]

theorem exec_admissionConsent_declined (hq : Tab.find s.queues qn = some x) (hw : x.waiting = some w)
    (hc : w.consent = some false) (hr : w.refused = none) (hs : w.lr.signal = 0 ∨ s.frontWaits x.ctx w.lr.signal = false) :
    exec (.admissionConsent qn) s =
      .next ((s.setQueueRec qn { x with waiting := none }).refuseRecord qn x.ctx w.recNo w.lr.signal 0x0005) := by
  have hs : (w.lr.signal ≠ 0 && s.frontWaits x.ctx w.lr.signal) = false := by rcases hs with h | h <;> simp [h]
  show execAdmissionConsent qn s = _
  simp only [execAdmissionConsent, hq, hw, hr, hc, State.refuseWaiting, hs, Bool.false_eq_true, if_false]

/-- What becomes of a request that the host's agent has left unanswered. -/
def State.askLapsed (s : State) (seq : Nat) (a : Ask) : State :=
  let t : State := { s with asks := Tab.del s.asks seq }
  match a.what with
  | .admission _ => t.consentAnswer seq false
  | .firstTouch crs slot => t.escalationAnswered crs slot false
  | .recovery g cause t' => t.abortNow g cause t'
  | .groupSetup _ _ _ => { t with asks := Tab.put t.asks seq { a with answer := some false } }

theorem exec_agentTimeout_lapsed {seq : Nat} {a : Ask} (ha : Tab.find s.asks seq = some a) (hn : a.answer = none)
    (ht : a.since + 80000000 ≤ s.clock) :
    exec (.agentTimeout seq) s = .next ((s.askLapsed seq a).mgmt (s.askCtx a.what) 7 (le 4 seq)) := by
  have hlate : ¬ s.clock < a.since + 100000 * Config.cyclesPerUs := Nat.not_lt.2 ht
  show execAgentTimeout seq s = _
  simp only [execAgentTimeout, ha]
  rw [if_neg (by simp [hlate, hn])]
  rfl

end

/-- Settles O43: the front end takes the record whose turn it is and starts the first thing that it may, at the place given. -/
theorem admission : Obligations.Admission := by
  refine ⟨fun _ _ _ h hq hf hr ht hw => exec_admitGrid_takes h hq hf hr ht hw,
    fun _ _ _ h hq hr hw => exec_admitGrid_record_waits h hq hr hw,
    fun _ _ _ _ _ hf hw => takeRecord_refused hf hw, fun _ _ _ _ _ hb hf hw hduty => takeRecord_waits hb hf hw hduty,
    fun _ _ _ hbad hok => recordFault_malformed hbad hok, fun _ _ => rfl,
    fun _ _ _ hbad hok hcode => recordFault_no_code hbad hok hcode,
    fun s t qn x w place h hq hp hw hh hr hc hl hmay ht => ?fresh,
    fun s t qn l g r place h hp hpart hl hown hmay ht => ?cluster, fun _ _ _ => mem_partGrids,
    fun _ _ _ h hn hr hown hf => exec_admitGrid_preempts h hn hr hown hf,
    fun s t g p hfit hc hsp ht => ?team, fun r team i core bay place sp => ?course,
    fun _ _ _ _ hq hw hc ht => exec_coopWaitTimer_blocks hq hw hc ht,
    fun _ _ _ _ hq hw hc hr hs => exec_admissionConsent_declined hq hw hc hr hs,
    fun s seq a qn ha hn ht hwhat => ?admission, fun s seq a crs j ha hn ht hwhat => ?touch,
    fun s seq a g cause t ha hn ht hwhat => ?recovery⟩
  case fresh =>
    rw [exec_admitGrid_place h hp, startAt_first (nexts_of_waiting hq hw hh hr hc) (clusters_do_not_start hl) rfl hmay ht]
  case cluster =>
    obtain ⟨rest, hn⟩ := nexts_of_partGrids hpart
    rw [exec_admitGrid_place h hp, startAt_first hn (clusters_do_not_start hl) hown hmay ht]
  case team =>
    obtain rfl := startTeam_one hfit hc hsp ht
    exact ⟨by simp, by simp, rfl, fun k hk => by simp [Ne.symm hk]⟩
  case course =>
    exact ⟨rfl, rfl, rfl, rfl, rfl, rfl, fun n hn => startCourse_unif_above r team i core bay place sp hn, fun _ _ => rfl, rfl, rfl⟩
  case admission =>
    rw [exec_agentTimeout_lapsed ha hn ht, State.askLapsed]
    simp only [hwhat]
  case touch =>
    rw [exec_agentTimeout_lapsed ha hn ht, State.askLapsed]
    simp only [hwhat]
  case recovery =>
    rw [exec_agentTimeout_lapsed ha hn ht, State.askLapsed]
    simp only [hwhat]

/-! # The end of teams and grids (R53, R54, R59–R62, R449–R454) -/

/-! ## Halting (R449) -/

section
variable {s : State} {h : Nat}

theorem exec_haltRequest_alone (hr : (s.team h).state = .running) (hu : s.unitOf h = [h]) : exec (.haltRequest h) s =
    .next ((((s.onTeam h (fun t => { t with state := .halting })).mergeAll h).pump h).serveCores [h]) := by
  have hteam : s.haltUnit h = s.haltTeam h := by rw [State.haltUnit, hu]; rfl
  show execHaltRequest h s = _
  rw [execHaltRequest, if_pos hr, hteam, State.haltTeam, if_pos hr]

theorem exec_haltRequest_stopped (hr : (s.team h).state ≠ .running) : exec (.haltRequest h) s = .next s := if_neg hr

end

/-! ## Saving and restoring (R450–R454) -/

section
variable {s : State} {h : Nat}

theorem exec_saveComplete_saves {t : State} {l : List Nat} (hh : (s.team h).state = .halting) (hq : s.quiet h = true)
    (hp : s.parkedOn (s.team h).core < 32)
    (hf : s.takeFrames (s.grid (s.team h).grid).ctx .image (fun f => f.tier == 0 && f.die == dieOf (s.team h).core)
      (s.grid (s.team h).grid).lr.imageFrames = some (t, l)) :
    exec (.saveComplete h) s = .next (t.saveTeam h l (some (s.team h).core)) := by
  have hp : s.parkedOn (s.team h).core < Config.parkedEntries := hp
  show execSaveComplete h s = _
  simp only [execSaveComplete, hf]
  simp [hh, hq, hp]

theorem exec_saveComplete_waits (hw : (s.team h).state ≠ .halting ∨ s.quiet h = false) : exec (.saveComplete h) s = .next s := by
  show execSaveComplete h s = _
  rcases hw with hw | hw <;> simp [execSaveComplete, hw]

/-- Operand-queue entries stand in the queues of the cores: to take them leaves the rest. -/
theorem takeEntries_keeps {β : Type} {part : State → β} (hp : ∀ u core b q, part (u.setQueue core b q) = part u) (s : State)
    (h core : Nat) : part (s.takeEntries h core).1 = part s :=
  foldl_keeps (part := fun r : State × List MatEntry => part r.1) (fun _ _ => hp ..) _ _

@[simp] theorem takeEntries_team (s : State) (h core k : Nat) : (s.takeEntries h core).1.team k = s.team k :=
  takeEntries_keeps (part := fun u => u.team k) (fun _ _ _ _ => rfl) ..

@[simp] theorem takeEntries_course (s : State) (h core k : Nat) : (s.takeEntries h core).1.course k = s.course k :=
  takeEntries_keeps (part := fun u => u.course k) (fun _ _ _ _ => rfl) ..

@[simp] theorem takeEntries_mem (s : State) (h core : Nat) : (s.takeEntries h core).1.mem = s.mem :=
  takeEntries_keeps (part := State.mem) (fun _ _ _ _ => rfl) ..

/-- The image of a team of one course holds what the team and the course held. -/
theorem saveTeam_keeps {crs : Nat} (hc : (s.team h).courses = [crs]) (l : List Nat) (p : Option Nat) :
    let t := s.saveTeam h l p
    (t.team h).state = .saved ∧ (t.team h).image = l ∧ (t.team h).shared = (s.team h).shared ∧
      (t.team h).acc = (s.team h).acc ∧ t.course crs = (s.course crs).saved ∧ t.mem = s.mem := by
  simp only [State.saveTeam, hc, List.foldl_cons, List.foldl_nil]
  simp

theorem exec_restore_alone {t : State} {p : Placement} (hs : (s.team p.team).state = .saved) (hu : s.unitOf p.team = [p.team])
    (hc : s.clustersOk (s.gridOf p.team).lr [((s.team p.team).number, p.core)] = true) (hw : s.copyWaitsMove p.team = false)
    (ht : s.restoreTeam p = some t) : exec (.restore [p]) s = .next (t.wakeTeam p.team) := by
  show execRestore [p] s = _
  simp [execRestore, hs, hu, hc, hw, ht]

end

/-! ## Freeing a team (R59) -/

section
variable {s : State} {h : Nat}

/-- Once every operation of it is over, a break that a team was never trapped on aborts its grid; else the team is freed (R313). -/
theorem exec_teamFree_done (he : (s.team h).state = .ended) (hsh : (s.team h).shadows = []) (hset : (s.team h).settled = true)
    (hcp : (s.team h).copies = []) (hmat : s.matQueued (s.team h) = false) (hacc : s.accessing (s.team h) = false) :
    exec (.teamFree h) s = .next (match (if (s.grid (s.team h).grid).abort.isSome then none else (s.team h).untrapped) with
      | some c => s.abortGrid (s.team h).grid (0x0100 + causeTrap c.cause) none
      | none => s.freeTeam h) := by
  show execTeamFree h s = _
  simp only [execTeamFree, he, hsh, hset, hcp, hmat, hacc]
  generalize (if (s.grid (s.team h).grid).abort.isSome then none else (s.team h).untrapped) = broken
  cases broken <;> rfl

theorem exec_teamFree_accessing (he : (s.team h).state = .ended) (hsh : (s.team h).shadows = [])
    (hacc : s.accessing (s.team h) = true) : exec (.teamFree h) s = .next s := by
  show execTeamFree h s = _
  simp [execTeamFree, he, hsh, hacc]

@[simp] theorem freeUse_grids (s : State) (ctx : Nat) (l : List Nat) : (s.freeUse ctx l).grids = s.grids :=
  foldl_keeps (f := fun (u : State) n => u.setUse ctx n .free) (part := State.grids) (fun _ _ => rfl) l s

theorem freeTeam_team (s : State) (h : Nat) : ((s.freeTeam h).team h).state = .freed := by
  simp [State.freeTeam]

theorem freeTeam_grid (s : State) (h : Nat) : (s.freeTeam h).grid (s.team h).grid =
    { s.grid (s.team h).grid with freed := (s.grid (s.team h).grid).freed + 1 } := by
  simp [State.freeTeam]

end

/-! ## The end of a grid (R60–R62) -/

section
variable {s : State} {n : Nat}

theorem drained_of_claimed (h : s.claimedOf n = true) : s.drained n = false := by
  simp [State.drained, h]

@[simp] theorem reclaim_clock (s : State) (n : Nat) : (s.reclaim n).clock = s.clock := rfl

theorem exec_completionSignal_waits (h : s.drained n = false) : exec (.completionSignal n) s = .next s := by
  show execCompletionSignal n s = _
  simp [execCompletionSignal, h]

theorem exec_completionSignal_drained (h : s.drained n = true) (hw : s.frontWaits (s.grid n).ctx (s.grid n).lr.signal = false) :
    exec (.completionSignal n) s = .next (((s.reclaim n).signal (s.grid n)).releaseGrid n).trimFar := by
  show execCompletionSignal n s = _
  simp [execCompletionSignal, h, hw]

variable {t : State} {x : Grid}

/-- A grid that was not aborted is signalled with its completion value. -/
theorem signal_completed (ha : x.abort = none) (hs : x.lr.signal ≠ 0)
    (ht : s.frontWrite x.ctx x.lr.signal (bytesOf 8 x.lr.value) = some t) : s.signal x = t := by
  simp [State.signal, ha, hs, ht]

/-- One that was, with the error word and a record in the log. -/
theorem signal_aborted {a : Abort} (ha : x.abort = some a) (htrap : a.trap = none) (hs : x.lr.signal ≠ 0)
    (ht : s.frontWrite x.ctx x.lr.signal (bytesOf 8 (errorWord x.recNo a.cause)) = some t) :
    s.signal x = t.logPost x.ctx
      { kind := 2, queue := x.queue, recNo := x.recNo, word := errorWord x.recNo a.cause, time := s.clock, pc := 0, addr := 0,
        info := 0, lane := 0 } := by
  simp [State.signal, ha, htrap, hs, ht, gridRecord]

theorem releaseGrid_done (s : State) (n : Nat) : ((s.releaseGrid n).grid n).done = true :=
  congrArg Grid.done (Tab.get_put_same Grid.dead s.grids n { s.grid n with done := true })

end

/-- Settles O44: a team that is alone in its unit is halted, saved and restored by itself; a grid ends once it has drained. -/
theorem teamsEnd : Obligations.TeamsEnd := by
  refine ⟨fun _ _ hr hu => exec_haltRequest_alone hr hu, fun _ _ hr => exec_haltRequest_stopped hr,
    fun _ _ _ _ hh hq _ hp hf => exec_saveComplete_saves hh hq hp hf, fun _ _ hw => exec_saveComplete_waits hw,
    fun s h crs l p hc => ?saved, fun _ _ _ hs hu hc hw ht => exec_restore_alone hs hu hc hw ht,
    fun s h he hsh hset hcp hmat hacc hfree => ?freed, fun s h c he hsh hset hcp hmat hacc ha hun => ?broken,
    fun s h => ⟨freeTeam_team s h, freeTeam_grid s h⟩, fun s t n hd ha hs hw ht => ?completed,
    fun s t n a hd ha htrap hs hw ht => ?aborted, fun _ _ he hsh hacc => exec_teamFree_accessing he hsh hacc,
    fun _ _ hc => drained_of_claimed hc, fun _ _ hd => exec_completionSignal_waits hd, releaseGrid_done⟩
  case saved =>
    obtain ⟨hstate, himage, hshared, hacc, hcourse, hmem⟩ := saveTeam_keeps hc l p
    dsimp only
    rw [hcourse]
    exact ⟨hstate, himage, hshared, hacc, rfl, rfl, rfl, rfl, rfl, rfl, hmem⟩
  case freed =>
    rw [exec_teamFree_done he hsh hset hcp hmat hacc]
    have hnone : (if (s.grid (s.team h).grid).abort.isSome then none else (s.team h).untrapped) = none := by
      rcases hfree with ha | hun
      · exact if_pos ha
      · rw [hun, ite_self]
    rw [hnone]
  case broken =>
    rw [exec_teamFree_done he hsh hset hcp hmat hacc, if_neg (by simp [ha]), hun]
  case completed =>
    rw [exec_completionSignal_drained hd hw, signal_completed ha hs ht]
  case aborted =>
    rw [exec_completionSignal_drained hd hw, signal_aborted ha htrap hs ht, reclaim_clock]

end Sys2Proof.Machine

namespace Sys2Proof.Machine

/-! # What landing writes (R112, R114, R142, R143, R150) -/

section
variable (c : Course)

/-- Bits are merged one by one. -/
theorem getLsbD_mergeBits (old v bits : Word) (i : Nat) :
    (mergeBits old v bits).getLsbD i = if bits.getLsbD i then v.getLsbD i else old.getLsbD i := by
  by_cases hi : i < 32
  · rw [mergeBits, BitVec.getLsbD_or, BitVec.getLsbD_and, BitVec.getLsbD_and, BitVec.getLsbD_not, decide_eq_true hi]
    cases bits.getLsbD i <;> simp
  · rw [BitVec.getLsbD_of_ge _ i (by omega), BitVec.getLsbD_of_ge v i (by omega), BitVec.getLsbD_of_ge old i (by omega), ite_self]

theorem laneCell_applyAlu_lane {sp : Bool} (n : Nat) {L : Nat} (v bits : Word) (k : Nat) {M : Nat} (hL : L < 32) (hM : M < 32)
    (hsp : sp = true → c.sup.isSome = true) : (c.applyAlu (.lane sp n L v bits)).laneCell sp k M =
      if k = n ∧ M = L then { c.laneCell sp n L with val := mergeBits (c.laneCell sp n L).val v bits, poison := false }
      else c.laneCell sp k M := by
  rw [Course.applyAlu, Course.laneCell_setLane c sp n L k M _ hsp hL hM]
  simp only [eq_comm]

theorem unifCell_applyAlu_unif {sp : Bool} (n : Nat) (v bits : Word) (k : Nat) (hsp : sp = true → c.sup.isSome = true) :
    (c.applyAlu (.unif sp n v bits)).unifCell sp k =
      if k = n then { c.unifCell sp n with val := mergeBits (c.unifCell sp n).val v bits } else c.unifCell sp k := by
  rw [Course.applyAlu, Course.unifCell_setUnif c sp n k _ hsp]
  simp only [eq_comm]

theorem mask_applyAlu_mask {n : Nat} (v bits : Word) (hn : n ≠ 0) :
    Tab.get 0#32 (c.applyAlu (.mask n v bits)).m n = mergeBits (Tab.get 0#32 c.m n) v bits := by
  rw [Course.applyAlu, Course.setMask, if_neg hn, Tab.get_put_same]

theorem laneCell_land_lane {sp : Bool} (n : Nat) {L : Nat} (v : Word) (p : Bool) (k : Nat) {M : Nat} (hL : L < 32) (hM : M < 32)
    (hsp : sp = true → c.sup.isSome = true) : (c.land (.lane sp n L v p)).laneCell sp k M =
      if k = n ∧ M = L then ⟨v, false, p⟩ else c.laneCell sp k M := by
  rw [Course.land, Course.laneCell_setLane c sp n L k M _ hsp hL hM]
  simp only [eq_comm]

theorem unifCell_land_unif {sp : Bool} (n : Nat) (v : Word) (k : Nat) (hsp : sp = true → c.sup.isSome = true) :
    (c.land (.unif sp n v)).unifCell sp k = if k = n then ⟨v, false⟩ else c.unifCell sp k := by
  rw [Course.land, Course.unifCell_setUnif c sp n k _ hsp]
  simp only [eq_comm]

end

section
variable (s : State)

theorem course_landPend_other {crs h : Nat} (pid : Nat) (ls : List Landing) (fl : Word) (hne : h ≠ crs) :
    (s.landPend crs pid ls fl).course h = s.course h := by
  rw [State.landPend]
  cases (s.course crs).pend.find? (fun p => p.id == pid) with
  | none => rfl
  | some p => exact (course_setCourse ..).trans (if_neg (Ne.symm hne))

theorem mem_landPend (crs pid : Nat) (ls : List Landing) (fl : Word) : (s.landPend crs pid ls fl).mem = s.mem := by
  rw [State.landPend]
  cases (s.course crs).pend.find? (fun p => p.id == pid) <;> rfl

end

/-- Settles O57: each landing is one write of the register that it names. -/
theorem registerWrites : Obligations.RegisterWrites :=
  ⟨fun c _ n _ v bits k _ hL hM hsp => laneCell_applyAlu_lane c n v bits k hL hM hsp,
    fun c _ n v bits k hsp => unifCell_applyAlu_unif c n v bits k hsp,
    fun c _ v bits hn => mask_applyAlu_mask c v bits hn,
    fun _ _ _ => rfl, fun _ _ => rfl, fun _ _ => rfl,
    fun c _ n _ v p k _ hL hM hsp => laneCell_land_lane c n v p k hL hM hsp,
    fun c _ n v k hsp => unifCell_land_unif c n v k hsp,
    fun c sp sp' n L v p k M hne => Course.laneCell_setLane_other c sp sp' n L k M ⟨v, false, p⟩ hne,
    fun c sp sp' n L v p k => Course.unifCell_setLane c sp sp' n L k ⟨v, false, p⟩,
    getLsbD_mergeBits, fun s _ pid ls fl _ hne => course_landPend_other s pid ls fl hne, mem_landPend⟩

/-! # Results that land (R112–R114, R156, R157, R258–R260, R450) -/

/-! ## What landing and writing back leave of a course -/

section
variable (c : Course)

@[simp] theorem Course.land_pend (l : Landing) : (c.land l).pend = c.pend := by cases l <;> simp [Course.land]
@[simp] theorem Course.land_flg (l : Landing) : (c.land l).flg = c.flg := by cases l <;> simp [Course.land]
@[simp] theorem Course.land_ctl (l : Landing) : (c.land l).ctl = c.ctl := by cases l <;> simp [Course.land]
@[simp] theorem Course.land_slotN (l : Landing) (j : Nat) : (c.land l).slotN j = c.slotN j := by
  cases l <;> simp [Course.land, Course.slotN]
@[simp] theorem Course.land_reenter (l : Landing) : (c.land l).reenter = c.reenter := by cases l <;> simp [Course.land]

/-- No landing enters or leaves supervisor mode. -/
@[simp] theorem Course.land_sup_isNone (l : Landing) : (c.land l).sup.isNone = c.sup.isNone := by
  cases l with
  | lane sp n L v p => cases sp <;> simp [Course.land, Course.setLane]
  | unif sp n v => cases sp <;> simp [Course.land, Course.setUnif]
  | dist n L v => rfl

@[simp] theorem Course.applyAlu_slotN (d : AluDst) (j : Nat) : (c.applyAlu d).slotN j = c.slotN j := by
  cases d <;> simp [Course.applyAlu, Course.slotN]

end

/-- A part of the course that no landing changes is as it was after several. -/
theorem foldl_land_keeps {β : Type} {part : Course → β} (h : ∀ c l, part (c.land l) = part c) (ls : List Landing) (c : Course) :
    part (ls.foldl Course.land c) = part c := foldl_keeps (part := part) h ls c

/-! ## A pending word that lands -/

section
variable {s : State} {crs : Nat} {p : Pend} {ls : List Landing} {fl : Word}

/-- No other word of the issue event of p is pending in the course. -/
def State.landsAlone (s : State) (crs : Nat) (p : Pend) : Prop := ∀ q ∈ (s.course crs).pend, q.id ≠ p.id → q.turn ≠ p.turn

/-- What the landing of a pending word leaves, where it is still pending and its registers are there. -/
def State.landed (s : State) (crs : Nat) (p : Pend) (ls : List Landing) (fl : Word) : State :=
  s.setCourse crs { (ls.foldl Course.land (s.course crs)) with
    pend := (s.course crs).pend.filter (fun q => q.id != p.id)
    flg := (s.course crs).flg ||| fl }

theorem landPend_eq_landed (hp : (s.course crs).pend.find? (fun q => q.id == p.id) = some p) (ho : p.orphan = false) :
    s.landPend crs p.id ls fl = s.landed crs p ls fl := by
  have hpend := foldl_land_keeps (part := Course.pend) Course.land_pend ls (s.course crs)
  have hflg := foldl_land_keeps (part := Course.flg) Course.land_flg ls (s.course crs)
  have hkept : ls.filter (fun l => !(p.orphan && l.inBank)) = ls := List.filter_eq_self.2 (fun l _ => by rw [ho]; rfl)
  rw [State.landPend]
  simp only [hp, hkept, hpend, hflg]
  rfl

theorem landPend_pend (hp : (s.course crs).pend.find? (fun q => q.id == p.id) = some p) :
    ((s.landPend crs p.id ls fl).course crs).pend = (s.course crs).pend.filter (fun q => q.id != p.id) := by
  rw [State.landPend]
  simp only [hp, course_setCourse, if_true]
  rw [foldl_land_keeps (part := Course.pend) Course.land_pend]

@[simp] theorem landPend_ctl (s : State) (crs pid : Nat) (ls : List Landing) (fl : Word) :
    ((s.landPend crs pid ls fl).course crs).ctl = (s.course crs).ctl := by
  rw [State.landPend]
  cases (s.course crs).pend.find? (fun p => p.id == pid) with
  | none => rfl
  | some p => simp only [course_setCourse, if_true]; exact foldl_land_keeps (part := Course.ctl) Course.land_ctl _ _

/-- Which flags trap depends on TE alone. -/
theorem trapsOn_congr {c d : Course} (h : c.ctl = d.ctl) (fl : Word) : c.trapsOn fl = d.trapsOn fl := by
  rw [Course.trapsOn, Course.trapsOn, Course.te, Course.te, h]

theorem heldTrap_quiet {j pc : Nat} {act : LaneMask} (h : (s.course crs).trapsOn fl = false) : s.heldTrap crs j pc act fl = s := by
  simp [State.heldTrap, h]

theorem ne_zero_of_trapsOn {c : Course} (h : c.trapsOn fl = true) : fl ≠ 0#32 := by
  rintro rfl
  simp [Course.trapsOn] at h

/-- After the landing, nothing of the word's issue event is pending. -/
theorem landPend_last (hp : (s.course crs).pend.find? (fun q => q.id == p.id) = some p) (ha : s.landsAlone crs p) :
    ((s.landPend crs p.id ls fl).course crs).pend.any (fun q => q.turn == p.turn) = false := by
  rw [landPend_pend hp, List.any_eq_false]
  intro q hq
  obtain ⟨hmem, hid⟩ := List.mem_filter.1 hq
  simpa using ha q hmem (by simpa using hid)

/-- A word none of whose flags is enabled lands without a trap. -/
theorem landHeld_quiet (hp : (s.course crs).pend.find? (fun q => q.id == p.id) = some p) (ha : s.landsAlone crs p)
    (ht : (s.course crs).trapsOn fl = false) : (s.landPend crs p.id ls fl).landHeld crs p fl = s.landPend crs p.id ls fl := by
  rw [State.landHeld, landPend_last hp ha]
  split
  · rfl
  · exact heldTrap_quiet ((trapsOn_congr (landPend_ctl ..) fl).trans ht)

/-- A word with an enabled flag lands and raises ARITH, where its slot has work, does not wait, and no handler runs. -/
theorem landHeld_raises (hp : (s.course crs).pend.find? (fun q => q.id == p.id) = some p) (ho : p.orphan = false)
    (ha : s.landsAlone crs p) (ht : (s.course crs).trapsOn fl = true) (htaken : (s.course crs).taken p.slot = true)
    (hsup : (s.course crs).sup = none) (hre : (s.course crs).reenter = none) (hw : ((s.course crs).slotN p.slot).wait = .none) :
    (s.landPend crs p.id ls fl).landHeld crs p fl = (s.landed crs p ls fl).raise crs p.slot
      { arithTrap p.pc p.act fl with resume := ((s.course crs).slotN p.slot).pc } := by
  have hlast := landPend_last (ls := ls) (fl := fl) hp ha
  have hctl : ((s.landPend crs p.id ls fl).course crs).trapsOn fl = true := (trapsOn_congr (landPend_ctl ..) fl).trans ht
  rw [landPend_eq_landed hp ho] at hlast hctl ⊢
  have hslot : ((s.landed crs p ls fl).course crs).slotN p.slot = (s.course crs).slotN p.slot := by
    rw [State.landed, course_setCourse, if_pos rfl]
    exact foldl_land_keeps (part := fun c => c.slotN p.slot) (fun c l => c.land_slotN l p.slot) ls (s.course crs)
  have hsup' : ((s.landed crs p ls fl).course crs).sup = none := by
    rw [← Option.isNone_iff_eq_none, State.landed, course_setCourse, if_pos rfl]
    exact (foldl_land_keeps (part := fun c => c.sup.isNone) Course.land_sup_isNone ls (s.course crs)).trans (by rw [hsup]; rfl)
  have hre' : ((s.landed crs p ls fl).course crs).reenter = none := by
    rw [State.landed, course_setCourse, if_pos rfl]
    exact (foldl_land_keeps (part := Course.reenter) Course.land_reenter ls (s.course crs)).trans hre
  have htaken' : ((s.landed crs p ls fl).course crs).taken p.slot = true := by
    simpa [Course.taken, Course.supIn, hslot, hsup, hsup'] using htaken
  rw [State.landHeld, if_neg (ne_zero_of_trapsOn ht), hlast, if_neg Bool.false_ne_true, State.heldTrap]
  simp [hslot, hsup', hre', htaken', hctl, hw]

end

/-! ## VALUE_LANDS and PENDING_VALUE_LANDS (R114, R450) -/

section
variable {s : State} {crs : Nat} {p : Pend} {ls : List Landing}

theorem landNow_of_mayLand (hp : (s.course crs).pend.find? (fun q => q.id == p.id) = some p) (hm : s.mayLand crs p = true) :
    s.landNow crs p.id = s.landValue crs p := by
  rw [State.landNow]
  simp only [hp, hm, if_true]

theorem landValue_values (hk : p.kind = .values ls) :
    s.landValue crs p = (s.landPend crs p.id ls p.flags).landHeld crs p p.flags := by
  simp only [State.landValue, State.performPend, hk]

theorem landValue_access {sp : Space} {op : LocalOp} {as : List LaneAccess} (hk : p.kind = .access sp op as) :
    s.landValue crs p =
      let r := performAccess op (s.spaceBlock sp) as
      let fl := p.flags ||| wordFlags p.sup r.2.2
      ((s.setSpace sp r.1).landPend crs p.id r.2.1 fl).landHeld crs p fl := by
  simp only [State.landValue, State.performPend, hk]

/-- Local memories stand apart from the courses. -/
@[simp] theorem course_setSpace (s : State) (sp : Space) (b : Block) (h : Nat) : (s.setSpace sp b).course h = s.course h := by
  cases sp <;> rfl

/-- A value lands in a team that is not saved. -/
theorem exec_valueLands (hst : (s.team (s.course crs).team).state ≠ .saved)
    (hp : (s.course crs).pend.find? (fun q => q.id == p.id) = some p) (hm : s.mayLand crs p = true) :
    exec (.valueLands crs p.id) s = .next (s.landValue crs p) := by
  rw [← landNow_of_mayLand hp hm]
  exact if_neg hst

/-- A value lands in the image of a saved team. -/
theorem exec_pendingValueLands (hst : (s.team (s.course crs).team).state = .saved)
    (hp : (s.course crs).pend.find? (fun q => q.id == p.id) = some p) (hm : s.mayLand crs p = true) :
    exec (.pendingValueLands crs p.id) s = .next (s.landValue crs p) := by
  rw [← landNow_of_mayLand hp hm]
  exact if_pos hst

/-- Values computed at issue land, and no flag of theirs is enabled. -/
theorem landValue_quiet (ha : s.landsAlone crs p) (hp : (s.course crs).pend.find? (fun q => q.id == p.id) = some p)
    (hk : p.kind = .values ls) (ht : (s.course crs).trapsOn p.flags = false) (ho : p.orphan = false) :
    s.landValue crs p = s.landed crs p ls p.flags := by
  rw [landValue_values hk, landHeld_quiet hp ha ht, landPend_eq_landed hp ho]

end

/-! ## Fixed-ALU results (R112, R156) -/

section
variable {s : State} {crs j : Nat}

/-- The fixed-ALU results of 4 cycles ago and before are written. -/
def State.writtenBack (s : State) (crs : Nat) : State :=
  s.onCourse crs (fun c =>
    { (c.alu.filter (fun w => decide (w.issued + 4 ≤ s.clock))).foldl (fun c w => c.applyAlu w.dst) c with
      alu := c.alu.filter (fun w => !decide (w.issued + 4 ≤ s.clock)) })

theorem exec_fixedAluWriteback (s : State) (crs : Nat) :
    exec (.fixedAluWriteback crs) s = .next (((s.writtenBack crs).raiseArith crs 0).raiseArith crs 1) := rfl

/-- Writing registers leaves the slots. -/
@[simp] theorem writtenBack_slotN (s : State) (crs j : Nat) :
    ((s.writtenBack crs).course crs).slotN j = (s.course crs).slotN j := by
  rw [State.writtenBack, course_onCourse_same]
  exact foldl_keeps (part := fun c => Course.slotN c j) (fun c _ => c.applyAlu_slotN _ j) _ _

theorem raiseArith_other (h : ∀ n t, ((s.course crs).slotN j).wait ≠ .arith n t) : s.raiseArith crs j = s := by
  rw [State.raiseArith]
  split
  · exact absurd ‹_› (h _ _)
  · rfl

end

/-- Settles O23: a word lands by one change of its course, and the last of its issue event reports the flags. -/
theorem resultsLand : Obligations.ResultsLand := by
  refine ⟨fun s crs hw => ?writeback, fun s crs p ls hst ha hp hk hm ht ho => ?values,
    fun s crs p ls hst ha hp hk hm ht ho htaken hsup hre hw => ?traps,
    fun s crs p ls hst ha hp hk hm ht ho => ?saved, fun s crs p sp op as hst ha hp hk hm ht => ?access⟩
  case writeback =>
    have hslot : ∀ j n t, (((s.writtenBack crs).course crs).slotN j).wait ≠ .arith n t := by simpa using hw
    rw [exec_fixedAluWriteback, raiseArith_other (hslot 0), raiseArith_other (hslot 1)]
    rfl
  case values =>
    rw [exec_valueLands hst hp hm, landValue_quiet ha hp hk ht ho]
    rfl
  case traps =>
    rw [exec_valueLands hst hp hm, landValue_values hk, landHeld_raises hp ho ha ht htaken hsup hre hw]
    rfl
  case saved =>
    rw [exec_pendingValueLands hst hp hm, landValue_quiet ha hp hk ht ho]
    rfl
  case access =>
    rw [exec_valueLands hst hp hm, landValue_access hk]
    dsimp only
    rw [landHeld_quiet (by simpa using hp) (by simpa [State.landsAlone] using ha) (by simpa using ht)]

/-! # A refill where a path entry's Active() was left behind (R122, R140) -/

/-- A free slot 0 with a ready rejoin entry at the last word of the address space, into which lane 0 has joined. The course has
no path entry, but the table of R140 still lists lane 1 under the number of the next one. -/
def staleRefill : State := (State.reset.withFetchWord 64 0).onCourse 0 (fun c =>
  { c.onSlot 0 Slot.freed with rejoin := [⟨2 ^ 52 - 8, 1#32, 1#32⟩], pastEnd := [(0, 2#32)] })

theorem staleRefill_rejoins : staleRefill.rejoins (staleRefill.course 0) = [⟨2 ^ 52 - 8, 1#32, 1#32⟩] := by decide

/-- The refilled slot overflows with the lanes that the table lists, and not with those that have joined. -/
theorem staleRefill_wait : ((staleRefill.refillSlot 0 0).course 0).slot0.wait = .trap (overflowTrap 2#32 false) 0 := by decide

/-- Refutes O18: where a rejoin entry at the last word of the address space is resumed, the model's overflow names the lanes that
the table of path entries lists under the next number, if it lists any. The statement has the lanes of the entry in every state, and
so also in one whose table lists a number without a path entry. -/
theorem not_slotEvents : ¬ Obligations.SlotEvents := by
  intro h
  obtain ⟨-, -, -, -, hrejoin, -⟩ := h
  obtain ⟨-, -, hwait⟩ := hrejoin staleRefill 0 _ _ staleRefill_rejoins rfl (by decide) (by decide)
  rw [staleRefill_wait] at hwait
  exact absurd hwait (by decide)

/-! # A demand fetch while a word in flight holds the course's issue (R138, R157) -/

/-- A running course whose next word lies on a page that is not mapped, with a copy in flight that can set a flag which TE
enables. -/
def heldFetch : State := (State.reset.withFetchWord 64 0).onCourse 0 (fun c =>
  { c.onSlot 0 (fun y => { y with pc := 3 * 2 ^ 16 }) with ctl := 1#32, holds := [(0, 1#32)] })

theorem exec_demandFetch_held {s : State} {crs j code sub : Nat} (htaken : (s.course crs).taken j = true)
    (hwait : ((s.course crs).slotN j).wait = .none) (hrun : s.running (s.course crs) = true)
    (href : (s.course crs).nextRefusal j = none)
    (hline : (s.core (s.course crs).core).cached (s.ctxOf (s.course crs)) (((s.course crs).slotN j).pc / 128) = none)
    (hfill : (s.core (s.course crs).core).filling (s.ctxOf (s.course crs)) (((s.course crs).slotN j).pc / 128) = false)
    (hpage : s.fetchPage (s.ctxOf (s.course crs)) ((s.course crs).slotN j).pc = .fault code sub)
    (hheld : (s.course crs).held = true) :
    exec (.demandFetch crs j) s = .next (s.onCourse crs (fun c => c.onSlot j (fun y => { y with stalled := true }))) := by
  show execDemandFetch crs j s = _
  simp [execDemandFetch, htaken, hwait, hrun, href, hline, hfill, hpage, hheld]

/-- Refutes O17: a fetch from a page that cannot be fetched from does not trap while a word in flight holds the course's issue
(R157), which the statement leaves out. -/
theorem not_fetching : ¬ Obligations.Fetching := by
  intro h
  obtain ⟨-, -, hfault, -⟩ := h
  have htrap := hfault heldFetch 0 0 4 1 (by decide) (by decide) (by decide)
  rw [exec_demandFetch_held (code := 4) (sub := 1) (by decide) (by decide) (by decide) (by decide) (by decide) (by decide)
    (by decide) (by decide), Host.Outcome.next.injEq] at htrap
  exact absurd (congrArg (fun t => ((t.course 0).slotN 0).wait) htrap) (by decide)

end Sys2Proof.Machine

/-! # The words of the handler (R140, R437, R443–R447) -/

namespace Sys2Proof

/-- What is written last in a table stands. -/
theorem Tab.put_put {α : Type} (t : Tab α) (n : Nat) (x y : α) : (t.put n x).put n y = t.put n y := by
  induction t with
  | nil => simp [Tab.put]
  | cons e t ih =>
    obtain ⟨k, v⟩ := e
    by_cases h : k = n
    · simp [Tab.put, h]
    · by_cases hlt : n < k
      · simp [Tab.put, h, hlt]
      · simp [Tab.put, h, hlt, ih]

end Sys2Proof

namespace Sys2Proof.Machine

/-! ## What the account of an issue leaves of the course -/

section
variable (s : State) (x : Ctx)

theorem setCourse_setCourse (h : Nat) (c d : Course) : (s.setCourse h c).setCourse h d = s.setCourse h d := by
  simp [State.setCourse, Tab.put_put]

/-- A change that leaves the course as it is does nothing before a trap is raised. -/
theorem raise_onCourse_of_eq {h j : Nat} {f : Course → Course} (hf : f (s.course h) = s.course h) (t : TrapRec) :
    (s.onCourse h f).raise h j t = s.raise h j t := by
  simp only [State.raise, State.onCourse, course_setCourse, if_true, setCourse_setCourse, setCourse_stamp, hf]

/-- The account of an issue leaves the PC of the slot. -/
theorem account_pc : (((s.account x).course x.crs).slotN x.j).pc = ((s.course x.crs).slotN x.j).pc := by
  have hc : (s.account x).course x.crs = _ := Tab.get_put_same Course.dead s.courses x.crs _
  rw [hc, Course.slotN_onSlot_same]
  rfl

theorem wordCtx_pc (h : Head) : (s.wordCtx h).pc = ((s.course (s.wordCtx h).crs).slotN (s.wordCtx h).j).pc := rfl

end

/-! ## TRAP (R444) -/

section
variable (r : RWord)

/-- The issue of a TRAP: at the last word of the address space its PC_OVERFLOW is the slot's further trap. -/
def trapIssued (s : State) (x : Ctx) : State :=
  if x.pc + 8 = 2 ^ 52 then (s.account x).onCourse x.crs (fun c =>
    { c with refusals := ⟨x.j, 0, overflowTrap x.act (c.supIn x.j)⟩ :: c.refusals }) else s.account x

theorem account_overflowing_raise {s : State} {x : Ctx} (hpc : x.pc = ((s.course x.crs).slotN x.j).pc) (t : TrapRec) :
    ((s.account x).onCourse x.crs (fun c => c.overflowing x.j x.act)).raise x.crs x.j t = (trapIssued s x).raise x.crs x.j t := by
  have hpc' : (((s.account x).course x.crs).slotN x.j).pc = x.pc := (account_pc s x).trans hpc.symm
  rw [trapIssued]
  split
  case isTrue hlast =>
    exact congrArg (fun c => ((s.account x).setCourse x.crs c).raise x.crs x.j t) (if_pos (by rw [hpc']; exact hlast))
  case isFalse hnot => exact raise_onCourse_of_eq _ (if_neg (by rw [hpc']; exact hnot)) t

theorem exec_trap (s : State) : exec (.trap r) s = s.issue (.trap r) r.head (fun x =>
    if x.act = 0#32 then .go s
    else .goTrap s { x.trap 0x15 with after := true, resume := x.pc + 8, info := s.usrc x r.a }) := rfl

theorem trap_idle : DoesIf (.trap r) r.head (fun _ x => x.act = 0#32) (fun s x => s.went x) := by
  intro s hp hact
  rw [exec_of_passes (exec_trap r s) hp, if_pos hact]
  rfl

theorem trap_raises : DoesIf (.trap r) r.head (fun _ x => x.act ≠ 0#32) (fun s x => .next ((trapIssued s x).raise x.crs x.j
    { code := 0x15, after := true, pc := x.pc, resume := x.pc + 8, mask := x.act, info := s.usrc x r.a, inSup := x.sup })) := by
  intro s hp hact
  rw [exec_of_passes (exec_trap r s) hp, if_neg hact]
  exact congrArg Host.Outcome.next (account_overflowing_raise (wordCtx_pc s r.head) _)

end

/-! ## SRET (R446) -/

section
variable (h : Head)

theorem exec_sret (s : State) : exec (.sret h) s = s.issue (.sret h) h (fun x =>
    if x.act = 0#32 then .go s else .jump (s.sretTo x.crs)) := rfl

theorem sret_idle : DoesIf (.sret h) h (fun _ x => x.act = 0#32) (fun s x => s.went x) := by
  intro s hp hact
  rw [exec_of_passes (exec_sret h s) hp, if_pos hact]
  rfl

theorem sret_jumps {s : State} (hp : s.passes (.sret h) h = true) (hact : (s.wordCtx h).act ≠ 0#32) :
    exec (.sret h) s = (s.sretTo (s.wordCtx h).crs).jumped (s.wordCtx h) := by
  rw [exec_of_passes (exec_sret h s) hp, if_neg hact]
  rfl

theorem record_of_sup {c : Course} {u : Sup} (hs : c.sup = some u) : c.record = u.trap := by rw [Course.record, hs]; rfl

/-- A RESUME that is a word's address. -/
def resumable (p : Nat) : Prop := p % 8 = 0 ∧ p < 2 ^ 52

theorem resumeFault_none {p : Nat} (hp : resumable p) : resumeFault p = none := by
  exact (if_neg (fun hne => hne hp.1)).trans (if_neg (Nat.not_le.2 hp.2))

/-- A RESUME that is none, with the cause with which its grid is aborted. -/
theorem resumeFault_some {p cause : Nat} (hp : (p % 8 ≠ 0 ∧ cause = 0x0108) ∨ (p % 8 = 0 ∧ 2 ^ 52 ≤ p ∧ cause = 0x0105)) :
    resumeFault p = some cause := by
  rcases hp with ⟨hmod, rfl⟩ | ⟨hmod, hle, rfl⟩
  · exact if_pos hmod
  · exact (if_neg (fun hne => hne hmod)).trans (if_pos hle)

theorem sretTo_eq {s : State} {crs : Nat} {u : Sup} (hs : (s.course crs).sup = some u) : s.sretTo crs =
    match resumeFault u.trap.resume with
    | some cause => s.abortGrid (s.team (s.course crs).team).grid cause (some u.trap)
    | none => s.leaveSup crs u.trap.resume := by
  rw [State.sretTo, resumeFault]
  simp only [hs]
  split
  · rfl
  · split <;> rfl

theorem sret_leaves : DoesIf (.sret h) h (fun s x => x.act ≠ 0#32 ∧ (s.issuer x).sup.isSome ∧ resumable (s.issuer x).record.resume)
    (fun s x => (s.leaveSup x.crs (s.issuer x).record.resume).jumped x) := by
  rintro s hp ⟨hact, hsup, hres⟩
  obtain ⟨u, hu⟩ := Option.isSome_iff_exists.1 hsup
  rw [record_of_sup hu] at hres
  dsimp only
  rw [record_of_sup hu, sret_jumps h hp hact, sretTo_eq hu, resumeFault_none hres]

theorem sret_aborts (u : Sup) (cause : Nat) : DoesIf (.sret h) h (fun s x => x.act ≠ 0#32 ∧ (s.issuer x).sup = some u ∧
      ((u.trap.resume % 8 ≠ 0 ∧ cause = 0x0108) ∨ (u.trap.resume % 8 = 0 ∧ 2 ^ 52 ≤ u.trap.resume ∧ cause = 0x0105)))
    (fun s x => (s.abortGrid (s.team (s.issuer x).team).grid cause (some u.trap)).jumped x) := by
  rintro s hp ⟨hact, hu, hres⟩
  rw [sret_jumps h hp hact, sretTo_eq hu, resumeFault_some hres]
  rfl

theorem sretEsc_escalates (u : Sup) : DoesIf (.sretEsc h) h (fun s x => x.act ≠ 0#32 ∧ (s.issuer x).sup = some u ∧
      resumable u.trap.resume ∧ (s.core (s.issuer x).core).bank = some x.crs)
    (fun s x => ((s.onCore (s.issuer x).core (fun k => { k with bank := none })).escalate x.crs x.j u.trap).jumped x) := by
  rintro s hp ⟨hact, hu, hres, hbank⟩
  have hx : exec (.sretEsc h) s = s.issue (.sretEsc h) h _ := rfl
  rw [exec_of_passes hx hp]
  simp only [hu, if_neg hact, resumeFault_none hres, State.onCore, hbank, if_true]
  rfl

end

/-! ## SYSRD (R445) -/

section
variable (r : RWord)

/-- No lane of an empty mask is empty. -/
@[simp] theorem laneEmpty_zero (c : Course) (sp : Bool) (n : Nat) : c.laneEmpty sp n 0#32 = false := by
  simp [Course.laneEmpty, lanesOf]

theorem deliverU_idle {s : State} {x : Ctx} (hact : x.act = 0#32) (d w v : Nat) : s.deliverU x d w v = .go s := if_pos hact

/-- A word that delivers to one uniform register: where free holds, its body with an active lane is a delivery. -/
theorem deliversU_of {i : Instr} {h : Head} {free : State → Ctx → Prop} {d : BitVec 8} {v : State → Ctx → Nat}
    {b : State → Ctx → Res} (hx : ∀ s, exec i s = s.issue i h (b s)) (h0 : ∀ s x, x.act = 0#32 → b s x = .go s)
    (h1 : ∀ s x, x.act ≠ 0#32 → free s x → b s x = s.deliverU x d.toNat 1 (v s x)) :
    LateDoes i h .other free (fun s _ => s) true d 1 (fun _ _ => 0#32) (fun s x _ => v s x) (fun _ _ => 0#32) :=
  lateDoes_of (f := fun s x _ => (v s x, 0#32)) hx (fun s x hact _ => h0 s x hact) h1 (fun _ _ _ _ _ _ => rfl)
    (fun _ x _ _ => flagsOf_zero x true)

theorem sysrd_delivers : LateDoes (.sysrd r) r.head .other (fun _ _ => True) (fun s _ => s) true r.d 1 (fun _ _ => 0#32)
    (fun s x _ => (s.sysReg (s.issuer x) (s.issuer x).record r.a.field.toNat).toNat) (fun _ _ => 0#32) :=
  deliversU_of (b := fun s x => s.deliverU x r.d.toNat 1 (s.sysReg (s.issuer x) (s.issuer x).record r.a.field.toNat).toNat)
    (fun _ => rfl) (fun _ _ hact => deliverU_idle hact ..) (fun _ _ _ _ => rfl)

/-- The lanes of the course's register that a SYSRD or SYSWR names are full. -/
def courseFull (s : State) (x : Ctx) : Prop := (s.issuer x).laneEmpty false r.c.field.toNat x.act = false

theorem sysrdV_delivers : LateDoes (.sysrdV r) r.head .other (courseFull r) (fun s _ => s) false r.d 1 (fun _ _ => 0#32)
    (fun s x L => (s.laneVal (s.issuer x) false r.c.field.toNat L).toNat) (fun _ _ => 0#32) := by
  refine lateDoes_of (f := fun s x L => ((s.laneVal (s.issuer x) false r.c.field.toNat L).toNat, 0#32))
    (b := fun s x => if (s.issuer x).laneEmpty false r.c.field.toNat x.act then x.emptySource
      else s.lateWord x .other false r.d.toNat 1 0#32 (fun L => ((s.laneVal (s.issuer x) false r.c.field.toNat L).toNat, 0#32)))
    (fun _ => rfl) (fun s x hact _ => ?_) (fun s x _ hfull => ?_) (fun _ _ _ _ _ _ => rfl) (fun _ x _ _ => flagsOf_zero x false)
  · rw [hact, laneEmpty_zero, if_neg Bool.false_ne_true, State.lateWord, if_pos hact]
  · exact if_neg (by rw [hfull]; exact Bool.false_ne_true)

theorem sysrdS_delivers : LateDoes (.sysrdS r) r.head .other
    (fun s x => ((s.issuer x).unifCell false r.c.field.toNat).empty = false) (fun s _ => s) true r.d 1 (fun _ _ => 0#32)
    (fun s x _ => (s.unifVal (s.issuer x) false r.c.field.toNat).toNat) (fun _ _ => 0#32) := by
  refine deliversU_of (v := fun s x => (s.unifVal (s.issuer x) false r.c.field.toNat).toNat)
    (b := fun s x => if x.act = 0#32 then .go s
      else if ((s.issuer x).unifCell false r.c.field.toNat).empty then x.emptySource
      else s.deliverU x r.d.toNat 1 (s.unifVal (s.issuer x) false r.c.field.toNat).toNat)
    (fun _ => rfl) (fun s x hact => if_pos hact) (fun s x hact hfull => ?_)
  rw [if_neg hact, hfull, if_neg Bool.false_ne_true]

theorem sysrdPm_delivers : LateDoes (.sysrdPm r) r.head .other (courseFull r) (fun s _ => s) true r.d 1 (fun _ _ => 0#32)
    (fun s x _ => (maskOfLanes (lanes.filter (fun L => s.lanePoison (s.issuer x) false r.c.field.toNat L))).toNat)
    (fun _ _ => 0#32) := by
  refine deliversU_of
    (v := fun s x => (maskOfLanes (lanes.filter (fun L => s.lanePoison (s.issuer x) false r.c.field.toNat L))).toNat)
    (b := fun s x => if (s.issuer x).laneEmpty false r.c.field.toNat x.act then x.emptySource
      else s.deliverU x r.d.toNat 1 (maskOfLanes (lanes.filter (fun L => s.lanePoison (s.issuer x) false r.c.field.toNat L))).toNat)
    (fun _ => rfl) (fun s x hact => ?_) (fun s x _ hfull => ?_)
  · rw [hact, laneEmpty_zero, if_neg Bool.false_ne_true, deliverU_idle hact]
  · exact if_neg (by rw [hfull]; exact Bool.false_ne_true)

/-! ## SYSWR (R445) -/

theorem syswr_writes : DoesIf (.syswr r) r.head (fun _ x => x.act ≠ 0#32) (fun s x =>
    (s.setCourse x.crs ((s.issuer x).setSysReg r.d.toNat (wd (s.usrc x r.a)))).went x) := by
  intro s hp hact
  have hx : exec (.syswr r) s = s.issue (.syswr r) r.head _ := rfl
  rw [exec_of_passes hx hp, if_neg hact]
  rfl

@[simp] theorem Course.applyAlu_alu (c : Course) (d : AluDst) : (c.applyAlu d).alu = c.alu := by
  cases d <;> simp [Course.applyAlu]

theorem AluDst.hits_lane_sup {sd sp : Bool} {nd Ld n : Nat} {v b : Word} {m : LaneMask}
    (h : (AluDst.lane sd nd Ld v b).hits ⟨sp, true, n⟩ m = true) : sd = sp := by
  simp only [AluDst.hits, Bool.and_eq_true, beq_iff_eq] at h
  obtain ⟨⟨⟨-, hsup⟩, -⟩, -⟩ := h
  exact hsup

/-- A fixed-ALU write that goes to a register of one file leaves the lane registers of the other file. -/
theorem laneCell_applyAlu_of_hits {c : Course} {d : AluDst} {sp sp' : Bool} {n : Nat} {m : LaneMask} (hne : sp' ≠ sp)
    (hh : d.hits ⟨sp, true, n⟩ m = true) (k M : Nat) : (c.applyAlu d).laneCell sp' k M = c.laneCell sp' k M := by
  cases d with
  | lane sd nd Ld v b => exact Course.laneCell_setLane_other c sd sp' nd Ld k M _ (AluDst.hits_lane_sup hh ▸ hne)
  | unif => simp [AluDst.hits] at hh
  | mask => cases hh
  | flags => cases hh

section
variable (c : Course) {sp sp' : Bool} (n L : Nat) (v : Word) (p : Bool)

theorem markEmpty_lane_alu (m : LaneMask) :
    (c.markEmpty ⟨sp, true, n⟩ m).alu = c.alu.filter (fun w => !w.dst.hits ⟨sp, true, n⟩ m) := by
  rw [Course.markEmpty]
  simp only [if_true]
  rw [foldl_keeps (part := Course.alu) (fun _ _ => Course.setLane_alu ..)]
  dsimp only
  rw [foldl_keeps (part := Course.alu) (fun c w => by split <;> simp)]

theorem markEmpty_lane_laneCell (m : LaneMask) (hne : sp' ≠ sp) (k M : Nat) :
    (c.markEmpty ⟨sp, true, n⟩ m).laneCell sp' k M = c.laneCell sp' k M := by
  rw [Course.markEmpty]
  simp only [if_true]
  refine (foldl_keeps (part := fun c : Course => c.laneCell sp' k M)
    (fun c L => c.laneCell_setLane_other sp sp' n L k M _ hne) _ _).trans ?_
  refine foldl_keeps (part := fun c : Course => c.laneCell sp' k M) (fun c w => ?_) c.alu c
  split
  · exact laneCell_applyAlu_of_hits hne ‹_› k M
  · rfl

theorem writeNow_lane_alu : (c.writeNow (.lane sp n L v p)).alu =
    c.alu.filter (fun w => !w.dst.hits ⟨sp, true, n⟩ (maskOfLanes [L])) :=
  (Course.setLane_alu ..).trans (markEmpty_lane_alu ..)

theorem writeNow_lane_laneCell (hne : sp' ≠ sp) (k M : Nat) :
    (c.writeNow (.lane sp n L v p)).laneCell sp' k M = c.laneCell sp' k M :=
  (Course.laneCell_setLane_other _ sp sp' n L k M _ hne).trans (markEmpty_lane_laneCell c n _ hne k M)

/-- Writing a lane register of one file leaves what the registers of the other read: a result that has landed for it was on its way
to the first file. -/
theorem laneVal_writeNow_other (s : State) (hne : sp' ≠ sp) (k M : Nat) :
    s.laneVal (c.writeNow (.lane sp n L v p)) sp' k M = s.laneVal c sp' k M := by
  rw [State.laneVal, State.laneVal, writeNow_lane_alu, writeNow_lane_laneCell c n L v p hne, List.foldl_filter]
  congr 1
  funext a w
  by_cases hh : w.dst.hits ⟨sp, true, n⟩ (maskOfLanes [L]) = true
  · cases hd : w.dst with
    | lane sd nd Ld vd bd =>
      rw [hd] at hh
      simp [AluDst.hits_lane_sup hh, Ne.symm hne]
    | unif => simp [hd, AluDst.hits] at hh
    | mask => simp
    | flags => simp
  · simp [hh]

end

/-- Lanes written one after another with values read from the other file: each reads what stood there before. -/
theorem foldl_writeNow_other (s : State) {sp sp' : Bool} (n k : Nat) (hne : sp' ≠ sp) (l : List Nat) (c d : Course)
    (hd : ∀ L, s.laneVal d sp' k L = s.laneVal c sp' k L) :
    l.foldl (fun c L => c.writeNow (.lane sp n L (s.laneVal c sp' k L) false)) d =
      l.foldl (fun d L => d.writeNow (.lane sp n L (s.laneVal c sp' k L) false)) d := by
  induction l generalizing d with
  | nil => rfl
  | cons L l ih =>
    rw [List.foldl_cons, List.foldl_cons, hd L]
    exact ih _ (fun M => (laneVal_writeNow_other d n L _ false s hne k M).trans (hd M))

/-- A word of the handler that passes its checks issues in supervisor mode (R86). -/
theorem sup_of_passes {s : State} {i : Instr} {h : Head} (hp : s.passes i h = true) (hi : privileged i = true) :
    (s.wordCtx h).sup = true := by
  simp only [State.passes, hi, Bool.not_true, Bool.false_or, Bool.and_eq_true] at hp
  obtain ⟨⟨⟨⟨⟨-, hsup⟩, -⟩, -⟩, -⟩, -⟩ := hp
  exact hsup

theorem syswrV_writes : DoesIf (.syswrV r) r.head (courseFull r) (fun s x =>
    (s.onCourse x.crs (fun c => (lanesOf x.act).foldl (fun c L =>
      c.writeNow (.lane false r.c.field.toNat L (s.laneVal (s.issuer x) x.sup r.a.field.toNat L) false)) c)).went x) := by
  intro s hp hfull
  have hx : exec (.syswrV r) s = s.issue (.syswrV r) r.head _ := rfl
  have hsup : (s.wordCtx r.head).sup = true := sup_of_passes hp rfl
  rw [exec_of_passes hx hp, if_neg (by rw [hfull]; exact Bool.false_ne_true)]
  dsimp only
  rw [hsup, foldl_writeNow_other s _ _ (by decide) _ _ _ (fun _ => rfl)]
  rfl

theorem syswrS_writes : DoesIf (.syswrS r) r.head
    (fun s x => x.act ≠ 0#32 ∧ ((s.issuer x).unifCell false r.c.field.toNat).empty = false)
    (fun s x => (s.onCourse x.crs (fun c => c.writeNow (.unif false r.c.field.toNat (wd (s.usrc x r.a))))).went x) := by
  rintro s hp ⟨hact, hfull⟩
  have hx : exec (.syswrS r) s = s.issue (.syswrS r) r.head _ := rfl
  rw [exec_of_passes hx hp, if_neg hact, if_neg (by rw [hfull]; exact Bool.false_ne_true)]
  rfl

end

/-! ## HALT (R447) -/

section
variable (h : Head)

theorem haltGrid_aborts : DoesIf (.haltGrid h) h (fun _ x => x.act ≠ 0#32) (fun s x =>
    (s.abortGrid (s.team (s.issuer x).team).grid (0x0100 + (s.issuer x).record.code) (some (s.issuer x).record)).jumped x) := by
  intro s hp hact
  have hx : exec (.haltGrid h) s = s.issue (.haltGrid h) h _ := rfl
  rw [exec_of_passes hx hp, if_neg hact]
  rfl

theorem haltLanes_retires (u : Sup) : DoesIf (.haltLanes h) h
    (fun s x => x.act ≠ 0#32 ∧ (s.issuer x).sup = some u ∧ resumable u.trap.resume)
    (fun s x => ((s.leaveSup x.crs u.trap.resume).retire x.crs x.j ((s.issuer x).slotN x.j).mask).jumped x) := by
  rintro s hp ⟨hact, hu, hres⟩
  have hx : exec (.haltLanes h) s = s.issue (.haltLanes h) h _ := rfl
  rw [exec_of_passes hx hp]
  simp only [hu, if_neg hact, resumeFault_none hres, ite_self]
  rfl

end

/-- Settles O21, word by word. -/
theorem handlerWords : Obligations.HandlerWords :=
  ⟨trap_idle, trap_raises, sret_idle, sret_leaves, sret_aborts, sretEsc_escalates, sysrd_delivers, sysrdV_delivers,
    sysrdS_delivers, sysrdPm_delivers, syswr_writes, syswrV_writes, syswrS_writes, haltGrid_aborts, haltLanes_retires⟩

end Sys2Proof.Machine

/-! # BRX, RET, JMARK and JOIN (R120, R126–R128, R140) -/

namespace Sys2Proof.Machine

/-! ## BRX and RET (R126) -/

theorem two_of_length {α : Type} {l : List α} (h : 2 ≤ l.length) : ∃ a b t, l = a :: b :: t := by
  match l, h with
  | a :: b :: t, _ => exact ⟨a, b, t, rfl⟩

section
variable (r : RWord) (s : State) (x : Ctx)

/-- The target of a lane. -/
def indirectTarget (L : Nat) : Nat := s.src x r.a 2 L

/-- Every active lane's target is the address of a word. -/
def indirectGood : Prop := ∀ L ∈ lanesOf x.act, indirectTarget r s x L % 8 = 0 ∧ indirectTarget r s x L < 2 ^ 52

/-- The groups of lanes by target; the lanes that are not active go on at the next word. -/
def indirectGroups : List (Nat × LaneMask) :=
  groupTargets ((lanesOf ((s.issuer x).slotN x.j).mask).map (fun L =>
    (L, if x.act.getLsbD L then indirectTarget r s x L else x.pc + 8)))

/-- A slot is sent on with a group, which overflows where it begins past the last word (R140). -/
def sendGroup (j : Nat) (g : Nat × LaneMask) : State :=
  let t := s.onCourse x.crs (fun c => c.onSlot j (fun y => y.goto s.clock g.1 (g.2 &&& x.act != 0#32) g.2))
  if g.1 = 2 ^ 52 then t.raise x.crs j (overflowTrap x.act ((t.course x.crs).supIn j)) else t

variable {r s x}

theorem groupTargets_eq : groupTargets ((lanesOf ((s.issuer x).slotN x.j).mask).map (fun L =>
    (L, if x.act.getLsbD L then s.val x (s.issuer x) r.a 2 L else x.pc + 8))) = indirectGroups r s x := rfl

theorem begins_onSlot_goto (j : Nat) (g : Nat × LaneMask) :
    (s.onCourse x.crs (fun c => c.onSlot j (fun y => y.goto s.clock g.1 (g.2 &&& x.act != 0#32) g.2))).begins x.crs j x.act =
      sendGroup s x j g := by
  rw [State.begins]
  simp only [course_onCourse_same, Course.slotN_onSlot_same]
  rw [sendGroup, course_onCourse_same]
  rfl

theorem find_misaligned_none (hal : ∀ L ∈ lanesOf x.act, indirectTarget r s x L % 8 = 0) :
    (lanesOf x.act).find? (fun L => s.val x (s.issuer x) r.a 2 L % 8 != 0) = none := by
  rw [List.find?_eq_none]
  intro L hL
  have : s.val x (s.issuer x) r.a 2 L % 8 = 0 := hal L hL
  simp [this]

theorem find_beyond_none (hg : indirectGood r s x) :
    (lanesOf x.act).find? (fun L => decide (Config.addrLimit ≤ s.val x (s.issuer x) r.a 2 L)) = none := by
  rw [List.find?_eq_none]
  intro L hL
  have : ¬ Config.addrLimit ≤ s.val x (s.issuer x) r.a 2 L := Nat.not_le.2 (hg L hL).2
  simp [this]

variable {g k : Nat × LaneMask} {rest : List (Nat × LaneMask)}

/-- One target that every lane of the slot shares. -/
theorem indirect_one (hg : indirectGood r s x) (hgr : indirectGroups r s x = [g]) :
    s.indirect x r = .jump (sendGroup s x x.j g) := by
  have hfits : s.regionFits (s.issuer x) 0 = true := rfl
  rw [State.indirect]
  simp only [find_misaligned_none (fun L hL => (hg L hL).1), find_beyond_none hg, groupTargets_eq, hgr, begins_onSlot_goto]
  simp [hfits, State.pushPaths]

/-- Several targets, with the other slot free: the second group goes there. -/
theorem indirect_free (hg : indirectGood r s x) (hgr : indirectGroups r s x = g :: k :: rest)
    (hfree : s.otherTaken (s.issuer x) x.j = false) (hfits : s.regionFits (s.issuer x) rest.length = true) :
    s.indirect x r = .jump ((sendGroup (sendGroup s x x.j g) x (1 - x.j) k).pushPaths x.crs x.act rest) := by
  rw [State.indirect]
  simp only [find_misaligned_none (fun L hL => (hg L hL).1), find_beyond_none hg, groupTargets_eq, hgr, begins_onSlot_goto]
  simp [hfree, hfits]

/-- Several targets, with the other slot taken: every group but the first is pushed. -/
theorem indirect_busy (hg : indirectGood r s x) (hgr : indirectGroups r s x = g :: k :: rest)
    (hbusy : s.otherTaken (s.issuer x) x.j = true) (hfits : s.regionFits (s.issuer x) (k :: rest).length = true) :
    s.indirect x r = .jump ((sendGroup s x x.j g).pushPaths x.crs x.act (k :: rest)) := by
  have hfits : s.regionFits (s.issuer x) (rest.length + 1) = true := hfits
  rw [State.indirect]
  simp only [find_misaligned_none (fun L hL => (hg L hL).1), find_beyond_none hg, groupTargets_eq, hgr, begins_onSlot_goto]
  simp [hbusy, hfits]

end

section
variable {i : Instr} {r : RWord} (hx : ∀ s, exec i s = s.issue i r.head (fun x => s.indirect x r))
include hx

theorem indirectWord_one : DoesIf i r.head (fun s x => indirectGood r s x ∧ (indirectGroups r s x).length = 1)
    (fun s x => (sendGroup s x x.j ((indirectGroups r s x).headD (0, 0#32))).jumped x) := by
  rintro s hp ⟨hg, hlen⟩
  obtain ⟨g, hgr⟩ := List.length_eq_one_iff.1 hlen
  rw [exec_of_passes (hx s) hp, indirect_one hg hgr]
  dsimp only
  rw [hgr]
  rfl

theorem indirectWord_free : DoesIf i r.head (fun s x => indirectGood r s x ∧ 2 ≤ (indirectGroups r s x).length ∧
      s.otherTaken (s.issuer x) x.j = false ∧ s.regionFits (s.issuer x) ((indirectGroups r s x).length - 2) = true)
    (fun s x => ((sendGroup (sendGroup s x x.j ((indirectGroups r s x).headD (0, 0#32))) x (1 - x.j)
      ((indirectGroups r s x).getD 1 (0, 0#32))).pushPaths x.crs x.act ((indirectGroups r s x).drop 2)).jumped x) := by
  rintro s hp ⟨hg, hlen, hfree, hfits⟩
  obtain ⟨g, k, rest, hgr⟩ := two_of_length hlen
  rw [hgr] at hfits
  rw [exec_of_passes (hx s) hp, indirect_free hg hgr hfree hfits]
  dsimp only
  rw [hgr]
  rfl

theorem indirectWord_busy : DoesIf i r.head (fun s x => indirectGood r s x ∧ 2 ≤ (indirectGroups r s x).length ∧
      s.otherTaken (s.issuer x) x.j = true ∧ s.regionFits (s.issuer x) ((indirectGroups r s x).length - 1) = true)
    (fun s x => ((sendGroup s x x.j ((indirectGroups r s x).headD (0, 0#32))).pushPaths x.crs x.act
      ((indirectGroups r s x).drop 1)).jumped x) := by
  rintro s hp ⟨hg, hlen, hbusy, hfits⟩
  obtain ⟨g, k, rest, hgr⟩ := two_of_length hlen
  rw [hgr] at hfits
  rw [exec_of_passes (hx s) hp, indirect_busy hg hgr hbusy hfits]
  dsimp only
  rw [hgr]
  rfl

theorem indirectWord_misaligned (L : Nat) :
    DoesIf i r.head (fun s x => (lanesOf x.act).find? (fun L => s.src x r.a 2 L % 8 != 0) = some L)
      (fun s x => s.trapped x { x.trap 0x08 with lane := some L, addr := s.src x r.a 2 L }) := by
  intro s hp hfind
  have hfind : (lanesOf (s.wordCtx r.head).act).find? (fun L => s.val (s.wordCtx r.head) (s.issuer (s.wordCtx r.head)) r.a 2 L % 8 != 0) =
    some L := hfind
  rw [exec_of_passes (hx s) hp, State.indirect]
  simp only [hfind]
  rfl

theorem indirectWord_beyond (L : Nat) :
    DoesIf i r.head (fun s x => (∀ l ∈ lanesOf x.act, s.src x r.a 2 l % 8 = 0) ∧
        (lanesOf x.act).find? (fun L => decide (2 ^ 52 ≤ s.src x r.a 2 L)) = some L)
      (fun s x => s.trapped x { x.trap 0x05 with sub := 1, lane := some L, addr := s.src x r.a 2 L }) := by
  rintro s hp ⟨hal, hfind⟩
  have hfind : (lanesOf (s.wordCtx r.head).act).find?
    (fun L => decide (Config.addrLimit ≤ s.val (s.wordCtx r.head) (s.issuer (s.wordCtx r.head)) r.a 2 L)) = some L := hfind
  rw [exec_of_passes (hx s) hp, State.indirect]
  simp only [find_misaligned_none hal, hfind]
  rfl

end

/-! ## JMARK (R127) -/

section
variable (h : Head) (ofs : BitVec 32)

theorem jmark_idle : DoesIf (.jmark h ofs) h (fun _ x => x.act = 0#32) (fun s x => s.went x) := by
  intro s hp hact
  have hx : exec (.jmark h ofs) s = s.issue (.jmark h ofs) h _ := rfl
  rw [exec_of_passes hx hp, if_pos hact]
  rfl

theorem offSpace_branchTarget {pc : Nat} : offSpace (branchTarget pc ofs) = true ↔
    (pc : Int) + 8 * signExt ofs.toNat 32 < 0 ∨ 2 ^ 52 ≤ (pc : Int) + 8 * signExt ofs.toNat 32 := by
  rw [offSpace, Bool.or_eq_true, decide_eq_true_iff, decide_eq_true_iff]
  exact Iff.rfl

theorem jmark_beyond : DoesIf (.jmark h ofs) h (fun _ x => x.act ≠ 0#32 ∧ ((x.pc : Int) + 8 * signExt ofs.toNat 32 < 0 ∨
      2 ^ 52 ≤ (x.pc : Int) + 8 * signExt ofs.toNat 32))
    (fun s x => s.trapped x (x.targetTrap ((x.pc : Int) + 8 * signExt ofs.toNat 32))) := by
  rintro s hp ⟨hact, hoff⟩
  have hx : exec (.jmark h ofs) s = s.issue (.jmark h ofs) h _ := rfl
  rw [exec_of_passes hx hp, if_neg hact, if_pos ((offSpace_branchTarget ofs).2 hoff)]
  rfl

theorem jmark_pushes : DoesIf (.jmark h ofs) h (fun s x => x.act ≠ 0#32 ∧ 0 ≤ (x.pc : Int) + 8 * signExt ofs.toNat 32 ∧
      (x.pc : Int) + 8 * signExt ofs.toNat 32 < 2 ^ 52 ∧
      ((s.issuer x).rejoin.length = 8 → s.regionFits (s.issuer x) 1 = true))
    (fun s x => (s.setRejoins x.crs (⟨((x.pc : Int) + 8 * signExt ofs.toNat 32).toNat, ((s.issuer x).slotN x.j).mask, 0#32⟩ ::
      s.rejoins (s.issuer x))).went x) := by
  rintro s hp ⟨hact, hlo, hhi, hroom⟩
  have hx : exec (.jmark h ofs) s = s.issue (.jmark h ofs) h _ := rfl
  rw [exec_of_passes hx hp, if_neg hact, if_neg, if_neg]
  · rfl
  · simpa using hroom
  · exact fun hoff => ((offSpace_branchTarget ofs).1 hoff).elim (Int.not_lt.2 hlo) (Int.not_le.2 hhi)

end

/-! ## JOIN (R128) -/

section
variable (h : Head)

/-- The entry that a JOIN joins is one that waits at its address. -/
def joinsHere (x : Ctx) (e : Rejoin) : Bool := e.l == x.pc

theorem join_idle : DoesIf (.join h) h (fun s x => x.act = 0#32 ∨ (s.rejoins (s.issuer x)).find? (joinsHere x) = none)
    (fun s x => s.went x) := by
  intro s hp hidle
  have hx : exec (.join h) s = s.issue (.join h) h _ := rfl
  rw [exec_of_passes hx hp]
  by_cases hact : (s.wordCtx h).act = 0#32
  · rw [if_pos hact]
    rfl
  · have hnone : (s.rejoins (s.issuer (s.wordCtx h))).find? (fun e => e.l == (s.wordCtx h).pc) = none := hidle.resolve_left hact
    simp only [if_neg hact, hnone]
    rfl

theorem join_last (e : Rejoin) : DoesIf (.join h) h
    (fun s x => x.act ≠ 0#32 ∧ (s.rejoins (s.issuer x)).find? (joinsHere x) = some e ∧
      e.a ||| ((s.issuer x).slotN x.j).mask = e.f)
    (fun s x => ((s.setRejoins x.crs (dropFirst (joinsHere x) (s.rejoins (s.issuer x)))).onCourse x.crs (fun c =>
      c.onSlot x.j (fun y => { y with mask := e.f }))).went x) := by
  rintro s hp ⟨hact, hfind, hall⟩
  have hx : exec (.join h) s = s.issue (.join h) h _ := rfl
  have hfind : (s.rejoins (s.issuer (s.wordCtx h))).find? (fun e => e.l == (s.wordCtx h).pc) = some e := hfind
  rw [exec_of_passes hx hp]
  simp only [if_neg hact, hfind, if_pos hall]
  rfl

theorem join_waits (e : Rejoin) : DoesIf (.join h) h
    (fun s x => x.act ≠ 0#32 ∧ (s.rejoins (s.issuer x)).find? (joinsHere x) = some e ∧
      e.a ||| ((s.issuer x).slotN x.j).mask ≠ e.f)
    (fun s x => ((s.setRejoins x.crs (mapFirst (joinsHere x) (fun y => { y with a := e.a ||| ((s.issuer x).slotN x.j).mask })
      (s.rejoins (s.issuer x)))).onCourse x.crs (fun c => c.onSlot x.j Slot.parted)).jumped x) := by
  rintro s hp ⟨hact, hfind, hmore⟩
  have hx : exec (.join h) s = s.issue (.join h) h _ := rfl
  have hfind : (s.rejoins (s.issuer (s.wordCtx h))).find? (fun e => e.l == (s.wordCtx h).pc) = some e := hfind
  rw [exec_of_passes hx hp]
  simp only [if_neg hact, hfind, if_neg hmore]
  rfl

end

/-- Settles O14: BRX and RET share their effect, by how many groups there are and whether the other slot is taken. -/
theorem rejoining : Obligations.Rejoining := by
  have hbrx : ∀ r s, exec (.brx r) s = s.issue (.brx r) r.head (fun x => s.indirect x r) := fun _ _ => rfl
  have hret : ∀ r s, exec (.ret r) s = s.issue (.ret r) r.head (fun x => s.indirect x r) := fun _ _ => rfl
  refine ⟨fun r => ⟨indirectWord_one (hbrx r), indirectWord_free (hbrx r), indirectWord_busy (hbrx r)⟩,
    fun r => ⟨indirectWord_one (hret r), indirectWord_free (hret r), indirectWord_busy (hret r)⟩,
    jmark_idle, jmark_beyond, jmark_pushes, join_idle, join_last, join_waits, fun r i hi L => ?traps⟩
  case traps =>
    rcases hi with rfl | rfl
    · exact ⟨indirectWord_misaligned (hbrx r) L, indirectWord_beyond (hbrx r) L⟩
    · exact ⟨indirectWord_misaligned (hret r) L, indirectWord_beyond (hret r) L⟩

end Sys2Proof.Machine

/-! # END, REFILL, IPUSH and the extended blocks (R107, R129, R131–R133, R145–R149) -/

namespace Sys2Proof

/-- A table filtered by its keys. -/
theorem Tab.get_filter {α : Type} (d : α) (keep : Nat → Bool) (t : Tab α) (n : Nat) :
    Tab.get d (t.filter (fun e => keep e.1)) n = if keep n then Tab.get d t n else d := by
  induction t with
  | nil => simp
  | cons e t ih =>
    obtain ⟨k, v⟩ := e
    rw [List.filter_cons, Tab.get]
    by_cases hkn : k = n
    · subst hkn
      cases hk : keep k <;> simp [Tab.get, ih, hk]
    · cases hk : keep k <;> simp [Tab.get, ih, hkn]

end Sys2Proof

namespace Sys2Proof.Machine

/-! ## END (R107, R129) -/

section
variable (h : Head)

theorem exec_endLanes (s : State) : exec (.endLanes h) s = s.issue (.endLanes h) h (fun x =>
    if x.act = 0#32 then .go s
    else if (s.issuer x).ownMask x.j &&& ~~~x.act = 0#32 then .jump (s.retire x.crs x.j x.act)
    else .go (s.retire x.crs x.j x.act)) := rfl

theorem endLanes_idle : DoesIf (.endLanes h) h (fun _ x => x.act = 0#32) (fun s x => s.went x) := by
  intro s hp hact
  rw [exec_of_passes (exec_endLanes h s) hp, if_pos hact]
  rfl

theorem endLanes_all : DoesIf (.endLanes h) h (fun s x => x.act ≠ 0#32 ∧ (s.issuer x).ownMask x.j &&& ~~~x.act = 0#32)
    (fun s x => (s.retire x.crs x.j x.act).jumped x) := by
  rintro s hp ⟨hact, hall⟩
  rw [exec_of_passes (exec_endLanes h s) hp, if_neg hact, if_pos hall]
  rfl

theorem endLanes_some : DoesIf (.endLanes h) h (fun s x => x.act ≠ 0#32 ∧ (s.issuer x).ownMask x.j &&& ~~~x.act ≠ 0#32)
    (fun s x => (s.retire x.crs x.j x.act).went x) := by
  rintro s hp ⟨hact, hsome⟩
  rw [exec_of_passes (exec_endLanes h s) hp, if_neg hact, if_neg hsome]
  rfl

end

/-! ## REFILL (R133) -/

section
variable (r : RWord)

/-- The lanes that ask for an item. -/
def refillAsk (s : State) (x : Ctx) : List Nat := lanesOf (x.act &&& s.maskVal (s.issuer x) r.a.field.toNat)

/-- The items of the team's queue, oldest first. -/
def refillItems (s : State) (x : Ctx) : List Word := (s.team (s.issuer x).team).items

/-- The lanes for which there is none. -/
def refillGone (s : State) (x : Ctx) : LaneMask := maskOfLanes ((refillAsk r s x).drop (refillItems s x).length)

/-- The items have been handed out. -/
def refillFed (s : State) (x : Ctx) : State :=
  let fed := (refillAsk r s x).zip (refillItems s x)
  (s.onTeam (s.issuer x).team (fun t => { t with items := t.items.drop fed.length })).onCourse x.crs (fun c =>
    { ((fed.foldl (fun c e => c.writeNow (.lane x.sup r.d.toNat e.1 e.2 false)) c).flushMask r.a.field.toNat).setMask
        r.a.field.toNat 0#32 (maskOfLanes (fed.map (fun e => e.1))) with nextIssue := s.clock + 8 })

/-- The items have been handed out, and the lanes without one have retired. -/
def refillDone (s : State) (x : Ctx) : State :=
  if refillGone r s x = 0#32 then refillFed r s x else (refillFed r s x).retire x.crs x.j (refillGone r s x)

theorem exec_refill (s : State) : exec (.refill r) s = s.issue (.refill r) r.head (fun x =>
    if (s.issuer x).ownMask x.j &&& ~~~refillGone r s x = 0#32 then .jump (refillDone r s x) else .go (refillDone r s x)) := rfl

theorem refill_all : DoesIf (.refill r) r.head (fun s x => refillGone r s x = 0#32 ∧ (s.issuer x).ownMask x.j ≠ 0#32)
    (fun s x => (refillFed r s x).went x) := by
  rintro s hp ⟨hgone, hown⟩
  rw [exec_of_passes (exec_refill r s) hp, refillDone, if_pos hgone, hgone, if_neg (by rwa [BitVec.not_zero, BitVec.and_allOnes])]
  rfl

theorem refill_some : DoesIf (.refill r) r.head
    (fun s x => refillGone r s x ≠ 0#32 ∧ (s.issuer x).ownMask x.j &&& ~~~refillGone r s x ≠ 0#32)
    (fun s x => ((refillFed r s x).retire x.crs x.j (refillGone r s x)).went x) := by
  rintro s hp ⟨hgone, hrest⟩
  rw [exec_of_passes (exec_refill r s) hp, refillDone, if_neg hgone, if_neg hrest]
  rfl

theorem refill_last : DoesIf (.refill r) r.head
    (fun s x => refillGone r s x ≠ 0#32 ∧ (s.issuer x).ownMask x.j &&& ~~~refillGone r s x = 0#32)
    (fun s x => ((refillFed r s x).retire x.crs x.j (refillGone r s x)).jumped x) := by
  rintro s hp ⟨hgone, hrest⟩
  rw [exec_of_passes (exec_refill r s) hp, refillDone, if_neg hgone, if_pos hrest]
  rfl

end

/-! ## IPUSH (R132) -/

section
variable (r : RWord)

/-- The word goes on, and tells n in the uniform register that it names. -/
def tells (x : Ctx) (t : State) (n : Nat) : Out :=
  (t.addPend x .other (.values (lateValues x true r.d.toNat 1 (fun _ => n))) (lateFills x true r.d.toNat 1) 0#32 0#32).went x

theorem settle_deliverU {s : State} {x : Ctx} (hact : x.act ≠ 0#32) (t : State) (n : Nat) :
    .next (s.settle x (t.deliverU x r.d.toNat 1 n)) = tells r x t n := by
  rw [State.deliverU, settle_lateWord _ _ _ _ _ _ hact, flagsOf_zero]
  rfl

/-- The items that an IPUSH adds: as many as there is room for. -/
def ipushItems (s : State) (x : Ctx) : List Word :=
  ((lanesOf x.act).take (1024 - s.itemsOn (s.issuer x).core)).map (fun L => s.laneVal (s.issuer x) x.sup r.a.field.toNat L)

theorem exec_ipush (s : State) : exec (.ipush r) s = s.issue (.ipush r) r.head (fun x =>
    if x.act = 0#32 then .go s
    else (s.onTeam (s.issuer x).team (fun t => { t with items := t.items ++ ipushItems r s x })).deliverU x r.d.toNat 1
      (ipushItems r s x).length) := rfl

theorem ipush_idle : DoesIf (.ipush r) r.head (fun _ x => x.act = 0#32) (fun s x => s.went x) := by
  intro s hp hact
  rw [exec_of_passes (exec_ipush r s) hp, if_pos hact]
  rfl

theorem ipush_adds : DoesIf (.ipush r) r.head (fun _ x => x.act ≠ 0#32) (fun s x =>
    tells r x (s.onTeam (s.issuer x).team (fun t => { t with items := t.items ++ ipushItems r s x })) (ipushItems r s x).length) := by
  intro s hp hact
  rw [exec_of_passes (exec_ipush r s) hp, if_neg hact, settle_deliverU r hact]

/-! ## VACQ and VREL (R145–R149) -/

/-- Every block of the set is held. -/
def vacqHas (s : State) (x : Ctx) : Prop := (s.issuer x).wanted r.a.field.toNat = []

/-- Some block is not, no course of the bay waits, and the pool has enough. -/
def vacqCan (s : State) (x : Ctx) : Prop := (s.issuer x).wanted r.a.field.toNat ≠ [] ∧
  s.vacqWaiters (s.issuer x).core (s.issuer x).bay = [] ∧
  ((s.issuer x).wanted r.a.field.toNat).length ≤ s.poolFree (s.issuer x).team (s.issuer x).bay

/-- The choice that VACQ and VACQ.nb make. -/
def vacqChoice (s : State) (x : Ctx) (has can wait : Res) : Res :=
  if ((s.issuer x).wanted r.a.field.toNat).isEmpty then has
  else if (s.vacqWaiters (s.issuer x).core (s.issuer x).bay).isEmpty &&
    ((s.issuer x).wanted r.a.field.toNat).length ≤ s.poolFree (s.issuer x).team (s.issuer x).bay then can
  else wait

variable {r} {s : State} {x : Ctx} {has can wait : Res}

theorem vacqChoice_has (h : vacqHas r s x) : vacqChoice r s x has can wait = has := if_pos (List.isEmpty_iff.2 h)

theorem vacqChoice_can (h : vacqCan r s x) : vacqChoice r s x has can wait = can := by
  obtain ⟨hwant, hfirst, hpool⟩ := h
  rw [vacqChoice, if_neg (by simpa using hwant), if_pos (by simp [hfirst, hpool])]

theorem vacqChoice_wait (hhas : ¬ vacqHas r s x) (hcan : ¬ vacqCan r s x) : vacqChoice r s x has can wait = wait := by
  have hwant : (s.issuer x).wanted r.a.field.toNat ≠ [] := hhas
  rw [vacqChoice, if_neg (by simpa using hwant), if_neg]
  simp only [Bool.and_eq_true, List.isEmpty_iff, decide_eq_true_eq]
  exact fun hfree => hcan ⟨hwant, hfree⟩

variable (r)

theorem exec_vacq (s : State) : exec (.vacq r) s = s.issue (.vacq r) r.head (fun x =>
    if x.act = 0#32 then .go s
    else vacqChoice r s x (.go s) (.go (s.takeBlocks x.crs r.a.field.toNat)) (.wait s (.vacq r.a.field.toNat s.stamp))) := rfl

theorem vacq_idle : DoesIf (.vacq r) r.head (fun s x => x.act = 0#32 ∨ vacqHas r s x) (fun s x => s.went x) := by
  intro s hp hidle
  rw [exec_of_passes (exec_vacq r s) hp]
  by_cases hact : (s.wordCtx r.head).act = 0#32
  · rw [if_pos hact]
    rfl
  · rw [if_neg hact, vacqChoice_has (hidle.resolve_left hact)]
    rfl

theorem vacq_takes : DoesIf (.vacq r) r.head (fun s x => x.act ≠ 0#32 ∧ vacqCan r s x)
    (fun s x => (s.takeBlocks x.crs r.a.field.toNat).went x) := by
  rintro s hp ⟨hact, hcan⟩
  rw [exec_of_passes (exec_vacq r s) hp, if_neg hact, vacqChoice_can hcan]
  rfl

theorem vacq_waits : DoesIf (.vacq r) r.head (fun s x => x.act ≠ 0#32 ∧ ¬ vacqHas r s x ∧ ¬ vacqCan r s x)
    (fun s x => s.waits x (.vacq r.a.field.toNat s.stamp)) := by
  rintro s hp ⟨hact, hhas, hcan⟩
  rw [exec_of_passes (exec_vacq r s) hp, if_neg hact, vacqChoice_wait hhas hcan]
  rfl

theorem exec_vacqNb (s : State) : exec (.vacqNb r) s = s.issue (.vacqNb r) r.head (fun x =>
    if x.act = 0#32 then .go s
    else vacqChoice r s x (s.deliverU x r.d.toNat 1 1) ((s.takeBlocks x.crs r.a.field.toNat).deliverU x r.d.toNat 1 1)
      (s.deliverU x r.d.toNat 1 0)) := rfl

theorem vacqNb_idle : DoesIf (.vacqNb r) r.head (fun _ x => x.act = 0#32) (fun s x => s.went x) := by
  intro s hp hact
  rw [exec_of_passes (exec_vacqNb r s) hp, if_pos hact]
  rfl

theorem vacqNb_has : DoesIf (.vacqNb r) r.head (fun s x => x.act ≠ 0#32 ∧ vacqHas r s x) (fun s x => tells r x s 1) := by
  rintro s hp ⟨hact, hhas⟩
  rw [exec_of_passes (exec_vacqNb r s) hp, if_neg hact, vacqChoice_has hhas, settle_deliverU r hact]

theorem vacqNb_takes : DoesIf (.vacqNb r) r.head (fun s x => x.act ≠ 0#32 ∧ vacqCan r s x)
    (fun s x => tells r x (s.takeBlocks x.crs r.a.field.toNat) 1) := by
  rintro s hp ⟨hact, hcan⟩
  rw [exec_of_passes (exec_vacqNb r s) hp, if_neg hact, vacqChoice_can hcan, settle_deliverU r hact]

theorem vacqNb_refused : DoesIf (.vacqNb r) r.head (fun s x => x.act ≠ 0#32 ∧ ¬ vacqHas r s x ∧ ¬ vacqCan r s x)
    (fun s x => tells r x s 0) := by
  rintro s hp ⟨hact, hhas, hcan⟩
  rw [exec_of_passes (exec_vacqNb r s) hp, if_neg hact, vacqChoice_wait hhas hcan, settle_deliverU r hact]

/-- Some register of the blocks that a VREL gives back is empty. -/
def vrelEmpty (s : State) (x : Ctx) : Bool :=
  (s.issuer x).v.any (fun k y => inBlocks (r.a.field.toNat &&& (s.issuer x).blocks) (k / 32) && y.empty)

theorem exec_vrel (s : State) : exec (.vrel r) s = s.issue (.vrel r) r.head (fun x =>
    if x.act = 0#32 then .go s
    else if vrelEmpty r s x then .block true
    else .go ((s.returnBlocks x.crs (r.a.field.toNat &&& (s.issuer x).blocks)).servePool (s.issuer x).core (s.issuer x).bay)) := rfl

theorem vrel_idle : DoesIf (.vrel r) r.head (fun _ x => x.act = 0#32) (fun s x => s.went x) := by
  intro s hp hact
  rw [exec_of_passes (exec_vrel r s) hp, if_pos hact]
  rfl

theorem vrel_blocked : DoesIf (.vrel r) r.head (fun s x => x.act ≠ 0#32 ∧ vrelEmpty r s x = true) (fun s x => s.blocked x true) := by
  rintro s hp ⟨hact, hempty⟩
  rw [exec_of_passes (exec_vrel r s) hp, if_neg hact, if_pos hempty]
  rfl

theorem vrel_returns : DoesIf (.vrel r) r.head (fun s x => x.act ≠ 0#32 ∧ vrelEmpty r s x = false)
    (fun s x => ((s.returnBlocks x.crs (r.a.field.toNat &&& (s.issuer x).blocks)).servePool (s.issuer x).core
      (s.issuer x).bay).went x) := by
  rintro s hp ⟨hact, hfull⟩
  rw [exec_of_passes (exec_vrel r s) hp, if_neg hact, hfull, if_neg Bool.false_ne_true]
  rfl

end

/-! ## Live lanes (R129) -/

section
variable (s : State)

/-- A course written with the live lanes that it has. -/
theorem live_setCourse {s : State} {k : Nat} {c : Course} (hc : c.live = (s.course k).live) (h : Nat) :
    ((s.setCourse k c).course h).live = (s.course h).live := by
  rw [course_setCourse]
  split
  · subst k
    exact hc
  · rfl

@[simp] theorem setRejoins_live (crs : Nat) (l : List Rejoin) : ((s.setRejoins crs l).course crs).live = (s.course crs).live := by
  simp [State.setRejoins]

@[simp] theorem takeBlocks_live (crs set h : Nat) : ((s.takeBlocks crs set).course h).live = (s.course h).live := by
  refine (live_setCourse ?_ h).trans ?_ <;> rfl

@[simp] theorem returnBlocks_live (crs set h : Nat) : ((s.returnBlocks crs set).course h).live = (s.course h).live := by
  refine (live_setCourse ?_ h).trans ?_ <;> rfl

@[simp] theorem advance_live (crs j : Nat) (act : LaneMask) (h : Nat) :
    ((s.advance crs j act).course h).live = (s.course h).live := by
  simp only [State.advance]
  split
  · exact live_setCourse (Course.onSlot_live ..) h
  · exact live_setCourse (Course.setSlot_live ..) h

@[simp] theorem serveBay_live (core bay n h : Nat) : ((s.serveBay core bay n).course h).live = (s.course h).live := by
  induction n generalizing s with
  | zero => rfl
  | succ n ih =>
    rw [State.serveBay]
    split
    · rfl
    · dsimp only
      split
      · rw [ih, advance_live, takeBlocks_live]
      · rfl

@[simp] theorem servePool_live (core bay h : Nat) : ((s.servePool core bay).course h).live = (s.course h).live := serveBay_live ..

@[simp] theorem leaveSup_live (crs pc h : Nat) : ((s.leaveSup crs pc).course h).live = (s.course h).live := by
  simp only [State.leaveSup]
  split
  · rfl
  · rw [course_onCore]
    refine live_setCourse ?_ h
    exact Course.setSlot_live ..

theorem closeBatch_live (c : Course) : c.closeBatch.live = c.live := by
  rw [Course.closeBatch]
  split <;> rfl

@[simp] theorem courseEnd_live (crs h : Nat) : ((s.courseEnd crs).course h).live = (s.course h).live := by
  simp only [State.courseEnd]
  split
  · rfl
  · split
    all_goals
      simp only [course_setTeam, servePool_live]
      refine (live_setCourse ?_ h).trans ?_
      · exact closeBatch_live _
      · rw [leaveSup_live, returnBlocks_live]

/-- Retiring lanes takes them, and no others, from the live lanes. -/
theorem retire_live (crs j : Nat) (m : LaneMask) : ((s.retire crs j m).course crs).live = (s.course crs).live &&& ~~~m := by
  have hleave : ∀ (b : Bool) (t : State), ((if b then t.leaveSup crs 0 else t).course crs).live = (t.course crs).live := by
    intro b t
    cases b <;> simp
  have hrejoin : ∀ (b : Bool) (l : List Rejoin), ((if b then s else s.setRejoins crs l).course crs).live = (s.course crs).live := by
    intro b l
    cases b <;> simp
  simp only [State.retire, courseEnd_live, hleave, course_onCourse_same, hrejoin]

end

/-! ## The extended blocks that a course takes (R145, R147) -/

section
variable (s : State) (c : Course)

/-- The blocks of a list, as a set. -/
def blockSet (l : List Nat) : Nat := l.foldl (fun a k => a + 2 ^ k) 0

theorem testBit_blockSet_of_bools : ∀ b0 b1 b2 b3 : Bool,
    blockSet ([0, 1, 2, 3].filter (fun k => [b0, b1, b2, b3].getD k false)) < 16 ∧
    ∀ i < 4, (blockSet ([0, 1, 2, 3].filter (fun k => [b0, b1, b2, b3].getD k false))).testBit i = [b0, b1, b2, b3].getD i false := by
  decide

theorem testBit_blockSet (p : Nat → Bool) (i : Nat) : (blockSet ([0, 1, 2, 3].filter p)).testBit i = (decide (i < 4) && p i) := by
  have hp : ∀ k < 4, [p 0, p 1, p 2, p 3].getD k false = p k := by
    intro k hk
    match k, hk with
    | 0, _ => rfl
    | 1, _ => rfl
    | 2, _ => rfl
    | 3, _ => rfl
  have hfilter : [0, 1, 2, 3].filter p = [0, 1, 2, 3].filter (fun k => [p 0, p 1, p 2, p 3].getD k false) :=
    List.filter_congr (fun k hk => (hp k (by simp at hk; omega)).symm)
  obtain ⟨hlt, hbits⟩ := testBit_blockSet_of_bools (p 0) (p 1) (p 2) (p 3)
  rw [hfilter]
  by_cases hi : i < 4
  · rw [hbits i hi, hp i hi, decide_eq_true hi, Bool.true_and]
  · rw [decide_eq_false hi, Bool.false_and]
    exact Nat.testBit_lt_two_pow (Nat.lt_of_lt_of_le hlt (Nat.pow_le_pow_right (n := 2) (by decide) (Nat.not_lt.1 hi)))

/-- The blocks of a set that a course comes to hold are those that it does not. -/
theorem testBit_wanted (set i : Nat) :
    (blockSet (c.wanted set)).testBit i = (decide (i < 4) && (!c.blocks.testBit i && set.testBit i)) := by
  rw [Course.wanted, blocksOf, List.filter_filter, testBit_blockSet]

theorem takeBlocks_course (crs set : Nat) : (s.takeBlocks crs set).course crs =
    { ((s.course crs).clearBlocks (blockSet ((s.course crs).wanted set))) with
      blocks := (s.course crs).blocks ||| blockSet ((s.course crs).wanted set) } :=
  (course_setCourse ..).trans (if_pos rfl)

theorem takeBlocks_blocks (crs : Nat) {set : Nat} (hset : set < 16) :
    ((s.takeBlocks crs set).course crs).blocks = (s.course crs).blocks ||| set := by
  rw [takeBlocks_course]
  refine Nat.eq_of_testBit_eq (fun i => ?_)
  rw [Nat.testBit_or, Nat.testBit_or, testBit_wanted]
  by_cases hi : i < 4
  · cases (s.course crs).blocks.testBit i <;> simp [hi]
  · have hhigh : set.testBit i = false :=
      Nat.testBit_lt_two_pow (Nat.lt_of_lt_of_le hset (Nat.pow_le_pow_right (n := 2) (by decide) (Nat.not_lt.1 hi)))
    rw [hhigh, decide_eq_false hi, Bool.false_and]

/-- A register lies in the blocks that are taken where it lies in the set and in no block held. -/
theorem inBlocks_wanted (set n : Nat) : inBlocks (blockSet (c.wanted set)) n =
    (inBlocks set n && (!inBlocks c.blocks n && decide ((n - 128) / 32 < 4))) := by
  rw [inBlocks, inBlocks, inBlocks, testBit_wanted]
  by_cases hn : 128 ≤ n
  · simp [hn, Bool.and_comm, Bool.and_left_comm]
  · simp [hn]

/-- The registers of the blocks that are taken are new; the others are as they were. -/
theorem takeBlocks_laneCell (crs set n : Nat) {L : Nat} (hL : L < 32) : ((s.takeBlocks crs set).course crs).laneCell false n L =
    if inBlocks (blockSet ((s.course crs).wanted set)) n then {} else (s.course crs).laneCell false n L := by
  have hkey : cellKey n L / 32 = n := by rw [cellKey]; omega
  rw [takeBlocks_course]
  refine (Tab.get_filter _ (fun k => !inBlocks (blockSet ((s.course crs).wanted set)) (k / 32)) _ _).trans ?_
  rw [hkey]
  cases inBlocks (blockSet ((s.course crs).wanted set)) n <;> rfl

theorem takeBlocks_laneCell_sup (crs set n L : Nat) :
    ((s.takeBlocks crs set).course crs).laneCell true n L = (s.course crs).laneCell true n L := by
  rw [takeBlocks_course]
  rfl

end

theorem retirement : retirementHolds := by
  refine ⟨retire_live, fun s crs set hset => takeBlocks_blocks s crs hset, fun s crs set n L hL hset hheld hn => ?new,
    fun s crs set sup n L hL hold => ?others⟩
  case new =>
    have hin : inBlocks (blockSet ((s.course crs).wanted set)) n = true := by
      rw [inBlocks_wanted, hset, hheld, decide_eq_true (by omega)]
      rfl
    rw [takeBlocks_laneCell s crs set n hL, if_pos hin]
  case others =>
    cases sup with
    | true => exact takeBlocks_laneCell_sup ..
    | false =>
      have hout : inBlocks (blockSet ((s.course crs).wanted set)) n = false := by
        rw [inBlocks_wanted]
        rcases hold with hsup | hset | hheld
        · cases hsup
        · rw [hset, Bool.false_and]
        · rw [hheld, Bool.not_true, Bool.false_and, Bool.and_false]
      rw [takeBlocks_laneCell s crs set n hL, hout, if_neg Bool.false_ne_true]

/-- Settles O15, word by word. -/
theorem lanesAndBlocks : Obligations.LanesAndBlocks :=
  ⟨endLanes_idle, endLanes_all, endLanes_some, refill_all, refill_some, refill_last, ipush_idle, ipush_adds, vacq_idle, vacq_takes,
    vacq_waits, vacqNb_idle, vacqNb_has, vacqNb_takes, vacqNb_refused, vrel_idle, vrel_blocked, vrel_returns, retirement⟩

end Sys2Proof.Machine

/-! # Integer words (R161–R170) -/

namespace Sys2Proof.Machine

/-! ## Values of the integer operations -/

/-- A 32-bit operand read as a signed integer lies between −2^31 and 2^31. -/
theorem signExt_lower (a : Nat) : -(2 ^ 31) ≤ signExt a 32 := by
  have h := Nat.mod_lt a (show 0 < 2 ^ 32 by decide)
  rw [signExt]
  split <;> omega

theorem signExt_upper (a : Nat) : signExt a 32 < 2 ^ 31 := by
  have h := Nat.mod_lt a (show 0 < 2 ^ 32 by decide)
  rw [signExt]
  split <;> omega

/-- A natural number of w bits is its own low bits. -/
theorem intBits_natCast {n w : Nat} (h : n < 2 ^ w) : intBits (n : Int) w = n := by
  rw [intBits, ← Int.natCast_emod, Int.toNat_natCast, Nat.mod_eq_of_lt h]

/-- A result that fits is delivered as it is, with or without .sat. -/
theorem satInt_of_fits (sat : Bool) {n32 : Bool} {a : Int} (hlo : intLo n32 ≤ a) (hhi : a ≤ intHi n32) :
    satInt sat n32 a = (intBits a 32, 0#32) := by
  rw [satInt, if_neg (by simp [hlo]), if_neg (by simp [hhi])]

/-- |a| of a signed number: only that of −2^31 does not fit. -/
theorem iabsVal_eq (sat : Bool) {a : Int} (hlo : -(2 ^ 31) ≤ a) (hhi : a < 2 ^ 31) : iabsVal sat a =
    if a = -(2 ^ 31) then (if sat then (0x7FFFFFFF, flSAT) else (0x80000000, flIOV)) else (a.natAbs, 0#32) := by
  by_cases h : a = -(2 ^ 31)
  · subst h
    cases sat <;> rfl
  · have hfits : satInt sat false (a.natAbs : Int) = (a.natAbs, 0#32) := by
      rw [satInt_of_fits sat (show -(2 ^ 31) ≤ (a.natAbs : Int) by omega) (show (a.natAbs : Int) ≤ 2 ^ 31 - 1 by omega),
        intBits_natCast (by omega)]
    rw [iabsVal, hfits, if_neg h, if_neg (by rw [decide_eq_false h, Bool.and_false]; exact Bool.false_ne_true)]

/-- The three cases of a division, in the order of R164. -/
theorem divRem_eq (n32 : Bool) (a b : Int) : divRem n32 a b =
    if b = 0 then (0xFFFFFFFF, intBits a 32, flIDZ)
    else if n32 = false ∧ a = -(2 ^ 31) ∧ b = -1 then (0x80000000, 0, flIOV)
    else (intBits (Int.tdiv a b) 32, intBits (Int.tmod a b) 32, 0#32) := by
  have hover : (!n32 && decide (a = -(2 ^ 31)) && decide (b = -1)) = true ↔ n32 = false ∧ a = -(2 ^ 31) ∧ b = -1 := by
    rw [Bool.and_eq_true, Bool.and_eq_true, Bool.not_eq_true', decide_eq_true_eq, decide_eq_true_eq, and_assoc]
  simp only [divRem, hover]

/-- The quotient with the flags of its division. -/
theorem divRem_quotient (n32 : Bool) (a b : Int) : ((divRem n32 a b).1, (divRem n32 a b).2.2) =
    if b = 0 then (0xFFFFFFFF, flIDZ)
    else if n32 = false ∧ a = -(2 ^ 31) ∧ b = -1 then (0x80000000, flIOV)
    else (intBits (Int.tdiv a b) 32, 0#32) := by
  rw [divRem_eq]
  split
  · rfl
  · split <;> rfl

/-- The remainder with the flags of its division. -/
theorem divRem_remainder (n32 : Bool) (a b : Int) : ((divRem n32 a b).2.1, (divRem n32 a b).2.2) =
    if b = 0 then (intBits a 32, flIDZ)
    else if n32 = false ∧ a = -(2 ^ 31) ∧ b = -1 then (0, flIOV)
    else (intBits (Int.tmod a b) 32, 0#32) := by
  rw [divRem_eq]
  split
  · rfl
  · split <;> rfl

theorem flDiv_eq (n32 : Bool) : flDiv n32 = if n32 then flIDZ else flIDZ ||| flIOV := by cases n32 <;> rfl

/-! ## The words -/

section
variable (r : RWord)

theorem iabs_gives (sat : Bool) : AluGives (.iabs r sat) r.head r.u r.d 1 (fun s x L =>
    if s.isrc x r.a false L = -(2 ^ 31) then (if sat then (0x7FFFFFFF, flSAT) else (0x80000000, flIOV))
    else ((s.isrc x r.a false L).natAbs, 0#32)) :=
  aluGives_congr (fun _ => rfl) (fun _ _ _ => iabsVal_eq sat (signExt_lower _) (signExt_upper _))

theorem idiv_gives (n32 : Bool) : SpecialGives (.idiv r n32) r.head 1 r.u r.d (if n32 then flIDZ else flIDZ ||| flIOV)
    (fun s x L =>
      let a := s.isrc x r.a n32 L
      let b := s.isrc x r.b n32 L
      if b = 0 then (0xFFFFFFFF, flIDZ)
      else if n32 = false ∧ a = -(2 ^ 31) ∧ b = -1 then (0x80000000, flIOV)
      else (intBits (Int.tdiv a b) 32, 0#32)) :=
  flDiv_eq n32 ▸ specialGives_of (fun _ => rfl) (fun _ _ _ => divRem_quotient n32 _ _)

theorem irem_gives (n32 : Bool) : SpecialGives (.irem r n32) r.head 1 r.u r.d (if n32 then flIDZ else flIDZ ||| flIOV)
    (fun s x L =>
      let a := s.isrc x r.a n32 L
      let b := s.isrc x r.b n32 L
      if b = 0 then (intBits a 32, flIDZ)
      else if n32 = false ∧ a = -(2 ^ 31) ∧ b = -1 then (0, flIOV)
      else (intBits (Int.tmod a b) 32, 0#32)) :=
  flDiv_eq n32 ▸ specialGives_of (fun _ => rfl) (fun _ _ _ => divRem_remainder n32 _ _)

theorem lea_gives (sx : Bool) : AluValue (.lea r sx) r.head r.u r.d 2 (fun s x L =>
    let i : Int := if sx then signExt (s.src x r.b 1 L) 32 else s.src x r.b 1 L
    intBits (s.src x r.a 2 L + i * (2 ^ r.c.field.toNat : Nat)) 64) := by
  refine aluGives_congr (fun _ => rfl) (fun s x L => ?_)
  cases sx <;> rfl

end

/-- Settles O1: the words deliver what the operations compute; |a|, quotient and remainder case by case. -/
theorem integerArithmetic : Obligations.IntegerArithmetic :=
  ⟨fun _ _ _ => aluGives_of (fun _ => rfl), fun _ _ _ => aluGives_of (fun _ => rfl), fun _ _ _ => aluGives_of (fun _ => rfl),
    fun _ _ _ => aluGives_of (fun _ => rfl), fun _ _ => aluGives_of (fun _ => rfl), fun _ _ => aluGives_of (fun _ => rfl),
    iabs_gives, idiv_gives, irem_gives, fun _ _ => aluGives_of (fun _ => rfl), fun _ _ _ => aluGives_of (fun _ => rfl),
    lea_gives⟩

/-! # Logic, shifts, bit fields, compares, selection and moves (R166–R169) -/

/-- A compare word without flags writes the lanes for which its condition holds. -/
theorem compareWord_of_noFlag (s : State) (x : Ctx) (r : RWord) (hit : Nat → Bool) :
    s.compareWord x r (fun L => (hit L, 0#32)) =
      s.aluRes x (if r.u then regWrites x true r.d.toNat 1 (fun L => if hit L then 1 else 0)
        else [.mask r.d.toNat (maskOfLanes ((lanesOf x.act).filter hit)) x.act]) 0#32 := by
  rw [compareWord_eq, flagsOf_zero]

theorem icmp_compares (r : RWord) (cc : IntCond) (n32 : Bool) : AluDoes (.icmp r cc n32) r.head (fun s x =>
    let hit := fun L => icmpVal cc (s.isrc x r.a n32 L) (s.isrc x r.b n32 L)
    (if r.u then regWrites x true r.d.toNat 1 (fun L => if hit L then 1 else 0)
     else [.mask r.d.toNat (maskOfLanes ((lanesOf x.act).filter hit)) x.act], 0#32)) :=
  aluDoes_of (fun s => congrArg (s.issue _ _) (funext (fun x => compareWord_of_noFlag s x r _)))

/-- A word whose value in each lane is a function of the bits of its sources A and B. -/
theorem bitWord_gives {i : Instr} {r : RWord} {f : Nat → Nat → Nat}
    (hx : ∀ s, exec i s = s.issue i r.head (fun x => s.bitWord x r f)) :
    AluValue i r.head r.u r.d 1 (fun s x L => f (s.src x r.a 1 L) (s.src x r.b 1 L)) :=
  aluGives_of hx

/-- The same of three sources. -/
theorem bitWord3_gives {i : Instr} {r : RWord} {f : Nat → Nat → Nat → Nat}
    (hx : ∀ s, exec i s = s.issue i r.head (fun x => s.bitWord3 x r f)) :
    AluValue i r.head r.u r.d 1 (fun s x L => f (s.src x r.a 1 L) (s.src x r.b 1 L) (s.src x r.c 1 L)) :=
  aluGives_of hx

theorem movi_gives (k : KWord) (ext : MoviExt) : AluValue (.movi k ext) k.head k.u k.d (if ext = .w32 then 1 else 2)
    (fun _ _ _ => if ext = .s64 then intBits (signExt k.imm.toNat 32) 64 else k.imm.toNat) := by
  refine aluGives_congr (fun _ => rfl) (fun _ _ _ => ?_)
  cases ext <;> rfl

/-- Settles O2, word by word. -/
theorem integerBits : Obligations.IntegerBits :=
  ⟨fun _ inv => bitWord_gives (f := fun a b => a &&& invIf inv b) (fun _ => rfl),
    fun _ inv => bitWord_gives (f := fun a b => a ||| invIf inv b) (fun _ => rfl),
    fun _ inv => bitWord_gives (f := fun a b => a ^^^ invIf inv b) (fun _ => rfl),
    fun _ wrap => bitWord_gives (f := fun a b => a * 2 ^ shiftAmount wrap b) (fun _ => rfl),
    fun _ wrap => bitWord_gives (f := fun a b => a / 2 ^ shiftAmount wrap b) (fun _ => rfl),
    fun _ wrap => bitWord_gives (f := fun a b => intBits (signExt a 32 / (2 ^ shiftAmount wrap b : Nat)) 32) (fun _ => rfl),
    fun _ right => bitWord_gives (f := fun a b => rotl a (if right then 32 - b % 32 else b % 32)) (fun _ => rfl),
    fun _ => bitWord_gives (f := fun a _ => popcVal a) (fun _ => rfl),
    fun _ => bitWord_gives (f := fun a _ => clzVal a) (fun _ => rfl),
    fun _ => bitWord_gives (f := fun a _ => brevVal a) (fun _ => rfl),
    fun _ sx => bitWord3_gives (f := fun a b c => bfeVal sx a b c) (fun _ => rfl),
    fun _ => bitWord3_gives (f := fun a b c => bfiVal a b c) (fun _ => rfl),
    icmp_compares, fun _ => aluGives_of (fun _ => rfl), fun _ => aluGives_of (fun _ => rfl), movi_gives⟩

/-! # Mask words (R143, R171) -/

/-- A mask word writes the bits of Active(). -/
theorem maskWord_does {i : Instr} {r : RWord} {f : Word → Word → Word}
    (hx : ∀ s, exec i s = s.issue i r.head (fun x => s.maskWord x r f)) : AluDoes i r.head (fun s x =>
      ([.mask r.d.toNat (f (s.maskVal (s.issuer x) r.a.field.toNat) (s.maskVal (s.issuer x) r.b.field.toNat)) x.act], 0#32)) :=
  aluDoes_of hx

/-- Settles O3, word by word. -/
theorem maskWords : Obligations.MaskWords :=
  ⟨fun _ => maskWord_does (f := fun a b => a &&& b) (fun _ => rfl),
    fun _ => maskWord_does (f := fun a b => a ||| b) (fun _ => rfl),
    fun _ => maskWord_does (f := fun a b => a ^^^ b) (fun _ => rfl),
    fun _ => maskWord_does (f := fun a b => a &&& ~~~b) (fun _ => rfl),
    fun _ => maskWord_does (f := fun a b => a ||| ~~~b) (fun _ => rfl),
    fun _ => maskWord_does (f := fun a _ => ~~~a) (fun _ => rfl),
    fun _ => maskWord_does (f := fun a _ => a) (fun _ => rfl),
    fun _ => aluDoes_of (fun _ => rfl), fun _ => aluGives_of (fun _ => rfl), fun _ => aluDoes_of (fun _ => rfl)⟩

/-! # SRD and SWR (R158, R159) -/

/-- Course register n is ready: no earlier word of the course can still set FLG, where it is FLG. -/
def courseRegReady (n : Nat) (s : State) (x : Ctx) : Prop := n = 0 → s.flgBusy x.crs (s.issuer x) = false

theorem not_busy_of_ready {n : Nat} {s : State} {x : Ctx} (h : courseRegReady n s x) :
    ¬ (((decide (n = 0)) && s.flgBusy x.crs (s.issuer x)) = true) := by
  by_cases hn : n = 0
  · simp [h hn]
  · simp [hn]

theorem srd_delivers (r : RWord) : LateDoes (.srd r) r.head .other (courseRegReady r.a.field.toNat) (fun s _ => s) true r.d 1
    (fun _ _ => 0#32) (fun s x _ => (s.courseReg (s.issuer x) r.a.field.toNat).toNat) (fun _ _ => 0#32) :=
  deliversU_of (v := fun s x => (s.courseReg (s.issuer x) r.a.field.toNat).toNat) (fun _ => rfl) (fun _ _ hact => if_pos hact)
    (fun _ _ hact hready => (if_neg hact).trans (if_neg (not_busy_of_ready hready)))

/-- SWR and its forms, said once: nothing with no active lane, and else the new value of the register. -/
theorem swrWord_does {i : Instr} {r : RWord} {f : Word → Word → Word}
    (hx : ∀ s, exec i s = s.issue i r.head (fun x => s.swrWord x r f)) :
    DoesIf i r.head (fun _ x => x.act = 0#32) (fun s x => s.went x) ∧
    DoesIf i r.head (fun s x => x.act ≠ 0#32 ∧ courseRegReady r.d.toNat s x) (fun s x =>
      (s.setCourse x.crs ((s.issuer x).setReg r.d.toNat
        (f (s.courseReg (s.issuer x) r.d.toNat) (wd (s.usrc x r.a))))).went x) := by
  constructor
  · intro s hp hact
    rw [exec_of_passes (hx s) hp, State.swrWord, if_pos hact]
    rfl
  · rintro s hp ⟨hact, hready⟩
    rw [exec_of_passes (hx s) hp, State.swrWord, if_neg hact, if_neg (not_busy_of_ready hready)]
    rfl

/-- Settles O4: SRD delivers, each SWR word writes, and reserved bits stay 0. -/
theorem courseRegisters : Obligations.CourseRegisters :=
  ⟨srd_delivers, fun _ => swrWord_does (f := fun _ v => v) (fun _ => rfl),
    fun _ => swrWord_does (f := fun o v => o ||| v) (fun _ => rfl),
    fun _ => swrWord_does (f := fun o v => o &&& ~~~v) (fun _ => rfl),
    fun _ _ => ⟨rfl, rfl⟩⟩

/-! # Busy units and invalid format registers (R157, R174, R177, R198, R205, R219–R221, R225) -/

/-- A word whose body cannot issue where ok holds. -/
theorem blocked_of {i : Instr} {h : Head} {ok : State → Ctx → Prop} {b : State → Ctx → Res}
    (hx : ∀ s, exec i s = s.issue i h (b s)) (hb : ∀ s x, ok s x → b s x = .block false) :
    DoesIf i h ok (fun s x => s.blocked x false) := by
  intro s hp hok
  rw [exec_of_passes (hx s) hp, hb _ _ hok]
  rfl

/-! ## The three units -/

/-- A word waits while the unit of its bay that at_ tells is busy. -/
def WaitsFor (at_ : Bay → Nat) (i : Instr) (h : Head) : Prop :=
  DoesIf i h (fun s x => s.clock < at_ (s.issuerBay x)) (fun s x => s.blocked x false)

section
variable {i : Instr} {h : Head} {k d : State → Ctx → Nat}

theorem specialWord_waits {u : Bool} {may : State → Ctx → Word} {f : State → Ctx → Nat → Nat × Word}
    (hx : ∀ s, exec i s = s.issue i h (fun x => s.specialWord x (k s x) u (d s x) (may s x) (f s x))) :
    WaitsFor Bay.specialUntil i h :=
  blocked_of hx (fun _ _ hbusy => if_pos hbusy)

theorem crossbarWord_waits {u : Bool} {w : Nat} {may fl : State → Ctx → Word} {f : State → Ctx → Nat → Nat}
    (hx : ∀ s, exec i s = s.issue i h (fun x => s.crossbarWord x (k s x) u (d s x) w (may s x) (f s x) (fl s x))) :
    WaitsFor Bay.crossbarUntil i h :=
  blocked_of hx (fun _ _ hbusy => if_pos hbusy)

theorem withDist_waits {f : State → Ctx → State → Res}
    (hx : ∀ s, exec i s = s.issue i h (fun x => s.withDist x (k s x) (f s x))) : WaitsFor Bay.distUntil i h :=
  blocked_of hx (fun _ _ hbusy => if_pos hbusy)

theorem distWord_waits {tag : State → Ctx → Bool} {may : State → Ctx → Word} {f : State → Ctx → Nat → DCell × Word}
    (hx : ∀ s, exec i s = s.issue i h (fun x => s.distWord x (k s x) (d s x) (tag s x) (may s x) (f s x))) :
    WaitsFor Bay.distUntil i h :=
  withDist_waits hx

theorem distOut_waits {may : State → Ctx → Word} {f : State → Ctx → Nat → Nat × Word}
    (hx : ∀ s, exec i s = s.issue i h (fun x => s.distOut x (k s x) (d s x) (may s x) (f s x))) : WaitsFor Bay.distUntil i h :=
  withDist_waits hx

theorem binaryDist_waits {r : RWord} {may : State → Ctx → Word} {f : State → Ctx → Word → Word → Word × Word}
    (hx : ∀ s, exec i s = s.issue i h (fun x => s.binaryDist x r (may s x) (f s x))) : WaitsFor Bay.distUntil i h :=
  distWord_waits hx

theorem pointwise_waits {r : RWord} {may : State → Ctx → Word} {f : State → Ctx → Nat → Word → Word × Word}
    (hx : ∀ s, exec i s = s.issue i h (fun x => s.pointwise x r (may s x) (f s x))) : WaitsFor Bay.distUntil i h :=
  distWord_waits hx

end

theorem special_waits (i : Instr) (h : Head) (hh : i.head? = some h)
    (hop : i.opcode = 0x24 ∨ i.opcode = 0x25 ∨ (0x4D ≤ i.opcode ∧ i.opcode ≤ 0x55)) : WaitsFor Bay.specialUntil i h := by
  cases i with
  | idiv | irem | fdiv | fsqrt | rcp | rsq | ex2 | lg2 | sin | cos | tanh =>
    cases hh
    exact specialWord_waits (fun _ => rfl)
  | _ => exact absurd hop (of_decide_eq_false rfl)

theorem crossbar_waits (i : Instr) (h : Head) (hh : i.head? = some h)
    (hop : (0x61 ≤ i.opcode ∧ i.opcode ≤ 0x65) ∨ i.opcode = 0x69 ∨ i.opcode = 0x6A) : WaitsFor Bay.crossbarUntil i h := by
  cases i with
  | vote | redux | scan | hdm | qmax | pack | unpack =>
    cases hh
    exact crossbarWord_waits (fun _ => rfl)
  | _ => exact absurd hop (of_decide_eq_false rfl)

theorem dist_waits (i : Instr) (h : Head) (hh : i.head? = some h) (hlo : 0xD0 ≤ i.opcode) (hhi : i.opcode ≤ 0xDF) :
    WaitsFor Bay.distUntil i h := by
  cases i with
  | dmk | dset | dmix | dcond | dtagNew | dtagCopy =>
    cases hh
    exact distWord_waits (fun _ => rfl)
  | dget | dmom | dqtl | dcdf | dtagRead =>
    cases hh
    exact distOut_waits (fun _ => rfl)
  | dadd | dsub | dmul | dmin | dmax =>
    cases hh
    exact binaryDist_waits (fun _ => rfl)
  | dmap | daff =>
    cases hh
    exact pointwise_waits (fun _ => rfl)
  | _ => exact absurd (And.intro hlo hhi) (of_decide_eq_false rfl)

/-! ## Format registers (R177, R198, R219–R221) -/

/-- A word traps with FORMAT_INVALID on format register n, where an active lane finds no format in it. -/
def TrapsOnFormat (n : Nat) (i : Instr) (h : Head) : Prop :=
  DoesIf i h (fun s x => x.act ≠ 0#32 ∧ fmtValid ((s.issuer x).fmReg n) = false) (fun s x => s.trapped x (x.formatTrap n))

section
variable {i : Instr} {h : Head} {n : Nat} {s : State} {x : Ctx}

theorem withFormat_invalid {k : Fmt → Res} (hact : x.act ≠ 0#32) (hfm : fmtValid ((s.issuer x).fmReg n) = false) :
    s.withFormat x n k = .trap (x.formatTrap n) := by
  rw [State.withFormat, if_pos (by simp [hact, hfm])]

theorem withFormat_valid {k : Fmt → Res} (hok : x.act = 0#32 ∨ fmtValid ((s.issuer x).fmReg n) = true) :
    s.withFormat x n k = k (fmtOfReg ((s.issuer x).fmReg n)) := by
  rw [State.withFormat, if_neg (by rcases hok with hok | hok <;> simp [hok])]

theorem crossbarEach_busy {k : Nat} {u : Bool} {d : Nat} {may : Word} {f : Nat → Nat × Word}
    (hbusy : s.clock < (s.issuerBay x).crossbarUntil) : s.crossbarEach x k u d may f = .block false := if_pos hbusy

theorem withFormat_traps {k : State → Ctx → Fmt → Res}
    (hx : ∀ s, exec i s = s.issue i h (fun x => s.withFormat x n (k s x))) :
    TrapsOnFormat n i h := by
  rintro s hp ⟨hact, hfm⟩
  rw [exec_of_passes (hx s) hp, withFormat_invalid hact hfm]
  rfl

/-- A word of the quantiser waits for the crossbar once its format register is found valid. -/
theorem quantiser_waits {c : Nat} {u : Bool} {d : Nat} {may : State → Ctx → Fmt → Word}
    {f : State → Ctx → Fmt → Nat → Nat × Word}
    (hx : ∀ s, exec i s = s.issue i h (fun x => s.withFormat x n (fun m => s.crossbarEach x c u d (may s x m) (f s x m)))) :
    DoesIf i h (fun s x => (x.act = 0#32 ∨ fmtValid ((s.issuer x).fmReg n) = true) ∧
      s.clock < (s.issuerBay x).crossbarUntil) (fun s x => s.blocked x false) :=
  blocked_of hx (fun _ _ ⟨hok, hbusy⟩ => (withFormat_valid hok).trans (crossbarEach_busy hbusy))

end

theorem quantiser_words_wait (r : RWord) (i : Instr) (fm : BitVec 3)
    (hi : (∃ out, i = .qscale r out fm) ∨ (∃ rnd sat, i = .qnt r rnd sat fm) ∨ (∃ rnd, i = .deq r rnd fm)) :
    DoesIf i r.head (fun s x => (x.act = 0#32 ∨ fmtValid ((s.issuer x).fmReg fm.toNat) = true) ∧
      s.clock < (s.issuerBay x).crossbarUntil) (fun s x => s.blocked x false) := by
  obtain ⟨out, rfl⟩ | ⟨rnd, sat, rfl⟩ | ⟨rnd, rfl⟩ := hi
  · exact quantiser_waits (fun _ => rfl)
  · exact quantiser_waits (fun _ => rfl)
  · exact quantiser_waits (fun _ => rfl)

/-- A CVT that names one format register reports that one, in whichever order it looks at them. -/
theorem cvt_traps (r : RWord) (rnd : Rnd) (sat : Bool) (n : Nat)
    (hn : [r.c.field.toNat / 16, r.c.field.toNat % 16].filterMap cvtFm = [n]) : TrapsOnFormat n (.cvt r rnd sat) r.head := by
  rintro s hp ⟨hact, hfm⟩
  have hx : exec (.cvt r rnd sat) s = s.issue (.cvt r rnd sat) r.head _ := rfl
  have hbad : (s.issuer (s.wordCtx r.head)).badFormat [n] = some n := by simp [Course.badFormat, hfm]
  rw [exec_of_passes hx hp]
  simp only [hn, List.reverse_singleton, ite_self, if_neg hact, hbad]
  rfl

/-! ## SHFL (R208, R211) -/

/-- A lane of a mask to which the lanes of a list are added is one of the mask or one of the list. -/
theorem getLsbD_foldl_lanes {l : List Nat} {m : LaneMask} {L : Nat}
    (h : (l.foldl (fun m k => m ||| BitVec.ofNat 32 (2 ^ k)) m).getLsbD L = true) : m.getLsbD L = true ∨ L ∈ l := by
  induction l generalizing m with
  | nil => exact .inl h
  | cons k l ih =>
    rcases ih h with hm | hl
    · rw [BitVec.getLsbD_or, BitVec.getLsbD_ofNat, Nat.testBit_two_pow] at hm
      simp only [Bool.or_eq_true, Bool.and_eq_true, decide_eq_true_eq] at hm
      rcases hm with hm | ⟨-, rfl⟩
      · exact .inl hm
      · exact .inr List.mem_cons_self
    · exact .inr (List.mem_cons_of_mem _ hl)

/-- What holds of the lane that each active lane reads holds of every lane that is read. -/
theorem forall_lanes_read {act : LaneMask} {from_ : Nat → Nat} {p : Nat → Prop}
    (h : ∀ L, act.getLsbD L = true → p (from_ L)) : ∀ k ∈ lanesOf (maskOfLanes ((lanesOf act).map from_)), p k := by
  intro k hk
  rcases getLsbD_foldl_lanes (List.mem_filter.1 hk).2 with hzero | hread
  · rw [BitVec.getLsbD_zero] at hzero
    cases hzero
  · obtain ⟨L, hL, rfl⟩ := List.mem_map.1 hread
    exact h L (List.mem_filter.1 hL).2

theorem shfl_waits (r : RWord) (mode : ShflMode) (seg : Seg) : DoesIf (.shfl r mode seg) r.head
    (fun s x => s.fieldPoison (s.issuer x) x r.b.reg1Imm = none ∧ s.clock < (s.issuerBay x).crossbarUntil ∧
      ∀ L, x.act.getLsbD L = true →
        let k := shflLane mode (Seg.size seg) (s.lrOf (s.issuer x)).width16 (s.src x r.b 1 L) L
        ((s.issuer x).laneCell x.sup r.a.field.toNat k).empty = false ∧
        s.lanePoison (s.issuer x) x.sup r.a.field.toNat k = false)
    (fun s x => s.blocked x false) := by
  refine blocked_of (fun _ => rfl) (fun s x ⟨hlane, hbusy, hsource⟩ => ?_)
  have hread := forall_lanes_read (p := fun k => ((s.issuer x).laneCell x.sup r.a.field.toNat k).empty = false ∧
    s.lanePoison (s.issuer x) x.sup r.a.field.toNat k = false) hsource
  have hfull : (s.issuer x).laneEmpty x.sup r.a.field.toNat (maskOfLanes ((lanesOf x.act).map (fun L =>
      shflLane mode (Seg.size seg) (s.lrOf (s.issuer x)).width16 (s.src x r.b 1 L) L))) = false :=
    List.any_eq_false.2 (fun k hk => Bool.eq_false_iff.1 (hread k hk).1)
  have hclean : (lanesOf (maskOfLanes ((lanesOf x.act).map (fun L =>
      shflLane mode (Seg.size seg) (s.lrOf (s.issuer x)).width16 (s.src x r.b 1 L) L)))).find?
      (fun k => s.lanePoison (s.issuer x) x.sup r.a.field.toNat k) = none :=
    List.find?_eq_none.2 (fun k hk => Bool.eq_false_iff.1 (hread k hk).2)
  simp only [State.src] at hfull hclean
  simp only [hfull, hclean, hlane, Bool.false_eq_true, if_false, Option.map_none]
  exact if_pos hbusy

/-- Settles O56, unit by unit and word by word. -/
theorem unitsAndFormats : Obligations.UnitsAndFormats :=
  ⟨special_waits, crossbar_waits, dist_waits, quantiser_words_wait, shfl_waits,
    fun _ _ _ => withFormat_traps (fun _ => rfl), fun _ _ _ _ => withFormat_traps (fun _ => rfl),
    fun _ _ _ => withFormat_traps (fun _ => rfl), cvt_traps, fun _ _ _ _ _ _ hquiet => heldTrap_quiet hquiet⟩

end Sys2Proof.Machine

/-! # FP32 words and conversions (R193–R196, R198, R199) -/

namespace Sys2Proof.Machine

section
variable {i : Instr} {r : RWord}

theorem isRd_eq (rnd : Rnd) : Rnd.isRd rnd = decide (rnd = .rd) := by cases rnd <;> rfl

theorem isRd_toRnd (rnd : Rnd4) : Rnd.isRd rnd.toRnd = decide (rnd = .rd) := by cases rnd <;> rfl

/-- A word that computes exactly from two FP32 sources and rounds once. -/
theorem fpWord_gives {rnd : Rnd} {sat : Bool} {f : Fp → Fp → Fp × Word}
    (hx : ∀ s, exec i s = s.issue i r.head (fun x => s.fpWord x r rnd sat f)) : AluGives i r.head r.u r.d 1 (fun s x L =>
      finish32 x.ftz rnd sat (s.src x r.c 1 L % 2 ^ 16) (f (s.fsrc x r.a L) (s.fsrc x r.b L))) :=
  aluGives_of hx

theorem ffma_gives (r : RWord) (rnd : Rnd4) (sat : Bool) : AluGives (.ffma r rnd sat) r.head r.u r.d 1 (fun s x L =>
    finish32 x.ftz rnd.toRnd sat 0 (Fp.fma (decide (rnd = .rd)) (s.fsrc x r.a L) (s.fsrc x r.b L) (s.fsrc x r.c L))) :=
  isRd_toRnd rnd ▸ aluGives_of (fun _ => rfl)

/-- A minimum or maximum delivers the code of the source that is picked, or the canonical NaN. -/
theorem minMaxWord_gives {max nan : Bool} (hx : ∀ s, exec i s = s.issue i r.head (fun x => s.minMaxWord x r max nan)) :
    AluGives i r.head r.u r.d 1 (fun s x L =>
      ((match minMaxPick max nan (s.fsrc x r.a L) (s.fsrc x r.b L) with
        | none => 0x7FC00000#32
        | some a => flush32 x.ftz (s.fbits x (s.issuer x) (if a then r.a else r.b) L)).toNat,
       snanFlag [s.fsrc x r.a L, s.fsrc x r.b L])) := by
  refine aluGives_congr hx (fun s x L => ?_)
  simp only [State.fsrc]
  cases minMaxPick max nan (s.fval x (s.issuer x) r.a L) (s.fval x (s.issuer x) r.b L) with
  | none => rfl
  | some a => cases a <;> rfl

theorem fcmp_compares (r : RWord) (cc : FpCond) : AluDoes (.fcmp r cc) r.head (fun s x =>
    let hit := fun L => fcmpVal cc (s.fsrc x r.a L) (s.fsrc x r.b L)
    (if r.u then regWrites x true r.d.toNat 1 (fun L => if (hit L).1 then 1 else 0)
     else [.mask r.d.toNat (maskOfLanes ((lanesOf x.act).filter (fun L => (hit L).1))) x.act],
     flagsOf x r.u (fun L => (hit L).2))) :=
  aluDoes_of (fun s => congrArg (s.issue _ _) (funext (fun x => compareWord_eq s x r _)))

end

/-- A meaning that is a fixed-ALU result where ok holds. -/
theorem aluDoesIf_of {i : Instr} {h : Head} {ok : State → Ctx → Prop} {res : State → Ctx → List AluDst × Word}
    {b : State → Ctx → Res} (hx : ∀ s, exec i s = s.issue i h (b s))
    (hb : ∀ s x, ok s x → b s x = s.aluRes x (res s x).1 (res s x).2) : AluDoesIf i h ok res := by
  constructor
  · rintro s hp ⟨hok, hquiet⟩
    rw [exec_of_passes (hx s) hp, hb _ _ hok, settle_aluRes, if_neg (Bool.eq_false_iff.1 hquiet)]
    rfl
  · rintro s hp ⟨hok, htrap⟩
    rw [exec_of_passes (hx s) hp, hb _ _ hok, settle_aluRes, if_pos htrap]

theorem badFormat_none {c : Course} {ns : List Nat} (h : ∀ n ∈ ns, fmtValid (c.fmReg n) = true) : c.badFormat ns = none :=
  List.find?_eq_none.2 (fun n hn => by simp [h n hn])

/-- The format registers that type codes name are those of the codes from 8 on. -/
theorem mem_filterMap_cvtFm {codes : List Nat} {n : Nat} (h : n ∈ codes.filterMap cvtFm) : ∃ k ∈ codes, 8 ≤ k ∧ n = k - 8 := by
  obtain ⟨k, hk, hn⟩ := List.mem_filterMap.1 h
  obtain ⟨hle, heq⟩ := Option.ite_none_right_eq_some.1 hn
  exact ⟨k, hk, hle, (Option.some.inj heq).symm⟩

/-- With valid formats CVT finds none to report, in whichever order it looks at them. -/
theorem cvt_formats_valid {c : Course} {codes : List Nat} (first : Bool)
    (h : ∀ k ∈ codes, 8 ≤ k → fmtValid (c.fmReg (k - 8)) = true) :
    c.badFormat (if first then codes.filterMap cvtFm else (codes.filterMap cvtFm).reverse) = none := by
  have hvalid : ∀ n ∈ codes.filterMap cvtFm, fmtValid (c.fmReg n) = true := by
    intro n hn
    obtain ⟨k, hk, hle, rfl⟩ := mem_filterMap_cvtFm hn
    exact h k hk hle
  cases first with
  | true => exact badFormat_none hvalid
  | false => exact badFormat_none (fun n hn => hvalid n (List.mem_reverse.1 hn))

theorem cvt_converts (r : RWord) (rnd : Rnd) (sat : Bool) : AluDoesIf (.cvt r rnd sat) r.head
    (fun s x => ∀ n ∈ [r.c.field.toNat / 16, r.c.field.toNat % 16], 8 ≤ n → fmtValid ((s.issuer x).fmReg (n - 8)) = true)
    (fun s x =>
      let f := fun L =>
        let v := if r.a.kind = .imm then Fp.ofInt r.a.immVal
          else cvtSource (s.issuer x) x.ftz (r.c.field.toNat / 16) (s.src x r.a (cvtRegs (r.c.field.toNat / 16)) L)
        let y := cvtRound (s.issuer x) x.ftz (r.c.field.toNat % 16) rnd sat (s.src x r.b 1 L % 2 ^ 16) v
        (y.1, y.2 ||| snanFlag [v])
      (regWrites x r.u r.d.toNat (cvtRegs (r.c.field.toNat % 16)) (fun L => (f L).1),
        flagsOf x r.u (fun L => (f L).2))) := by
  refine aluDoesIf_of (fun _ => rfl) (fun s x hvalid => ?_)
  simp only [cvt_formats_valid _ hvalid, ite_self, State.aluWord, aluWrites_each, flags_each]
  rfl

/-- Settles O5, word by word: FMIN and FMAX by the source picked, and CVT once its formats are valid. -/
theorem vectorArithmetic : Obligations.VectorArithmetic :=
  ⟨fun _ rnd _ => fpWord_gives (f := fun a b => a.add (decide (rnd = .rd)) b) (fun _ => isRd_eq rnd ▸ rfl),
    fun _ rnd _ => fpWord_gives (f := fun a b => a.add (decide (rnd = .rd)) b.flip) (fun _ => isRd_eq rnd ▸ rfl),
    fun _ _ _ => fpWord_gives (f := Fp.mul) (fun _ => rfl), ffma_gives,
    fun _ _ => minMaxWord_gives (fun _ => rfl), fun _ _ => minMaxWord_gives (fun _ => rfl), fcmp_compares,
    fun _ => aluGives_of (fun _ => rfl), cvt_converts, fun _ _ => aluGives_of (fun _ => rfl),
    fun _ _ _ => aluGives_of (fun _ => rfl)⟩

/-! # Packed words (R197) -/

/-- The elements that a packed word computes (R192). -/
def enabledElements (part : PackPart) : List Nat :=
  (if part = .hi then [] else [0]) ++ (if part = .lo then [] else [1])

/-- The bits of the destination that they are. -/
def enabledBits : PackPart → Word
  | .both => 0xFFFFFFFF#32
  | .lo => 0x0000FFFF#32
  | .hi => 0xFFFF0000#32

/-- Their codes, each in its place. -/
def packCodes (part : PackPart) (code : Nat → Nat) : Word :=
  wd ((enabledElements part).foldl (fun a k => a + code k % 2 ^ 16 * 2 ^ (16 * k)) 0)

/-- What a packed word writes: in each lane that computes, the enabled elements and no other bit. -/
def packedWrites (x : Ctx) (r : RWord) (part : PackPart) (f : Nat → Nat → Nat × Word) : List AluDst :=
  (computing r.u x.act).map (fun L =>
    if r.u then .unif x.sup r.d.toNat (packCodes part (fun k => (f k L).1)) (enabledBits part)
    else .lane x.sup r.d.toNat L (packCodes part (fun k => (f k L).1)) (enabledBits part))

/-- The flags of the enabled elements, together. -/
def packedFlags (x : Ctx) (r : RWord) (part : PackPart) (f : Nat → Nat → Nat × Word) : Word :=
  (computing r.u x.act).foldl (fun a L => (enabledElements part).foldl (fun b k => b ||| (f k L).2) a) 0#32

/-- A fixed-ALU word that writes the enabled elements and sets their flags (R190, R197): f by element and lane. -/
def PackedGives (i : Instr) (r : RWord) (part : PackPart) (f : State → Ctx → Nat → Nat → Nat × Word) : Prop :=
  AluDoes i r.head (fun s x => (packedWrites x r part (f s x), packedFlags x r part (f s x)))

/-- Round an element with the flags of its operation to the format of a packed word. -/
def finishPacked (bf16 : Bool) (mode : Rnd) (sat : Bool) (rand : Nat) (p : Fp × Word) : Nat × Word :=
  let y := (packFmt bf16).round mode sat rand p.1
  (y.1, p.2 ||| y.2)

/-- Element k of a packed source. -/
def State.psrc (s : State) (x : Ctx) (bf16 : Bool) (o : Operand) (k L : Nat) : Fp := s.pval x (s.issuer x) o (packFmt bf16) k L

theorem filter_has (part : PackPart) : [0, 1].filter (fun k => PackPart.has part k) = enabledElements part := by
  cases part <;> rfl

theorem enabledBits_eq (part : PackPart) :
    wd ((enabledElements part).foldl (fun a k => a + 0xFFFF * 2 ^ (16 * k)) 0) = enabledBits part := by
  cases part <;> rfl

/-- The shape of a packed word, in the terms of its enabled elements. -/
theorem packedWord_eq (s : State) (x : Ctx) (r : RWord) (part : PackPart) (f : Nat → Nat → Nat × Word) :
    s.packedWord x r part f = s.aluRes x (packedWrites x r part f) (packedFlags x r part f) := by
  simp only [State.packedWord, filter_has, enabledBits_eq, span_eq, List.map_map, List.foldl_map, Function.comp_def, packedWrites,
    packedFlags, packCodes]

section
variable {i : Instr} {r : RWord} {part : PackPart}

theorem packedWord_gives {f g : State → Ctx → Nat → Nat → Nat × Word}
    (hx : ∀ s, exec i s = s.issue i r.head (fun x => s.packedWord x r part (f s x))) (hf : ∀ s x k L, f s x k L = g s x k L) :
    PackedGives i r part g := by
  obtain rfl : f = g := by
    funext s x k L
    exact hf s x k L
  exact aluDoes_of (fun s => (hx s).trans (congrArg (s.issue _ _) (funext (fun x => packedWord_eq s x r part _))))

/-- A packed word that computes exactly from two sources and rounds each element once. -/
theorem packed2_gives {rnd : Rnd} {sat bf16 : Bool} {f : Fp → Fp → Fp × Word}
    (hx : ∀ s, exec i s = s.issue i r.head (fun x => s.packed2 x r rnd sat bf16 part f)) :
    PackedGives i r part (fun s x k L => finishPacked bf16 rnd sat (s.src x r.c 1 L / 2 ^ (16 * k) % 2 ^ 16)
      (f (s.psrc x bf16 r.a k L) (s.psrc x bf16 r.b k L))) :=
  packedWord_gives hx (fun _ _ _ _ => rfl)

end

theorem hfma2_gives (r : RWord) (rnd : Rnd4) (sat bf16 : Bool) (part : PackPart) :
    PackedGives (.hfma2 r rnd sat bf16 part) r part (fun s x k L => finishPacked bf16 rnd.toRnd sat 0
      (Fp.fma (decide (rnd = .rd)) (s.psrc x bf16 r.a k L) (s.psrc x bf16 r.b k L) (s.psrc x bf16 r.c k L))) :=
  packedWord_gives (fun _ => rfl) (fun _ _ _ _ => isRd_toRnd rnd ▸ rfl)

/-- HMNX2 delivers the code of the source element that is picked, or the canonical NaN. -/
theorem hmnx2_gives (r : RWord) (max nan bf16 : Bool) (part : PackPart) :
    PackedGives (.hmnx2 r max nan bf16 part) r part (fun s x k L =>
      (match minMaxPick max nan (s.psrc x bf16 r.a k L) (s.psrc x bf16 r.b k L) with
        | none => (packFmt bf16).nanCode
        | some a => s.pbits x (s.issuer x) (if a then r.a else r.b) (packFmt bf16) k L,
       snanFlag [s.psrc x bf16 r.a k L, s.psrc x bf16 r.b k L])) := by
  refine packedWord_gives (fun _ => rfl) (fun s x k L => ?_)
  simp only [State.psrc]
  cases minMaxPick max nan (s.pval x (s.issuer x) r.a (packFmt bf16) k L) (s.pval x (s.issuer x) r.b (packFmt bf16) k L) with
  | none => rfl
  | some a => cases a <;> rfl

/-- Settles O6, word by word. -/
theorem packedArithmetic : Obligations.PackedArithmetic :=
  ⟨fun _ rnd _ _ _ => packed2_gives (f := fun a b => a.add (decide (rnd = .rd)) b) (fun _ => isRd_eq rnd ▸ rfl),
    fun _ _ _ _ _ => packed2_gives (f := Fp.mul) (fun _ => rfl), hfma2_gives, hmnx2_gives⟩

/-! # Special functions (R174, R200–R203) -/

/-- A special function of one FP32 source. -/
theorem specialFn_gives {i : Instr} {r : RWord} {may : Word} {f : Bool → Nat → Fp → Word × Word}
    (hx : ∀ s, exec i s = s.issue i r.head (fun x => s.specialFn x r may f)) :
    SpecialGives i r.head 1 r.u r.d may (fun s x L =>
      let y := f x.ftz (s.fbits x (s.issuer x) r.a L).toNat (s.fsrc x r.a L)
      (y.1.toNat, y.2)) :=
  specialGives_of hx (fun _ _ _ => rfl)

/-- Settles O7: two words of two cycles a quarter, and the functions of one source. -/
theorem specialFunctions : Obligations.SpecialFunctions :=
  ⟨fun _ _ => specialGives_of (fun _ => rfl) (fun _ _ _ => rfl), fun _ _ => specialGives_of (fun _ => rfl) (fun _ _ _ => rfl),
    fun _ => specialFn_gives (fun _ => rfl), fun _ => specialFn_gives (fun _ => rfl),
    fun _ => specialFn_gives (fun _ => rfl), fun _ => specialFn_gives (fun _ => rfl), fun _ => specialFn_gives (fun _ => rfl),
    fun _ => specialFn_gives (fun _ => rfl), fun _ => specialFn_gives (fun _ => rfl)⟩

end Sys2Proof.Machine

/-! # The lane crossbar (R205–R216) -/

namespace Sys2Proof.Machine

/-! ## Lanes, segments and tables by key -/

theorem mem_lanesOf {m : LaneMask} {L : Nat} : L ∈ lanesOf m ↔ m.getLsbD L = true := by
  rw [lanesOf, List.mem_filter, lanes, List.mem_range]
  exact and_iff_right_of_imp BitVec.lt_of_getLsbD

/-- A lane that is added to a mask, or that it holds, is one of the new mask. -/
theorem getLsbD_foldl_lanes_of {l : List Nat} {m : LaneMask} {L : Nat} (hL : L < 32) (h : m.getLsbD L = true ∨ L ∈ l) :
    (l.foldl (fun m k => m ||| BitVec.ofNat 32 (2 ^ k)) m).getLsbD L = true := by
  induction l generalizing m with
  | nil => exact h.resolve_right List.not_mem_nil
  | cons k l ih =>
    refine ih ?_
    rw [BitVec.getLsbD_or, Bool.or_eq_true]
    rcases h with hm | hl
    · exact .inl (.inl hm)
    · rcases List.mem_cons.1 hl with rfl | hl
      · exact .inl (.inr (by rw [BitVec.getLsbD_ofNat, Nat.testBit_two_pow_self, Bool.and_true, decide_eq_true hL]))
      · exact .inr hl

/-- The lane that an active lane reads is one of the lanes read. -/
theorem mem_lanes_read {act : LaneMask} {from_ : Nat → Nat} {L : Nat} (hact : act.getLsbD L = true) (hL : from_ L < 32) :
    from_ L ∈ lanesOf (maskOfLanes ((lanesOf act).map from_)) :=
  mem_lanesOf.2 (getLsbD_foldl_lanes_of hL (.inr (List.mem_map_of_mem (mem_lanesOf.2 hact))))

theorem laneAll_getD (s : State) (x : Ctx) (c : Course) (n : Nat) {L : Nat} (hL : L < 32) :
    (s.laneAll x c n).getD L 0#32 = s.laneVal c x.sup n L := by
  simp [State.laneAll, lanes, hL]

/-- A table by key, read at a key that it has. -/
theorem find?_keyed {α : Type} {l : List Nat} (f : Nat → α) {a : Nat} (ha : a ∈ l) :
    (l.map (fun b => (b, f b))).find? (fun e => e.1 == a) = some (a, f a) := by
  induction l with
  | nil => cases ha
  | cons b l ih =>
    by_cases hb : b = a
    · subst hb
      exact List.find?_cons_of_pos (beq_self_eq_true b)
    · rw [List.map_cons, List.find?_cons_of_neg (by simpa using hb), ih (List.mem_of_ne_of_mem (Ne.symm hb) ha)]

theorem seg_size_dvd (g : Seg) : Seg.size g ∣ 32 := by
  cases g <;> decide

theorem segSize_dvd (s : State) (c : Course) (g : Seg) : s.segSize c g ∣ 32 := by
  rw [State.segSize]
  split
  · decide
  · exact seg_size_dvd g

/-- A left fold needs its function on the members only. -/
theorem foldl_congr_of {α β : Type} {f g : α → β → α} {l : List β} (h : ∀ a, ∀ b ∈ l, f a b = g a b) (a : α) :
    l.foldl f a = l.foldl g a := by
  induction l generalizing a with
  | nil => rfl
  | cons b t ih =>
    rw [List.foldl_cons, List.foldl_cons, h a b List.mem_cons_self]
    exact ih (fun a c hc => h a c (List.mem_cons_of_mem b hc)) _

theorem segBase_eq (S L : Nat) : segBase S L = L / S * S := (Nat.div_mul_self_eq_mod_sub_self).symm

/-- The segment of a lane ends within the lanes. -/
theorem segBase_add_le {S L : Nat} (hS : S ∣ 32) (hL : L < 32) : segBase S L + S ≤ 32 := by
  calc segBase S L + S = (L / S + 1) * S := by rw [segBase_eq, Nat.succ_mul]
    _ ≤ 32 / S * S := Nat.mul_le_mul_right S (Nat.div_lt_div_of_lt_of_dvd hS hL)
    _ = 32 := Nat.div_mul_cancel hS

theorem mem_segLanes_segBase {S : Nat} (hS : S ∣ 32) (L : Nat) : L ∈ segLanes S (segBase S L) :=
  List.mem_map.2 ⟨L % S, List.mem_range.2 (Nat.mod_lt L (Nat.pos_of_dvd_of_pos hS (by decide))),
    Nat.sub_add_cancel (Nat.mod_le L S)⟩

/-- The segment of an active lane is one of those that hold an active lane. -/
theorem segBase_mem_segBases {S L : Nat} {act : LaneMask} (hS : S ∣ 32) (hact : act.getLsbD L = true) :
    segBase S L ∈ segBases S act := by
  refine List.mem_filter.2 ⟨List.mem_map.2 ⟨L / S, List.mem_range.2 ?_, (segBase_eq S L).symm⟩,
    List.any_eq_true.2 ⟨L, mem_segLanes_segBase hS L, hact⟩⟩
  exact Nat.div_lt_div_of_lt_of_dvd hS (BitVec.lt_of_getLsbD hact)

/-! ## How a crossbar word issues -/

section
variable {s : State} {x : Ctx} {k : Nat} {u : Bool} {d w : Nat} {may : Word} {rs : Nat → Nat} {fl : Word}

theorem crossbarWord_idle (hact : x.act = 0#32) (hfree : crossbarFree s x) : s.crossbarWord x k u d w may rs fl = .go s :=
  (if_neg (Nat.not_lt.2 hfree)).trans (if_pos hact)

theorem crossbarWord_free (hact : x.act ≠ 0#32) (hfree : crossbarFree s x) : s.crossbarWord x k u d w may rs fl =
    (occupyCrossbar k s x).lateWord x .crossbar u d w may (fun L => (rs L, fl)) :=
  (if_neg (Nat.not_lt.2 hfree)).trans (if_neg hact)

end

/-- A word that keeps a value and flags for each segment with an active lane, and delivers in each lane what val reads of its
segment's (R207). -/
theorem segmentGives_of {α : Type} {i : Instr} {h : Head} {u : Bool} {d : BitVec 8} {w k : Nat} {may : Word}
    {S : State → Ctx → Nat} {f : State → Ctx → Nat → α} {val : α → Nat} {fl : α → Word} (hS : ∀ s x, S s x ∣ 32)
    (hx : ∀ s, exec i s = s.issue i h (fun x =>
      let rs := (segBases (S s x) x.act).map (fun b => (b, f s x b))
      s.crossbarWord x k u d.toNat w may
        (fun L => ((rs.find? (fun e => e.1 == segBase (S s x) L)).map (fun e => val e.2)).getD 0)
        (rs.foldl (fun a e => a ||| fl e.2) 0#32))) :
    CrossbarGives i h k u d w may (fun s x L => val (f s x (segBase (S s x) L)))
      (fun s x => (segBases (S s x) x.act).foldl (fun a b => a ||| fl (f s x b)) 0#32) := by
  refine crossbarGives_of hx (fun s x L _ hL => ?values) (fun s x _ => ?flags)
  case values =>
    obtain ⟨-, hact⟩ := mem_computing hL
    simp only [find?_keyed _ (segBase_mem_segBases (hS s x) hact), Option.map_some, Option.getD_some]
  case flags => exact List.foldl_map ..

/-! ## SHFL (R208, R211) -/

/-- A lane reads a lane of its segment, or itself. -/
theorem shflLane_lt {mode : ShflMode} {S b L : Nat} {w16 : Bool} (hS : S ∣ 32) (hL : L < 32) : shflLane mode S w16 b L < 32 := by
  have hend := segBase_add_le hS hL
  have hpick : ∀ j : Int, (if j < segBase S L || (segBase S L + S : Nat) ≤ j then L
      else if w16 && 16 ≤ j then L else j.toNat) < 32 := by
    intro j
    split
    · exact hL
    · rename_i hin
      simp only [Bool.or_eq_true, decide_eq_true_eq, not_or] at hin
      split
      · exact hL
      · omega
  exact hpick _

section
variable (r : RWord) (mode : ShflMode) (seg : Seg)

/-- The lane that SHFL reads for lane L. -/
def shflFrom (s : State) (x : Ctx) (L : Nat) : Nat :=
  shflLane mode (Seg.size seg) (s.lrOf (s.issuer x)).width16 (s.src x r.b 1 L) L

/-- The lanes that SHFL reads. -/
def shflReads (s : State) (x : Ctx) : LaneMask := maskOfLanes ((lanesOf x.act).map (shflFrom r mode seg s x))

/-- The source register of SHFL is full, and not poisoned, in every lane that it reads. -/
def shflClean (s : State) (x : Ctx) : Prop := ∀ L, x.act.getLsbD L = true →
  ((s.issuer x).laneCell x.sup r.a.field.toNat (shflFrom r mode seg s x L)).empty = false ∧
  s.lanePoison (s.issuer x) x.sup r.a.field.toNat (shflFrom r mode seg s x L) = false

/-- What SHFL comes to where its sources are full and clean. -/
def shflMove (s : State) (x : Ctx) : Res :=
  s.crossbarWord x 1 false r.d.toNat 1 0#32
    (fun L => ((s.laneAll x (s.issuer x) r.a.field.toNat).getD (shflFrom r mode seg s x L) 0#32).toNat) 0#32

/-- What SHFL comes to: first the empty bits, then poison (R208). -/
def shflBody (s : State) (x : Ctx) : Res :=
  if (s.issuer x).laneEmpty x.sup r.a.field.toNat (shflReads r mode seg s x) then
    if r.head.e then .trap (x.trap 0x09) else .block true
  else
    match ((lanesOf (shflReads r mode seg s x)).find? (fun L => s.lanePoison (s.issuer x) x.sup r.a.field.toNat L)).map
      (fun L => (L, r.a.field.toNat)), s.fieldPoison (s.issuer x) x r.b.reg1Imm with
    | some p, _ | none, some p => .trap (x.dataError p)
    | none, none => shflMove r mode seg s x

theorem exec_shfl (s : State) : exec (.shfl r mode seg) s = s.issue (.shfl r mode seg) r.head (shflBody r mode seg s) := rfl

variable {r mode seg} {s : State} {x : Ctx}

theorem shflFrom_lt {L : Nat} (hL : L < 32) : shflFrom r mode seg s x L < 32 := shflLane_lt (seg_size_dvd seg) hL

theorem shflBody_empty {L : Nat} (hact : x.act.getLsbD L = true)
    (hempty : ((s.issuer x).laneCell x.sup r.a.field.toNat (shflFrom r mode seg s x L)).empty = true) :
    shflBody r mode seg s x = if r.head.e then .trap (x.trap 0x09) else .block true := by
  have hread : shflFrom r mode seg s x L ∈ lanesOf (shflReads r mode seg s x) :=
    mem_lanes_read hact (shflFrom_lt (BitVec.lt_of_getLsbD hact))
  have hany : (s.issuer x).laneEmpty x.sup r.a.field.toNat (shflReads r mode seg s x) = true :=
    List.any_eq_true.2 ⟨_, hread, hempty⟩
  rw [shflBody, if_pos hany]

theorem shflBody_clean (hlane : s.fieldPoison (s.issuer x) x r.b.reg1Imm = none) (hsource : shflClean r mode seg s x) :
    shflBody r mode seg s x = shflMove r mode seg s x := by
  have hread := forall_lanes_read (p := fun k => ((s.issuer x).laneCell x.sup r.a.field.toNat k).empty = false ∧
    s.lanePoison (s.issuer x) x.sup r.a.field.toNat k = false) hsource
  have hfull : (s.issuer x).laneEmpty x.sup r.a.field.toNat (shflReads r mode seg s x) = false :=
    List.any_eq_false.2 (fun k hk => Bool.eq_false_iff.1 (hread k hk).1)
  have hclean : (lanesOf (shflReads r mode seg s x)).find?
      (fun k => s.lanePoison (s.issuer x) x.sup r.a.field.toNat k) = none :=
    List.find?_eq_none.2 (fun k hk => Bool.eq_false_iff.1 (hread k hk).2)
  rw [shflBody, hfull, hclean, hlane]
  rfl

/-- With no active lane no field is found poisoned. -/
theorem fieldPoison_idle (c : Course) (f : Field) (hact : x.act = 0#32) : s.fieldPoison c x f = none := by
  have hnone : lanesOf x.act = [] := by rw [hact]; decide
  cases f <;> simp [State.fieldPoison, hnone]

variable (r mode seg)

theorem shfl_empty : DoesIf (.shfl r mode seg) r.head
    (fun s x => ∃ L, L < 32 ∧ x.act.getLsbD L = true ∧
      ((s.issuer x).laneCell x.sup r.a.field.toNat (shflFrom r mode seg s x L)).empty = true)
    (fun s x => if r.head.e then s.trapped x (x.trap 0x09) else s.blocked x true) := by
  rintro s hp ⟨L, -, hact, hempty⟩
  rw [exec_of_passes (exec_shfl r mode seg s) hp, shflBody_empty hact hempty]
  cases r.head.e <;> rfl

theorem shfl_moves : LateDoes (.shfl r mode seg) r.head .crossbar
    (fun s x => crossbarFree s x ∧ s.fieldPoison (s.issuer x) x r.b.reg1Imm = none ∧ shflClean r mode seg s x)
    (occupyCrossbar 1) false r.d 1 (fun _ _ => 0#32)
    (fun s x L => (s.laneVal (s.issuer x) x.sup r.a.field.toNat (shflFrom r mode seg s x L)).toNat) (fun _ _ => 0#32) := by
  refine crossbarDoes_of (exec_shfl r mode seg) (fun s x hact hfree => ?idle)
    (fun s x _ ⟨hfree, hlane, hsource⟩ => ⟨hfree, shflBody_clean hlane hsource⟩) (fun s x L _ _ hL => ?values) (fun _ _ _ _ => rfl)
  case idle =>
    have hnone : ∀ L, x.act.getLsbD L ≠ true := by simp [hact]
    rw [shflBody_clean (fieldPoison_idle _ _ hact) (fun L hL => absurd hL (hnone L))]
    exact crossbarWord_idle hact hfree
  case values =>
    rw [laneAll_getD _ _ _ _ (shflFrom_lt (mem_computing hL).1)]

end

/-! ## VOTE (R212) -/

/-- The first of the values of the active lanes is that of the lowest. -/
theorem headD_lanesOf {act : LaneMask} (hact : act ≠ 0#32) (f : Nat → Word) :
    ((lanesOf act).map f).headD 0#32 = f (lowestLane act) := by
  rw [lowestLane]
  cases hl : lanesOf act with
  | nil => exact absurd (eq_zero_of_lanesOf hl) hact
  | cons L t => rfl

theorem vote_gives (r : RWord) (mode : VoteMode) : CrossbarGives (.vote r mode) r.head 1 true r.d 1 0#32 (fun s x _ =>
    let m := s.maskVal (s.issuer x) r.a.field.toNat &&& x.act
    match mode with
    | .mask => m.toNat
    | .count => popCount m
    | .first => lowestLane m
    | .some => if m = 0#32 then 0 else 1
    | .every => if m = x.act then 1 else 0
    | .same => if (lanesOf x.act).all (fun L => s.laneVal (s.issuer x) x.sup r.a.field.toNat L ==
        s.laneVal (s.issuer x) x.sup r.a.field.toNat (lowestLane x.act)) then 1 else 0) (fun _ _ => 0#32) := by
  refine crossbarGives_of (fun _ => rfl) (fun s x L hact _ => ?_) (fun _ _ _ => rfl)
  cases mode with
  | mask | count | first => rfl
  | some => simp [b2n]
  | every => simp [b2n]
  | same => simp only [b2n, headD_lanesOf hact, List.all_map, Function.comp_def]

/-! ## REDUX and SCAN (R213–R216) -/

/-- What REDUX delivers in the segment from lane b, its value with the lane of R214 above it, and its flags. -/
def reduxSegment (r : RWord) (op : RedOp) (seg : Seg) (s : State) (x : Ctx) (b : Nat) : Nat × Word :=
  let S := s.segSize (s.issuer x) seg
  let vs := s.laneAll x (s.issuer x) r.a.field.toNat
  let y := RedOp.reduce x.ftz op S (segValues vs x.act S b)
  let mine := (segLanes S b).filter (fun L => x.act.getLsbD L)
  let i := if RedOp.isFp op && isNan32 y.1 then mine.headD 0
    else (mine.find? (fun L => RedOp.source x.ftz op (vs.getD L 0#32) == y.1)).getD 0
  (y.1.toNat + i * 2 ^ 32, y.2)

theorem redux_gives (r : RWord) (op : RedOp) (idx : Bool) (seg : Seg) :
    CrossbarGives (.redux r op idx seg) r.head 1 r.u r.d (if idx then 2 else 1) (RedOp.may op)
      (fun s x L => (reduxSegment r op seg s x (segBase (s.segSize (s.issuer x) seg) L)).1)
      (fun s x => (segBases (s.segSize (s.issuer x) seg) x.act).foldl (fun a b => a ||| (reduxSegment r op seg s x b).2) 0#32) :=
  segmentGives_of (f := reduxSegment r op seg) (val := Prod.fst) (fl := Prod.snd) (fun s x => segSize_dvd s (s.issuer x) seg)
    (fun _ => rfl)

/-- The values of the lanes of its segment that SCAN combines for lane L. -/
def scanUpTo (r : RWord) (excl : Bool) (seg : Seg) (s : State) (x : Ctx) (L : Nat) : List (Option Word) :=
  let S := s.segSize (s.issuer x) seg
  (segValues (s.laneAll x (s.issuer x) r.a.field.toNat) x.act S (segBase S L)).take (L - segBase S L + (if excl then 0 else 1))

theorem scan_gives (r : RWord) (op : RedOp) (excl : Bool) (seg : Seg) :
    CrossbarGives (.scan r op excl seg) r.head 1 false r.d 1 (RedOp.may op)
      (fun s x L => (RedOp.scanAt x.ftz op (scanUpTo r excl seg s x L)).1.toNat)
      (fun s x => (lanesOf x.act).foldl (fun a L => a ||| (RedOp.scanAt x.ftz op (scanUpTo r excl seg s x L)).2)
        (RedOp.sourceFlags op ((lanesOf x.act).map (fun L => (s.laneAll x (s.issuer x) r.a.field.toNat).getD L 0#32)))) := by
  refine crossbarGives_of (fun _ => rfl) (fun s x L _ hL => ?values) (fun s x _ => ?flags)
  case values =>
    obtain ⟨-, hact⟩ := mem_computing hL
    rw [find?_keyed _ (mem_lanesOf.2 hact)]
    rfl
  case flags => exact List.foldl_map ..

/-- Settles O8, word by word. -/
theorem crossLane : Obligations.CrossLane :=
  ⟨fun r mode seg => (shfl_moves r mode seg).1, shfl_empty, fun r mode seg => (shfl_moves r mode seg).2, vote_gives, redux_gives,
    scan_gives⟩

end Sys2Proof.Machine

/-! # HDM, the quantiser and the packing words (R217–R222) -/

namespace Sys2Proof.Machine

/-! ## The values of a segment -/

section
variable (s : State) (x : Ctx) (c : Course) (n S b : Nat)

theorem laneAll_getD_active {L : Nat} (hact : x.act.getLsbD L = true) :
    (s.laneAll x c n).getD L 0#32 = s.laneVal c x.sup n L := laneAll_getD s x c n (BitVec.lt_of_getLsbD hact)

/-- A segment's values by position: what g makes of each active lane's value, and of none. -/
theorem map_segValues {α : Type} (g : Option Word → α) : (segValues (s.laneAll x c n) x.act S b).map g =
    (List.range S).map (fun p => if x.act.getLsbD (b + p) then g (some (s.laneVal c x.sup n (b + p))) else g none) := by
  rw [segValues, segLanes, List.map_map, List.map_map]
  refine List.map_congr_left (fun p _ => ?_)
  dsimp only [Function.comp_apply]
  split
  · rename_i hact
    rw [laneAll_getD_active s x c n hact]
  · rfl

/-- The values of the active lanes of a segment. -/
theorem filterMap_segValues : (segValues (s.laneAll x c n) x.act S b).filterMap (fun v => v) =
    ((List.range S).filter (fun p => x.act.getLsbD (b + p))).map (fun p => s.laneVal c x.sup n (b + p)) := by
  have hvalues := map_segValues s x c n S b (fun v => v)
  rw [List.map_id'] at hvalues
  rw [hvalues]
  induction List.range S with
  | nil => rfl
  | cons p l ih =>
    cases hact : x.act.getLsbD (b + p) <;> simp [hact, ih]

end

/-! ## HDM and QMAX (R217, R218) -/

/-- The value and the flags of HDM in lane L, in segments of S lanes. -/
def hdmAt (r : RWord) (scale : HdmScale) (S : Nat) (s : State) (x : Ctx) (L : Nat) : Word × Word :=
  (hdmVals x.ftz scale S ((List.range S).map (fun p =>
    if x.act.getLsbD (segBase S L + p) then flush32 x.ftz (s.laneVal (s.issuer x) x.sup r.a.field.toNat (segBase S L + p))
    else 0#32))).getD (L % S) (0#32, 0#32)

/-- The values that HDM keeps of the segment from lane b, by position. -/
def hdmSegment (r : RWord) (seg : Seg) (scale : HdmScale) (s : State) (x : Ctx) (b : Nat) : List (Word × Word) :=
  let S := s.segSize (s.issuer x) seg
  hdmVals x.ftz scale S ((segValues (s.laneAll x (s.issuer x) r.a.field.toNat) x.act S b).map (fun v => match v with
    | some w => flush32 x.ftz w
    | none => 0#32))

/-- What HDM reads of them for lane L. -/
def hdmRead (r : RWord) (seg : Seg) (scale : HdmScale) (s : State) (x : Ctx) (L : Nat) : Word × Word :=
  let S := s.segSize (s.issuer x) seg
  ((((segBases S x.act).map (fun b => (b, hdmSegment r seg scale s x b))).find? (fun e => e.1 == segBase S L)).map (fun e =>
    e.2.getD (L % S) (0#32, 0#32))).getD (0#32, 0#32)

theorem hdmRead_eq {r : RWord} {seg : Seg} {scale : HdmScale} {s : State} {x : Ctx} {L : Nat} (hact : x.act.getLsbD L = true) :
    hdmRead r seg scale s x L = hdmAt r scale (s.segSize (s.issuer x) seg) s x L := by
  rw [hdmRead, find?_keyed _ (segBase_mem_segBases (segSize_dvd ..) hact), Option.map_some, Option.getD_some, hdmSegment,
    map_segValues]
  rfl

theorem hdm_gives (r : RWord) (seg : Seg) (scale : HdmScale) :
    CrossbarGives (.hdm r seg scale) r.head 2 false r.d 1 (flNV ||| flOF ||| flUF ||| flNX)
      (fun s x L => (hdmAt r scale (s.segSize (s.issuer x) seg) s x L).1.toNat)
      (fun s x => (lanesOf x.act).foldl (fun a L => a ||| (hdmAt r scale (s.segSize (s.issuer x) seg) s x L).2) 0#32) := by
  refine crossbarGives_of (v := fun s x L => (hdmRead r seg scale s x L).1.toNat)
    (fl := fun s x => (lanesOf x.act).foldl (fun a L => a ||| (hdmRead r seg scale s x L).2) 0#32)
    (fun _ => rfl) (fun s x L _ hL => ?values) (fun s x _ => ?flags)
  case values =>
    rw [hdmRead_eq (mem_computing hL).2]
  case flags => exact foldl_congr_of (fun a L hL => by rw [hdmRead_eq (mem_lanesOf.1 hL)]) _

/-- What QMAX keeps of the segment from lane b. -/
def qmaxSegment (r : RWord) (ty : QmaxType) (seg : Seg) (s : State) (x : Ctx) (b : Nat) : Word × Word :=
  qmaxVal ty x.ftz ((segValues (s.laneAll x (s.issuer x) r.a.field.toNat) x.act (s.segSize (s.issuer x) seg) b).filterMap
    (fun v => v))

theorem qmax_gives (r : RWord) (ty : QmaxType) (seg : Seg) :
    CrossbarGives (.qmax r ty seg) r.head 1 false r.d 1 (if ty = .i32 then 0#32 else flNV)
      (fun s x L => (qmaxSegment r ty seg s x (segBase (s.segSize (s.issuer x) seg) L)).1.toNat)
      (fun s x => (segBases (s.segSize (s.issuer x) seg) x.act).foldl (fun a b => a ||| (qmaxSegment r ty seg s x b).2) 0#32) :=
  segmentGives_of (f := qmaxSegment r ty seg) (val := fun y => y.1.toNat) (fl := Prod.snd)
    (fun s x => segSize_dvd s (s.issuer x) seg) (fun _ => rfl)

/-! ## QSCALE, QNT and DEQ (R219–R221) -/

/-- The format that register fm of the course holds. -/
def heldFormat (fm : BitVec 3) (s : State) (x : Ctx) : Fmt := fmtOfReg ((s.issuer x).fmReg fm.toNat)

/-- A word of the quantiser with a valid format register computes v in each lane, in the format that the register holds. -/
def QuantiserGives (i : Instr) (r : RWord) (fm : BitVec 3) (k : Nat) (u : Bool) (may : Fmt → Word)
    (v : Fmt → State → Ctx → Nat → Nat × Word) : Prop :=
  LateDoes i r.head .crossbar (fun s x => crossbarFree s x ∧ fmtValid ((s.issuer x).fmReg fm.toNat) = true)
    (occupyCrossbar k) u r.d 1 (fun s x => may (heldFormat fm s x)) (fun s x L => (v (heldFormat fm s x) s x L).1)
    (fun s x => flagsOf x u (fun L => (v (heldFormat fm s x) s x L).2))

/-- A table of the lanes that compute, read in one of them. -/
theorem find?_each {x : Ctx} {u : Bool} {L : Nat} (f : Nat → Nat × Word) (hL : L ∈ computing u x.act) :
    (((x.each u f).find? (fun e => e.1 == L)).map (fun e => e.2.1)).getD 0 = (f L).1 := by
  rw [Ctx.each, span_eq, find?_keyed f hL]
  rfl

theorem quantiserGives_of {i : Instr} {r : RWord} {fm : BitVec 3} {k : Nat} {u : Bool} {may : Fmt → Word}
    {v : Fmt → State → Ctx → Nat → Nat × Word}
    (hx : ∀ s, exec i s = s.issue i r.head (fun x =>
      s.withFormat x fm.toNat (fun f => s.crossbarEach x k u r.d.toNat (may f) (v f s x)))) :
    QuantiserGives i r fm k u may v :=
  lateDoes_of hx (fun _ _ hact hfree => (withFormat_valid (.inl hact)).trans (crossbarWord_idle hact hfree))
    (fun _ _ hact ⟨hfree, hvalid⟩ => (withFormat_valid (.inr hvalid)).trans (crossbarWord_free hact hfree))
    (fun _ _ _ _ _ hL => find?_each _ hL) (fun _ _ hact _ => (flagsOf_const u _ hact).trans (flags_each ..))

section
variable (r : RWord)

theorem qscale_gives (out : QscaleOut) (fm : BitVec 3) : QuantiserGives (.qscale r out fm) r fm 1 r.u
    (fun f => qscaleMay out f.maxMag) (fun f s x L => qscaleVal x.ftz out f.maxMag (s.fsrc x r.a L)) :=
  quantiserGives_of (fun _ => rfl)

theorem qnt_gives (rnd : Rnd) (sat : Bool) (fm : BitVec 3) : QuantiserGives (.qnt r rnd sat fm) r fm 2 false (qntMay sat)
    (fun f s x L =>
      let q := (s.fsrc x r.a L).div (s.fsrc x r.b L)
      let y := f.round rnd sat (s.src x r.c 1 L % 2 ^ 16) q.1
      (y.1, q.2 ||| y.2)) :=
  quantiserGives_of (fun _ => rfl)

theorem deq_gives (rnd : Rnd4) (fm : BitVec 3) : QuantiserGives (.deq r rnd fm) r fm 1 false deqMay
    (fun f s x L => finish32 x.ftz rnd.toRnd false 0 ((f.value (s.src x r.a 1 L)).mul (s.fsrc x r.b L))) :=
  quantiserGives_of (fun _ => rfl)

end

/-! ## PACK and UNPACK (R222) -/

theorem pack_gives (r : RWord) (w : PackWidth) : CrossbarGives (.pack r w) r.head 1 false r.d 1 0#32 (fun s x L =>
    let k := PackWidth.bits w
    let g := 32 / k
    (List.range g).foldl (fun y i =>
      if x.act.getLsbD (segBase g L + i) then
        y + (s.laneVal (s.issuer x) x.sup r.a.field.toNat (segBase g L + i)).toNat % 2 ^ k * 2 ^ (k * i)
      else y) 0)
    (fun _ _ => 0#32) := by
  refine crossbarGives_of (fun _ => rfl) (fun s x L _ _ => foldl_congr_of (fun y i _ => ?_) 0) (fun _ _ _ => rfl)
  dsimp only
  split
  · rename_i hact
    rw [laneAll_getD_active _ _ _ _ hact]
  · rfl

theorem unpack_gives (r : RWord) (w : PackWidth) (sx : Bool) : CrossbarGives (.unpack r w sx) r.head 1 false r.d 1 0#32
    (fun s x L =>
      let k := PackWidth.bits w
      let e := (s.laneVal (s.issuer x) x.sup r.a.field.toNat L).toNat / 2 ^ (k * (L % (32 / k))) % 2 ^ k
      if sx then intBits (signExt e k) 32 else e)
    (fun _ _ => 0#32) := by
  refine crossbarGives_of (fun _ => rfl) (fun s x L _ hL => ?_) (fun _ _ _ => rfl)
  rw [laneAll_getD _ _ _ _ (mem_computing hL).1]

/-- Settles O9, word by word. -/
theorem quantiser : Obligations.Quantiser := by
  refine ⟨hdm_gives, fun r ty seg _ => ?qmax, qscale_gives, qnt_gives, deq_gives, pack_gives, unpack_gives⟩
  case qmax => simpa only [qmaxSegment, filterMap_segValues] using qmax_gives r ty seg

end Sys2Proof.Machine

/-! # Distributions (R225–R246) -/

namespace Sys2Proof.Machine

/-! ## How a distribution word issues (R225, R228) -/

section
variable {s : State} {x : Ctx} {k d : Nat} {tag : Bool} {may : Word} {body : State → Res} {f : Nat → DCell × Word}

theorem withDist_idle (hact : x.act = 0#32) (hfree : distFree s x) : s.withDist x k body = .go s :=
  (if_neg (Nat.not_lt.2 hfree)).trans (if_pos hact)

theorem withDist_free (hact : x.act ≠ 0#32) (hfree : distFree s x) : s.withDist x k body = body (occupyDist k s x) :=
  (if_neg (Nat.not_lt.2 hfree)).trans (if_neg hact)

theorem distWord_free (hact : x.act ≠ 0#32) (hfree : distFree s x) : s.distWord x k d tag may f =
    .go (((occupyDist k s x).addPend x .dist (.values ((lanesOf x.act).map (fun L => .dist d L (f L).1))) []
      (flagsOf x false (fun L => (f L).2)) may).onCourse x.crs (fun c => (if tag then c.takeTag else c).markDist d x.act)) := by
  rw [State.distWord, withDist_free hact hfree]
  simp only [List.map_map, List.foldl_map, Function.comp_def]
  rfl

end

section
variable {i : Instr} {h : Head}

/-- A word whose body delivers to a distribution register. -/
theorem distMakes_of {k : State → Ctx → Nat} {d : BitVec 8} {tag : State → Ctx → Bool} {may : Word}
    {v : State → Ctx → Nat → DCell × Word}
    (hx : ∀ s, exec i s = s.issue i h (fun x => s.distWord x (k s x) d.toNat (tag s x) may (v s x))) :
    DistMakes i h k d tag may v := by
  constructor
  · rintro s hp ⟨hact, hfree⟩
    rw [exec_of_passes (hx s) hp, State.distWord, withDist_idle hact hfree]
    rfl
  · rintro s hp ⟨hact, hfree⟩
    rw [exec_of_passes (hx s) hp, distWord_free hact hfree]
    rfl

/-- A word whose body delivers to a lane register, with the value known lane by lane. -/
theorem distGives_of {k : Nat} {d : BitVec 8} {may : Word} {f v : State → Ctx → Nat → Nat × Word}
    (hx : ∀ s, exec i s = s.issue i h (fun x => s.distOut x k d.toNat may (f s x))) (hv : ∀ s x L, f s x L = v s x L) :
    DistGives i h k d may v :=
  lateDoes_of hx (fun _ _ hact hfree => withDist_idle hact hfree) (fun _ _ hact hfree => withDist_free hact hfree)
    (fun s x L _ _ _ => congrArg Prod.fst (hv s x L))
    (fun s x _ _ => congrArg (flagsOf x false) (funext (fun L => congrArg Prod.snd (hv s x L))))

end

/-! ## Words that make a distribution (R235, R238–R240) -/

/-- DMK can set DNR only where it reads weights. -/
theorem dmk_makes (r : RWord) (eq : Bool) :
    DistMakes (.dmk r eq) r.head (fun _ _ => 4) r.d (fun _ _ => true) (if eq then flNV else flDNR ||| flNV) (fun s x L =>
      let xs := (List.range 8).map (fun i => flush32 x.ftz (s.laneVal (s.issuer x) x.sup (r.a.field.toNat + i) L))
      let us := (List.range 8).map (fun i =>
        s.src x { r.b with field := r.b.field + BitVec.ofNat 8 (i / 2) } 1 L / 2 ^ (16 * (i % 2)) % 2 ^ 16)
      let w := if eq then (flatWeights, false) else dmkWeights us
      ({ x := xs, w := w.1, tag := (s.issuer x).tagCtr, mis := w.2 }, flIf w.2 flDNR ||| flIf (xs.any isSnan32) flNV)) := by
  have hmay : (if eq then flNV else flDNR ||| flNV) = flIf (!eq) flDNR ||| flNV := by cases eq <;> rfl
  rw [hmay]
  exact distMakes_of (fun _ => rfl)

/-- Some active lane holds operands A and B with different tags: it combines all pairs (R230, R238). -/
def tagsDiffer (r : RWord) (s : State) (x : Ctx) : Bool :=
  (lanesOf x.act).any (fun L =>
    ((s.issuer x).dsource x.ftz r.a.field.toNat L).tag != ((s.issuer x).dsource x.ftz r.b.field.toNat L).tag)

/-- A binary word takes longer, and a fresh tag, where the tags of its operands differ in some lane. -/
theorem binaryDist_makes {i : Instr} {r : RWord} {may : Word} {f : Ctx → Word → Word → Word × Word}
    (hx : ∀ s, exec i s = s.issue i r.head (fun x => s.binaryDist x r may (f x))) :
    DistMakes i r.head (fun s x => if tagsDiffer r s x then 32 else 4) r.d (tagsDiffer r) may (fun s x L =>
      combineDist x.ftz (f x) (s.issuer x).tagCtr ((s.issuer x).dsource x.ftz r.a.field.toNat L)
        ((s.issuer x).dsource x.ftz r.b.field.toNat L)) :=
  distMakes_of hx

/-- A distribution with each point mapped, its weights, tag and FLAGS kept, and the flags of all eight points (R239). -/
def mapPoints (d : DCell) (f : Word → Word × Word) : DCell × Word :=
  ({ d with x := d.x.map (fun w => (f w).1) }, d.x.foldl (fun a w => a ||| (f w).2) 0#32)

theorem pointwise_eq (s : State) (x : Ctx) (r : RWord) (may : Word) (f : Nat → Word → Word × Word) :
    s.pointwise x r may f = s.distWord x 4 r.d.toNat false may (fun L =>
      mapPoints ((s.issuer x).dsource x.ftz r.a.field.toNat L) (f L)) := by
  simp only [State.pointwise, mapPoints, List.map_map, List.foldl_map, Function.comp_def]

/-- A word that maps each point takes no tag. -/
theorem pointwise_makes {i : Instr} {r : RWord} {may : Word} {f : State → Ctx → Nat → Word → Word × Word}
    (hx : ∀ s, exec i s = s.issue i r.head (fun x => s.pointwise x r may (f s x))) :
    DistMakes i r.head (fun _ _ => 4) r.d (fun _ _ => false) may (fun s x L =>
      mapPoints ((s.issuer x).dsource x.ftz r.a.field.toNat L) (f s x L)) :=
  distMakes_of (fun s => (hx s).trans (congrArg (s.issue i r.head) (funext (fun x => pointwise_eq s x r may (f s x)))))

/-- Settles O10, word by word: DMK, DSET, the binary words, the pointwise words, and those that condense or retag. -/
theorem distributionValues : Obligations.DistributionValues :=
  ⟨dmk_makes, fun _ => distMakes_of (fun _ => rfl),
    fun _ => binaryDist_makes (fun _ => rfl), fun _ => binaryDist_makes (fun _ => rfl), fun _ => binaryDist_makes (fun _ => rfl),
    fun _ => binaryDist_makes (f := fun _ => minMaxNan false) (fun _ => rfl),
    fun _ => binaryDist_makes (f := fun _ => minMaxNan true) (fun _ => rfl),
    fun _ fn => pointwise_makes (f := fun _ x _ w => dmapVal fn x.ftz w) (fun _ => rfl),
    fun _ => pointwise_makes (fun _ => rfl),
    fun _ => distMakes_of (fun _ => rfl), fun _ => distMakes_of (fun _ => rfl), fun _ => distMakes_of (fun _ => rfl),
    fun _ => distMakes_of (fun _ => rfl)⟩

/-! ## Words that read a number (R236, R243–R246) -/

/-- What is added up where a test holds is the sum over the members that pass it. -/
theorem foldl_add_if {α : Type} (p : α → Bool) (w : α → Nat) (l : List α) :
    l.foldl (fun m a => if p a then m + w a else m) 0 = ((l.filter p).map w).sum := by
  rw [List.sum_eq_foldl, List.foldl_map, List.foldl_filter]

/-- Is a point's value a number below b, or under .le equal to it? -/
def countedBelow (le : Bool) (b : Fp) (p : Point) : Bool :=
  let v := f32 false p.2.1
  !v.isNan && (v.cmp b == .lt || (le && v.cmp b == .eq))

/-- DCDF adds up the weights of the points that it counts. -/
theorem dcdf_gives (r : RWord) (le : Bool) : DistGives (.dcdf r le) r.head 4 r.d flNV (fun s x L =>
    let b := s.fsrc x r.b L
    if b.isNan then (0x7FC00000, snanFlag [b])
    else
      let below := ((s.issuer x).dsource x.ftz r.a.field.toNat L).points.filter (countedBelow le b)
      ((toF32 false .rne false 0 (.fin (Rat3.scaled false ((below.map (fun p => p.2.2)).sum) (-15)))).1.toNat, 0#32)) := by
  refine distGives_of (fun _ => rfl) (fun s x L => ?_)
  dsimp only
  rw [← foldl_add_if (countedBelow le (s.fsrc x r.b L)) (fun p => p.2.2)]
  rfl

/-- Settles O11, word by word; only DCDF computes in another order than the statement says. -/
theorem distributionReads : Obligations.DistributionReads :=
  ⟨fun _ _ => distGives_of (fun _ => rfl) (fun _ _ _ => rfl), fun _ _ => distGives_of (fun _ => rfl) (fun _ _ _ => rfl),
    fun _ _ => distGives_of (fun _ => rfl) (fun _ _ _ => rfl), dcdf_gives,
    fun _ => distGives_of (fun _ => rfl) (fun _ _ _ => rfl)⟩

end Sys2Proof.Machine

/-! # Local memories (R249, R250, R252, R253, R256–R260) -/

namespace Sys2Proof.Machine

/-! ## The lowest lane that fails -/

/-- The lanes of a mask ascend. -/
theorem lanesOf_pairwise_lt (m : LaneMask) : (lanesOf m).Pairwise (· < ·) := List.pairwise_lt_range.filter _

/-- In the lanes of a mask, a search that answers in one lane and in none below it answers what it does there. -/
theorem findSome?_lanesOf {α : Type} {m : LaneMask} {f : Nat → Option α} {L : Nat} {a : α} (hL : L ∈ lanesOf m)
    (ha : f L = some a) (hbelow : ∀ l ∈ lanesOf m, l < L → f l = none) : (lanesOf m).findSome? f = some a := by
  have hsorted := lanesOf_pairwise_lt m
  obtain ⟨below, above, hsplit⟩ := List.append_of_mem hL
  rw [hsplit] at hsorted hbelow
  have hlt : ∀ l ∈ below, l < L := fun l hl => (List.pairwise_append.1 hsorted).2.2 l hl L List.mem_cons_self
  exact List.findSome?_eq_some_iff.2 ⟨below, L, above, hsplit, ha, fun l hl =>
    hbelow l (List.mem_append_left _ hl) (hlt l hl)⟩

/-! ## The checks of R257 -/

/-- The effective address of a local word in lane L. -/
abbrev localAddr (m : MWord) (s : State) (x : Ctx) (L : Nat) : Int := s.effAddr x (s.issuer x) m 1 L

/-- Lane L's address is not a multiple of al. -/
def localMisaligned (m : MWord) (al : Nat) (s : State) (x : Ctx) (L : Nat) : Prop := localAddr m s x L % (al : Int) ≠ 0

/-- The n bytes at lane L's address lie in the space. -/
def localInside (m : MWord) (reach : Reach) (n : Nat) (s : State) (x : Ctx) (L : Nat) : Prop :=
  (s.locate (s.issuer x) reach (localAddr m s x L) n L).isSome = true

/-- Lane L fails a check. -/
def localFails (m : MWord) (reach : Reach) (n al : Nat) (s : State) (x : Ctx) (L : Nat) : Prop :=
  localMisaligned m al s x L ∨ (s.locate (s.issuer x) reach (localAddr m s x L) n L).isSome = false

/-- Where lane L's bytes lie. -/
def localPlace (m : MWord) (reach : Reach) (n : Nat) (s : State) (x : Ctx) (L : Nat) : Space × Nat :=
  (s.locate (s.issuer x) reach (localAddr m s x L) n L).getD (.shared (s.issuer x).team, 0)

/-- The trap of an address outside the space: STACK_OVERFLOW for the spill area, else PROTECTION. -/
def outsideTrap (reach : Reach) (x : Ctx) (L : Nat) (E : Int) (k : Nat) : TrapRec :=
  if reach = .spill then x.addrTrap 0x0B 0 L (intBits E 64) 0 else x.addrTrap 0x07 2 L (intBits E 64) k

section
variable {s : State} {x : Ctx} {m : MWord} {reach : Reach} {n al k L : Nat} {f : Course → (Nat → Space × Nat) → Res}

theorem checkLocal_misaligned (hmis : localMisaligned m al s x L) :
    s.checkLocal x (s.issuer x) reach n al k L (localAddr m s x L) =
      some (x.addrTrap 0x08 0 L (intBits (localAddr m s x L) 64) 0) := if_pos hmis

theorem checkLocal_outside (hal : ¬ localMisaligned m al s x L) (hout : ¬ localInside m reach n s x L) :
    s.checkLocal x (s.issuer x) reach n al k L (localAddr m s x L) =
      some (outsideTrap reach x L (localAddr m s x L) k) :=
  (if_neg hal).trans ((if_neg hout).trans (apply_ite some _ _ _).symm)

theorem checkLocal_inside (hal : ¬ localMisaligned m al s x L) (hin : localInside m reach n s x L) :
    s.checkLocal x (s.issuer x) reach n al k L (localAddr m s x L) = none :=
  (if_neg hal).trans (if_pos hin)

theorem not_localFails : ¬ localFails m reach n al s x L ↔ ¬ localMisaligned m al s x L ∧ localInside m reach n s x L := by
  rw [localFails, not_or, Bool.not_eq_false, localInside]

/-! ## A word that makes the checks, then goes on with f -/

theorem withLocal_idle (hact : x.act = 0#32) : s.withLocal x m reach n al k f = .go s := if_pos hact

/-- The trap is that of the lowest lane that fails. -/
theorem withLocal_traps {t : TrapRec} (hfirst : firstLane x (localFails m reach n al s x) L)
    (ht : s.checkLocal x (s.issuer x) reach n al k L (localAddr m s x L) = some t) :
    s.withLocal x m reach n al k f = .trap t := by
  obtain ⟨hL, -, hbelow⟩ := hfirst
  have hact : x.act ≠ 0#32 := by
    intro hzero
    rw [mem_lanesOf, hzero, BitVec.getLsbD_zero] at hL
    cases hL
  have hfind : (lanesOf x.act).findSome? (fun L => s.checkLocal x (s.issuer x) reach n al k L (localAddr m s x L)) = some t := by
    refine findSome?_lanesOf hL ht (fun l hl hlt => ?_)
    obtain ⟨hal, hin⟩ := not_localFails.1 (hbelow l hl hlt)
    exact checkLocal_inside hal hin
  simp only [State.withLocal, if_neg hact, hfind]

/-- With no lane that fails, f gets each lane's place. -/
theorem withLocal_passes (hact : x.act ≠ 0#32) (hok : ∀ L ∈ lanesOf x.act, ¬ localFails m reach n al s x L) :
    s.withLocal x m reach n al k f = f (s.issuer x) (localPlace m reach n s x) := by
  have hfind : (lanesOf x.act).findSome? (fun L => s.checkLocal x (s.issuer x) reach n al k L (localAddr m s x L)) = none := by
    refine List.findSome?_eq_none_iff.2 (fun L hL => ?_)
    obtain ⟨hal, hin⟩ := not_localFails.1 (hok L hL)
    exact checkLocal_inside hal hin
  simp only [State.withLocal, if_neg hact, hfind]
  rfl

end

/-! ## A word whose checks pass -/

/-- The accesses of a word wait to be performed, one for each space that its lanes name, and the w registers from d are
empty in the lanes of that space until then (R114, R258). -/
def accessSent (s : State) (x : Ctx) (op : LocalOp) (d w : Nat) (may : Word) (as : List (Space × LaneAccess)) : State :=
  (groupAccess as).foldl (fun s g =>
    s.addPend x .localMem (.access g.1 op g.2)
      ((List.range w).map (fun i => (⟨x.sup, true, d + i⟩, maskOfLanes (g.2.map (fun a => a.lane))))) 0#32 may) s

theorem issueAccess_eq (s : State) (x : Ctx) (op : LocalOp) (d w : Nat) (may : Word) (as : List (Space × LaneAccess)) :
    s.issueAccess x op d w may as = .go (accessSent s x op d w may as) := by
  cases w <;> rfl

/-- The accesses of a word, lane by lane, with the operands x1 and x2 that it read. -/
def laneAccesses (x : Ctx) (at_ : Nat → Space × Nat) (x1 x2 : Nat → Nat) : List (Space × LaneAccess) :=
  (lanesOf x.act).map (fun L => ((at_ L).1, ⟨L, (at_ L).2, x1 L, x2 L⟩))

/-- A word of local memory (R257–R260): n bytes a lane at addresses that are multiples of al, performed as op with the
operands x1 and x2 and delivered to w registers; k is the access kind of a PROTECTION. -/
def AccessDoes (i : Instr) (m : MWord) (reach : Reach) (n al k : Nat) (op : Ctx → LocalOp) (w : Nat) (may : Word)
    (x1 x2 : State → Ctx → Nat → Nat) : Prop :=
  DoesIf i m.head (fun _ x => x.act = 0#32) (fun s x => s.went x) ∧
  (∀ L, DoesIf i m.head (fun s x => firstLane x (localFails m reach n al s x) L ∧ localMisaligned m al s x L)
    (fun s x => s.trapped x (x.addrTrap 0x08 0 L (intBits (localAddr m s x L) 64) 0))) ∧
  (∀ L, DoesIf i m.head (fun s x => firstLane x (localFails m reach n al s x) L ∧ localAddr m s x L % (al : Int) = 0)
    (fun s x => s.trapped x (outsideTrap reach x L (localAddr m s x L) k))) ∧
  DoesIf i m.head (fun s x => x.act ≠ 0#32 ∧ ∀ L, x.act.getLsbD L = true →
      localAddr m s x L % (al : Int) = 0 ∧ localInside m reach n s x L)
    (fun s x => (accessSent s x (op x) m.ds.toNat w may
      (laneAccesses x (localPlace m reach n s x) (x1 s x) (x2 s x))).went x)

/-- A word whose body makes the checks and issues its accesses. -/
theorem accessDoes_of {i : Instr} {m : MWord} {reach : Reach} {n al k w : Nat} {op : Ctx → LocalOp} {may : Word}
    {x1 x2 : State → Ctx → Nat → Nat}
    (hx : ∀ s, exec i s = s.issue i m.head (fun x => s.withLocal x m reach n al k (fun _ at_ =>
      s.issueAccess x (op x) m.ds.toNat w may (laneAccesses x at_ (x1 s x) (x2 s x))))) :
    AccessDoes i m reach n al k op w may x1 x2 := by
  refine ⟨?idle, fun L => ?misaligned, fun L => ?outside, ?issued⟩
  case idle =>
    intro s hp hact
    rw [exec_of_passes (hx s) hp, withLocal_idle hact]
    rfl
  case misaligned =>
    rintro s hp ⟨hfirst, hmis⟩
    rw [exec_of_passes (hx s) hp, withLocal_traps hfirst (checkLocal_misaligned hmis)]
    rfl
  case outside =>
    rintro s hp ⟨hfirst, haligned⟩
    have hal : ¬ localMisaligned m al s (s.wordCtx m.head) L := fun hmis => hmis haligned
    have ⟨_, hfails, _⟩ := hfirst
    have hout : ¬ localInside m reach n s (s.wordCtx m.head) L := fun hin => not_localFails.2 ⟨hal, hin⟩ hfails
    rw [exec_of_passes (hx s) hp, withLocal_traps hfirst (checkLocal_outside hal hout)]
    rfl
  case issued =>
    rintro s hp ⟨hact, hready⟩
    have hok : ∀ L ∈ lanesOf (s.wordCtx m.head).act, ¬ localFails m reach n al s (s.wordCtx m.head) L := by
      intro L hL
      obtain ⟨haligned, hin⟩ := hready L (mem_lanesOf.1 hL)
      exact not_localFails.2 ⟨fun hmis => hmis haligned, hin⟩
    rw [exec_of_passes (hx s) hp, withLocal_passes hact hok, issueAccess_eq]
    rfl

/-! ## The words -/

section
variable {i : Instr} {m : MWord} {reach : Reach}

theorem loadWord_does (hx : ∀ s, exec i s = s.issue i m.head (fun x => s.loadWord x m reach)) :
    AccessDoes i m reach m.size.bytes m.size.bytes 0 (fun x => .load x.sup m.ds.toNat m.size.bytes) m.size.regs 0#32
      (fun _ _ _ => 0) (fun _ _ _ => 0) :=
  accessDoes_of hx

/-- A store leaves no register empty. -/
theorem storeWord_does (hx : ∀ s, exec i s = s.issue i m.head (fun x => s.storeWord x m reach)) :
    AccessDoes i m reach m.size.bytes m.size.bytes 1 (fun _ => .store m.size.bytes) 0 0#32
      (fun s x L => s.laneGroup (s.issuer x) x.sup m.ds.toNat m.size.regs L) (fun _ _ _ => 0) :=
  accessDoes_of hx

theorem atomWord_does {op : AtomOp} (hx : ∀ s, exec i s = s.issue i m.head (fun x => s.atomWord x m op reach)) :
    AccessDoes i m reach m.size.bytes m.size.bytes 2 (fun x => .atom x.sup m.ds.toNat m.size.bytes op x.ftz) m.size.regs
      (AtomOp.may op) (fun s x L => s.laneGroup (s.issuer x) x.sup m.ds.toNat m.size.regs L)
      (fun s x L => if op = .cas then s.laneGroup (s.issuer x) x.sup (m.ds.toNat + m.size.regs) m.size.regs L else 0) :=
  accessDoes_of hx

end

theorem ldsf_does (m : MWord) (clu : Bool) :
    AccessDoes (.ldsf m clu) m (if clu then .cluster else .own) 1024 1024 0 (fun x => .fragment x.sup m.ds.toNat) 8 0#32
      (fun _ _ _ => 0) (fun _ _ _ => 0) :=
  accessDoes_of (fun _ => rfl)

/-- Settles O12, word by word: loads, stores and atomic operations in each memory, and LDSF. -/
theorem localAccesses : Obligations.LocalAccesses :=
  ⟨fun _ _ => loadWord_does (fun _ => rfl), fun _ _ => storeWord_does (fun _ => rfl),
    fun _ _ _ => atomWord_does (fun _ => rfl), ldsf_does,
    fun _ => loadWord_does (fun _ => rfl), fun _ => storeWord_does (fun _ => rfl),
    fun _ _ => atomWord_does (fun _ => rfl),
    fun _ => loadWord_does (fun _ => rfl), fun _ => storeWord_does (fun _ => rfl)⟩

end Sys2Proof.Machine

/-! # Tickets (R266–R285, R289) -/

namespace Sys2Proof.Machine

/-- A word whose body comes to r where ok holds. -/
theorem doesIf_of {i : Instr} {h : Head} {ok : State → Ctx → Prop} {b r : State → Ctx → Res}
    (hx : ∀ s, exec i s = s.issue i h (b s)) (hb : ∀ s x, ok s x → b s x = r s x) :
    DoesIf i h ok (fun s x => .next (s.settle x (r s x))) := by
  intro s hp hok
  rw [exec_of_passes (hx s) hp, hb _ _ hok]

/-! ## The checks of TLD (R273) -/

section
variable (m : MWord) (s : State) (x : Ctx)

/-- The effective address of a TLD in lane L. -/
abbrev tldAddr (L : Nat) : Int := s.effAddr x (s.issuer x) m 2 L

/-- The channel of a TLD. -/
abbrev tldChan : Chan := s.chan (s.issuer x).team m.ch.toNat

/-- Lane L's address is a multiple of the size. -/
def tldAligned (L : Nat) : Prop := tldAddr m s x L % (m.size.bytes : Int) = 0

/-- Lane L's bytes lie in the address space. -/
def tldInside (L : Nat) : Prop := 0 ≤ tldAddr m s x L ∧ tldAddr m s x L + m.size.bytes ≤ (2 ^ 52 : Nat)

/-- What the checks of a TLD's pages come to. -/
def tldPages : Looked :=
  s.lookPages (s.ctxOf (s.issuer x)) (x.trap 0) true ((lanesOf x.act).map (fun L => ⟨L, (tldAddr m s x L).toNat, 1, .any⟩))

/-- The trap of lane L's address, if it has one. -/
def tldLaneTrap (L : Nat) : Option TrapRec :=
  if tldAddr m s x L % (m.size.bytes : Int) ≠ 0 then some (x.addrTrap 0x08 0 L (intBits (tldAddr m s x L) 64) 0)
  else if tldAddr m s x L < 0 || (Config.addrLimit : Int) < tldAddr m s x L + m.size.bytes then
    some (x.addrTrap 0x07 2 L (intBits (tldAddr m s x L) 64) 0)
  else none

/-- The reads of a TLD, lane by lane, each at its home. -/
def tldItems : List Item :=
  (lanesOf x.act).map (fun L =>
    let h := s.home (s.ctxOf (s.issuer x)) (tldAddr m s x L).toNat
    ⟨L, (tldAddr m s x L).toNat, h.1, h.2⟩)

/-- The addresses that a TLD reads at. -/
def tldVas : List Nat := (tldItems m s x).map (fun i => i.va)

/-- A TLD's translations are held. -/
def tldFilled : State := s.tlbFill (s.ctxOf (s.issuer x)) (tldVas m s x)

/-- How many packets a TLD sends to each destination. -/
def tldSizes : List (Dest × Nat) :=
  (byDest (fun i => i.dest) (tldItems m s x)).map (fun g => (g.1, (cutRun m.size.bytes g.2).length))

/-- What a TLD whose checks have passed comes to in t: it waits for its quota, then for room, then starts. -/
def tldStart (nb : Bool) (t : State) : Res :=
  let c := s.issuer x
  if (t.lrOf c).quota ≤ (t.team c.team).live then
    if nb then t.deliverU x m.ds.toNat 2 0
    else .wait t (.quota (heldTld x.crs c.team m.ch.toNat m.size.bytes (tldItems m s x)) m.ds.toNat)
  else if !t.roomFor c.team m.ch.toNat false (tldSizes m s x) then
    t.noRoom c.team m.ch.toNat (tldSizes m s x) (tldVas m s x)
  else .go (t.startTld x.crs x.pc x.j m.ds.toNat m.ch.toNat m.size.bytes x.act x.sup (tldItems m s x))

/-- What a TLD comes to. -/
def tldBody (nb : Bool) : Res :=
  if x.act = 0#32 then .go s
  else if (tldChan m s x).cause ≠ 0 then .trap (x.chanTrap 0x11 m.ch.toNat (tldChan m s x))
  else
    match (lanesOf x.act).findSome? (tldLaneTrap m s x) with
    | some t => .trap t
    | none => (tldPages m s x).then (tldStart m s x nb (tldFilled m s x))

end

theorem exec_tld (m : MWord) (nb : Bool) (s : State) :
    exec (.tld m nb) s = s.issue (.tld m nb) m.head (fun x => tldBody m s x nb) := rfl

section
variable {m : MWord} {nb : Bool} {s : State} {x : Ctx} {L : Nat}

theorem tldLaneTrap_none (hal : tldAligned m s x L) (hin : tldInside m s x L) : tldLaneTrap m s x L = none := by
  obtain ⟨hlo, hhi⟩ := hin
  have hout : ¬ (tldAddr m s x L < 0 || (Config.addrLimit : Int) < tldAddr m s x L + m.size.bytes) = true := by
    rw [Bool.or_eq_true, decide_eq_true_eq, decide_eq_true_eq]
    exact not_or.2 ⟨Int.not_lt.2 hlo, Int.not_lt.2 hhi⟩
  exact (if_neg (not_not_intro hal)).trans (if_neg hout)

theorem tldLaneTrap_some (hbad : ¬ tldAligned m s x L ∨ ¬ tldInside m s x L) : tldLaneTrap m s x L =
    some (if tldAddr m s x L % (m.size.bytes : Int) ≠ 0 then x.addrTrap 0x08 0 L (intBits (tldAddr m s x L) 64) 0
      else x.addrTrap 0x07 2 L (intBits (tldAddr m s x L) 64) 0) := by
  by_cases hal : tldAligned m s x L
  · have hout : (tldAddr m s x L < 0 || (Config.addrLimit : Int) < tldAddr m s x L + m.size.bytes) = true := by
      rw [Bool.or_eq_true, decide_eq_true_eq, decide_eq_true_eq]
      exact (Classical.not_and_iff_not_or_not.1 (hbad.resolve_left (not_not_intro hal))).imp Int.not_le.1 Int.not_le.1
    exact ((if_neg (not_not_intro hal)).trans (if_pos hout)).trans (congrArg some (if_neg (not_not_intro hal)).symm)
  · exact (if_pos hal).trans (congrArg some (if_pos hal).symm)

theorem act_ne_zero_of_mem (hL : L ∈ lanesOf x.act) : x.act ≠ 0#32 := by
  intro hzero
  rw [mem_lanesOf, hzero, BitVec.getLsbD_zero] at hL
  cases hL

/-- The trap is that of the lowest lane that fails. -/
theorem tldBody_lane (hc : (tldChan m s x).cause = 0)
    (hfirst : firstLane x (fun l => ¬ tldAligned m s x l ∨ ¬ tldInside m s x l) L) : tldBody m s x nb =
    .trap (if tldAddr m s x L % (m.size.bytes : Int) ≠ 0 then x.addrTrap 0x08 0 L (intBits (tldAddr m s x L) 64) 0
      else x.addrTrap 0x07 2 L (intBits (tldAddr m s x L) 64) 0) := by
  obtain ⟨hL, hbad, hbelow⟩ := hfirst
  have hfind := findSome?_lanesOf hL (tldLaneTrap_some hbad) (fun l hl hlt => by
    obtain ⟨hal, hin⟩ := not_or.1 (hbelow l hl hlt)
    exact tldLaneTrap_none (Classical.not_not.1 hal) (Classical.not_not.1 hin))
  simp only [tldBody, if_neg (act_ne_zero_of_mem hL), if_neg (not_not_intro hc), hfind]

/-- Once every lane's address is good, the pages decide. -/
theorem tldBody_pages (hact : x.act ≠ 0#32) (hc : (tldChan m s x).cause = 0)
    (hok : ∀ L ∈ lanesOf x.act, tldAligned m s x L ∧ tldInside m s x L) :
    tldBody m s x nb = (tldPages m s x).then (tldStart m s x nb (tldFilled m s x)) := by
  have hfind : (lanesOf x.act).findSome? (tldLaneTrap m s x) = none :=
    List.findSome?_eq_none_iff.2 (fun L hL => tldLaneTrap_none (hok L hL).1 (hok L hL).2)
  simp only [tldBody, if_neg hact, if_neg (not_not_intro hc), hfind]

end

/-! ## A TLD whose checks have passed (R273, R276) -/

/-- Looking pages up changes only which translations are held. -/
theorem tlbFill_eq (s : State) (ctx : Nat) (vas : List Nat) : ∃ l, s.tlbFill ctx vas = { s with tlb := l } := by
  rw [State.tlbFill]
  induction vas generalizing s with
  | nil => exact ⟨_, rfl⟩
  | cons va vas ih =>
    obtain ⟨l, h⟩ := ih { s with tlb := (s.tlbTakes ctx va).foldl (fun l t => if l.contains t then l else l ++ [t]) s.tlb }
    exact ⟨l, h⟩

section
variable (m : MWord) (s : State) (x : Ctx)

/-- A TLD passes the checks of R273. -/
def tldClear : Prop := x.act ≠ 0#32 ∧ (tldChan m s x).cause = 0 ∧
  (∀ L ∈ lanesOf x.act, tldAligned m s x L ∧ tldInside m s x L) ∧ (tldPages m s x).res = .ok

/-- The tickets that the issuing team has out. -/
abbrev liveTickets : Nat := (s.team (s.issuer x).team).live

/-- The tickets that the issuing team may have out. -/
abbrev ticketQuota : Nat := (s.lrOf (s.issuer x)).quota

/-- A TLD's packets have room. -/
abbrev tldRoom : Bool := s.roomFor (s.issuer x).team m.ch.toNat false (tldSizes m s x)

variable {m s x} {nb : Bool}

theorem tldBody_clear (h : tldClear m s x) : tldBody m s x nb = tldStart m s x nb (tldFilled m s x) := by
  obtain ⟨hact, hc, hok, hpages⟩ := h
  rw [tldBody_pages hact hc hok, then_ok hpages]

/-- Neither the quota nor the room depends on the translations that are held. -/
theorem tldStart_filled : tldStart m s x nb (tldFilled m s x) =
    if ticketQuota s x ≤ liveTickets s x then
      if nb then (tldFilled m s x).deliverU x m.ds.toNat 2 0
      else .wait (tldFilled m s x)
        (.quota (heldTld x.crs (s.issuer x).team m.ch.toNat m.size.bytes (tldItems m s x)) m.ds.toNat)
    else if !tldRoom m s x then s.noRoom (s.issuer x).team m.ch.toNat (tldSizes m s x) (tldVas m s x)
    else .go ((tldFilled m s x).startTld x.crs x.pc x.j m.ds.toNat m.ch.toNat m.size.bytes x.act x.sup (tldItems m s x)) := by
  obtain ⟨l, hfill⟩ := tlbFill_eq s (s.ctxOf (s.issuer x)) (tldVas m s x)
  rw [tldFilled, hfill]
  rfl

theorem deliverU_active (hact : x.act ≠ 0#32) (t : State) (d w v : Nat) : t.deliverU x d w v =
    .go (t.addPend x .other (.values (lateValues x true d w (fun _ => v))) (lateFills x true d w) 0#32 0#32) := by
  rw [State.deliverU, State.lateWord, if_neg hact]
  simp only [landings_each, flags_each, flagsOf_zero, fills_eq _ _ _ hact]

end

section
variable (m : MWord) (nb : Bool)

theorem tld_idle : DoesIf (.tld m nb) m.head (fun _ x => x.act = 0#32) (fun s x => s.went x) :=
  doesIf_of (r := fun s _ => .go s) (exec_tld m nb) (fun _ _ hact => if_pos hact)

theorem tld_starts : DoesIf (.tld m nb) m.head
    (fun s x => tldClear m s x ∧ liveTickets s x < ticketQuota s x ∧ tldRoom m s x = true)
    (fun s x => ((tldFilled m s x).startTld x.crs x.pc x.j m.ds.toNat m.ch.toNat m.size.bytes x.act x.sup
      (tldItems m s x)).went x) :=
  doesIf_of (r := fun s x => .go ((tldFilled m s x).startTld x.crs x.pc x.j m.ds.toNat m.ch.toNat m.size.bytes x.act x.sup
    (tldItems m s x))) (exec_tld m nb) (fun s x ⟨hclear, hquota, hroom⟩ => by
      rw [tldBody_clear hclear, tldStart_filled, if_neg (Nat.not_le.2 hquota), hroom]
      rfl)

theorem tld_without_room : DoesIf (.tld m nb) m.head
    (fun s x => tldClear m s x ∧ liveTickets s x < ticketQuota s x ∧ tldRoom m s x = false)
    (fun s x => s.heldPast x (tldVas m s x) (!s.entriesFor (s.issuer x).team m.ch.toNat (tldSizes m s x))) :=
  doesIf_of (r := fun s x => s.noRoom (s.issuer x).team m.ch.toNat (tldSizes m s x) (tldVas m s x)) (exec_tld m nb)
    (fun s x ⟨hclear, hquota, hroom⟩ => by
      rw [tldBody_clear hclear, tldStart_filled, if_neg (Nat.not_le.2 hquota), hroom]
      rfl)

theorem tldNb_delivers_null : DoesIf (.tld m true) m.head
    (fun s x => tldClear m s x ∧ ticketQuota s x ≤ liveTickets s x) (fun s x => ((tldFilled m s x).addPend x .other (.values (lateValues x true m.ds.toNat 2 (fun _ => 0)))
      (lateFills x true m.ds.toNat 2) 0#32 0#32).went x) :=
  doesIf_of (r := fun s x => .go ((tldFilled m s x).addPend x .other (.values (lateValues x true m.ds.toNat 2 (fun _ => 0)))
    (lateFills x true m.ds.toNat 2) 0#32 0#32)) (exec_tld m true) (fun s x ⟨hclear, hquota⟩ => by
      have ⟨hact, _⟩ := hclear
      rw [tldBody_clear hclear, tldStart_filled, if_pos hquota, if_pos rfl, deliverU_active hact])

theorem tld_waits_for_quota : DoesIf (.tld m false) m.head
    (fun s x => tldClear m s x ∧ ticketQuota s x ≤ liveTickets s x) (fun s x => (tldFilled m s x).waits x
      (.quota (heldTld x.crs (s.issuer x).team m.ch.toNat m.size.bytes (tldItems m s x)) m.ds.toNat)) :=
  doesIf_of (r := fun s x => .wait (tldFilled m s x)
    (.quota (heldTld x.crs (s.issuer x).team m.ch.toNat m.size.bytes (tldItems m s x)) m.ds.toNat)) (exec_tld m false)
    (fun s x ⟨hclear, hquota⟩ => by
      rw [tldBody_clear hclear, tldStart_filled, if_pos hquota]
      rfl)

theorem tld_broken : DoesIf (.tld m nb) m.head (fun s x => x.act ≠ 0#32 ∧ (tldChan m s x).cause ≠ 0)
    (fun s x => s.trapped x (x.chanTrap 0x11 m.ch.toNat (tldChan m s x))) :=
  doesIf_of (r := fun s x => .trap (x.chanTrap 0x11 m.ch.toNat (tldChan m s x))) (exec_tld m nb)
    (fun _ _ ⟨hact, hc⟩ => (if_neg hact).trans (if_pos hc))

theorem tld_lane_traps (L : Nat) : DoesIf (.tld m nb) m.head
    (fun s x => (tldChan m s x).cause = 0 ∧ firstLane x (fun l => ¬ tldAligned m s x l ∨ ¬ tldInside m s x l) L)
    (fun s x => s.trapped x (if tldAddr m s x L % (m.size.bytes : Int) ≠ 0
      then x.addrTrap 0x08 0 L (intBits (tldAddr m s x L) 64) 0
      else x.addrTrap 0x07 2 L (intBits (tldAddr m s x L) 64) 0)) :=
  doesIf_of (r := fun s x => .trap (if tldAddr m s x L % (m.size.bytes : Int) ≠ 0
      then x.addrTrap 0x08 0 L (intBits (tldAddr m s x L) 64) 0
      else x.addrTrap 0x07 2 L (intBits (tldAddr m s x L) 64) 0)) (exec_tld m nb)
    (fun _ _ ⟨hc, hfirst⟩ => tldBody_lane hc hfirst)

theorem tld_page_traps (t : TrapRec) : DoesIf (.tld m nb) m.head (fun s x => x.act ≠ 0#32 ∧ (tldChan m s x).cause = 0 ∧
      (∀ L ∈ lanesOf x.act, tldAligned m s x L ∧ tldInside m s x L) ∧ (tldPages m s x).res = .trap t)
    (fun s x => s.trappedPast x (tldPages m s x).vas t) :=
  doesIf_of (r := fun s x => .trapLooked (tldPages m s x).vas t) (exec_tld m nb)
    (fun _ _ ⟨hact, hc, hok, hpages⟩ => (tldBody_pages hact hc hok).trans (then_trap hpages))

theorem tld_page_waits : DoesIf (.tld m nb) m.head (fun s x => x.act ≠ 0#32 ∧ (tldChan m s x).cause = 0 ∧
      (∀ L ∈ lanesOf x.act, tldAligned m s x L ∧ tldInside m s x L) ∧ (tldPages m s x).res = .wait)
    (fun s x => s.heldPast x (tldPages m s x).vas false) :=
  doesIf_of (r := fun s x => .held (tldPages m s x).vas false) (exec_tld m nb)
    (fun _ _ ⟨hact, hc, hok, hpages⟩ => (tldBody_pages hact hc hok).trans (then_wait hpages))

end

/-! ## REDEEM and REDEEM.sh (R278, R281) -/

section
variable (r : RWord) (s : State) (x : Ctx)

/-- The ticket that a word names in its first operand. -/
abbrev namedTicket : Nat := s.src x r.a 2 0

/-- The ticket is not one of the context's. -/
def ticketForeign : Prop := namedTicket r s x = 0 ∨ bitsOf (namedTicket r s x) 31 17 ≠ 0 ∨ ticketGen (namedTicket r s x) = 0 ∨
  ticketTag (namedTicket r s x) ≠ (s.context (s.ctxOf (s.issuer x))).tag

/-- The ticket may be one of the context's. -/
def ticketSound : Prop := namedTicket r s x ≠ 0 ∧ bitsOf (namedTicket r s x) 31 17 = 0 ∧ ticketGen (namedTicket r s x) ≠ 0 ∧
  ticketTag (namedTicket r s x) = (s.context (s.ctxOf (s.issuer x))).tag

/-- The ticket's die is out of service. -/
abbrev ticketDieLost : Bool := s.fenced.contains (.die, bitsOf (namedTicket r s x) 16 14)

/-- A word that makes the checks of R278, then comes to f. -/
def redeemThen (f : Res) : Res :=
  match s.redeemCheck x (s.issuer x) (namedTicket r s x) with
  | some t => .trap t
  | none => if x.act = 0#32 then .go s else f

variable {r s x} {f : Res}

theorem redeemThen_foreign (h : ticketForeign r s x) :
    redeemThen r s x f = .trap (x.ticketTrap 0x0C (namedTicket r s x)) := by
  have hcheck : s.redeemCheck x (s.issuer x) (namedTicket r s x) = some (x.ticketTrap 0x0C (namedTicket r s x)) := by
    refine if_pos ?_
    simpa [ticketForeign, or_assoc] using h
  rw [redeemThen, hcheck]

theorem redeemCheck_sound (h : ticketSound r s x) : s.redeemCheck x (s.issuer x) (namedTicket r s x) =
    if ticketDieLost r s x then some (x.trap 0x13) else none := by
  refine if_neg ?_
  simpa [ticketSound, and_assoc] using h

theorem redeemThen_lost (h : ticketSound r s x) (hlost : ticketDieLost r s x = true) :
    redeemThen r s x f = .trap (x.trap 0x13) := by
  rw [redeemThen, redeemCheck_sound h, if_pos hlost]

variable (r s x) in
/-- The ticket passes the checks of R278. -/
def ticketGood : Prop := ticketSound r s x ∧ ticketDieLost r s x = false

theorem redeemThen_good (h : ticketGood r s x) : redeemThen r s x f = if x.act = 0#32 then .go s else f := by
  obtain ⟨hsound, hserves⟩ := h
  rw [redeemThen, redeemCheck_sound hsound, if_neg (Bool.eq_false_iff.1 hserves)]

end

section
variable {i : Instr} {r : RWord} {f : State → Ctx → Res}

/-- What the checks of R278 make of a word that begins with them. -/
theorem ticketChecks_of (hx : ∀ s, exec i s = s.issue i r.head (fun x => redeemThen r s x (f s x))) :
    DoesIf i r.head (fun s x => ticketForeign r s x) (fun s x => s.trapped x (x.ticketTrap 0x0C (namedTicket r s x))) ∧
    DoesIf i r.head (fun s x => ticketSound r s x ∧ ticketDieLost r s x = true) (fun s x => s.trapped x (x.trap 0x13)) ∧
    DoesIf i r.head (fun s x => x.act = 0#32 ∧ ticketGood r s x) (fun s x => s.went x) :=
  ⟨doesIf_of (r := fun s x => .trap (x.ticketTrap 0x0C (namedTicket r s x))) hx (fun _ _ h => redeemThen_foreign h),
    doesIf_of (r := fun _ x => .trap (x.trap 0x13)) hx (fun _ _ ⟨hsound, hlost⟩ => redeemThen_lost hsound hlost),
    doesIf_of (r := fun s _ => .go s) hx (fun _ _ ⟨hact, hgood⟩ => (redeemThen_good hgood).trans (if_pos hact))⟩

theorem redeemThen_active {s : State} {x : Ctx} {f : Res} (hact : x.act ≠ 0#32) (hgood : ticketGood r s x) :
    redeemThen r s x f = f := (redeemThen_good hgood).trans (if_neg hact)

end

section
variable (r : RWord)

/-- The request of a REDEEM into lane registers has gone to its slice. -/
def redeemAsked (w : RedeemWidth) (s : State) (x : Ctx) (fills : List (RegId × LaneMask)) : State :=
  (s.addPend x .other .remote fills 0#32 0#32).askSlice
    (.redeem (namedTicket r s x) (.regs x.crs (s.issuer x).nextPend r.d.toNat (RedeemWidth.bytes w) x.act x.sup) x.pc x.j x.act
      x.sup none)

theorem exec_redeem (w : RedeemWidth) (s : State) : exec (.redeem r w) s = s.issue (.redeem r w) r.head (fun x =>
    redeemThen r s x (.go (redeemAsked r w s x (x.fills false r.d.toNat (RedeemWidth.bytes w / 4))))) := rfl

theorem redeem_asks (w : RedeemWidth) : DoesIf (.redeem r w) r.head (fun s x => x.act ≠ 0#32 ∧ ticketGood r s x)
    (fun s x => (redeemAsked r w s x (lateFills x false r.d.toNat (RedeemWidth.bytes w / 4))).went x) :=
  doesIf_of (r := fun s x => .go (redeemAsked r w s x (lateFills x false r.d.toNat (RedeemWidth.bytes w / 4))))
    (exec_redeem r w) (fun _ _ ⟨hact, hgood⟩ => by rw [redeemThen_active hact hgood, fills_eq _ _ _ hact])

/-- The request of a REDEEM.sh to its slice. -/
def redeemShReq (s : State) (x : Ctx) : SliceReq :=
  .redeem (namedTicket r s x) (.shared x.crs 0 (s.usrc x r.b) (s.issuer x).nextPend s.stamp 0) x.pc x.j x.act x.sup none

/-- What a REDEEM.sh comes to after the checks of its ticket. -/
def redeemShBody (s : State) (x : Ctx) : Res :=
  let o := s.usrc x r.b
  if o % 16 ≠ 0 then .trap { x.trap 0x08 with addr := o }
  else if (s.lrOf (s.issuer x)).shared < o + 512 then .trap { x.trap 0x07 with sub := 2, addr := o, info := 1 }
  else if s.copyFull x.crs then .block false
  else .wait (s.askSlice (redeemShReq r s x)) (.verdict (Tab.fresh s.sliceReqs))

theorem exec_redeemSh (s : State) :
    exec (.redeemSh r) s = s.issue (.redeemSh r) r.head (fun x => redeemThen r s x (redeemShBody r s x)) := rfl

/-- A REDEEM.sh with an active lane and a good ticket. -/
theorem redeemSh_of {ok : State → Ctx → Prop} {res : State → Ctx → Res} (h : ∀ s x, ok s x → redeemShBody r s x = res s x) :
    DoesIf (.redeemSh r) r.head (fun s x => x.act ≠ 0#32 ∧ ticketGood r s x ∧ ok s x)
      (fun s x => .next (s.settle x (res s x))) :=
  doesIf_of (exec_redeemSh r) (fun s x ⟨hact, hgood, hok⟩ => (redeemThen_active hact hgood).trans (h s x hok))

theorem redeemSh_misaligned : DoesIf (.redeemSh r) r.head (fun s x => x.act ≠ 0#32 ∧ ticketGood r s x ∧ s.usrc x r.b % 16 ≠ 0)
    (fun s x => s.trapped x { x.trap 0x08 with addr := s.usrc x r.b }) :=
  redeemSh_of r (res := fun s x => .trap { x.trap 0x08 with addr := s.usrc x r.b }) (fun _ _ hmis => if_pos hmis)

theorem redeemSh_beyond : DoesIf (.redeemSh r) r.head
    (fun s x => x.act ≠ 0#32 ∧ ticketGood r s x ∧ s.usrc x r.b % 16 = 0 ∧
      (s.lrOf (s.issuer x)).shared < s.usrc x r.b + 512)
    (fun s x => s.trapped x { x.trap 0x07 with sub := 2, addr := s.usrc x r.b, info := 1 }) :=
  redeemSh_of r (res := fun s x => .trap { x.trap 0x07 with sub := 2, addr := s.usrc x r.b, info := 1 })
    (fun _ _ ⟨hal, hout⟩ => (if_neg (not_not_intro hal)).trans (if_pos hout))

/-- With its offset good, a REDEEM.sh turns on the copy counter. -/
theorem redeemShBody_inside {r : RWord} {s : State} {x : Ctx} (hal : s.usrc x r.b % 16 = 0)
    (hin : s.usrc x r.b + 512 ≤ (s.lrOf (s.issuer x)).shared) : redeemShBody r s x =
    if s.copyFull x.crs then .block false else .wait (s.askSlice (redeemShReq r s x)) (.verdict (Tab.fresh s.sliceReqs)) :=
  (if_neg (not_not_intro hal)).trans (if_neg (Nat.not_lt.2 hin))

theorem redeemSh_full : DoesIf (.redeemSh r) r.head
    (fun s x => x.act ≠ 0#32 ∧ ticketGood r s x ∧ s.usrc x r.b % 16 = 0 ∧
      s.usrc x r.b + 512 ≤ (s.lrOf (s.issuer x)).shared ∧ s.copyFull x.crs = true)
    (fun s x => s.blocked x false) :=
  redeemSh_of r (res := fun _ _ => .block false)
    (fun _ _ ⟨hal, hin, hfull⟩ => (redeemShBody_inside hal hin).trans (if_pos hfull))

theorem redeemSh_waits : DoesIf (.redeemSh r) r.head
    (fun s x => x.act ≠ 0#32 ∧ ticketGood r s x ∧ s.usrc x r.b % 16 = 0 ∧
      s.usrc x r.b + 512 ≤ (s.lrOf (s.issuer x)).shared ∧ s.copyFull x.crs = false)
    (fun s x => (s.askSlice (redeemShReq r s x)).waits x (.verdict (Tab.fresh s.sliceReqs))) :=
  redeemSh_of r (res := fun s x => .wait (s.askSlice (redeemShReq r s x)) (.verdict (Tab.fresh s.sliceReqs)))
    (fun _ _ ⟨hal, hin, hroom⟩ => (redeemShBody_inside hal hin).trans (if_neg (Bool.eq_false_iff.1 hroom)))

/-! ## TDROP and TQRY (R283, R284) -/

/-- What a TDROP comes to. -/
def tdropBody (s : State) (x : Ctx) : Res :=
  if x.act = 0#32 then .go s
  else if namedTicket r s x = 0 then .go s
  else .go (s.askSlice (.drop (namedTicket r s x) (s.context (s.ctxOf (s.issuer x))).tag))

theorem exec_tdrop (s : State) : exec (.tdrop r) s = s.issue (.tdrop r) r.head (tdropBody r s) := rfl

theorem tdrop_idle : DoesIf (.tdrop r) r.head (fun s x => x.act = 0#32 ∨ namedTicket r s x = 0) (fun s x => s.went x) :=
  doesIf_of (r := fun s _ => .go s) (exec_tdrop r) (fun s x h => by
    by_cases hact : x.act = 0#32
    · exact if_pos hact
    · exact (if_neg hact).trans (if_pos (h.resolve_left hact)))

theorem tdrop_asks : DoesIf (.tdrop r) r.head (fun s x => x.act ≠ 0#32 ∧ namedTicket r s x ≠ 0) (fun s x =>
    (s.askSlice (.drop (namedTicket r s x) (s.context (s.ctxOf (s.issuer x))).tag)).went x) :=
  doesIf_of (r := fun s x => .go (s.askSlice (.drop (namedTicket r s x) (s.context (s.ctxOf (s.issuer x))).tag))) (exec_tdrop r)
    (fun _ _ ⟨hact, hne⟩ => (if_neg hact).trans (if_neg hne))

/-- What a TQRY comes to. -/
def tqryBody (s : State) (x : Ctx) : Res :=
  if x.act = 0#32 then .go s
  else .go (s.addPend x .other (.query r.d.toNat (namedTicket r s x) x.sup) (x.fills true r.d.toNat 1) 0#32 0#32)

theorem exec_tqry (s : State) : exec (.tqry r) s = s.issue (.tqry r) r.head (tqryBody r s) := rfl

theorem tqry_asks : DoesIf (.tqry r) r.head (fun _ x => x.act ≠ 0#32) (fun s x =>
    (s.addPend x .other (.query r.d.toNat (namedTicket r s x) x.sup) (lateFills x true r.d.toNat 1) 0#32 0#32).went x) :=
  doesIf_of (r := fun s x => .go (s.addPend x .other (.query r.d.toNat (namedTicket r s x) x.sup)
    (lateFills x true r.d.toNat 1) 0#32 0#32)) (exec_tqry r) (fun s x hact => by
      rw [tqryBody, if_neg hact, fills_eq _ _ _ hact])

theorem tqryLive_delivers : LateDoes (.tqryLive r) r.head .other (fun _ _ => True) (fun s _ => s) true r.d 1 (fun _ _ => 0#32)
    (fun s x _ => (s.team (s.issuer x).team).live) (fun _ _ => 0#32) :=
  deliversU_of (b := fun s x => s.deliverU x r.d.toNat 1 (s.team (s.issuer x).team).live) (fun _ => rfl)
    (fun _ _ hact => deliverU_idle hact ..) (fun _ _ _ _ => rfl)

end

/-- What TQRY tells a context of a ticket of its own. -/
theorem ticketState_own {s : State} {own t : Nat} (ht : t ≠ 0) (htag : ticketTag t = own) : s.ticketState own t =
    let e := s.entry (ticketKey t)
    if e.matches t = true ∧ e.state = .pending then 1
    else if e.matches t = true ∧ e.state = .ready then (if e.poison = [] then 2 else 3)
    else if e.expired = some (ticketGen t) ∧ e.ctag = own ∧ bitsOf t 31 17 = 0 then 5
    else 4 := by
  simp [State.ticketState, ht, htag, and_assoc]

/-- What TQRY tells it of a ticket that no entry holds any longer. -/
theorem ticketState_gone {s : State} {own t : Nat} (ht : t ≠ 0) (htag : ticketTag t = own)
    (hgone : ¬ ((s.entry (ticketKey t)).matches t = true ∧
      ((s.entry (ticketKey t)).state = .pending ∨ (s.entry (ticketKey t)).state = .ready))) :
    s.ticketState own t = if (s.entry (ticketKey t)).expired = some (ticketGen t) ∧ (s.entry (ticketKey t)).ctag = own ∧
      bitsOf t 31 17 = 0 then 5 else 4 :=
  (ticketState_own ht htag).trans
    ((if_neg (fun h => hgone (h.imp_right .inl))).trans (if_neg (fun h => hgone (h.imp_right .inr))))

/-- The state that TQRY tells of a ticket follows the entry's state and its expiry mark. -/
theorem ticketStates : ticketStatesHold := by
  intro s own t e gone
  refine ⟨rfl, fun ht htag => ?foreign, fun ht htag hm hs => ?pending, fun ht htag hm hs hp => ?ready,
    fun ht htag hm hs hp => ?poisoned, fun ht htag hg hexp hctag hbits => ?expired, fun ht htag hg hexp => ?gone⟩
  case foreign => exact (if_neg ht).trans (if_pos htag)
  case pending => exact (ticketState_own ht htag).trans (if_pos ⟨hm, hs⟩)
  case expired => exact (ticketState_gone ht htag hg).trans (if_pos ⟨hexp, hctag, hbits⟩)
  case gone => exact (ticketState_gone ht htag hg).trans (if_neg (fun h => hexp h.1))
  all_goals
    have hnot : ¬ (e.matches t = true ∧ e.state = .pending) := by simp [hs]
    refine (ticketState_own ht htag).trans ((if_neg hnot).trans ((if_pos ⟨hm, hs⟩).trans ?_))
  case ready => exact if_pos hp
  case poisoned => exact if_neg hp

theorem copyFull_iff (s : State) (crs : Nat) : s.copyFull crs = true ↔
    255 ≤ (s.course crs).eng.copy.length + (s.sliceReqs.filter (fun e => e.2.asksFor crs)).length := decide_eq_true_iff

/-- Settles O31, word by word. -/
theorem ticketWords : Obligations.TicketWords := by
  refine ⟨tld_idle, tld_starts, tld_without_room, tldNb_delivers_null, tld_waits_for_quota, tld_broken, tld_lane_traps,
    tld_page_traps, tld_page_waits, redeem_asks, fun r i hi => ?checks, redeemSh_misaligned, redeemSh_beyond, redeemSh_full,
    copyFull_iff, redeemSh_waits, tdrop_idle, tdrop_asks, tqry_asks, tqryLive_delivers, ticketStates⟩
  case checks =>
    obtain ⟨w, rfl⟩ | rfl := hi
    · exact ticketChecks_of (exec_redeem r w)
    · exact ticketChecks_of (exec_redeemSh r)

/-! # The life of a landing entry (R269–R282, R285, R289, R435) -/

/-! ## What the operations of an entry's life leave (R269, R276) -/

section
variable (s : State)

@[simp] theorem entry_setEntry_same (k : Nat) (e : Entry) : (s.setEntry k e).entry k = e := Tab.get_put_same ..

@[simp] theorem spaceBlock_setSpace_shared (h : Nat) (b : Block) : (s.setSpace (.shared h) b).spaceBlock (.shared h) = b := by
  simp [State.spaceBlock, State.setSpace]

/-- Returning a ticket leaves the local memories. -/
@[simp] theorem spaceBlock_returnTicket (h : Nat) (sp : Space) : (s.returnTicket h).spaceBlock sp = s.spaceBlock sp := by
  cases sp with
  | shared k =>
    simp only [State.spaceBlock, State.returnTicket, team_onTeam]
    split
    · rename_i hk; rw [hk]
    · rfl
  | scratch g d => rfl
  | spill k => rfl

/-- The landing entries, and the requests that wait for one. -/
def State.landingArea (s : State) : Tab Entry × Tab TldReq := (s.entries, s.tldReqs)

@[simp] theorem landPend_landingArea (crs pid : Nat) (ls : List Landing) (fl : Word) :
    (s.landPend crs pid ls fl).landingArea = s.landingArea := by
  rw [State.landPend]
  cases (s.course crs).pend.find? (fun p => p.id == pid) <;> rfl

@[simp] theorem advance_landingArea (crs j : Nat) (act : LaneMask) : (s.advance crs j act).landingArea = s.landingArea := by
  simp only [State.advance]; split <;> rfl

@[simp] theorem pump_landingArea (h : Nat) : (s.pump h).landingArea = s.landingArea := by
  simp only [State.pump]; split <;> rfl

@[simp] theorem wakeReset_landingArea (crs : Nat) : (s.wakeReset crs).landingArea = s.landingArea := by
  refine foldl_keeps (part := State.landingArea) (fun u j => ?_) _ _
  dsimp only
  split
  · split
    · rw [advance_landingArea]; rfl
    · rfl
  · rfl

@[simp] theorem afterSettle_landingArea (h : Nat) : (s.afterSettle h).landingArea = s.landingArea := by
  simp only [State.afterSettle]
  split
  · rw [foldl_keeps (part := State.landingArea) wakeReset_landingArea, pump_landingArea]
  · exact pump_landingArea ..

end

/-! ## Allocation (R269, R273, R277) -/

/-- What an entry's allocation is, with its claim and its state. -/
def Entry.allocation (e : Entry) : Nat × Nat × Nat × Option Claim × EntryState := (e.gen, e.team, e.size, e.claim, e.state)

theorem landBytes_allocation (e : Entry) (L : Nat) (bytes : List Byte) (poison : List Nat) :
    (e.landBytes L bytes poison).allocation = e.allocation := rfl

/-- A pending entry is ready once no lane waits. -/
theorem settleState_pending {e : Entry} (h : e.state = .pending) :
    e.settleState = e ∨ e.settleState = { e with state := .ready } := by
  rw [Entry.settleState, h]
  split
  · exact .inr rfl
  · exact .inl rfl

section
variable {s : State} {req : Nat} {r : TldReq}

/-- The slice may give a request its entry n. -/
def State.mayGive (s : State) (r : TldReq) (n : Nat) : Prop :=
  n < 512 ∧ (s.entry (entryKey r.die r.slice n)).state = .free ∧
    s.fenced.contains (.slice, r.die * 32 + r.slice) = false ∧ s.mayAllocate r = true

theorem mayGive_iff {n : Nat} : s.mayGive r n ↔
    (n < Config.entriesPerSlice && s.entryFree r.die r.slice n && s.mayAllocate r) = true := by
  simp only [State.mayGive, State.entryFree, Bool.and_eq_true, decide_eq_true_eq, beq_iff_eq, Bool.not_eq_true', and_assoc]
  exact Iff.rfl

variable (s r) in
/-- An entry as it is given to a request: it holds what far lines serve, and zeros in the refused lanes (R287, R328). -/
def givenEntry (n : Nat) : Entry :=
  r.dead.foldl (fun (e : Entry) L => e.landBytes L (List.replicate r.n 0#8) (wordsOf 0 r.n))
    ((s.farServed r).foldl (fun (e : Entry) f => e.landBytes f.1 (f.2.2.part f.2.1 r.n).1 (f.2.2.part f.2.1 r.n).2)
      { state := .pending, gen := (s.entry (entryKey r.die r.slice n)).gen % 65535 + 1,
        ctag := (s.context (s.gridOf r.team).ctx).tag, team := r.team, grid := (s.team r.team).grid,
        waiting := r.lanes.map (fun l => l.1), size := r.n })

theorem givenEntry_allocation (n : Nat) : (givenEntry s r n).allocation =
    ((s.entry (entryKey r.die r.slice n)).gen % 65535 + 1, r.team, r.n, none, .pending) := by
  rw [givenEntry, foldl_keeps (part := Entry.allocation) (fun _ _ => landBytes_allocation ..),
    foldl_keeps (part := Entry.allocation) (fun _ _ => landBytes_allocation ..)]
  rfl

/-- An allocation writes the entry and takes the request. -/
theorem exec_ticketAllocate {n : Nat} (hfind : Tab.find s.tldReqs req = some r) (hfree : s.mayGive r n) :
    ∃ u : State, exec (.ticketAllocate req n) s = .next u ∧ u.landingArea =
      (Tab.put s.entries (entryKey r.die r.slice n) (givenEntry s r n).settleState, Tab.del s.tldReqs req) := by
  have hgo : (!(n < Config.entriesPerSlice && s.entryFree r.die r.slice n && s.mayAllocate r)) = false := by
    rw [mayGive_iff.1 hfree, Bool.not_true]
  show ∃ u, execTicketAllocate req n s = .next u ∧ _
  simp only [execTicketAllocate, hfind, hgo, Bool.false_eq_true, if_false]
  refine ⟨_, rfl, ?_⟩
  rw [afterSettle_landingArea, landPend_landingArea]
  rfl

theorem ticketAllocate_gives {n : Nat} (hfind : Tab.find s.tldReqs req = some r) (hfree : s.mayGive r n) :
    ∃ u, exec (.ticketAllocate req n) s = .next u ∧ Tab.find u.tldReqs req = none ∧
      let e := u.entry (entryKey r.die r.slice n)
      e.gen = (s.entry (entryKey r.die r.slice n)).gen % 65535 + 1 ∧ e.team = r.team ∧ e.size = r.n ∧ e.claim = none ∧
        (e.state = .pending ∨ e.state = .ready) := by
  obtain ⟨u, hexec, harea⟩ := exec_ticketAllocate hfind hfree
  obtain ⟨hentries, hreqs⟩ := Prod.mk.inj harea
  have halloc := givenEntry_allocation (s := s) (r := r) n
  simp only [Entry.allocation, Prod.mk.injEq] at halloc
  obtain ⟨hgen, hteam, hsize, hclaim, hstate⟩ := halloc
  have hentry : u.entry (entryKey r.die r.slice n) = (givenEntry s r n).settleState := by
    rw [State.entry, hentries, Tab.get_put_same]
  refine ⟨u, hexec, by rw [hreqs, Tab.find_del_same], ?_⟩
  rw [hentry]
  rcases settleState_pending hstate with h | h
  · rw [h]
    exact ⟨hgen, hteam, hsize, hclaim, .inl hstate⟩
  · rw [h]
    exact ⟨hgen, hteam, hsize, hclaim, .inr rfl⟩

/-- A request that goes behind another is refused, and has no priority before its eighth refusal. -/
theorem exec_allocationRetry_behind (hfind : Tab.find s.tldReqs req = some r) (hbehind : s.mayAllocate r = false)
    (hfew : r.refusals < 7) : exec (.allocationRetry req) s =
      .next (({ s with tldReqs := Tab.put s.tldReqs req { r with refusals := r.refusals + 1 } }).count 1 r.die 4 1) := by
  have hno : ¬ 8 ≤ r.refusals + 1 := by omega
  show execAllocationRetry req s = _
  simp [execAllocationRetry, hfind, hbehind, hno]

end

/-! ## Bytes that land (R270, R275, R276) -/

section
variable {s : State} {x : ReadReturn} {key gen : Nat}

theorem exec_ticketBytesLand (hreader : x.reader = .ticket key gen) (hnet : NetMsg.data x ∈ s.net) (hchip : x.key.chip = s.chip)
    (hgen : (s.entry key).gen = gen) (hwaits : x.lane ∈ (s.entry key).waiting) (hteam : (s.entry key).team = x.key.team) :
    exec (.ticketBytesLand x) s = .next ((((({ s with net := s.net.erase (.data x) } : State).setEntry key
      (((s.entry key).landBytes x.lane (x.bytes.take (s.entry key).size) x.poison).settleState)).refillFrom x).onChan x.key.team
        x.key.ch (fun c => if x.refused then c else c.readLanded x.reader x.key.dest 1 s.stamp)).afterSettle x.key.team) := by
  have hawaited : ¬ (!((s.entry key).gen == gen && (s.entry key).waiting.contains x.lane &&
      (s.entry key).team == x.key.team)) = true := by simp [hgen, hwaits, hteam]
  show execTicketBytesLand x s = _
  simp only [execTicketBytesLand, hreader, takeBack_mem _ hnet hchip]
  exact if_neg hawaited

end

/-! ## The slice's verdict on a REDEEM (R278–R281) -/

/-- The entry holds the ticket, neither claimed nor returned. -/
def Entry.holds (e : Entry) (t : Nat) : Prop := e.matches t = true ∧ (e.state = .pending ∨ e.state = .ready)

theorem holds_iff {e : Entry} {t : Nat} : e.holds t ↔ (e.matches t && (e.state == .pending || e.state == .ready)) = true := by
  simp [Entry.holds]

section
variable {s : State} {q t pc j : Nat} {act : LaneMask} {sup : Bool}

/-- A request has been dealt with at its slice. -/
def State.served (s : State) (q : Nat) : State := { s with sliceReqs := Tab.del s.sliceReqs q }

theorem exec_redeemAtSlice_regs {crs p d w : Nat}
    (hfind : Tab.find s.sliceReqs q = some (.redeem t (.regs crs p d w act sup) pc j act sup none))
    (hlive : (s.entry (ticketKey t)).holds t) : exec (.redeemAtSlice q) s = .next ((s.served q).setEntry (ticketKey t)
      { s.entry (ticketKey t) with state := .claimed, claim := some (.regs crs p d w act sup) }) := by
  show execRedeemAtSlice q s = _
  simp only [execRedeemAtSlice, hfind]
  exact if_pos (holds_iff.1 hlive)

/-- An accepted REDEEM.sh is counted, and its slot goes on. -/
theorem exec_redeemAtSlice_shared {crs k o after turn made : Nat}
    (hfind : Tab.find s.sliceReqs q = some (.redeem t (.shared crs k o after turn made) pc j act sup none))
    (hlive : (s.entry (ticketKey t)).holds t) (hruns : s.running (s.course crs) = true)
    (hwait : ((s.course crs).slotN j).wait = .verdict q) :
    exec (.redeemAtSlice q) s = .next ((((s.served q).setEntry (ticketKey t) { s.entry (ticketKey t) with
      state := .claimed, claim := some (.shared crs (s.course crs).nextOp o after turn 0) }).setCourse crs
        ((s.course crs).countOp .copy [])).advance crs j act) := by
  have hgoes : (s.running (s.course crs) && ((s.course crs).slotN j).wait == .verdict q) = true := by simp [hruns, hwait]
  show execRedeemAtSlice q s = _
  simp only [execRedeemAtSlice, hfind]
  exact (if_pos (holds_iff.1 hlive)).trans (congrArg Host.Outcome.next (if_pos hgoes))

/-- A refusal goes back with its cause. -/
theorem exec_redeemAtSlice_refuses {cl : Claim} (hfind : Tab.find s.sliceReqs q = some (.redeem t cl pc j act sup none))
    (hgone : ¬ (s.entry (ticketKey t)).holds t) : exec (.redeemAtSlice q) s = .next { s with sliceReqs := (Tab.put s.sliceReqs q
      (.redeem t cl pc j act sup (some ((s.entry (ticketKey t)).refusalCause t)))) } := by
  show execRedeemAtSlice q s = _
  simp only [execRedeemAtSlice, hfind]
  exact if_neg (fun h => hgone (holds_iff.2 h))

end

/-! ## Delivery (R278, R281) -/

section
variable {s : State} {n : Nat}

/-- A claim on the entry may be delivered: every byte is there. -/
def State.claimedFor (s : State) (n : Nat) (cl : Claim) : Prop :=
  (s.entry n).state = .claimed ∧ (s.entry n).waiting = [] ∧ (s.entry n).claim = some cl

/-- The entry is free, and its ticket returned. -/
def State.freeEntry (s : State) (n : Nat) : State :=
  (s.setEntry n { s.entry n with state := .free, claim := none }).returnTicket (s.entry n).team

/-- One word of a REDEEM into lane registers: 4 bytes of the image from o on, zero where they are poisoned. -/
def Entry.landingWord (e : Entry) (sup : Bool) (d L o : Nat) : Landing :=
  .lane sup d L (if e.poison.contains o then 0#32 else wd (ofBytes (cellsAt e.image o 4))) (e.poison.contains o)

theorem claimedFor_guard {cl : Claim} (h : s.claimedFor n cl) :
    ¬ (!((s.entry n).state == .claimed && (s.entry n).waiting.isEmpty)) = true := by
  obtain ⟨hstate, hwaiting, -⟩ := h
  simp [hstate, hwaiting]

theorem exec_redeemDelivery_regs {crs p d w : Nat} {act : LaneMask} {sup : Bool}
    (h : s.claimedFor n (.regs crs p d w act sup)) :
    exec (.redeemDelivery n) s = .next ((s.freeEntry n).landPend crs p ((lanesOf act).flatMap (fun L =>
      (List.range (w / 4)).map (fun k => (s.entry n).landingWord sup (d + k) L (w * L + 4 * k)))) 0#32) := by
  have ⟨_, _, hclaim⟩ := h
  show execRedeemDelivery n s = _
  simp only [execRedeemDelivery, hclaim]
  exact if_neg (claimedFor_guard h)

/-- The shared memory in which the course's REDEEM.sh lands. -/
abbrev State.sharedOf (s : State) (crs : Nat) : Space := .shared (s.course crs).team

section
variable {crs k o after turn made : Nat} (h : s.claimedFor n (.shared crs k o after turn made))
include h

theorem exec_redeemDelivery_shared : exec (.redeemDelivery n) s = if s.redeemWaits crs after turn then .next s
    else if made + 1 < 32 then .next
      ((s.setEntry n { s.entry n with claim := some (.shared crs k o after turn (made + 1)) }).setSpace (s.sharedOf crs)
        ((s.entry n).writePart (s.spaceBlock (s.sharedOf crs)) o made))
    else .next (((s.freeEntry n).setSpace (s.sharedOf crs)
      ((s.entry n).writePart ((s.freeEntry n).spaceBlock (s.sharedOf crs)) o made)).onCourse crs (fun c => c.opDone .copy k)) := by
  have ⟨_, _, hclaim⟩ := h
  show execRedeemDelivery n s = _
  simp only [execRedeemDelivery, hclaim]
  exact if_neg (claimedFor_guard h)

theorem exec_redeemDelivery_waits (hw : s.redeemWaits crs after turn = true) : exec (.redeemDelivery n) s = .next s :=
  (exec_redeemDelivery_shared h).trans (if_pos hw)

theorem exec_redeemDelivery_writes (hw : s.redeemWaits crs after turn = false) (hmade : made + 1 < 32) :
    exec (.redeemDelivery n) s = .next
      ((s.setEntry n { s.entry n with claim := some (.shared crs k o after turn (made + 1)) }).setSpace (s.sharedOf crs)
        ((s.entry n).writePart (s.spaceBlock (s.sharedOf crs)) o made)) := by
  rw [exec_redeemDelivery_shared h, hw, if_pos hmade]
  rfl

/-- The last write frees the entry. -/
theorem exec_redeemDelivery_last (hw : s.redeemWaits crs after turn = false) (hmade : 32 ≤ made + 1) :
    ∃ u, exec (.redeemDelivery n) s = .next u ∧ (u.entry n).state = .free ∧ (u.entry n).claim = none ∧
      u.spaceBlock (s.sharedOf crs) = (s.entry n).writePart (s.spaceBlock (s.sharedOf crs)) o made := by
  have hentry : (s.freeEntry n).entry n = { s.entry n with state := .free, claim := none } := entry_setEntry_same ..
  have hblock : (s.freeEntry n).spaceBlock (s.sharedOf crs) = s.spaceBlock (s.sharedOf crs) := spaceBlock_returnTicket ..
  rw [exec_redeemDelivery_shared h, hw, if_neg Bool.false_ne_true, if_neg (Nat.not_lt.2 hmade), hblock]
  exact ⟨_, rfl, congrArg Entry.state hentry, congrArg Entry.claim hentry, spaceBlock_setSpace_shared ..⟩

end

/-- One write of a REDEEM.sh changes 16 bytes, to those of the image at the same place. -/
theorem read_writePart (e : Entry) (b : Block) (o k a : Nat) : (e.writePart b o k).read a 1 =
    if o + 16 * k ≤ a ∧ a < o + 16 * k + 16 then [cellAt e.image (a - o)] else b.read a 1 := by
  have hlen : (cellsAt e.image (16 * k) 16).length = 16 := by simp [cellsAt]
  rw [Entry.writePart, read_write, hlen]
  split
  next hin =>
    have hat : 16 * k + (a - (o + 16 * k)) = a - o := by omega
    have hlt : a - (o + 16 * k) < 16 := by omega
    simp [cellsAt, hlt, hat]
  next => rfl

end

/-! ## Refusals, TDROP and expiry (R279, R283, R285) -/

section
variable {s : State} {q t crs pc j code : Nat} {act : LaneMask}

@[simp] theorem Course.land_live (c : Course) (l : Landing) : (c.land l).live = c.live := by cases l <;> simp [Course.land]
@[simp] theorem Course.land_refusals (c : Course) (l : Landing) : (c.land l).refusals = c.refusals := by
  cases l <;> simp [Course.land]

/-- A part of the course that neither a landing nor the end of a pending word changes. -/
theorem landPend_keeps {β : Type} {part : Course → β} (hland : ∀ c l, part (c.land l) = part c)
    (hend : ∀ (c : Course) pend flg, part { c with pend := pend, flg := flg } = part c) (s : State) (crs pid : Nat)
    (ls : List Landing) (fl : Word) : part ((s.landPend crs pid ls fl).course crs) = part (s.course crs) := by
  rw [State.landPend]
  cases (s.course crs).pend.find? (fun p => p.id == pid) with
  | none => rfl
  | some p => simp only [course_setCourse, if_true, hend, foldl_land_keeps hland]

/-- The trap of a refused REDEEM into lane registers is deferred: it joins the course's further traps. -/
theorem exec_redeemRefusal_regs {p d w : Nat}
    (hfind : Tab.find s.sliceReqs q = some (.redeem t (.regs crs p d w act false) pc j act false (some code)))
    (hlive : (s.course crs).live ≠ 0#32) : ∃ u, exec (.redeemRefusal q) s = .next u ∧
      (u.course crs).refusals = insertFurther ⟨2, p, { code := code, defer := true, pc := pc, aux := t, info := act.toNat }⟩
        (s.course crs).refusals := by
  show ∃ u, execRedeemRefusal q s = .next u ∧ _
  simp only [execRedeemRefusal, hfind]
  have hlands : ((s.served q).course crs).live ≠ 0#32 := hlive
  rw [← landPend_keeps (part := Course.live) Course.land_live (fun _ _ _ => rfl)] at hlands
  refine ⟨_, (if_neg hlands).trans (if_neg Bool.false_ne_true), ?_⟩
  rw [course_setCourse, if_pos rfl]
  exact congrArg (insertFurther _) (landPend_keeps (part := Course.refusals) Course.land_refusals (fun _ _ _ => rfl) ..)

/-- A refused REDEEM.sh traps at its word. -/
theorem exec_redeemRefusal_shared {k o after turn made : Nat} {sup : Bool}
    (hfind : Tab.find s.sliceReqs q = some (.redeem t (.shared crs k o after turn made) pc j act sup (some code)))
    (hwait : ((s.course crs).slotN j).wait = .verdict q) : exec (.redeemRefusal q) s = .next ((s.served q).raise crs j
      { code := code, pc := pc, resume := pc, mask := act, aux := t, info := act.toNat, inSup := sup }) := by
  show execRedeemRefusal q s = _
  simp only [execRedeemRefusal, hfind]
  exact if_pos hwait

theorem drop_eq (e : Entry) : e.drop = { e with state := if e.waiting = [] then .free else .draining } := by
  simp [Entry.drop]

theorem exec_tdropAtSlice_drops {g : Nat} (hfind : Tab.find s.sliceReqs q = some (.drop t g))
    (hlive : (s.entry (ticketKey t)).holds t) : exec (.tdropAtSlice q) s = .next (((s.served q).setEntry (ticketKey t)
      { s.entry (ticketKey t) with state := if (s.entry (ticketKey t)).waiting = [] then .free else .draining }).returnTicket
        (s.entry (ticketKey t)).team) := by
  show execTdropAtSlice q s = _
  rw [← drop_eq]
  simp only [execTdropAtSlice, hfind]
  exact if_pos (holds_iff.1 hlive)

theorem exec_ticketExpiry_expires {n : Nat} (hstate : (s.entry n).state = .pending ∨ (s.entry n).state = .ready)
    (hage : (s.grid (s.entry n).grid).lr.lifeCycles ≤ (s.entry n).age) :
    exec (.ticketExpiry n) s = .next ((s.setEntry n { s.entry n with
      state := if (s.entry n).waiting = [] then .free else .draining
      expired := some (s.entry n).gen }).returnTicket (s.entry n).team) := by
  have hexpires : s.expires (s.entry n) = true := by simpa [State.expires, hage] using hstate
  show execTicketExpiry n s = _
  rw [execTicketExpiry, if_pos hexpires, drop_eq]

end

/-! ## A TLD that waits for its quota (R273, R289, R435) -/

section
variable {s : State} {crs j d : Nat} {r : TldReq} (hwait : ((s.course crs).slotN j).wait = .quota r d)
  (hruns : s.running (s.course crs) = true) (hbar : (s.course crs).notBarred j = true)
include hwait hruns hbar

/-- A deferred refusal of the slot goes before the TLD. -/
theorem exec_tldQuotaResume_refused {t : TrapRec} (hnext : (s.course crs).nextRefusal j = some t) :
    exec (.tldQuotaResume crs j) s = .next (s.takeRefusal crs j t) := by
  show execTldQuotaResume crs j s = _
  simp [execTldQuotaResume, hwait, hruns, hbar, hnext]

theorem exec_tldQuotaResume_starts (hnext : (s.course crs).nextRefusal j = none)
    (hquota : (s.team (s.course crs).team).live < (s.lrOf (s.course crs)).quota) :
    exec (.tldQuotaResume crs j) s = .next ((s.startTld crs ((s.course crs).slotN j).pc j d r.ch r.n ((s.course crs).slotN j).act
      ((s.course crs).supIn j) (r.lanes.map (fun l => (⟨l.1, l.2.1, l.2.2.2, l.2.2.1⟩ : Item)))).advance crs j
        ((s.course crs).slotN j).act) := by
  show execTldQuotaResume crs j s = _
  simp [execTldQuotaResume, hwait, hruns, hbar, hnext, hquota]

end

/-- Settles O32, event by event. -/
theorem landingEntries : Obligations.LandingEntries :=
  ⟨fun _ _ _ _ hfind hfree => ticketAllocate_gives hfind hfree,
    fun _ _ _ hfind hbehind hfew => exec_allocationRetry_behind hfind hbehind hfew,
    fun _ _ _ _ hreader hnet hchip hgen hwaits hteam => exec_ticketBytesLand hreader hnet hchip hgen hwaits hteam,
    fun _ _ _ _ _ _ _ _ _ _ _ hfind hlive => exec_redeemAtSlice_regs hfind hlive,
    fun _ _ _ _ _ _ _ _ _ _ _ _ _ hfind hlive hruns hwait => exec_redeemAtSlice_shared hfind hlive hruns hwait,
    fun _ _ _ _ _ _ _ _ hfind hgone => exec_redeemAtSlice_refuses hfind hgone,
    fun _ _ _ _ _ _ _ _ h => exec_redeemDelivery_regs h,
    fun _ _ _ _ _ _ _ _ h hw => exec_redeemDelivery_waits h hw,
    fun _ _ _ _ _ _ _ _ h hw hmade => exec_redeemDelivery_writes h hw hmade,
    fun _ _ _ _ _ _ _ _ h hw hmade => exec_redeemDelivery_last h hw hmade,
    read_writePart,
    fun _ _ _ _ _ _ _ _ _ _ _ hfind hlive => exec_redeemRefusal_regs hfind hlive,
    fun _ _ _ _ _ _ _ _ _ _ _ _ _ _ hfind hwait => exec_redeemRefusal_shared hfind hwait,
    fun _ _ _ _ hfind hlive => exec_tdropAtSlice_drops hfind hlive,
    fun _ _ hstate hage => exec_ticketExpiry_expires hstate hage,
    fun _ _ _ _ _ hwait hruns hbar hnext hquota => exec_tldQuotaResume_starts hwait hruns hbar hnext hquota,
    fun _ _ _ _ _ _ hwait hruns hbar hnext => exec_tldQuotaResume_refused hwait hruns hbar hnext⟩

end Sys2Proof.Machine

/-! # Channel words and their checks (R293, R294, R298–R304, R422, R501) -/

namespace Sys2Proof.Machine

/-! ## The checks of R300 -/

section
variable (m : MWord) (ntf : Bool) (s : State) (x : Ctx)

/-- The channel that a channel word names. -/
abbrev namedChan : Chan := s.chan (s.issuer x).team m.ch.toNat

/-- The address of a channel word in lane L. -/
abbrev chanAt (L : Nat) : Int := s.chanAddr x (s.issuer x) m ntf L

/-- The counter that a notify names is one that the grid declares. -/
def counterHeld : Prop := ntf = true → MWord.counter m < (s.lrOf (s.issuer x)).events

/-- Lane L's address is a multiple of the size. -/
def chanAligned (L : Nat) : Prop := chanAt m ntf s x L % (m.size.bytes : Int) = 0

/-- Lane L's bytes lie in the address space. -/
def chanInside (L : Nat) : Prop := 0 ≤ chanAt m ntf s x L ∧ chanAt m ntf s x L + m.size.bytes ≤ (2 ^ 52 : Nat)

/-- What the checks of a channel word's pages come to. -/
def chanPages : Looked :=
  s.lookPages (s.ctxOf (s.issuer x)) (x.trap 0) true ((lanesOf x.act).map (fun L => ⟨L, (chanAt m ntf s x L).toNat, 2, .any⟩))

/-- A channel word passes the checks before those of its addresses. -/
def chanSound (i : Instr) : Prop := x.act ≠ 0#32 ∧ (namedChan m s x).cause = 0 ∧ counterHeld m ntf s x ∧
  s.poisoned (s.issuer x) x i.fields = none

end

section
variable {m : MWord} {ntf : Bool} {s : State} {x : Ctx} {i : Instr} {L : Nat} {f : Course → List Item → Res}

theorem writeChecks_idle (hact : x.act = 0#32) : s.writeChecks x i m ntf f = .go s := if_pos hact

theorem writeChecks_broken (hact : x.act ≠ 0#32) (hc : (namedChan m s x).cause ≠ 0) :
    s.writeChecks x i m ntf f = .trap (x.chanTrap 0x11 m.ch.toNat (namedChan m s x)) := (if_neg hact).trans (if_pos hc)

theorem counterHeld_iff : counterHeld m ntf s x ↔
    ¬ (ntf && decide ((s.lrOf (s.issuer x)).events ≤ MWord.counter m)) = true := by
  rw [counterHeld, Bool.and_eq_true, decide_eq_true_eq, not_and, Nat.not_le]

theorem writeChecks_beyond_counters (hact : x.act ≠ 0#32) (hc : (namedChan m s x).cause = 0) (hk : ¬ counterHeld m ntf s x) :
    s.writeChecks x i m ntf f = .trap x.illegalOperand :=
  (if_neg hact).trans ((if_neg (not_not_intro hc)).trans (if_pos (Classical.not_not.1 (mt counterHeld_iff.2 hk))))

theorem writeChecks_poisoned {p : Nat × Nat} (hact : x.act ≠ 0#32) (hc : (namedChan m s x).cause = 0)
    (hk : counterHeld m ntf s x) (hp : s.poisoned (s.issuer x) x i.fields = some p) :
    s.writeChecks x i m ntf f = .trap (x.dataError p) := by
  simp only [State.writeChecks, if_neg hact, if_neg (not_not_intro hc), if_neg (counterHeld_iff.1 hk), hp]

/-- Of a sound word the addresses decide first, then the pages. -/
theorem writeChecks_sound (h : chanSound m ntf s x i) : s.writeChecks x i m ntf f =
    (x.addrCheck (chanAt m ntf s x) m.size.bytes 1).elim
      ((chanPages m ntf s x).then (f (s.issuer x) (channelItems m ntf s x))) .trap := by
  obtain ⟨hact, hc, hk, hp⟩ := h
  simp only [State.writeChecks, if_neg hact, if_neg (not_not_intro hc), if_neg (counterHeld_iff.1 hk), hp]
  cases x.addrCheck (chanAt m ntf s x) m.size.bytes 1 <;> rfl

theorem addrCheck_misaligned {E : Nat → Int} {n kind : Nat}
    (hfind : (lanesOf x.act).find? (fun L => E L % (n : Int) ≠ 0) = some L) :
    x.addrCheck E n kind = some (x.addrTrap 0x08 0 L (intBits (E L) 64) 0) := by
  simp only [Ctx.addrCheck, hfind]

/-- Once every lane is aligned, the lowest lane outside the address space decides. -/
theorem addrCheck_aligned {E : Nat → Int} {n kind : Nat} (hal : ∀ l ∈ lanesOf x.act, E l % (n : Int) = 0) :
    x.addrCheck E n kind = ((lanesOf x.act).find? (fun L => E L < 0 || (Config.addrLimit : Int) < E L + n)).map
      (fun L => x.addrTrap 0x07 2 L (intBits (E L) 64) kind) := by
  have hfind : (lanesOf x.act).find? (fun L => E L % (n : Int) ≠ 0) = none :=
    List.find?_eq_none.2 (fun l hl => by simp [hal l hl])
  simp only [Ctx.addrCheck, hfind]

/-- Once every lane's address is good, the pages decide. -/
theorem writeChecks_pages (h : chanSound m ntf s x i)
    (hok : ∀ L ∈ lanesOf x.act, chanAligned m ntf s x L ∧ chanInside m ntf s x L) :
    s.writeChecks x i m ntf f = (chanPages m ntf s x).then (f (s.issuer x) (channelItems m ntf s x)) := by
  have hinside : (lanesOf x.act).find? (fun L => chanAt m ntf s x L < 0 ||
      (Config.addrLimit : Int) < chanAt m ntf s x L + m.size.bytes) = none := by
    refine List.find?_eq_none.2 (fun L hL => ?_)
    obtain ⟨-, hlo, hhi⟩ := hok L hL
    rw [Bool.or_eq_true, decide_eq_true_eq, decide_eq_true_eq]
    exact not_or.2 ⟨Int.not_lt.2 hlo, Int.not_lt.2 hhi⟩
  rw [writeChecks_sound h, addrCheck_aligned (fun L hL => (hok L hL).1), hinside]
  rfl

end

/-- The channel words begin with the checks of R300. -/
theorem exec_channelWord {m : MWord} {i : Instr} {ntf : Bool} (hi : (∃ r, i = .stg m r ntf) ∨ (∃ op r, i = .atomg m op r ntf) ∨
    (∃ op r, i = .redg m op r ntf) ∨ (ntf = false ∧ ∃ op, i = .redgSh m op)) :
    ∃ f : State → Ctx → Course → List Item → Res, ∀ s, exec i s = s.issue i m.head (fun x => s.writeChecks x i m ntf (f s x)) := by
  obtain ⟨r, rfl⟩ | ⟨op, r, rfl⟩ | ⟨op, r, rfl⟩ | ⟨rfl, op, rfl⟩ := hi
  all_goals exact ⟨_, fun _ => rfl⟩

section
variable {m : MWord} {ntf : Bool} {i : Instr} {f : State → Ctx → Course → List Item → Res}
  (hx : ∀ s, exec i s = s.issue i m.head (fun x => s.writeChecks x i m ntf (f s x)))
include hx

theorem channelWord_broken : DoesIf i m.head (fun s x => x.act ≠ 0#32 ∧ (namedChan m s x).cause ≠ 0)
    (fun s x => s.trapped x (x.chanTrap 0x11 m.ch.toNat (namedChan m s x))) :=
  doesIf_of (r := fun s x => .trap (x.chanTrap 0x11 m.ch.toNat (namedChan m s x))) hx
    (fun _ _ ⟨hact, hc⟩ => writeChecks_broken hact hc)

theorem channelWord_beyond_counters :
    DoesIf i m.head (fun s x => x.act ≠ 0#32 ∧ (namedChan m s x).cause = 0 ∧ ¬ counterHeld m ntf s x)
      (fun s x => s.trapped x x.illegalOperand) :=
  doesIf_of (r := fun _ x => .trap x.illegalOperand) hx (fun _ _ ⟨hact, hc, hk⟩ => writeChecks_beyond_counters hact hc hk)

theorem channelWord_poisoned (p : Nat × Nat) : DoesIf i m.head
    (fun s x => x.act ≠ 0#32 ∧ (namedChan m s x).cause = 0 ∧ counterHeld m ntf s x ∧
      s.poisoned (s.issuer x) x i.fields = some p) (fun s x => s.trapped x (x.dataError p)) :=
  doesIf_of (r := fun _ x => .trap (x.dataError p)) hx (fun _ _ ⟨hact, hc, hk, hp⟩ => writeChecks_poisoned hact hc hk hp)

theorem channelWord_misaligned (L : Nat) : DoesIf i m.head
    (fun s x => chanSound m ntf s x i ∧
      (lanesOf x.act).find? (fun L => chanAt m ntf s x L % (m.size.bytes : Int) ≠ 0) = some L)
    (fun s x => s.trapped x (x.addrTrap 0x08 0 L (intBits (chanAt m ntf s x L) 64) 0)) :=
  doesIf_of (r := fun s x => .trap (x.addrTrap 0x08 0 L (intBits (chanAt m ntf s x L) 64) 0)) hx
    (fun _ _ ⟨hsound, hfind⟩ => by rw [writeChecks_sound hsound, addrCheck_misaligned hfind]; rfl)

theorem channelWord_outside (L : Nat) : DoesIf i m.head
    (fun s x => chanSound m ntf s x i ∧ (∀ l ∈ lanesOf x.act, chanAligned m ntf s x l) ∧
      (lanesOf x.act).find? (fun L => chanAt m ntf s x L < 0 ||
        decide ((2 ^ 52 : Int) < chanAt m ntf s x L + m.size.bytes)) = some L)
    (fun s x => s.trapped x (x.addrTrap 0x07 2 L (intBits (chanAt m ntf s x L) 64) 1)) :=
  doesIf_of (r := fun s x => .trap (x.addrTrap 0x07 2 L (intBits (chanAt m ntf s x L) 64) 1)) hx
    (fun _ _ ⟨hsound, hal, hfind⟩ => by
      have hlimit : ((Config.addrLimit : Nat) : Int) = 2 ^ 52 := rfl
      rw [writeChecks_sound hsound, addrCheck_aligned hal, hlimit, hfind]
      rfl)

theorem channelWord_page_traps (t : TrapRec) : DoesIf i m.head
    (fun s x => (chanSound m ntf s x i ∧ ∀ L ∈ lanesOf x.act, chanAligned m ntf s x L ∧ chanInside m ntf s x L) ∧
      (chanPages m ntf s x).res = .trap t)
    (fun s x => s.trappedPast x (chanPages m ntf s x).vas t) :=
  doesIf_of (r := fun s x => .trapLooked (chanPages m ntf s x).vas t) hx
    (fun _ _ ⟨⟨hsound, hok⟩, hpages⟩ => (writeChecks_pages hsound hok).trans (then_trap hpages))

theorem channelWord_page_waits : DoesIf i m.head
    (fun s x => (chanSound m ntf s x i ∧ ∀ L ∈ lanesOf x.act, chanAligned m ntf s x L ∧ chanInside m ntf s x L) ∧
      (chanPages m ntf s x).res = .wait)
    (fun s x => s.heldPast x (chanPages m ntf s x).vas false) :=
  doesIf_of (r := fun s x => .held (chanPages m ntf s x).vas false) hx
    (fun _ _ ⟨⟨hsound, hok⟩, hpages⟩ => (writeChecks_pages hsound hok).trans (then_wait hpages))

end

/-- What holds where a condition holds, holds where a stronger one does. -/
theorem doesIf_mono {i : Instr} {h : Head} {ok ok' : State → Ctx → Prop} {out : State → Ctx → Out}
    (hok : ∀ s x, ok' s x → ok s x) (hi : DoesIf i h ok out) : DoesIf i h ok' out :=
  fun s hp hs => hi s hp (hok _ _ hs)

/-- Settles O25, check by check. -/
theorem channelChecks : Obligations.ChannelChecks := by
  intro m i ntf hi
  obtain ⟨f, hx⟩ := exec_channelWord hi
  refine ⟨channelWord_broken hx, channelWord_beyond_counters hx, channelWord_poisoned hx, fun L => ?misaligned,
    fun L => ?outside, fun t => ?traps, ?waits⟩
  case misaligned =>
    exact doesIf_mono (fun _ _ ⟨hact, hc, hk, hp, hfind⟩ => ⟨⟨hact, hc, hk, hp⟩, hfind⟩) (channelWord_misaligned hx L)
  case outside =>
    exact doesIf_mono (fun _ _ ⟨hact, hc, hk, hp, hal, hfind⟩ => ⟨⟨hact, hc, hk, hp⟩, hal, hfind⟩) (channelWord_outside hx L)
  case traps =>
    exact doesIf_mono (fun _ _ ⟨⟨hact, hc, hk, hp, hok⟩, hpages⟩ => ⟨⟨⟨hact, hc, hk, hp⟩, hok⟩, hpages⟩)
      (channelWord_page_traps hx t)
  case waits =>
    exact doesIf_mono (fun _ _ ⟨⟨hact, hc, hk, hp, hok⟩, hpages⟩ => ⟨⟨⟨hact, hc, hk, hp⟩, hok⟩, hpages⟩)
      (channelWord_page_waits hx)

end Sys2Proof.Machine

/-! # What the channel words send (R293, R294, R296, R298–R304, R308, R309) -/

namespace Sys2Proof.Machine

/-- A word whose body, at the cursor, comes to r where ok holds. -/
theorem doesIf_at {i : Instr} {h : Head} {ok : State → Ctx → Prop} {b r : State → Ctx → Res}
    (hx : ∀ s, exec i s = s.issue i h (b s)) (hb : ∀ s, ok s (s.wordCtx h) → b s (s.wordCtx h) = r s (s.wordCtx h)) :
    DoesIf i h ok (fun s x => .next (s.settle x (r s x))) := by
  intro s hp hok
  rw [exec_of_passes (hx s) hp, hb _ hok]

/-! ## Room (R294, R296, R308) -/

/-- How many packets a word sends to each destination. -/
def groupSizes (g : List (Dest × List PacketBody)) : List (Dest × Nat) := g.map (fun y => (y.1, y.2.length))

/-- The addresses that a word's packets name. -/
def groupAddrs (g : List (Dest × List PacketBody)) : List Nat :=
  g.flatMap (fun y => y.2.flatMap (fun b => (packetElems b).map (fun e => e.1)))

section
variable {s : State} {team ch : Nat} {rel : Bool} {ntf : Option Nat} {g : List (Dest × List PacketBody)}
  {mk : State → OutPacket → State × OutPacket}

/-- Without entries of the stream table for the streams that it opens, a word has no room. -/
theorem roomFor_without_entries {ps : List (Dest × Nat)} (h : s.entriesFor team ch ps = false) :
    s.roomFor team ch rel ps = false := by
  rw [State.roomFor, h, Bool.false_and]

/-- A word without room waits, for an entry of the stream table where it has none. -/
theorem sendWord_full (h : s.roomFor team ch rel (groupSizes g) = false) : s.sendWord team ch rel ntf g mk =
    .held (groupAddrs g) (!s.entriesFor team ch (groupSizes g)) := if_pos (congrArg Bool.not h)

/-- A word's packets as it notes them, with the state in which it has. -/
def notedPackets (mk : State → OutPacket → State × OutPacket) (t : State) (qs : List OutPacket) : State × List OutPacket :=
  qs.foldl (fun a q => ((mk a.1 q).1, a.2 ++ [(mk a.1 q).2])) (t, [])

/-- A word's packets are placed, its operation number is taken, and what may be sent is sent. -/
def State.sendOut (s : State) (team ch : Nat) (qs : List OutPacket) : State :=
  ((s.placePackets team ch qs).bumpOp team).pump team

theorem sendWord_sends (h : s.roomFor team ch rel (groupSizes g) = true) : s.sendWord team ch rel ntf g mk =
    let t := if rel then s.release team ch else s
    let y := notedPackets mk t (channelPackets t team ch ntf g)
    .go (y.1.sendOut team ch y.2) :=
  if_neg (by rw [show s.roomFor team ch rel (g.map (fun g => (g.1, g.2.length))) = true from h]; exact Bool.false_ne_true)

end

/-! ## A word that sends its packets -/

section
variable (m : MWord) (ntf : Bool) (s : State) (x : Ctx)

/-- The translations of a channel word's pages are held. -/
def chanFilled : State := s.tlbFill (s.ctxOf (s.issuer x)) ((channelItems m ntf s x).map (fun i => i.va))

/-- The counter that a word notifies. -/
def asked : Option Nat := if ntf then some (MWord.counter m) else none

/-- The word's packets have room. -/
def chanRoom (r : Bool) (g : List (Dest × List PacketBody)) : Bool :=
  (chanFilled m ntf s x).roomFor (s.issuer x).team m.ch.toNat r (groupSizes g)

/-- There are entries of the stream table for the streams that the word opens. -/
def chanEntries (g : List (Dest × List PacketBody)) : Bool :=
  (chanFilled m ntf s x).entriesFor (s.issuer x).team m.ch.toNat (groupSizes g)

/-- Under .rel the word first merges the shadow copies and holds the channel (R309). -/
def chanReleased (r : Bool) : State :=
  if r then (chanFilled m ntf s x).release ((chanFilled m ntf s x).issuer (s.wordCtx m.head)).team m.ch.toNat
  else chanFilled m ntf s x

/-- The packets of a channel word, before it notes anything in them. -/
def chanPackets (r : Bool) (g : List (Dest × List PacketBody)) : List OutPacket :=
  channelPackets (chanReleased m ntf s x r) (s.issuer x).team m.ch.toNat (asked m ntf) g

/-- Holding translations leaves which team issues. -/
theorem chanFilled_team : ((chanFilled m ntf s x).issuer x).team = (s.issuer x).team := by
  obtain ⟨l, hfill⟩ := tlbFill_eq s (s.ctxOf (s.issuer x)) ((channelItems m ntf s x).map (fun i => i.va))
  rw [chanFilled, hfill]
  rfl

variable {m ntf s x} {i : Instr} {f : Course → List Item → Res}

theorem writeChecks_of_clear (h : channelClear i m ntf s x) :
    s.writeChecks x i m ntf f = f (s.issuer x) (channelItems m ntf s x) := by
  obtain ⟨hact, hc, hk, hp, hok, hpages⟩ := h
  exact writeChecks_clear hact hc hk hp hok hpages

end

/-- A word makes the checks of R300, then sends the packets of g, each noted by mk. -/
def ChecksThenSends (i : Instr) (m : MWord) (r ntf : Bool) (g : State → Ctx → List (Dest × List PacketBody))
    (mk : Ctx → State → OutPacket → State × OutPacket) : Prop :=
  ∃ f : State → Ctx → Course → List Item → Res,
    (∀ s, exec i s = s.issue i m.head (fun x => s.writeChecks x i m ntf (f s x))) ∧
    ∀ s x, f s x (s.issuer x) (channelItems m ntf s x) =
      (chanFilled m ntf s x).sendWord (s.issuer x).team m.ch.toNat r (asked m ntf) (g s x) (mk x)

section
variable {i : Instr} {m : MWord} {r ntf : Bool} {g : State → Ctx → List (Dest × List PacketBody)}
  {mk : Ctx → State → OutPacket → State × OutPacket} (hi : ChecksThenSends i m r ntf g mk)
include hi

/-- Without room the word waits, for an entry of the stream table where it lacks one. -/
theorem channelWord_waits : DoesIf i m.head (fun _ x => x.act = 0#32) (fun s x => s.went x) ∧
    DoesIf i m.head (fun s x => channelClear i m ntf s x ∧
        chanRoom m ntf s x r (g s x) = false ∧ chanEntries m ntf s x (g s x) = true)
      (fun s x => s.heldPast x (groupAddrs (g s x)) false) ∧
    DoesIf i m.head (fun s x => channelClear i m ntf s x ∧ chanEntries m ntf s x (g s x) = false)
      (fun s x => s.heldPast x (groupAddrs (g s x)) true) := by
  obtain ⟨f, hx, hf⟩ := hi
  refine ⟨?idle, ?full, ?entry⟩
  case idle => exact doesIf_of (r := fun s _ => .go s) hx (fun _ _ hact => writeChecks_idle hact)
  case full =>
    refine doesIf_of (r := fun s x => .held (groupAddrs (g s x)) false) hx (fun s x ⟨hclear, hroom, hentries⟩ => ?_)
    rw [chanEntries] at hentries
    rw [writeChecks_of_clear hclear, hf, sendWord_full hroom, hentries, Bool.not_true]
  case entry =>
    refine doesIf_of (r := fun s x => .held (groupAddrs (g s x)) true) hx (fun s x ⟨hclear, hentries⟩ => ?_)
    rw [chanEntries] at hentries
    rw [writeChecks_of_clear hclear, hf, sendWord_full (roomFor_without_entries hentries), hentries, Bool.not_false]

/-- With room, the word sends its packets. -/
theorem channelWord_sends : DoesIf i m.head (fun s x => channelClear i m ntf s x ∧ chanRoom m ntf s x r (g s x) = true)
    (fun s x =>
      let y := notedPackets (mk x) (chanReleased m ntf s x r) (chanPackets m ntf s x r (g s x))
      (y.1.sendOut (s.issuer x).team m.ch.toNat y.2).went x) := by
  obtain ⟨f, hx, hf⟩ := hi
  refine doesIf_at (r := fun s x =>
    let y := notedPackets (mk x) (chanReleased m ntf s x r) (chanPackets m ntf s x r (g s x))
    .go (y.1.sendOut (s.issuer x).team m.ch.toNat y.2)) hx (fun s ⟨hclear, hroom⟩ => ?_)
  rw [writeChecks_of_clear hclear, hf, sendWord_sends hroom, chanPackets, chanReleased, chanFilled_team]

end

/-- A word that notes nothing in its packets leaves them as they are. -/
theorem notedPackets_plain (t : State) (qs : List OutPacket) : notedPackets (fun s q => (s, q)) t qs = (t, qs) := by
  have happend : ∀ (qs : List OutPacket) (a : State × List OutPacket),
      qs.foldl (fun a q => (a.1, a.2 ++ [q])) a = (a.1, a.2 ++ qs) := by
    intro qs
    induction qs with
    | nil => exact fun a => by rw [List.foldl_nil, List.append_nil]
    | cons q qs ih => exact fun a => by rw [List.foldl_cons, ih, List.append_assoc, List.singleton_append]
  exact happend qs (t, [])

/-! ## STG, REDG and ATOMG (R298, R301) -/

section
variable (m : MWord) (ntf : Bool) (s : State) (x : Ctx)

/-- The data of a channel word in lane L. -/
def chanData (L : Nat) : Nat := s.laneGroup (s.issuer x) x.sup m.ds.toNat m.size.regs L

/-- The packets' bodies of an STG: of two lanes that write the same bytes the higher counts. -/
def storeGroups : List (Dest × List PacketBody) :=
  (byDest (fun i => i.dest) (mergeStores (channelItems m ntf s x))).map (fun g =>
    (g.1, (cutRun m.size.bytes g.2).map (fun l => PacketBody.store (l.map (fun i =>
      ⟨i.va, i.pa, bytesOf m.size.bytes (chanData m s x i.lane), false⟩)))))

/-- Those of a REDG. -/
def reduceGroups (op : RedgOp) : List (Dest × List PacketBody) :=
  (byDest (fun i => i.dest) (channelItems m ntf s x)).map (fun g =>
    (g.1, (cutRun m.size.bytes g.2).map (fun l => PacketBody.reduce op m.size.bytes (l.map (fun i =>
      ⟨i.va, i.pa, i.lane, chanData m s x i.lane % 2 ^ (8 * m.size.bytes), 0⟩)))))

/-- Those of an ATOMG: a CAS carries two operands. -/
def atomGroups (op : AtomOp) : List (Dest × List PacketBody) :=
  (byDest (fun i => i.dest) (channelItems m ntf s x)).map (fun g =>
    (g.1, (cutRun (if op = .cas then 2 * m.size.bytes else m.size.bytes) g.2).map (fun l =>
      PacketBody.atom op m.size.bytes m.ds.toNat (s.atomElems x (s.issuer x) m op l))))

/-- A packet of an ATOMG is noted with the word that it fills, and the registers of its lanes are empty until then. -/
def noteAtomg (t : State) (q : OutPacket) : State × OutPacket :=
  match q.pkt.body with
  | .atom _ _ _ es =>
    (t.addPend x .other .remote ((List.range m.size.regs).map (fun i =>
      (⟨x.sup, true, m.ds.toNat + i⟩, maskOfLanes (es.map (fun e => e.lane))))) 0#32 0#32,
      { q with atomg := some (x.crs, (t.course x.crs).nextPend, m.ds.toNat) })
  | _ => (t, q)

end

/-- A reduction is no CAS: its elements have one operand. -/
theorem atomElems_redgAtom (s : State) (x : Ctx) (c : Course) (m : MWord) (op : RedgOp) (items : List Item) :
    s.atomElems x c m (redgAtom op) items = items.map (fun i =>
      ⟨i.va, i.pa, i.lane, s.laneGroup c x.sup m.ds.toNat m.size.regs i.lane % 2 ^ (8 * m.size.bytes), 0⟩) := by
  have hcas : redgAtom op ≠ .cas := by cases op <;> exact AtomOp.noConfusion
  simp only [State.atomElems, if_neg hcas]

theorem stg_sends (m : MWord) (r ntf : Bool) : ChecksThenSends (.stg m r ntf) m r ntf (storeGroups m ntf) (fun _ s q => (s, q)) :=
  ⟨_, fun _ => rfl, fun _ _ => rfl⟩

theorem redg_sends (m : MWord) (op : RedgOp) (r ntf : Bool) :
    ChecksThenSends (.redg m op r ntf) m r ntf (fun s x => reduceGroups m ntf s x op) (fun _ s q => (s, q)) := by
  refine ⟨_, fun _ => rfl, fun s x => ?_⟩
  simp only [atomElems_redgAtom]
  rfl

theorem atomg_sends (m : MWord) (op : AtomOp) (r ntf : Bool) :
    ChecksThenSends (.atomg m op r ntf) m r ntf (fun s x => atomGroups m ntf s x op) (noteAtomg m) :=
  ⟨_, fun _ => rfl, fun _ _ => rfl⟩

/-- An ATOMG's next packet, after those noted already. -/
def nextAtomg (m : MWord) (x : Ctx) (a : State × List OutPacket) (q : OutPacket) : State × List OutPacket :=
  match q.pkt.body with
  | .atom _ _ _ es =>
    (a.1.addPend x .other .remote ((List.range m.size.regs).map (fun i =>
      (⟨x.sup, true, m.ds.toNat + i⟩, maskOfLanes (es.map (fun e => e.lane))))) 0#32 0#32,
      a.2 ++ [{ q with atomg := some (x.crs, (a.1.course x.crs).nextPend, m.ds.toNat) }])
  | _ => (a.1, a.2 ++ [q])

theorem notedPackets_atomg (m : MWord) (x : Ctx) (t : State) (qs : List OutPacket) :
    notedPackets (noteAtomg m x) t qs = qs.foldl (nextAtomg m x) (t, []) := by
  have hstep : (fun (a : State × List OutPacket) q => ((noteAtomg m x a.1 q).1, a.2 ++ [(noteAtomg m x a.1 q).2])) =
      nextAtomg m x := by
    funext a q
    rw [noteAtomg, nextAtomg]
    cases q.pkt.body <;> rfl
  rw [notedPackets, hstep]

/-! ## REDG.sh (R303) -/

section
variable (m : MWord) (op : RedgOp)

/-- The contributions of a REDG.sh, in ascending lane order: none where one must go home and has no room. -/
def contributed (s : State) (x : Ctx) : Option State :=
  (channelItems m false s x).foldl (fun (t : Option State) i => t.bind (fun t =>
    t.shadowAdd (s.issuer x).team m.ch.toNat op m.size.bytes i.va i.pa i.dest (chanData m s x i.lane % 2 ^ (8 * m.size.bytes))))
    (some (chanFilled m false s x))

/-- One packet for each lane of a REDG.sh. -/
def lanePackets (s : State) (x : Ctx) : List (Dest × Nat) := (channelItems m false s x).map (fun i => (i.dest, 1))

/-- What a REDG.sh whose lanes are clear comes to. -/
def redgShBody (s : State) (x : Ctx) : Res :=
  (contributed m op s x).elim (s.noRoom (s.issuer x).team m.ch.toNat (lanePackets m s x) ((channelItems m false s x).map (fun i => i.va)))
    (fun t => .go ((t.onChan (s.issuer x).team m.ch.toNat (fun c =>
      { c with lastDest := (byDest (fun i => i.dest) (channelItems m false s x)).getLast?.map (fun g => g.1) })).pump
        (s.issuer x).team))

/-- A REDG.sh makes the checks of R300. -/
theorem exec_redgSh : ∃ f : State → Ctx → Course → List Item → Res,
    (∀ s, exec (.redgSh m op) s = s.issue (.redgSh m op) m.head (fun x => s.writeChecks x (.redgSh m op) m false (f s x))) ∧
    ∀ s x, f s x (s.issuer x) (channelItems m false s x) = redgShBody m op s x := by
  refine ⟨_, fun _ => rfl, fun s x => ?_⟩
  rw [redgShBody]
  show (match contributed m op s x with
    | none => _
    | some t => _) = _
  cases contributed m op s x <;> rfl

end

section
variable {m : MWord} {op : RedgOp}

theorem redgSh_idle : DoesIf (.redgSh m op) m.head (fun _ x => x.act = 0#32) (fun s x => s.went x) := by
  obtain ⟨f, hx, -⟩ := exec_redgSh m op
  exact doesIf_of (r := fun s _ => .go s) hx (fun _ _ hact => writeChecks_idle hact)

/-- What a REDG.sh does whose lanes are clear. -/
theorem redgSh_of {ok : State → Ctx → Prop} {res : State → Ctx → Res} (h : ∀ s x, ok s x → redgShBody m op s x = res s x) :
    DoesIf (.redgSh m op) m.head (fun s x => channelClear (.redgSh m op) m false s x ∧ ok s x)
      (fun s x => .next (s.settle x (res s x))) := by
  obtain ⟨f, hx, hf⟩ := exec_redgSh m op
  exact doesIf_of hx (fun s x ⟨hclear, hok⟩ => (writeChecks_of_clear hclear).trans ((hf s x).trans (h s x hok)))

theorem redgSh_adds (t : State) : DoesIf (.redgSh m op) m.head
    (fun s x => channelClear (.redgSh m op) m false s x ∧ contributed m op s x = some t)
    (fun s x => ((t.onChan (s.issuer x).team m.ch.toNat (fun c =>
      { c with lastDest := (byDest (fun i => i.dest) (channelItems m false s x)).getLast?.map (fun g => g.1) })).pump
        (s.issuer x).team).went x) :=
  redgSh_of (res := fun s x => .go ((t.onChan (s.issuer x).team m.ch.toNat (fun c =>
    { c with lastDest := (byDest (fun i => i.dest) (channelItems m false s x)).getLast?.map (fun g => g.1) })).pump
      (s.issuer x).team)) (fun s x hadded => by rw [redgShBody, hadded]; rfl)

/-- A REDG.sh that has no room waits, for an entry of the stream table where it lacks one. -/
theorem redgSh_waits (free : Bool) : DoesIf (.redgSh m op) m.head
    (fun s x => channelClear (.redgSh m op) m false s x ∧ contributed m op s x = none ∧
      s.entriesFor (s.issuer x).team m.ch.toNat (lanePackets m s x) = free)
    (fun s x => s.heldPast x ((channelItems m false s x).map (fun i => i.va)) (!free)) :=
  redgSh_of (res := fun s x => .held ((channelItems m false s x).map (fun i => i.va)) (!free))
    (fun s x ⟨hnone, hentries⟩ => by rw [redgShBody, hnone, ← hentries]; rfl)

end

/-! ## The words together -/

/-- A word that notes nothing in its packets. -/
theorem plainWord_sends {i : Instr} {m : MWord} {r ntf : Bool} {g : State → Ctx → List (Dest × List PacketBody)}
    (hi : ChecksThenSends i m r ntf g (fun _ s q => (s, q))) :
    DoesIf i m.head (fun s x => channelClear i m ntf s x ∧ chanRoom m ntf s x r (g s x) = true) (fun s x =>
      ((chanReleased m ntf s x r).sendOut (s.issuer x).team m.ch.toNat (chanPackets m ntf s x r (g s x))).went x) := by
  have hsends := channelWord_sends hi
  simp only [notedPackets_plain] at hsends
  exact hsends

theorem atomgWord_sends (m : MWord) (op : AtomOp) (r ntf : Bool) : DoesIf (.atomg m op r ntf) m.head
    (fun s x => channelClear (.atomg m op r ntf) m ntf s x ∧ chanRoom m ntf s x r (atomGroups m ntf s x op) = true)
    (fun s x =>
      let y := (chanPackets m ntf s x r (atomGroups m ntf s x op)).foldl (nextAtomg m x) (chanReleased m ntf s x r, [])
      (y.1.sendOut (s.issuer x).team m.ch.toNat y.2).went x) := by
  have hsends := channelWord_sends (atomg_sends m op r ntf)
  simp only [notedPackets_atomg] at hsends
  exact hsends

/-- Settles O24, word by word. -/
theorem channelWords : Obligations.ChannelWords :=
  ⟨fun m r ntf => ⟨channelWord_waits (stg_sends m r ntf), plainWord_sends (stg_sends m r ntf)⟩,
    fun m op r ntf => ⟨channelWord_waits (redg_sends m op r ntf), plainWord_sends (redg_sends m op r ntf)⟩,
    fun m op r ntf => channelWord_waits (atomg_sends m op r ntf), atomgWord_sends, fun _ _ => redgSh_idle,
    fun _ _ => redgSh_adds, fun _ _ => redgSh_waits true, fun _ _ => redgSh_waits false⟩

end Sys2Proof.Machine

/-! # The words of order between channels, event counters and LOCQ (R306–R311, R314–R316, R422) -/

namespace Sys2Proof.Machine

/-! ## CJOIN, CDRAIN and CRESET (R308, R310, R316) -/

theorem lowestBroken_of_whole {s : State} {team : Nat} {chs : List Nat} (h : ∀ k ∈ chs, (s.chan team k).cause = 0) :
    s.lowestBroken team chs = none :=
  List.find?_eq_none.2 (fun k hk => by simp [h k hk])

section
variable (r : RWord) (s : State) (x : Ctx)

/-- The channels that a word names by the mask in o. -/
def maskNamed (o : Operand) : List Nat := maskChannels (s.usrc x o % 2 ^ 16) (s.lrOf (s.issuer x)).chans

/-- A list of channels as a mask. -/
def maskOfChannels (l : List Nat) : Nat := l.foldl (fun a k => a + 2 ^ k) 0

/-- A CJOIN's own channel and those that it waits for are whole. -/
def cjoinWhole : Prop := ∀ k, (k = r.a.field.toNat ∨ k ∈ maskNamed s x r.b) → k < 16 → (s.chan (s.issuer x).team k).cause = 0

theorem cjoin_holds : DoesIf (.cjoin r) r.head (fun s x => x.act ≠ 0#32 ∧ cjoinWhole r s x)
    (fun s x => (s.onChan (s.issuer x).team r.a.field.toNat (fun c => { c with
      gates := c.gates ++ [⟨s.nextOpOf (s.issuer x).team, maskOfChannels (maskNamed s x r.b)⟩] })).went x) := by
  refine doesIf_of (r := fun s x => .go (s.onChan (s.issuer x).team r.a.field.toNat (fun c => { c with
    gates := c.gates ++ [⟨s.nextOpOf (s.issuer x).team, maskOfChannels (maskNamed s x r.b)⟩] }))) (fun _ => rfl)
    (fun s x ⟨hact, hwhole⟩ => ?_)
  have hnone : s.lowestBroken (s.issuer x).team ((List.range 16).filter (fun k =>
      k == r.a.field.toNat || (maskNamed s x r.b).contains k)) = none := by
    refine lowestBroken_of_whole (fun k hk => ?_)
    obtain ⟨hlt, hnamed⟩ := List.mem_filter.1 hk
    exact hwhole k (by simpa using hnamed) (List.mem_range.1 hlt)
  refine (if_neg hact).trans ?_
  simp only [maskNamed, State.usrc] at hnone
  simp only [State.uval, hnone]
  rfl

theorem cdrain_idle (scope : Scope) (sc : Bool) :
    DoesIf (.cdrain r scope sc) r.head (fun _ x => x.act = 0#32) (fun s x => s.went x) :=
  doesIf_of (r := fun s _ => .go s) (fun _ => rfl) (fun _ _ hact => if_pos hact)

/-- A CDRAIN's scope that reaches other packages' readers merges the shadow copies first. -/
def drainStart (scope : Scope) : State :=
  if Scope.merges scope then (s.mergeAll (s.issuer x).team).pump (s.issuer x).team else s

theorem cdrain_waits (scope : Scope) (sc : Bool) : DoesIf (.cdrain r scope sc) r.head (fun _ x => x.act ≠ 0#32)
    (fun s x => (drainStart s x scope).waits x (.cdrain (maskOfChannels (maskNamed s x r.a))
      ((drainStart s x scope).nextOpOf (s.issuer x).team) sc (Scope.merges scope))) :=
  doesIf_of (r := fun s x => .wait (drainStart s x scope) (.cdrain (maskOfChannels (maskNamed s x r.a))
    ((drainStart s x scope).nextOpOf (s.issuer x).team) sc (Scope.merges scope))) (fun _ => rfl) (fun _ _ hact => if_neg hact)

/-- Some operation of the channel that a CRESET names is neither acknowledged nor refused. -/
abbrev cresetBusy : Bool := (s.chan (s.issuer x).team r.a.field.toNat).busyBelow (s.nextOpOf (s.issuer x).team)

theorem creset_resets : DoesIf (.creset r) r.head (fun s x => x.act ≠ 0#32 ∧ cresetBusy r s x = false)
    (fun s x => (s.resetChan (s.issuer x).team r.a.field.toNat).went x) :=
  doesIf_of (r := fun s x => .go (s.resetChan (s.issuer x).team r.a.field.toNat)) (fun _ => rfl)
    (fun _ _ ⟨hact, hidle⟩ => (if_neg hact).trans (if_neg (Bool.eq_false_iff.1 hidle)))

theorem creset_waits : DoesIf (.creset r) r.head (fun s x => x.act ≠ 0#32 ∧ cresetBusy r s x = true)
    (fun s x => (s.onChan (s.issuer x).team r.a.field.toNat (fun c => { c with resetting := true })).waits x
      (.creset r.a.field.toNat (s.nextOpOf (s.issuer x).team))) :=
  doesIf_of (r := fun s x => .wait (s.onChan (s.issuer x).team r.a.field.toNat (fun c => { c with resetting := true }))
    (.creset r.a.field.toNat (s.nextOpOf (s.issuer x).team))) (fun _ => rfl)
    (fun _ _ ⟨hact, hbusy⟩ => (if_neg hact).trans (if_pos hbusy))

end

/-! ## CSTAT (R315) -/

/-- A word that delivers w registers to a uniform register: where free holds, its body with an active lane is a delivery. -/
theorem deliversWide_of {i : Instr} {h : Head} {free : State → Ctx → Prop} {d : BitVec 8} {w : Nat} {v : State → Ctx → Nat}
    {b : State → Ctx → Res} (hx : ∀ s, exec i s = s.issue i h (b s)) (h0 : ∀ s x, x.act = 0#32 → b s x = .go s)
    (h1 : ∀ s x, x.act ≠ 0#32 → free s x → b s x = s.deliverU x d.toNat w (v s x)) :
    LateDoes i h .other free (fun s _ => s) true d w (fun _ _ => 0#32) (fun s x _ => v s x) (fun _ _ => 0#32) :=
  lateDoes_of (f := fun s x _ => (v s x, 0#32)) hx (fun s x hact _ => h0 s x hact) h1 (fun _ _ _ _ _ _ => rfl)
    (fun _ x _ _ => flagsOf_zero x true)

section
variable (r : RWord)

theorem cstat_delivers : LateDoes (.cstat r) r.head .other (fun _ _ => True) (fun s _ => s) true r.d 1 (fun _ _ => 0#32)
    (fun s x _ => (s.chan (s.issuer x).team r.a.field.toNat).status) (fun _ _ => 0#32) :=
  deliversWide_of (fun _ => rfl) (fun _ _ hact => deliverU_idle hact ..) (fun _ _ _ _ => rfl)

theorem cstatAddr_delivers : LateDoes (.cstatAddr r) r.head .other (fun _ _ => True) (fun s _ => s) true r.d 2 (fun _ _ => 0#32)
    (fun s x _ => (s.chan (s.issuer x).team r.a.field.toNat).addr) (fun _ _ => 0#32) :=
  deliversWide_of (fun _ => rfl) (fun _ _ hact => deliverU_idle hact ..) (fun _ _ _ _ => rfl)

theorem cstatWhere_delivers : LateDoes (.cstatWhere r) r.head .other (fun _ _ => True) (fun s _ => s) true r.d 1
    (fun _ _ => 0#32) (fun s x _ => destWord (if (s.chan (s.issuer x).team r.a.field.toNat).cause ≠ 0
      then (s.chan (s.issuer x).team r.a.field.toNat).brokenAt else (s.chan (s.issuer x).team r.a.field.toNat).lastDest))
    (fun _ _ => 0#32) :=
  deliversWide_of (fun _ => rfl) (fun _ _ hact => deliverU_idle hact ..) (fun _ _ _ _ => rfl)

end

/-! ## Event counters (R307) -/

section
variable (r : RWord)

/-- The event counter that a word names is one that the grid declares. -/
def counterOwn (s : State) (x : Ctx) : Prop := s.usrc x r.a < (s.lrOf (s.issuer x)).events

/-- The event counter that a word names, as it stands on the course's die. -/
def counterNow (s : State) (x : Ctx) : Nat := s.event (dieOf (s.issuer x).core) (s.ctxOf (s.issuer x)) (s.usrc x r.a)

/-- What an event-counter word comes to whose effect is f. -/
def counterThen (s : State) (x : Ctx) (f : Res) : Res :=
  if x.act = 0#32 then .go s else if (s.lrOf (s.issuer x)).events ≤ s.usrc x r.a then .trap x.illegalOperand else f

variable {r} in
theorem counterThen_own {s : State} {x : Ctx} {f : Res} (hact : x.act ≠ 0#32) (hown : counterOwn r s x) :
    counterThen r s x f = f := (if_neg hact).trans (if_neg (Nat.not_le.2 hown))

theorem exec_evwait (s : State) : exec (.evwait r) s = s.issue (.evwait r) r.head (fun x => counterThen r s x
    (if s.src x r.b 2 0 ≤ counterNow r s x then .go (s.acquire (s.issuer x).team)
      else .wait s (.evwait (s.usrc x r.a) (s.src x r.b 2 0)))) := rfl

theorem exec_evwaitRd (s : State) : exec (.evwaitRd r) s = s.issue (.evwaitRd r) r.head (fun x => counterThen r s x
    (s.deliverU x r.d.toNat 2 (counterNow r s x))) := rfl

theorem exec_evadd (s : State) : exec (.evadd r) s = s.issue (.evadd r) r.head (fun x => counterThen r s x
    (.go (s.setEvent (dieOf (s.issuer x).core) (s.ctxOf (s.issuer x)) (s.usrc x r.a) (counterNow r s x + s.usrc x r.b)))) := rfl

theorem evwait_goes : DoesIf (.evwait r) r.head
    (fun s x => x.act ≠ 0#32 ∧ counterOwn r s x ∧ s.src x r.b 2 0 ≤ counterNow r s x)
    (fun s x => (s.acquire (s.issuer x).team).went x) :=
  doesIf_of (r := fun s x => .go (s.acquire (s.issuer x).team)) (exec_evwait r)
    (fun _ _ ⟨hact, hown, hreached⟩ => (counterThen_own hact hown).trans (if_pos hreached))

theorem evwait_waits : DoesIf (.evwait r) r.head
    (fun s x => x.act ≠ 0#32 ∧ counterOwn r s x ∧ counterNow r s x < s.src x r.b 2 0)
    (fun s x => s.waits x (.evwait (s.usrc x r.a) (s.src x r.b 2 0))) :=
  doesIf_of (r := fun s x => .wait s (.evwait (s.usrc x r.a) (s.src x r.b 2 0))) (exec_evwait r)
    (fun _ _ ⟨hact, hown, hbelow⟩ => (counterThen_own hact hown).trans (if_neg (Nat.not_le.2 hbelow)))

theorem evwaitRd_delivers : LateDoes (.evwaitRd r) r.head .other (counterOwn r) (fun s _ => s) true r.d 2 (fun _ _ => 0#32)
    (fun s x _ => counterNow r s x) (fun _ _ => 0#32) :=
  deliversWide_of (exec_evwaitRd r) (fun _ _ hact => if_pos hact) (fun _ _ hact hown => counterThen_own hact hown)

theorem evadd_adds : DoesIf (.evadd r) r.head (fun s x => x.act ≠ 0#32 ∧ counterOwn r s x) (fun s x =>
    (s.setEvent (dieOf (s.issuer x).core) (s.ctxOf (s.issuer x)) (s.usrc x r.a) (counterNow r s x + s.usrc x r.b)).went x) :=
  doesIf_of (r := fun s x => .go (s.setEvent (dieOf (s.issuer x).core) (s.ctxOf (s.issuer x)) (s.usrc x r.a)
    (counterNow r s x + s.usrc x r.b))) (exec_evadd r) (fun _ _ ⟨hact, hown⟩ => counterThen_own hact hown)

/-- An event-counter word whose counter is not declared traps. -/
theorem counterWord_traps {i : Instr} {f : State → Ctx → Res}
    (hx : ∀ s, exec i s = s.issue i r.head (fun x => counterThen r s x (f s x))) :
    DoesIf i r.head (fun s x => x.act ≠ 0#32 ∧ ¬ counterOwn r s x) (fun s x => s.trapped x x.illegalOperand) :=
  doesIf_of (r := fun _ x => .trap x.illegalOperand) hx
    (fun _ _ ⟨hact, hown⟩ => (if_neg hact).trans (if_pos (Nat.not_lt.1 hown)))

theorem counterWords_trap (i : Instr) (hi : i = .evwait r ∨ i = .evwaitRd r ∨ i = .evadd r) :
    DoesIf i r.head (fun s x => x.act ≠ 0#32 ∧ ¬ counterOwn r s x) (fun s x => s.trapped x x.illegalOperand) := by
  obtain rfl | rfl | rfl := hi
  · exact counterWord_traps r (exec_evwait r)
  · exact counterWord_traps r (exec_evwaitRd r)
  · exact counterWord_traps r (exec_evadd r)

end

/-! ## LOCQ (R311, R422) -/

section
variable (r : RWord) (s : State) (x : Ctx)

/-- The addresses that a LOCQ looks up: those in the address space. -/
def locqAsked : List Nat := ((computing r.u x.act).map (fun L => s.src x r.a 2 L)).filter (fun E => decide (E < 2 ^ 52))

/-- A LOCQ looks up no page that is being moved. -/
def locqSettled : Prop := ∀ E ∈ locqAsked r s x, s.translate (s.ctxOf (s.issuer x)) E ≠ .wait

/-- What a LOCQ comes to. -/
def locqBody : Res :=
  if (locqAsked r s x).any (fun E => s.translate (s.ctxOf (s.issuer x)) E == .wait) then .held (locqAsked r s x) false
  else (s.tlbFill (s.ctxOf (s.issuer x)) (locqAsked r s x)).lateWord x .other r.u r.d.toNat 1 0#32
    (fun L => (s.location (s.ctxOf (s.issuer x)) (s.src x r.a 2 L), 0#32))

theorem exec_locq : exec (.locq r) s = s.issue (.locq r) r.head (locqBody r s) := by
  show execLocq r s = _
  simp only [execLocq, span_eq]
  rfl

variable {r s x}

theorem locqBody_settled (h : locqSettled r s x) : locqBody r s x =
    (s.tlbFill (s.ctxOf (s.issuer x)) (locqAsked r s x)).lateWord x .other r.u r.d.toNat 1 0#32
      (fun L => (s.location (s.ctxOf (s.issuer x)) (s.src x r.a 2 L), 0#32)) := by
  refine if_neg ?_
  rw [Bool.not_eq_true, List.any_eq_false]
  exact fun E hE hwait => h E hE (eq_of_beq hwait)

theorem locqBody_waits {E : Nat} (hE : E ∈ locqAsked r s x) (hwait : s.translate (s.ctxOf (s.issuer x)) E = .wait) :
    locqBody r s x = .held (locqAsked r s x) false := by
  refine if_pos (List.any_eq_true.2 ⟨E, hE, ?_⟩)
  rw [hwait]
  exact beq_self_eq_true _

/-- With no active lane a LOCQ asks for nothing. -/
theorem locqAsked_idle (hact : x.act = 0#32) : locqAsked r s x = [] := by
  have hnone : computing r.u x.act = [] := by rw [hact]; cases r.u <;> rfl
  rw [locqAsked, hnone]
  rfl

theorem locqBody_idle (hact : x.act = 0#32) : locqBody r s x = .go s := by
  rw [locqBody, locqAsked_idle hact]
  exact if_pos hact

end

section
variable (r : RWord)

theorem locq_delivers : LateDoes (.locq r) r.head .other (locqSettled r)
    (fun s x => s.tlbFill (s.ctxOf (s.issuer x)) (locqAsked r s x)) r.u r.d 1 (fun _ _ => 0#32)
    (fun s x L => s.location (s.ctxOf (s.issuer x)) (s.src x r.a 2 L)) (fun _ _ => 0#32) :=
  lateDoes_of (f := fun s x L => (s.location (s.ctxOf (s.issuer x)) (s.src x r.a 2 L), 0#32)) (exec_locq r)
    (fun _ _ hact _ => locqBody_idle hact) (fun _ _ _ hsettled => locqBody_settled hsettled) (fun _ _ _ _ _ _ => rfl)
    (fun _ x _ _ => flagsOf_zero x r.u)

theorem locq_waits : DoesIf (.locq r) r.head
    (fun s x => x.act ≠ 0#32 ∧ ∃ E ∈ locqAsked r s x, s.translate (s.ctxOf (s.issuer x)) E = .wait)
    (fun s x => s.heldPast x (locqAsked r s x) false) :=
  doesIf_of (r := fun s x => .held (locqAsked r s x) false) (exec_locq r) (fun _ _ ⟨_, _, hE, hwait⟩ =>
    locqBody_waits hE hwait)

end

/-- Settles O26, word by word. -/
theorem channelControl : Obligations.ChannelControl :=
  ⟨cjoin_holds, cdrain_idle, cdrain_waits, creset_resets, creset_waits, cstat_delivers, cstatAddr_delivers,
    cstatWhere_delivers, evwait_goes, evwait_waits, evwaitRd_delivers, evadd_adds, fun i r hi => counterWords_trap r i hi,
    locq_delivers, locq_waits⟩

end Sys2Proof.Machine

/-! # The waits of CDRAIN, EVWAIT and CRESET end (R307, R310, R313, R316, R329) -/

namespace Sys2Proof.Machine

/-! ## CDRAIN and EVWAIT (R307, R310) -/

section
variable {s : State} {crs j : Nat}

section
variable {mask upto : Nat} {sc mg : Bool} (hwait : ((s.course crs).slotN j).wait = .cdrain mask upto sc mg)
include hwait

theorem exec_cdrainComplete_waits (hdrained : (s.team (s.course crs).team).drained mask upto mg = false) :
    exec (.cdrainComplete crs j) s = .next s := by
  show execCdrainComplete crs j s = _
  simp only [execCdrainComplete, hwait, hdrained, Bool.and_false, Bool.not_false, if_true]

variable (hruns : s.running (s.course crs) = true) (hdrained : (s.team (s.course crs).team).drained mask upto mg = true)
include hruns hdrained

theorem exec_cdrainComplete_goes (hwhole : s.lowestBroken (s.course crs).team (maskChannels mask 16) = none) :
    exec (.cdrainComplete crs j) s = .next ((if sc then s.acquire (s.course crs).team else s).advance crs j
      ((s.course crs).slotN j).act) := by
  show execCdrainComplete crs j s = _
  simp only [execCdrainComplete, hwait, hruns, hdrained, hwhole, Bool.and_true, Bool.not_true, Bool.false_eq_true, if_false]

/-- The trap of a CDRAIN at its end, for the broken channel k. -/
def drainTrap (s : State) (crs j k : Nat) : TrapRec :=
  { code := causeTrap (s.chan (s.course crs).team k).cause, pc := ((s.course crs).slotN j).pc,
    resume := ((s.course crs).slotN j).pc, mask := ((s.course crs).slotN j).act, inSup := (s.course crs).supIn j,
    addr := (s.chan (s.course crs).team k).addr, info := k + 16 * (s.chan (s.course crs).team k).cause }

theorem exec_cdrainComplete_traps {k : Nat}
    (hbroken : s.lowestBroken (s.course crs).team (maskChannels mask 16) = some k) :
    exec (.cdrainComplete crs j) s = .next ((s.noteTrap crs (drainTrap s crs j k)).raise crs j (drainTrap s crs j k)) := by
  show execCdrainComplete crs j s = _
  simp only [execCdrainComplete, hwait, hruns, hdrained, hbroken, Bool.and_true, Bool.not_true, Bool.false_eq_true, if_false]
  rfl

end

section
variable {k v : Nat} (hwait : ((s.course crs).slotN j).wait = .evwait k v)
include hwait

theorem exec_evwaitWake_goes (hruns : s.running (s.course crs) = true)
    (hreached : v ≤ s.event (dieOf (s.course crs).core) (s.ctxOf (s.course crs)) k) : exec (.evwaitWake crs j) s =
      .next ((s.acquire (s.course crs).team).advance crs j ((s.course crs).slotN j).act) := by
  show execEvwaitWake crs j s = _
  simp only [execEvwaitWake, hwait, State.eventOf, hruns, hreached, decide_true, Bool.and_true, if_true]

theorem exec_evwaitWake_waits (hbelow : s.event (dieOf (s.course crs).core) (s.ctxOf (s.course crs)) k < v) :
    exec (.evwaitWake crs j) s = .next s := by
  have hnot : ¬ v ≤ s.event (dieOf (s.course crs).core) (s.ctxOf (s.course crs)) k := Nat.not_le.2 hbelow
  show execEvwaitWake crs j s = _
  simp only [execEvwaitWake, hwait, State.eventOf, hnot, decide_false, Bool.and_false, Bool.false_eq_true, if_false]

end

end

/-! ## CRESET (R316) -/

/-- A wait that is no CRESET's. -/
def Wait.notReset (w : Wait) : Prop := ∀ ch n, w ≠ .creset ch n

section
variable {s : State} {crs j : Nat}

/-- Let slot j of a course go on whose CRESET can complete. -/
def State.wakeSlot (s : State) (crs j : Nat) : State :=
  match ((s.course crs).slotN j).wait with
  | .creset ch _ =>
    if !(s.chan (s.course crs).team ch).busyBelow (s.team (s.course crs).team).opSeq then
      (s.resetChan (s.course crs).team ch).advance crs j ((s.course crs).slotN j).act
    else s
  | _ => s

theorem wakeReset_eq (s : State) (crs : Nat) : s.wakeReset crs = (s.wakeSlot crs 0).wakeSlot crs 1 := rfl

theorem wakeSlot_other (h : ((s.course crs).slotN j).wait.notReset) : s.wakeSlot crs j = s := by
  rw [State.wakeSlot]
  split
  next hwait => exact absurd hwait (h _ _)
  next => rfl

section
variable {ch n : Nat} (hwait : ((s.course crs).slotN j).wait = .creset ch n)
include hwait

theorem wakeSlot_settled (hidle : (s.chan (s.course crs).team ch).busyBelow (s.team (s.course crs).team).opSeq = false) :
    s.wakeSlot crs j = (s.resetChan (s.course crs).team ch).advance crs j ((s.course crs).slotN j).act := by
  simp only [State.wakeSlot, hwait, hidle, Bool.not_false, if_true]

theorem wakeSlot_busy (hbusy : (s.chan (s.course crs).team ch).busyBelow (s.team (s.course crs).team).opSeq = true) :
    s.wakeSlot crs j = s := by
  simp only [State.wakeSlot, hwait, hbusy, Bool.not_true, Bool.false_eq_true, if_false]

end

/-- A slot that goes on leaves the other. -/
theorem advance_otherSlot {k : Nat} (hj : j < 2) (hk : k < 2) (hne : j ≠ k) (act : LaneMask) :
    ((s.advance crs j act).course crs).slotN k = (s.course crs).slotN k := by
  simp only [State.advance, State.raise, Course.onSlot]
  split <;> simp [Course.slotN_setSlot, hj, hk, hne]

theorem resetChan_course (team ch k : Nat) : (s.resetChan team ch).course k = s.course k := rfl

/-- Waking a slot leaves the other. -/
theorem wakeSlot_otherSlot {k : Nat} (hj : j < 2) (hk : k < 2) (hne : j ≠ k) :
    ((s.wakeSlot crs j).course crs).slotN k = (s.course crs).slotN k := by
  rw [State.wakeSlot]
  split
  · split
    · rw [advance_otherSlot hj hk hne, resetChan_course]
    · rfl
  · rfl

/-- Where no CRESET waits in the other slot, only slot j is woken. -/
theorem wakeReset_one (hj : j < 2) (hother : ((s.course crs).slotN (1 - j)).wait.notReset) :
    s.wakeReset crs = s.wakeSlot crs j := by
  rw [wakeReset_eq]
  obtain rfl | rfl : j = 0 ∨ j = 1 := by omega
  · refine wakeSlot_other ?_
    rw [wakeSlot_otherSlot (by decide) (by decide) (by decide)]
    exact hother
  · rw [wakeSlot_other hother]

theorem afterSettle_wakes {team : Nat} (hruns : ((s.pump team).team team).state = .running)
    (hone : ((s.pump team).team team).courses = [crs]) : s.afterSettle team = (s.pump team).wakeReset crs := by
  simp only [State.afterSettle, if_pos hruns, hone, List.foldl_cons, List.foldl_nil]

/-- A channel as a reset leaves it, but for its streams. -/
theorem chan_resetChan (team ch : Nat) : ∃ sts, (s.resetChan team ch).chan team ch = { s.chan team ch with
    cause := 0, addr := 0, brokenAt := none, lastDest := none, trapped := false, resetting := false, streams := sts } := by
  have hchange : (s.resetChan team ch).chan team ch = (s.onChan team ch (fun c => { c with
      cause := 0, addr := 0, brokenAt := none, lastDest := none, trapped := false, resetting := false, streams := _ })).chan
        team ch := rfl
  rw [hchange, chan_onChan, if_pos ⟨rfl, rfl⟩]
  exact ⟨_, rfl⟩

end

/-- Settles O27: each wait ends by one equation of its event; a CRESET's is woken by its slot alone. -/
theorem channelWakes : Obligations.ChannelWakes := by
  refine ⟨fun _ _ _ _ _ _ _ hwait hruns hdrained hwhole => exec_cdrainComplete_goes hwait hruns hdrained hwhole,
    fun _ _ _ _ _ _ _ _ hwait hruns hdrained hbroken => exec_cdrainComplete_traps hwait hruns hdrained hbroken,
    fun _ _ _ _ _ _ _ hwait hbusy => exec_cdrainComplete_waits hwait hbusy,
    fun _ _ _ _ _ hwait hruns hreached => exec_evwaitWake_goes hwait hruns hreached,
    fun _ _ _ _ _ hwait hbelow => exec_evwaitWake_waits hwait hbelow,
    fun s crs j ch n hj hwait hother => ⟨fun hidle => ?settled, fun hbusy => ?busy⟩,
    fun _ _ _ hruns hone => afterSettle_wakes hruns hone, fun s team ch => ?reset⟩
  case settled => exact (wakeReset_one hj hother).trans (wakeSlot_settled hwait hidle)
  case busy => exact (wakeReset_one hj hother).trans (wakeSlot_busy hwait hbusy)
  case reset =>
    obtain ⟨sts, hchan⟩ := chan_resetChan (s := s) team ch
    simp only [hchan, and_self]

end Sys2Proof.Machine

/-! # Applying a packet to memory (R301, R305, R306, R502) -/

namespace Sys2Proof.Machine

@[simp] theorem length_bytesOf (n x : Nat) : (bytesOf n x).length = n := by
  induction n generalizing x with
  | zero => rfl
  | succ n ih => rw [bytesOf, List.length_cons, ih]

section
variable (s : State) (p : Packet)

/-- What the front end sees of a write leaves memory. -/
@[simp] theorem memRead_noteTail (pa n a k : Nat) : (s.noteTail pa n).memRead a k = s.memRead a k := rfl

theorem memRead_applyPacket_store {e : StoreElem} (hbody : p.body = .store [e]) (a : Nat) : (s.applyPacket p).1.memRead a 1 =
    if e.pa ≤ a ∧ a < e.pa + e.bytes.length then [e.bytes.getD (a - e.pa) 0#8] else s.memRead a 1 := by
  simp only [State.applyPacket, hbody, List.foldl_cons, List.foldl_nil]
  exact memRead_memWrite ..

section
variable (op : AtomOp) (n : Nat) (e : AtomElem)

/-- An atomic word that finds no poison stores the new value. -/
theorem applyAtom_clean (hclean : poisonedIn s.poison e.pa n = false) : s.applyAtom op n e = ((s.noteTail e.pa n).memWrite e.pa
    (bytesOf n (atomNew op false n (ofBytes (s.memRead e.pa n)) e.x1 e.x2).1) [], ofBytes (s.memRead e.pa n), false) :=
  if_neg (Bool.eq_false_iff.1 hclean)

theorem applyAtom_poisoned (hbad : poisonedIn s.poison e.pa n = true) :
    s.applyAtom op n e = (s, ofBytes (s.memRead e.pa n), true) := if_pos hbad

theorem memRead_applyAtom (hclean : poisonedIn s.poison e.pa n = false) (a : Nat) : (s.applyAtom op n e).1.memRead a 1 =
    if e.pa ≤ a ∧ a < e.pa + n
    then [(bytesOf n (atomNew op false n (ofBytes (s.memRead e.pa n)) e.x1 e.x2).1).getD (a - e.pa) 0#8] else s.memRead a 1 := by
  rw [applyAtom_clean s op n e hclean]
  simp only [memRead_memWrite, length_bytesOf, memRead_noteTail]

/-- An atomic word delivers the old value, poisoned or not. -/
theorem applyAtom_old : (s.applyAtom op n e).2.1 = ofBytes (s.memRead e.pa n) := by
  cases hbad : poisonedIn s.poison e.pa n with
  | false => rw [applyAtom_clean s op n e hbad]
  | true => rw [applyAtom_poisoned s op n e hbad]

end

/-- Holding a far line, where a condition says so, leaves memory. -/
theorem holdFar_if_mem (c : Prop) [Decidable c] (f : FarLine) : (if c then s.holdFar f else s).mem = s.mem := by
  split <;> rfl

theorem serveRead_mem (reader : Reader) (e : ReadElem) : (s.serveRead p reader e).mem = s.mem := by
  simp only [State.serveRead]
  split
  · exact (holdFar_if_mem ..).trans rfl
  · rfl

theorem applyPacket_read_mem {reader : Reader} {es : List ReadElem} (hbody : p.body = .read reader es) :
    (s.applyPacket p).1.mem = s.mem := by
  simp only [State.applyPacket, hbody]
  exact foldl_keeps (part := State.mem) (fun u e => serveRead_mem u p reader e) es s

theorem notify_counts {k ctx : Nat} (hntf : p.ntf = some k) (hctx : s.ctxByTag p.ctag = some ctx)
    (hheld : k < s.countersHeld ctx) : s.notify p = s.setEvent p.key.dest.die ctx k (s.event p.key.dest.die ctx k + 1) := by
  simp only [State.notify, hntf, hctx, if_pos hheld]

theorem notify_none (hntf : p.ntf = none) : s.notify p = s := by
  simp only [State.notify, hntf]

end

/-- Settles O30: stores and atomic words are writes of main memory, reads leave it. -/
theorem packetsApplied : Obligations.PacketsApplied := by
  refine ⟨fun s p e hbody => memRead_applyPacket_store s p hbody, memRead_applyAtom,
    fun s op n e hbad => congrArg Prod.fst (applyAtom_poisoned s op n e hbad), applyAtom_old,
    fun s p _ _ hbody => applyPacket_read_mem s p hbody, fun s p k ctx hntf hctx hheld => ?counts, notify_none⟩
  case counts => rw [notify_counts s p hntf hctx hheld, event_setEvent, if_pos rfl]

end Sys2Proof.Machine

/-! # The destination of a stream (R293, R295–R297, R301, R305, R306, R312, R316, R318, R320, R420, R502) -/

namespace Sys2Proof.Machine

/-- A message has been taken from those in flight. -/
def State.tookNet (s : State) (m : NetMsg) : State := { s with net := s.net.erase m }

theorem takeNet_took {s : State} {m : NetMsg} (b : Bool) (h : m ∈ s.net) : s.takeNet m b = some (s.tookNet m) :=
  takeNet_mem b h

/-! ## A packet that arrives (R295, R296) -/

section
variable {s : State} {p : Packet} {g : Ingress}

theorem genOlder_self (a : Nat) : genOlder a a = false := by simp [genOlder]

/-- A packet without the re-home flag leaves the place of its stream's acknowledgements. -/
theorem homeTo_stays (h : p.rehome = false) : g.homeTo p = g := if_neg (by rw [h]; exact Bool.false_ne_true)

theorem arrive_known (hg : s.ingressOf p.key = some g) (hopen : g.closed = false) : s.arrive p = s.admitPacket g p := by
  simp only [State.arrive, hg, hopen, Bool.not_false, if_true]

theorem arrive_new (hg : s.ingressOf p.key = none) : s.arrive p = s.openWith p := by
  simp only [State.arrive, hg]

theorem arrive_closed (hg : s.ingressOf p.key = some g) (hclosed : g.closed = true) :
    s.arrive p = if genOlder g.gen p.gen then s.openWith p else s := by
  simp only [State.arrive, hg, hclosed, Bool.not_true, Bool.false_eq_true, if_false]

theorem openWith_admits (h : s.ingressOn p.key.dest.die < 8192) : s.openWith p = s.admitPacket (openIngress p) p :=
  if_neg (Nat.not_le.2 h)

theorem openWith_refuses (h : 8192 ≤ s.ingressOn p.key.dest.die) :
    s.openWith p = s.refusePacket p 0 (packetAddr p) false true := if_pos h

/-- It is a packet of data for a die of this package. -/
def forHome (s : State) (p : Packet) : Prop :=
  isData p.body = true ∧ p.key.dest.chip = s.chip ∧ p.key.dest.host = false

theorem forHome_guard (h : forHome s p) : ¬ (!(isData p.body && p.key.dest.chip == s.chip && !p.key.dest.host)) = true := by
  obtain ⟨hdata, hchip, hhost⟩ := h
  simp [hdata, hchip, hhost]

theorem exec_packetArrival (h : forHome s p) (hnet : NetMsg.packet p ∈ s.net)
    (hwhole : ∀ g, s.ingressOf p.key = some g → g.part ≠ some p) :
    exec (.packetArrival p) s = .next ((s.tookNet (.packet p)).arrive p) := by
  show execPacketArrival p s = _
  rw [execPacketArrival, if_neg (forHome_guard h)]
  split
  next g hg => rw [if_neg (hwhole g hg), takeNet_took _ hnet]; rfl
  next => rw [takeNet_took _ hnet]; rfl

section
variable (h : forHome s p) (hnet : NetMsg.packet p ∈ s.net)
include h hnet

section
variable (hg : s.ingressOf p.key = some g) (hpart : g.part ≠ some p)
include hg hpart

/-- A packet of a stream that has an entry, and no part of which has been applied. -/
theorem exec_packetArrival_entry : exec (.packetArrival p) s = .next ((s.tookNet (.packet p)).arrive p) :=
  exec_packetArrival h hnet (fun _ hg' => Option.some.inj (hg.symm.trans hg') ▸ hpart)

theorem exec_packetArrival_known (hopen : g.closed = false) :
    exec (.packetArrival p) s = .next ((s.tookNet (.packet p)).admitPacket g p) := by
  rw [exec_packetArrival_entry h hnet hg hpart, arrive_known (s := s.tookNet (.packet p)) hg hopen]

theorem exec_packetArrival_reopens (hclosed : g.closed = true) (holder : genOlder g.gen p.gen = true)
    (hroom : s.ingressOn p.key.dest.die < 8192) :
    exec (.packetArrival p) s = .next ((s.tookNet (.packet p)).admitPacket (openIngress p) p) := by
  rw [exec_packetArrival_entry h hnet hg hpart, arrive_closed (s := s.tookNet (.packet p)) hg hclosed, if_pos holder,
    openWith_admits (s := s.tookNet (.packet p)) hroom]

theorem exec_packetArrival_late (hclosed : g.closed = true) (holder : genOlder g.gen p.gen = false) :
    exec (.packetArrival p) s = .next (s.tookNet (.packet p)) := by
  rw [exec_packetArrival_entry h hnet hg hpart, arrive_closed (s := s.tookNet (.packet p)) hg hclosed,
    if_neg (Bool.eq_false_iff.1 holder)]

end

section
variable (hg : s.ingressOf p.key = none)
include hg

/-- A packet of a stream that has no entry. -/
theorem exec_packetArrival_first : exec (.packetArrival p) s = .next ((s.tookNet (.packet p)).openWith p) := by
  rw [exec_packetArrival h hnet (fun _ hg' => nomatch hg.symm.trans hg'), arrive_new (s := s.tookNet (.packet p)) hg]

theorem exec_packetArrival_new (hroom : s.ingressOn p.key.dest.die < 8192) :
    exec (.packetArrival p) s = .next ((s.tookNet (.packet p)).admitPacket (openIngress p) p) := by
  rw [exec_packetArrival_first h hnet hg, openWith_admits (s := s.tookNet (.packet p)) hroom]

theorem exec_packetArrival_full (hfull : 8192 ≤ s.ingressOn p.key.dest.die) :
    exec (.packetArrival p) s = .next ((s.tookNet (.packet p)).refusePacket p 0 (packetAddr p) false true) := by
  rw [exec_packetArrival_first h hnet hg, openWith_refuses (s := s.tookNet (.packet p)) hfull]

end

end

/-- The rest of a packet of which a part has been applied. -/
theorem exec_packetArrival_rest (h : forHome s p) (hg : s.ingressOf p.key = some g) (hpart : g.part = some p) :
    exec (.packetArrival p) s = .next (s.ingest g.held.length true g p) := by
  show execPacketArrival p s = _
  rw [execPacketArrival, if_neg (forHome_guard h)]
  simp only [hg, if_pos hpart]

end

/-! ## What the ingress port does with a packet (R293, R295, R312, R320) -/

section
variable {s : State} {p : Packet} {g : Ingress}

/-- The packet is of the entry's generation, from the core on which its team was. -/
def Ingress.owns (g : Ingress) (p : Packet) : Prop := p.rehome = false ∧ p.gen = g.gen

theorem admitPacket_stale (h : genOlder p.gen g.gen = true) : s.admitPacket g p = s := if_pos h

/-- A packet of the entry's generation: one that has been applied, one of a stopped stream, the next, or one ahead. -/
theorem admitPacket_owned (h : g.owns p) : s.admitPacket g p =
    if g.hasApplied p.seq then (s.setIngress g).sendAck g
    else g.stopped.elim
      (if p.seq = g.next then (if g.part.isSome then s.setIngress g else s.ingest g.held.length false g p)
        else if g.moved then ((s.setIngress g).refusePacket p 0 (packetAddr p) true false).count 1 g.key.dest.die 7 1
        else s.holdEarly g p)
      (fun cause => (s.setIngress g).refusePacket p cause (packetAddr p) false false) := by
  obtain ⟨hhome, hgen⟩ := h
  have hfresh : ¬ genOlder p.gen g.gen = true := by rw [hgen, genOlder_self]; exact Bool.false_ne_true
  rw [State.admitPacket, if_neg hfresh]
  simp only [homeTo_stays hhome, if_neg (not_not_intro hgen)]
  cases g.stopped <;> rfl

/-- The number that a stream expects has not been applied. -/
theorem hasApplied_next (g : Ingress) : g.hasApplied g.next = false := by
  simp only [Ingress.hasApplied, seqUpto, decide_eq_false_iff_not]
  omega

/-- The packet is the one that its stream expects, and the stream goes on. -/
def Ingress.awaits (g : Ingress) (p : Packet) : Prop := g.owns p ∧ p.seq = g.next ∧ g.stopped = none ∧ g.part = none

theorem admitPacket_next (h : g.awaits p) : s.admitPacket g p = s.ingest g.held.length false g p := by
  obtain ⟨hown, hseq, hgoes, hwhole⟩ := h
  rw [admitPacket_owned hown, hseq, hasApplied_next, hgoes, hwhole]
  simp only [Bool.false_eq_true, if_false, Option.elim_none, if_true, Option.isSome_none]

theorem admitPacket_again (h : g.owns p) (hdone : g.hasApplied p.seq = true) :
    s.admitPacket g p = (s.setIngress g).sendAck g := (admitPacket_owned h).trans (if_pos hdone)

theorem admitPacket_stopped {cause : Nat} (h : g.owns p) (hdone : g.hasApplied p.seq = false) (hstop : g.stopped = some cause) :
    s.admitPacket g p = (s.setIngress g).refusePacket p cause (packetAddr p) false false := by
  rw [admitPacket_owned h, hdone, hstop]
  rfl

theorem admitPacket_ahead (h : g.owns p) (hdone : g.hasApplied p.seq = false) (hgoes : g.stopped = none) (hseq : p.seq ≠ g.next)
    (hmoved : g.moved = false) : s.admitPacket g p = s.holdEarly g p := by
  rw [admitPacket_owned h, hdone, hgoes, hmoved]
  simp only [Bool.false_eq_true, if_false, Option.elim_none, if_neg hseq]

theorem holdEarly_first (h : ∀ q ∈ g.held, ¬ (q.gen = p.gen ∧ q.seq = p.seq)) :
    s.holdEarly g p = (s.setIngress { g with held := g.held ++ [p] }).count 1 g.key.dest.die 5 1 := by
  refine if_neg ?_
  rw [Bool.not_eq_true, List.any_eq_false]
  intro q hq
  simpa using h q hq

/-! ## Judging and applying the packet that a stream expects (R293, R312, R320) -/

section
variable (n : Nat)

theorem ingest_refused {cause record addr : Nat} (hv : s.verdict p = .refuse cause record addr) :
    s.ingest n false g p = s.stopStream g p cause record addr := by
  rw [State.ingest]
  simp only [hv, Bool.false_eq_true, if_false]

theorem ingest_moved (hv : s.verdict p = .moved) : s.ingest n false g p = s.moveStream g p := by
  rw [State.ingest]
  simp only [hv, Bool.false_eq_true, if_false]

/-- The first elements of a packet are applied, and the rest waits. -/
theorem ingest_part (hv : s.verdict p = .apply) (hpiece : s.pieceOf p < bodySize p.body) : s.ingest n false g p =
    (s.applyPacket { p with body := (cutBody (s.pieceOf p) p.body).1 }).1.setIngress { g with
      part := some { p with body := (cutBody (s.pieceOf p) p.body).2 }
      olds := g.olds ++ (s.applyPacket { p with body := (cutBody (s.pieceOf p) p.body).1 }).2 } := by
  rw [State.ingest]
  simp only [hv, Bool.false_eq_true, if_false, if_pos hpiece]

/-- All of a packet's elements are the packet. -/
theorem cutBody_all (b : PacketBody) : (cutBody (bodySize b) b).1 = b := by
  cases b <;> simp [cutBody, bodySize, packetElems]

/-- A whole packet is applied and acknowledged; with nothing held the stream then waits for its next. -/
theorem ingest_whole (hv : s.verdict p = .apply) (hpiece : s.pieceOf p = bodySize p.body) :
    s.ingest 0 false g p = (((s.applyPacket p).1.notify p).setIngress { g.applied (s.applyPacket p).2 with part := none }).sendAck
      { g.applied (s.applyPacket p).2 with part := none } := by
  have hbody : ({ p with body := (cutBody (s.pieceOf p) p.body).1 } : Packet) = p := by rw [hpiece, cutBody_all]
  have hwhole : ¬ s.pieceOf p < bodySize p.body := hpiece ▸ Nat.lt_irrefl _
  rw [State.ingest]
  simp only [hv, Bool.false_eq_true, if_false, if_neg hwhole, hbody]

end

end

/-! ## RESET, CLOSE and RESYNC (R296, R316, R318) -/

section
variable {s : State} {p : Packet} {g : Ingress}

theorem exec_streamReset (hchip : p.key.dest.chip = s.chip) (hnet : NetMsg.packet p ∈ s.net) (hbody : p.body = .reset)
    (hhome : p.rehome = false) (hg : g = (s.ingressOf p.key).getD (openIngress p)) (hfresh : genOlder p.gen g.gen = false)
    (hopen : ¬ (g.closed = true ∧ p.gen = g.gen)) :
    exec (.streamReset p) s = .next ((s.tookNet (.packet p)).resume { g with
      gen := p.gen, next := p.seq, stopped := none, moved := false, closed := false, part := none
      held := g.held.filter (fun q => !genOlder q.gen p.gen) }) := by
  have hguard : ¬ (decide (p.body ≠ .reset) || decide (p.key.dest.chip ≠ s.chip)) = true := by simp [hbody, hchip]
  have hgoes : ¬ (genOlder p.gen g.gen || (g.closed && decide (p.gen = g.gen))) = true := by
    rw [hfresh]; simpa using hopen
  show execStreamReset p s = _
  rw [execStreamReset, if_neg hguard]
  simp only [takeNet_took _ hnet]
  refine (if_neg (hg ▸ hgoes)).trans ?_
  rw [hg, homeTo_stays hhome]
  rfl

theorem exec_closeArrival (hchip : p.key.dest.chip = s.chip) (hnet : NetMsg.packet p ∈ s.net) (hbody : p.body = .close)
    (hg : s.ingressOf p.key = some g) (hfresh : genOlder p.gen g.gen = false) (hopen : g.closed = false)
    (hnone : ∀ q ∈ g.held, genOlder p.gen q.gen = false) : exec (.closeArrival p) s = .next ((s.tookNet (.packet p)).setIngress
      { g with gen := p.gen, closed := true, held := [], olds := [], stopped := none, moved := false, part := none }) := by
  have hguard : ¬ (decide (p.body ≠ .close) || decide (p.key.dest.chip ≠ s.chip)) = true := by simp [hbody, hchip]
  have hearly : g.held.filter (fun q => genOlder p.gen q.gen) = [] := by
    refine List.filter_eq_nil_iff.2 (fun q hq => ?_)
    rw [hnone q hq]
    exact Bool.false_ne_true
  have hg' : (s.tookNet (.packet p)).ingressOf p.key = some g := hg
  show execCloseArrival p s = _
  rw [execCloseArrival, if_neg hguard]
  simp only [takeNet_took _ hnet, hg', hfresh, hopen, hearly, Bool.or_self, Bool.false_eq_true, if_false]

section
variable {u : Nat} (hchip : p.key.dest.chip = s.chip) (hnet : NetMsg.packet p ∈ s.net) (hbody : p.body = .resync u)
  (hhome : p.rehome = false) (hg : s.ingressOf p.key = some g)
include hchip hnet hbody hhome hg

/-- What a RESYNC comes to at an entry. -/
theorem exec_resync_known : exec (.resync p) s =
    if genOlder p.gen g.gen then .next (s.tookNet (.packet p))
    else if g.gen ≠ p.gen then .next { s.tookNet (.packet p) with
      net := s.net.erase (.packet p) ++ [.resyncAck ⟨p.key, p.gen, u, [], none⟩] }
    else .next { (s.tookNet (.packet p)).setIngress g with
      net := s.net.erase (.packet p) ++ [.resyncAck ⟨p.key, g.gen, g.next, g.olds, g.stopped⟩] } := by
  have hg' : (s.tookNet (.packet p)).ingressOf p.key = some g := hg
  show execResync p s = _
  simp only [execResync, hbody, hchip, ne_eq, not_true_eq_false, if_false, takeNet_took _ hnet, hg', Option.getD_some,
    homeTo_stays hhome, Option.isSome_some, if_true]
  rfl

theorem exec_resync_answers (hgen : g.gen = p.gen) : exec (.resync p) s = .next { (s.tookNet (.packet p)).setIngress g with
    net := s.net.erase (.packet p) ++ [.resyncAck ⟨p.key, g.gen, g.next, g.olds, g.stopped⟩] } := by
  rw [exec_resync_known hchip hnet hbody hhome hg, ← hgen, genOlder_self, if_neg Bool.false_ne_true,
    if_neg (not_not_intro rfl)]

/-- Of a generation that has not begun here, nothing has been applied. -/
theorem exec_resync_unbegun (hgen : g.gen ≠ p.gen) (hfresh : genOlder p.gen g.gen = false) : exec (.resync p) s =
    .next { s.tookNet (.packet p) with net := s.net.erase (.packet p) ++ [.resyncAck ⟨p.key, p.gen, u, [], none⟩] } := by
  rw [exec_resync_known hchip hnet hbody hhome hg, hfresh, if_neg Bool.false_ne_true, if_pos hgen]

end

end

/-! ## Accesses that do not complete, and those of the host (R297, R312, R313, R434, R480) -/

/-- The packet is of data, in flight, and the next of an open stream of this package. -/
def State.expects (s : State) (g : Ingress) (p : Packet) : Prop := isData p.body = true ∧ s.ingressOf p.key = some g ∧
  g.closed = false ∧ p.key.dest.chip = s.chip ∧ g.awaits p ∧ NetMsg.packet p ∈ s.net

section
variable {s : State} {p : Packet} {g : Ingress} (h : s.expects g p)
include h

theorem exec_destinationAccessTimeout (hlate : s.lateHere p = true) : exec (.destinationAccessTimeout p) s =
    .next ((s.tookNet (.packet p)).stopStream g p 3 4 (packetAddr p)) := by
  obtain ⟨hdata, hg, hopen, hchip, ⟨⟨hhome, hgen⟩, hseq, hgoes, hwhole⟩, hnet⟩ := h
  show execDestinationAccessTimeout p s = _
  simp only [execDestinationAccessTimeout, hg, hopen, Bool.false_and, Bool.false_eq_true, if_false, hdata, hchip, hgen, hseq,
    hgoes, hwhole, hlate, beq_self_eq_true, Option.isNone_none, Bool.not_false, Bool.and_self, Bool.not_true,
    takeNet_took _ hnet, Option.elim_some]

variable (hhost : p.key.dest.host = true) (hclean : ∀ e ∈ packetElems p.body, e.2.2 = false)
include hhost hclean

/-- What an answer of the host comes to for the packet that a stream expects, without poisoned data. -/
theorem exec_hostRegionAccessCompletion (accepted : Bool) : exec (.hostRegionAccessCompletion p accepted) s =
    if !accepted then .next ((s.tookNet (.packet p)).stopStream g p 2 3 (packetAddr p))
    else
      let w := s.hostAccesses (s.regionOf p.ctag) p.body
      let g' := g.applied (w.2.map (fun o => ⟨p.seq, o.1, o.2, false⟩))
      .next ((({ s.tookNet (.packet p) with hostOut := s.hostOut ++ w.1 } : State).setIngress g').sendAck g') := by
  obtain ⟨hdata, hg, hopen, hchip, ⟨⟨hhome, hgen⟩, hseq, hgoes, hwhole⟩, hnet⟩ := h
  have hnone : (packetElems p.body).any (fun e => e.2.2) = false :=
    List.any_eq_false.2 (fun e he => by rw [hclean e he]; exact Bool.false_ne_true)
  show execHostRegionAccessCompletion p accepted s = _
  simp only [execHostRegionAccessCompletion, hg, hopen, Bool.false_and, Bool.false_eq_true, if_false, hdata, hhost, hchip, hgen,
    hseq, hasApplied_next, beq_self_eq_true, Bool.not_false, Bool.and_self, Bool.or_true, Bool.not_true, takeNet_took _ hnet,
    homeTo_stays hhome, hgoes, hnone]
  rfl

end

/-- Settles O29: a packet goes by its stream's entry, one that the entry awaits by the verdict on it. -/
theorem streamDestination : Obligations.StreamDestination := by
  refine ⟨fun s p g ⟨hchip, hhost, hnet⟩ hdata hg hopen hpart =>
      exec_packetArrival_known ⟨hdata, hchip, hhost⟩ hnet hg hpart hopen, fun s p ⟨hchip, hhost, hnet⟩ hdata hg hroom =>
      exec_packetArrival_new ⟨hdata, hchip, hhost⟩ hnet hg hroom,
    fun s p ⟨hchip, hhost, hnet⟩ hdata hg hfull =>
      exec_packetArrival_full ⟨hdata, hchip, hhost⟩ hnet hg hfull,
    fun s p g ⟨hchip, hhost, hnet⟩ hdata ⟨hg, hclosed, hpart⟩ holder hroom =>
      exec_packetArrival_reopens ⟨hdata, hchip, hhost⟩ hnet hg hpart hclosed holder hroom,
    fun s p g ⟨hchip, hhost, hnet⟩ hdata ⟨hg, hclosed, hpart⟩ holder =>
      exec_packetArrival_late ⟨hdata, hchip, hhost⟩ hnet hg hpart hclosed holder,
    fun s p g hchip hhost hdata hg hpart => exec_packetArrival_rest ⟨hdata, hchip, hhost⟩ hg hpart,
    fun s g p hp hheld hv hpiece => ?whole, fun s g p hp hv hpiece => ?part,
    fun s g p _ _ _ hp hv => (admitPacket_next hp).trans (ingest_refused _ hv),
    fun s g p hp hv => (admitPacket_next hp).trans (ingest_moved _ hv),
    fun s g p hp hdone => admitPacket_again hp hdone, fun s g p _ hp hdone hstop => admitPacket_stopped hp hdone hstop,
    fun s g p hp hdone hgoes hseq hmoved hnone => (admitPacket_ahead hp hdone hgoes hseq hmoved).trans (holdEarly_first hnone),
    fun s g p hstale => admitPacket_stale hstale,
    fun s p hchip hnet hbody hhome => exec_streamReset hchip hnet hbody hhome rfl,
    fun s p g hchip hnet hbody hg hfresh hopen hnone => exec_closeArrival hchip hnet hbody hg hfresh hopen hnone,
    fun s p g u hchip hnet hbody hhome hg hgen => exec_resync_answers hchip hnet hbody hhome hg hgen,
    fun s p g u hchip hnet hbody hhome hg hgen hfresh => exec_resync_unbegun hchip hnet hbody hhome hg hgen hfresh,
    fun s p g hp hlate => exec_destinationAccessTimeout hp hlate,
    fun s p g hp hhost hclean => ⟨exec_hostRegionAccessCompletion hp hhost hclean false,
      exec_hostRegionAccessCompletion hp hhost hclean true⟩⟩
  case whole =>
    rw [admitPacket_next hp, hheld]
    exact ingest_whole hv hpiece
  case part => exact (admitPacket_next hp).trans (ingest_part _ hv hpiece)

end Sys2Proof.Machine

/-! # What comes back to a channel (R294–R297, R302–R304, R312–R320) -/

namespace Sys2Proof.Machine

/-- The stream of a key, at its source. -/
abbrev State.streamAt (s : State) (k : StreamKey) : Stream := (s.chan k.team k.ch).stream k.dest

/-- The stream's team is here, and is not saved. -/
def State.sourceLives (s : State) (k : StreamKey) : Prop := s.ownStream k = true ∧ (s.team k.team).state ≠ .saved

theorem takeBack_took {s : State} {m : NetMsg} {k : StreamKey} (b : Bool) (h : m ∈ s.net) (hown : s.ownStream k = true) :
    s.takeBack m k b = some (s.tookNet m) := takeBack_mem b h (ownStream_chip hown)

/-! ## Acknowledgements (R295, R301) -/

section
variable (s : State)

@[simp] theorem landPend_teams (crs pid : Nat) (ls : List Landing) (fl : Word) :
    (s.landPend crs pid ls fl).teams = s.teams := by
  rw [State.landPend]
  cases (s.course crs).pend.find? (fun p => p.id == pid) <;> rfl

@[simp] theorem landLanes_teams (crs pid : Nat) (mask : LaneMask) (ls : List Landing) :
    (s.landLanes crs pid mask ls).teams = s.teams := by
  rw [State.landLanes]
  cases (s.course crs).pend.find? (fun p => p.id == pid) with
  | none => rfl
  | some p =>
    dsimp only
    split
    · exact landPend_teams ..
    · rfl

/-- The old values of an ATOMG land in registers. -/
@[simp] theorem landAtomg_teams (q : OutPacket) (f : AtomElem → Nat × Bool) : (s.landAtomg q f).teams = s.teams := by
  rw [State.landAtomg]
  split
  · exact landLanes_teams ..
  · rfl

/-- Changing a channel leaves which state the teams are in. -/
@[simp] theorem teamState_onChan (team ch : Nat) (f : Chan → Chan) (h : Nat) :
    ((s.onChan team ch f).team h).state = (s.team h).state := by
  rw [State.onChan, team_onTeam]
  split
  next heq => rw [heq]
  next => rfl

/-- The packet is acknowledged by an acknowledgement of a generation up to a number. -/
def OutPacket.ackedBy (q : OutPacket) (gen upto : Nat) : Bool :=
  q.sentAt.isSome && !q.moved && q.pkt.gen == gen && seqUpto q.pkt.seq upto

/-- The old values that an acknowledgement brings land, packet by packet. -/
def State.landOlds (s : State) (k : StreamKey) (gen upto : Nat) (olds : List OldValue) : State :=
  ((s.streamAt k).pkts.filter (fun q => q.ackedBy gen upto)).foldl (fun s q =>
    s.landAtomg q (fun e =>
      match olds.find? (fun o => o.seq == q.pkt.seq && o.lane == e.lane) with
      | some o => (o.value, o.poisoned)
      | none => (0, true))) s

theorem landOlds_teams (k : StreamKey) (gen upto : Nat) (olds : List OldValue) :
    (s.landOlds k gen upto olds).teams = s.teams :=
  foldl_keeps (part := State.teams) (fun u q => landAtomg_teams u q _) _ s

/-- A stream less the packets that are acknowledged. -/
def Stream.acked (y : Stream) (gen upto now : Nat) : Stream :=
  let left := y.pkts.filter (fun q => !q.ackedBy gen upto)
  { y with pkts := left, idleSince := now, resync := if left.any (fun q => q.sentAt.isSome && !q.moved) then y.resync else none }

theorem ackStream_eq (k : StreamKey) (gen upto : Nat) (olds : List OldValue) : s.ackStream k gen upto olds =
    let u := s.landOlds k gen upto olds
    u.onChan k.team k.ch (fun c => (c.onStream k.dest (fun y => y.acked gen upto u.clock)).noteDone k.dest u.stamp) := rfl

/-- An acknowledgement leaves which state the teams are in. -/
theorem ackStream_teamState (k : StreamKey) (gen upto : Nat) (olds : List OldValue) (h : Nat) :
    ((s.ackStream k gen upto olds).team h).state = (s.team h).state := by
  have hteam : (s.landOlds k gen upto olds).team h = s.team h := by rw [State.team, landOlds_teams]; rfl
  rw [ackStream_eq]
  simp only [teamState_onChan, hteam]

/-- No packet that an acknowledgement covers is left. -/
theorem ackStream_settles {k : StreamKey} {gen upto : Nat} {olds : List OldValue} {q : OutPacket}
    (hq : q ∈ ((s.ackStream k gen upto olds).streamAt k).pkts) : q.ackedBy gen upto = false := by
  rw [ackStream_eq] at hq
  simp only [State.streamAt, chan_onChan, and_self, if_true, stream_noteDone] at hq
  rw [stream_onStream (f := fun y => y.acked gen upto _) _ _ (fun _ => rfl)] at hq
  simpa using (List.mem_filter.1 hq).2

end

theorem exec_acknowledgementArrival {s : State} {a : Ack} (hnet : NetMsg.ack a ∈ s.net) (hown : s.ownStream a.key = true) :
    exec (.acknowledgementArrival a) s =
      .next (((s.tookNet (.ack a)).ackStream a.key a.gen a.upto a.olds).afterSettle a.key.team) := by
  have hown' : (s.tookNet (.ack a)).ownStream a.key = true := hown
  show execAcknowledgementArrival a s = _
  simp only [execAcknowledgementArrival, takeBack_took _ hnet hown, hown', if_true]

/-! ## Refusals (R296, R302, R312, R320) -/

section
variable {s : State} {r : NetRefusal} {q : OutPacket}

/-- A refusal in flight names an outstanding packet of a stream of this package. -/
def State.refuses (s : State) (r : NetRefusal) (q : OutPacket) : Prop :=
  NetMsg.refusal r ∈ s.net ∧ s.ownStream r.key = true ∧ s.refusedPacket r = some q

/-- What a refusal that does not name MOVED comes to. -/
theorem exec_refusalArrival (h : s.refuses r q) (hmoved : r.moved = false) : exec (.refusalArrival r) s =
    let t := s.tookNet (.refusal r)
    if !r.retry && (s.streamAt r.key).oldest != some q then .next { t with net := t.net ++ [.refusal r] }
    else if r.retry then .next (t.onRefused r (fun q => [{ q with retryAt := some (s.clock + 800) }]))
    else
      let u := ((t.breakChan 16 r.key.team r.key.ch r.cause r.addr (some r.key.dest)).onRefused r (fun _ => [])).refuseOne q
      .next ((u.onChan r.key.team r.key.ch (fun c => c.noteDone r.key.dest u.stamp)).afterSettle r.key.team) := by
  obtain ⟨hnet, hown, hq⟩ := h
  have hown' : (s.tookNet (.refusal r)).ownStream r.key = true := hown
  have hq' : (s.tookNet (.refusal r)).refusedPacket r = some q := hq
  show execRefusalArrival r s = _
  simp only [execRefusalArrival, hmoved, Bool.false_eq_true, if_false, takeBack_took _ hnet hown, hown', hq', Bool.not_true]
  rfl

theorem exec_refusalArrival_retry (h : s.refuses r q) (hmoved : r.moved = false) (hretry : r.retry = true) :
    exec (.refusalArrival r) s =
      .next ((s.tookNet (.refusal r)).onRefused r (fun q => [{ q with retryAt := some (s.clock + 800) }])) := by
  rw [exec_refusalArrival h hmoved, hretry]
  rfl

theorem exec_refusalArrival_early (h : s.refuses r q) (hmoved : r.moved = false) (hretry : r.retry = false)
    (holdest : (s.streamAt r.key).oldest ≠ some q) :
    exec (.refusalArrival r) s = .next { s with net := s.net.erase (.refusal r) ++ [.refusal r] } := by
  have hearly : (!r.retry && (s.streamAt r.key).oldest != some q) = true := by simp [hretry, holdest]
  rw [exec_refusalArrival h hmoved]
  exact if_pos hearly

theorem exec_refusalArrival_breaks (h : s.refuses r q) (hmoved : r.moved = false) (hretry : r.retry = false)
    (holdest : (s.streamAt r.key).oldest = some q) : exec (.refusalArrival r) s =
    let u := (((s.tookNet (.refusal r)).breakChan 16 r.key.team r.key.ch r.cause r.addr (some r.key.dest)).onRefused r
      (fun _ => [])).refuseOne q
    .next ((u.onChan r.key.team r.key.ch (fun c => c.noteDone r.key.dest u.stamp)).afterSettle r.key.team) := by
  have hturn : ¬ (!r.retry && (s.streamAt r.key).oldest != some q) = true := by simp [holdest]
  rw [exec_refusalArrival h hmoved]
  exact (if_neg hturn).trans (if_neg (Bool.eq_false_iff.1 hretry))

theorem exec_movedRefusal (h : s.refuses r q) (hmoved : r.moved = true) : exec (.movedRefusal r) s =
    .next (((s.tookNet (.refusal r)).onRefused r (fun q => [{ q with moved := true }])).onChan r.key.team r.key.ch (fun c =>
      { c.onStream r.key.dest (fun y => { y with resync := if y.oldest.isSome then y.resync else none }) with paused := true })) := by
  obtain ⟨hnet, hown, hq⟩ := h
  have hown' : (s.tookNet (.refusal r)).ownStream r.key = true := hown
  have hq' : (s.tookNet (.refusal r)).refusedPacket r = some q := hq
  show execMovedRefusal r s = _
  simp only [execMovedRefusal, hmoved, Bool.not_true, Bool.false_eq_true, if_false, takeBack_took _ hnet hown, hown', hq',
    Option.isNone_some, Bool.or_self]

end

/-! ## Retries and closing (R296) -/

section
variable {s : State} {k : StreamKey}

theorem exec_openRetry (h : s.sourceLives k) : exec (.openRetry k) s =
    let due := fun (q : OutPacket) => q.retryAt.any (fun n => n ≤ s.clock)
    let qs := (s.streamAt k).pkts.filter due
    .next { s.onChan k.team k.ch (fun c => c.onStream k.dest (fun y => Stream.homed
        { y with pkts := y.pkts.map (fun q => if due q then { q with retryAt := none, sentAt := some s.clock } else q) }
        (!qs.isEmpty))) with
      net := s.net ++ qs.map (fun q => .packet (s.fromHere (s.streamAt k) q.pkt)) } := by
  obtain ⟨hown, hsaved⟩ := h
  exact if_neg (by simp [hown, hsaved])

theorem exec_streamClose (hchip : k.chip = s.chip) (hsaved : (s.team k.team).state ≠ .saved)
    (hhalting : (s.team k.team).state ≠ .halting) (hopened : (s.streamAt k).opened = true) (hnone : (s.streamAt k).pkts = [])
    (hidle : (s.streamAt k).idleSince + 1600 ≤ s.clock ∨
      (256 ≤ s.streamsOn (s.team k.team).core ∧ s.entryWanted (s.team k.team).core = true)) :
    exec (.streamClose k) s = .next ((s.teams.keys (fun _ u => u.core == (s.team k.team).core)).foldl State.pump
      (s.closeStream k)) := by
  refine if_pos ?_
  simp only [hchip, beq_self_eq_true, bne_iff_ne, ne_eq, hsaved, hhalting, hopened, hnone, not_false_eq_true, List.isEmpty_nil,
    Bool.true_and, Bool.and_eq_true, Bool.or_eq_true, decide_eq_true_eq, and_true, true_and]
  exact hidle

end

/-! ## The handshake (R317–R319) -/

section
variable {s : State} {k : StreamKey}

theorem sendResync_sends {q : OutPacket} (n : Nat) (hold : (s.streamAt k).oldest = some q) : s.sendResync k n =
    { s.onChan k.team k.ch (fun c => c.onStream k.dest (fun y => Stream.homed { y with resync := some (n, s.clock) } true)) with
      net := s.net ++ [.packet { s.packetOf k.team k.ch k.dest (.resync q.pkt.seq) with
        gen := (s.streamAt k).gen, seq := (s.streamAt k).nextSeq, rehome := (s.streamAt k).rehome }] } := by
  simp only [State.sendResync, hold]

theorem sendResync_nothing (n : Nat) (hold : (s.streamAt k).oldest = none) : s.sendResync k n =
    s.onChan k.team k.ch (fun c => c.onStream k.dest (fun y => { y with resync := none })) := by
  simp only [State.sendResync, hold]

theorem exec_resyncTimer {q : OutPacket} {n : Nat} (h : s.sourceLives k) (hquiet : (s.streamAt k).resync = none)
    (hold : (s.streamAt k).oldest = some q) (hsent : q.sentAt = some n) (hlate : n + 40000 ≤ s.clock) (hretry : q.retryAt = none) :
    exec (.resyncTimer k) s = .next ((s.sendResync k 1).count 1 (dieOf (s.team k.team).core) 6 1) := by
  obtain ⟨hown, hsaved⟩ := h
  have hwaited : n + 50 * Config.cyclesPerUs ≤ s.clock := hlate
  have hstart : s.startResync k = (s.sendResync k 1).count 1 (dieOf (s.team k.team).core) 6 1 := by
    simp only [State.startResync, hold]; rfl
  rw [← hstart]
  exact if_pos (by simp [hown, hsaved, hquiet, hold, hsent, hwaited, hretry])

section
variable {n sent : Nat} (h : s.sourceLives k) (hsince : (s.streamAt k).resync = some (n, sent))
  (hlate : sent + 16000 ≤ s.clock)
include h hsince hlate

/-- What a RESYNC unanswered for 20 µs comes to: it is sent again, or the channel breaks. -/
theorem exec_resyncTimeout : exec (.resyncTimeout k) s =
    if n < 3 then .next (s.sendResync k (n + 1))
    else
      let u := (s.streamAt k).outstanding.foldl State.refuseOne (s.breakChan 16 k.team k.ch 4
        (((s.streamAt k).oldest.map (fun q => packetAddr q.pkt)).getD 0) (some k.dest))
      .next ((u.onChan k.team k.ch (fun c => (c.onStream k.dest (fun y =>
        { y with pkts := y.pkts.filter (fun q => q.sentAt.isNone), resync := none })).noteDone k.dest u.stamp)).afterSettle
          k.team) := by
  obtain ⟨hown, hsaved⟩ := h
  have hwaited : sent + 20 * Config.cyclesPerUs ≤ s.clock := hlate
  have hguard : ¬ (!(s.ownStream k && (s.team k.team).state != .saved && decide (sent + 20 * Config.cyclesPerUs ≤ s.clock))) =
      true := by simp [hown, hsaved, hwaited]
  show execResyncTimeout k s = _
  simp only [execResyncTimeout, hsince]
  exact if_neg hguard

end

/-- A RESYNC_ACK in flight answers the handshake of a stream of this package that goes on. -/
def State.answers (s : State) (r : ResyncAck) : Prop := NetMsg.resyncAck r ∈ s.net ∧ s.ownStream r.key = true ∧
  (s.streamAt r.key).resync ≠ none ∧ (s.streamAt r.key).gen = r.gen ∧ r.stopped = none

/-- What a RESYNC_ACK settles: the packets that it acknowledges, and the handshake. -/
def State.resynced (s : State) (r : ResyncAck) : State :=
  ((s.tookNet (.resyncAck r)).ackStream r.key r.gen ((r.next + 2 ^ 16 - 1) % 2 ^ 16) r.olds).onChan r.key.team r.key.ch
    (fun c => c.onStream r.key.dest (fun y => { y with resync := none }))

theorem resynced_teamState (s : State) (r : ResyncAck) (h : Nat) : ((s.resynced r).team h).state = (s.team h).state := by
  rw [State.resynced, teamState_onChan, ackStream_teamState]
  rfl

section
variable {r : ResyncAck} (h : s.answers r)
include h

/-- What a RESYNC_ACK comes to: a saved team's stream runs the handshake later, any other sends again what is left. -/
theorem exec_resyncAck : exec (.resyncAck r) s =
    let u := s.resynced r
    let again := ((u.streamAt r.key).outstanding.filter (fun q => !q.moved)).map
      (fun q => NetMsg.packet (u.fromHere (u.streamAt r.key) q.pkt))
    if (s.team r.key.team).state = .saved then .next (u.onChan r.key.team r.key.ch (fun c => c.onStream r.key.dest (fun y =>
      { y with resync := if y.oldest.isSome then some (0, 0) else none })))
    else .next (({ u.onChan r.key.team r.key.ch (fun c => c.onStream r.key.dest (fun y => Stream.homed
      { y with pkts := y.pkts.map (fun q => if q.sentAt.isSome then { q with sentAt := some u.clock } else q) }
      (!again.isEmpty))) with net := u.net ++ again } : State).afterSettle r.key.team) := by
  obtain ⟨hnet, hown, hruns, hgen, hgoes⟩ := h
  have hstream : (s.tookNet (.resyncAck r)).streamAt r.key = s.streamAt r.key := rfl
  have hown' : (s.tookNet (.resyncAck r)).ownStream r.key = true := hown
  have hguard : ¬ (!(s.tookNet (.resyncAck r)).ownStream r.key || ((s.tookNet (.resyncAck r)).streamAt r.key).resync.isNone ||
      ((s.tookNet (.resyncAck r)).streamAt r.key).gen != r.gen) = true := by
    simp [hown', hstream, hruns, hgen]
  rw [← resynced_teamState s r]
  show execResyncAck r s = _
  simp only [execResyncAck, takeBack_took _ hnet hown]
  refine (if_neg hguard).trans ?_
  simp only [hgoes]
  rfl

end

end

/-! ## Packets that moved (R320) -/

section
variable {s : State} {team ch : Nat}

/-- The channel's refused packets may be reissued: it pauses for them, its team runs, and every other packet is settled. -/
def State.mayReissue (s : State) (team ch : Nat) : Prop :=
  (s.chan team ch).paused = true ∧ (s.team team).state = .running ∧
    (∀ y ∈ (s.chan team ch).streams, ∀ q ∈ y.pkts, ¬ (q.sentAt.isSome = true ∧ q.moved = false)) ∧
    ∀ q ∈ (s.chan team ch).movedPackets, ∀ e ∈ packetElems q.pkt.body, s.walkWaits (s.gridOf team).ctx e.1 = false

/-- A channel that goes on after a move: messages about its refused packets no longer count. -/
def State.unpaused (s : State) (team ch : Nat) : State :=
  (s.forgetMoved (s.chan team ch).movedPackets).onChan team ch (fun c => { c with paused := false })

/-- The refused packets by their present homes. -/
def State.movedParts (s : State) (team ch : Nat) : List (OutPacket × Option Dest × PacketBody) :=
  (s.chan team ch).movedPackets.flatMap (fun q =>
    ((s.unpaused team ch).rehomePacket (s.gridOf team).ctx q.pkt).map (fun p => (q, p)))

/-- What stands in the way of a reissue. -/
theorem mayReissue_guard (h : s.mayReissue team ch) : ¬ (!(s.chan team ch).paused || decide ((s.team team).state = .saved) ||
    decide ((s.team team).state = .freed) || (s.chan team ch).streams.any (fun y => y.pkts.any (fun q => q.sentAt.isSome && !q.moved)) ||
    (s.chan team ch).movedPackets.any (fun q => (packetElems q.pkt.body).any (fun e => s.walkWaits (s.gridOf team).ctx e.1))) =
      true := by
  obtain ⟨hpaused, hruns, hsettled, hstill⟩ := h
  have hwaiting : (s.chan team ch).streams.any (fun y => y.pkts.any (fun q => q.sentAt.isSome && !q.moved)) = false :=
    List.any_eq_false.2 (fun y hy => by
      rw [Bool.not_eq_true, List.any_eq_false]
      intro q hq
      simpa using hsettled y hy q hq)
  have hmoving : (s.chan team ch).movedPackets.any (fun q => (packetElems q.pkt.body).any (fun e =>
      s.walkWaits (s.gridOf team).ctx e.1)) = false :=
    List.any_eq_false.2 (fun q hq => by
      rw [Bool.not_eq_true, List.any_eq_false]
      exact fun e he => Bool.eq_false_iff.1 (hstill q hq e he))
  rw [hpaused, hruns, hwaiting, hmoving]
  decide

/-- The reissued packets, each with the refused packet of which it is a part. -/
def State.reissues (s : State) (team ch : Nat) : List (OutPacket × OutPacket) :=
  (s.movedParts team ch).filterMap (fun p => p.2.1.map (fun d =>
    (p.1, { p.1.reissued d p.2.2 with first := !p.1.told.contains d || (p.1.first && d == p.1.pkt.key.dest) })))

/-- The channel with its refused packets taken out and their parts put in, before every later operation. -/
def State.replaced (s : State) (team ch : Nat) : State :=
  (s.reissues team ch).foldl (fun (t : State) p => t.onChan team ch (fun c =>
      (c.readsMoved p.1 p.2 t.stamp).onStream p.2.pkt.key.dest (fun y => { y with pkts := insertByOp p.2 y.pkts })))
    ((s.unpaused team ch).onChan team ch (fun c => { c with streams := c.streams.map Stream.withoutMoved }))

theorem exec_movedReissue_sends (h : s.mayReissue team ch) (hhomes : ∀ p ∈ s.movedParts team ch, p.2.1 ≠ none) :
    exec (.movedReissue team ch) s = .next ((((s.chan team ch).movedPackets.foldl (fun r q => insertNat r q.op) []).foldl
      (fun (t : State) n => t.onChan team ch (fun c =>
        c.renotify ((s.chan team ch).movedPackets.filter (fun q => q.op == n))
          (((s.reissues team ch).filter (fun p => p.1.op == n)).map (fun p => p.2))))
      (s.replaced team ch)).afterSettle team) := by
  have hfind : (s.movedParts team ch).find? (fun p => p.2.1.isNone) = none :=
    List.find?_eq_none.2 (fun p hp => by rw [Option.isNone_iff_eq_none]; exact hhomes p hp)
  show execMovedReissue team ch s = _
  rw [execMovedReissue]
  refine (if_neg (mayReissue_guard h)).trans ?_
  dsimp only
  split
  next p hp => exact nomatch hp.symm.trans hfind
  next => rfl

/-- The cause with which a channel breaks at an address that has no home any longer (R312). -/
def homelessCause (w : WalkRes) : Nat :=
  match w with
  | .leaf l => if leafLost l then 6 else 2
  | _ => 2

/-- A walk finds a page that is lost. -/
def WalkRes.lost (w : WalkRes) : Bool :=
  match w with
  | .leaf l => leafLost l
  | _ => false

theorem homelessCause_eq (w : WalkRes) : homelessCause w = if w.lost then 6 else 2 := by cases w <;> rfl

theorem exec_movedReissue_breaks {q : OutPacket} {b : PacketBody} {e : Nat × Nat × Bool} (h : s.mayReissue team ch)
    (hfind : (s.movedParts team ch).find? (fun p => p.2.1.isNone) = some (q, none, b)) (he : (packetElems b).head? = some e) :
    exec (.movedReissue team ch) s = .next (((s.unpaused team ch).breakChan 16 team ch
      (homelessCause ((s.unpaused team ch).walk (s.gridOf team).ctx e.1)) e.1 (some q.pkt.key.dest)).afterSettle team) := by
  have hva : packetAddr { q.pkt with body := b } = e.1 := by rw [packetAddr, he]; rfl
  show execMovedReissue team ch s = _
  rw [execMovedReissue]
  refine (if_neg (mayReissue_guard h)).trans ?_
  dsimp only
  split
  next p hp =>
    obtain rfl : p = (q, none, b) := Option.some.inj (hp.symm.trans hfind)
    rw [hva, homelessCause_eq]
    rfl
  next hp => exact nomatch hp.symm.trans hfind

end

/-! ## Shadow copies that are merged early (R304, R347) -/

theorem exec_shadowMerge {s : State} {team line : Nat} {sh : Shadow}
    (hfind : (s.team team).shadows.find? (fun x => x.line == line) = some sh)
    (hfull : (s.team team).state = .running → 1024 ≤ s.shadowsIn sh.die sh.slice) :
    exec (.shadowMerge team line) s = .next ((s.mergeShadow team sh).pump team) := by
  have hmerges : ¬ (decide ((s.team team).state = .running) && decide (s.shadowsIn sh.die sh.slice < Config.shadowLines)) =
      true := by
    rw [Bool.and_eq_true, decide_eq_true_eq, decide_eq_true_eq]
    exact fun ⟨hruns, hroom⟩ => Nat.not_lt.2 (hfull hruns) hroom
  show execShadowMerge team line s = _
  simp only [execShadowMerge, hfind]
  exact if_neg hmerges

/-- Settles O28: what comes back is taken, and the channel goes on by the one update that the event names. -/
theorem channelReturns : Obligations.ChannelReturns := by
  refine ⟨fun s a hnet _ hown => exec_acknowledgementArrival hnet hown, fun s k gen upto olds q hq => ?settles,
    fun s r q h hmoved hretry => exec_refusalArrival_retry h hmoved hretry,
    fun s r q h hmoved hretry hold => exec_refusalArrival_breaks h hmoved hretry hold,
    fun s r q h hmoved hretry hold => exec_refusalArrival_early h hmoved hretry hold,
    fun s r q h hmoved => exec_movedRefusal h hmoved, fun s k h => exec_openRetry h,
    fun s k hchip hsaved hhalting hopened hnone hidle => exec_streamClose hchip hsaved hhalting hopened hnone hidle,
    fun s k q n h hquiet hold hsent hlate hretry => exec_resyncTimer h hquiet hold hsent hlate hretry,
    fun s k n q hold => sendResync_sends n hold, fun s k n hold => sendResync_nothing n hold,
    fun s k n sent h hsince hlate hfew => (exec_resyncTimeout h hsince hlate).trans (if_pos hfew),
    fun s k sent h hsince hlate => ⟨_, rfl, exec_resyncTimeout h hsince hlate⟩,
    fun s r hnet hown hruns hgen hgoes _ hlives => ⟨_, rfl, ?again⟩,
    fun s r hnet hown hruns hgen hgoes _ hsaved => ⟨_, rfl, ?saved⟩,
    fun s team ch hpaused hruns hsettled hstill => exec_movedReissue_sends ⟨hpaused, hruns, hsettled, hstill⟩,
    fun s team ch q b e hpaused hruns hsettled hstill => exec_movedReissue_breaks ⟨hpaused, hruns, hsettled, hstill⟩,
    fun s team line sh hfind hfull => exec_shadowMerge hfind hfull⟩
  case settles =>
    rintro ⟨hsent, hstays, hgen, hupto⟩
    have hacked : q.ackedBy gen upto = true := by simp [OutPacket.ackedBy, hsent, hstays, hgen, hupto]
    exact Bool.false_ne_true ((ackStream_settles s hq).symm.trans hacked)
  case again => exact (exec_resyncAck ⟨hnet, hown, hruns, hgen, hgoes⟩).trans (if_neg hlives)
  case saved => exact (exec_resyncAck ⟨hnet, hown, hruns, hgen, hgoes⟩).trans (if_pos hsaved)

end Sys2Proof.Machine

/-! # Main memory keeps its canonical form (O59)

Main memory is changed by memWrite, zeroRange and copyRange only, each of which keeps the form, and by a reset, which empties
it. So an operation either leaves main memory as it is (`…_mem`, `mem_of_…`) or keeps the form (`wf_…`, `wf_of_…`). -/

namespace Sys2Proof.Machine

/-! ### Rules for folds, results and steps -/

/-- A fold of updates that leave main memory leaves it. -/
@[simp] theorem foldl_mem {α : Type} {f : State → α → State} (hf : ∀ u a, (f u a).mem = u.mem) (l : List α) (s : State) :
    (l.foldl f s).mem = s.mem := foldl_keeps (part := State.mem) hf l s

/-- A fold of updates that keep the canonical form keeps it. -/
@[simp] theorem wf_foldl {α : Type} {f : State → α → State} (hf : ∀ u a, Memory.wf u.mem = true → Memory.wf (f u a).mem = true)
    (l : List α) (s : State) (h : Memory.wf s.mem = true) : Memory.wf (l.foldl f s).mem = true :=
  List.foldlRecOn l f (motive := fun u => Memory.wf u.mem = true) h (fun u hu a _ => hf u a hu)

/-- The same for a fold that carries more than the state. -/
theorem wf_foldl_fst {α β : Type} {f : State × β → α → State × β}
    (hf : ∀ u a, Memory.wf u.1.mem = true → Memory.wf (f u a).1.mem = true)
    (l : List α) (u : State × β) (h : Memory.wf u.1.mem = true) : Memory.wf (l.foldl f u).1.mem = true :=
  List.foldlRecOn l f (motive := fun v => Memory.wf v.1.mem = true) h (fun v hv a _ => hf v a hv)

/-- Main memory is canonical in every state that a word's result holds. -/
def Res.wf : Res → Prop
  | .go t | .goTrap t _ | .goWait t _ | .jump t | .wait t _ => Memory.wf t.mem = true
  | .trap _ | .trapLooked _ _ | .block _ | .held _ _ => True

section
variable (t : State)
@[simp] theorem Res.wf_go : (Res.go t).wf ↔ Memory.wf t.mem = true := .rfl
@[simp] theorem Res.wf_goTrap (r : TrapRec) : (Res.goTrap t r).wf ↔ Memory.wf t.mem = true := .rfl
@[simp] theorem Res.wf_goWait (w : Wait) : (Res.goWait t w).wf ↔ Memory.wf t.mem = true := .rfl
@[simp] theorem Res.wf_jump : (Res.jump t).wf ↔ Memory.wf t.mem = true := .rfl
@[simp] theorem Res.wf_wait (w : Wait) : (Res.wait t w).wf ↔ Memory.wf t.mem = true := .rfl
@[simp] theorem Res.wf_trap (r : TrapRec) : (Res.trap r).wf := trivial
@[simp] theorem Res.wf_trapLooked (vas : List Nat) (r : TrapRec) : (Res.trapLooked vas r).wf := trivial
@[simp] theorem Res.wf_block (empty : Bool) : (Res.block empty).wf := trivial
@[simp] theorem Res.wf_held (vas : List Nat) (entry : Bool) : (Res.held vas entry).wf := trivial
end

/-- Main memory is canonical in the state that a step answers. -/
def wfNext : Out → Prop
  | .next t => Memory.wf t.mem = true
  | .fault _ | .refused _ => True

/-- Main memory is canonical in the state that is there. -/
def wfSome (o : Option State) : Prop := ∀ t, o = some t → Memory.wf t.mem = true

@[simp] theorem wfSome_none : wfSome none := nofun
@[simp] theorem wfSome_some (t : State) : wfSome (some t) ↔ Memory.wf t.mem = true :=
  ⟨fun h => h t rfl, fun h _ ht => Option.some.inj ht ▸ h⟩
@[simp] theorem wf_nil : Memory.wf [] = true := rfl

@[simp] theorem wfNext_next (t : State) : wfNext (.next t) ↔ Memory.wf t.mem = true := .rfl
@[simp] theorem wfNext_refused (r : Refusal) : wfNext (.refused r) := trivial

section
variable {c : Prop} [Decidable c]
@[simp] theorem mem_ite (a b : State) : (if c then a else b).mem = if c then a.mem else b.mem := apply_ite ..
@[simp] theorem wf_ite (a b : List Host.Cell) : Memory.wf (if c then a else b) = if c then Memory.wf a else Memory.wf b := apply_ite ..
@[simp] theorem Res.wf_ite (a b : Res) : (if c then a else b).wf ↔ if c then a.wf else b.wf := iff_of_eq (apply_ite ..)
@[simp] theorem wfSome_ite (a b : Option State) : wfSome (if c then a else b) ↔ if c then wfSome a else wfSome b := iff_of_eq (apply_ite ..)
@[simp] theorem wfNext_ite (a b : Out) : wfNext (if c then a else b) ↔ if c then wfNext a else wfNext b := iff_of_eq (apply_ite ..)
end

/-- A property that every step of a fold that may fail keeps. -/
theorem foldl_bind_keeps {σ α : Type} {P : σ → Prop} {f : σ → α → Option σ} (hf : ∀ u a t, P u → f u a = some t → P t)
    (l : List α) {o : Option σ} (ho : ∀ u, o = some u → P u) {t : σ} (ht : l.foldl (fun r a => r.bind (fun u => f u a)) o = some t) :
    P t := by
  induction l generalizing o with
  | nil => exact ho t ht
  | cons a l ih =>
    refine ih (fun u hu => ?_) ht
    obtain ⟨v, hv, hvu⟩ := Option.bind_eq_some_iff.1 hu
    exact hf v a u (ho v hv) hvu

/-- A default that keeps the canonical form, where a value that is there does. -/
theorem wf_getD {o : Option State} {s : State} (ho : ∀ t, o = some t → Memory.wf t.mem = true) (h : Memory.wf s.mem = true) :
    Memory.wf (o.getD s).mem = true := by
  cases o with
  | none => exact h
  | some t => exact ho t rfl

theorem wf_elim {α : Type} {o : Option α} {s : State} {f : α → State} (ho : ∀ a, o = some a → Memory.wf (f a).mem = true)
    (h : Memory.wf s.mem = true) : Memory.wf (o.elim s f).mem = true := by
  cases o with
  | none => exact h
  | some t => exact ho t rfl

/-- A local memory whose block is changed by what keeps the form of a block. -/
theorem wf_setSpace_spaceBlock {s : State} {f : Block → Block} (hf : ∀ b, Memory.wf b.mem = true → Memory.wf (f b).mem = true)
    (sp : Space) (h : Memory.wf s.mem = true) : Memory.wf (s.setSpace sp (f (s.spaceBlock sp))).mem = true := by
  cases sp with
  | shared t => exact h
  | scratch g d => exact h
  | spill c => exact hf ⟨s.mem, s.poison⟩ h

theorem wf_performLane (op : LocalOp) (b : Block) (a : LaneAccess) (h : Memory.wf b.mem = true) :
    Memory.wf (performLane op b a).1.mem = true := by
  cases op with
  | load sup d n => exact h
  | store n => exact wf_blockWrite _ _ _ _ h
  | atom sup d n op ftz =>
    simp only [performLane]
    split
    · exact h
    · exact wf_blockWrite _ _ _ _ h
  | fragment sup d => exact h

theorem wf_performAccess (op : LocalOp) (as : List LaneAccess) (b : Block) (h : Memory.wf b.mem = true) :
    Memory.wf (performAccess op b as).1.mem = true := by
  induction as generalizing b with
  | nil => exact h
  | cons a as ih => exact ih _ (wf_performLane op b a h)

theorem wf_putRow (d : TcpyDesc) (row k : Nat) (l : Bytes2) (b : Block) (h : Memory.wf b.mem = true) :
    Memory.wf (d.putRow b row k l).mem = true := by
  rw [TcpyDesc.putRow]
  exact List.foldlRecOn _ _ (motive := fun b : Block => Memory.wf b.mem = true) h (fun b hb i _ => wf_blockWrite _ _ _ _ hb)

/-! ### The state -/

@[simp] theorem reset_mem : State.reset.mem = [] := rfl

/-! ### Shared operations -/

@[simp] theorem landPend_mem (s : State) (crs : Nat) (pid : Nat) (ls : List Landing) (fl : Word) :
    (s.landPend crs pid ls fl).mem = s.mem := by
  rw [State.landPend]
  split <;> rfl

@[simp] theorem landLanes_mem (s : State) (crs : Nat) (pid : Nat) (mask : LaneMask) (ls : List Landing) :
    (s.landLanes crs pid mask ls).mem = s.mem := by
  rw [State.landLanes]
  split <;> simp

@[simp] theorem send_mem (s : State) (op : Nat) (ctx : Nat) (code : Nat) (data : List Byte) :
    (s.send op ctx code data).mem = s.mem := by
  simp [State.send]

@[simp] theorem mgmt_mem (s : State) (ctx : Nat) (code : Nat) (data : List Byte) : (s.mgmt ctx code data).mem = s.mem := by
  simp [State.mgmt]

@[simp] theorem ask_mem (s : State) (op : Nat) (ctx : Nat) (what : AgentAsk) (data : List Byte) :
    (s.ask op ctx what data).mem = s.mem := by
  simp [State.ask]

@[simp] theorem logPost_mem (s : State) (ctx : Nat) (r : ErrRec) : (s.logPost ctx r).mem = s.mem := by simp [State.logPost]

@[simp] theorem haltQueue_mem (s : State) (q : Nat) : (s.haltQueue q).mem = s.mem := by
  rw [State.haltQueue]
  split <;> simp

@[simp] theorem raise_mem (s : State) (crs : Nat) (slot : Nat) (t : TrapRec) : (s.raise crs slot t).mem = s.mem := rfl

@[simp] theorem takeRefusal_mem (s : State) (crs : Nat) (j : Nat) (t : TrapRec) : (s.takeRefusal crs j t).mem = s.mem := rfl

@[simp] theorem advance_mem (s : State) (crs : Nat) (j : Nat) (act : LaneMask) : (s.advance crs j act).mem = s.mem := by
  rw [State.advance]
  split <;> rfl

@[simp] theorem takeBlocks_mem (s : State) (crs : Nat) (set : Nat) : (s.takeBlocks crs set).mem = s.mem := rfl

@[simp] theorem returnBlocks_mem (s : State) (crs : Nat) (set : Nat) : (s.returnBlocks crs set).mem = s.mem := rfl

@[simp] theorem serveBay_mem (s : State) (core bay n : Nat) : (s.serveBay core bay n).mem = s.mem := by
  induction n generalizing s with
  | zero => rfl
  | succ n ih =>
    rw [State.serveBay]
    split
    · rfl
    · simp [ih]

@[simp] theorem servePool_mem (s : State) (core : Nat) (bay : Nat) : (s.servePool core bay).mem = s.mem := by
  simp [State.servePool]

@[simp] theorem serveCores_mem (s : State) (teams : List Nat) : (s.serveCores teams).mem = s.mem := by simp [State.serveCores]

@[simp] theorem readRegion_mem (s : State) (ctx : Nat) (va : Nat) (n : Nat) : (s.readRegion ctx va n).mem = s.mem := rfl

@[simp] theorem abortNow_mem (s : State) (g : Nat) (cause : Nat) (t : Option TrapRec) : (s.abortNow g cause t).mem = s.mem := by
  simp [State.abortNow]

@[simp] theorem abortGrid_mem (s : State) (g : Nat) (cause : Nat) (t : Option TrapRec) : (s.abortGrid g cause t).mem = s.mem := by
  simp [State.abortGrid]

@[simp] theorem escalate_mem (s : State) (crs : Nat) (slot : Nat) (t : TrapRec) : (s.escalate crs slot t).mem = s.mem := by
  simp [State.escalate]

@[simp] theorem takeTrap_mem (s : State) (crs : Nat) (slot : Nat) (t : TrapRec) (turn : Nat) :
    (s.takeTrap crs slot t turn).mem = s.mem := by
  simp [State.takeTrap]

@[simp] theorem leaveSup_mem (s : State) (crs : Nat) (pc : Nat) : (s.leaveSup crs pc).mem = s.mem := by
  rw [State.leaveSup]
  split <;> rfl

@[simp] theorem sretTo_mem (s : State) (crs : Nat) : (s.sretTo crs).mem = s.mem := by
  rw [State.sretTo]
  split <;> simp

/-! ### Translation -/

@[simp] theorem tlbFill_mem (s : State) (ctx : Nat) (vas : List Nat) : (s.tlbFill ctx vas).mem = s.mem := by simp [State.tlbFill]

@[simp] theorem noteTail_mem (s : State) (pa : Nat) (n : Nat) : (s.noteTail pa n).mem = s.mem := rfl

@[simp] theorem malformedEvent_mem (s : State) (ctx : Nat) (va : Nat) : (s.malformedEvent ctx va).mem = s.mem := by
  rw [State.malformedEvent]
  split <;> simp

@[simp] theorem invalidate_mem (s : State) (ctx : Nat) (page : Option Nat) : (s.invalidate ctx page).mem = s.mem := rfl

/-! ### Issue -/

@[simp] theorem account_mem (s : State) (x : Ctx) : (s.account x).mem = s.mem := rfl

@[simp] theorem accountTrap_mem (s : State) (x : Ctx) : (s.accountTrap x).mem = s.mem := rfl

@[simp] theorem noteTrap_mem (s : State) (crs : Nat) (t : TrapRec) : (s.noteTrap crs t).mem = s.mem := by simp [State.noteTrap]

@[simp] theorem pauses_mem (s : State) (crs : Nat) (j : Nat) (act : LaneMask) (w : Wait) :
    (s.pauses crs j act w).mem = s.mem :=
  rfl

@[simp] theorem looked_mem (s : State) (x : Ctx) (vas : List Nat) : (s.looked x vas).mem = s.mem := by simp [State.looked]

@[simp] theorem wf_then (k : Looked) {f : Res} (hf : f.wf) : (k.then f).wf := by
  rw [Looked.then]
  split
  · exact hf
  · trivial
  · trivial

theorem wf_settle (s : State) (x : Ctx) {r : Res} (hr : r.wf) (h : Memory.wf s.mem = true) :
    Memory.wf (s.settle x r).mem = true := by
  cases r <;> simp_all [State.settle]

theorem wf_checkWord (s : State) (i : Instr) (x : Ctx) {body : Ctx → Res} (hb : ∀ x, (body x).wf) :
    (s.checkWord i x body).wf :=
  by
  simp only [State.checkWord]
  split <;> (try split) <;> (try split) <;> (try split) <;> (try split) <;> (try split) <;> (try split) <;> simp [hb]

/-- A word keeps the canonical form where its body does. -/
theorem wf_issue {s : State} {i : Instr} {hd : Head} {body : Ctx → Res} (hb : ∀ x, (body x).wf) (h : Memory.wf s.mem = true) :
    wfNext (s.issue i hd body) := by
  rw [State.issue]
  split
  · exact wf_settle s _ (wf_checkWord s i _ hb) h
  · exact h

@[simp] theorem wf_aluRes (s : State) (x : Ctx) (ws : List AluDst) (fl : Word) (h : Memory.wf s.mem = true) :
    (s.aluRes x ws fl).wf := by
  simp [State.aluRes, h]

@[simp] theorem wf_aluWord (s : State) (x : Ctx) (u : Bool) (d : Nat) (w : Nat) (f : Nat → Nat × Word)
    (h : Memory.wf s.mem = true) :
    (s.aluWord x u d w f).wf := by
  simp [State.aluWord, h]

@[simp] theorem addPend_mem (s : State) (x : Ctx) (unit : PendUnit) (kind : PendKind) (fills : List (RegId × LaneMask))
    (fl : Word) (may : Word) :
    (s.addPend x unit kind fills fl may).mem = s.mem :=
  rfl

@[simp] theorem wf_lateWord (s : State) (x : Ctx) (unit : PendUnit) (u : Bool) (d : Nat) (w : Nat) (may : Word)
    (f : Nat → Nat × Word) (h : Memory.wf s.mem = true) :
    (s.lateWord x unit u d w may f).wf := by
  simp [State.lateWord, h]

@[simp] theorem wf_deliverU (s : State) (x : Ctx) (d : Nat) (w : Nat) (v : Nat) (h : Memory.wf s.mem = true) :
    (s.deliverU x d w v).wf := by
  simp [State.deliverU, h]

/-! ### Integer words -/

@[simp] theorem wf_intWord (s : State) (x : Ctx) (r : RWord) (n32 : Bool) (f : Int → Int → Nat × Word)
    (h : Memory.wf s.mem = true) :
    (s.intWord x r n32 f).wf := by
  simp [State.intWord, h]

@[simp] theorem wf_bitWord (s : State) (x : Ctx) (r : RWord) (f : Nat → Nat → Nat) (h : Memory.wf s.mem = true) :
    (s.bitWord x r f).wf := by
  simp [State.bitWord, h]

@[simp] theorem wf_bitWord3 (s : State) (x : Ctx) (r : RWord) (f : Nat → Nat → Nat → Nat) (h : Memory.wf s.mem = true) :
    (s.bitWord3 x r f).wf := by
  simp [State.bitWord3, h]

@[simp] theorem wf_execIadd (s : State) (r : RWord) (n32 : Bool) (sat : Bool) (h : Memory.wf s.mem = true) :
    wfNext (execIadd r n32 sat s) :=
  wf_issue (fun x => by simp [h]) h

@[simp] theorem wf_execIsub (s : State) (r : RWord) (n32 : Bool) (sat : Bool) (h : Memory.wf s.mem = true) :
    wfNext (execIsub r n32 sat s) :=
  wf_issue (fun x => by simp [h]) h

@[simp] theorem wf_execImul (s : State) (r : RWord) (n32 : Bool) (part : MulPart) (h : Memory.wf s.mem = true) :
    wfNext (execImul r n32 part s) :=
  wf_issue (fun x => by simp [h]) h

@[simp] theorem wf_execImad (s : State) (r : RWord) (n32 : Bool) (wide : Bool) (h : Memory.wf s.mem = true) :
    wfNext (execImad r n32 wide s) :=
  wf_issue (fun x => by simp [h]) h

@[simp] theorem wf_execImin (s : State) (r : RWord) (n32 : Bool) (h : Memory.wf s.mem = true) : wfNext (execImin r n32 s) :=
  wf_issue (fun x => by simp [h]) h

@[simp] theorem wf_execImax (s : State) (r : RWord) (n32 : Bool) (h : Memory.wf s.mem = true) : wfNext (execImax r n32 s) :=
  wf_issue (fun x => by simp [h]) h

@[simp] theorem wf_execIabs (s : State) (r : RWord) (sat : Bool) (h : Memory.wf s.mem = true) : wfNext (execIabs r sat s) :=
  wf_issue (fun x => by simp [h]) h

@[simp] theorem wf_specialWord (s : State) (x : Ctx) (k : Nat) (u : Bool) (d : Nat) (may : Word) (f : Nat → Nat × Word)
    (h : Memory.wf s.mem = true) :
    (s.specialWord x k u d may f).wf := by
  simp [State.specialWord, h]

@[simp] theorem wf_execIdiv (s : State) (r : RWord) (n32 : Bool) (h : Memory.wf s.mem = true) : wfNext (execIdiv r n32 s) :=
  wf_issue (fun x => by simp [h]) h

@[simp] theorem wf_execIrem (s : State) (r : RWord) (n32 : Bool) (h : Memory.wf s.mem = true) : wfNext (execIrem r n32 s) :=
  wf_issue (fun x => by simp [h]) h

@[simp] theorem wf_execAnd (s : State) (r : RWord) (inv : Bool) (h : Memory.wf s.mem = true) : wfNext (execAnd r inv s) :=
  wf_issue (fun x => by simp [h]) h

@[simp] theorem wf_execOr (s : State) (r : RWord) (inv : Bool) (h : Memory.wf s.mem = true) : wfNext (execOr r inv s) :=
  wf_issue (fun x => by simp [h]) h

@[simp] theorem wf_execXor (s : State) (r : RWord) (inv : Bool) (h : Memory.wf s.mem = true) : wfNext (execXor r inv s) :=
  wf_issue (fun x => by simp [h]) h

@[simp] theorem wf_execShl (s : State) (r : RWord) (wrap : Bool) (h : Memory.wf s.mem = true) : wfNext (execShl r wrap s) :=
  wf_issue (fun x => by simp [h]) h

@[simp] theorem wf_execShr (s : State) (r : RWord) (wrap : Bool) (h : Memory.wf s.mem = true) : wfNext (execShr r wrap s) :=
  wf_issue (fun x => by simp [h]) h

@[simp] theorem wf_execSar (s : State) (r : RWord) (wrap : Bool) (h : Memory.wf s.mem = true) : wfNext (execSar r wrap s) :=
  wf_issue (fun x => by simp [h]) h

@[simp] theorem wf_execRot (s : State) (r : RWord) (right : Bool) (h : Memory.wf s.mem = true) : wfNext (execRot r right s) :=
  wf_issue (fun x => by simp [h]) h

@[simp] theorem wf_execPopc (s : State) (r : RWord) (h : Memory.wf s.mem = true) : wfNext (execPopc r s) :=
  wf_issue (fun x => by simp [h]) h

@[simp] theorem wf_execClz (s : State) (r : RWord) (h : Memory.wf s.mem = true) : wfNext (execClz r s) :=
  wf_issue (fun x => by simp [h]) h

@[simp] theorem wf_execBrev (s : State) (r : RWord) (h : Memory.wf s.mem = true) : wfNext (execBrev r s) :=
  wf_issue (fun x => by simp [h]) h

@[simp] theorem wf_execBfe (s : State) (r : RWord) (sx : Bool) (h : Memory.wf s.mem = true) : wfNext (execBfe r sx s) :=
  wf_issue (fun x => by simp [h]) h

@[simp] theorem wf_execBfi (s : State) (r : RWord) (h : Memory.wf s.mem = true) : wfNext (execBfi r s) :=
  wf_issue (fun x => by simp [h]) h

@[simp] theorem wf_compareWord (s : State) (x : Ctx) (r : RWord) (f : Nat → Bool × Word) (h : Memory.wf s.mem = true) :
    (s.compareWord x r f).wf := by
  simp [State.compareWord, h]

@[simp] theorem wf_execIcmp (s : State) (r : RWord) (cc : IntCond) (n32 : Bool) (h : Memory.wf s.mem = true) :
    wfNext (execIcmp r cc n32 s) :=
  wf_issue (fun x => by simp [h]) h

@[simp] theorem wf_execSel (s : State) (r : RWord) (h : Memory.wf s.mem = true) : wfNext (execSel r s) :=
  wf_issue (fun x => by simp [h]) h

@[simp] theorem wf_execMov (s : State) (r : RWord) (h : Memory.wf s.mem = true) : wfNext (execMov r s) :=
  wf_issue (fun x => by simp [h]) h

@[simp] theorem wf_execMovi (s : State) (k : KWord) (ext : MoviExt) (h : Memory.wf s.mem = true) : wfNext (execMovi k ext s) :=
  wf_issue (fun x => by simp [h]) h

@[simp] theorem wf_execIaddi (s : State) (w : IWord) (wide : Bool) (h : Memory.wf s.mem = true) :
    wfNext (execIaddi w wide s) :=
  wf_issue (fun x => by simp [h]) h

@[simp] theorem wf_execIadd64 (s : State) (r : RWord) (sub : Bool) (ext : Ext64) (h : Memory.wf s.mem = true) :
    wfNext (execIadd64 r sub ext s) :=
  wf_issue (fun x => by simp [h]) h

@[simp] theorem wf_execLea (s : State) (r : RWord) (sx : Bool) (h : Memory.wf s.mem = true) : wfNext (execLea r sx s) :=
  wf_issue (fun x => by simp [h]) h

@[simp] theorem wf_maskWord (s : State) (x : Ctx) (r : RWord) (f : Word → Word → Word) (h : Memory.wf s.mem = true) :
    (s.maskWord x r f).wf := by
  simp [State.maskWord, h]

@[simp] theorem wf_execMlopAnd (s : State) (r : RWord) (h : Memory.wf s.mem = true) : wfNext (execMlopAnd r s) :=
  wf_issue (fun x => by simp [h]) h

@[simp] theorem wf_execMlopOr (s : State) (r : RWord) (h : Memory.wf s.mem = true) : wfNext (execMlopOr r s) :=
  wf_issue (fun x => by simp [h]) h

@[simp] theorem wf_execMlopXor (s : State) (r : RWord) (h : Memory.wf s.mem = true) : wfNext (execMlopXor r s) :=
  wf_issue (fun x => by simp [h]) h

@[simp] theorem wf_execMlopAndn (s : State) (r : RWord) (h : Memory.wf s.mem = true) : wfNext (execMlopAndn r s) :=
  wf_issue (fun x => by simp [h]) h

@[simp] theorem wf_execMlopOrn (s : State) (r : RWord) (h : Memory.wf s.mem = true) : wfNext (execMlopOrn r s) :=
  wf_issue (fun x => by simp [h]) h

@[simp] theorem wf_execMlopNot (s : State) (r : RWord) (h : Memory.wf s.mem = true) : wfNext (execMlopNot r s) :=
  wf_issue (fun x => by simp [h]) h

@[simp] theorem wf_execMlopMov (s : State) (r : RWord) (h : Memory.wf s.mem = true) : wfNext (execMlopMov r s) :=
  wf_issue (fun x => by simp [h]) h

@[simp] theorem wf_execMlopFroms (s : State) (r : RWord) (h : Memory.wf s.mem = true) : wfNext (execMlopFroms r s) :=
  wf_issue (fun x => by simp [h]) h

@[simp] theorem wf_execMlopTos (s : State) (r : RWord) (h : Memory.wf s.mem = true) : wfNext (execMlopTos r s) :=
  wf_issue (fun x => by simp [h]) h

@[simp] theorem wf_execMlopAct (s : State) (r : RWord) (h : Memory.wf s.mem = true) : wfNext (execMlopAct r s) :=
  wf_issue (fun x => by simp [h]) h

@[simp] theorem wf_execSrd (s : State) (r : RWord) (h : Memory.wf s.mem = true) : wfNext (execSrd r s) :=
  wf_issue (fun x => by simp [h]) h

@[simp] theorem wf_swrWord (s : State) (x : Ctx) (r : RWord) (f : Word → Word → Word) (h : Memory.wf s.mem = true) :
    (s.swrWord x r f).wf := by
  simp [State.swrWord, h]

@[simp] theorem wf_execSwr (s : State) (r : RWord) (h : Memory.wf s.mem = true) : wfNext (execSwr r s) :=
  wf_issue (fun x => by simp [h]) h

@[simp] theorem wf_execSwrSet (s : State) (r : RWord) (h : Memory.wf s.mem = true) : wfNext (execSwrSet r s) :=
  wf_issue (fun x => by simp [h]) h

@[simp] theorem wf_execSwrClr (s : State) (r : RWord) (h : Memory.wf s.mem = true) : wfNext (execSwrClr r s) :=
  wf_issue (fun x => by simp [h]) h

/-! ### Vector words -/

@[simp] theorem wf_fpWord (s : State) (x : Ctx) (r : RWord) (mode : Rnd) (sat : Bool) (f : Fp → Fp → Fp × Word)
    (h : Memory.wf s.mem = true) :
    (s.fpWord x r mode sat f).wf := by
  simp [State.fpWord, h]

@[simp] theorem wf_execFadd (s : State) (r : RWord) (rnd : Rnd) (sat : Bool) (h : Memory.wf s.mem = true) :
    wfNext (execFadd r rnd sat s) :=
  wf_issue (fun x => by simp [h]) h

@[simp] theorem wf_execFsub (s : State) (r : RWord) (rnd : Rnd) (sat : Bool) (h : Memory.wf s.mem = true) :
    wfNext (execFsub r rnd sat s) :=
  wf_issue (fun x => by simp [h]) h

@[simp] theorem wf_execFmul (s : State) (r : RWord) (rnd : Rnd) (sat : Bool) (h : Memory.wf s.mem = true) :
    wfNext (execFmul r rnd sat s) :=
  wf_issue (fun x => by simp [h]) h

@[simp] theorem wf_execFfma (s : State) (r : RWord) (rnd : Rnd4) (sat : Bool) (h : Memory.wf s.mem = true) :
    wfNext (execFfma r rnd sat s) :=
  wf_issue (fun x => by simp [h]) h

@[simp] theorem wf_minMaxWord (s : State) (x : Ctx) (r : RWord) (max : Bool) (nan : Bool) (h : Memory.wf s.mem = true) :
    (s.minMaxWord x r max nan).wf := by
  simp [State.minMaxWord, h]

@[simp] theorem wf_execFmin (s : State) (r : RWord) (nan : Bool) (h : Memory.wf s.mem = true) : wfNext (execFmin r nan s) :=
  wf_issue (fun x => by simp [h]) h

@[simp] theorem wf_execFmax (s : State) (r : RWord) (nan : Bool) (h : Memory.wf s.mem = true) : wfNext (execFmax r nan s) :=
  wf_issue (fun x => by simp [h]) h

@[simp] theorem wf_execFcmp (s : State) (r : RWord) (cc : FpCond) (h : Memory.wf s.mem = true) : wfNext (execFcmp r cc s) :=
  wf_issue (fun x => by simp [h]) h

@[simp] theorem wf_execFcls (s : State) (r : RWord) (h : Memory.wf s.mem = true) : wfNext (execFcls r s) :=
  wf_issue (fun x => by simp [h]) h

@[simp] theorem wf_packedWord (s : State) (x : Ctx) (r : RWord) (part : PackPart) (f : Nat → Nat → Nat × Word)
    (h : Memory.wf s.mem = true) :
    (s.packedWord x r part f).wf := by
  simp [State.packedWord, h]

@[simp] theorem wf_packed2 (s : State) (x : Ctx) (r : RWord) (rnd : Rnd) (sat : Bool) (bf16 : Bool) (part : PackPart)
    (f : Fp → Fp → Fp × Word) (h : Memory.wf s.mem = true) :
    (s.packed2 x r rnd sat bf16 part f).wf := by
  simp [State.packed2, h]

@[simp] theorem wf_execHadd2 (s : State) (r : RWord) (rnd : Rnd) (sat : Bool) (bf16 : Bool) (part : PackPart)
    (h : Memory.wf s.mem = true) :
    wfNext (execHadd2 r rnd sat bf16 part s) :=
  wf_issue (fun x => by simp [h]) h

@[simp] theorem wf_execHmul2 (s : State) (r : RWord) (rnd : Rnd) (sat : Bool) (bf16 : Bool) (part : PackPart)
    (h : Memory.wf s.mem = true) :
    wfNext (execHmul2 r rnd sat bf16 part s) :=
  wf_issue (fun x => by simp [h]) h

@[simp] theorem wf_execHfma2 (s : State) (r : RWord) (rnd : Rnd4) (sat : Bool) (bf16 : Bool) (part : PackPart)
    (h : Memory.wf s.mem = true) :
    wfNext (execHfma2 r rnd sat bf16 part s) :=
  wf_issue (fun x => by simp [h]) h

@[simp] theorem wf_execHmnx2 (s : State) (r : RWord) (max : Bool) (nan : Bool) (bf16 : Bool) (part : PackPart)
    (h : Memory.wf s.mem = true) :
    wfNext (execHmnx2 r max nan bf16 part s) :=
  wf_issue (fun x => by simp [h]) h

@[simp] theorem wf_execCvt (s : State) (r : RWord) (rnd : Rnd) (sat : Bool) (h : Memory.wf s.mem = true) :
    wfNext (execCvt r rnd sat s) :=
  wf_issue (fun x => by dsimp only; split <;> simp [h]) h

@[simp] theorem wf_execFrnd (s : State) (r : RWord) (rnd : Rnd) (h : Memory.wf s.mem = true) : wfNext (execFrnd r rnd s) :=
  wf_issue (fun x => by simp [h]) h

@[simp] theorem wf_execFscl (s : State) (r : RWord) (rnd : Rnd4) (sat : Bool) (h : Memory.wf s.mem = true) :
    wfNext (execFscl r rnd sat s) :=
  wf_issue (fun x => by simp [h]) h

@[simp] theorem wf_execFdiv (s : State) (r : RWord) (rnd : Rnd4) (h : Memory.wf s.mem = true) : wfNext (execFdiv r rnd s) :=
  wf_issue (fun x => by simp [h]) h

@[simp] theorem wf_execFsqrt (s : State) (r : RWord) (rnd : Rnd4) (h : Memory.wf s.mem = true) : wfNext (execFsqrt r rnd s) :=
  wf_issue (fun x => by simp [h]) h

@[simp] theorem wf_specialFn (s : State) (x : Ctx) (r : RWord) (may : Word) (f : Bool → Nat → Fp → Word × Word)
    (h : Memory.wf s.mem = true) :
    (s.specialFn x r may f).wf := by
  simp [State.specialFn, h]

@[simp] theorem wf_execRcp (s : State) (r : RWord) (h : Memory.wf s.mem = true) : wfNext (execRcp r s) :=
  wf_issue (fun x => by simp [h]) h

@[simp] theorem wf_execRsq (s : State) (r : RWord) (h : Memory.wf s.mem = true) : wfNext (execRsq r s) :=
  wf_issue (fun x => by simp [h]) h

@[simp] theorem wf_execEx2 (s : State) (r : RWord) (h : Memory.wf s.mem = true) : wfNext (execEx2 r s) :=
  wf_issue (fun x => by simp [h]) h

@[simp] theorem wf_execLg2 (s : State) (r : RWord) (h : Memory.wf s.mem = true) : wfNext (execLg2 r s) :=
  wf_issue (fun x => by simp [h]) h

@[simp] theorem wf_execSin (s : State) (r : RWord) (h : Memory.wf s.mem = true) : wfNext (execSin r s) :=
  wf_issue (fun x => by simp [h]) h

@[simp] theorem wf_execCos (s : State) (r : RWord) (h : Memory.wf s.mem = true) : wfNext (execCos r s) :=
  wf_issue (fun x => by simp [h]) h

@[simp] theorem wf_execTanh (s : State) (r : RWord) (h : Memory.wf s.mem = true) : wfNext (execTanh r s) :=
  wf_issue (fun x => by simp [h]) h

/-! ### The crossbar -/

@[simp] theorem wf_crossbarWord (s : State) (x : Ctx) (k : Nat) (u : Bool) (d : Nat) (w : Nat) (may : Word) (rs : Nat → Nat)
    (fl : Word) (h : Memory.wf s.mem = true) :
    (s.crossbarWord x k u d w may rs fl).wf := by
  simp [State.crossbarWord, h]

@[simp] theorem wf_execShfl (s : State) (r : RWord) (mode : ShflMode) (seg : Seg) (h : Memory.wf s.mem = true) :
    wfNext (execShfl r mode seg s) :=
  wf_issue (fun x => by dsimp only; (repeat' split) <;> simp [h]) h

@[simp] theorem wf_execVote (s : State) (r : RWord) (mode : VoteMode) (h : Memory.wf s.mem = true) :
    wfNext (execVote r mode s) :=
  wf_issue (fun x => by simp [h]) h

@[simp] theorem wf_execRedux (s : State) (r : RWord) (op : RedOp) (idx : Bool) (seg : Seg) (h : Memory.wf s.mem = true) :
    wfNext (execRedux r op idx seg s) :=
  wf_issue (fun x => by simp [h]) h

@[simp] theorem wf_execScan (s : State) (r : RWord) (op : RedOp) (excl : Bool) (seg : Seg) (h : Memory.wf s.mem = true) :
    wfNext (execScan r op excl seg s) :=
  wf_issue (fun x => by simp [h]) h

@[simp] theorem wf_execHdm (s : State) (r : RWord) (seg : Seg) (scale : HdmScale) (h : Memory.wf s.mem = true) :
    wfNext (execHdm r seg scale s) :=
  wf_issue (fun x => by simp [h]) h

@[simp] theorem wf_execQmax (s : State) (r : RWord) (ty : QmaxType) (seg : Seg) (h : Memory.wf s.mem = true) :
    wfNext (execQmax r ty seg s) :=
  wf_issue (fun x => by simp [h]) h

@[simp] theorem wf_withFormat (s : State) (x : Ctx) (n : Nat) {k : Fmt → Res} (hk : ∀ f, (k f).wf) :
    (s.withFormat x n k).wf := by
  simp [State.withFormat, hk]

@[simp] theorem wf_crossbarEach (s : State) (x : Ctx) (k : Nat) (u : Bool) (d : Nat) (may : Word) (f : Nat → Nat × Word)
    (h : Memory.wf s.mem = true) :
    (s.crossbarEach x k u d may f).wf := by
  simp [State.crossbarEach, h]

@[simp] theorem wf_execQscale (s : State) (r : RWord) (out : QscaleOut) (fm : BitVec 3) (h : Memory.wf s.mem = true) :
    wfNext (execQscale r out fm s) :=
  wf_issue (fun x => by simp [h]) h

@[simp] theorem wf_execQnt (s : State) (r : RWord) (rnd : Rnd) (sat : Bool) (fm : BitVec 3) (h : Memory.wf s.mem = true) :
    wfNext (execQnt r rnd sat fm s) :=
  wf_issue (fun x => by simp [h]) h

@[simp] theorem wf_execDeq (s : State) (r : RWord) (rnd : Rnd4) (fm : BitVec 3) (h : Memory.wf s.mem = true) :
    wfNext (execDeq r rnd fm s) :=
  wf_issue (fun x => by simp [h]) h

@[simp] theorem wf_execPack (s : State) (r : RWord) (w : PackWidth) (h : Memory.wf s.mem = true) : wfNext (execPack r w s) :=
  wf_issue (fun x => by simp [h]) h

@[simp] theorem wf_execUnpack (s : State) (r : RWord) (w : PackWidth) (sx : Bool) (h : Memory.wf s.mem = true) :
    wfNext (execUnpack r w sx s) :=
  wf_issue (fun x => by simp [h]) h

/-! ### Distributions -/

theorem wf_withDist (s : State) (x : Ctx) (k : Nat) {f : State → Res} (hf : ∀ t, Memory.wf t.mem = true → (f t).wf)
    (h : Memory.wf s.mem = true) : (s.withDist x k f).wf := by
  simp only [State.withDist]
  split
  · trivial
  · split
    · exact h
    · exact hf _ h

@[simp] theorem wf_distWord (s : State) (x : Ctx) (k d : Nat) (tag : Bool) (may : Word) (f : Nat → DCell × Word)
    (h : Memory.wf s.mem = true) : (s.distWord x k d tag may f).wf := wf_withDist _ _ _ (fun t ht => by simp [ht]) h

@[simp] theorem wf_distOut (s : State) (x : Ctx) (k d : Nat) (may : Word) (f : Nat → Nat × Word)
    (h : Memory.wf s.mem = true) : (s.distOut x k d may f).wf := wf_withDist _ _ _ (fun t ht => by simp [ht]) h

@[simp] theorem wf_execDmk (s : State) (r : RWord) (eq : Bool) (h : Memory.wf s.mem = true) : wfNext (execDmk r eq s) :=
  wf_issue (fun x => by simp [h]) h

@[simp] theorem wf_execDget (s : State) (r : RWord) (w : Bool) (h : Memory.wf s.mem = true) : wfNext (execDget r w s) :=
  wf_issue (fun x => by simp [h]) h

@[simp] theorem wf_execDset (s : State) (r : RWord) (h : Memory.wf s.mem = true) : wfNext (execDset r s) :=
  wf_issue (fun x => by simp [h]) h

@[simp] theorem wf_binaryDist (s : State) (x : Ctx) (r : RWord) (may : Word) (f : Word → Word → Word × Word)
    (h : Memory.wf s.mem = true) :
    (s.binaryDist x r may f).wf := by
  simp [State.binaryDist, h]

@[simp] theorem wf_execDadd (s : State) (r : RWord) (h : Memory.wf s.mem = true) : wfNext (execDadd r s) :=
  wf_issue (fun x => by simp [h]) h

@[simp] theorem wf_execDsub (s : State) (r : RWord) (h : Memory.wf s.mem = true) : wfNext (execDsub r s) :=
  wf_issue (fun x => by simp [h]) h

@[simp] theorem wf_execDmul (s : State) (r : RWord) (h : Memory.wf s.mem = true) : wfNext (execDmul r s) :=
  wf_issue (fun x => by simp [h]) h

@[simp] theorem wf_execDmin (s : State) (r : RWord) (h : Memory.wf s.mem = true) : wfNext (execDmin r s) :=
  wf_issue (fun x => by simp [h]) h

@[simp] theorem wf_execDmax (s : State) (r : RWord) (h : Memory.wf s.mem = true) : wfNext (execDmax r s) :=
  wf_issue (fun x => by simp [h]) h

@[simp] theorem wf_pointwise (s : State) (x : Ctx) (r : RWord) (may : Word) (f : Nat → Word → Word × Word)
    (h : Memory.wf s.mem = true) :
    (s.pointwise x r may f).wf := by
  simp [State.pointwise, h]

@[simp] theorem wf_execDmap (s : State) (r : RWord) (fn : DmapFn) (h : Memory.wf s.mem = true) : wfNext (execDmap r fn s) :=
  wf_issue (fun x => by simp [h]) h

@[simp] theorem wf_execDaff (s : State) (r : RWord) (h : Memory.wf s.mem = true) : wfNext (execDaff r s) :=
  wf_issue (fun x => by simp [h]) h

@[simp] theorem wf_execDmix (s : State) (r : RWord) (h : Memory.wf s.mem = true) : wfNext (execDmix r s) :=
  wf_issue (fun x => by simp [h]) h

@[simp] theorem wf_execDcond (s : State) (r : RWord) (h : Memory.wf s.mem = true) : wfNext (execDcond r s) :=
  wf_issue (fun x => by simp [h]) h

@[simp] theorem wf_execDmom (s : State) (r : RWord) (k : Moment) (h : Memory.wf s.mem = true) : wfNext (execDmom r k s) :=
  wf_issue (fun x => by simp [h]) h

@[simp] theorem wf_execDqtl (s : State) (r : RWord) (f32_ : Bool) (h : Memory.wf s.mem = true) : wfNext (execDqtl r f32_ s) :=
  wf_issue (fun x => by simp [h]) h

@[simp] theorem wf_execDcdf (s : State) (r : RWord) (le : Bool) (h : Memory.wf s.mem = true) : wfNext (execDcdf r le s) :=
  wf_issue (fun x => by simp [h]) h

@[simp] theorem wf_execDtagNew (s : State) (r : RWord) (h : Memory.wf s.mem = true) : wfNext (execDtagNew r s) :=
  wf_issue (fun x => by simp [h]) h

@[simp] theorem wf_execDtagCopy (s : State) (r : RWord) (h : Memory.wf s.mem = true) : wfNext (execDtagCopy r s) :=
  wf_issue (fun x => by simp [h]) h

@[simp] theorem wf_execDtagRead (s : State) (r : RWord) (h : Memory.wf s.mem = true) : wfNext (execDtagRead r s) :=
  wf_issue (fun x => by simp [h]) h

/-! ### Local memory -/

@[simp] theorem wf_withLocal (s : State) (x : Ctx) (m : MWord) (reach : Reach) (n al k : Nat)
    {f : Course → (Nat → Space × Nat) → Res} (hf : ∀ c a, (f c a).wf) (h : Memory.wf s.mem = true) :
    (s.withLocal x m reach n al k f).wf := by
  simp only [State.withLocal]
  split
  · exact h
  · split
    · trivial
    · exact hf _ _

@[simp] theorem wf_issueAccess (s : State) (x : Ctx) (op : LocalOp) (d w : Nat) (may : Word) (as : List (Space × LaneAccess))
    (h : Memory.wf s.mem = true) : (s.issueAccess x op d w may as).wf := by
  rw [State.issueAccess, Res.wf_go, foldl_mem (fun u g => addPend_mem ..)]
  exact h

@[simp] theorem wf_loadWord (s : State) (x : Ctx) (m : MWord) (reach : Reach) (h : Memory.wf s.mem = true) :
    (s.loadWord x m reach).wf := by
  simp [State.loadWord, h]

@[simp] theorem wf_storeWord (s : State) (x : Ctx) (m : MWord) (reach : Reach) (h : Memory.wf s.mem = true) :
    (s.storeWord x m reach).wf := by
  simp [State.storeWord, h]

@[simp] theorem wf_atomWord (s : State) (x : Ctx) (m : MWord) (op : AtomOp) (reach : Reach) (h : Memory.wf s.mem = true) :
    (s.atomWord x m op reach).wf := by
  simp [State.atomWord, h]

@[simp] theorem wf_execLds (s : State) (m : MWord) (clu : Bool) (h : Memory.wf s.mem = true) : wfNext (execLds m clu s) :=
  wf_issue (fun x => by simp [h]) h

@[simp] theorem wf_execSts (s : State) (m : MWord) (clu : Bool) (h : Memory.wf s.mem = true) : wfNext (execSts m clu s) :=
  wf_issue (fun x => by simp [h]) h

@[simp] theorem wf_execAtoms (s : State) (m : MWord) (op : AtomOp) (clu : Bool) (h : Memory.wf s.mem = true) :
    wfNext (execAtoms m op clu s) :=
  wf_issue (fun x => by simp [h]) h

@[simp] theorem wf_execLdsf (s : State) (m : MWord) (clu : Bool) (h : Memory.wf s.mem = true) : wfNext (execLdsf m clu s) :=
  wf_issue (fun x => by simp [h]) h

@[simp] theorem wf_execLdx (s : State) (m : MWord) (h : Memory.wf s.mem = true) : wfNext (execLdx m s) :=
  wf_issue (fun x => by simp [h]) h

@[simp] theorem wf_execStx (s : State) (m : MWord) (h : Memory.wf s.mem = true) : wfNext (execStx m s) :=
  wf_issue (fun x => by simp [h]) h

@[simp] theorem wf_execAtomx (s : State) (m : MWord) (op : AtomOp) (h : Memory.wf s.mem = true) : wfNext (execAtomx m op s) :=
  wf_issue (fun x => by simp [h]) h

@[simp] theorem wf_execLdk (s : State) (m : MWord) (h : Memory.wf s.mem = true) : wfNext (execLdk m s) :=
  wf_issue (fun x => by simp [h]) h

@[simp] theorem wf_execStk (s : State) (m : MWord) (h : Memory.wf s.mem = true) : wfNext (execStk m s) :=
  wf_issue (fun x => by simp [h]) h

/-! ### Control -/

@[simp] theorem wf_pushPaths (s : State) (crs : Nat) (act : LaneMask) (l : List (Nat × LaneMask)) (h : Memory.wf s.mem = true) :
    Memory.wf (s.pushPaths crs act l).mem = true := by
  induction l with
  | nil => exact h
  | cons e l ih =>
    simp only [State.pushPaths, count_mem, setCourse_mem]
    exact wf_memWrite _ _ _ _ ih

@[simp] theorem wf_writeRejoins (s : State) (c : Course) (l : List Rejoin) (h : Memory.wf s.mem = true) :
    Memory.wf (s.writeRejoins c l).mem = true := by
  induction l with
  | nil => exact h
  | cons e l ih => exact wf_memWrite _ _ _ _ ih

@[simp] theorem wf_setRejoins (s : State) (crs : Nat) (l : List Rejoin) (h : Memory.wf s.mem = true) :
    Memory.wf (s.setRejoins crs l).mem = true := by
  simp [State.setRejoins, h]

@[simp] theorem begins_mem (s : State) (crs : Nat) (j : Nat) (act : LaneMask) : (s.begins crs j act).mem = s.mem := by
  rw [State.begins]
  split <;> rfl

@[simp] theorem wf_fillSlot (s : State) (crs : Nat) (j : Nat) (h : Memory.wf s.mem = true) :
    Memory.wf (s.fillSlot crs j).mem = true := by
  rw [State.fillSlot]
  split <;> simp [h]

@[simp] theorem wf_refillSlot (s : State) (crs : Nat) (j : Nat) (h : Memory.wf s.mem = true) :
    Memory.wf (s.refillSlot crs j).mem = true := by
  simp [State.refillSlot, h]

@[simp] theorem wf_execSlotRefill (s : State) (crs : Nat) (h : Memory.wf s.mem = true) : wfNext (execSlotRefill crs s) := by
  simp [execSlotRefill, h]

@[simp] theorem wf_execVacq (s : State) (r : RWord) (h : Memory.wf s.mem = true) : wfNext (execVacq r s) :=
  wf_issue (fun x => by simp [h]) h

@[simp] theorem wf_execVacqNb (s : State) (r : RWord) (h : Memory.wf s.mem = true) : wfNext (execVacqNb r s) :=
  wf_issue (fun x => by simp [h]) h

@[simp] theorem wf_execVrel (s : State) (r : RWord) (h : Memory.wf s.mem = true) : wfNext (execVrel r s) :=
  wf_issue (fun x => by simp [h]) h

@[simp] theorem courseEnd_mem (s : State) (crs : Nat) : (s.courseEnd crs).mem = s.mem := by simp [State.courseEnd]

@[simp] theorem wf_retire (s : State) (crs : Nat) (j : Nat) (m : LaneMask) (h : Memory.wf s.mem = true) :
    Memory.wf (s.retire crs j m).mem = true := by
  simp [State.retire, h]

@[simp] theorem wf_execEnd (s : State) (hd : Head) (h : Memory.wf s.mem = true) : wfNext (execEnd hd s) :=
  wf_issue (fun x => by simp [h]) h

@[simp] theorem wf_execIll (s : State) (hd : Head) (body : BitVec 46) (h : Memory.wf s.mem = true) :
    wfNext (execIll hd body s) :=
  wf_issue (fun x => by simp) h

@[simp] theorem wf_execNop (s : State) (hd : Head) (h : Memory.wf s.mem = true) : wfNext (execNop hd s) :=
  wf_issue (fun x => by simp [h]) h

@[simp] theorem wf_branch (s : State) (x : Ctx) (X : Int) (T : LaneMask) (link : Course → Course) (h : Memory.wf s.mem = true) :
    (s.branch x X T link).wf := by
  simp [State.branch, h]

@[simp] theorem wf_execBra (s : State) (hd : Head) (t : BraTest) (ofs : BitVec 32) (h : Memory.wf s.mem = true) :
    wfNext (execBra hd t ofs s) :=
  wf_issue (fun x => by simp [h]) h

@[simp] theorem wf_execCall (s : State) (hd : Head) (unif : Bool) (a : BitVec 8) (ofs : BitVec 32) (h : Memory.wf s.mem = true) :
    wfNext (execCall hd unif a ofs s) :=
  wf_issue (fun x => by simp [h]) h

@[simp] theorem wf_indirect (s : State) (x : Ctx) (r : RWord) (h : Memory.wf s.mem = true) : (s.indirect x r).wf := by
  simp only [State.indirect]
  (repeat' split) <;> simp [h]

@[simp] theorem wf_execBrx (s : State) (r : RWord) (h : Memory.wf s.mem = true) : wfNext (execBrx r s) :=
  wf_issue (fun x => by simp [h]) h

@[simp] theorem wf_execRet (s : State) (r : RWord) (h : Memory.wf s.mem = true) : wfNext (execRet r s) :=
  wf_issue (fun x => by simp [h]) h

@[simp] theorem wf_execJmark (s : State) (hd : Head) (ofs : BitVec 32) (h : Memory.wf s.mem = true) :
    wfNext (execJmark hd ofs s) :=
  wf_issue (fun x => by simp [h]) h

@[simp] theorem wf_execJoin (s : State) (hd : Head) (h : Memory.wf s.mem = true) : wfNext (execJoin hd s) :=
  wf_issue (fun x => by dsimp only; (repeat' split) <;> simp [h]) h

@[simp] theorem wf_execIpush (s : State) (r : RWord) (h : Memory.wf s.mem = true) : wfNext (execIpush r s) :=
  wf_issue (fun x => by simp [h]) h

@[simp] theorem wf_execRefill (s : State) (r : RWord) (h : Memory.wf s.mem = true) : wfNext (execRefill r s) :=
  wf_issue (fun x => by simp [h]) h

@[simp] theorem setBar_mem (s : State) (team : Nat) (b : Nat) (x : Barrier) : (s.setBar team b x).mem = s.mem := rfl

@[simp] theorem wf_execBarinit (s : State) (r : RWord) (h : Memory.wf s.mem = true) : wfNext (execBarinit r s) :=
  wf_issue (fun x => by simp [h]) h

@[simp] theorem wf_execArrive (s : State) (r : RWord) (ph : Bool) (h : Memory.wf s.mem = true) : wfNext (execArrive r ph s) :=
  wf_issue (fun x => by simp [h]) h

@[simp] theorem passBar_mem (s : State) (crs : Nat) (fs : List Fence) : (s.passBar crs fs).mem = s.mem := rfl

@[simp] theorem wf_execBwait (s : State) (r : RWord) (h : Memory.wf s.mem = true) : wfNext (execBwait r s) :=
  wf_issue (fun x => by simp [h]) h

@[simp] theorem wf_execBwaitWake (s : State) (crs : Nat) (slot : Nat) (h : Memory.wf s.mem = true) :
    wfNext (execBwaitWake crs slot s) := by
  rw [execBwaitWake]
  split <;> simp [h]

@[simp] theorem wf_clusterBar (s : State) (x : Ctx) (arr : Bool) (wt : Bool) (h : Memory.wf s.mem = true) :
    (s.clusterBar x arr wt).wf := by
  simp [State.clusterBar, h]

@[simp] theorem wf_execClbar (s : State) (hd : Head) (h : Memory.wf s.mem = true) : wfNext (execClbar hd s) :=
  wf_issue (fun x => by simp [h]) h

@[simp] theorem wf_execClbarArr (s : State) (hd : Head) (h : Memory.wf s.mem = true) : wfNext (execClbarArr hd s) :=
  wf_issue (fun x => by simp [h]) h

@[simp] theorem wf_execClbarWait (s : State) (hd : Head) (h : Memory.wf s.mem = true) : wfNext (execClbarWait hd s) :=
  wf_issue (fun x => by simp [h]) h

@[simp] theorem wakeClbar_mem (s : State) (team : Nat) (l : List Nat) : (s.wakeClbar team l).mem = s.mem := by
  induction l generalizing s with
  | nil => rfl
  | cons a l ih =>
    rw [State.wakeClbar, ih]
    dsimp only
    split <;> split <;> simp

@[simp] theorem wf_execClbarPhaseComplete (s : State) (cluster : Nat) (h : Memory.wf s.mem = true) :
    wfNext (execClbarPhaseComplete cluster s) := by
  simp [execClbarPhaseComplete, h]

/-! ### Channels -/

@[simp] theorem onChan_mem (s : State) (team : Nat) (ch : Nat) (f : Chan → Chan) : (s.onChan team ch f).mem = s.mem := rfl

@[simp] theorem pump_mem (s : State) (team : Nat) : (s.pump team).mem = s.mem := by
  rw [State.pump]
  split <;> rfl

@[simp] theorem placePackets_mem (s : State) (team : Nat) (ch : Nat) (qs : List OutPacket) :
    (s.placePackets team ch qs).mem = s.mem :=
  rfl

@[simp] theorem bumpOp_mem (s : State) (team : Nat) : (s.bumpOp team).mem = s.mem := rfl

/-! ### The source of packets -/

@[simp] theorem landAtomg_mem (s : State) (q : OutPacket) (f : AtomElem → Nat × Bool) : (s.landAtomg q f).mem = s.mem := by
  rw [State.landAtomg]
  split <;> simp

@[simp] theorem refuseOne_mem (s : State) (q : OutPacket) : (s.refuseOne q).mem = s.mem := by
  simp only [State.refuseOne]
  (repeat' split) <;> simp

@[simp] theorem refuseUnsent_mem (s : State) (team : Nat) (ch : Nat) : (s.refuseUnsent team ch).mem = s.mem := by
  simp [State.refuseUnsent]

@[simp] theorem breakOne_mem (s : State) (team : Nat) (ch : Nat) (cause : Nat) (addr : Nat) (dest : Option Dest) :
    (s.breakOne team ch cause addr dest).mem = s.mem := by
  simp [State.breakOne]

@[simp] theorem breakChan_mem (n : Nat) (s : State) (team ch cause addr : Nat) (dest : Option Dest) :
    (s.breakChan n team ch cause addr dest).mem = s.mem := by
  induction n generalizing s team ch cause addr dest with
  | zero => simp [State.breakChan]
  | succ n ih => simp [State.breakChan, ih]

@[simp] theorem resetChan_mem (s : State) (team : Nat) (ch : Nat) : (s.resetChan team ch).mem = s.mem := rfl

@[simp] theorem wakeReset_mem (s : State) (crs : Nat) : (s.wakeReset crs).mem = s.mem := by
  refine foldl_mem (fun u j => ?_) _ _
  dsimp only
  split <;> simp

@[simp] theorem afterSettle_mem (s : State) (team : Nat) : (s.afterSettle team).mem = s.mem := by simp [State.afterSettle]

theorem mem_of_takeNet {s : State} {m : NetMsg} {b : Bool} {t : State} (ht : s.takeNet m b = some t) : t.mem = s.mem := by
  rw [State.takeNet] at ht
  split at ht
  · cases ht; rfl
  · split at ht <;> cases ht
    rfl

theorem mem_of_takeBack {s : State} {m : NetMsg} {k : StreamKey} {b : Bool} {t : State} (ht : s.takeBack m k b = some t) :
    t.mem = s.mem := by
  rw [State.takeBack] at ht
  split at ht
  · exact mem_of_takeNet ht
  · cases ht

@[simp] theorem ackStream_mem (s : State) (key : StreamKey) (gen : Nat) (upto : Nat) (olds : List OldValue) :
    (s.ackStream key gen upto olds).mem = s.mem := by
  simp [State.ackStream]

@[simp] theorem wf_execAcknowledgementArrival (s : State) (a : Ack) (h : Memory.wf s.mem = true) :
    wfNext (execAcknowledgementArrival a s) := by
  rw [execAcknowledgementArrival]
  split
  next t ht =>
    have hwf : Memory.wf t.mem = true := mem_of_takeBack ht ▸ h
    split <;> simp [hwf]
  · exact h

@[simp] theorem onRefused_mem (s : State) (r : NetRefusal) (f : OutPacket → List OutPacket) : (s.onRefused r f).mem = s.mem := rfl

@[simp] theorem wf_execRefusalArrival (s : State) (r : NetRefusal) (h : Memory.wf s.mem = true) :
    wfNext (execRefusalArrival r s) :=
  by
  rw [execRefusalArrival]
  split
  · exact h
  · split
    · exact h
    next t ht =>
      have hwf : Memory.wf t.mem = true := mem_of_takeBack ht ▸ h
      split
      · exact hwf
      · split
        · exact hwf
        · split
          · exact hwf
          · split <;> simp [hwf]

@[simp] theorem wf_execOpenRetry (s : State) (key : StreamKey) (h : Memory.wf s.mem = true) : wfNext (execOpenRetry key s) := by
  simp [execOpenRetry, h]

@[simp] theorem closeStream_mem (s : State) (key : StreamKey) : (s.closeStream key).mem = s.mem := rfl

@[simp] theorem wf_execStreamClose (s : State) (key : StreamKey) (h : Memory.wf s.mem = true) :
    wfNext (execStreamClose key s) := by
  simp [execStreamClose, h]

@[simp] theorem sendResync_mem (s : State) (key : StreamKey) (n : Nat) : (s.sendResync key n).mem = s.mem := by
  rw [State.sendResync]
  split <;> rfl

@[simp] theorem startResync_mem (s : State) (key : StreamKey) : (s.startResync key).mem = s.mem := by simp [State.startResync]

@[simp] theorem wf_execResyncTimer (s : State) (key : StreamKey) (h : Memory.wf s.mem = true) :
    wfNext (execResyncTimer key s) := by
  simp [execResyncTimer, h]

@[simp] theorem wf_execResyncAck (s : State) (r : ResyncAck) (h : Memory.wf s.mem = true) : wfNext (execResyncAck r s) := by
  rw [execResyncAck]
  split
  · exact h
  next t ht =>
    have hwf : Memory.wf t.mem = true := mem_of_takeBack ht ▸ h
    dsimp only
    split
    · exact hwf
    · split
      · simp only [wfNext_next, afterSettle_mem, onChan_mem]
        rw [foldl_mem (fun u q => refuseOne_mem ..)]
        simp [hwf]
      · split <;> simp [hwf]

@[simp] theorem wf_execResyncTimeout (s : State) (key : StreamKey) (h : Memory.wf s.mem = true) :
    wfNext (execResyncTimeout key s) := by
  rw [execResyncTimeout]
  split <;> simp [h]

@[simp] theorem wf_execMovedRefusal (s : State) (r : NetRefusal) (h : Memory.wf s.mem = true) :
    wfNext (execMovedRefusal r s) :=
  by
  rw [execMovedRefusal]
  split
  · exact h
  · split
    · exact h
    next t ht =>
      have hwf : Memory.wf t.mem = true := mem_of_takeBack ht ▸ h
      split <;> simp [hwf]

@[simp] theorem forgetMoved_mem (s : State) (qs : List OutPacket) : (s.forgetMoved qs).mem = s.mem := rfl

@[simp] theorem wf_execMovedReissue (s : State) (team ch : Nat) (h : Memory.wf s.mem = true) :
    wfNext (execMovedReissue team ch s) :=
  by
  rw [execMovedReissue]
  dsimp only
  split
  · exact h
  · split
    · simp [h]
    · rw [wfNext_next, afterSettle_mem, foldl_mem (fun u n => onChan_mem ..), foldl_mem (fun u n => onChan_mem ..)]
      simp [h]

@[simp] theorem wf_noRoom (s : State) (team : Nat) (ch : Nat) (ps : List (Dest × Nat)) (vas : List Nat)
    (_h : Memory.wf s.mem = true) :
    (s.noRoom team ch ps vas).wf := by
  simp [State.noRoom]

@[simp] theorem sendOp_mem (s : State) (team : Nat) (ch : Nat) (dest : Dest) (body : PacketBody) (merge : Bool) :
    (s.sendOp team ch dest body merge).mem = s.mem := by
  rw [State.sendOp]
  split <;> rfl

@[simp] theorem mergeShadow_mem (s : State) (team : Nat) (sh : Shadow) : (s.mergeShadow team sh).mem = s.mem := by
  refine (foldl_mem (fun u g => ?_) _ _).trans (onTeam_mem ..)
  cases g <;> simp

@[simp] theorem mergeAll_mem (s : State) (team : Nat) : (s.mergeAll team).mem = s.mem := by simp [State.mergeAll]

@[simp] theorem wf_execShadowMerge (s : State) (team : Nat) (line : Nat) (h : Memory.wf s.mem = true) :
    wfNext (execShadowMerge team line s) := by
  rw [execShadowMerge]
  split <;> simp [h]

@[simp] theorem putShadow_mem (s : State) (team : Nat) (sh : Shadow) : (s.putShadow team sh).mem = s.mem := rfl

theorem mem_of_shadowAdd {s : State} {team : Nat} {ch : Nat} {op : RedgOp} {n : Nat} {va : Nat} {pa : Nat} {dest : Dest}
    {x : Nat} {t : State} (ht : s.shadowAdd team ch op n va pa dest x = some t) :
    t.mem = s.mem := by
  simp only [State.shadowAdd] at ht
  (repeat' split at ht) <;> simp at ht <;> simp [← ht]

/-! ### Words that write main memory -/

@[simp] theorem wf_writeChecks (s : State) (x : Ctx) (i : Instr) (m : MWord) (ntf : Bool) {f : Course → List Item → Res}
    (hf : ∀ c l, (f c l).wf) (h : Memory.wf s.mem = true) : (s.writeChecks x i m ntf f).wf := by
  simp only [State.writeChecks]
  split
  · exact h
  · split
    · trivial
    · split
      · trivial
      · split
        · trivial
        · split
          · trivial
          · exact wf_then _ (hf _ _)

@[simp] theorem release_mem (s : State) (team : Nat) (ch : Nat) : (s.release team ch).mem = s.mem := by simp [State.release]

@[simp] theorem wf_sendWord (s : State) (team ch : Nat) (rel : Bool) (ntf : Option Nat) (groups : List (Dest × List PacketBody))
    {mk : State → OutPacket → State × OutPacket} (hmk : ∀ u q, (mk u q).1.mem = u.mem) (h : Memory.wf s.mem = true) :
    (s.sendWord team ch rel ntf groups mk).wf := by
  have hfold : ∀ (l : List OutPacket) (u : State × List OutPacket),
      (l.foldl (fun (a : State × List OutPacket) q => ((mk a.1 q).1, a.2 ++ [(mk a.1 q).2])) u).1.mem = u.1.mem :=
    foldl_keeps (part := fun u : State × List OutPacket => u.1.mem) (fun u q => hmk u.1 q)
  simp [State.sendWord, hfold, h]

@[simp] theorem wf_execStg (s : State) (m : MWord) (rel : Bool) (ntf : Bool) (h : Memory.wf s.mem = true) :
    wfNext (execStg m rel ntf s) :=
  wf_issue (fun x => by simp [h]) h

@[simp] theorem wf_execAtomg (s : State) (m : MWord) (op : AtomOp) (rel ntf : Bool) (h : Memory.wf s.mem = true) :
    wfNext (execAtomg m op rel ntf s) := by
  refine wf_issue (fun x => wf_writeChecks _ _ _ _ _ (fun c items => ?_) h) h
  refine wf_sendWord _ _ _ _ _ _ (fun u q => ?_) (by simp [h])
  dsimp only
  split <;> simp

@[simp] theorem wf_execRedg (s : State) (m : MWord) (op : RedgOp) (rel : Bool) (ntf : Bool) (h : Memory.wf s.mem = true) :
    wfNext (execRedg m op rel ntf s) :=
  wf_issue (fun x => by simp [h]) h

@[simp] theorem wf_execRedgSh (s : State) (m : MWord) (op : RedgOp) (h : Memory.wf s.mem = true) :
    wfNext (execRedgSh m op s) :=
  by
  refine wf_issue (fun x => wf_writeChecks _ _ _ _ _ (fun c items => ?_) h) h
  dsimp only
  split
  · simp [State.noRoom]
  next t ht =>
    have hmem : t.mem = s.mem := foldl_bind_keeps (P := fun u : State => u.mem = s.mem)
      (fun u i v hu hv => (mem_of_shadowAdd hv).trans hu) _ (fun u hu => by cases hu; simp) ht
    simp [hmem, h]

@[simp] theorem wf_execCjoin (s : State) (r : RWord) (h : Memory.wf s.mem = true) : wfNext (execCjoin r s) :=
  wf_issue (fun x => by dsimp only; (repeat' split) <;> simp [h]) h

@[simp] theorem acquire_mem (s : State) (team : Nat) : (s.acquire team).mem = s.mem := rfl

@[simp] theorem wf_execCdrain (s : State) (r : RWord) (scope : Scope) (sc : Bool) (h : Memory.wf s.mem = true) :
    wfNext (execCdrain r scope sc s) :=
  wf_issue (fun x => by simp [h]) h

@[simp] theorem wf_execCdrainComplete (s : State) (crs : Nat) (slot : Nat) (h : Memory.wf s.mem = true) :
    wfNext (execCdrainComplete crs slot s) := by
  simp only [execCdrainComplete]
  (repeat' split) <;> simp [h]

@[simp] theorem wf_execCreset (s : State) (r : RWord) (h : Memory.wf s.mem = true) : wfNext (execCreset r s) :=
  wf_issue (fun x => by simp [h]) h

@[simp] theorem wf_execCstat (s : State) (r : RWord) (h : Memory.wf s.mem = true) : wfNext (execCstat r s) :=
  wf_issue (fun x => by simp [h]) h

@[simp] theorem wf_execCstatAddr (s : State) (r : RWord) (h : Memory.wf s.mem = true) : wfNext (execCstatAddr r s) :=
  wf_issue (fun x => by simp [h]) h

@[simp] theorem wf_execCstatWhere (s : State) (r : RWord) (h : Memory.wf s.mem = true) : wfNext (execCstatWhere r s) :=
  wf_issue (fun x => by simp [h]) h

@[simp] theorem wf_execEvwait (s : State) (r : RWord) (h : Memory.wf s.mem = true) : wfNext (execEvwait r s) :=
  wf_issue (fun x => by simp [h]) h

@[simp] theorem wf_execEvwaitWake (s : State) (crs : Nat) (slot : Nat) (h : Memory.wf s.mem = true) :
    wfNext (execEvwaitWake crs slot s) := by
  rw [execEvwaitWake]
  split <;> simp [h]

@[simp] theorem wf_execEvwaitRd (s : State) (r : RWord) (h : Memory.wf s.mem = true) : wfNext (execEvwaitRd r s) :=
  wf_issue (fun x => by simp [h]) h

@[simp] theorem wf_execEvadd (s : State) (r : RWord) (h : Memory.wf s.mem = true) : wfNext (execEvadd r s) :=
  wf_issue (fun x => by simp [h]) h

@[simp] theorem wf_execLocq (s : State) (r : RWord) (h : Memory.wf s.mem = true) : wfNext (execLocq r s) :=
  wf_issue (fun x => by simp [h]) h

/-! ### Tickets -/

@[simp] theorem setEntry_mem (s : State) (k : Nat) (e : Entry) : (s.setEntry k e).mem = s.mem := rfl

@[simp] theorem returnTicket_mem (s : State) (team : Nat) : (s.returnTicket team).mem = s.mem := rfl

@[simp] theorem startTld_mem (s : State) (crs : Nat) (pc : Nat) (slot : Nat) (d : Nat) (ch : Nat) (n : Nat) (act : LaneMask)
    (sup : Bool) (items : List Item) :
    (s.startTld crs pc slot d ch n act sup items).mem = s.mem :=
  rfl

@[simp] theorem wf_execTld (s : State) (m : MWord) (nb : Bool) (h : Memory.wf s.mem = true) : wfNext (execTld m nb s) :=
  wf_issue (fun x => by dsimp only; (repeat' split) <;> simp [h]) h

@[simp] theorem wf_execTldQuotaResume (s : State) (crs : Nat) (slot : Nat) (h : Memory.wf s.mem = true) :
    wfNext (execTldQuotaResume crs slot s) := by
  simp only [execTldQuotaResume]
  (repeat' split) <;> simp [h]

@[simp] theorem holdFar_mem (s : State) (f : FarLine) : (s.holdFar f).mem = s.mem := rfl

@[simp] theorem trimFar_mem (s : State) : (s.trimFar).mem = s.mem := rfl

@[simp] theorem refillFrom_mem (s : State) (x : ReadReturn) : (s.refillFrom x).mem = s.mem := by
  rw [State.refillFrom]
  split <;> simp

@[simp] theorem wf_execTicketAllocate (s : State) (req : Nat) (entry : Nat) (h : Memory.wf s.mem = true) :
    wfNext (execTicketAllocate req entry s) := by
  rw [execTicketAllocate]
  split <;> simp [h]

@[simp] theorem wf_execAllocationRetry (s : State) (req : Nat) (h : Memory.wf s.mem = true) :
    wfNext (execAllocationRetry req s) := by
  rw [execAllocationRetry]
  split <;> simp [h]

@[simp] theorem wf_execTicketBytesLand (s : State) (x : ReadReturn) (h : Memory.wf s.mem = true) :
    wfNext (execTicketBytesLand x s) :=
  by
  rw [execTicketBytesLand]
  split
  · exact h
  · split
    · exact h
    next t ht =>
      have hwf : Memory.wf t.mem = true := mem_of_takeBack ht ▸ h
      dsimp only
      split <;> simp [hwf]

@[simp] theorem askSlice_mem (s : State) (q : SliceReq) : (s.askSlice q).mem = s.mem := rfl

@[simp] theorem wf_execRedeem (s : State) (r : RWord) (w : RedeemWidth) (h : Memory.wf s.mem = true) :
    wfNext (execRedeem r w s) :=
  wf_issue (fun x => by dsimp only; split <;> simp [h]) h

@[simp] theorem wf_execRedeemSh (s : State) (r : RWord) (h : Memory.wf s.mem = true) : wfNext (execRedeemSh r s) :=
  wf_issue (fun x => by dsimp only; split <;> simp [h]) h

@[simp] theorem wf_execRedeemAtSlice (s : State) (req : Nat) (h : Memory.wf s.mem = true) : wfNext (execRedeemAtSlice req s) := by
  simp only [execRedeemAtSlice]
  (repeat' split) <;> simp [h]

@[simp] theorem wf_execRedeemDelivery (s : State) (entry : Nat) (h : Memory.wf s.mem = true) :
    wfNext (execRedeemDelivery entry s) :=
  by
  have hput : ∀ (t : State) (e : Entry) ofs made sp, Memory.wf t.mem = true →
      Memory.wf (t.setSpace sp (e.writePart (t.spaceBlock sp) ofs made)).mem = true := fun t e ofs made sp ht =>
    wf_setSpace_spaceBlock (f := fun b => e.writePart b ofs made) (fun b hb => wf_blockWrite _ _ _ _ hb) _ ht
  rw [execRedeemDelivery]
  dsimp only
  split
  · exact h
  · split
    · simp [h]
    · split
      · exact h
      · split
        · exact hput _ _ _ _ _ (by simp [h])
        · exact hput _ _ _ _ _ (by simp [h])
    · simp [h]

@[simp] theorem wf_execRedeemRefusal (s : State) (req : Nat) (h : Memory.wf s.mem = true) : wfNext (execRedeemRefusal req s) := by
  simp only [execRedeemRefusal]
  (repeat' split) <;> simp [h]

@[simp] theorem wf_execTdrop (s : State) (r : RWord) (h : Memory.wf s.mem = true) : wfNext (execTdrop r s) :=
  wf_issue (fun x => by simp [h]) h

@[simp] theorem wf_execTdropAtSlice (s : State) (req : Nat) (h : Memory.wf s.mem = true) : wfNext (execTdropAtSlice req s) := by
  rw [execTdropAtSlice]
  split <;> simp [h]

@[simp] theorem wf_execTqry (s : State) (r : RWord) (h : Memory.wf s.mem = true) : wfNext (execTqry r s) :=
  wf_issue (fun x => by simp [h]) h

@[simp] theorem wf_execTqryLive (s : State) (r : RWord) (h : Memory.wf s.mem = true) : wfNext (execTqryLive r s) :=
  wf_issue (fun x => by simp [h]) h

@[simp] theorem wf_execTicketExpiry (s : State) (entry : Nat) (h : Memory.wf s.mem = true) :
    wfNext (execTicketExpiry entry s) := by
  simp [execTicketExpiry, h]

/-! ### Packets at their destination -/

@[simp] theorem inboundRecord_mem (s : State) (p : Packet) (cause : Nat) (addr : Nat) :
    (s.inboundRecord p cause addr).mem = s.mem := by
  simp [State.inboundRecord]

@[simp] theorem notify_mem (s : State) (p : Packet) : (s.notify p).mem = s.mem := by
  rw [State.notify]
  split <;> simp

@[simp] theorem wf_applyAtom (s : State) (op : AtomOp) (n : Nat) (e : AtomElem) (h : Memory.wf s.mem = true) :
    Memory.wf (s.applyAtom op n e).1.mem = true := by
  simp only [State.applyAtom]
  (repeat' split) <;> simp [wf_memWrite, h]

@[simp] theorem wf_applyPacket (s : State) (p : Packet) (h : Memory.wf s.mem = true) :
    Memory.wf (s.applyPacket p).1.mem = true :=
  by
  rw [State.applyPacket]
  split
  · exact wf_foldl (fun u e hu => by simp [wf_memWrite, hu]) _ s h
  · exact wf_foldl_fst (fun u e hu => by simp [hu]) _ (s, []) h
  · exact wf_foldl (fun u e hu => by simp [hu]) _ s h
  · exact wf_foldl (fun u e hu => (serveRead_mem u p _ e).symm ▸ hu) _ s h
  · exact h

@[simp] theorem setIngress_mem (s : State) (g : Ingress) : (s.setIngress g).mem = s.mem := rfl

@[simp] theorem refusePacket_mem (s : State) (p : Packet) (cause : Nat) (addr : Nat) (moved : Bool) (retry : Bool) :
    (s.refusePacket p cause addr moved retry).mem = s.mem :=
  rfl

@[simp] theorem sendAck_mem (s : State) (g : Ingress) : (s.sendAck g).mem = s.mem := rfl

@[simp] theorem stopStream_mem (s : State) (g : Ingress) (p : Packet) (cause record addr : Nat) :
    (s.stopStream g p cause record addr).mem = s.mem := by
  simp only [State.stopStream, setIngress_mem]
  rw [foldl_mem (fun u q => refusePacket_mem ..)]
  simp

@[simp] theorem moveStream_mem (s : State) (g : Ingress) (p : Packet) : (s.moveStream g p).mem = s.mem := by
  simp only [State.moveStream, count_mem, setIngress_mem]
  exact foldl_mem (fun u q => refusePacket_mem ..) _ _

@[simp] theorem wf_ingest (n : Nat) (judged : Bool) (s : State) (g : Ingress) (p : Packet) (h : Memory.wf s.mem = true) :
    Memory.wf (s.ingest n judged g p).mem = true := by
  induction n generalizing judged s g p with
  | zero =>
    rw [State.ingest]
    generalize (if judged = true then Verdict.apply else s.verdict p) = v
    cases v with
    | refuse cause record addr => simp [h]
    | moved => simp [h]
    | apply =>
      dsimp only
      split <;> simp [h]
  | succ n ih =>
    rw [State.ingest]
    generalize (if judged = true then Verdict.apply else s.verdict p) = v
    cases v with
    | refuse cause record addr => simp [h]
    | moved => simp [h]
    | apply =>
      dsimp -zeta only
      extract_lets k b r g' src t
      have hwf : Memory.wf t.mem = true := by simp [t, r, h]
      split
      · simp [r, h]
      · clear_value t
        split
        next heq _ =>
          obtain rfl := Nat.succ.inj heq
          exact ih _ _ _ _ hwf
        · exact hwf

@[simp] theorem holdEarly_mem (s : State) (g : Ingress) (p : Packet) : (s.holdEarly g p).mem = s.mem := by
  rw [State.holdEarly]
  split <;> rfl

@[simp] theorem wf_admitPacket (s : State) (g : Ingress) (p : Packet) (h : Memory.wf s.mem = true) :
    Memory.wf (s.admitPacket g p).mem = true := by
  rw [State.admitPacket]
  split
  · exact h
  · dsimp only
    split
    · simp [h]
    · split
      · simp [h]
      · split
        · simp [h]
        · split
          · split
            · simp [h]
            · exact wf_ingest _ _ _ _ _ h
          · split <;> simp [h]

@[simp] theorem wf_openWith (s : State) (p : Packet) (h : Memory.wf s.mem = true) : Memory.wf (s.openWith p).mem = true := by
  simp [State.openWith, h]

@[simp] theorem wf_arrive (s : State) (p : Packet) (h : Memory.wf s.mem = true) : Memory.wf (s.arrive p).mem = true := by
  rw [State.arrive]
  split
  · split
    · exact wf_admitPacket _ _ _ h
    · split <;> simp [h]
  · simp [h]

@[simp] theorem wf_execPacketArrival (s : State) (p : Packet) (h : Memory.wf s.mem = true) : wfNext (execPacketArrival p s) := by
  have harrive : wfNext (.next ((s.takeNet (.packet p) (p.key.chip != s.chip)).elim s (fun s => s.arrive p))) :=
    wf_elim (fun t ht => wf_arrive _ _ (mem_of_takeNet ht ▸ h)) h
  rw [execPacketArrival]
  split
  · exact h
  · split
    · split
      · exact wf_ingest _ _ _ _ _ h
      · exact harrive
    · exact harrive

@[simp] theorem wf_resume (s : State) (g : Ingress) (h : Memory.wf s.mem = true) : Memory.wf (s.resume g).mem = true := by
  rw [State.resume]
  split
  · exact wf_ingest _ _ _ _ _ h
  · exact h

@[simp] theorem wf_execStreamReset (s : State) (p : Packet) (h : Memory.wf s.mem = true) : wfNext (execStreamReset p s) := by
  rw [execStreamReset]
  split
  · exact h
  · split
    · exact h
    next t ht =>
      have hwf : Memory.wf t.mem = true := mem_of_takeNet ht ▸ h
      dsimp only
      split
      · exact hwf
      · exact wf_resume _ _ hwf

@[simp] theorem wf_execCloseArrival (s : State) (p : Packet) (h : Memory.wf s.mem = true) : wfNext (execCloseArrival p s) := by
  rw [execCloseArrival]
  split
  · exact h
  · split
    · exact h
    next t ht =>
      have hwf : Memory.wf t.mem = true := mem_of_takeNet ht ▸ h
      split
      · exact hwf
      · split
        · exact hwf
        · dsimp only
          split <;> simp [hwf]

@[simp] theorem wf_execResync (s : State) (p : Packet) (h : Memory.wf s.mem = true) : wfNext (execResync p s) := by
  rw [execResync]
  split
  · split
    · exact h
    · split
      · exact h
      next t ht =>
        have hwf : Memory.wf t.mem = true := mem_of_takeNet ht ▸ h
        dsimp only
        split
        · exact hwf
        · split
          · exact hwf
          · simp [hwf]
  · exact h

@[simp] theorem wf_execDestinationAccessTimeout (s : State) (p : Packet) (h : Memory.wf s.mem = true) :
    wfNext (execDestinationAccessTimeout p s) := by
  unfold execDestinationAccessTimeout
  extract_lets g
  clear_value g
  split
  · exact h
  · exact wf_elim (fun t ht => by simp [mem_of_takeNet ht, h]) h

@[simp] theorem wf_execHostRegionAccessCompletion (s : State) (p : Packet) (accepted : Bool) (h : Memory.wf s.mem = true) :
    wfNext (execHostRegionAccessCompletion p accepted s) := by
  unfold execHostRegionAccessCompletion
  extract_lets g
  clear_value g
  split
  · exact h
  · split
    · exact h
    next t ht =>
      have hwf : Memory.wf t.mem = true := mem_of_takeNet ht ▸ h
      dsimp only
      split
      · simp [hwf]
      · split
        · simp [hwf]
        · split
          · simp [hwf]
          · split <;> simp [hwf]

/-! ### Transfer operations -/

@[simp] theorem startCopy_mem (s : State) (x : Ctx) (id : Nat) (k : Copy) (ts : List OpTraffic) :
    (s.startCopy x id k ts).mem = s.mem := by
  simp [State.startCopy]

@[simp] theorem wf_execCpy (s : State) (r : RWord) (dir : CpyDir) (size : CpySize) (bar : Bool) (h : Memory.wf s.mem = true) :
    wfNext (execCpy r dir size bar s) :=
  wf_issue (fun x => by dsimp only; (repeat' split) <;> simp [h]) h

@[simp] theorem wf_execTcpy (s : State) (r : RWord) (sat : Bool) (rnd : Rnd4) (bar xs st : Bool) (h : Memory.wf s.mem = true) :
    wfNext (execTcpy r sat rnd bar xs st s) := by
  delta execTcpy
  apply wf_issue
  · intro x
    extract_lets (config := {onlyGivenNames := true}) c ctx ch b d lr
    clear_value d
    split
    · exact h
    · generalize s.copyChecks x ch b = failed
      cases failed with
      | some t => exact Res.wf_trap _
      | none =>
        generalize d.badField = bad
        cases bad with
        | some k => exact Res.wf_trap _
        | none =>
          dsimp -zeta only
          split
          · exact Res.wf_trap _
          · generalize d.outside (if xs = true then lr.scratch else lr.shared) x = out
            cases out with
            | some t => exact Res.wf_trap _
            | none =>
              apply wf_then
              extract_lets (config := {onlyGivenNames := true}) s1 id ops item ts dests
              clear_value ts dests
              split
              · exact Res.wf_held ..
              · split
                · exact wf_noRoom _ _ _ _ _ h
                · rw [Res.wf_go, startCopy_mem, tlbFill_mem]
                  exact h
  · exact h

@[simp] theorem wf_cpyPart (s : State) (id : Nat) (cp : Copy) (data : List ReadReturn) (l : CopyLane) (h : Memory.wf s.mem = true) :
    Memory.wf (s.cpyPart id cp data l).1.mem = true := by
  rw [State.cpyPart]
  split
  next sp a _ =>
    exact wf_setSpace_spaceBlock (f := fun b => b.put2 a (s.laneSource id cp data l).1)
      (fun b hb => wf_blockWrite _ _ _ _ hb) sp h
  · exact h

@[simp] theorem wf_tcpyPart (s : State) (cp : Copy) (d : TcpyDesc) (o : XferOp) (data : List ReadReturn) (e : Nat)
    (h : Memory.wf s.mem = true) : Memory.wf (s.tcpyPart cp d o data e).1.mem = true := by
  rw [State.tcpyPart]
  split
  · exact h
  · exact wf_setSpace_spaceBlock (fun b hb => wf_putRow _ _ _ _ b hb) _ h

@[simp] theorem wf_performPart (s : State) (id : Nat) (cp : Copy) (o : XferOp) (data : List ReadReturn) (h : Memory.wf s.mem = true) :
    Memory.wf (s.performPart id cp o data).1.mem = true := by
  rw [State.performPart]
  split
  · exact h
  · dsimp only
    split
    · exact wf_tcpyPart _ _ _ _ _ _ h
    · exact wf_foldl_fst (fun u l hu => wf_cpyPart _ _ _ _ _ hu) _ _ h

theorem mem_of_takeData {s : State} {l : List ReadReturn} {t : State} (ht : s.takeData l = some t) : t.mem = s.mem := by
  induction l generalizing s with
  | nil => cases ht; rfl
  | cons x l ih =>
    rw [State.takeData] at ht
    split at ht
    next hx => exact (ih ht).trans (mem_of_takeBack hx)
    · cases ht

@[simp] theorem beginXfer_mem (s : State) (team : Nat) (copy : Nat) (op : Nat) (cp : Copy) (data : List ReadReturn) :
    (s.beginXfer team copy op cp data).mem = s.mem := by
  simp [State.beginXfer]

@[simp] theorem wf_stepXfer (s : State) (team copy op : Nat) (cp : Copy) (o : XferOp) (data : List ReadReturn)
    (h : Memory.wf s.mem = true) : Memory.wf (s.stepXfer team copy op cp o data).mem = true := by
  simp [State.stepXfer, h]

@[simp] theorem wf_execTransferOperation (s : State) (copy op : Nat) (data : List ReadReturn) (h : Memory.wf s.mem = true) :
    wfNext (execTransferOperation copy op data s) := by
  rw [execTransferOperation]
  split
  · exact h
  · dsimp only
    split
    · exact h
    · split
      · exact h
      · split
        · exact h
        · split
          · exact wf_stepXfer _ _ _ _ _ _ _ h
          · split
            · exact h
            · exact wf_elim (fun t ht => wf_stepXfer _ _ _ _ _ _ _ (by simp [mem_of_takeData ht, h])) h

@[simp] theorem heldTrap_mem (s : State) (crs : Nat) (slot : Nat) (pc : Nat) (act : LaneMask) (fl : Word) :
    (s.heldTrap crs slot pc act fl).mem = s.mem := by
  simp [State.heldTrap]

@[simp] theorem wf_execCopyComplete (s : State) (copy : Nat) (h : Memory.wf s.mem = true) : wfNext (execCopyComplete copy s) := by
  simp only [execCopyComplete]
  (repeat' split) <;> simp [h]

@[simp] theorem wf_execWaitc (s : State) (r : RWord) (path : EnginePath) (h : Memory.wf s.mem = true) :
    wfNext (execWaitc r path s) :=
  wf_issue (fun x => by simp [h]) h

@[simp] theorem wf_execWaitcComplete (s : State) (crs : Nat) (slot : Nat) (h : Memory.wf s.mem = true) :
    wfNext (execWaitcComplete crs slot s) := by
  rw [execWaitcComplete]
  split <;> simp [h]

@[simp] theorem wf_execEngineOpRetire (s : State) (crs : Nat) (path : EnginePath) (h : Memory.wf s.mem = true) :
    wfNext (execEngineOpRetire crs path s) :=
  h

/-! ### The matrix unit -/

@[simp] theorem enqueue_mem (s : State) (x : Ctx) (works : List MatWork) (may : Word) (joins : Bool) (after : Nat) :
    (s.enqueue x works may joins after).mem = s.mem :=
  rfl

@[simp] theorem wf_matrixWord (s : State) (x : Ctx) (r : RWord) (fa : MatFmt) (fb : MatFmt) (z : Bool) (scale : Option Nat)
    (h : Memory.wf s.mem = true) :
    (s.matrixWord x r fa fb z scale).wf := by
  simp only [State.matrixWord]
  (repeat' split) <;> simp [h]

@[simp] theorem wf_execMma (s : State) (r : RWord) (fa : MatFmt) (fb : MatFmt) (z : Bool) (h : Memory.wf s.mem = true) :
    wfNext (execMma r fa fb z s) :=
  wf_issue (fun x => by simp [h]) h

@[simp] theorem wf_execMmas (s : State) (r : RWord) (fa : MatFmt) (fb : MatFmt) (z : Bool) (h : Memory.wf s.mem = true) :
    wfNext (execMmas r fa fb z s) :=
  wf_issue (fun x => by simp [h]) h

@[simp] theorem setQueue_mem (s : State) (core : Nat) (bay : Nat) (q : List MatEntry) : (s.setQueue core bay q).mem = s.mem := rfl

@[simp] theorem quarterDone_mem (s : State) (core : Nat) (bay : Nat) (e : MatEntry) (rest : List MatEntry) (fl : Word) :
    (s.quarterDone core bay e rest fl).mem = s.mem := by
  simp [State.quarterDone]

@[simp] theorem wf_execQuarterStep (s : State) (core : Nat) (bay : Nat) (h : Memory.wf s.mem = true) :
    wfNext (execQuarterStep core bay s) := by
  simp only [execQuarterStep]
  (repeat' split) <;> simp [h]

@[simp] theorem readTile_mem (s : State) (crs : Nat) (pid : Nat) (tile : Nat) (d : Nat) (sup : Bool) (act : LaneMask) :
    (s.readTile crs pid tile d sup act).mem = s.mem :=
  rfl

@[simp] theorem moveElem_mem (s : State) (core : Nat) (bay : Nat) (e : MatEntry) (rest : List MatEntry) (left : List Nat)
    (f : Nat → Team → Team) (work : List Nat → MatWork) :
    (s.moveElem core bay e rest left f work).mem = s.mem := by
  simp only [State.moveElem]
  (repeat' split) <;> simp

@[simp] theorem wf_execAccumulatorEntry (s : State) (core : Nat) (bay : Nat) (h : Memory.wf s.mem = true) :
    wfNext (execAccumulatorEntry core bay s) := by
  simp only [execAccumulatorEntry]
  (repeat' split) <;> simp [h]

@[simp] theorem wf_execAccz (s : State) (r : RWord) (h : Memory.wf s.mem = true) : wfNext (execAccz r s) :=
  wf_issue (fun x => by simp [h]) h

@[simp] theorem wf_tileWord (s : State) (x : Ctx) (m : MWord) (kind : Nat) (h : Memory.wf s.mem = true) :
    (s.tileWord x m kind).wf := by
  simp [State.tileWord, h]

@[simp] theorem wf_execAccld (s : State) (m : MWord) (h : Memory.wf s.mem = true) : wfNext (execAccld m s) :=
  wf_issue (fun x => by simp [h]) h

@[simp] theorem wf_execAccst (s : State) (m : MWord) (h : Memory.wf s.mem = true) : wfNext (execAccst m s) :=
  wf_issue (fun x => by simp [h]) h

@[simp] theorem wf_execAccrd (s : State) (r : RWord) (h : Memory.wf s.mem = true) : wfNext (execAccrd r s) :=
  wf_issue (fun x => by simp [h]) h

@[simp] theorem wf_execMbatch (s : State) (hd : Head) (h : Memory.wf s.mem = true) : wfNext (execMbatch hd s) :=
  wf_issue (fun x => by simp [h]) h

/-! ### Collectives -/

@[simp] theorem wf_execCsig (s : State) (r : RWord) (h : Memory.wf s.mem = true) : wfNext (execCsig r s) :=
  wf_issue (fun x => by simp [h]) h

@[simp] theorem startColl_mem (s : State) (x : Ctx) (c : Course) (r : RWord) (mode : CollMode) :
    (s.startColl x c r mode).mem = s.mem := by
  unfold State.startColl
  extract_lets ctx lane s1 k vas s2 s3 s4
  have h1 : s1.mem = s.mem := by
    cases mode with
    | put => rfl
    | get => rfl
    | ar ty op g sg =>
      dsimp only [s1]
      split <;> rfl
  clear_value vas k lane s1
  have h2 : s2.mem = s1.mem := tlbFill_mem ..
  have h4 : s4.mem = s2.mem := (onCourse_mem ..).trans (addPend_mem ..)
  exact h4.trans (h2.trans h1)

@[simp] theorem wf_collIssue (s : State) (x : Ctx) (r : RWord) (mode : CollMode) (h : Memory.wf s.mem = true) :
    (s.collIssue x r mode).wf := by
  simp [State.collIssue, h]

@[simp] theorem wf_execCollPut (s : State) (r : RWord) (ntf : Bool) (h : Memory.wf s.mem = true) :
    wfNext (execCollPut r ntf s) :=
  wf_issue (fun x => by simp [h]) h

@[simp] theorem wf_execCollGet (s : State) (r : RWord) (h : Memory.wf s.mem = true) : wfNext (execCollGet r s) :=
  wf_issue (fun x => by simp [h]) h

@[simp] theorem wf_execCollAr (s : State) (r : RWord) (ty : CollType) (op : CollOp) (h : Memory.wf s.mem = true) :
    wfNext (execCollAr r ty op s) :=
  wf_issue (fun x => by dsimp only; (repeat' split) <;> simp [h]) h

theorem mem_of_ownPlace {s : State} {ctx va : Nat} {read : Bool} {t : State} (ht : s.ownPlace ctx va read = .error t) :
    t.mem = s.mem := by
  rw [State.ownPlace] at ht
  dsimp only at ht
  split at ht
  · split at ht
    · cases ht; simp
    · split at ht
      · cases ht; simp
      · split at ht <;> cases ht
        simp
  · cases ht; simp

@[simp] theorem wf_putAt (s : State) (ctx : Nat) (place : Dest × Nat) (x : List Byte × List Nat) (h : Memory.wf s.mem = true) :
    Memory.wf (s.putAt ctx place x).mem = true := by
  simp [State.putAt, wf_memWrite, h]

theorem mem_of_takeAt {s : State} {ctx : Nat} {hh : Dest × Nat} {n : Nat} {inp : CollInput} {t : State × _}
    (ht : s.takeAt ctx hh n inp = some t) :
    t.1.mem = s.mem := by
  simp only [State.takeAt] at ht
  (repeat' split at ht) <;> simp at ht <;> simp [← ht]

@[simp] theorem onCollLane_mem (s : State) (id : Nat) (lane : Nat) (f : CollLane → CollLane) :
    (s.onCollLane id lane f).mem = s.mem := by
  rw [State.onCollLane]
  split <;> rfl

@[simp] theorem collFail_mem (s : State) (id : Nat) (cause : Nat) : (s.collFail id cause).mem = s.mem := by
  rw [State.collFail]
  split <;> rfl

@[simp] theorem wf_deliverPut (s : State) (w : CollPut) (h : Memory.wf s.mem = true) :
    Memory.wf (s.deliverPut w).1.mem = true := by
  simp only [State.deliverPut]
  (repeat' split) <;> simp [wf_memWrite, h]

@[simp] theorem serveGet_mem (s : State) (w : CollGet) : (s.serveGet w).1.mem = s.mem := by
  simp only [State.serveGet]
  (repeat' split) <;> simp

@[simp] theorem wf_putWork (s : State) (id : Nat) (k : Coll) (l : CollLane) (ntf : Option Nat) (inp : CollInput)
    (h : Memory.wf s.mem = true) : Memory.wf (s.putWork id k l ntf inp).mem = true := by
  rw [State.putWork]
  dsimp only
  split
  · simp [h]
  · split
    · simp [h]
    · split
      · exact h
      · split
        next ht => simp [mem_of_ownPlace ht, h]
        · split
          · exact h
          next hy =>
            have hwf := (mem_of_takeAt hy).symm ▸ h
            split
            · split <;> simp [hwf]
            · simp [hwf]

@[simp] theorem wf_getWork (s : State) (id : Nat) (k : Coll) (l : CollLane) (inp : CollInput) (h : Memory.wf s.mem = true) :
    Memory.wf (s.getWork id k l inp).mem = true := by
  have hwrite : ∀ (t : State) (x : List Byte × List Nat), Memory.wf t.mem = true →
      Memory.wf (match t.ownPlace k.ctx l.localVa false with
        | .error s => s.onCollLane id l.lane (fun m => { m with cause := 3 })
        | .ok hm => (t.putAt k.ctx hm x).onCollLane id l.lane (fun m => { m with done := true }) : State).mem = true := by
    intro t x ht
    split
    next hu => simp [mem_of_ownPlace hu, ht]
    · simp [ht]
  rw [State.getWork]
  dsimp only
  split
  · split
    next ht => simp [mem_of_ownPlace ht, h]
    · exact wf_elim (fun y hy => hwrite _ _ ((mem_of_takeAt hy).symm ▸ h)) h
  · split
    · simp [h]
    · split
      · simp [h]
      · split
        · simp [h]
        · split
          · exact h
          · exact hwrite _ _ h

/-- What looking up the members' own chunks leaves of main memory, whether it fails or not. -/
def ChunksMem (s : State) : Except State (Option (State × List (Nat × List Byte × List Nat))) → Prop
  | .error t => t.mem = s.mem
  | .ok (some y) => y.1.mem = s.mem
  | .ok none => True

theorem chunksMem_ownChunks (s : State) (k : Coll) (me : Nat) (inp : CollInput) : ChunksMem s (s.ownChunks k me inp) := by
  refine List.foldlRecOn _ _ (motive := ChunksMem s) rfl (fun r hr l _ => ?_)
  split
  next u xs =>
    split
    next ht => exact (mem_of_ownPlace ht).trans hr
    next hm =>
      dsimp only
      generalize ho : State.takeAt _ _ _ _ _ = o
      cases o with
      | none => trivial
      | some y => exact (mem_of_takeAt ho).trans hr
  · exact hr

@[simp] theorem wf_arWork (s : State) (id : Nat) (k : Coll) (l : CollLane) (ty : CollType) (op : CollOp) (g : Nat) (inp : CollInput)
    (h : Memory.wf s.mem = true) : Memory.wf (s.arWork id k l ty op g inp).mem = true := by
  rw [State.arWork]
  split
  · split
    · simp [h]
    · split
      next ht => simp [mem_of_ownPlace ht, h]
      · simp [h]
  · split
    · simp [h]
    next gr _ =>
      have hchunks := chunksMem_ownChunks s k (gr.rankOf s.chip) inp
      dsimp only
      split
      · simp [h]
      · split
        · exact h
        · split
          · simp [h]
          · split
            next ht =>
              rw [ht] at hchunks
              simp only [ChunksMem] at hchunks
              simp [hchunks, h]
            · exact h
            next ht =>
              rw [ht] at hchunks
              simp only [ChunksMem] at hchunks
              simp [hchunks, h]

@[simp] theorem wf_execCollWork (s : State) (id : Nat) (lane : Nat) (inp : CollInput) (h : Memory.wf s.mem = true) :
    wfNext (execCollWork id lane inp s) := by
  simp only [execCollWork]
  (repeat' split) <;> simp [h]

@[simp] theorem landUnif_mem (s : State) (crs : Nat) (pid : Nat) (w : Nat) (v : Nat) : (s.landUnif crs pid w v).mem = s.mem := by
  rw [State.landUnif]
  split <;> simp

@[simp] theorem wf_execCollComplete (s : State) (id : Nat) (h : Memory.wf s.mem = true) : wfNext (execCollComplete id s) := by
  rw [execCollComplete]
  split <;> simp [h]

@[simp] theorem wf_execCollTimeout (s : State) (id : Nat) (h : Memory.wf s.mem = true) : wfNext (execCollTimeout id s) := by
  simp only [execCollTimeout]
  (repeat' split) <;> simp [h]

@[simp] theorem rebuildTree_mem (s : State) (ctx : Nat) (n : Nat) (g : Group) : (s.rebuildTree ctx n g).mem = s.mem := rfl

/-! ### Exchange -/

@[simp] theorem wf_execXsend (s : State) (r : RWord) (h : Memory.wf s.mem = true) : wfNext (execXsend r s) :=
  wf_issue (fun x => by simp [h]) h

@[simp] theorem tokenResult_mem (s : State) (t : Token) (slot : Nat) (stat : Nat) : (s.tokenResult t slot stat).mem = s.mem := by
  simp only [State.tokenResult]
  (repeat' split) <;> simp

@[simp] theorem redirect_mem (s : State) (t : Token) (sec : Nat × Nat) : (s.redirect t sec).mem = s.mem := by
  simp [State.redirect]

@[simp] theorem tokenBytes_mem (s : State) (ctx : Nat) (t : Token) : (s.tokenBytes ctx t).1.mem = s.mem := by
  refine foldl_keeps (part := fun u : State × List Byte × List Nat => u.1.mem) (fun u p => ?_) _ _
  dsimp only
  split
  · split <;> simp
  · rfl

@[simp] theorem routeToken_mem (s : State) (t : Token) : (s.routeToken t).mem = s.mem := by
  simp only [State.routeToken]
  (repeat' split) <;> simp

theorem wf_of_windowWrite_error {s : State} {ctx va : Nat} {x : List Byte × List Nat} {t : State}
    (ht : s.windowWrite ctx va x = .error t) (h : Memory.wf s.mem = true) : Memory.wf t.mem = true := by
  rw [State.windowWrite] at ht
  split at ht
  next e he =>
    cases ht
    obtain ⟨i, -, hi⟩ := List.exists_of_findSome?_eq_some he
    split at hi
    next hp => cases hi; exact mem_of_ownPlace hp ▸ h
    · cases hi
  · cases ht

theorem wf_of_windowWrite {s : State} {ctx va : Nat} {x : List Byte × List Nat} {t : State} (ht : s.windowWrite ctx va x = .ok t)
    (h : Memory.wf s.mem = true) : Memory.wf t.mem = true := by
  rw [State.windowWrite] at ht
  split at ht
  · cases ht
  · cases ht
    refine wf_foldl (fun u i hu => ?_) _ _ h
    split
    · simp [hu]
    next hp => exact mem_of_ownPlace hp ▸ hu

@[simp] theorem windowNotify_mem (s : State) (ctx : Nat) (t : Token) (w : Window) : (s.windowNotify ctx t w).mem = s.mem := by
  simp only [State.windowNotify]
  (repeat' split) <;> simp

@[simp] theorem wf_placeToken (s : State) (t : Token) (win : Nat) (h : Memory.wf s.mem = true) :
    Memory.wf (s.placeToken t win).mem = true :=
  by
  rw [State.placeToken]
  dsimp only
  split
  · simp [h]
  · split
    · simp [h]
    · split
      · simp [h]
      · split
        · split <;> simp [h]
        · split
          next he => simp [wf_of_windowWrite_error he h]
          next hw => simp [wf_of_windowWrite hw h]

@[simp] theorem wf_execTokenArrival (s : State) (t : Token) (h : Memory.wf s.mem = true) : wfNext (execTokenArrival t s) := by
  simp only [execTokenArrival]
  (repeat' split) <;> simp [h]

@[simp] theorem wf_execXsendStatus (s : State) (id : Nat) (far : List TokenDone) (h : Memory.wf s.mem = true) :
    wfNext (execXsendStatus id far s) := by
  simp only [execXsendStatus]
  (repeat' split) <;> simp [h]

@[simp] theorem wf_windowWord (s : State) (x : Ctx) (r : RWord) (w : Nat) (act : WindowAct) (h : Memory.wf s.mem = true) :
    (s.windowWord x r w act).wf := by
  simp [State.windowWord, h]

@[simp] theorem wf_execXrecv (s : State) (r : RWord) (h : Memory.wf s.mem = true) : wfNext (execXrecv r s) :=
  wf_issue (fun x => by simp [h]) h

@[simp] theorem wf_execXrecvFree (s : State) (r : RWord) (h : Memory.wf s.mem = true) : wfNext (execXrecvFree r s) :=
  wf_issue (fun x => by simp [h]) h

@[simp] theorem wf_execXrecvCfg (s : State) (r : RWord) (h : Memory.wf s.mem = true) : wfNext (execXrecvCfg r s) :=
  wf_issue (fun x => by simp [h]) h

@[simp] theorem wf_execXrecvStat (s : State) (r : RWord) (h : Memory.wf s.mem = true) : wfNext (execXrecvStat r s) :=
  wf_issue (fun x => by simp [h]) h

@[simp] theorem windowAct_mem (s : State) (ctx : Nat) (w : Nat) (act : WindowAct) : (s.windowAct ctx w act).1.mem = s.mem := by
  simp only [State.windowAct]
  (repeat' split) <;> simp

@[simp] theorem setDbar_mem (s : State) (ctx : Nat) (b : Nat) (d : DBar) : (s.setDbar ctx b d).mem = s.mem := rfl

@[simp] theorem wf_execDbarArr (s : State) (r : RWord) (h : Memory.wf s.mem = true) : wfNext (execDbarArr r s) :=
  wf_issue (fun x => by dsimp only; (repeat' split) <;> simp [h]) h

@[simp] theorem wf_execDbarArrivalCounted (s : State) (id : Nat) (h : Memory.wf s.mem = true) :
    wfNext (execDbarArrivalCounted id s) := by
  simp only [execDbarArrivalCounted]
  (repeat' split) <;> simp [h]

@[simp] theorem wf_execDbarWait (s : State) (r : RWord) (h : Memory.wf s.mem = true) : wfNext (execDbarWait r s) :=
  wf_issue (fun x => by dsimp only; (repeat' split) <;> simp [h]) h

@[simp] theorem wakeDbar_mem (s : State) (crs : Nat) (j : Nat) : (s.wakeDbar crs j).mem = s.mem := by
  simp only [State.wakeDbar]
  (repeat' split) <;> simp

@[simp] theorem wf_execDbarPhaseComplete (s : State) (ctx : Nat) (b : Nat) (arrived : List Nat) (h : Memory.wf s.mem = true) :
    wfNext (execDbarPhaseComplete ctx b arrived s) := by
  rw [execDbarPhaseComplete]
  split <;> simp [h]

@[simp] theorem wf_execDbarTimeout (s : State) (ctx : Nat) (b : Nat) (h : Memory.wf s.mem = true) :
    wfNext (execDbarTimeout ctx b s) := by
  rw [execDbarTimeout]
  split <;> simp [h]

/-! ### Pages -/

@[simp] theorem setUse_mem (s : State) (ctx : Nat) (n : Nat) (u : FrameUse) : (s.setUse ctx n u).mem = s.mem := rfl

@[simp] theorem wf_setLeaf (s : State) (ctx : Nat) (va : Nat) (e : Nat) (h : Memory.wf s.mem = true) :
    Memory.wf (s.setLeaf ctx va e).mem = true := by
  simp only [State.setLeaf]
  (repeat' split) <;> simp [wf_memWrite, h]

@[simp] theorem wf_mapPage (s : State) (ctx : Nat) (va : Nat) (p : Nat) (here : Nat) (h : Memory.wf s.mem = true) :
    Memory.wf (s.mapPage ctx va p here).1.mem = true := by
  simp only [State.mapPage]
  (repeat' split) <;> simp [wf_zeroRange, h]

@[simp] theorem wf_execPgmap (s : State) (r : RWord) (h : Memory.wf s.mem = true) : wfNext (execPgmap r s) :=
  wf_issue (fun x => by simp [h]) h

@[simp] theorem dropBlock_mem (s : State) (ctx : Nat) (va : Nat) : (s.dropBlock ctx va).mem = s.mem := rfl

theorem wf_of_splinter {s : State} {ctx va : Nat} {any : Bool} {t : State} (ht : s.splinter ctx va any = some t)
    (h : Memory.wf s.mem = true) : Memory.wf t.mem = true := by
  rw [State.splinter] at ht
  split at ht
  · cases ht; exact h
  · split at ht
    · cases ht; exact h
    · split at ht
      · cases ht
      · obtain rfl := Option.some.inj ht
        simp only [dropBlock_mem]
        exact wf_memWrite _ _ _ _ (wf_foldl (fun u i hu => wf_memWrite _ _ _ _ hu) _ _ (by simp [h]))

@[simp] theorem wf_clearGroup (s : State) (ctx va : Nat) (h : Memory.wf s.mem = true) :
    Memory.wf (s.clearGroup ctx va).mem = true :=
  by
  rw [State.clearGroup]
  split
  · exact h
  · dsimp only
    split
    · exact wf_foldl (fun u p hu => wf_memWrite _ _ _ _ hu) _ _ h
    · exact h

theorem wf_of_ownLeaf {s : State} {ctx va : Nat} {t : State} (ht : s.ownLeaf ctx va = some t) (h : Memory.wf s.mem = true) :
    Memory.wf t.mem = true := by
  obtain ⟨u, hu, rfl⟩ := Option.map_eq_some_iff.1 ht
  exact wf_clearGroup _ _ _ (wf_of_splinter hu h)

theorem wf_of_setPerm {s : State} {ctx va perm : Nat} {t : State} (ht : s.setPerm ctx va perm = some t)
    (h : Memory.wf s.mem = true) : Memory.wf t.mem = true := by
  rw [State.setPerm] at ht
  split at ht
  · cases ht
  next u hu =>
    have hwf := wf_of_ownLeaf hu h
    split at ht <;> (obtain rfl := Option.some.inj ht; simp [hwf])

@[simp] theorem wf_protPage (s : State) (ctx va perm : Nat) (h : Memory.wf s.mem = true) :
    Memory.wf (s.protPage ctx va perm).1.mem = true := by
  rw [State.protPage]
  split
  · exact h
  · split
    · split
      · exact h
      · split
        · exact h
        · split
          next hp => exact wf_of_setPerm hp h
          · exact h
    · exact h

@[simp] theorem wf_execPgprot (s : State) (r : RWord) (h : Memory.wf s.mem = true) : wfNext (execPgprot r s) :=
  wf_issue (fun x => by simp [h]) h

@[simp] theorem wf_execTlbinvPg (s : State) (r : RWord) (h : Memory.wf s.mem = true) : wfNext (execTlbinvPg r s) :=
  wf_issue (fun x => by simp [h]) h

@[simp] theorem wf_execTlbinvCtx (s : State) (hd : Head) (h : Memory.wf s.mem = true) : wfNext (execTlbinvCtx hd s) :=
  wf_issue (fun x => by simp [h]) h

@[simp] theorem dropLines_mem (s : State) (ctx : Nat) (hit : Nat → Bool) : (s.dropLines ctx hit).mem = s.mem := rfl

@[simp] theorem wf_execCinv (s : State) (r : RWord) (h : Memory.wf s.mem = true) : wfNext (execCinv r s) :=
  wf_issue (fun x => by simp [h]) h

@[simp] theorem wf_execCinvCtx (s : State) (hd : Head) (h : Memory.wf s.mem = true) : wfNext (execCinvCtx hd s) :=
  wf_issue (fun x => by simp [h]) h

@[simp] theorem wf_beginMove (s : State) (ctx : Nat) (va : Nat) (e : Nat) (f : Frame) (h : Memory.wf s.mem = true) :
    Memory.wf (s.beginMove ctx va e f).mem = true := by
  simp [State.beginMove, h]

@[simp] theorem passUse_mem (s : State) (ctx : Nat) (old : Nat) (new : Nat) : (s.passUse ctx old new).mem = s.mem := by
  rw [State.passUse]
  split <;> rfl

@[simp] theorem wf_endMove (s : State) (m : PageMove) (h : Memory.wf s.mem = true) : Memory.wf (s.endMove m).mem = true := by
  simp [State.endMove, wf_copyRange, h]

@[simp] theorem wf_moveTo (s : State) (ctx : Nat) (va : Nat) (e : Nat) (f : Frame) (h : Memory.wf s.mem = true) :
    Memory.wf (s.moveTo ctx va e f).mem = true := by
  simp [State.moveTo, h]

@[simp] theorem wf_migrate (s : State) (ctx va p : Nat) (asked : Bool) (h : Memory.wf s.mem = true) :
    Memory.wf (s.migrate ctx va p asked).1.mem = true := by
  rw [State.migrate]
  split
  · split
    · exact h
    · split
      next s1 _ hs1 =>
        have hwf := wf_of_ownLeaf hs1 h
        split
        · simp [hwf]
        · exact hwf
      · exact h
  · exact h

theorem wf_of_repoint {s : State} {ctx va : Nat} {f : Frame} {t : State} (ht : s.repoint ctx va f = some t)
    (h : Memory.wf s.mem = true) : Memory.wf t.mem = true := by
  obtain ⟨u, hu, rfl⟩ := Option.map_eq_some_iff.1 ht
  have hwf := wf_of_ownLeaf hu h
  split
  · exact wf_setLeaf _ _ _ _ hwf
  · exact hwf

@[simp] theorem wf_moveTables (s : State) (ctx old : Nat) (f : Frame) (h : Memory.wf s.mem = true) :
    Memory.wf (s.moveTables ctx old f).mem = true := by
  rw [State.moveTables]
  split
  · exact h
  next u hu =>
    have hwf : Memory.wf u.mem = true := foldl_bind_keeps (P := fun v => Memory.wf v.mem = true)
      (fun v p w hv hw => wf_of_repoint hw hv) _ (fun v hv => by cases hv; exact h) hu
    simp only [invalidate_mem, passUse_mem, setUse_mem]
    refine wf_copyRange _ _ _ _ (wf_foldl (fun v n hv => ?_) _ _ hwf)
    split
    · exact wf_memWrite _ _ _ _ hv
    · simp [hv]

@[simp] theorem wf_moveTable (s : State) (ctx va lvl : Nat) (f : Frame) (h : Memory.wf s.mem = true) :
    Memory.wf (s.moveTable ctx va lvl f).mem = true := wf_elim (fun _ _ => wf_moveTables _ _ _ _ h) h

@[simp] theorem wf_execPageMigration (s : State) (ctx : Nat) (what : Moved) (p : Nat) (h : Memory.wf s.mem = true) :
    wfNext (execPageMigration ctx what p s) := by
  cases what with
  | page va =>
    simp only [execPageMigration]
    split <;> simp [h]
  | table va lvl =>
    simp only [execPageMigration]
    split
    · exact h
    · split
      · exact h
      · simp only [wfNext_next]
        split
        · exact h
        · exact wf_elim (fun f _ => wf_moveTable _ _ _ _ _ h) h

@[simp] theorem wf_evacuatePage (s : State) (ctx : Nat) (die : Nat) (va : Nat) (h : Memory.wf s.mem = true) :
    Memory.wf (s.evacuatePage ctx die va).1.mem = true := by
  simp only [State.evacuatePage]
  (repeat' split) <;> simp [h]

@[simp] theorem wf_evacuateEntry (s : State) (ctx die : Nat) (m : Nat × Nat × Nat) (h : Memory.wf s.mem = true) :
    Memory.wf (s.evacuateEntry ctx die m).1.mem = true := by
  simp only [State.evacuateEntry]
  split
  next u hu =>
    exact wf_foldl_fst (f := fun (r : State × List Nat) v => (((r.1.clearGroup ctx v).evacuatePage ctx die v).1, _))
      (fun v p hv => wf_evacuatePage _ _ _ _ (wf_clearGroup _ _ _ hv)) _ (u, ([] : List Nat)) (wf_of_splinter hu h)
  · split
    · exact wf_foldl (fun u v hu => by simp [hu]) _ _ (wf_memWrite _ _ _ _ h)
    · exact h

@[simp] theorem wf_evacuateTables (s : State) (ctx die : Nat) (h : Memory.wf s.mem = true) :
    Memory.wf (s.evacuateTables ctx die).mem = true := by
  refine wf_foldl (fun u t hu => ?_) _ _ h
  split
  · split
    · exact wf_elim (fun f _ => wf_moveTable _ _ _ _ _ hu) hu
    · exact hu
  · exact hu

@[simp] theorem wf_evacuate (s : State) (ctx die : Nat) (h : Memory.wf s.mem = true) :
    Memory.wf (s.evacuate ctx die).mem = true :=
  by
  have hmoves : Memory.wf ((s.moves.filter (fun m => m.ctx == ctx)).foldl State.endMove s).mem = true :=
    wf_foldl (fun u m hu => wf_endMove _ _ hu) _ _ h
  simp only [State.evacuate]
  refine wf_foldl (fun u p hu => by simp [hu]) _ _ ?_
  exact wf_foldl_fst
    (f := fun (r : State × List Nat) m => ((r.1.evacuateEntry ctx die m).1, r.2 ++ (r.1.evacuateEntry ctx die m).2))
    (fun u m hu => wf_evacuateEntry _ _ _ _ hu) _ (_, ([] : List Nat)) (wf_evacuateTables _ _ _ hmoves)

/-! ### Traps and handlers -/

@[simp] theorem wf_execTrap (s : State) (r : RWord) (h : Memory.wf s.mem = true) : wfNext (execTrap r s) :=
  wf_issue (fun x => by simp [h]) h

@[simp] theorem wf_execSret (s : State) (hd : Head) (h : Memory.wf s.mem = true) : wfNext (execSret hd s) :=
  wf_issue (fun x => by simp [h]) h

@[simp] theorem wf_execSretEsc (s : State) (hd : Head) (h : Memory.wf s.mem = true) : wfNext (execSretEsc hd s) :=
  wf_issue (fun x => by dsimp only; (repeat' split) <;> simp [h]) h

@[simp] theorem wf_execEscalationAnswer (s : State) (crs : Nat) (slot : Nat) (h : Memory.wf s.mem = true) :
    wfNext (execEscalationAnswer crs slot s) := by
  rw [execEscalationAnswer]
  split <;> simp [h]

@[simp] theorem wf_execSysrd (s : State) (r : RWord) (h : Memory.wf s.mem = true) : wfNext (execSysrd r s) :=
  wf_issue (fun x => by simp [h]) h

@[simp] theorem wf_emptySource (x : Ctx) : x.emptySource.wf := by simp [Ctx.emptySource]

@[simp] theorem wf_execSysrdV (s : State) (r : RWord) (h : Memory.wf s.mem = true) : wfNext (execSysrdV r s) :=
  wf_issue (fun x => by simp [h]) h

@[simp] theorem wf_execSysrdS (s : State) (r : RWord) (h : Memory.wf s.mem = true) : wfNext (execSysrdS r s) :=
  wf_issue (fun x => by simp [h]) h

@[simp] theorem wf_execSysrdPm (s : State) (r : RWord) (h : Memory.wf s.mem = true) : wfNext (execSysrdPm r s) :=
  wf_issue (fun x => by simp [h]) h

@[simp] theorem wf_execSyswr (s : State) (r : RWord) (h : Memory.wf s.mem = true) : wfNext (execSyswr r s) :=
  wf_issue (fun x => by simp [h]) h

@[simp] theorem wf_execSyswrV (s : State) (r : RWord) (h : Memory.wf s.mem = true) : wfNext (execSyswrV r s) :=
  wf_issue (fun x => by simp [h]) h

@[simp] theorem wf_execSyswrS (s : State) (r : RWord) (h : Memory.wf s.mem = true) : wfNext (execSyswrS r s) :=
  wf_issue (fun x => by simp [h]) h

@[simp] theorem wf_execHaltGrid (s : State) (hd : Head) (h : Memory.wf s.mem = true) : wfNext (execHaltGrid hd s) :=
  wf_issue (fun x => by simp [h]) h

@[simp] theorem wf_execHaltLanes (s : State) (hd : Head) (h : Memory.wf s.mem = true) : wfNext (execHaltLanes hd s) :=
  wf_issue (fun x => by dsimp only; (repeat' split) <;> simp [h]) h

@[simp] theorem wf_execHandlerEntry (s : State) (crs : Nat) (slot : Nat) (h : Memory.wf s.mem = true) :
    wfNext (execHandlerEntry crs slot s) := by
  rw [execHandlerEntry]
  split <;> simp [h]

@[simp] theorem wf_performPend (s : State) (crs : Nat) (p : Pend) (h : Memory.wf s.mem = true) :
    Memory.wf (s.performPend crs p).1.mem = true := by
  rw [State.performPend]
  dsimp only
  split
  · exact h
  · exact wf_setSpace_spaceBlock (f := fun b => (performAccess _ b _).1) (fun b hb => wf_performAccess _ _ b hb) _ h
  · exact wf_protPage _ _ _ _ h
  · exact h
  · simp [h]
  · exact h

@[simp] theorem landHeld_mem (s : State) (crs : Nat) (p : Pend) (fl : Word) : (s.landHeld crs p fl).mem = s.mem := by
  simp [State.landHeld]

@[simp] theorem wf_landValue (s : State) (crs : Nat) (p : Pend) (h : Memory.wf s.mem = true) :
    Memory.wf (s.landValue crs p).mem = true := by
  rw [State.landValue]
  split <;> simp [h]

@[simp] theorem wf_landNow (s : State) (crs : Nat) (pid : Nat) (h : Memory.wf s.mem = true) :
    Memory.wf (s.landNow crs pid).mem = true := by
  rw [State.landNow]
  split <;> simp [h]

@[simp] theorem wf_execValueLands (s : State) (crs : Nat) (pid : Nat) (h : Memory.wf s.mem = true) :
    wfNext (execValueLands crs pid s) := by
  simp [execValueLands, h]

@[simp] theorem wf_execPendingValueLands (s : State) (crs : Nat) (pid : Nat) (h : Memory.wf s.mem = true) :
    wfNext (execPendingValueLands crs pid s) := by
  simp [execPendingValueLands, h]

@[simp] theorem raiseArith_mem (s : State) (crs : Nat) (j : Nat) : (s.raiseArith crs j).mem = s.mem := by
  rw [State.raiseArith]
  split <;> simp

@[simp] theorem wf_execFixedAluWriteback (s : State) (crs : Nat) (h : Memory.wf s.mem = true) :
    wfNext (execFixedAluWriteback crs s) := by
  simp [execFixedAluWriteback, h]

/-! ### Fetching -/

@[simp] theorem startFill_mem (s : State) (core : Nat) (ctx : Nat) (line : Nat) : (s.startFill core ctx line).mem = s.mem := rfl

@[simp] theorem wakeFetch_mem (s : State) (core ctx line : Nat) : (s.wakeFetch core ctx line).mem = s.mem :=
  foldl_mem (fun _ _ => onCourse_mem ..) _ _

@[simp] theorem wf_execFetchFillLands (s : State) (core : Nat) (line : Nat) (h : Memory.wf s.mem = true) :
    wfNext (execFetchFillLands core line s) := by
  simp only [execFetchFillLands]
  (repeat' split) <;> simp [h]

theorem mem_of_prefetch {s : State} {core : Nat} {ctx : Nat} {a3 : Int} {t : State × _} (ht : s.prefetch core ctx a3 = some t) :
    t.1.mem = s.mem := by
  simp only [State.prefetch] at ht
  (repeat' split at ht) <;> simp at ht <;> simp [← ht]

@[simp] theorem prefetchLines_mem (s : State) (core ctx : Nat) (l : List Int) : (s.prefetchLines core ctx l).mem = s.mem := by
  induction l generalizing s with
  | nil => rfl
  | cons a l ih =>
    rw [State.prefetchLines]
    split
    · rfl
    next hr => simp [ih, mem_of_prefetch hr]

@[simp] theorem fetchAhead_mem (s : State) (core ctx pc : Nat) (l : ILine) : (s.fetchAhead core ctx pc l).mem = s.mem := by
  simp only [State.fetchAhead]
  split
  · cases hr : s.prefetch core ctx _ with
    | none => rfl
    | some r => exact mem_of_prefetch hr
  · rfl

@[simp] theorem wf_execDemandFetch (s : State) (crs : Nat) (slot : Nat) (h : Memory.wf s.mem = true) :
    wfNext (execDemandFetch crs slot s) := by
  simp only [execDemandFetch]
  (repeat' split) <;> simp [h]

@[simp] theorem wf_execIpf (s : State) (hd : Head) (base : Option (BitVec 8)) (n : Fin 16) (ofs : BitVec 32)
    (h : Memory.wf s.mem = true) :
    wfNext (execIpf hd base n ofs s) :=
  wf_issue (fun x => by simp [h]) h

/-! ### The front end -/

@[simp] theorem frontAsks_mem (s : State) (ctx : Nat) (va : Nat) (n : Nat) : (s.frontAsks ctx va n).mem = s.mem := by
  rw [State.frontAsks]
  split <;> rfl

theorem wf_of_frontWrite {s : State} {ctx va : Nat} {x : List Byte} {t : State} (ht : s.frontWrite ctx va x = some t)
    (h : Memory.wf s.mem = true) : Memory.wf t.mem = true := by
  rw [State.frontWrite] at ht
  split at ht
  · dsimp only at ht
    split at ht
    · split at ht
      · cases ht
      · split at ht <;> (cases ht; exact h)
    · split at ht
      · cases ht; exact wf_memWrite _ _ _ _ h
      · cases ht
  · cases ht

/-- A write of the front end, where a failure changes nothing. -/
@[simp] theorem wf_frontWrite_getD (s : State) (ctx va : Nat) (x : List Byte) (u : State) (h : Memory.wf s.mem = true)
    (hu : Memory.wf u.mem = true) : Memory.wf ((s.frontWrite ctx va x).getD u).mem = true :=
  wf_getD (fun _ ht => wf_of_frontWrite ht h) hu

@[simp] theorem wf_execLaunch (s : State) (r : RWord) (h : Memory.wf s.mem = true) : wfNext (execLaunch r s) :=
  wf_issue (fun x => by simp [h]) h

@[simp] theorem wf_submit (s : State) (ctx qn addr : Nat) (q : Queue) (h : Memory.wf s.mem = true) :
    Memory.wf (s.submit ctx qn addr q).1.mem = true := by
  rw [State.submit]
  split
  · exact h
  · split
    · exact h
    · dsimp only
      split
      · simp [h]
      · split
        · simp [h]
        next s1 hs1 =>
          have h1 := wf_of_frontWrite hs1 (by simp [h])
          split
          · simp [h1]
          next s2 hs2 => exact (wf_of_frontWrite hs2 h1 : Memory.wf s2.mem = true)

@[simp] theorem wf_launchStatus (s : State) (ctx : Nat) (r : LaunchReq) (h : Memory.wf s.mem = true) :
    Memory.wf (s.launchStatus ctx r).1.mem = true := by
  simp only [State.launchStatus]
  (repeat' split) <;> simp [h]

@[simp] theorem wf_execLaunchSubmit (s : State) (id : Nat) (h : Memory.wf s.mem = true) : wfNext (execLaunchSubmit id s) := by
  rw [execLaunchSubmit]
  split <;> simp [h]

@[simp] theorem wf_execTailWordWrite (s : State) (q : Nat) (h : Memory.wf s.mem = true) : wfNext (execTailWordWrite q s) := by
  simp only [execTailWordWrite]
  (repeat' split) <;> simp [h]

/-! ### Placement -/

theorem mem_of_takeFrames {s : State} {ctx : Nat} {u : FrameUse} {first : Frame → Bool} {n : Nat} {r : State × List Nat}
    (hr : s.takeFrames ctx u first n = some r) : r.1.mem = s.mem := by
  induction n generalizing r with
  | zero => cases hr; rfl
  | succ n ih =>
    rw [State.takeFrames] at hr
    split at hr
    · cases hr
    next s' l hs =>
      obtain ⟨f, -, rfl⟩ := Option.map_eq_some_iff.1 hr
      exact (setUse_mem ..).trans (ih hs)

@[simp] theorem freeUse_mem (s : State) (ctx : Nat) (l : List Nat) : (s.freeUse ctx l).mem = s.mem :=
  foldl_mem (fun _ _ => setUse_mem ..) _ _

/-! ### Saved teams -/

@[simp] theorem haltTeam_mem (s : State) (team : Nat) : (s.haltTeam team).mem = s.mem := by simp [State.haltTeam]

@[simp] theorem haltUnit_mem (s : State) (team : Nat) : (s.haltUnit team).mem = s.mem := by simp [State.haltUnit]

@[simp] theorem wf_execHaltRequest (s : State) (team : Nat) (h : Memory.wf s.mem = true) : wfNext (execHaltRequest team s) := by
  simp [execHaltRequest, h]

@[simp] theorem saveTeam_mem (s : State) (team : Nat) (frames : List Nat) (parked : Option Nat) :
    (s.saveTeam team frames parked).mem = s.mem := by
  simp only [State.saveTeam, onTeam_mem, takeEntries_mem, onCore_mem]
  exact foldl_mem (fun u h => onCourse_mem ..) _ _

@[simp] theorem wf_execSaveComplete (s : State) (team : Nat) (h : Memory.wf s.mem = true) : wfNext (execSaveComplete team s) := by
  rw [execSaveComplete]
  split
  · exact h
  · split
    next t l hs =>
      have ht : t.mem = s.mem := mem_of_takeFrames hs
      simp [ht, h]
    · simp [h]

@[simp] theorem renewReads_mem (s : State) (team : Nat) (id : Nat) (k : Nat) (cp : Copy) (o : XferOp) :
    (s.renewReads team id k cp o).mem = s.mem := by
  rw [State.renewReads]
  split <;> simp

@[simp] theorem renewCopy_mem (s : State) (team : Nat) (e : Nat × Copy) : (s.renewCopy team e).mem = s.mem := by
  simp [State.renewCopy]

@[simp] theorem placeCourses_mem (s : State) (core o : Nat) (done l : List Nat) : (s.placeCourses core o done l).mem = s.mem := by
  induction l generalizing s done with
  | nil => rfl
  | cons a l ih => exact (ih ..).trans (onCourse_mem ..)

theorem mem_of_restoreTeam {s : State} {p : Placement} {t : State} (ht : s.restoreTeam p = some t) : t.mem = s.mem := by
  rw [State.restoreTeam] at ht
  split at ht
  · cases ht
  · obtain rfl := Option.some.inj ht
    rw [foldl_mem (fun u e => renewCopy_mem ..), onTeam_mem, foldl_mem (fun u e => setQueue_mem ..), placeCourses_mem, freeUse_mem]

@[simp] theorem resyncSaved_mem (s : State) (team : Nat) : (s.resyncSaved team).mem = s.mem := by simp [State.resyncSaved]

@[simp] theorem wakeTeam_mem (s : State) (team : Nat) : (s.wakeTeam team).mem = s.mem := by simp [State.wakeTeam]

@[simp] theorem wf_execRestore (s : State) (place : List Placement) (h : Memory.wf s.mem = true) :
    wfNext (execRestore place s) :=
  by
  cases place with
  | nil => exact h
  | cons p l =>
    simp only [execRestore]
    split
    · exact h
    · split
      · exact h
      next t ht =>
        have hmem : t.mem = s.mem := foldl_bind_keeps (P := fun v => v.mem = s.mem)
          (fun v q w hv hw => (mem_of_restoreTeam hw).trans hv) _ (fun v hv => by cases hv; rfl) ht
        simp [hmem, h]

/-! ### Admission -/

@[simp] theorem setQueueRec_mem (s : State) (qn : Nat) (q : Queue) : (s.setQueueRec qn q).mem = s.mem := rfl

@[simp] theorem wf_refuseRecord (s : State) (qn ctx recNo signal cause : Nat) (h : Memory.wf s.mem = true) :
    Memory.wf (s.refuseRecord qn ctx recNo signal cause).mem = true := by
  simp [State.refuseRecord, h]

@[simp] theorem wf_refuseWaiting (s : State) (qn : Nat) (cause : Nat) (h : Memory.wf s.mem = true) :
    Memory.wf (s.refuseWaiting qn cause).mem = true := by
  simp only [State.refuseWaiting]
  (repeat' split) <;> simp [h]

@[simp] theorem wf_dropRing (s : State) (qn cause n : Nat) (h : Memory.wf s.mem = true) :
    Memory.wf (s.dropRing qn cause n).mem = true :=
  by
  induction n generalizing s with
  | zero => exact h
  | succ n ih =>
    rw [State.dropRing]
    split
    · split
      · exact h
      · exact ih _ (by simp [h])
    · exact h

@[simp] theorem wf_dropRecords (s : State) (qn : Nat) (cause : Nat) (h : Memory.wf s.mem = true) :
    Memory.wf (s.dropRecords qn cause).mem = true := by
  simp [State.dropRecords, h]

@[simp] theorem wf_takeRecord (s : State) (qn : Nat) (q : Queue) (h : Memory.wf s.mem = true) :
    Memory.wf (s.takeRecord qn q).mem = true := by
  simp only [State.takeRecord]
  split
  · simp [h]
  · split <;> simp [h]

theorem mem_of_startCourses {s : State} {r : LaunchRec} {ctx team core o : Nat} {l : List Nat} {y : State × List Nat}
    (hy : s.startCourses r ctx team core o l = some y) : y.1.mem = s.mem := by
  induction l generalizing y with
  | nil => cases hy; rfl
  | cons i l ih =>
    rw [State.startCourses] at hy
    split at hy
    · cases hy
    next s' hs hsome =>
      obtain ⟨z, hz, rfl⟩ := Option.map_eq_some_iff.1 hy
      exact (mem_of_takeFrames hz).trans (ih hsome)

theorem mem_of_startTeam {s : State} {g : Nat} {p : Placement} {t : State} (ht : s.startTeam g p = some t) : t.mem = s.mem := by
  rw [State.startTeam] at ht
  split at ht
  · cases ht
  · obtain ⟨y, hy, rfl⟩ := Option.map_eq_some_iff.1 ht
    exact mem_of_startCourses hy

theorem mem_of_startTeams {s : State} {g : Nat} {place : List Placement} {t : State} (ht : s.startTeams g place = some t) :
    t.mem = s.mem := by
  rw [State.startTeams] at ht
  split at ht
  · cases ht
  · obtain ⟨u, hu, rfl⟩ := Option.map_eq_some_iff.1 ht
    have hmem : u.mem = s.mem := foldl_bind_keeps (P := fun v : State => v.mem = s.mem) (f := fun v p => v.startTeam g p)
      (fun v p w hv hw => (mem_of_startTeam hw).trans hv) _ (fun v hv => Option.some.inj hv ▸ rfl) hu
    exact hmem

@[simp] theorem clearEvents_mem (s : State) (ctx : Nat) (lo : Nat) (hi : Nat) : (s.clearEvents ctx lo hi).mem = s.mem := rfl

theorem mem_of_startNext {s : State} {qn : Nat} {place : List Placement} {x : Next} {t : State}
    (ht : s.startNext qn place x = some t) : t.mem = s.mem := by
  cases x with
  | cluster g =>
    rw [State.startNext] at ht
    split at ht
    · exact mem_of_startTeams ht
    · cases ht
  | fresh w =>
    rw [State.startNext] at ht
    obtain ⟨q, -, hq⟩ := Option.bind_eq_some_iff.1 ht
    dsimp only at hq
    split at hq
    · cases hq
    · obtain ⟨u, hu, rfl⟩ := Option.map_eq_some_iff.1 hq
      simpa using mem_of_startTeams hu

theorem mem_of_preempt {s : State} {qn : Nat} {x : Next} {t : State} (ht : s.preempt qn x = some t) : t.mem = s.mem := by
  simp only [State.preempt] at ht
  (repeat' split at ht) <;> simp at ht <;> simp [← ht]

@[simp] theorem startAt_mem (s : State) (qn : Nat) (place : List Placement) : (s.startAt qn place).mem = s.mem := by
  rw [State.startAt]
  cases hx : List.findSome? _ _ with
  | none => rfl
  | some t =>
    obtain ⟨x, -, hx⟩ := List.exists_of_findSome?_eq_some hx
    split at hx
    · cases hx
    · exact mem_of_startNext hx

@[simp] theorem wf_execAdmitGrid (s : State) (qn : Nat) (place : List Placement) (h : Memory.wf s.mem = true) :
    wfNext (execAdmitGrid qn place s) := by
  rw [execAdmitGrid]
  split
  · exact h
  · split
    · simp [h]
    · split
      · split <;> simp [h]
      · refine wf_getD (fun t ht => ?_) h
        obtain ⟨x, -, hx⟩ := List.exists_of_findSome?_eq_some ht
        split at hx
        · cases hx
        · rw [mem_of_preempt hx]; exact h

@[simp] theorem wf_execCoopWaitTimer (s : State) (qn : Nat) (h : Memory.wf s.mem = true) : wfNext (execCoopWaitTimer qn s) := by
  simp only [execCoopWaitTimer]
  (repeat' split) <;> simp [h]

@[simp] theorem wf_execAdmissionConsent (s : State) (qn : Nat) (h : Memory.wf s.mem = true) :
    wfNext (execAdmissionConsent qn s) :=
  by
  rw [execAdmissionConsent]
  split
  · exact h
  · split
    · split <;> simp [h]
    · exact wf_elim (fun cause _ => wf_dropRing _ _ _ _ h) h

@[simp] theorem consentAnswer_mem (s : State) (seq : Nat) (yes : Bool) : (s.consentAnswer seq yes).mem = s.mem := rfl

@[simp] theorem escalationAnswered_mem (s : State) (crs : Nat) (slot : Nat) (yes : Bool) :
    (s.escalationAnswered crs slot yes).mem = s.mem :=
  rfl

@[simp] theorem wf_execAgentTimeout (s : State) (seq : Nat) (h : Memory.wf s.mem = true) : wfNext (execAgentTimeout seq s) := by
  simp only [execAgentTimeout]
  (repeat' split) <;> simp [h]

/-! ### Retirement -/

@[simp] theorem freeTeam_mem (s : State) (team : Nat) : (s.freeTeam team).mem = s.mem := by simp [State.freeTeam]

@[simp] theorem wf_execTeamFree (s : State) (team : Nat) (h : Memory.wf s.mem = true) : wfNext (execTeamFree team s) := by
  simp only [execTeamFree]
  (repeat' split) <;> simp [h]

@[simp] theorem reclaim_mem (s : State) (g : Nat) : (s.reclaim g).mem = s.mem := rfl

@[simp] theorem wf_signal (s : State) (x : Grid) (h : Memory.wf s.mem = true) : Memory.wf (s.signal x).mem = true := by
  have hput : ∀ w t, (if x.lr.signal = 0 then some s else s.frontWrite x.ctx x.lr.signal (bytesOf 8 w)) = some t →
      Memory.wf t.mem = true := by
    intro w t ht
    split at ht
    · cases ht; exact h
    · exact wf_of_frontWrite ht h
  rw [State.signal]
  split
  · exact wf_getD (hput _) (by simp [h])
  · rw [logPost_mem]
    exact wf_getD (hput _) h

@[simp] theorem releaseGrid_mem (s : State) (g : Nat) : (s.releaseGrid g).mem = s.mem := rfl

@[simp] theorem wf_execCompletionSignal (s : State) (grid : Nat) (h : Memory.wf s.mem = true) :
    wfNext (execCompletionSignal grid s) := by
  simp [execCompletionSignal, h]

/-! ### Units out of service -/

@[simp] theorem fence_mem (s : State) (k : UnitKind) (n : Nat) : (s.fence k n).mem = s.mem := by simp [State.fence]

@[simp] theorem vacate_mem (s : State) (hit : Nat → Bool) : (s.vacate hit).mem = s.mem := by simp [State.vacate]

@[simp] theorem wf_recheck (s : State) (h : Memory.wf s.mem = true) : Memory.wf s.recheck.mem = true :=
  wf_foldl (fun _ _ hu => wf_refuseWaiting _ _ _ hu) _ _ h

@[simp] theorem dropDie_mem (s : State) (die : Nat) : (s.dropDie die).mem = s.mem := rfl

@[simp] theorem wf_loseDie (s : State) (die : Nat) (h : Memory.wf s.mem = true) : Memory.wf (s.loseDie die).mem = true := by
  refine wf_recheck _ ?_
  rw [dropDie_mem]
  exact wf_foldl (fun u c hu => wf_evacuate _ _ _ hu) _ _ (by simp [h])

@[simp] theorem wf_execDieOutOfService (s : State) (die : Nat) (h : Memory.wf s.mem = true) :
    wfNext (execDieOutOfService die s) := by
  simp [execDieOutOfService, h]

@[simp] theorem pathFails_mem (s : State) (keys : List StreamKey) : (s.pathFails keys).mem = s.mem := by simp [State.pathFails]

@[simp] theorem groupFails_mem (s : State) (ctx : Nat) (b : Nat) : (s.groupFails ctx b).mem = s.mem := by simp [State.groupFails]

@[simp] theorem wf_execLinkFailure (s : State) (k : LinkKind) (ends : Nat × Nat) (h : Memory.wf s.mem = true) :
    wfNext (execLinkFailure k ends s) := by
  simp only [execLinkFailure]
  split <;> simp [h]

@[simp] theorem wf_execLinkReturn (s : State) (k : LinkKind) (ends : Nat × Nat) (h : Memory.wf s.mem = true) :
    wfNext (execLinkReturn k ends s) := by
  simp only [execLinkReturn]
  split <;> simp [h]

@[simp] theorem losePort_mem (s : State) (n : Nat) : (s.losePort n).mem = s.mem := by
  rw [State.losePort]
  split <;> simp

@[simp] theorem wf_execUnitFence (s : State) (kind : UnitKind) (n : Nat) (h : Memory.wf s.mem = true) :
    wfNext (execUnitFence kind n s) := by
  simp only [execUnitFence]
  (repeat' split) <;> simp [h]

/-! ### The host port -/

theorem wf_of_rangeWrite {s : State} {ctx va : Nat} {x : List Byte} {t : State} (ht : s.rangeWrite ctx va x = some t)
    (h : Memory.wf s.mem = true) : Memory.wf t.mem = true :=
  foldl_bind_keeps (P := fun v => Memory.wf v.mem = true) (fun v p w hv hw => wf_of_frontWrite hw (by split <;> simp [hv])) _
    (fun v hv => by cases hv; exact h) ht

@[simp] theorem rangeAsks_mem (s : State) (ctx : Nat) (va : Nat) (n : Nat) : (s.rangeAsks ctx va n).mem = s.mem := by
  simp [State.rangeAsks]

@[simp] theorem out_mem (s : State) (x : HostOut) : (s.out x).mem = s.mem := rfl

@[simp] theorem wf_execRdmaWrite (s : State) (key va : Nat) (bytes : List Byte) (h : Memory.wf s.mem = true) :
    wfNext (execRdmaWrite key va bytes s) := by
  rw [execRdmaWrite]
  split
  · exact h
  · split
    · simp [h]
    · split
      · exact h
      · split
        · simp [h]
        next t ht => simp [wf_of_rangeWrite ht h]

@[simp] theorem wf_execRdmaRead (s : State) (key : Nat) (va : Nat) (n : Nat) (h : Memory.wf s.mem = true) :
    wfNext (execRdmaRead key va n s) := by
  simp only [execRdmaRead]
  (repeat' split) <;> simp [h]

@[simp] theorem wf_execUnsupportedRdmaRequest (s : State) (_k : RdmaKind) (h : Memory.wf s.mem = true) :
    wfNext (execUnsupportedRdmaRequest _k s) := by
  simp [execUnsupportedRdmaRequest, h]

@[simp] theorem respond_mem (s : State) (m : HostMsg) (status : Nat) (body : List Byte) :
    (s.respond m status body).mem = s.mem :=
  rfl

/-- A request keeps the canonical form where performing it does. -/
theorem wf_serve {s : State} {m : HostMsg} {op : Nat} {ok needsCtx : Bool} {f : State → Option State}
    (hf : wfSome (f s)) (h : Memory.wf s.mem = true) : wfNext (s.serve m op ok needsCtx f) := by
  have hget := wf_getD hf h
  rw [State.serve]
  split
  · exact h
  · split
    · simp [h]
    · split
      · simp [h]
      · split
        · simp [h]
        · exact hget

@[simp] theorem wf_execUndefinedOpRequest (s : State) (m : HostMsg) (h : Memory.wf s.mem = true) :
    wfNext (execUndefinedOpRequest m s) := by
  rw [execUndefinedOpRequest]
  split
  · exact h
  · exact wf_serve (fun t ht => by cases ht; exact h) h

@[simp] theorem wf_execManagementQueuePairOpen (s : State) (h : Memory.wf s.mem = true) :
    wfNext (execManagementQueuePairOpen s) := by
  simp [execManagementQueuePairOpen, h]

@[simp] theorem deliverHeld_mem (s : State) : (s.deliverHeld).mem = s.mem := rfl

@[simp] theorem wf_execReceiveBufferPosted (s : State) (n : Nat) (h : Memory.wf s.mem = true) :
    wfNext (execReceiveBufferPosted n s) := by
  simp [execReceiveBufferPosted, h]

@[simp] theorem wf_execDefineContext (s : State) (m : HostMsg) (h : Memory.wf s.mem = true) : wfNext (execDefineContext m s) := by
  rw [execDefineContext]
  exact wf_serve (by simp [h]) h

@[simp] theorem wf_stopCtx (s : State) (ctx cause : Nat) (h : Memory.wf s.mem = true) :
    Memory.wf (s.stopCtx ctx cause).mem = true :=
  by
  simp only [State.stopCtx, onContext_mem]
  rw [foldl_mem (fun u g => abortGrid_mem ..)]
  refine wf_foldl (fun u q hu => wf_dropRecords _ _ _ hu) _ _ ?_
  dsimp only
  rw [foldl_mem (fun u q => haltQueue_mem ..)]
  exact h

@[simp] theorem wf_releaseCtx (s : State) (ctx : Nat) (h : Memory.wf s.mem = true) : Memory.wf (s.releaseCtx ctx).mem = true :=
  wf_foldl (fun u f hu => wf_zeroRange _ _ _ hu) _ _ (by simp [h])

@[simp] theorem wf_endStop (s : State) (m : HostMsg) (destroy : Bool) (h : Memory.wf s.mem = true) :
    Memory.wf (s.endStop m destroy).mem = true := by
  simp [State.endStop, h]

@[simp] theorem wf_stopRequest (s : State) (m : HostMsg) (mine destroy : Bool) (h : Memory.wf s.mem = true) :
    wfNext (s.stopRequest m mine destroy) := by
  rw [State.stopRequest]
  split
  · simp [h]
  · split
    · exact h
    · exact wf_serve (fun t ht => by cases ht; exact wf_stopCtx _ _ _ h) h

@[simp] theorem wf_execStopContext (s : State) (m : HostMsg) (h : Memory.wf s.mem = true) : wfNext (execStopContext m s) := by
  simp [execStopContext, h]

@[simp] theorem wf_execDestroyContext (s : State) (m : HostMsg) (h : Memory.wf s.mem = true) :
    wfNext (execDestroyContext m s) := by
  simp [execDestroyContext, h]

@[simp] theorem wf_execCreateQueue (s : State) (m : HostMsg) (h : Memory.wf s.mem = true) : wfNext (execCreateQueue m s) := by
  rw [execCreateQueue]
  refine wf_serve ?_ h
  dsimp only
  split
  · simp [h]
  · split
    · simp
    · split
      · simp [h]
      · split
        · simp [h]
        next t ht =>
          obtain ⟨u, hu, hut⟩ := Option.bind_eq_some_iff.1 ht
          simp [wf_of_frontWrite hut (wf_of_frontWrite hu h)]

@[simp] theorem wf_execDestroyQueue (s : State) (m : HostMsg) (h : Memory.wf s.mem = true) : wfNext (execDestroyQueue m s) := by
  rw [execDestroyQueue]
  refine wf_serve ?_ h
  dsimp only
  split
  · split <;> simp [h]
  · simp [h]

@[simp] theorem wf_execAddPoolFrames (s : State) (m : HostMsg) (h : Memory.wf s.mem = true) : wfNext (execAddPoolFrames m s) := by
  rw [execAddPoolFrames]
  refine wf_serve ?_ h
  split
  · simp [h]
  · split <;> simp [h]

@[simp] theorem wf_execRemoveFrames (s : State) (m : HostMsg) (h : Memory.wf s.mem = true) : wfNext (execRemoveFrames m s) := by
  rw [execRemoveFrames]
  refine wf_serve ?_ h
  dsimp only
  split
  · simp [h]
  · split <;> simp [h]

@[simp] theorem wf_execMigratePage (s : State) (m : HostMsg) (h : Memory.wf s.mem = true) : wfNext (execMigratePage m s) := by
  rw [execMigratePage]
  split
  · split <;> simp [h]
  · refine wf_serve ?_ h
    split
    · simp [h]
    · split <;> simp [h]

@[simp] theorem wf_execExportWindow (s : State) (m : HostMsg) (h : Memory.wf s.mem = true) : wfNext (execExportWindow m s) := by
  rw [execExportWindow]
  refine wf_serve ?_ h
  dsimp only
  split
  · simp [h]
  · split <;> simp [h]

@[simp] theorem wf_execWithdrawWindow (s : State) (m : HostMsg) (h : Memory.wf s.mem = true) :
    wfNext (execWithdrawWindow m s) :=
  by
  rw [execWithdrawWindow]
  refine wf_serve ?_ h
  dsimp only
  split <;> simp [h]

/-! ### The loader -/

theorem wf_of_newTable {s : State} {ctx : Nat} {r : State × Nat} (hr : s.newTable ctx = some r) (h : Memory.wf s.mem = true) :
    Memory.wf r.1.mem = true := by
  obtain ⟨p, -, rfl⟩ := Option.map_eq_some_iff.1 hr
  exact wf_zeroRange _ _ _ (by simp [h])

theorem wf_of_tableVia {s : State} {ctx a : Nat} {r : State × Nat} (hr : s.tableVia ctx a = some r) (h : Memory.wf s.mem = true) :
    Memory.wf r.1.mem = true := by
  rw [State.tableVia] at hr
  split at hr
  · cases hr
  · split at hr
    · cases hr; exact h
    · split at hr
      · cases hr
      · obtain ⟨p, hp, rfl⟩ := Option.map_eq_some_iff.1 hr
        exact wf_memWrite _ _ _ _ (wf_of_newTable hp h)

theorem wf_of_putLeaf {s : State} {ctx va e : Nat} {t : State} (ht : s.putLeaf ctx va e = some t) (h : Memory.wf s.mem = true) :
    Memory.wf t.mem = true := by
  rw [State.putLeaf] at ht
  split at ht
  · cases ht
  · split at ht
    · cases ht
    next hu =>
      obtain ⟨p, hp, rfl⟩ := Option.map_eq_some_iff.1 ht
      exact wf_memWrite _ _ _ _ (wf_of_tableVia hp (wf_of_tableVia hu h))

theorem wf_of_mapFresh {s : State} {ctx va perm : Nat} {u : FrameUse} {r : State × Nat} (hr : s.mapFresh ctx va perm u = some r)
    (h : Memory.wf s.mem = true) : Memory.wf r.1.mem = true := by
  rw [State.mapFresh] at hr
  split at hr
  next v n hv =>
    obtain ⟨f, -, hf⟩ := Option.bind_eq_some_iff.1 hr
    obtain ⟨w, hw, rfl⟩ := Option.map_eq_some_iff.1 hf
    exact wf_of_putLeaf hw (wf_zeroRange _ _ _ ((mem_of_takeFrames hv).symm ▸ h))
  · cases hr

@[simp] theorem wf_fillPages (s : State) (va : Nat) (x : List Byte) (frames : List Nat) (h : Memory.wf s.mem = true) :
    Memory.wf (s.fillPages va x frames).mem = true := wf_foldl (fun _ _ hu => wf_memWrite _ _ _ _ hu) _ _ h

theorem wf_of_mapSection {s : State} {ctx : Nat} {x : Section} {base : Nat} {bytes : List Byte} {r : State × List Nat}
    (hr : s.mapSection ctx x base bytes = some r) (h : Memory.wf s.mem = true) : Memory.wf r.1.mem = true := by
  obtain ⟨y, hy, rfl⟩ := Option.map_eq_some_iff.1 hr
  refine wf_fillPages _ _ _ _ (foldl_bind_keeps (P := fun v : State × List Nat => Memory.wf v.1.mem = true)
    (fun v p w hv hw => ?_) _ (fun v hv => by cases hv; exact h) hy)
  obtain ⟨z, hz, rfl⟩ := Option.map_eq_some_iff.1 hw
  exact wf_of_mapFresh hz hv

theorem wf_of_mapSections {s : State} {ctx : Nat} {b : List Byte} {bases : List Nat} {r : State × List Nat}
    (hr : s.mapSections ctx b bases = some r) (h : Memory.wf s.mem = true) : Memory.wf r.1.mem = true := by
  refine foldl_bind_keeps (P := fun v : State × List Nat => Memory.wf v.1.mem = true) (fun v p w hv hw => ?_) _
    (fun v hv => by cases hv; exact h) hr
  obtain ⟨z, hz, rfl⟩ := Option.map_eq_some_iff.1 hw
  have hwf : Memory.wf z.1.mem = true := wf_of_mapSection (s := v.1) hz hv
  exact hwf

@[simp] theorem recordObject_mem (s : State) (ctx : Nat) (handle : Nat) (b : List Byte) (bases : List Nat) (frames : List Nat) :
    (s.recordObject ctx handle b bases frames).mem = s.mem :=
  rfl

@[simp] theorem wf_loadBytes (s : State) (ctx : Nat) (b : List Byte) (ask : List Nat) (h : Memory.wf s.mem = true) :
    Memory.wf (s.loadBytes ctx b ask).1.mem = true := by
  rw [State.loadBytes]
  split
  · exact h
  · split
    · exact h
    · split
      · exact h
      · split
        · exact h
        · split
          · exact h
          · split
            · exact h
            next ht =>
              split
              · exact h
              · simp [wf_of_mapSections ht h]

@[simp] theorem wf_execLoadObject (s : State) (m : HostMsg) (h : Memory.wf s.mem = true) : wfNext (execLoadObject m s) := by
  rw [execLoadObject]
  dsimp only
  refine wf_serve ?_ h
  split
  · simp [h]
  · split
    · simp
    · split
      · simp [h]
      · split <;> simp [h]

@[simp] theorem wf_unmapPage (s : State) (ctx : Nat) (va : Nat) (h : Memory.wf s.mem = true) :
    Memory.wf (s.unmapPage ctx va).mem = true := by
  rw [State.unmapPage]
  split <;> simp [h]

@[simp] theorem wf_execUnload (s : State) (m : HostMsg) (h : Memory.wf s.mem = true) : wfNext (execUnload m s) := by
  rw [execUnload]
  refine wf_serve ?_ h
  dsimp only
  split
  · simp [h]
  · split
    · simp [h]
    next o _ =>
      have hwf : Memory.wf (o.pages.foldl (fun s p => s.unmapPage m.ctx p) s).mem = true :=
        wf_foldl (fun u p hu => wf_unmapPage _ _ _ hu) _ _ h
      split <;> simp [hwf]

theorem wf_hsRequest {s : State} {m : HostMsg} {mine : Bool} {f : State → Option State}
    (hf : wfSome (f s)) (h : Memory.wf s.mem = true) : wfNext (s.hsRequest m mine f) := by
  rw [State.hsRequest]
  split
  · exact wf_serve hf h
  · exact h

@[simp] theorem wf_execHsQuery (s : State) (m : HostMsg) (h : Memory.wf s.mem = true) : wfNext (execHsQuery m s) := by
  rw [execHsQuery]
  refine wf_hsRequest ?_ h
  dsimp only
  split
  · simp [h]
  · split <;> simp [h]

@[simp] theorem wf_execHsPermissions (s : State) (m : HostMsg) (h : Memory.wf s.mem = true) : wfNext (execHsPermissions m s) := by
  rw [execHsPermissions]
  refine wf_hsRequest ?_ h
  dsimp only
  split
  · simp [h]
  · split
    · simp
    · split
      · simp [h]
      · split
        next t ht =>
          simp [foldl_bind_keeps (P := fun u : State => Memory.wf u.mem = true) (fun u p v hu hv => wf_of_setPerm hv hu) _
            (fun u hu => Option.some.inj hu ▸ h) ht]
        · simp [h]

theorem wf_of_mapShared {s : State} {ctx va perm p : Nat} {t : State} (ht : s.mapShared ctx va perm p = some t)
    (h : Memory.wf s.mem = true) : Memory.wf t.mem = true := by
  rw [State.mapShared] at ht
  split at ht
  · cases ht
  · exact wf_of_putLeaf ht (by simp [h])

@[simp] theorem wf_execHsMap (s : State) (m : HostMsg) (h : Memory.wf s.mem = true) : wfNext (execHsMap m s) := by
  rw [execHsMap]
  refine wf_hsRequest ?_ h
  extract_lets va len arg perm host n region bad ps map
  have hmap : ∀ u p v, Memory.wf u.mem = true → map u p = some v → Memory.wf v.mem = true := fun u p v hu hv => by
    dsimp only [map] at hv
    split at hv
    · exact wf_of_putLeaf hv hu
    · exact wf_of_mapShared hv hu
  clear_value bad map
  split
  · simp [h]
  · split
    · simp [h]
    · split
      · simp
      · split
        · simp [h]
        · split
          next t ht =>
            have hwf : Memory.wf t.mem = true := foldl_bind_keeps (P := fun u : State => Memory.wf u.mem = true) hmap _
                (fun u hu => Option.some.inj hu ▸ h) ht
            simp [hwf]
          · simp [h]

@[simp] theorem wf_execHsHostRegion (s : State) (m : HostMsg) (h : Memory.wf s.mem = true) : wfNext (execHsHostRegion m s) := by
  rw [execHsHostRegion]
  refine wf_hsRequest ?_ h
  dsimp only
  split
  · simp [h]
  · split <;> simp [h]

/-! ### Management -/

@[simp] theorem setGroup_mem (s : State) (ctx : Nat) (n : Nat) (e : Nat) (members : List Nat) :
    (s.setGroup ctx n e members).mem = s.mem :=
  rfl

@[simp] theorem confirm_mem (s : State) (ctx : Nat) (n : Nat) (e : Nat) : (s.confirm ctx n e).1.mem = s.mem := by
  simp only [State.confirm]
  (repeat' split) <;> simp

@[simp] theorem setGroupHere_mem (s : State) (m : HostMsg) (reply : GroupReply) : (s.setGroupHere m reply).mem = s.mem := by
  simp only [State.setGroupHere]
  (repeat' split) <;> simp

@[simp] theorem wf_execSetGroupEntry (s : State) (m : HostMsg) (call : GroupCall) (h : Memory.wf s.mem = true) :
    wfNext (execSetGroupEntry m call s) := by
  cases call with
  | host reply =>
    rw [execSetGroupEntry]
    split
    · simp [h]
    · refine wf_serve ?_ h
      split <;> simp [h]
  | member tag l =>
    rw [execSetGroupEntry]
    dsimp only
    split
    · exact h
    · split
      · exact h
      · split <;> simp [h]

@[simp] theorem dropArrivals_mem (s : State) (ctx b : Nat) : (s.dropArrivals ctx b).mem = s.mem := by
  refine foldl_mem (fun u id => ?_) _ _
  split <;> simp

@[simp] theorem wf_execBindDomainBarrier (s : State) (m : HostMsg) (h : Memory.wf s.mem = true) :
    wfNext (execBindDomainBarrier m s) :=
  by
  rw [execBindDomainBarrier]
  refine wf_serve ?_ h
  split
  · simp [h]
  · split <;> simp [h]

@[simp] theorem wf_execAttestationReport (s : State) (m : HostMsg) (h : Memory.wf s.mem = true) :
    wfNext (execAttestationReport m s) :=
  by
  rw [execAttestationReport]
  refine wf_serve ?_ h
  dsimp only
  split
  · simp [h]
  · split <;> simp [h]

theorem wf_command {s : State} {m : HostMsg} {mine : Bool} {lo hi : Nat} {f : State → Nat → Option State}
    (hf : ∀ v, wfSome (f s v)) (h : Memory.wf s.mem = true) : wfNext (s.command m mine lo hi f) := by
  rw [State.command]
  split
  · exact h
  · refine wf_serve (fun t ht => ?_) h
    split at ht
    · cases ht; simp [h]
    · split at ht
      · cases ht; simp [h]
      · exact hf _ _ ht

@[simp] theorem wf_execFuseCounterAdvance (s : State) (m : HostMsg) (h : Memory.wf s.mem = true) :
    wfNext (execFuseCounterAdvance m s) :=
  by
  rw [execFuseCounterAdvance]
  refine wf_command (fun v => ?_) h
  split
  · simp [h]
  · split <;> simp [h]

@[simp] theorem wf_execKeySlotRevocation (s : State) (m : HostMsg) (h : Memory.wf s.mem = true) :
    wfNext (execKeySlotRevocation m s) :=
  by
  rw [execKeySlotRevocation]
  exact wf_command (fun v => by simp [h]) h

@[simp] theorem wiped_mem (s : State) : s.wiped.mem = [] := rfl

@[simp] theorem wf_execLifeCycleChange (s : State) (m : HostMsg) (h : Memory.wf s.mem = true) :
    wfNext (execLifeCycleChange m s) :=
  by
  rw [execLifeCycleChange]
  split
  · exact h
  · split
    · split
      · exact h
      · simp
    · refine wf_command (fun v => ?_) h
      split
      · simp [h]
      · exact (wfSome_some _).2 (wf_foldl (fun u c hu => wf_stopCtx _ _ _ hu) _ _ h)

@[simp] theorem wf_execReadTelemetry (s : State) (m : HostMsg) (h : Memory.wf s.mem = true) : wfNext (execReadTelemetry m s) := by
  rw [execReadTelemetry]
  exact wf_serve (by simp [h]) h

@[simp] theorem wf_execTelemetryRefresh (s : State) (t : List Telemetry) (h : Memory.wf s.mem = true) :
    wfNext (execTelemetryRefresh t s) :=
  h

@[simp] theorem countLinks_mem (s : State) : s.countLinks.mem = s.mem := foldl_mem (fun _ _ => count_mem ..) _ _

@[simp] theorem wf_execReadCounters (s : State) (m : HostMsg) (h : Memory.wf s.mem = true) : wfNext (execReadCounters m s) := by
  rw [execReadCounters]
  exact wf_serve (by simp [h]) h

@[simp] theorem wf_execReadErrorLog (s : State) (m : HostMsg) (h : Memory.wf s.mem = true) : wfNext (execReadErrorLog m s) := by
  rw [execReadErrorLog]
  exact wf_serve (by simp [h]) h

@[simp] theorem wf_answered (s : State) (seq : Nat) (a : Ask) (n : Nat) (h : Memory.wf s.mem = true) :
    Memory.wf (s.answered seq a n).1.mem = true := by
  simp only [State.answered]
  (repeat' split) <;> simp [h]

@[simp] theorem wf_execAgentAnswer (s : State) (m : HostMsg) (h : Memory.wf s.mem = true) : wfNext (execAgentAnswer m s) := by
  rw [execAgentAnswer]
  dsimp only
  split
  · simp only [wfNext_next]
    split
    · split <;> simp [h]
    · exact h
  · refine wf_serve (fun t ht => ?_) h
    cases ht
    rw [respond_mem]
    split
    · split <;> simp [h]
    · exact h

@[simp] theorem restart_mem (s : State) : s.restart.mem = [] := rfl

@[simp] theorem wf_execPackageReset (s : State) (_h : Memory.wf s.mem = true) : wfNext (execPackageReset s) := by
  simp [execPackageReset]

@[simp] theorem wf_execWipeComplete (s : State) (h : Memory.wf s.mem = true) : wfNext (execWipeComplete s) := by
  simp [execWipeComplete, h]

@[simp] theorem wf_execRailLimitEvent (s : State) (item : Nat) (value : Int) (h : Memory.wf s.mem = true) :
    wfNext (execRailLimitEvent item value s) := by
  simp [execRailLimitEvent, h]

@[simp] theorem wf_execTripLimit (s : State) (item : Nat) (value : Int) (h : Memory.wf s.mem = true) :
    wfNext (execTripLimit item value s) := by
  rw [execTripLimit]
  split <;> simp [h]

@[simp] theorem wf_execIdleInsertion (s : State) (die : Nat) (h : Memory.wf s.mem = true) : wfNext (execIdleInsertion die s) := by
  simp [execIdleInsertion, h]

@[simp] theorem wf_poisonPlace (s : State) (p : ErrorPlace) (h : Memory.wf s.mem = true) :
    Memory.wf (s.poisonPlace p).mem = true :=
  by
  cases p <;> exact h

@[simp] theorem wf_execScrub (s : State) (place : ErrorPlace) (corrected : Bool) (h : Memory.wf s.mem = true) :
    wfNext (execScrub place corrected s) := by
  simp [execScrub, h]

@[simp] theorem wf_execUncorrectableStateError (s : State) (grid : Nat) (die : Nat) (part : Nat) (h : Memory.wf s.mem = true) :
    wfNext (execUncorrectableStateError grid die part s) := by
  simp [execUncorrectableStateError, h]

/-! ### The scheduler -/

@[simp] theorem wf_execSlotUrgency (s : State) (crs : Nat) (slot : Nat) (h : Memory.wf s.mem = true) :
    wfNext (execSlotUrgency crs slot s) := by
  simp [execSlotUrgency, h]

@[simp] theorem wf_execYieldWindowEnd (s : State) (crs : Nat) (slot : Nat) (h : Memory.wf s.mem = true) :
    wfNext (execYieldWindowEnd crs slot s) := by
  simp [execYieldWindowEnd, h]

@[simp] theorem wf_execUnitOccupancyEnd (s : State) (core : Nat) (bay : Nat) (bu : BayUnit) (h : Memory.wf s.mem = true) :
    wfNext (execUnitOccupancyEnd core bay bu s) :=
  h

/-! ### Turns -/

@[simp] theorem touchLine_mem (s : State) (core : Nat) (l : ILine) : (s.touchLine core l).mem = s.mem := rfl

@[simp] theorem badLine_mem (s : State) (crs : Nat) (j : Nat) (l : ILine) : (s.badLine crs j l).mem = s.mem := rfl

@[simp] theorem undecoded_mem (s : State) (w : BitVec 64) : (s.undecoded w).mem = s.mem := rfl

@[simp] theorem fallback_mem (s : State) : (s.fallback).mem = s.mem := rfl

@[simp] theorem tick_mem (s : State) : s.tick.mem = s.mem := rfl

theorem wf_tick (s : State) (h : Memory.wf s.mem = true) : Memory.wf s.tick.mem = true := h

@[simp] theorem wf_bump {o : Out} (ho : wfNext o) : wfNext (bump o) := by
  cases o with
  | next t => exact ho
  | fault r => trivial
  | refused r => trivial

/-! ### The step -/

/-- Every instruction and every event keeps the canonical form. -/
theorem wf_exec (i : Instr) {s : State} (h : Memory.wf s.mem = true) : wfNext (exec i s) := by
  cases i <;> simp [exec, h]

section
variable {s : State} (h : Memory.wf s.mem = true)
include h

theorem wf_issueSecond (i : Instr) (l : ILine) : wfNext (s.issueSecond i l) := by
  rw [State.issueSecond]
  have hexec := wf_exec i (s := { s with cur := { s.cur with second := true } }.onCourse s.cur.crs (fun c =>
    { c with nextIssue := s.clock })) (by simp [h])
  split
  next t ht =>
    rw [ht] at hexec
    split
    · simpa [State.fallback] using h
    · dsimp only
      split <;> simpa using hexec
  · exact hexec

theorem wf_issuePair (i : Instr) : wfNext (s.issuePair i) := by
  have hexec := wf_exec i h
  rw [State.issuePair]
  split
  next t ht =>
    have hwf : Memory.wf t.mem = true := by rwa [ht] at hexec
    dsimp only
    split
    · exact hwf
    · split
      · simpa [State.fallback] using hwf
      · split
        · exact wf_issueSecond hwf _ _
        · exact hwf
  · exact hexec

theorem wf_issueWord (i : Instr) : wfNext (s.issueWord i) := by
  rw [State.issueWord]
  split
  · exact wf_issuePair h i
  · exact wf_exec i h

theorem wf_slotTurn (crs j : Nat) : wfNext (s.slotTurn crs j) := by
  rw [State.slotTurn]
  dsimp only
  split
  · simp [h]
  · split
    · exact h
    · split
      · simp [h]
      · split
        · simp [h]
        · exact wf_issueWord (by simp [h]) _

theorem wf_bayTurn {core bay : Nat} {o : Out} (ho : s.bayTurn core bay = some o) : wfNext o := by
  obtain ⟨e, -, rfl⟩ := Option.map_eq_some_iff.1 ho
  exact wf_slotTurn h _ _

theorem wf_turn (t : Turn) : wfNext (s.turn t) := by
  cases t with
  | event i =>
    rw [State.turn]
    split
    · exact h
    · exact wf_exec i h
  | bay core bay =>
    rw [State.turn]
    cases hb : s.bayTurn core bay with
    | none => exact h
    | some o => exact wf_bayTurn h hb
  | tick => exact h
end

/-- A step of a part of the package keeps the canonical form. -/
def KeepsMemory (f : Move) : Prop := ∀ u : State, Memory.wf u.mem = true → wfNext (f u)

/-- Every step of a list does. -/
def AllKeepMemory (l : List Move) : Prop := ∀ f ∈ l, KeepsMemory f

section
variable {α : Type} {l k : List Move} {f : Move}
@[simp] theorem allKeepMemory_nil : AllKeepMemory [] := nofun
@[simp] theorem allKeepMemory_cons : AllKeepMemory (f :: l) ↔ KeepsMemory f ∧ AllKeepMemory l := List.forall_mem_cons
@[simp] theorem allKeepMemory_append : AllKeepMemory (l ++ k) ↔ AllKeepMemory l ∧ AllKeepMemory k := List.forall_mem_append
@[simp] theorem allKeepMemory_map {as : List α} {g : α → Move} : AllKeepMemory (as.map g) ↔ ∀ a ∈ as, KeepsMemory (g a) :=
  List.forall_mem_map
@[simp] theorem allKeepMemory_flatMap {as : List α} {g : α → List Move} :
    AllKeepMemory (as.flatMap g) ↔ ∀ a ∈ as, AllKeepMemory (g a) :=
  List.forall_mem_flatMap
@[simp] theorem allKeepMemory_ite {c : Prop} [Decidable c] : AllKeepMemory (if c then l else k) ↔ if c then AllKeepMemory l else AllKeepMemory k :=
  iff_of_eq (apply_ite ..)
end

section
variable (s : State)

@[simp] theorem allKeepMemory_slotEvents (crs j : Nat) (y : Slot) : AllKeepMemory (s.slotEvents crs j y) := by
  rw [State.slotEvents]
  split <;> simp +contextual [KeepsMemory]

@[simp] theorem allKeepMemory_courseEvents (crs : Nat) (c : Course) : AllKeepMemory (s.courseEvents crs c) := by
  simp +contextual [State.courseEvents, KeepsMemory]

@[simp] theorem allKeepMemory_coreEvents (core : Nat) (k : Core) : AllKeepMemory (coreEvents core k) := by
  simp +contextual [coreEvents, KeepsMemory]

@[simp] theorem allKeepMemory_teamEvents (h : Nat) (t : Team) : AllKeepMemory (s.teamEvents h t) := by
  simp +contextual [State.teamEvents, KeepsMemory]

@[simp] theorem allKeepMemory_netEvents (m : NetMsg) : AllKeepMemory (s.netEvents m) := by
  cases m with
  | packet p =>
    rw [State.netEvents]
    split
    · simp
    · split <;> simp +contextual [KeepsMemory]
  | refusal r =>
    rw [State.netEvents]
    split <;> simp +contextual [KeepsMemory]
  | _ => simp +contextual [State.netEvents, KeepsMemory]

@[simp] theorem allKeepMemory_sliceEvents : AllKeepMemory s.sliceEvents := by
  simp only [State.sliceEvents, allKeepMemory_append, allKeepMemory_flatMap]
  refine ⟨⟨fun e _ => ⟨?_, ?_⟩, fun e _ => ?_⟩, fun e _ => ?_⟩
  · split <;> simp +contextual [KeepsMemory]
  all_goals simp +contextual [KeepsMemory]

@[simp] theorem allKeepMemory_fabricEvents : AllKeepMemory s.fabricEvents := by
  simp +contextual [State.fabricEvents, KeepsMemory]

@[simp] theorem allKeepMemory_startEvents (qn : Nat) : AllKeepMemory (s.startEvents qn) := by
  simp +contextual [State.startEvents, KeepsMemory]

@[simp] theorem allKeepMemory_queueEvents (qn : Nat) : AllKeepMemory (queueEvents qn) := by
  simp +contextual [queueEvents, KeepsMemory]

@[simp] theorem allKeepMemory_restoreEvents (h : Nat) (t : Team) : AllKeepMemory (s.restoreEvents h t) := by
  rw [State.restoreEvents]
  split <;> simp +contextual [KeepsMemory]

@[simp] theorem allKeepMemory_busyEvents (m : HostMsg) : AllKeepMemory (busyEvents m) := by
  simp +contextual [busyEvents, KeepsMemory]

theorem allKeepMemory_waitingEvents : AllKeepMemory s.waitingEvents := by
  simp only [State.waitingEvents, allKeepMemory_append]
  refine ⟨⟨?_, ?_⟩, ?_⟩
  · simp +contextual [KeepsMemory]
  · split <;> simp
  · simp +contextual [KeepsMemory]

theorem eq_some_of_orElse {α : Type} {o : Option α} {k : Unit → Option α} {a : α} (h : o.orElse k = some a) :
    o = some a ∨ k () = some a := by
  cases o with
  | none => exact .inr h
  | some b => exact .inl h

theorem keepsMemory_of_due {f : Move} (hf : s.due = some f) : KeepsMemory f := fun u hu => by
  obtain hf | hf := eq_some_of_orElse hf
  · obtain ⟨e, -, he⟩ := List.exists_of_findSome?_eq_some hf
    split at he <;> cases he
    exact wf_execFixedAluWriteback _ _ hu
  · obtain hf | hf := eq_some_of_orElse hf
    · obtain ⟨e, -, he⟩ := List.exists_of_findSome?_eq_some hf
      obtain ⟨j, -, rfl⟩ := Option.map_eq_some_iff.1 he
      exact wf_execSlotUrgency _ _ _ hu
    · obtain ⟨e, -, he⟩ := List.exists_of_findSome?_eq_some hf
      split at he <;> cases he
      exact wf_execTicketExpiry _ _ hu
end

section
variable {s : State} (h : Memory.wf s.mem = true)
include h

theorem wf_internal {o : Out} (ho : s.internal = some o) : wfNext o := by
  obtain ⟨f, hf, hfo⟩ := List.exists_of_findSome?_eq_some ho
  have hwf := allKeepMemory_waitingEvents s f hf s h
  split at hfo
  next t ht =>
    split at hfo <;> cases hfo
    rwa [ht] at hwf
  · cases hfo
    exact hwf

theorem wf_ownTurn : wfNext s.ownTurn := by
  rw [State.ownTurn]
  split
  next o ho =>
    obtain ⟨e, -, he⟩ := List.exists_of_findSome?_eq_some ho
    exact wf_bayTurn h he
  · split
    next o ho => exact wf_internal h ho
    · exact h

theorem wf_advanceOne : wfNext s.advanceOne := by
  rw [State.advanceOne]
  split
  next f hf => exact keepsMemory_of_due s hf s h
  · split
    next t rest _ => exact wf_turn (s := { s with agenda := rest }) h t
    · exact wf_ownTurn h

theorem wf_step : wfNext (step s) := by
  have hwf := wf_advanceOne h
  rw [step]
  cases hs : s.advanceOne with
  | next t => rwa [hs] at hwf
  | fault f => trivial
  | refused r => trivial
end

/-- Settles O59: every write of main memory keeps the form, and every step changes memory by such writes only. -/
theorem stepKeepsMemory : Obligations.StepKeepsMemory := by
  unfold Obligations.StepKeepsMemory
  intro s t h ht
  have hwf := wf_step h
  rwa [ht] at hwf

end Sys2Proof.Machine

namespace Sys2Proof.Machine
/-! # Entering and leaving supervisor mode (R439, R446) -/

/-- The course in supervisor mode after its slot j has taken the trap t. -/
def Course.enter (c : Course) (j : Nat) (t : TrapRec) (handler : Nat) : Course :=
  ({ c with sup := some ⟨t, j, (c.slotN j).mask, [], t.bank⟩, reenter := none } : Course).setSlot j
    { c.slotN j with pc := handler, mask := t.mask &&& c.live, wait := .none, urgent := false }

section
variable {s : State} {crs j n : Nat} {t : TrapRec}

theorem takeTrap_enters (hsup : t.inSup = false) (hh : (s.gridOf (s.course crs).team).lr.handler ≠ 0)
    (hesc : ¬ (t.code = 0x06 ∧ (s.context (s.ctxOf (s.course crs))).duty.testBit 1 = true))
    (hbank : (s.core (s.course crs).core).bank = none) (hout : (s.course crs).sup = none)
    (hre : ∀ k, (s.course crs).reenter = some k → k = j) (hahead : s.trapAhead (s.course crs).core n = false) :
    s.takeTrap crs j t n = (s.setCourse crs ((s.course crs).enter j t (s.gridOf (s.course crs).team).lr.handler)).onCore
      (s.course crs).core (fun k => { k with bank := some crs }) := by
  have hbar : (s.course crs).notBarred j = true := by
    simp only [Course.notBarred, hout, Option.all_none, Bool.true_and, Option.all_eq_true, beq_iff_eq]
    exact fun k hk => hre k hk
  rw [State.takeTrap]
  refine (if_neg (by simp [hsup])).trans ((if_neg hesc).trans ((if_neg hh).trans ((if_neg ?_).trans ?_)))
  · simp [hbank, hout, hbar, hahead]
  · simp only [Course.setSlot_core]
    rfl
end

section
variable (c : Course) (j : Nat) (t : TrapRec) (handler : Nat)

theorem Course.enter_slot : (c.enter j t handler).slotN j =
    { c.slotN j with pc := handler, mask := t.mask &&& c.live, wait := .none, urgent := false } :=
  Course.slotN_setSlot_same ..

theorem Course.enter_other (hj : j < 2) : (c.enter j t handler).slotN (1 - j) = c.slotN (1 - j) := by
  rw [Course.enter, Course.slotN_setSlot _ _ _ _ hj (by omega), if_neg (by omega)]
  rfl

@[simp] theorem Course.enter_sup : (c.enter j t handler).sup = some ⟨t, j, (c.slotN j).mask, [], t.bank⟩ :=
  Course.setSlot_sup ..

theorem Course.enter_laneCell (n L : Nat) (sup : Bool) :
    (c.enter j t handler).laneCell sup n L = if sup then {} else c.laneCell false n L := by
  cases sup <;> simp [Course.laneCell, Course.laneFile, Course.enter, Tab.get_eq_find, Tab.find]

/-- HS0 to HS9 hold the record, and the other HS registers zero (R439). -/
theorem Course.enter_unifCell (n : Nat) (sup : Bool) :
    (c.enter j t handler).unifCell sup n = if sup then Tab.get {} t.bank n else c.unifCell false n := by
  cases sup <;> simp [Course.unifCell, Course.unifFile, Course.enter]

theorem TrapRec.bank_past {n : Nat} (hn : 10 ≤ n) : Tab.get {} t.bank n = ({} : SCell) := by
  have hnone : Tab.find t.bank n = none := Tab.find_none_of _ _ fun e he hen => by
    simp only [TrapRec.bank, List.mem_cons, List.not_mem_nil, or_false] at he
    obtain rfl | rfl | rfl | rfl | rfl | rfl | rfl | rfl | rfl | rfl := he <;> dsimp only at hen <;> omega
  rw [Tab.get_eq_find, hnone]
  rfl

end

/-- Settles O19: the course that the rules give replaces the course, and the core's bank is its own. -/
theorem handlerEntry : Obligations.HandlerEntry := by
  unfold Obligations.HandlerEntry
  intro s crs j t n hj hw hr hsup hh hesc hbank hout hre hahead
  refine ⟨_, (exec_handlerEntry_trap hw hr).trans (congrArg _ (takeTrap_enters hsup hh hesc hbank hout hre hahead)), ?_⟩
  simp only [onCore_mem, setCourse_mem, core_onCore_same, course_onCore, course_setCourse, if_true, Course.enter_slot, Course.enter_other,
    Course.enter_sup, Course.enter_laneCell, Course.enter_unifCell, hj]
  exact ⟨trivial, trivial, trivial, trivial, trivial, ⟨_, rfl, rfl, rfl, rfl⟩, fun _ _ => trivial, rfl, rfl, rfl, rfl, rfl, rfl, rfl, rfl, rfl, rfl,
    fun _ hn => TrapRec.bank_past _ hn, fun _ _ => rfl, fun _ => rfl, Course.setSlot_flg .., Course.setSlot_ctl .., trivial,
    fun h hne => if_neg (Ne.symm hne)⟩

/-! ## Leaving (R446) -/

/-- The course out of supervisor mode, its trapped slot at pc. -/
def Course.leave (c : Course) (u : Sup) (pc : Nat) : Course :=
  c.leaveBank.setSlot u.slot { c.slotN u.slot with pc := pc, mask := u.slotMask &&& c.live, wait := .none }

section
variable (c : Course) (u : Sup) (pc : Nat)

theorem Course.leave_slot : (c.leave u pc).slotN u.slot =
    { c.slotN u.slot with pc := pc, mask := u.slotMask &&& c.live, wait := .none } :=
  Course.slotN_setSlot_same ..

theorem Course.leave_sup : (c.leave u pc).sup = none := Course.setSlot_sup ..

theorem Course.leave_laneCell (n L : Nat) : (c.leave u pc).laneCell false n L = c.laneCell false n L  := by
  simp [Course.laneCell, Course.laneFile, Course.leave, Course.leaveBank]

theorem Course.leave_unifCell (n : Nat) : (c.leave u pc).unifCell false n = c.unifCell false n  := by
  simp [Course.unifCell, Course.unifFile, Course.leave, Course.leaveBank]

end

section
variable {s : State} {crs j : Nat} {t : TrapRec} {u : Sup}

theorem leaveSup_leaves (pc : Nat) (hu : (s.course crs).sup = some u) :
    s.leaveSup crs pc = (s.setCourse crs ((s.course crs).leave u pc)).onCore (s.course crs).core (fun k =>
      { k with bank := if k.bank = some crs then none else k.bank }) := by
  simp only [State.leaveSup, hu, Course.setSlot_core]
  rfl

/-- The agent that does not take the trap lets the grid abort. -/
theorem execEscalationAnswer_no (hw : ((s.course crs).slotN j).wait = .escalated t (some false)) :
    exec (.escalationAnswer crs j) s = .next (s.abortGrid (s.team (s.course crs).team).grid (0x0100 + t.code) (some t)) := by
  show execEscalationAnswer crs j s = _
  simp [execEscalationAnswer, hw]

theorem execEscalationAnswer_yes (hw : ((s.course crs).slotN j).wait = .escalated t (some true))
    (hr : s.running (s.course crs) = true) :
    exec (.escalationAnswer crs j) s = if (s.course crs).sup.any (fun u => u.slot == j) then .next (s.sretTo crs)
      else .next (s.onCourse crs (fun c => c.onSlot j (fun y => { y with wait := .none }))) := by
  show execEscalationAnswer crs j s = _
  simp [execEscalationAnswer, hw, hr]

theorem sretTo_leaves (hu : (s.course crs).sup = some u) (hal : u.trap.resume % 8 = 0) (hlim : u.trap.resume < 2 ^ 52) :
    s.sretTo crs = s.leaveSup crs u.trap.resume := by
  have hlim : ¬ Config.addrLimit ≤ u.trap.resume := Nat.not_le.2 hlim
  simp [State.sretTo, hu, hal, hlim]

end

theorem escalationsEnd_holds : escalationsEnd := by
  refine ⟨fun s crs j t hw => execEscalationAnswer_no hw, fun s crs j t hw hr hne => ?_, fun s crs j t u hw hr hu hj hal hlim => ?_⟩
  · refine (execEscalationAnswer_yes hw hr).trans (if_neg ?_)
    simpa [Option.any_eq_true] using hne
  · refine (execEscalationAnswer_yes hw hr).trans ((if_pos (by simp [hu, hj])).trans ?_)
    rw [sretTo_leaves hu hal hlim]

/-- Settles O22: the course that has left replaces the course, and gives the bank back. -/
theorem leavingSupervisorMode : Obligations.LeavingSupervisorMode := by
  refine ⟨escalationsEnd_holds, fun s crs pc u hu hj hbank => ?_⟩
  intro t
  rw [show t = _ from leaveSup_leaves pc hu]
  simp only [onCore_mem, setCourse_mem, core_onCore_same, core_setCourse, course_onCore, course_setCourse, if_true, hbank]
  exact ⟨Course.leave_sup .., congrArg Slot.pc (Course.leave_slot ..), congrArg Slot.mask (Course.leave_slot ..),
    congrArg Slot.wait (Course.leave_slot ..), trivial, Course.leave_laneCell _ _ _, Course.leave_unifCell _ _ _, trivial,
    fun h hne => if_neg (Ne.symm hne)⟩
end Sys2Proof.Machine

namespace Sys2Proof.Machine
/-! # Barriers (R335, R363–R367) -/

section
variable (r : RWord)

/-- The barrier register that a barrier word names, of the course's team. -/
abbrev namedBar (s : State) (x : Ctx) : Barrier := s.bar (s.issuer x).team r.a.field.toNat

/-- The barrier register after the arrivals of an ARRIVE, with the mark that it leaves. -/
def arrivedBar (s : State) (x : Ctx) : Barrier :=
  { (namedBar r s x).arrive (s.usrc x r.b) with
    marks := (namedBar r s x).marks.filter (fun m => (s.course m.2.1).sharedPend m.2.2 (some (s.issuer x).team)) ++
      [((namedBar r s x).phase, x.crs, (s.issuer x).nextPend)] }

/-- What BARINIT comes to. -/
def barinitRes (s : State) (x : Ctx) : Res :=
  if x.act = 0#32 then .go s
  else if s.usrc x r.b = 0 || 4095 < s.usrc x r.b then .trap x.illegalOperand
  else .go (s.setBar (s.issuer x).team r.a.field.toNat { namedBar r s x with exp := s.usrc x r.b, pend := s.usrc x r.b })

/-- What ARRIVE comes to. -/
def arriveRes (ph : Bool) (s : State) (x : Ctx) : Res :=
  let t := s.setBar (s.issuer x).team r.a.field.toNat (arrivedBar r s x)
  if x.act = 0#32 then .go s
  else if s.usrc x r.b = 0 || 4095 < s.usrc x r.b || (namedBar r s x).exp = 0 then .trap x.illegalOperand
  else if ph then t.deliverU x r.d.toNat 1 (namedBar r s x).phase else .go t

/-- What BWAIT comes to. -/
def bwaitRes (s : State) (x : Ctx) : Res :=
  let P := s.usrc x r.b % 2 ^ 16
  if x.act = 0#32 then .go s
  else if (namedBar r s x).passed P then .go (s.passBar x.crs (s.bwaitFences (s.issuer x).team r.a.field.toNat P))
  else .wait s (.bwait r.a.field.toNat P)

theorem exec_barinit (s : State) : exec (.barinit r) s = s.issue (.barinit r) r.head (barinitRes r s) := rfl
theorem exec_arrive (ph : Bool) (s : State) : exec (.arrive r ph) s = s.issue (.arrive r ph) r.head (arriveRes r ph s) := rfl
theorem exec_bwait (s : State) : exec (.bwait r) s = s.issue (.bwait r) r.head (bwaitRes r s) := rfl

theorem barinit_idle : DoesIf (.barinit r) r.head (fun _ x => x.act = 0#32) (fun s x => s.went x) :=
  doesIf_of (r := fun s _ => .go s) (exec_barinit r) (fun _ _ hact => if_pos hact)

theorem barinit_sets : DoesIf (.barinit r) r.head (fun s x => x.act ≠ 0#32 ∧ 1 ≤ s.usrc x r.b ∧ s.usrc x r.b ≤ 4095)
    (fun s x => (s.setBar (s.issuer x).team r.a.field.toNat
      { namedBar r s x with exp := s.usrc x r.b, pend := s.usrc x r.b }).went x) :=
  doesIf_of (r := fun _ _ => .go _) (exec_barinit r)
    (fun _ _ ⟨hact, hlo, hhi⟩ => (if_neg hact).trans (if_neg (by simp; omega)))

theorem barinit_traps : DoesIf (.barinit r) r.head (fun s x => x.act ≠ 0#32 ∧ (s.usrc x r.b = 0 ∨ 4095 < s.usrc x r.b))
    (fun s x => s.trapped x x.illegalOperand) :=
  doesIf_of (r := fun _ x => .trap x.illegalOperand) (exec_barinit r)
    (fun _ _ ⟨hact, hn⟩ => (if_neg hact).trans (if_pos (by simpa using hn)))

theorem arrive_idle (ph : Bool) : DoesIf (.arrive r ph) r.head (fun _ x => x.act = 0#32) (fun s x => s.went x) :=
  doesIf_of (r := fun s _ => .go s) (exec_arrive r ph) (fun _ _ hact => if_pos hact)

/-- An ARRIVE whose operands are right. -/
def arriveOk (s : State) (x : Ctx) : Prop :=
  x.act ≠ 0#32 ∧ 1 ≤ s.usrc x r.b ∧ s.usrc x r.b ≤ 4095 ∧ (namedBar r s x).exp ≠ 0

theorem arriveRes_ok {ph : Bool} {s : State} {x : Ctx} (h : arriveOk r s x) : arriveRes r ph s x =
    let t := s.setBar (s.issuer x).team r.a.field.toNat (arrivedBar r s x)
    if ph then t.deliverU x r.d.toNat 1 (namedBar r s x).phase else .go t := by
  obtain ⟨hact, hlo, hhi, hexp⟩ := h
  exact (if_neg hact).trans (if_neg (by simp [hexp]; omega))

theorem arrive_counts : DoesIf (.arrive r false) r.head (arriveOk r)
    (fun s x => (s.setBar (s.issuer x).team r.a.field.toNat (arrivedBar r s x)).went x) :=
  doesIf_of (r := fun _ _ => .go _) (exec_arrive r false) (fun _ _ hok => arriveRes_ok r hok)

theorem arrive_tells : DoesIf (.arrive r true) r.head (arriveOk r) (fun s x =>
    tells r x (s.setBar (s.issuer x).team r.a.field.toNat (arrivedBar r s x)) (namedBar r s x).phase) := by
  intro s hp hok
  rw [exec_of_passes (exec_arrive r true s) hp, arriveRes_ok r hok]
  exact settle_deliverU r hok.1 _ _

theorem arrive_traps (ph : Bool) : DoesIf (.arrive r ph) r.head
    (fun s x => x.act ≠ 0#32 ∧ (s.usrc x r.b = 0 ∨ 4095 < s.usrc x r.b ∨ (namedBar r s x).exp = 0))
    (fun s x => s.trapped x x.illegalOperand) :=
  doesIf_of (r := fun _ x => .trap x.illegalOperand) (exec_arrive r ph)
    (fun _ _ ⟨hact, hn⟩ => (if_neg hact).trans (if_pos (by simpa [or_assoc] using hn)))

theorem bwait_idle : DoesIf (.bwait r) r.head (fun _ x => x.act = 0#32) (fun s x => s.went x) :=
  doesIf_of (r := fun s _ => .go s) (exec_bwait r) (fun _ _ hact => if_pos hact)

theorem bwait_goes : DoesIf (.bwait r) r.head
    (fun s x => x.act ≠ 0#32 ∧ (namedBar r s x).passed (s.usrc x r.b % 2 ^ 16) = true)
    (fun s x => (s.passBar x.crs (s.bwaitFences (s.issuer x).team r.a.field.toNat (s.usrc x r.b % 2 ^ 16))).went x) :=
  doesIf_of (r := fun _ _ => .go _) (exec_bwait r) (fun _ _ ⟨hact, hpassed⟩ => (if_neg hact).trans (if_pos hpassed))

theorem bwait_waits : DoesIf (.bwait r) r.head
    (fun s x => x.act ≠ 0#32 ∧ (namedBar r s x).passed (s.usrc x r.b % 2 ^ 16) = false)
    (fun s x => s.waits x (.bwait r.a.field.toNat (s.usrc x r.b % 2 ^ 16))) :=
  doesIf_of (r := fun s _ => .wait s _) (exec_bwait r)
    (fun _ _ ⟨hact, hpassed⟩ => (if_neg hact).trans (if_neg (ne_true_of_eq_false hpassed)))

end

/-! ## The cluster barrier (R367) -/

section
variable (h : Head)

/-- A word of the cluster barrier with no active lane goes on. -/
theorem clusterBar_idle {i : Instr} {arr wt : Bool} (hx : ∀ s, exec i s = s.issue i h (fun x => s.clusterBar x arr wt)) :
    DoesIf i h (fun _ x => x.act = 0#32) (fun s x => s.went x) :=
  doesIf_of (r := fun s _ => .go s) hx (fun _ _ hact => if_pos hact)

theorem clbarArr_counts : DoesIf (.clbarArr h) h (fun _ x => x.act ≠ 0#32)
    (fun s x => (s.onCourse x.crs Course.clArrive).went x) :=
  doesIf_of (b := fun s x => s.clusterBar x true false) (r := fun s x => .go (s.onCourse x.crs Course.clArrive)) (fun _ => rfl)
    (fun _ _ hact => if_neg hact)

theorem clbar_waits : DoesIf (.clbar h) h (fun _ x => x.act ≠ 0#32)
    (fun s x => (s.onCourse x.crs Course.clArrive).waits x (.clbar (s.course x.crs).clArrivals)) :=
  doesIf_of (b := fun s x => s.clusterBar x true true) (r := fun s x => .wait (s.onCourse x.crs Course.clArrive) _) (fun _ => rfl)
    (fun s x hact => by simp [State.clusterBar, hact, Course.clArrive])

theorem clbarWait_goes : DoesIf (.clbarWait h) h (fun s x => x.act ≠ 0#32 ∧ (s.course x.crs).clArrivals = 0)
    (fun s x => s.went x) :=
  doesIf_of (b := fun s x => s.clusterBar x false true) (r := fun s _ => .go s) (fun _ => rfl)
    (fun s x ⟨hact, hnone⟩ => by simp [State.clusterBar, hact, hnone])

theorem clbarWait_waits : DoesIf (.clbarWait h) h (fun s x => x.act ≠ 0#32 ∧ (s.course x.crs).clArrivals ≠ 0)
    (fun s x => s.waits x (.clbar ((s.course x.crs).clArrivals - 1))) :=
  doesIf_of (b := fun s x => s.clusterBar x false true) (r := fun s x => .wait s _) (fun _ => rfl)
    (fun s x ⟨hact, hsome⟩ => by simp [State.clusterBar, hact, hsome])

end

/-! ## Going on (R365, R367) -/

section
variable {s : State} {crs j b P : Nat}

theorem bwaitWake_goes (hw : ((s.course crs).slotN j).wait = .bwait b P) (hr : s.running (s.course crs) = true)
    (hp : (s.bar (s.course crs).team b).passed P = true) :
    exec (.bwaitWake crs j) s = .next ((s.passBar crs (s.bwaitFences (s.course crs).team b P)).advance crs j
      ((s.course crs).slotN j).act) := by
  show execBwaitWake crs j s = _
  simp [execBwaitWake, hw, hr, hp]

theorem bwaitWake_waits (hw : ((s.course crs).slotN j).wait = .bwait b P)
    (hp : (s.bar (s.course crs).team b).passed P = false) : exec (.bwaitWake crs j) s = .next s := by
  show execBwaitWake crs j s = _
  simp [execBwaitWake, hw, hp]

/-- The courses of a cluster of one team are the team's. -/
theorem clusterCourses_one {cl : Nat} (hcl : s.clusterTeams cl = [cl]) : s.clusterCourses cl = (s.team cl).courses := by
  simp [State.clusterCourses, hcl]

theorem clbarPhase_one {cl p : Nat} (hcl : s.clusterTeams cl = [cl]) (hcrs : (s.team cl).courses = [crs])
    (hw : (s.course crs).slot0.wait = .clbar p) (hother : ∀ q, (s.course crs).slot1.wait ≠ .clbar q)
    (hr : s.running (s.course crs) = true) (hp : p + 1 ≤ (s.course crs).clArrivals) :
    exec (.clbarPhaseComplete cl) s = .next ((s.passBar crs (s.clbarFences [crs] p)).advance crs 0 (s.course crs).slot0.act) := by
  have hall : s.clusterCourses cl = [crs] := (clusterCourses_one hcl).trans hcrs
  have hpassed : s.clusterPassed cl p = true := by
    simp [State.clusterPassed, hcl, hcrs, Nat.lt_of_succ_le hp]
  show Host.Outcome.next (s.wakeClbar cl (s.clusterCourses cl)) = _
  have hw1 : ((s.course crs).slotN 0).wait = .clbar p := hw
  simp only [hall, State.wakeClbar, hw1, hr, hpassed]
  split
  next q hq => exact absurd hq (hother q)
  · rfl

end

/-- Settles O16, word by word; a phase of one team's cluster completes with its course's arrival. -/
theorem barrierWords : Obligations.BarrierWords :=
  ⟨fun r => ⟨barinit_idle r, arrive_idle r false, bwait_idle r⟩, barinit_sets, barinit_traps, arrive_counts, arrive_tells,
    arrive_traps, bwait_goes, bwait_waits,
    fun h => ⟨clusterBar_idle h (fun _ => rfl), clusterBar_idle h (fun _ => rfl), clusterBar_idle h (fun _ => rfl)⟩,
    clbarArr_counts, clbar_waits, clbarWait_goes, clbarWait_waits, fun _ _ => rfl,
    fun _ _ _ _ _ => bwaitWake_goes, fun _ _ _ _ _ => bwaitWake_waits,
    fun _ _ _ _ hcl hcrs hw hother hr _ hp => clbarPhase_one hcl hcrs hw hother hr hp⟩

end Sys2Proof.Machine

namespace Sys2Proof.Machine
/-! # Domain barriers (R335, R411, R412) -/

section
variable (r : RWord)

/-- The barrier number of a DBAR word. -/
abbrev dbarNo (s : State) (x : Ctx) : Nat := s.usrc x r.a

/-- The state of a held arrival: shadow copies merged, and what may be sent is sent. -/
def State.dbarMerged (s : State) (x : Ctx) : State := (s.mergeAll (s.issuer x).team).pump (s.issuer x).team

/-- The arrival that DBAR.arr holds. -/
def heldArrival (s : State) (x : Ctx) : DbarArr :=
  ⟨x.crs, (s.issuer x).team, (s.issuer x).nextPend, dbarNo r s x, (s.dbarMerged x).nextOpOf (s.issuer x).team⟩

/-- What DBAR.arr leaves: its register empty, and its arrival held. -/
def dbarHeld (s : State) (x : Ctx) : State :=
  let u := (s.dbarMerged x).addPend x .other .remote (x.fills true r.d.toNat 1) 0#32 0#32
  { u with dbarArrs := Tab.put u.dbarArrs (Tab.fresh u.dbarArrs) (heldArrival r s x) }

/-- What DBAR.arr comes to. -/
def dbarArrRes (s : State) (x : Ctx) : Res :=
  if x.act = 0#32 then .go s
  else
    match s.dbarFor x (dbarNo r s x) with
    | none => .trap x.illegalOperand
    | some _ => .go (dbarHeld r s x)

/-- What DBAR.wait comes to. -/
def dbarWaitRes (s : State) (x : Ctx) : Res :=
  let P := s.usrc x r.b % 2 ^ 16
  if x.act = 0#32 then .go s
  else
    match s.dbarFor x (dbarNo r s x) with
    | none => .trap x.illegalOperand
    | some d => if d.passed P then .go (s.acquire (s.issuer x).team) else .wait s (.dbar (dbarNo r s x) P)

theorem exec_dbarArr (s : State) : exec (.dbarArr r) s = s.issue (.dbarArr r) r.head (dbarArrRes r s) := rfl
theorem exec_dbarWait (s : State) : exec (.dbarWait r) s = s.issue (.dbarWait r) r.head (dbarWaitRes r s) := rfl

section
variable {r} {s : State} {x : Ctx}

theorem dbarArrRes_some (hact : x.act ≠ 0#32) (hd : (s.dbarFor x (dbarNo r s x)).isSome = true) :
    dbarArrRes r s x = .go (dbarHeld r s x) := by
  obtain ⟨d, hd⟩ := Option.isSome_iff_exists.1 hd
  simp [dbarArrRes, hact, hd]

theorem dbarArrRes_none (hact : x.act ≠ 0#32) (hd : s.dbarFor x (dbarNo r s x) = none) :
    dbarArrRes r s x = .trap x.illegalOperand := by
  simp [dbarArrRes, hact, hd]

theorem dbarWaitRes_some {d : DBar} (hact : x.act ≠ 0#32) (hd : s.dbarFor x (dbarNo r s x) = some d) :
    dbarWaitRes r s x = if d.passed (s.usrc x r.b % 2 ^ 16) then .go (s.acquire (s.issuer x).team)
      else .wait s (.dbar (dbarNo r s x) (s.usrc x r.b % 2 ^ 16)) := by
  simp [dbarWaitRes, hact, hd]

theorem dbarWaitRes_none (hact : x.act ≠ 0#32) (hd : s.dbarFor x (dbarNo r s x) = none) :
    dbarWaitRes r s x = .trap x.illegalOperand := by
  simp [dbarWaitRes, hact, hd]

end

theorem dbarArr_idle : DoesIf (.dbarArr r) r.head (fun _ x => x.act = 0#32) (fun s x => s.went x) :=
  doesIf_of (r := fun s _ => .go s) (exec_dbarArr r) (fun _ _ hact => if_pos hact)

theorem dbarArr_holds : DoesIf (.dbarArr r) r.head
    (fun s x => x.act ≠ 0#32 ∧ (s.dbarFor x (dbarNo r s x)).isSome = true) (fun s x =>
      let u := (s.dbarMerged x).addPend x .other .remote [(⟨x.sup, false, r.d.toNat⟩, 0#32)] 0#32 0#32
      ({ u with dbarArrs := Tab.put u.dbarArrs (Tab.fresh u.dbarArrs) (heldArrival r s x) } : State).went x) := by
  intro s hp ⟨hact, hd⟩
  rw [exec_of_passes (exec_dbarArr r s) hp, dbarArrRes_some hact hd, dbarHeld, fills_eq _ _ _ hact]
  rfl

theorem dbarWait_idle : DoesIf (.dbarWait r) r.head (fun _ x => x.act = 0#32) (fun s x => s.went x) :=
  doesIf_of (r := fun s _ => .go s) (exec_dbarWait r) (fun _ _ hact => if_pos hact)

theorem dbarWait_goes (d : DBar) : DoesIf (.dbarWait r) r.head
    (fun s x => x.act ≠ 0#32 ∧ s.dbarFor x (dbarNo r s x) = some d ∧ d.passed (s.usrc x r.b % 2 ^ 16) = true)
    (fun s x => (s.acquire (s.issuer x).team).went x) :=
  doesIf_of (r := fun s x => .go (s.acquire (s.issuer x).team)) (exec_dbarWait r)
    (fun _ _ ⟨hact, hd, hpassed⟩ => (dbarWaitRes_some hact hd).trans (if_pos hpassed))

theorem dbarWait_waits (d : DBar) : DoesIf (.dbarWait r) r.head
    (fun s x => x.act ≠ 0#32 ∧ s.dbarFor x (dbarNo r s x) = some d ∧ d.passed (s.usrc x r.b % 2 ^ 16) = false)
    (fun s x => s.waits x (.dbar (dbarNo r s x) (s.usrc x r.b % 2 ^ 16))) :=
  doesIf_of (r := fun s x => .wait s (.dbar (dbarNo r s x) (s.usrc x r.b % 2 ^ 16))) (exec_dbarWait r)
    (fun _ _ ⟨hact, hd, hpassed⟩ => (dbarWaitRes_some hact hd).trans (if_neg (ne_true_of_eq_false hpassed)))

theorem dbar_traps (i : Instr) (hi : i = .dbarArr r ∨ i = .dbarWait r) :
    DoesIf i r.head (fun s x => x.act ≠ 0#32 ∧ s.dbarFor x (dbarNo r s x) = none) (fun s x => s.trapped x x.illegalOperand) := by
  obtain rfl | rfl := hi
  · exact doesIf_of (r := fun _ x => .trap x.illegalOperand) (exec_dbarArr r) (fun _ _ ⟨hact, hd⟩ => dbarArrRes_none hact hd)
  · exact doesIf_of (r := fun _ x => .trap x.illegalOperand) (exec_dbarWait r) (fun _ _ ⟨hact, hd⟩ => dbarWaitRes_none hact hd)

end

/-! ## Arrivals, phases and timeouts -/

section
variable {s : State}

theorem arrivalCounted {id : Nat} {a : DbarArr} {d : DBar} {dst : Nat} {sup : Bool} (ha : Tab.find s.dbarArrs id = some a)
    (hdr : (s.team a.team).drained 0xFFFF a.upto true = true)
    (hd : Tab.find (s.context (s.gridOf a.team).ctx).dbars a.bar = some d)
    (hp : (s.course a.crs).pendDest a.pend = some (dst, sup)) :
    exec (.dbarArrivalCounted id) s = .next ((({ s with dbarArrs := Tab.del s.dbarArrs id } : State).setDbar
      (s.gridOf a.team).ctx a.bar { d with arrivals := d.arrivals + 1, since := if d.arrivals = 0 then some s.clock else d.since }).landPend
        a.crs a.pend [.unif sup dst (wd ((d.completed + d.arrivals) % 2 ^ 16))] 0#32) := by
  refine Eq.trans ?_ (congrArg _ (landUnif_one (v := (d.completed + d.arrivals) % 2 ^ 16) hp))
  show execDbarArrivalCounted id s = _
  have hd' : Tab.find (({ s with dbarArrs := Tab.del s.dbarArrs id } : State).context (s.gridOf a.team).ctx).dbars a.bar = some d := hd
  simp [execDbarArrivalCounted, ha, hdr, hd']

theorem arrivalCounted_waits {id : Nat} {a : DbarArr} (ha : Tab.find s.dbarArrs id = some a)
    (hdr : (s.team a.team).drained 0xFFFF a.upto true = false) : exec (.dbarArrivalCounted id) s = .next s := by
  show execDbarArrivalCounted id s = _
  simp [execDbarArrivalCounted, ha, hdr]

/-- No course of another context is woken. -/
theorem wakeDbars_none {ctx : Nat} (hs : List Nat) (h : ∀ k ∈ hs, s.ctxOf (s.course k) ≠ ctx) :
    hs.foldl (fun s h => if s.ctxOf (s.course h) = ctx then (s.wakeDbar h 0).wakeDbar h 1 else s) s = s := by
  induction hs with
  | nil => rfl
  | cons k hs ih =>
    rw [List.foldl_cons, if_neg (h k List.mem_cons_self)]
    exact ih (fun j hj => h j (List.mem_cons_of_mem _ hj))

theorem phaseComplete {ctx k : Nat} {arrived : List Nat} {d : DBar} {g : Group} (hd : s.dbarOf ctx k = some (d, g))
    (harr : 1 ≤ d.arrivals) (hall : ∀ m ∈ g.members, m = s.chip ∨ m ∈ arrived)
    (hnone : ∀ h ∈ s.courses, s.ctxOf (s.course h.1) ≠ ctx) :
    exec (.dbarPhaseComplete ctx k arrived) s = .next (s.setDbar ctx k { d with
      completed := (d.completed + 1) % 2 ^ 16, arrivals := d.arrivals - 1,
      since := if d.arrivals = 1 then none else some s.clock }) := by
  have hready : (d.arrivals = 0 || !g.members.all (fun m => m == s.chip || arrived.contains m)) = false := by
    simpa [Nat.one_le_iff_ne_zero.1 harr] using hall
  show execDbarPhaseComplete ctx k arrived s = _
  simp only [execDbarPhaseComplete, hd, hready, Bool.false_eq_true, if_false]
  refine congrArg _ (wakeDbars_none _ fun h hh => ?_)
  obtain ⟨c, hc, -⟩ := Tab.mem_keys.1 hh
  exact hnone _ hc

/-- A phase waits for a member from which nothing has come. -/
theorem phaseComplete_waits {ctx k : Nat} {arrived : List Nat} {d : DBar} {g : Group} {m : Nat} (hd : s.dbarOf ctx k = some (d, g))
    (hm : m ∈ g.members) (hself : m ≠ s.chip) (haway : m ∉ arrived) : exec (.dbarPhaseComplete ctx k arrived) s = .next s := by
  show execDbarPhaseComplete ctx k arrived s = _
  simp only [execDbarPhaseComplete, hd]
  refine if_pos ?_
  simp only [Bool.or_eq_true, decide_eq_true_eq, Bool.not_eq_true', List.all_eq_false]
  exact .inr ⟨m, hm, by simp [hself, haway]⟩

theorem wakeDbar_goes {crs j k P : Nat} {d : DBar} (hw : ((s.course crs).slotN j).wait = .dbar k P)
    (hd : Tab.find (s.context (s.ctxOf (s.course crs))).dbars k = some d) (hr : s.running (s.course crs) = true)
    (hp : d.passed P = true) :
    s.wakeDbar crs j = (s.acquire (s.course crs).team).advance crs j ((s.course crs).slotN j).act := by
  simp [State.wakeDbar, hw, hd, hr, hp]

theorem dbarTimeout_tells {ctx k n : Nat} {d : DBar} {g : Group} (hd : s.dbarOf ctx k = some (d, g)) (hn : d.since = some n)
    (hlate : n + g.timeout < s.clock) :
    exec (.dbarTimeout ctx k) s = .next ((s.setDbar ctx k { d with since := none }).mgmt ctx 6 (le 4 k ++ le 4 d.completed)) := by
  show execDbarTimeout ctx k s = _
  simp [execDbarTimeout, hd, hn, hlate]

end

/-- Settles O41: the words, the arrivals and the phases, each from what its step comes to. -/
theorem domainBarriers : Obligations.DomainBarriers :=
  ⟨dbarArr_idle, dbarArr_holds, dbarWait_idle, dbarWait_goes, dbarWait_waits, fun i r => dbar_traps r i,
    fun _ _ _ _ _ _ => arrivalCounted, fun _ _ _ => arrivalCounted_waits, fun _ _ _ _ _ _ => phaseComplete,
    fun _ _ _ _ _ _ => wakeDbar_goes, fun _ _ _ _ _ _ _ => phaseComplete_waits, fun _ _ _ _ _ _ => dbarTimeout_tells⟩

end Sys2Proof.Machine

namespace Sys2Proof.Machine
/-! # Checks made in order (R86, R422) -/

section
variable {α : Type}

/-- Checks that stop at one: it decides, and the pages looked up until then are known. -/
theorem each_of_stopsAt {f : α → Looked} {l : List α} {v : PageRes} {vas : List Nat} (h : stopsAt f l v vas) :
    Looked.each f l = ⟨v, vas⟩ := by
  obtain ⟨hv, pre, a, post, rfl, hpre, ha, rfl⟩ := h
  rw [each_fails hpre (ha ▸ hv), ha]

/-- Checks that all pass but look up no page. -/
theorem Looked.ok_andThen (b : Looked) : (⟨.ok, []⟩ : Looked).andThen b = b := rfl

theorem Looked.andThen_of_failed {a b : Looked} (h : a.res ≠ .ok) : a.andThen b = a := by
  rw [Looked.andThen]
  split
  · contradiction
  · rfl

/-- The first member of a list of which p holds, where it is known. -/
theorem find?_range_map {p : Nat → Bool} {n i : Nat} (g : Nat → Nat) (hi : i < n) (hp : p (g i) = true)
    (hpre : ∀ k, k < i → p (g k) = false) : ((List.range n).map g).find? p = some (g i) := by
  rw [List.find?_map]
  have hfind : (List.range n).find? (p ∘ g) = some i :=
    List.find?_range_eq_some.2 ⟨hp, by simpa using hi, fun k hk => by simp [hpre k hk]⟩
  rw [hfind]
  rfl

theorem find?_range_map_none {p : Nat → Bool} {n : Nat} (g : Nat → Nat) (h : ∀ i, i < n → p (g i) = false) :
    ((List.range n).map g).find? p = none := by
  simp only [List.find?_eq_none, List.mem_map, List.mem_range]
  rintro _ ⟨i, hi, rfl⟩
  simp [h i hi]

end

end Sys2Proof.Machine

namespace Sys2Proof.Machine
/-! # The exchange words (R404–R406, R410, R422) -/

section
variable (r : RWord) (s : State) (x : Ctx)

/-- A register of lane L's token descriptor. -/
abbrev tokenReg (L i : Nat) : Nat := s.collReg x (s.issuer x) r L i

/-- The address of lane L's token. -/
abbrev tokenVa (L : Nat) : Nat := tokenReg r s x L 0 + tokenReg r s x L 1 * 2 ^ 32

/-- The size of the tokens of an XSEND. -/
abbrev tokenSize : Nat := s.usrc x r.b

/-- The pages that an XSEND reads. -/
abbrev tokenPages : List PageAcc := (lanesOf x.act).flatMap (fun L => pagesOf L (tokenVa r s x L) (tokenSize r s x) 1 .package)

/-- The checks of one lane of an XSEND. -/
abbrev tokenLook (L : Nat) : Looked := s.sendLane x (s.issuer x) r (tokenSize r s x) (tokenPages r s x) L

/-- The size of the tokens is one that XSEND takes. -/
def tokenSizeOk : Prop := tokenSize r s x % 16 = 0 ∧ 16 ≤ tokenSize r s x ∧ tokenSize r s x ≤ 4080

/-- A window of a package of the domain. -/
def tokenPlace (v : Nat) : Prop := v < 2 ^ 18 ∧ s.inDomain (v % 2 ^ 10) = true

/-- The fields of lane L's descriptor are right. -/
def tokenFields (L : Nat) : Prop :=
  tokenPlace s (tokenReg r s x L 2) ∧ (tokenReg r s x L 3 = 0x80000000 ∨ tokenPlace s (tokenReg r s x L 3)) ∧
    tokenReg r s x L 6 = 0 ∧ tokenReg r s x L 7 = 0

/-- Register i of lane L's descriptor is poisoned. -/
abbrev tokenPoison (L i : Nat) : Bool := s.lanePoison (s.issuer x) x.sup (r.a.field.toNat + i) L

/-- The check of one page of lane L's token. -/
abbrev tokenPage (L : Nat) (a : PageAcc) : Looked :=
  s.mainPage x (s.issuer x) a.va a.need L ((tokenPages r s x).map (fun b => (b.lane, b.va))) a.rule

/-- An XSEND that has passed its checks is counted, its status register empty. -/
def xsendCounted (fills : List (RegId × LaneMask)) : State :=
  ((s.tlbFill (s.ctxOf (s.issuer x)) ((tokenPages r s x).map (fun a => a.va))).addPend x .other .remote fills 0#32 0#32).onCourse
    x.crs (fun c => c.countOp .xch [])

/-- The record of the word, by which its statuses are gathered. -/
def xsendRecord : Xsend :=
  { crs := x.crs, pend := (s.issuer x).nextPend, count := (s.issuer x).nextOp, lanes := lanesOf x.act, done := [] }

/-- What an XSEND leaves that has passed its checks. -/
def xsendSent : State :=
  let t := xsendCounted r s x (x.fills false r.d.toNat 1)
  { t with
    xsends := Tab.put t.xsends (Tab.fresh s.xsends) (xsendRecord s x)
    tokens := t.tokens ++ s.tokensOf x (s.issuer x) r (tokenSize r s x) (Tab.fresh s.xsends) }

theorem xsendCounted_xsends (fills : List (RegId × LaneMask)) : (xsendCounted r s x fills).xsends = s.xsends := by
  obtain ⟨l, hl⟩ := tlbFill_eq s (s.ctxOf (s.issuer x)) ((tokenPages r s x).map (fun a => a.va))
  rw [xsendCounted, hl]
  rfl

theorem xsendCounted_tokens (fills : List (RegId × LaneMask)) : (xsendCounted r s x fills).tokens = s.tokens := by
  obtain ⟨l, hl⟩ := tlbFill_eq s (s.ctxOf (s.issuer x)) ((tokenPages r s x).map (fun a => a.va))
  rw [xsendCounted, hl]
  rfl

/-- What XSEND comes to. -/
def xsendRes : Res :=
  if x.act = 0#32 then .go s
  else if tokenSize r s x % 16 ≠ 0 || tokenSize r s x < 16 || 4080 < tokenSize r s x then .trap x.illegalOperand
  else (Looked.each (tokenLook r s x) (lanesOf x.act)).then
    (if 255 ≤ (s.issuer x).eng.xch.length then .held ((tokenPages r s x).map (fun a => a.va)) false else .go (xsendSent r s x))

theorem exec_xsend : exec (.xsend r) s = s.issue (.xsend r) r.head (xsendRes r s) := rfl

variable {r s x}

theorem xsendRes_size (hact : x.act ≠ 0#32) (hs : ¬ tokenSizeOk r s x) : xsendRes r s x = .trap x.illegalOperand := by
  refine (if_neg hact).trans (if_pos ?_)
  simp only [tokenSizeOk] at hs
  simp only [Bool.or_eq_true, decide_eq_true_eq]
  omega

theorem xsendRes_looks (hact : x.act ≠ 0#32) (hs : tokenSizeOk r s x) : xsendRes r s x =
    (Looked.each (tokenLook r s x) (lanesOf x.act)).then
      (if 255 ≤ (s.issuer x).eng.xch.length then .held ((tokenPages r s x).map (fun a => a.va)) false
        else .go (xsendSent r s x)) := by
  refine (if_neg hact).trans (if_neg ?_)
  simp only [tokenSizeOk] at hs
  simp only [Bool.or_eq_true, decide_eq_true_eq]
  omega

theorem xsendRes_stops {v : PageRes} {vas : List Nat} (hact : x.act ≠ 0#32) (hs : tokenSizeOk r s x)
    (h : stopsAt (tokenLook r s x) (lanesOf x.act) v vas) : xsendRes r s x = (⟨v, vas⟩ : Looked).then (.go s) := by
  rw [xsendRes_looks hact hs, each_of_stopsAt h]
  cases v with
  | ok => exact absurd rfl h.1
  | trap t => rfl
  | wait => rfl

theorem xsendRes_passes (hact : x.act ≠ 0#32) (hs : tokenSizeOk r s x)
    (hok : ∀ L ∈ lanesOf x.act, (tokenLook r s x L).res = .ok) : xsendRes r s x =
      if 255 ≤ (s.issuer x).eng.xch.length then .held ((tokenPages r s x).map (fun a => a.va)) false
        else .go (xsendSent r s x) := by
  rw [xsendRes_looks hact hs, each_ok hok]
  rfl

/-! ## The checks of a lane (R406) -/

/-- The fields of lane L's descriptor as sendLane checks them. -/
def tokenFieldsOk (r : RWord) (s : State) (x : Ctx) (L : Nat) : Bool :=
  let fieldOk := fun (v : Nat) => v < 2 ^ 18 && s.inDomain (v % 2 ^ 10)
  fieldOk (tokenReg r s x L 2) && (tokenReg r s x L 3 == 0x80000000 || fieldOk (tokenReg r s x L 3)) &&
    tokenReg r s x L 6 == 0 && tokenReg r s x L 7 == 0

theorem tokenFieldsOk_iff {L : Nat} : tokenFieldsOk r s x L = true ↔ tokenFields r s x L := by
  simp [tokenFieldsOk, tokenFields, tokenPlace, and_assoc]

theorem tokenLook_poisoned {L i : Nat} (hi : i < 8) (hp : tokenPoison r s x L i = true)
    (hpre : ∀ k, k < i → tokenPoison r s x L k = false) :
    tokenLook r s x L = ⟨.trap (x.dataError (L, r.a.field.toNat + i)), []⟩ := by
  simp only [State.sendLane, find?_range_map (p := fun q => s.lanePoison (s.issuer x) x.sup q L) (r.a.field.toNat + ·) hi hp hpre]
  rfl

theorem tokenLook_clean {L : Nat} (hc : ∀ i, i < 8 → tokenPoison r s x L i = false) : tokenLook r s x L =
    ((Looked.pre (if tokenFieldsOk r s x L then none else some { x.illegalOperand with lane := some L })).andThen
      (Looked.pre (if tokenVa r s x L % 16 ≠ 0 then some (x.addrTrap 0x08 0 L (tokenVa r s x L) 0) else none))).andThen
      (Looked.each (tokenPage r s x L) (pagesOf L (tokenVa r s x L) (tokenSize r s x) 1 .package)) := by
  simp only [State.sendLane, find?_range_map_none (p := fun q => s.lanePoison (s.issuer x) x.sup q L) (r.a.field.toNat + ·) hc]
  rfl

theorem tokenLook_fields {L : Nat} (hc : ∀ i, i < 8 → tokenPoison r s x L i = false) (hf : ¬ tokenFields r s x L) :
    tokenLook r s x L = ⟨.trap { x.illegalOperand with lane := some L }, []⟩ := by
  rw [tokenLook_clean hc, if_neg (mt tokenFieldsOk_iff.1 hf)]
  rfl

theorem tokenLook_misaligned {L : Nat} (hc : ∀ i, i < 8 → tokenPoison r s x L i = false) (hf : tokenFields r s x L)
    (ha : tokenVa r s x L % 16 ≠ 0) : tokenLook r s x L = ⟨.trap (x.addrTrap 0x08 0 L (tokenVa r s x L) 0), []⟩ := by
  rw [tokenLook_clean hc, if_pos (tokenFieldsOk_iff.2 hf), if_pos ha]
  rfl

theorem tokenLook_pages {L : Nat} {v : PageRes} {vas : List Nat} (hc : ∀ i, i < 8 → tokenPoison r s x L i = false)
    (hf : tokenFields r s x L) (ha : tokenVa r s x L % 16 = 0)
    (hp : stopsAt (tokenPage r s x L) (pagesOf L (tokenVa r s x L) (tokenSize r s x) 1 .package) v vas) :
    tokenLook r s x L = ⟨v, vas⟩ := by
  rw [tokenLook_clean hc, if_pos (tokenFieldsOk_iff.2 hf), if_neg (not_not_intro ha), each_of_stopsAt hp]
  rfl

end

/-! ## XSEND (R406) -/

section
variable (r : RWord)

theorem xsend_idle : DoesIf (.xsend r) r.head (fun _ x => x.act = 0#32) (fun s x => s.went x) :=
  doesIf_of (r := fun s _ => .go s) (exec_xsend r) (fun _ _ hact => if_pos hact)

theorem xsend_size : DoesIf (.xsend r) r.head (fun s x => x.act ≠ 0#32 ∧ ¬ tokenSizeOk r s x)
    (fun s x => s.trapped x x.illegalOperand) :=
  doesIf_of (r := fun _ x => .trap x.illegalOperand) (exec_xsend r) (fun _ _ ⟨hact, hs⟩ => xsendRes_size hact hs)

theorem xsend_traps (t : TrapRec) (vas : List Nat) : DoesIf (.xsend r) r.head
    (fun s x => x.act ≠ 0#32 ∧ tokenSizeOk r s x ∧ stopsAt (tokenLook r s x) (lanesOf x.act) (.trap t) vas)
    (fun s x => s.trappedPast x vas t) :=
  doesIf_of (r := fun _ _ => .trapLooked vas t) (exec_xsend r) (fun _ _ ⟨hact, hs, h⟩ => xsendRes_stops hact hs h)

theorem xsend_moving (vas : List Nat) : DoesIf (.xsend r) r.head
    (fun s x => x.act ≠ 0#32 ∧ tokenSizeOk r s x ∧ stopsAt (tokenLook r s x) (lanesOf x.act) .wait vas)
    (fun s x => s.heldPast x vas false) :=
  doesIf_of (r := fun _ _ => .held vas false) (exec_xsend r) (fun _ _ ⟨hact, hs, h⟩ => xsendRes_stops hact hs h)

theorem xsend_full : DoesIf (.xsend r) r.head
    (fun s x => x.act ≠ 0#32 ∧ tokenSizeOk r s x ∧ (∀ L ∈ lanesOf x.act, (tokenLook r s x L).res = .ok) ∧
      255 ≤ (s.issuer x).eng.xch.length) (fun s x => s.heldPast x ((tokenPages r s x).map (fun a => a.va)) false) :=
  doesIf_of (r := fun s x => .held ((tokenPages r s x).map (fun a => a.va)) false) (exec_xsend r)
    (fun _ _ ⟨hact, hs, hok, hfull⟩ => (xsendRes_passes hact hs hok).trans (if_pos hfull))

theorem xsend_sends : DoesIf (.xsend r) r.head
    (fun s x => x.act ≠ 0#32 ∧ tokenSizeOk r s x ∧ (∀ L ∈ lanesOf x.act, (tokenLook r s x L).res = .ok) ∧
      (s.issuer x).eng.xch.length < 255)
    (fun s x =>
      ({ xsendCounted r s x [(⟨x.sup, true, r.d.toNat⟩, x.act)] with
          xsends := Tab.put s.xsends (Tab.fresh s.xsends) (xsendRecord s x)
          tokens := s.tokens ++ s.tokensOf x (s.issuer x) r (tokenSize r s x) (Tab.fresh s.xsends) } : State).went x) := by
  intro s hp ⟨hact, hs, hok, hroom⟩
  rw [exec_of_passes (exec_xsend r s) hp, xsendRes_passes hact hs hok, if_neg (Nat.not_le.2 hroom), xsendSent,
    fills_eq _ _ _ hact, xsendCounted_xsends, xsendCounted_tokens]
  rfl

end

/-! ## XRECV (R410) -/

section
variable {i : Instr} {r : RWord} {w : Nat} {act : State → Ctx → WindowAct}
  (hx : ∀ s, exec i s = s.issue i r.head (fun x => s.windowWord x r w (act s x)))
include hx

theorem windowWord_idle : DoesIf i r.head (fun _ x => x.act = 0#32) (fun s x => s.went x) :=
  doesIf_of (r := fun s _ => .go s) hx (fun _ _ hact => if_pos hact)

theorem windowWord_counts : DoesIf i r.head
    (fun s x => x.act ≠ 0#32 ∧ s.usrc x r.a < (s.lrOf (s.issuer x)).windows ∧ (s.issuer x).eng.xch.length < 255)
    (fun s x => ((s.addPend x .other (.window (s.usrc x r.a) (act s x) (s.issuer x).nextOp r.d.toNat x.sup)
      (lateFills x true r.d.toNat w) 0#32 0#32).onCourse x.crs (fun c => c.countOp .xch [])).went x) :=
  doesIf_of (r := fun s x => .go ((s.addPend x .other (.window (s.usrc x r.a) (act s x) (s.issuer x).nextOp r.d.toNat x.sup)
      (lateFills x true r.d.toNat w) 0#32 0#32).onCourse x.crs (fun c => c.countOp .xch []))) hx
    (fun _ x ⟨hact, hwin, hroom⟩ => (fills_eq (x := x) true r.d.toNat w hact) ▸
      (if_neg hact).trans ((if_neg (Nat.not_le.2 hwin)).trans (if_neg (Nat.not_le.2 hroom))))

theorem windowWord_traps : DoesIf i r.head (fun s x => x.act ≠ 0#32 ∧ (s.lrOf (s.issuer x)).windows ≤ s.usrc x r.a)
    (fun s x => s.trapped x x.illegalOperand) :=
  doesIf_of (r := fun _ x => .trap x.illegalOperand) hx (fun _ _ ⟨hact, hwin⟩ => (if_neg hact).trans (if_pos hwin))

end

/-- Settles O39, word by word and check by check. -/
theorem exchangeWords : Obligations.ExchangeWords :=
  ⟨xsend_idle, xsend_size, xsend_traps, xsend_moving, xsend_full,
    fun _ _ _ _ => ⟨fun _ => tokenLook_poisoned, tokenLook_fields, tokenLook_misaligned, fun _ _ => tokenLook_pages⟩, xsend_sends,
    fun _ => ⟨windowWord_idle (fun _ => rfl), windowWord_counts (fun _ => rfl), windowWord_traps (fun _ => rfl)⟩,
    fun _ => ⟨windowWord_idle (fun _ => rfl), windowWord_counts (fun _ => rfl), windowWord_traps (fun _ => rfl)⟩,
    fun _ => ⟨windowWord_idle (fun _ => rfl), windowWord_counts (fun _ => rfl), windowWord_traps (fun _ => rfl)⟩,
    fun _ => ⟨windowWord_idle (fun _ => rfl), windowWord_counts (fun _ => rfl), windowWord_traps (fun _ => rfl)⟩⟩

end Sys2Proof.Machine

namespace Sys2Proof.Machine
/-! # Tokens and windows (R404, R407–R410) -/

/-! ## A token's turn (R407) -/

section
variable {s : State} {t : Token}

theorem execTokenArrival_unsent (hsent : t.sent = false) (hchip : t.schip = s.chip) (hmem : t ∈ s.tokens)
    (hnext : s.nextToSend t = true) :
    exec (.tokenArrival t) s = if s.tokenWaits t then .next s else .next (s.routeToken t) := by
  show execTokenArrival t s = _
  cases hw : s.tokenWaits t <;> simp [execTokenArrival, hsent, hchip, hmem, hnext, hw]

theorem execTokenArrival_first (hsent : t.sent = true) (hmem : t ∈ s.tokens) (hredir : t.redir = false)
    (hchip : t.primChip = s.chip) (hturn : Tab.get 0 s.listNext (listKey t) = t.seq) :
    exec (.tokenArrival t) s = .next (({ s with
      tokens := s.tokens.erase t
      listNext := Tab.put s.listNext (listKey t) (t.seq + 1) } : State).placeToken t t.primWin) := by
  show execTokenArrival t s = _
  simp [execTokenArrival, hsent, hmem, hredir, hchip, hturn]

theorem execTokenArrival_forwarded {sec : Nat × Nat} (hsent : t.sent = true) (hmem : t ∈ s.tokens) (hredir : t.redir = true)
    (hsec : t.sec = some sec) (hchip : sec.1 = s.chip) :
    exec (.tokenArrival t) s = .next (({ s with tokens := s.tokens.erase t } : State).placeToken t sec.2) := by
  show execTokenArrival t s = _
  simp [execTokenArrival, hsent, hmem, hredir, hsec, hchip]

end

/-! ## A token at its window (R407) -/

section
variable {s u : State} {t : Token} {ctx win : Nat} {y : Window}

theorem placeToken_fills (hctx : s.ctxByTag t.ctag = some ctx) (hy : Tab.find s.windows (windowKey ctx win) = some y)
    (hsize : t.size + 16 ≤ 64 * y.z) (hroom : (y.f + 2 ^ 32 - y.fr) % 2 ^ 32 < y.n)
    (hwrite : s.windowWrite ctx (y.base + 64 * y.z * (y.f % y.n)) (tokenHeader t ++ t.bytes, t.poison.map (fun o => o + 16)) = .ok u) :
    s.placeToken t win =
      ((({ u with windows := Tab.put u.windows (windowKey ctx win) { y with f := (y.f + 1) % 2 ^ 32, v := (y.v + 1) % 2 ^ 32 } }
        : State).windowNotify ctx t { y with f := (y.f + 1) % 2 ^ 32, v := (y.v + 1) % 2 ^ 32 }).tokenResult t (y.f % y.n)
          (if t.redir then 1 else 0)) := by
  simp only [State.placeToken, hctx, hy, if_neg (Nat.not_lt.2 hsize), if_neg (Nat.not_le.2 hroom), hwrite]

/-- At a full window a token goes to its secondary, or is dropped. -/
theorem placeToken_full (hctx : s.ctxByTag t.ctag = some ctx) (hy : Tab.find s.windows (windowKey ctx win) = some y)
    (hsize : t.size + 16 ≤ 64 * y.z) (hfull : y.n ≤ (y.f + 2 ^ 32 - y.fr) % 2 ^ 32) :
    s.placeToken t win = match t.redir, t.sec with
      | false, some sec => (s.count 2 0 66 1).redirect t sec
      | _, _ => (s.count 2 0 67 1).tokenResult t 0 2 := by
  simp only [State.placeToken, hctx, hy, if_neg (Nat.not_lt.2 hsize), if_pos hfull] <;> rfl

theorem placeToken_forwards {sec : Nat × Nat} (hctx : s.ctxByTag t.ctag = some ctx)
    (hy : Tab.find s.windows (windowKey ctx win) = some y) (hsize : t.size + 16 ≤ 64 * y.z)
    (hfull : y.n ≤ (y.f + 2 ^ 32 - y.fr) % 2 ^ 32) (hredir : t.redir = false) (hsec : t.sec = some sec) :
    s.placeToken t win = (s.count 2 0 66 1).redirect t sec := by
  rw [placeToken_full hctx hy hsize hfull, hredir, hsec]

theorem placeToken_drops (hctx : s.ctxByTag t.ctag = some ctx) (hy : Tab.find s.windows (windowKey ctx win) = some y)
    (hsize : t.size + 16 ≤ 64 * y.z) (hfull : y.n ≤ (y.f + 2 ^ 32 - y.fr) % 2 ^ 32) (hdrop : t.redir = true ∨ t.sec = none) :
    s.placeToken t win = (s.count 2 0 67 1).tokenResult t 0 2 := by
  rw [placeToken_full hctx hy hsize hfull]
  split
  next hr hsec => simp [hr, hsec] at hdrop
  · rfl

theorem placeToken_refuses (hctx : s.ctxByTag t.ctag = some ctx)
    (hw : Tab.find s.windows (windowKey ctx win) = none ∨
      ∃ y, Tab.find s.windows (windowKey ctx win) = some y ∧ 64 * y.z < t.size + 16) :
    s.placeToken t win = s.tokenResult t 0 3 := by
  obtain hnone | ⟨y, hy, hsmall⟩ := hw
  · simp only [State.placeToken, hctx, hnone]
  · simp only [State.placeToken, hctx, hy, if_pos hsmall]

end

/-! ## The statuses of a word (R409) -/

section
variable {s : State} {id d : Nat} {k : Xsend} {sup : Bool} {far : List TokenDone}

/-- The status word of lane L among the statuses of a word. -/
def laneStatus (l : List TokenDone) (L : Nat) : Word := ((l.find? (fun e => e.lane == L)).map TokenDone.word).getD 0#32

/-- What lies after the status that is looked for does not change what is found. -/
theorem laneStatus_append {l m : List TokenDone} {L : Nat} (h : l.any (fun e => e.lane == L) = true) :
    laneStatus (l ++ m) L = laneStatus l L := by
  obtain ⟨e, he, hL⟩ := List.any_eq_true.1 h
  have hsome : (l.find? (fun e => e.lane == L)).isSome = true := List.find?_isSome.2 ⟨e, he, hL⟩
  rw [laneStatus, List.find?_append, Option.or_of_isSome hsome, laneStatus]

theorem tokenDone_word (e : TokenDone) : TokenDone.word e =
    wd (if e.stat % 4 < 2 then e.slot % 2 ^ 16 * 2 ^ 16 + e.stat % 4 else e.stat % 4) := by
  simp only [TokenDone.word]
  split
  next h => rw [if_neg (Nat.not_lt.2 h)]
  next h => rw [if_pos (Nat.not_le.1 h)]

theorem xsendStatus_lands (hk : Tab.find s.xsends id = some k) (hd : (s.course k.crs).pendDest k.pend = some (d, sup))
    (hall : ∀ L ∈ k.lanes, k.done.any (fun e => e.lane == L) = true) (hnone : ∀ t ∈ s.tokens, ¬ (t.schip = s.chip ∧ t.word = id)) :
    exec (.xsendStatus id far) s = .next ((({ s with xsends := Tab.del s.xsends id } : State).landPend k.crs k.pend
      (k.lanes.map (fun L => .lane sup d L (laneStatus k.done L) false)) 0#32).onCourse k.crs (fun c => c.opDone .xch k.count)) := by
  have htok : s.tokens.filter (fun t => !(t.schip == s.chip && t.word == id)) = s.tokens :=
    List.filter_eq_self.2 fun t ht => by simpa [-not_and, not_and_or] using hnone t ht
  have hhere : ∀ L, s.tokens.any (fun t => t.schip == s.chip && t.word == id && t.lane == L && !(t.sent &&
      (if t.redir then t.sec.any (fun e => e.1 != s.chip) else t.primChip != s.chip))) = false := fun L =>
    List.any_eq_false.2 fun t ht h => by
      simp only [Bool.and_eq_true, beq_iff_eq] at h
      exact hnone t ht ⟨h.1.1.1, h.1.1.2⟩
  have hready : k.lanes.all (fun L => (k.done ++ far.filter (fun d => !k.done.any (fun e => e.lane == d.lane))).any
      (fun d => d.lane == L) && !false) = true :=
    List.all_eq_true.2 fun L hL => by simp [List.any_append, hall L hL]
  have hd' : (({ s with xsends := Tab.del s.xsends id } : State).course k.crs).pendDest k.pend = some (d, sup) := hd
  have hwords : k.lanes.map (fun L => Landing.lane sup d L (laneStatus (k.done ++ far.filter (fun d =>
      !k.done.any (fun e => e.lane == d.lane))) L) false) = k.lanes.map (fun L => .lane sup d L (laneStatus k.done L) false) :=
    List.map_congr_left fun L hL => by rw [laneStatus_append (hall L hL)]
  show execXsendStatus id far s = _
  simp only [execXsendStatus, hk, hhere, hready, htok, hd', Bool.not_true, Bool.false_eq_true, if_false]
  rw [← hwords]
  rfl

end

/-! ## XRECV at its window (R410) -/

section
variable {s : State} {ctx win n : Nat} {y : Window}

theorem windowAct_claim (hy : Tab.find s.windows (windowKey ctx win) = some y) :
    s.windowAct ctx win (.claim n) = ({ s with
      windows := Tab.put s.windows (windowKey ctx win) { y with c := (y.c + min n ((y.v + 2 ^ 32 - y.c) % 2 ^ 32)) % 2 ^ 32 } },
        y.c + min n ((y.v + 2 ^ 32 - y.c) % 2 ^ 32) * 2 ^ 32) := by
  simp only [State.windowAct, hy]

theorem windowAct_free (hy : Tab.find s.windows (windowKey ctx win) = some y) :
    s.windowAct ctx win (.free n) = ({ s with
      windows := Tab.put s.windows (windowKey ctx win) { y with fr := (y.fr + min n ((y.c + 2 ^ 32 - y.fr) % 2 ^ 32)) % 2 ^ 32 } }, min n ((y.c + 2 ^ 32 - y.fr) % 2 ^ 32)) := by
  simp only [State.windowAct, hy]

theorem windowAct_stat (hy : Tab.find s.windows (windowKey ctx win) = some y) :
    s.windowAct ctx win .stat = (s, y.v + y.c * 2 ^ 32) := by
  simp only [State.windowAct, hy]

theorem windowAct_absent {act : WindowAct} (hnone : Tab.find s.windows (windowKey ctx win) = none)
    (hact : ∀ a b c d e, act ≠ .cfg a b c d e) : s.windowAct ctx win act = (s, 0) := by
  cases act with
  | cfg a b c d e => exact absurd rfl (hact a b c d e)
  | _ => simp only [State.windowAct, hnone]

theorem windowAct_cfg {b n z k ev : Nat} (hok : s.windowOk ctx b n z k ev = true)
    (hnone : Tab.find s.windows (windowKey ctx win) = none) (hfree : s.tokenInFlight ctx win = false) :
    s.windowAct ctx win (.cfg b n z k ev) =
      ({ s with windows := Tab.put s.windows (windowKey ctx win) { base := b, n := n, z := z, counter := k } }, 0) := by
  simp [State.windowAct, hok, hnone, hfree]

theorem windowAct_cfg_bad {b n z k ev : Nat} (hok : s.windowOk ctx b n z k ev = false) :
    s.windowAct ctx win (.cfg b n z k ev) = (s, 2) := by
  simp [State.windowAct, hok]

end

/-- Settles O40: what a token's turn, its window and an XRECV come to. -/
theorem windows : Obligations.Windows := by
  refine ⟨fun s t h1 h2 h3 h4 hw => ?_, fun s t h1 h2 h3 h4 hw => ?_, fun _ _ => execTokenArrival_first,
    fun _ _ _ => execTokenArrival_forwarded, fun _ _ _ _ _ _ => placeToken_fills, fun _ _ _ _ _ _ => placeToken_forwards,
    fun _ _ _ _ _ => placeToken_drops, fun _ _ _ _ => placeToken_refuses, ?status, fun _ _ _ _ _ => windowAct_claim,
    fun _ _ _ _ _ => windowAct_free, fun _ _ _ _ => windowAct_stat, fun _ _ _ _ => windowAct_absent,
    fun _ _ _ _ _ _ _ _ => windowAct_cfg, fun _ _ _ _ _ _ _ _ => windowAct_cfg_bad⟩
  · exact (execTokenArrival_unsent h1 h2 h3 h4).trans (if_pos hw)
  · exact (execTokenArrival_unsent h1 h2 h3 h4).trans (if_neg (ne_true_of_eq_false hw))
  case status =>
    intro s id k d sup far hk hd hall hnone
    rw [xsendStatus_lands hk hd hall hnone]
    simp only [laneStatus, funext tokenDone_word]

end Sys2Proof.Machine

namespace Sys2Proof.Machine
/-! # Copies as they issue (R349–R356, R360, R422) -/

/-! ## The checks of a descriptor of TCPY (R360) -/

section
variable {d : TcpyDesc} {space : Nat} {x : Ctx}

/-- The dimensions of a descriptor lie in their ranges. -/
def TcpyDesc.dims (d : TcpyDesc) : Prop := 1 ≤ d.cols ∧ d.cols ≤ 4096 ∧ 1 ≤ d.rows ∧ d.rows ≤ 4096

theorem badField_address (hg : 2 ^ 52 ≤ d.g) : d.badField = some 1 := if_pos hg

theorem dims_iff : TcpyDesc.dims d ↔ (1 ≤ d.cols && d.cols ≤ 4096 && 1 ≤ d.rows && d.rows ≤ 4096) = true := by
  simp only [TcpyDesc.dims, Bool.and_eq_true, decide_eq_true_eq, and_assoc]

theorem badField_dims (hg : d.g < 2 ^ 52) (hd : ¬ TcpyDesc.dims d) : d.badField = some 4 :=
  (if_neg (Nat.not_le.2 hg)).trans (if_pos (by simpa only [Bool.not_eq_true', ← Bool.not_eq_true] using mt dims_iff.2 hd))

theorem badField_form (hg : d.g < 2 ^ 52) (hd : TcpyDesc.dims d)
    (hbad : 2 ^ 14 ≤ d.form ∨ (if d.store then formPair d.lf d.mf false else formPair d.mf d.lf true) = false ∨
      d.width < d.planes ∨ (d.canon = false ∧ d.q < d.lb) ∨ (d.store = true ∧ d.p < d.mb)) : d.badField = some 7 := by
  refine (if_neg (Nat.not_le.2 hg)).trans ((if_neg (by rw [dims_iff.1 hd]; simp)).trans (if_neg fun hok => ?_))
  simp only [Bool.and_eq_true, decide_eq_true_eq, Bool.or_eq_true, Bool.not_eq_true'] at hok
  obtain ⟨⟨⟨⟨⟨⟨⟨hform, -⟩, -⟩, hpair⟩, -⟩, ⟨hplanes, -⟩⟩, hcanon⟩, hpitch⟩ := hok
  obtain h | h | h | ⟨hc, h⟩ | ⟨hs, h⟩ := hbad
  · omega
  · exact Bool.false_ne_true (h.symm.trans hpair)
  · omega
  · rw [hc] at hcanon
    simp only [Bool.false_eq_true, if_false, decide_eq_true_eq] at hcanon
    omega
  · rw [hs] at hpitch
    simp only [Bool.true_eq_false, false_or] at hpitch
    omega

theorem misaligned_iff : d.misaligned = true ↔ (∃ n ∈ [d.g, d.p, d.o, d.mb, d.lb], n % 16 ≠ 0) ∨
    (d.canon = false ∧ d.q % 16 ≠ 0) ∨ (d.canon = true ∧ d.o % 1024 ≠ 0) := by
  simp only [TcpyDesc.misaligned, Bool.or_eq_true, List.any_eq_true, bne_iff_ne, Bool.and_eq_true, Bool.not_eq_true', or_assoc]

theorem outside_local (h : space < d.o + d.extent) :
    d.outside space x = some { x.trap 0x07 with sub := 2, addr := d.o, info := if d.store then 0 else 1 } := by
  refine (if_pos h).trans ?_
  cases d.store <;> rfl

theorem outside_main (hin : d.o + d.extent ≤ space) (h : 2 ^ 52 < d.g + (d.rows - 1) * d.p + d.mb) :
    d.outside space x = some { x.trap 0x07 with sub := 2, addr := d.g, info := if d.store then 1 else 0 } := by
  refine (if_neg (Nat.not_lt.2 hin)).trans ((if_pos (Bool.or_eq_true_iff.2 (.inl (decide_eq_true h)))).trans ?_)
  cases d.store <;> rfl

end

theorem descriptorChecks : descriptorChecksHold :=
  fun _ _ _ => ⟨badField_address, badField_dims, badField_form, misaligned_iff, outside_local, outside_main⟩

/-! ## The checks of a lane of CPY (R353) -/

section
variable (s : State) (x : Ctx) (c : Course) (r : RWord) (dir : CpyDir) (n L : Nat) (all : List (Nat × Nat))

/-- The address registers of a lane of CPY. -/
def cpyRegs : List Nat :=
  (List.range (CpyDir.widths dir).1).map (fun i => r.a.field.toNat + i) ++
    (List.range (CpyDir.widths dir).2).map (fun i => r.d.toNat + i)

/-- No address register of the lane is poisoned. -/
def cpyClean : Prop := ∀ q ∈ cpyRegs r dir, s.lanePoison c x.sup q L = false

/-- The trap of the lane's place in the local memory, if it has one. -/
def cpyNear : Option TrapRec :=
  if (CpyDir.mains dir).1 && (CpyDir.mains dir).2 then none
  else if (CpyDir.mains dir).1 then s.checkLocal x c (CpyDir.reach dir) n n 1 L (s.cpyAddrs x c r dir L).2
  else s.checkLocal x c (CpyDir.reach dir) n n 0 L (s.cpyAddrs x c r dir L).1

/-- A main address of the lane is aligned and lies in the address space. -/
def cpyFits (e : Nat) : Prop := e % n = 0 ∧ e + n ≤ 2 ^ 52

/-- The check of a main address of the lane: alignment, address space, page. -/
def cpyMain (E kind : Nat) : Looked := (Looked.pre (x.mainCheck E n kind L)).andThen (s.mainPage x c E (kind + 1) L all)

/-- The checks of one side of the lane. -/
def cpySideLook (main : Bool) (E kind : Nat) : Looked := if main then cpyMain s x c n L all E kind else Looked.pre none

theorem cpyLane_eq : s.cpyLane x c r dir n L all =
    ((((Looked.pre (((cpyRegs r dir).find? (fun q => s.lanePoison c x.sup q L)).map (fun q => x.dataError (L, q)))).andThen
      (Looked.pre (cpyNear s x c r dir n L))).andThen
      (cpySideLook s x c n L all (CpyDir.mains dir).1 (s.cpyAddrs x c r dir L).1 0))).andThen
      (cpySideLook s x c n L all (CpyDir.mains dir).2 (s.cpyAddrs x c r dir L).2 1) := rfl

variable {s x c r dir n L all}

theorem cpyLane_poisoned {q : Nat} (hq : (cpyRegs r dir).find? (fun q => s.lanePoison c x.sup q L) = some q) :
    s.cpyLane x c r dir n L all = ⟨.trap (x.dataError (L, q)), []⟩ := by
  rw [cpyLane_eq, hq]
  rfl

theorem cpyLane_clean (hc : cpyClean s x c r dir L) : s.cpyLane x c r dir n L all =
    ((Looked.pre (cpyNear s x c r dir n L)).andThen
      (cpySideLook s x c n L all (CpyDir.mains dir).1 (s.cpyAddrs x c r dir L).1 0)).andThen
      (cpySideLook s x c n L all (CpyDir.mains dir).2 (s.cpyAddrs x c r dir L).2 1) := by
  have hnone : (cpyRegs r dir).find? (fun q => s.lanePoison c x.sup q L) = none :=
    List.find?_eq_none.2 fun q hq => ne_true_of_eq_false (hc q hq)
  rw [cpyLane_eq, hnone]
  rfl

theorem cpyLane_near {t : TrapRec} (hc : cpyClean s x c r dir L) (ht : cpyNear s x c r dir n L = some t) :
    s.cpyLane x c r dir n L all = ⟨.trap t, []⟩ := by
  rw [cpyLane_clean hc, ht]
  rfl

/-- What is left to check of a lane whose local place is right. -/
theorem cpyLane_far (hc : cpyClean s x c r dir L) (hn : cpyNear s x c r dir n L = none) : s.cpyLane x c r dir n L all =
    (cpySideLook s x c n L all (CpyDir.mains dir).1 (s.cpyAddrs x c r dir L).1 0).andThen
      (cpySideLook s x c n L all (CpyDir.mains dir).2 (s.cpyAddrs x c r dir L).2 1) := by
  rw [cpyLane_clean hc, hn]
  rfl

theorem cpyMain_misaligned {E kind : Nat} (h : E % n ≠ 0) :
    cpyMain s x c n L all E kind = ⟨.trap (x.addrTrap 0x08 0 L E 0), []⟩ := by
  rw [cpyMain, Ctx.mainCheck, if_pos h]
  rfl

theorem cpyMain_beyond {E kind : Nat} (ha : E % n = 0) (h : 2 ^ 52 < E + n) :
    cpyMain s x c n L all E kind = ⟨.trap (x.addrTrap 0x07 2 L E kind), []⟩ := by
  rw [cpyMain, Ctx.mainCheck, if_neg (not_not_intro ha), if_pos (show Config.addrLimit < E + n from h)]
  rfl

theorem cpyMain_page {E kind : Nat} (h : cpyFits n E) :
    cpyMain s x c n L all E kind = s.mainPage x c E (kind + 1) L all := by
  rw [cpyMain, Ctx.mainCheck, if_neg (not_not_intro h.1), if_neg (show ¬ Config.addrLimit < E + n from Nat.not_lt.2 h.2)]
  rfl

/-- A lane whose source in main memory fails a check. -/
theorem cpyLane_source {v : Looked} (hc : cpyClean s x c r dir L) (hn : cpyNear s x c r dir n L = none)
    (hm : (CpyDir.mains dir).1 = true) (hv : cpyMain s x c n L all (s.cpyAddrs x c r dir L).1 0 = v) (hfail : v.res ≠ .ok) :
    s.cpyLane x c r dir n L all = v := by
  rw [cpyLane_far hc hn, cpySideLook, if_pos hm, hv, Looked.andThen_of_failed hfail]

theorem mainPage_ok {E need : Nat} (hok : (s.mainPage x c E need L all).res = .ok) :
    s.mainPage x c E need L all = ⟨.ok, [E]⟩ := by
  rw [show s.mainPage x c E need L all = ⟨(s.mainPage x c E need L all).res, [E]⟩ from rfl, hok]

/-- A lane whose source is right, up to the pages that it has looked up: its destination decides. -/
theorem cpyLane_dest {before : List Nat} (hc : cpyClean s x c r dir L) (hn : cpyNear s x c r dir n L = none)
    (hb : if (CpyDir.mains dir).1 then cpyFits n (s.cpyAddrs x c r dir L).1 ∧
      (s.mainPage x c (s.cpyAddrs x c r dir L).1 1 L all).res = .ok ∧ before = [(s.cpyAddrs x c r dir L).1] else before = []) :
    s.cpyLane x c r dir n L all = (⟨.ok, before⟩ : Looked).andThen
      (cpySideLook s x c n L all (CpyDir.mains dir).2 (s.cpyAddrs x c r dir L).2 1) := by
  rw [cpyLane_far hc hn, cpySideLook]
  split at hb
  next hm =>
    obtain ⟨hfits, hok, rfl⟩ := hb
    rw [if_pos hm, cpyMain_page hfits, mainPage_ok hok]
  next hm =>
    rw [if_neg hm, hb]
    rfl

end

theorem copyLaneChecks : copyLaneChecksHold := by
  intro s x c r dir n L all
  refine ⟨fun q => cpyLane_poisoned, fun t => cpyLane_near, fun hc hn hm ha => ?_, fun hc hn hm ha hb => ?_,
    fun hc hn hm hf hp => ?_, fun before hc hn hm hb => ⟨fun ha => ?_, fun ha hlim => ?_, fun hf => ?_⟩, fun hc hn hm hm2 hf hok => ?_⟩
  · exact cpyLane_source hc hn hm (cpyMain_misaligned ha) (by simp)
  · exact cpyLane_source hc hn hm (cpyMain_beyond ha hb) (by simp)
  · exact cpyLane_source hc hn hm (cpyMain_page hf) hp
  · rw [cpyLane_dest hc hn hb, cpySideLook, if_pos hm, cpyMain_misaligned ha, Looked.andThen, List.append_nil]
  · rw [cpyLane_dest hc hn hb, cpySideLook, if_pos hm, cpyMain_beyond ha hlim, Looked.andThen, List.append_nil]
  · rw [cpyLane_dest hc hn hb, cpySideLook, if_pos hm, cpyMain_page hf]
    rfl
  · rw [cpyLane_dest (before := [_]) hc hn (by rw [if_pos hm]; exact ⟨hf, hok, rfl⟩), cpySideLook, hm2]
    rfl

/-! ## CPY (R353) -/

/-- The destinations of a copy's traffic, as the room on its channel is asked for. -/
abbrev destPairs (ts : List OpTraffic) : List (Dest × Nat) := (copyDests ts).map (fun d => (d, 0))

theorem destPairs_eq (ts : List OpTraffic) :
    (byDest (fun (d : Dest) => d) (ts.flatMap OpTraffic.dests)).map (fun d => (d.1, 0)) = destPairs ts := by
  rw [destPairs, copyDests, List.map_map]
  rfl

/-- The barrier that a copy names, if it names one. -/
abbrev copyBar (r : RWord) (bar : Bool) : Option Nat := if bar then some r.c.field.toNat else none

/-- A copy that has looked up the pages of vas starts in t, if it has a place and room for its traffic. -/
def startsIn (r : RWord) (s : State) (x : Ctx) (vas : List Nat) (ts : List OpTraffic) (t : State) : Res :=
  if !s.copyRoom x.crs (s.issuer x) then .held vas false
  else if !s.roomFor (s.issuer x).team r.b.field.toNat false (destPairs ts) then
    s.noRoom (s.issuer x).team r.b.field.toNat (destPairs ts) vas
  else .go t

section
variable {r : RWord} {s : State} {x : Ctx} {vas : List Nat} {ts : List OpTraffic} {t : State}

theorem startsIn_starts (hp : s.copyRoom x.crs (s.issuer x) = true)
    (hr : s.roomFor (s.issuer x).team r.b.field.toNat false (destPairs ts) = true) : startsIn r s x vas ts t = .go t := by
  simp [startsIn, hp, hr]

theorem startsIn_placeless (hp : s.copyRoom x.crs (s.issuer x) = false) : startsIn r s x vas ts t = .held vas false := by
  simp [startsIn, hp]

theorem startsIn_roomless (hp : s.copyRoom x.crs (s.issuer x) = true)
    (hr : s.roomFor (s.issuer x).team r.b.field.toNat false (destPairs ts) = false) :
    startsIn r s x vas ts t = .held vas (!s.entriesFor (s.issuer x).team r.b.field.toNat (destPairs ts)) := by
  simp [startsIn, hp, hr, State.noRoom]

end

section
variable (r : RWord) (dir : CpyDir) (n : Nat) (s : State) (x : Ctx)

/-- The main addresses of a CPY with their lanes. -/
abbrev cpyAll : List (Nat × Nat) := (lanesOf x.act).flatMap (fun L =>
  (if (CpyDir.mains dir).1 then [(L, (s.cpyAddrs x (s.issuer x) r dir L).1)] else []) ++
    (if (CpyDir.mains dir).2 then [(L, (s.cpyAddrs x (s.issuer x) r dir L).2)] else []))

/-- The lanes of a CPY as transfer operations. -/
abbrev cpyGroups : List (List CopyLane) := groupCopy ((lanesOf x.act).map (fun L =>
  (⟨L, s.cpySide (s.issuer x) dir (CpyDir.mains dir).1 (s.cpyAddrs x (s.issuer x) r dir L).1 n L,
    s.cpySide (s.issuer x) dir (CpyDir.mains dir).2 (s.cpyAddrs x (s.issuer x) r dir L).2 n L⟩ : CopyLane)))

/-- The state in which the translations of a CPY are held. -/
abbrev cpyFilled : State := s.tlbFill (s.ctxOf (s.issuer x)) ((cpyAll r dir s x).map (fun a => a.2))

/-- The traffic of a CPY's operations. -/
abbrev cpyTraffic (t : State) : List OpTraffic :=
  (cpyGroups r dir n s x).zipIdx.map (fun (p : List CopyLane × Nat) =>
    let rd := t.copyReads (s.issuer x).team r.b.field.toNat (8 * s.stamp) p.2 n (mainItems (fun l => l.src) p.1)
    ((rd.1, rd.2, t.copyWrites (s.issuer x).team r.b.field.toNat (8 * s.stamp) p.2 n (mainItems (fun l => l.dst) p.1)) : OpTraffic))

/-- What a CPY leaves that starts. -/
abbrev cpyStarted (bar : Bool) : State := (cpyFilled r dir s x).startCopy x (8 * s.stamp)
  (s.newCopy x r.b.field.toNat (copyBar r bar) n ((cpyGroups r dir n s x).map (fun g =>
    { lanes := g, reads := (mainItems (fun l => l.src) g).map (fun i => i.lane) })) none 0#32)
  (cpyTraffic r dir n s x (cpyFilled r dir s x))

/-- The checks of one lane of a CPY. -/
abbrev cpyLook (L : Nat) : Looked := s.cpyLane x (s.issuer x) r dir n L (cpyAll r dir s x)

/-- What a CPY comes to whose queue, channel and barrier are right. -/
def cpyLooks (bar : Bool) : Res :=
  (Looked.each (cpyLook r dir n s x) (lanesOf x.act)).then
    (startsIn r s x ((cpyAll r dir s x).map (fun a => a.2)) (cpyTraffic r dir n s x (cpyFilled r dir s x)) (cpyStarted r dir n s x bar))

/-- What a CPY comes to. -/
def cpyRes (bar : Bool) : Res :=
  if x.act = 0#32 then .go s
  else ((s.copyChecks x r.b.field.toNat (copyBar r bar)).map Res.trap).getD (cpyLooks r dir n s x bar)

theorem exec_cpy (size : CpySize) (bar : Bool) :
    exec (.cpy r dir size bar) s = s.issue (.cpy r dir size bar) r.head (fun x => cpyRes r dir (CpySize.bytes size) s x bar) := by
  refine congrArg (s.issue _ _) (funext fun x => ?_)
  by_cases hact : x.act = 0#32
  · exact (if_pos hact).trans (if_pos hact).symm
  · refine (if_neg hact).trans (Eq.trans ?_ (if_neg hact).symm)
    unfold copyBar
    cases s.copyChecks x r.b.field.toNat (if bar = true then some r.c.field.toNat else none) with
    | some t => rfl
    | none =>
      simp only [Option.map_none, Option.getD_none, cpyLooks, startsIn, ← destPairs_eq]

variable {r dir n s x}

theorem cpyRes_bad {bar : Bool} {t : TrapRec} (hact : x.act ≠ 0#32)
    (ht : s.copyChecks x r.b.field.toNat (copyBar r bar) = some t) : cpyRes r dir n s x bar = .trap t := by
  rw [cpyRes, if_neg hact, ht]
  rfl

theorem cpyRes_looks {bar : Bool} (hact : x.act ≠ 0#32) (hc : s.copyChecks x r.b.field.toNat (copyBar r bar) = none) :
    cpyRes r dir n s x bar = cpyLooks r dir n s x bar := by
  rw [cpyRes, if_neg hact, hc]
  rfl

theorem cpyRes_stops {bar : Bool} {v : PageRes} {vas : List Nat} (hact : x.act ≠ 0#32)
    (hc : s.copyChecks x r.b.field.toNat (copyBar r bar) = none) (h : stopsAt (cpyLook r dir n s x) (lanesOf x.act) v vas) :
    cpyRes r dir n s x bar = (⟨v, vas⟩ : Looked).then (.go s) := by
  rw [cpyRes_looks hact hc, cpyLooks, each_of_stopsAt h]
  cases v with
  | ok => exact absurd rfl h.1
  | trap t => rfl
  | wait => rfl

theorem cpyRes_passes {bar : Bool} (hact : x.act ≠ 0#32) (hc : s.copyChecks x r.b.field.toNat (copyBar r bar) = none)
    (hok : ∀ L ∈ lanesOf x.act, (cpyLook r dir n s x L).res = .ok) : cpyRes r dir n s x bar =
      startsIn r s x ((cpyAll r dir s x).map (fun a => a.2)) (cpyTraffic r dir n s x (cpyFilled r dir s x))
        (cpyStarted r dir n s x bar) := by
  rw [cpyRes_looks hact hc, cpyLooks, then_ok]
  rw [each_ok hok]

end

/-! ## TCPY (R360) -/

section
variable (r : RWord) (d : TcpyDesc) (s : State) (x : Ctx)

/-- The traffic of the operations of a TCPY. -/
abbrev tcpyTraffic (t : State) : List OpTraffic := d.pieces.zipIdx.map (fun (p : XferOp × Nat) =>
  let item := fun (e : Nat) =>
    (⟨e, d.elemVa p.1 e, (s.home (s.ctxOf (s.issuer x)) (d.elemVa p.1 e)).1, (s.home (s.ctxOf (s.issuer x)) (d.elemVa p.1 e)).2⟩ : Item)
  let main := t.copyReads (s.issuer x).team r.b.field.toNat (8 * s.stamp) p.2 d.elem ((p.1.reads.filter (fun e => e < 64)).map item)
  let sc := t.copyReads (s.issuer x).team r.b.field.toNat (8 * s.stamp) p.2 1 ((p.1.reads.filter (fun e => 64 ≤ e)).map item)
  let wr := if d.store then
      t.copyWrites (s.issuer x).team r.b.field.toNat (8 * s.stamp) p.2 16 ((List.range (p.1.len / 16)).map item)
    else []
  ((main.1 ++ sc.1, main.2 ++ sc.2, wr) : OpTraffic))

/-- The state in which the translations of a TCPY are held. -/
abbrev tcpyFilled : State := s.tlbFill (s.ctxOf (s.issuer x)) (d.pages.map (fun a => a.va))

/-- What a TCPY leaves that starts. -/
abbrev tcpyStarted (bar : Bool) : State := (tcpyFilled d s x).startCopy x (8 * s.stamp)
  (s.newCopy x r.b.field.toNat (copyBar r bar) d.elem d.pieces (some d) d.may) (tcpyTraffic r d s x (tcpyFilled d s x))

/-- The bytes of the local memory on which a TCPY works. -/
abbrev tcpySpace (xs : Bool) : Nat := if xs then (s.lrOf (s.issuer x)).scratch else (s.lrOf (s.issuer x)).shared

/-- The trap of a descriptor whose checks came to a wrong field, an alignment and a place out of bounds: the first decides. -/
def tcpyTrap (g : Nat) (bad : Option Nat) (mis : Bool) (out : Option TrapRec) : Option TrapRec :=
  match bad with
  | some k => some { x.illegalOperand with info := r.a.field.toNat + k }
  | none => if mis then some { x.trap 0x08 with addr := g } else out

/-- What a TCPY comes to with its descriptor. -/
def tcpyRes (bar xs : Bool) : Res :=
  if x.act = 0#32 then .go s
  else (((s.copyChecks x r.b.field.toNat (copyBar r bar)).or (tcpyTrap r x d.g d.badField d.misaligned (d.outside (tcpySpace s x xs) x))).map Res.trap).getD
    ((s.lookPages (s.ctxOf (s.issuer x)) (x.trap 0) false d.pages).then
      (startsIn r s x (d.pages.map (fun a => a.va)) (tcpyTraffic r d s x (tcpyFilled d s x)) (tcpyStarted r d s x bar)))
end

theorem exec_tcpy (r : RWord) (sat : Bool) (rnd : Rnd4) (bar xs st : Bool) (s : State) :
    exec (.tcpy r sat rnd bar xs st) s = s.issue (.tcpy r sat rnd bar xs st) r.head
      (fun x => tcpyRes r (s.latch x (s.issuer x) r sat rnd xs st) s x bar xs) := by
  refine congrArg (s.issue _ _) (funext fun x => ?_)
  by_cases hact : x.act = 0#32
  · exact (if_pos hact).trans (if_pos hact).symm
  · refine (if_neg hact).trans (Eq.trans ?_ (if_neg hact).symm)
    generalize s.latch x (s.issuer x) r sat rnd xs st = d
    generalize s.copyChecks x r.b.field.toNat _ = failed
    generalize d.badField = bad
    generalize d.misaligned = mis
    generalize d.outside _ x = out
    match failed, bad, mis, out with
    | some _, _, _, _ => rfl
    | none, some _, _, _ => rfl
    | none, none, true, _ => rfl
    | none, none, false, some _ => rfl
    | none, none, false, none =>
      simp only [tcpyTrap, startsIn, ← destPairs_eq]
      rfl

section
variable {r : RWord} {d : TcpyDesc} {s : State} {x : Ctx} {bar xs : Bool}

/-- The operands of a TCPY pass their checks. -/
def tcpySound (r : RWord) (d : TcpyDesc) (bar xs : Bool) (s : State) (x : Ctx) : Prop :=
  x.act ≠ 0#32 ∧ s.copyChecks x r.b.field.toNat (copyBar r bar) = none ∧ d.badField = none ∧ d.misaligned = false ∧
    d.outside (tcpySpace s x xs) x = none

/-- The look at the pages of a TCPY. -/
abbrev tcpyLook (d : TcpyDesc) (s : State) (x : Ctx) : Looked := s.lookPages (s.ctxOf (s.issuer x)) (x.trap 0) false d.pages

theorem tcpyRes_bad {t : TrapRec} (hact : x.act ≠ 0#32) (ht : s.copyChecks x r.b.field.toNat (copyBar r bar) = some t) :
    tcpyRes r d s x bar xs = .trap t := by
  rw [tcpyRes, if_neg hact, ht]
  rfl

theorem tcpyRes_trap {t : TrapRec} (hact : x.act ≠ 0#32) (hc : s.copyChecks x r.b.field.toNat (copyBar r bar) = none)
    (ht : tcpyTrap r x d.g d.badField d.misaligned (d.outside (tcpySpace s x xs) x) = some t) :
    tcpyRes r d s x bar xs = .trap t := by
  rw [tcpyRes, if_neg hact, hc, ht]
  rfl

theorem tcpyTrap_badField {k : Nat} {g : Nat} {bad : Option Nat} {mis : Bool} {out : Option TrapRec} (hbad : bad = some k) :
    tcpyTrap r x g bad mis out = some { x.illegalOperand with info := r.a.field.toNat + k } := by
  rw [hbad]
  rfl

theorem tcpyTrap_misaligned {g : Nat} {bad : Option Nat} {mis : Bool} {out : Option TrapRec} (hbad : bad = none) (hm : mis = true) :
    tcpyTrap r x g bad mis out = some { x.trap 0x08 with addr := g } := by
  rw [hbad, hm]
  rfl

theorem tcpyTrap_outside {g : Nat} {bad : Option Nat} {mis : Bool} {out : Option TrapRec} (hbad : bad = none) (hm : mis = false) :
    tcpyTrap r x g bad mis out = out := by
  rw [hbad, hm]
  rfl

theorem tcpyRes_sound (h : tcpySound r d bar xs s x) : tcpyRes r d s x bar xs =
    (tcpyLook d s x).then (startsIn r s x (d.pages.map (fun a => a.va)) (tcpyTraffic r d s x (tcpyFilled d s x))
      (tcpyStarted r d s x bar)) := by
  obtain ⟨hact, hc, hbad, hm, ho⟩ := h
  rw [tcpyRes, if_neg hact, hc, tcpyTrap_outside hbad hm, ho]
  rfl

theorem tcpyRes_passes (h : tcpySound r d bar xs s x) (hok : (tcpyLook d s x).res = .ok) : tcpyRes r d s x bar xs =
    startsIn r s x (d.pages.map (fun a => a.va)) (tcpyTraffic r d s x (tcpyFilled d s x)) (tcpyStarted r d s x bar) := by
  rw [tcpyRes_sound h, then_ok hok]

end

/-! ## The obligation -/

theorem copyChecks_trap (r : RWord) (i : Instr) (bar : Bool) (t : TrapRec)
    (hi : (∃ dir size, i = .cpy r dir size bar) ∨ (∃ sat rnd xs st, i = .tcpy r sat rnd bar xs st)) :
    DoesIf i r.head (fun s x => x.act ≠ 0#32 ∧ s.copyChecks x r.b.field.toNat (copyBar r bar) = some t)
      (fun s x => s.trapped x t) := by
  obtain ⟨dir, size, rfl⟩ | ⟨sat, rnd, xs, st, rfl⟩ := hi
  · exact doesIf_of (r := fun _ _ => .trap t) (exec_cpy r dir · size bar) (fun _ _ ⟨hact, ht⟩ => cpyRes_bad hact ht)
  · exact doesIf_of (r := fun _ _ => .trap t) (exec_tcpy r sat rnd bar xs st) (fun _ _ ⟨hact, ht⟩ => tcpyRes_bad hact ht)

/-- Settles O33: what each of the two words comes to is said once (`cpyRes`, `tcpyRes`), check by check in their order. -/
theorem copyWords : Obligations.CopyWords := by
  unfold Obligations.CopyWords
  refine ⟨fun r dir size bar => ?_, fun r dir size bar => ?_, fun r sat rnd bar xs st => ?_, fun r sat rnd bar xs st => ?_,
    fun r dir size bar t vas => ?_, fun r dir size bar vas => ?_, fun r dir size bar => ?_, fun r dir size bar => ?_,
    fun r sat rnd bar xs st k => ?_, fun r sat rnd bar xs st => ?_, fun r sat rnd bar xs st t => ?_,
    fun r sat rnd bar xs st => ?_, fun r sat rnd bar xs st t => ?_, fun r sat rnd bar xs st => ?_,
    fun r sat rnd bar xs st => ?_, copyChecks_trap, copyLaneChecks, descriptorChecks⟩
  · exact doesIf_of (r := fun s _ => .go s) (exec_cpy r dir · size bar) (fun _ _ hact => if_pos hact)
  · exact doesIf_of (r := fun s x => .go (cpyStarted r dir (CpySize.bytes size) s x bar)) (exec_cpy r dir · size bar)
      (fun _ _ ⟨hact, hc, hok, hp, hr⟩ => (cpyRes_passes hact hc hok).trans (startsIn_starts hp hr))
  · exact doesIf_of (r := fun s _ => .go s) (exec_tcpy r sat rnd bar xs st) (fun _ _ hact => if_pos hact)
  · exact doesIf_of (r := fun s x => .go (tcpyStarted r (s.latch x (s.issuer x) r sat rnd xs st) s x bar))
      (exec_tcpy r sat rnd bar xs st) (fun _ _ ⟨h, hok, hp, hr⟩ => (tcpyRes_passes h hok).trans (startsIn_starts hp hr))
  · exact doesIf_of (r := fun _ _ => .trapLooked vas t) (exec_cpy r dir · size bar)
      (fun _ _ ⟨hact, hc, hstop⟩ => cpyRes_stops hact hc hstop)
  · exact doesIf_of (r := fun _ _ => .held vas false) (exec_cpy r dir · size bar)
      (fun _ _ ⟨hact, hc, hstop⟩ => cpyRes_stops hact hc hstop)
  · refine doesIf_of (r := fun s x => .held ((cpyAll r dir s x).map (fun a => a.2)) false) (exec_cpy r dir · size bar) ?_
    exact fun _ _ ⟨hact, hc, hok, hp⟩ => (cpyRes_passes hact hc hok).trans (startsIn_placeless hp)
  · refine doesIf_of (r := fun s x => .held ((cpyAll r dir s x).map (fun a => a.2)) (!s.entriesFor (s.issuer x).team
        r.b.field.toNat (destPairs (cpyTraffic r dir (CpySize.bytes size) s x (cpyFilled r dir s x))))) (exec_cpy r dir · size bar) ?_
    exact fun _ _ ⟨hact, hc, hok, hp, hr⟩ => (cpyRes_passes hact hc hok).trans (startsIn_roomless hp hr)
  · exact doesIf_of (r := fun _ x => .trap { x.illegalOperand with info := r.a.field.toNat + k }) (exec_tcpy r sat rnd bar xs st)
      (fun _ _ ⟨hact, hc, hbad⟩ => tcpyRes_trap hact hc (tcpyTrap_badField hbad))
  · exact doesIf_of (r := fun s x => .trap { x.trap 0x08 with addr := (s.latch x (s.issuer x) r sat rnd xs st).g })
      (exec_tcpy r sat rnd bar xs st) (fun _ _ ⟨hact, hc, hbad, hm⟩ => tcpyRes_trap hact hc (tcpyTrap_misaligned hbad hm))
  · exact doesIf_of (r := fun _ _ => .trap t) (exec_tcpy r sat rnd bar xs st)
      (fun _ _ ⟨hact, hc, hbad, hm, ho⟩ => tcpyRes_trap hact hc ((tcpyTrap_outside hbad hm).trans ho))
  · exact doesIf_of (r := fun s x => .held (tcpyLook (s.latch x (s.issuer x) r sat rnd xs st) s x).vas false)
      (exec_tcpy r sat rnd bar xs st) (fun _ _ ⟨h, hw⟩ => (tcpyRes_sound h).trans (then_wait hw))
  · exact doesIf_of (r := fun s x => .trapLooked (tcpyLook (s.latch x (s.issuer x) r sat rnd xs st) s x).vas t)
      (exec_tcpy r sat rnd bar xs st) (fun _ _ ⟨h, ht⟩ => (tcpyRes_sound h).trans (then_trap ht))
  · refine doesIf_of (r := fun s x => .held ((s.latch x (s.issuer x) r sat rnd xs st).pages.map (fun a => a.va)) false)
      (exec_tcpy r sat rnd bar xs st) ?_
    exact fun _ _ ⟨h, hok, hp⟩ => (tcpyRes_passes h hok).trans (startsIn_placeless hp)
  · refine doesIf_of (r := fun s x => .held ((s.latch x (s.issuer x) r sat rnd xs st).pages.map (fun a => a.va))
        (!s.entriesFor (s.issuer x).team r.b.field.toNat (destPairs (tcpyTraffic r (s.latch x (s.issuer x) r sat rnd xs st) s x
          (tcpyFilled (s.latch x (s.issuer x) r sat rnd xs st) s x)))))
      (exec_tcpy r sat rnd bar xs st) ?_
    exact fun _ _ ⟨h, hok, hp, hr⟩ => (tcpyRes_passes h hok).trans (startsIn_roomless hp hr)
end Sys2Proof.Machine

namespace Sys2Proof.Machine
/-! # The life of a copy after its issue (R337–R340, R349–R351, R356–R362) -/

/-! ## Transfer operations -/

section
variable {s : State} {id op team : Nat} {data old : List ReadReturn} {cp : Copy} {o : XferOp}

/-- Operation op of a copy of a team that is not saved is still to be done. -/
def State.xferReady (s : State) (id op team : Nat) (cp : Copy) (o : XferOp) : Prop := s.copyTeam id = some team ∧
  (s.team team).state ≠ .saved ∧ Tab.find (s.team team).copies id = some cp ∧ cp.ops[op]? = some o ∧ o.done = false

/-- A transfer operation as it begins, with its bytes. -/
abbrev xferBegun (cp : Copy) (o : XferOp) (data : List ReadReturn) : XferOp :=
  { o with lanes := mergeLanes o.lanes, left := cp.elems { o with lanes := mergeLanes o.lanes } data }

theorem exec_transferOperation_ready (h : s.xferReady id op team cp o) : exec (.transferOperation id op data) s =
    match o.got with
    | some old => .next (s.stepXfer team id op cp o old)
    | none =>
      if s.copyWaits team id cp (xferBegun cp o data) || !dataFits id op team o.reads data then .next s
      else .next ((s.takeData data).elim s
        (fun s => (s.beginXfer team id op cp data).stepXfer team id op cp (xferBegun cp o data) data)) := by
  obtain ⟨hteam, hsaved, hcopy, hop, hdone⟩ := h
  show execTransferOperation id op data s = _
  simp only [execTransferOperation, hteam, hcopy, hop]
  exact if_neg (by simp [hsaved, hdone])

theorem exec_transferOperation_begins {t : State} (h : s.xferReady id op team cp o) (hgot : o.got = none)
    (hwaits : s.copyWaits team id cp (xferBegun cp o data) = false) (hfits : dataFits id op team o.reads data = true)
    (htake : s.takeData data = some t) : exec (.transferOperation id op data) s =
      .next ((t.beginXfer team id op cp data).stepXfer team id op cp (xferBegun cp o data) data) := by
  rw [exec_transferOperation_ready h, hgot, hwaits, hfits, htake]
  rfl

theorem exec_transferOperation_continues (h : s.xferReady id op team cp o) (hgot : o.got = some old) :
    exec (.transferOperation id op data) s = .next (s.stepXfer team id op cp o old) := by
  rw [exec_transferOperation_ready h, hgot]

theorem exec_transferOperation_waits (h : s.xferReady id op team cp o) (hgot : o.got = none)
    (hwaits : s.copyWaits team id cp (xferBegun cp o data) = true) : exec (.transferOperation id op data) s = .next s := by
  rw [exec_transferOperation_ready h, hgot, hwaits]
  rfl

end

/-! ## The completion of a copy -/

section
variable {s : State} {id team : Nat} {cp : Copy}

/-- The copy has done all its operations and writes. -/
def State.copyFinished (s : State) (id team : Nat) (cp : Copy) : Prop := s.copyTeam id = some team ∧
  (s.team team).state ≠ .saved ∧ Tab.find (s.team team).copies id = some cp ∧ (s.team team).copyDone id cp = true

/-- A course that a copy has been counted off, with the copy's flags. -/
abbrev Course.copyOff (c : Course) (id : Nat) (cp : Copy) : Course :=
  { (c.opDone .copy cp.count).orFlags (cp.flags &&& cp.may) with holds := c.holds.filter (fun k => k.1 != id) }

/-- The state that a copy has been counted off. -/
abbrev State.copyOff (s : State) (id team : Nat) (cp : Copy) : State :=
  (s.onTeam team (fun t => { t with copies := Tab.del t.copies id })).onCourse cp.crs (fun c => c.copyOff id cp)

@[simp] theorem copyOff_course (s : State) (id team : Nat) (cp : Copy) :
    (s.copyOff id team cp).course cp.crs = (s.course cp.crs).copyOff id cp := course_onCourse_same ..

theorem copyOff_team (s : State) (id team : Nat) (cp : Copy) :
    (s.copyOff id team cp).team team = { s.team team with copies := Tab.del (s.team team).copies id } :=
  team_onTeam_same s team (fun t => { t with copies := Tab.del t.copies id })

theorem exec_copyComplete_finished (h : s.copyFinished id team cp) : exec (.copyComplete id) s =
    .next ((match cp.bar with
      | some b => (s.copyOff id team cp).setBar team b (((s.copyOff id team cp).bar team b).arrive 1)
      | none => s.copyOff id team cp).heldTrap cp.crs cp.slot cp.pc cp.act (cp.flags &&& cp.may)) := by
  obtain ⟨hteam, hsaved, hcopy, hdone⟩ := h
  show execCopyComplete id s = _
  simp only [execCopyComplete, hteam, hcopy]
  exact if_neg (by simp [hsaved, hdone])

theorem heldTrap_raises {crs j pc : Nat} {act : LaneMask} {fl : Word} (htraps : (s.course crs).trapsOn fl = true)
    (htaken : (s.course crs).taken j = true) (hsup : (s.course crs).sup = none) (hre : (s.course crs).reenter = none)
    (hw : ((s.course crs).slotN j).wait = .none) : s.heldTrap crs j pc act fl =
      s.raise crs j { arithTrap pc act fl with resume := ((s.course crs).slotN j).pc } := by
  simp [State.heldTrap, htraps, htaken, hsup, hre, hw]

theorem copyComplete_counts (h : s.copyFinished id team cp) (hquiet : (s.course cp.crs).trapsOn (cp.flags &&& cp.may) = false)
    (hbar : cp.bar = none) : exec (.copyComplete id) s = .next (s.copyOff id team cp) := by
  rw [exec_copyComplete_finished h, hbar]
  exact congrArg Host.Outcome.next (heldTrap_quiet (by rw [copyOff_course]; exact hquiet))

theorem copyComplete_traps (h : s.copyFinished id team cp) (htraps : (s.course cp.crs).trapsOn (cp.flags &&& cp.may) = true)
    (hbar : cp.bar = none) (htaken : (s.course cp.crs).taken cp.slot = true) (hsup : (s.course cp.crs).sup = none)
    (hre : (s.course cp.crs).reenter = none) (hw : ((s.course cp.crs).slotN cp.slot).wait = .none) :
    exec (.copyComplete id) s = .next ((s.copyOff id team cp).raise cp.crs cp.slot
      { arithTrap cp.pc cp.act (cp.flags &&& cp.may) with resume := ((s.course cp.crs).slotN cp.slot).pc }) := by
  have hc := copyOff_course s id team cp
  rw [exec_copyComplete_finished h, hbar]
  show Host.Outcome.next ((s.copyOff id team cp).heldTrap cp.crs cp.slot cp.pc cp.act (cp.flags &&& cp.may)) = _
  rw [heldTrap_raises (by rw [hc]; exact htraps) (by rw [hc]; exact htaken) (by rw [hc]; exact hsup) (by rw [hc]; exact hre)
    (by rw [hc]; exact hw), hc]
  rfl

theorem copyComplete_arrives {b : Nat} (h : s.copyFinished id team cp)
    (hquiet : (s.course cp.crs).trapsOn (cp.flags &&& cp.may) = false) (hbar : cp.bar = some b) :
    ∃ t, exec (.copyComplete id) s = .next t ∧ t.bar team b = (s.bar team b).arrive 1 ∧
      Tab.find (t.team team).copies id = none := by
  have hbars : (s.copyOff id team cp).bar team b = s.bar team b := by rw [State.bar, copyOff_team]; rfl
  refine ⟨(s.copyOff id team cp).setBar team b ((s.bar team b).arrive 1), ?_, ?_, ?_⟩
  · rw [← hbars, exec_copyComplete_finished h, hbar]
    refine congrArg Host.Outcome.next (heldTrap_quiet ?_)
    show ((s.copyOff id team cp).course cp.crs).trapsOn (cp.flags &&& cp.may) = false
    rw [copyOff_course]
    exact hquiet
  · rw [State.bar, State.setBar, team_onTeam_same, Tab.get_put_same]
  · rw [State.setBar, team_onTeam_same, copyOff_team, Tab.find_del_same]

end

/-! ## WAITC and the copy path -/

theorem waitc_goes (r : RWord) (path : EnginePath) : DoesIf (.waitc r path) r.head
    (fun s x => x.act = 0#32 ∨ ((s.issuer x).eng.path path).length ≤ s.usrc x r.a) (fun s x => s.went x) :=
  doesIf_of (r := fun s _ => .go s) (fun _ => rfl) fun s x h => by
    show (if x.act = 0#32 then Res.go s else if ((s.issuer x).eng.path path).length ≤ s.usrc x r.a then .go s else _) = .go s
    obtain hact | hle := h
    · rw [if_pos hact]
    · rw [if_pos hle, ite_self]

theorem waitc_waits (r : RWord) (path : EnginePath) : DoesIf (.waitc r path) r.head
    (fun s x => x.act ≠ 0#32 ∧ s.usrc x r.a < ((s.issuer x).eng.path path).length)
    (fun s x => s.waits x (.waitc path (s.usrc x r.a))) :=
  doesIf_of (r := fun s x => .wait s (.waitc path (s.usrc x r.a))) (fun _ => rfl)
    (fun _ _ ⟨hact, hlt⟩ => (if_neg hact).trans (if_neg (Nat.not_le.2 hlt)))

theorem exec_waitcComplete {s : State} {crs j n : Nat} {path : EnginePath}
    (hw : ((s.course crs).slotN j).wait = .waitc path n) (hrun : s.running (s.course crs) = true)
    (hle : ((s.course crs).eng.path path).length ≤ n) :
    exec (.waitcComplete crs j) s = .next (s.advance crs j ((s.course crs).slotN j).act) := by
  show execWaitcComplete crs j s = _
  simp [execWaitcComplete, hw, hrun, hle]

theorem path_setPath (e : Engines) (p q : EnginePath) (l : List Counted) :
    (e.setPath p l).path q = if q = p then l else e.path q := by
  cases p <;> cases q <;> rfl

theorem exec_engineOpRetire (s : State) (crs : Nat) (path : EnginePath) : ∃ t, exec (.engineOpRetire crs path) s = .next t ∧
    ((t.course crs).eng.path path) = ((s.course crs).eng.path path).dropWhile (fun k => k.done) ∧
    (∀ p, p ≠ path → (t.course crs).eng.path p = (s.course crs).eng.path p) := by
  refine ⟨_, rfl, ?_, fun p hp => ?_⟩
  · rw [course_onCourse_same, path_setPath, if_pos rfl]
  · rw [course_onCourse_same, path_setPath, if_neg hp]

/-- Settles O34, event by event. -/
theorem copyProgress : Obligations.CopyProgress :=
  ⟨fun _ _ _ _ _ _ _ _ => exec_transferOperation_begins, fun _ _ _ _ _ _ _ _ => exec_transferOperation_continues,
    fun _ _ _ _ _ _ _ => exec_transferOperation_waits, fun _ _ _ _ => copyComplete_counts,
    fun _ _ _ _ => copyComplete_traps, fun _ _ _ _ _ => copyComplete_arrives, waitc_goes, waitc_waits,
    fun _ _ _ _ _ => exec_waitcComplete, exec_engineOpRetire⟩
end Sys2Proof.Machine

namespace Sys2Proof.Machine
/-! # The words of the matrix unit (R369–R373, R376–R385, R390) -/

/-! ## MMA and MMAS -/

section
variable (r : RWord) (fa fb : MatFmt) (z : Bool) (sc : Option Nat) (s : State) (x : Ctx)

/-- The fragments that a matrix word reads, each with its lanes. -/
abbrev matRegs : List (Nat × LaneMask) :=
  (List.range 8).map (fun i => (r.a.field.toNat + i, x.act)) ++
    (List.range 8).map (fun i => (r.b.field.toNat + i, s.columnLanes (s.issuer x))) ++
    sc.toList.map (fun n => (n, s.columnLanes (s.issuer x)))

/-- A fragment of the word is empty. -/
abbrev matEmpty : Bool := (matRegs r sc s x).any (fun g => (s.issuer x).laneEmpty x.sup g.1 g.2)

/-- The first poisoned register of the word's fragments, with its lane. -/
abbrev matBad : Option (Nat × Nat) := ((matRegs r sc s x).flatMap (fun g =>
  ((lanesOf g.2).filter (fun L => s.lanePoison (s.issuer x) x.sup g.1 L)).map (fun L => (L, g.1)))).head?

/-- The quarters of the warp that the word works on. -/
abbrev matQuarters : List Nat := [0, 1, 2, 3].filter (fun q => (lanesOf x.act).any (fun L => L / 8 == q))

/-- The format register that a format names. -/
abbrev matWord : Word := (matFm fa).elim 0#32 (s.issuer x).fmReg

/-- The scale of a lane, 0 without one. -/
abbrev matScaleOf (L : Nat) : Word := (sc.map (fun n => s.laneVal (s.issuer x) x.sup n L)).getD 0#32

/-- The quarter-operations of the word. -/
abbrev matWorks : List MatWork := (matQuarters x).map (fun k => MatWork.quarter (r.d.toNat + k)
  (((lanesOf x.act).filter (fun L => L / 8 == k)).map (fun L =>
    (L % 8, s.fragment x (s.issuer x) r.a.field.toNat L, matScaleOf sc s x L)))
  ((lanesOf (s.columnLanes (s.issuer x))).map (fun L => (L, s.fragment x (s.issuer x) r.b.field.toNat L, matScaleOf sc s x L)))
  fa fb (matWord fa s x) (matWord fb s x)
  (matDepth (matFmtOf fa (matWord fa s x)) (matFmtOf fb (matWord fb s x))) sc.isSome z x.ftz 0)

/-- The state that the word's entries have joined the queue of its bay. -/
abbrev matQueued : State := s.enqueue x (matWorks r fa fb z sc s x)
  (matMay (matFmtOf fa (matWord fa s x)) (matFmtOf fb (matWord fb s x)) sc.isSome) true (s.issuer x).nextPend

/-- The trap of a matrix word with a poisoned fragment, or with a format register that names no format. -/
abbrev matTrap : Option TrapRec := ((matBad r sc s x).map x.dataError).or
  (((s.issuer x).badFormat ([fa, fb].filterMap matFm)).map x.formatTrap)

theorem matrixWord_eq : s.matrixWord x r fa fb z sc =
    if x.act = 0#32 then .go s
    else if matEmpty r sc s x then (if x.h.e then .trap (x.trap 0x09) else .block true)
    else ((matTrap r fa fb sc s x).map Res.trap).getD
      (if !s.queueRoom (s.issuer x) (matQuarters x).length then .block false else .go (matQueued r fa fb z sc s x)) := by
  by_cases hact : x.act = 0#32
  · exact (if_pos hact).trans (if_pos hact).symm
  · refine (if_neg hact).trans (Eq.trans ?_ (if_neg hact).symm)
    by_cases hempty : matEmpty r sc s x
    · exact (if_pos hempty).trans (if_pos hempty).symm
    · refine (if_neg hempty).trans (Eq.trans ?_ (if_neg hempty).symm)
      unfold matTrap matBad matRegs
      generalize List.head? _ = bad
      generalize (s.issuer x).badFormat ([fa, fb].filterMap matFm) = wrong
      match bad, wrong with
      | some _, _ => rfl
      | none, some _ => rfl
      | none, none => rfl

/-- The flags that a matrix word can set: none where it accumulates integers. -/
theorem matMay_eq (f g : Fmt) (scaled : Bool) :
    (if f.e == 0 && g.e == 0 && !scaled then 0#32 else matMay f g scaled) = matMay f g scaled := by
  unfold matMay
  split <;> rfl
end

section
variable {i : Instr} {r : RWord} {fa fb : MatFmt} {z : Bool} {sc : Option Nat}
  (hx : ∀ s, exec i s = s.issue i r.head (fun x => s.matrixWord x r fa fb z sc))
include hx

theorem matrixWord_idle : DoesIf i r.head (fun _ x => x.act = 0#32) (fun s x => s.went x) :=
  doesIf_of (r := fun s _ => .go s) hx (fun _ _ hact => (matrixWord_eq ..).trans (if_pos hact))

theorem matrixWord_queues : DoesIf i r.head (fun s x => x.act ≠ 0#32 ∧ matEmpty r sc s x = false ∧ matBad r sc s x = none ∧
      (s.issuer x).badFormat ([fa, fb].filterMap matFm) = none ∧ s.queueRoom (s.issuer x) (matQuarters x).length = true)
    (fun s x => (matQueued r fa fb z sc s x).went x) :=
  doesIf_of (r := fun s x => .go (matQueued r fa fb z sc s x)) hx (fun s x ⟨hact, hempty, hbad, hfmt, hroom⟩ => by
    rw [matrixWord_eq, if_neg hact, hempty, matTrap, hbad, hfmt, hroom]
    rfl)

theorem matrixWord_full : DoesIf i r.head (fun s x => x.act ≠ 0#32 ∧ matEmpty r sc s x = false ∧ matBad r sc s x = none ∧
      (s.issuer x).badFormat ([fa, fb].filterMap matFm) = none ∧ s.queueRoom (s.issuer x) (matQuarters x).length = false)
    (fun s x => s.blocked x false) :=
  doesIf_of (r := fun _ _ => .block false) hx (fun s x ⟨hact, hempty, hbad, hfmt, hroom⟩ => by
    rw [matrixWord_eq, if_neg hact, hempty, matTrap, hbad, hfmt, hroom]
    rfl)

theorem matrixWord_empty : DoesIf i r.head (fun s x => x.act ≠ 0#32 ∧ matEmpty r sc s x = true)
    (fun s x => if x.h.e then s.trapped x (x.trap 0x09) else s.blocked x true) := by
  refine cast ?_ (doesIf_of (r := fun _ x => if x.h.e then .trap (x.trap 0x09) else .block true) hx
    (fun s x (h : x.act ≠ 0#32 ∧ matEmpty r sc s x = true) => by rw [matrixWord_eq, if_neg h.1, if_pos h.2]))
  refine congrArg (DoesIf i r.head _) (funext fun s => funext fun x => ?_)
  cases x.h.e <;> rfl

theorem matrixWord_poisoned (p : Nat × Nat) :
    DoesIf i r.head (fun s x => x.act ≠ 0#32 ∧ matEmpty r sc s x = false ∧ matBad r sc s x = some p)
      (fun s x => s.trapped x (x.dataError p)) :=
  doesIf_of (r := fun _ x => .trap (x.dataError p)) hx (fun s x ⟨hact, hempty, hbad⟩ => by
    rw [matrixWord_eq, if_neg hact, hempty, matTrap, hbad]
    rfl)

theorem matrixWord_formatless (n : Nat) : DoesIf i r.head (fun s x => x.act ≠ 0#32 ∧ matEmpty r sc s x = false ∧
      matBad r sc s x = none ∧ (s.issuer x).badFormat ([fa, fb].filterMap matFm) = some n)
    (fun s x => s.trapped x (x.formatTrap n)) :=
  doesIf_of (r := fun _ x => .trap (x.formatTrap n)) hx (fun s x ⟨hact, hempty, hbad, hfmt⟩ => by
    rw [matrixWord_eq, if_neg hact, hempty, matTrap, hbad, hfmt]
    rfl)

end

/-! ## ACCLD and ACCST -/

section
variable {i : Instr} {m : MWord} {kind : Nat}

/-- The address of a tile in the team's shared memory. -/
abbrev tileAddr (m : MWord) (s : State) (x : Ctx) : Int := s.effAddr x (s.issuer x) m 1 0

/-- The tile's bytes lie in the team's shared memory, in whole lines. -/
abbrev tileInTeam (m : MWord) (s : State) (x : Ctx) : Prop :=
  tileAddr m s x % 128 = 0 ∧ 0 ≤ tileAddr m s x ∧ tileAddr m s x + 1024 ≤ ((s.lrOf (s.issuer x)).shared : Int)

/-- What ACCLD or ACCST puts into the queue. -/
abbrev tileWork (m : MWord) (kind : Nat) (s : State) (x : Ctx) : MatWork :=
  if kind = 0 then MatWork.load m.ds.toNat (tileAddr m s x).toNat tileParts
  else MatWork.store m.ds.toNat (tileAddr m s x).toNat tileParts

variable (hx : ∀ s, exec i s = s.issue i m.head (fun x => s.tileWord x m kind))
include hx

theorem tileWord_idle : DoesIf i m.head (fun _ x => x.act = 0#32) (fun s x => s.went x) :=
  doesIf_of (r := fun s _ => .go s) hx (fun _ _ hact => if_pos hact)

theorem tileWord_queues : DoesIf i m.head
    (fun s x => x.act ≠ 0#32 ∧ tileInTeam m s x ∧ s.queueRoom (s.issuer x) 1 = true)
    (fun s x => (s.enqueue x [tileWork m kind s x] 0#32 true (s.issuer x).nextPend).went x) :=
  doesIf_of (r := fun s x => .go (s.enqueue x [tileWork m kind s x] 0#32 true (s.issuer x).nextPend)) hx
    (fun s x ⟨hact, ⟨ha, hlo, hhi⟩, hroom⟩ => (if_neg hact).trans ((if_neg (not_not_intro ha)).trans
      ((if_neg (by simp only [tileAddr] at hlo hhi; simp only [Bool.or_eq_true, decide_eq_true_eq]; omega)).trans (if_neg (by rw [hroom]; decide)))))

theorem tileWord_misaligned : DoesIf i m.head (fun s x => x.act ≠ 0#32 ∧ tileAddr m s x % 128 ≠ 0)
    (fun s x => s.trapped x { x.trap 0x08 with addr := intBits (tileAddr m s x) 64 }) :=
  doesIf_of (r := fun s x => .trap { x.trap 0x08 with addr := intBits (tileAddr m s x) 64 }) hx
    (fun _ _ ⟨hact, ha⟩ => (if_neg hact).trans (if_pos ha))

theorem tileWord_outside : DoesIf i m.head
    (fun s x => x.act ≠ 0#32 ∧ tileAddr m s x % 128 = 0 ∧ ¬ tileInTeam m s x)
    (fun s x => s.trapped x { x.trap 0x07 with sub := 2, addr := intBits (tileAddr m s x) 64, info := kind }) :=
  doesIf_of (r := fun s x => .trap { x.trap 0x07 with sub := 2, addr := intBits (tileAddr m s x) 64, info := kind }) hx
    (fun s x ⟨hact, ha, hout⟩ => (if_neg hact).trans ((if_neg (not_not_intro ha)).trans
      (if_pos (by simp only [tileInTeam, not_and_or, not_le, ha] at hout; simp only [Bool.or_eq_true, decide_eq_true_eq]; simpa using hout))))

end

/-! ## ACCZ, ACCRD and MBATCH -/

theorem accz_idle (r : RWord) : DoesIf (.accz r) r.head (fun _ x => x.act = 0#32) (fun s x => s.went x) :=
  doesIf_of (r := fun s _ => .go s) (fun _ => rfl) (fun _ _ hact => if_pos hact)

theorem accz_queues (r : RWord) : DoesIf (.accz r) r.head
    (fun s x => x.act ≠ 0#32 ∧ r.d.toNat + r.a.field.toNat ≤ 4 * (s.lrOf (s.issuer x)).tiles ∧ s.queueRoom (s.issuer x) 1 = true)
    (fun s x => (s.enqueue x [.zero r.d.toNat r.a.field.toNat] 0#32 true (s.issuer x).nextPend).went x) :=
  doesIf_of (r := fun s x => .go (s.enqueue x [.zero r.d.toNat r.a.field.toNat] 0#32 true (s.issuer x).nextPend)) (fun _ => rfl)
    (fun _ _ ⟨hact, hle, hroom⟩ => (if_neg hact).trans ((if_neg (Nat.not_lt.2 hle)).trans (if_neg (by rw [hroom]; decide))))

theorem accz_traps (r : RWord) : DoesIf (.accz r) r.head
    (fun s x => x.act ≠ 0#32 ∧ 4 * (s.lrOf (s.issuer x)).tiles < r.d.toNat + r.a.field.toNat)
    (fun s x => s.trapped x x.illegalOperand) :=
  doesIf_of (r := fun _ x => .trap x.illegalOperand) (fun _ => rfl) (fun _ _ ⟨hact, hlt⟩ => (if_neg hact).trans (if_pos hlt))

theorem accrd_idle (r : RWord) : DoesIf (.accrd r) r.head (fun _ x => x.act = 0#32) (fun s x => s.went x) :=
  doesIf_of (r := fun s _ => .go s) (fun _ => rfl) (fun _ _ hact => if_pos hact)

/-- The state that an ACCRD has joined the queue, its registers empty. -/
abbrev accrdQueued (r : RWord) (s : State) (x : Ctx) : State :=
  (s.addPend x .other .remote (lateFills x false r.d.toNat 8) 0#32 0#32).enqueue x
    [.read r.a.field.toNat (s.issuer x).nextPend r.d.toNat x.sup x.act] 0#32 false (s.issuer x).nextPend

theorem accrd_queues (r : RWord) : DoesIf (.accrd r) r.head (fun s x => x.act ≠ 0#32 ∧ s.queueRoom (s.issuer x) 1 = true)
    (fun s x => (accrdQueued r s x).went x) :=
  doesIf_of (r := fun s x => .go (accrdQueued r s x)) (fun _ => rfl)
    (fun _ x ⟨hact, hroom⟩ => (if_neg hact).trans ((if_neg (by rw [hroom]; decide)).trans
      (by rw [accrdQueued, ← fills_eq false r.d.toNat 8 hact])))

theorem mbatch_idle (h : Head) : DoesIf (.mbatch h) h (fun _ x => x.act = 0#32) (fun s x => s.went x) :=
  doesIf_of (r := fun s _ => .go s) (fun _ => rfl) (fun _ _ hact => if_pos hact)

theorem mbatch_counts (h : Head) : DoesIf (.mbatch h) h (fun s x => x.act ≠ 0#32 ∧ (s.issuer x).eng.mat.length < 255)
    (fun s x => (s.setCourse x.crs { (s.issuer x).countOp .mat (s.issuer x).openAcc with openAcc := [] }).went x) :=
  doesIf_of (r := fun s x => .go (s.setCourse x.crs { (s.issuer x).countOp .mat (s.issuer x).openAcc with openAcc := [] }))
    (fun _ => rfl) (fun _ _ ⟨hact, hlt⟩ => (if_neg hact).trans (if_neg (Nat.not_le.2 hlt)))

theorem mbatch_waits (h : Head) : DoesIf (.mbatch h) h (fun s x => x.act ≠ 0#32 ∧ 255 ≤ (s.issuer x).eng.mat.length)
    (fun s x => s.blocked x false) :=
  doesIf_of (r := fun _ _ => .block false) (fun _ => rfl) (fun _ _ ⟨hact, hle⟩ => (if_neg hact).trans (if_pos hle))

/-- Settles O35, word by word. -/
theorem matrixWords : Obligations.MatrixWords := by
  unfold Obligations.MatrixWords
  simp only [matMay_eq]
  have product {i : Instr} {r : RWord} {fa fb : MatFmt} {z : Bool} {sc : Option Nat}
      (hx : ∀ s, exec i s = s.issue i r.head (fun x => s.matrixWord x r fa fb z sc)) :=
    And.intro (matrixWord_idle hx) (And.intro (matrixWord_queues hx) (And.intro (matrixWord_full hx)
      (And.intro (matrixWord_empty hx) (And.intro (matrixWord_poisoned hx) (matrixWord_formatless hx)))))
  have tile {i : Instr} {m : MWord} {kind : Nat} (hx : ∀ s, exec i s = s.issue i m.head (fun x => s.tileWord x m kind)) :=
    And.intro (tileWord_idle hx) (And.intro (tileWord_queues hx) (And.intro (tileWord_misaligned hx) (tileWord_outside hx)))
  refine ⟨fun r fa fb z => ?_, fun r fa fb z => ?_, accz_idle, accz_queues, accz_traps,
    fun _ => ?_, fun _ => ?_, accrd_idle, accrd_queues, mbatch_idle, mbatch_counts, mbatch_waits⟩
  · exact product (fun _ => rfl)
  · exact product (fun _ => rfl)
  · exact tile (kind := 0) (fun _ => rfl)
  · exact tile (kind := 1) (fun _ => rfl)
end Sys2Proof.Machine

namespace Sys2Proof.Machine
/-! # The matrix unit and accumulator memory (R369, R377–R384, R389) -/

/-! ## Tiles of accumulator memory -/

section
variable (t : Team) (tile o k i c : Nat)

theorem accElem_setAcc (i' c' : Nat) (e : AccElem) (hc : c < 32) (hc' : c' < 32) :
    (t.setAcc tile i' c' e).accElem tile i c = if i = i' ∧ c = c' then e else t.accElem tile i c := by
  rw [Team.accElem, Team.setAcc, Tab.get_put]
  have hkey : accKey tile i' c' = accKey tile i c ↔ i = i' ∧ c = c' := by
    simp only [accKey]
    omega
  simp only [hkey]
  rfl

theorem accElem_zeroTiles (n : Nat) (hi : i < 8) (hc : c < 32) :
    (t.zeroTiles tile n).accElem k i c = if tile ≤ k ∧ k < tile + n then {} else t.accElem k i c := by
  rw [Team.accElem, Team.zeroTiles]
  refine (Tab.get_filter {} (fun key => !(decide (tile * 256 ≤ key) && decide (key < (tile + n) * 256))) t.acc _).trans ?_
  have hlo : tile * 256 ≤ accKey k i c ↔ tile ≤ k := by rw [accKey]; omega
  have hhi : accKey k i c < (tile + n) * 256 ↔ k < tile + n := by rw [accKey]; omega
  simp only [hlo, hhi, ← Bool.decide_and, ← decide_not, decide_eq_true_eq, ite_not]
  rfl

/-- Elements of one row of a tile, written one after another from a column on. -/
theorem accElem_row (v : Nat → AccElem) (i₀ c₀ n : Nat) (hn : c₀ + n ≤ 32) (hc : c < 32) :
    ((List.range n).foldl (fun (u : Team) j => u.setAcc tile i₀ (c₀ + j) (v j)) t).accElem tile i c =
      if i = i₀ ∧ c₀ ≤ c ∧ c < c₀ + n then v (c - c₀) else t.accElem tile i c := by
  induction n with
  | zero => rw [if_neg (by omega)]; rfl
  | succ n ih =>
    rw [List.range_succ, List.foldl_append, List.foldl_cons, List.foldl_nil,
      accElem_setAcc _ _ _ _ _ _ _ hc (by omega), ih (by omega)]
    by_cases h : i = i₀ ∧ c = c₀ + n
    · rw [if_pos h, if_pos (by omega), h.2, Nat.add_sub_cancel_left]
    · rw [if_neg h]
      refine if_congr ?_ rfl rfl
      omega

theorem accElem_loadPart (hc : c < 32) : (t.loadPart tile o k).accElem tile i c =
    if k = 8 * i + c / 4 then
      ⟨wd (ofBytes (t.shared.read (o + 128 * i + 4 * c) 4)), poisonedIn t.shared.poison (o + 128 * i + 4 * c) 4⟩
    else t.accElem tile i c := by
  rw [Team.loadPart, partPlaces, List.foldl_map]
  refine (accElem_row t tile i c _ (k / 8) (4 * (k % 8)) 4 (by omega) hc).trans ?_
  by_cases h : k = 8 * i + c / 4
  · rw [if_pos h, if_pos (by omega)]
    simp only [show k / 8 = i by omega, show 4 * (k % 8) + (c - 4 * (k % 8)) = c by omega]
  · rw [if_neg h, if_neg (by omega)]

/-- Words of four bytes, written one after another from an address on. -/
theorem cellAt_words (b : Block) (v : Nat → List Byte) (bad : Nat → List Nat) (a₀ n a : Nat) (hv : ∀ j, (v j).length = 4) :
    cellAt ((List.range n).foldl (fun (b : Block) j => b.write (a₀ + 4 * j) (v j) (bad j)) b).mem a =
      if a₀ ≤ a ∧ a < a₀ + 4 * n then (v ((a - a₀) / 4)).getD ((a - a₀) % 4) 0#8 else cellAt b.mem a := by
  induction n with
  | zero => rw [if_neg (by omega)]; rfl
  | succ n ih =>
    rw [List.range_succ, List.foldl_append, List.foldl_cons, List.foldl_nil, Block.write, cellAt_cellsPut, hv, ih]
    by_cases h : a₀ + 4 * n ≤ a ∧ a < a₀ + 4 * n + 4
    · rw [if_pos h, if_pos (by omega), show (a - a₀) / 4 = n by omega, show (a - a₀) % 4 = a - (a₀ + 4 * n) by omega]
    · rw [if_neg h]
      refine if_congr ?_ rfl rfl
      omega

/-- A byte of shared memory after one 16-byte element of a tile is stored. -/
theorem cellAt_storePart (a : Nat) : cellAt (t.storePart tile o k).shared.mem a =
    if o + 16 * k ≤ a ∧ a < o + 16 * k + 16 then
      (bytesOf 4 (t.accElem tile (k / 8) (4 * (k % 8) + (a - (o + 16 * k)) / 4)).val.toNat).getD ((a - (o + 16 * k)) % 4) 0#8
    else cellAt t.shared.mem a := by
  have hplace : ∀ j, o + 128 * (k / 8) + 4 * (4 * (k % 8) + j) = o + 16 * k + 4 * j := fun j => by omega
  rw [Team.storePart, partPlaces, List.foldl_map]
  simp only [hplace]
  exact cellAt_words t.shared (fun j => bytesOf 4 (t.accElem tile (k / 8) (4 * (k % 8) + j)).val.toNat) _ _ 4 a
    (fun _ => length_bytesOf ..)

/-- A list of bytes is the list of its members. -/
theorem map_getD_range {l : List Byte} {n : Nat} (h : l.length = n) : (List.range n).map (fun j => l.getD j 0#8) = l := by
  refine List.ext_getElem (by simp [h]) fun j h₁ h₂ => ?_
  simp [h₂]

theorem read_storePart (hc : c < 32) (hkc : k = 8 * i + c / 4) :
    (t.storePart tile o k).shared.read (o + 128 * i + 4 * c) 4 = bytesOf 4 (t.accElem tile i c).val.toNat := by
  refine Eq.trans (List.map_congr_left fun j hj => ?_) (map_getD_range (length_bytesOf 4 (t.accElem tile i c).val.toNat))
  have hj4 : j < 4 := List.mem_range.1 hj
  rw [cellAt_storePart, if_pos (by omega), show k / 8 = i by omega,
    show 4 * (k % 8) + (o + 128 * i + 4 * c + j - (o + 16 * k)) / 4 = c by omega,
    show (o + 128 * i + 4 * c + j - (o + 16 * k)) % 4 = j by omega]

theorem read_storePart_other (a : Nat) (ha : a < o + 16 * k ∨ o + 16 * k + 16 ≤ a) :
    (t.storePart tile o k).shared.read a 1 = t.shared.read a 1 := by
  rw [Block.read, Block.read, cellsAt, cellsAt]
  refine List.map_congr_left fun j hj => ?_
  have hj1 : j < 1 := List.mem_range.1 hj
  rw [cellAt_storePart, if_neg (by omega)]

end

/-! ## Steps of quarter-operations -/

section
variable {s : State} {core bay : Nat} {e : MatEntry} {rest : List MatEntry}
  {tile : Nat} {rows cols : List (Nat × List Word × Word)} {fa fb : MatFmt} {wa wb : Word} {k : Nat} {sc z ftz : Bool} {n : Nat}

/-- The team of an entry of an operand queue. -/
abbrev State.entryTeam (s : State) (e : MatEntry) : Nat := (s.course e.crs).team

/-- What the step of a quarter-operation leaves of its team, and the flags that it sets. -/
abbrev State.entryStep (s : State) (e : MatEntry) (tile : Nat) (rows cols : List (Nat × List Word × Word)) (fa fb : MatFmt)
    (wa wb : Word) (k : Nat) (sc z ftz : Bool) (n : Nat) : Team × Word :=
  (s.team (s.entryTeam e)).quarterStep ⟨matFmtOf fa wa, matFmtOf fb wb, k, sc, ftz⟩ tile rows cols z n

theorem exec_quarterStep (hq : ((s.core core).bay bay).queue = e :: rest)
    (hw : e.work = .quarter tile rows cols fa fb wa wb k sc z ftz n) (hgo : s.stopsAtHalt e rest = false) :
    let r := s.entryStep e tile rows cols fa fb wa wb k sc z ftz n
    exec (.quarterStep core bay) s = if n + 1 < k / matStride k then .next ((s.setTeam (s.entryTeam e) r.1).setQueue core bay
        ({ e with work := .quarter tile rows cols fa fb wa wb k sc z ftz (n + 1), flags := e.flags ||| r.2 } :: rest))
      else .next ((s.setTeam (s.entryTeam e) r.1).quarterDone core bay e rest (e.flags ||| r.2)) := by
  intro r
  show execQuarterStep core bay s = _
  simp only [execQuarterStep, hq, hw, hgo]
  rfl

theorem goes_of_not_halting (h : (s.team (s.entryTeam e)).state ≠ .halting) : s.stopsAtHalt e rest = false := by
  simp [State.stopsAtHalt, h]

theorem quarterStep_continues (hq : ((s.core core).bay bay).queue = e :: rest)
    (hw : e.work = .quarter tile rows cols fa fb wa wb k sc z ftz n) (hrun : (s.team (s.entryTeam e)).state ≠ .halting)
    (hn : n + 1 < k / matStride k) :
    let r := s.entryStep e tile rows cols fa fb wa wb k sc z ftz n
    exec (.quarterStep core bay) s = .next ((s.setTeam (s.entryTeam e) r.1).setQueue core bay
      ({ e with work := .quarter tile rows cols fa fb wa wb k sc z ftz (n + 1), flags := e.flags ||| r.2 } :: rest)) :=
  (exec_quarterStep hq hw (goes_of_not_halting hrun)).trans (if_pos hn)

/-- The last quarter-operation of a word none of whose flags is enabled. -/
theorem quarterDone_last {fl : Word} (hquiet : (s.course e.crs).trapsOn (e.mates ||| wordFlags e.sup fl) = false) :
    s.quarterDone core bay e [] fl = (s.setQueue core bay []).onCourse e.crs (fun c =>
      (c.entryDone e.id).orFlags (wordFlags e.sup fl)) := by
  refine heldTrap_quiet ?_
  rw [course_onCourse_same]
  exact hquiet

theorem quarterStep_finishes (hq : ((s.core core).bay bay).queue = [e])
    (hw : e.work = .quarter tile rows cols fa fb wa wb k sc z ftz n) (hrun : (s.team (s.entryTeam e)).state ≠ .halting)
    (hn : k / matStride k ≤ n + 1) :
    let r := s.entryStep e tile rows cols fa fb wa wb k sc z ftz n
    (s.course e.crs).trapsOn (e.mates ||| wordFlags e.sup (e.flags ||| r.2)) = false →
    exec (.quarterStep core bay) s = .next (((s.setTeam (s.entryTeam e) r.1).setQueue core bay []).onCourse e.crs (fun c =>
      (c.entryDone e.id).orFlags (wordFlags e.sup (e.flags ||| r.2)))) :=
  fun hquiet => (exec_quarterStep hq hw (goes_of_not_halting hrun)).trans ((if_neg (Nat.not_lt.2 hn)).trans
    (congrArg Host.Outcome.next (quarterDone_last hquiet)))

theorem quarterStep_halts (hq : ((s.core core).bay bay).queue = [e])
    (hw : e.work = .quarter tile rows cols fa fb wa wb k sc z ftz n) (hhalt : (s.team (s.entryTeam e)).state = .halting) :
    exec (.quarterStep core bay) s = .next s := by
  have hstop : s.stopsAtHalt e [] = true := by simp [State.stopsAtHalt, State.readQueued, hhalt]
  show execQuarterStep core bay s = _
  simp only [execQuarterStep, hq, hw, hstop, if_true]

/-! ## Accumulator words -/

/-- The state that the entry at the head of a queue has left it. -/
abbrev State.entryLeaves (s : State) (core bay : Nat) (e : MatEntry) (rest : List MatEntry) : State :=
  (s.setQueue core bay rest).onCourse e.crs (fun c => c.entryDone e.id)

theorem accumulatorEntry_zeroes (hq : ((s.core core).bay bay).queue = e :: rest) (hw : e.work = .zero tile n) :
    exec (.accumulatorEntry core bay) s =
      .next ((s.onTeam (s.entryTeam e) (fun t => t.zeroTiles tile n)).entryLeaves core bay e rest) := by
  show execAccumulatorEntry core bay s = _
  simp only [execAccumulatorEntry, hq, hw]

theorem accumulatorEntry_reads {pid d : Nat} {sup : Bool} {act : LaneMask} (hq : ((s.core core).bay bay).queue = e :: rest)
    (hw : e.work = .read tile pid d sup act) :
    exec (.accumulatorEntry core bay) s = .next ((s.readTile e.crs pid tile d sup act).entryLeaves core bay e rest) := by
  show execAccumulatorEntry core bay s = _
  simp only [execAccumulatorEntry, hq, hw]

theorem accumulatorEntry_waits (hq : ((s.core core).bay bay).queue = e :: rest)
    (hw : (∃ t o l, e.work = .load t o l) ∨ ∃ t o l, e.work = .store t o l) (hwait : s.entryWaits e = true) :
    exec (.accumulatorEntry core bay) s = .next s := by
  show execAccumulatorEntry core bay s = _
  obtain ⟨t, o, l, hw⟩ | ⟨t, o, l, hw⟩ := hw <;> simp only [execAccumulatorEntry, hq, hw, hwait, if_true]

/-- One of the elements that an entry has left is moved; with the last the entry leaves its queue. -/
theorem moveElem_some {l : List Nat} {j : Nat} {f : Nat → Team → Team} {w : List Nat → MatWork} (hj : s.nextElem l = some j) :
    s.moveElem core bay e rest l f w =
      (let t := s.onTeam (s.entryTeam e) (f j)
       if l.erase j = [] then t.entryLeaves core bay e rest else t.setQueue core bay ({ e with work := w (l.erase j) } :: rest)) := by
  simp only [State.moveElem, hj]
  cases l.erase j with
  | nil => rfl
  | cons _ _ => rfl

theorem accumulatorEntry_loads {o j : Nat} {l : List Nat} (hq : ((s.core core).bay bay).queue = e :: rest)
    (hw : e.work = .load tile o l) (hgo : s.entryWaits e = false) (hj : s.nextElem l = some j) :
    exec (.accumulatorEntry core bay) s = .next
      (let t := s.onTeam (s.entryTeam e) (fun t => t.loadPart tile o j)
       if l.erase j = [] then t.entryLeaves core bay e rest
       else t.setQueue core bay ({ e with work := .load tile o (l.erase j) } :: rest)) := by
  show execAccumulatorEntry core bay s = _
  simp only [execAccumulatorEntry, hq, hw, hgo, moveElem_some hj]
  rfl

theorem accumulatorEntry_stores {o j : Nat} {l : List Nat} (hq : ((s.core core).bay bay).queue = e :: rest)
    (hw : e.work = .store tile o l) (hgo : s.entryWaits e = false) (hj : s.nextElem l = some j) :
    exec (.accumulatorEntry core bay) s = .next
      (let t := s.onTeam (s.entryTeam e) (fun t => t.storePart tile o j)
       if l.erase j = [] then t.entryLeaves core bay e rest
       else t.setQueue core bay ({ e with work := .store tile o (l.erase j) } :: rest)) := by
  show execAccumulatorEntry core bay s = _
  simp only [execAccumulatorEntry, hq, hw, hgo, moveElem_some hj]
  rfl

theorem nextElem_mem (s : State) (l : List Nat) (hl : l ≠ []) : ∃ j ∈ l, s.nextElem l = some j := by
  have hlt : Config.freeNat s.stamp (2 ^ 61) % l.length < l.length := Nat.mod_lt _ (List.length_pos_of_ne_nil hl)
  exact ⟨l[Config.freeNat s.stamp (2 ^ 61) % l.length], List.getElem_mem hlt, List.getElem?_eq_getElem hlt⟩

end

/-- Settles O36, entry by entry. -/
theorem matrixUnit : Obligations.MatrixUnit :=
  ⟨fun _ _ _ _ _ _ _ _ _ _ _ _ _ _ _ _ _ => quarterStep_continues, fun _ _ _ _ _ _ _ _ _ _ _ _ _ _ _ _ => quarterStep_finishes,
    fun _ _ _ _ _ _ _ _ _ _ _ _ _ _ _ _ => quarterStep_halts, fun _ _ _ _ _ _ _ => accumulatorEntry_zeroes,
    fun _ _ _ _ _ => accumulatorEntry_waits, fun _ _ _ _ _ _ _ _ _ => accumulatorEntry_loads,
    fun _ _ _ _ _ _ _ _ _ => accumulatorEntry_stores, nextElem_mem, fun _ _ _ _ _ _ _ _ _ _ => accumulatorEntry_reads,
    fun t tile n k i c => accElem_zeroTiles t tile k i c n,
    fun t tile o k i c _ _ => accElem_loadPart t tile o k i c,
    fun t tile o k i c _ _ hc => read_storePart t tile o k i c hc, fun t tile o k a _ => read_storePart_other t tile o k a⟩
end Sys2Proof.Machine

namespace Sys2Proof.Machine
/-! # Collectives as they issue (R395–R399, R422) -/

/-! ## The checks of a lane (R399) -/

section
variable {s : State} {x : Ctx} {c : Course} {r : RWord} {mode : CollMode} {all : List (Nat × Nat)} {L : Nat}

/-- An address of a lane's descriptor is misaligned, or its bytes leave their 256-byte block. -/
def collWrong (mode : CollMode) (n : Nat) (e : CollSide) : Prop := e.1 % mode.align ≠ 0 ∨ e.1 / 256 ≠ (e.1 + n - 1) / 256

theorem collWrong_iff {n : Nat} {e : CollSide} :
    (e.1 % mode.align != 0 || e.1 / 256 != (e.1 + n - 1) / 256) = true ↔ collWrong mode n e := by
  simp [collWrong]

theorem collLane_poisoned {i : Nat} (hi : i < 8) (hp : s.lanePoison c x.sup (r.a.field.toNat + i) L = true)
    (hpre : ∀ k, k < i → s.lanePoison c x.sup (r.a.field.toNat + k) L = false) :
    s.collLane x c r mode all L = ⟨.trap (x.dataError (L, r.a.field.toNat + i)), []⟩ := by
  rw [State.collLane]
  simp only [find?_range_map (p := fun q => s.lanePoison c x.sup q L) (r.a.field.toNat + ·) hi hp hpre]
  rfl

theorem collLane_clean (hc : ∀ i, i < 8 → s.lanePoison c x.sup (r.a.field.toNat + i) L = false) :
    s.collLane x c r mode all L =
      ((Looked.pre (if s.collFields x c r mode L then none else some { x.illegalOperand with lane := some L })).andThen
        (Looked.pre (((s.collSides x c r mode L).find? (fun e =>
          e.1 % mode.align != 0 || e.1 / 256 != (e.1 + s.collReg x c r L 5 - 1) / 256)).map (fun e => x.addrTrap 0x08 0 L e.1 0)))).andThen
      (Looked.each (fun (e : CollSide) => s.mainPage x c e.1 e.2.1 L all e.2.2) (s.collSides x c r mode L)) := by
  rw [State.collLane]
  simp only [find?_range_map_none (p := fun q => s.lanePoison c x.sup q L) (r.a.field.toNat + ·) hc]
  rfl

theorem collLane_fields (hc : ∀ i, i < 8 → s.lanePoison c x.sup (r.a.field.toNat + i) L = false)
    (hf : s.collFields x c r mode L = false) :
    s.collLane x c r mode all L = ⟨.trap { x.illegalOperand with lane := some L }, []⟩ := by
  rw [collLane_clean hc, hf]
  rfl

theorem collLane_wrong {pre post : List CollSide} {e : CollSide}
    (hc : ∀ i, i < 8 → s.lanePoison c x.sup (r.a.field.toNat + i) L = false) (hf : s.collFields x c r mode L = true)
    (hsides : s.collSides x c r mode L = pre ++ e :: post) (hpre : ∀ y ∈ pre, ¬ collWrong mode (s.collReg x c r L 5) y)
    (he : collWrong mode (s.collReg x c r L 5) e) : s.collLane x c r mode all L = ⟨.trap (x.addrTrap 0x08 0 L e.1 0), []⟩ := by
  have hfind : (s.collSides x c r mode L).find? (fun e =>
      e.1 % mode.align != 0 || e.1 / 256 != (e.1 + s.collReg x c r L 5 - 1) / 256) = some e := by
    rw [hsides]
    refine List.find?_eq_some_iff_append.2 ⟨collWrong_iff.2 he, pre, post, rfl, fun y hy => ?_⟩
    simpa [collWrong] using hpre y hy
  rw [collLane_clean hc, hf, hfind]
  rfl

/-- What is left to check of a lane whose addresses are right. -/
theorem collLane_pages (hc : ∀ i, i < 8 → s.lanePoison c x.sup (r.a.field.toNat + i) L = false)
    (hf : s.collFields x c r mode L = true) (ha : ∀ e ∈ s.collSides x c r mode L, ¬ collWrong mode (s.collReg x c r L 5) e) :
    s.collLane x c r mode all L =
      Looked.each (fun (e : CollSide) => s.mainPage x c e.1 e.2.1 L all e.2.2) (s.collSides x c r mode L) := by
  have hfind : (s.collSides x c r mode L).find? (fun e =>
      e.1 % mode.align != 0 || e.1 / 256 != (e.1 + s.collReg x c r L 5 - 1) / 256) = none :=
    List.find?_eq_none.2 fun e he h => ha e he (collWrong_iff.1 h)
  rw [collLane_clean hc, hf, hfind]
  rfl

end

theorem collLaneChecks : collLaneChecksHold := by
  intro s x c r mode all L
  refine ⟨fun i => collLane_poisoned, collLane_fields, fun pre e post => collLane_wrong, fun v vas hc hf ha hstop => ?_,
    fun hc hf ha hok => ?_⟩
  · rw [collLane_pages hc hf ha, each_of_stopsAt hstop]
  · rw [collLane_pages hc hf ha, each_ok hok]
    exact congrArg _ (List.map_eq_flatMap.symm)

/-! ## COLL (R396, R399) -/

section
variable (r : RWord) (mode : State → Ctx → CollMode) (s : State) (x : Ctx)

/-- The addresses of the lanes of a COLL. -/
abbrev collAll : List (Nat × Nat) :=
  (lanesOf x.act).flatMap (fun L => (s.collSides x (s.issuer x) r (mode s x) L).map (fun e => (L, e.1)))

/-- The checks of one lane of a COLL. -/
abbrev collLook (L : Nat) : Looked := s.collLane x (s.issuer x) r (mode s x) (collAll r mode s x) L

variable {r mode s x}

theorem collIssue_stops {v : PageRes} {vas : List Nat} (h : stopsAt (collLook r mode s x) (lanesOf x.act) v vas) :
    s.collIssue x r (mode s x) = (⟨v, vas⟩ : Looked).then (.go s) := by
  rw [State.collIssue]
  simp only [each_of_stopsAt h]
  cases v with
  | ok => exact absurd rfl h.1
  | trap t => rfl
  | wait => rfl

theorem collIssue_passes (hok : ∀ L ∈ lanesOf x.act, (collLook r mode s x L).res = .ok) : s.collIssue x r (mode s x) =
    if 255 ≤ (s.issuer x).eng.coll.length then .held ((collAll r mode s x).map (fun a => a.2)) false
    else .go (s.startColl x (s.issuer x) r (mode s x)) := by
  rw [State.collIssue]
  simp only [each_ok hok]
  rfl

end

section
variable {i : Instr} {r : RWord} {ok : State → Ctx → Prop} {mode : State → Ctx → CollMode} {b : State → Ctx → Res}
  (hx : ∀ s, exec i s = s.issue i r.head (b s)) (hidle : ∀ s x, x.act = 0#32 → b s x = .go s)
  (hbad : ∀ s x, x.act ≠ 0#32 → ¬ ok s x → b s x = .trap x.illegalOperand)
  (hok : ∀ s x, x.act ≠ 0#32 → ok s x → b s x = s.collIssue x r (mode s x))

/-- What a COLL does whose word comes to the checks of its lanes where ok holds, and traps where it does not. -/
def collStarts (i : Instr) (r : RWord) (ok : State → Ctx → Prop) (mode : State → Ctx → CollMode) : Prop :=
  DoesIf i r.head (fun _ x => x.act = 0#32) (fun s x => s.went x) ∧
  DoesIf i r.head (fun s x => x.act ≠ 0#32 ∧ ok s x ∧ (∀ L ∈ lanesOf x.act, (collLook r mode s x L).res = .ok) ∧
      (s.issuer x).eng.coll.length < 255) (fun s x => (s.startColl x (s.issuer x) r (mode s x)).went x) ∧
  DoesIf i r.head (fun s x => x.act ≠ 0#32 ∧ ok s x ∧ (∀ L ∈ lanesOf x.act, (collLook r mode s x L).res = .ok) ∧
      255 ≤ (s.issuer x).eng.coll.length) (fun s x => s.heldPast x ((collAll r mode s x).map (fun a => a.2)) false) ∧
  (∀ t vas, DoesIf i r.head
    (fun s x => x.act ≠ 0#32 ∧ ok s x ∧ stopsAt (collLook r mode s x) (lanesOf x.act) (.trap t) vas)
    (fun s x => s.trappedPast x vas t)) ∧
  (∀ vas, DoesIf i r.head (fun s x => x.act ≠ 0#32 ∧ ok s x ∧ stopsAt (collLook r mode s x) (lanesOf x.act) .wait vas)
    (fun s x => s.heldPast x vas false)) ∧
  DoesIf i r.head (fun s x => x.act ≠ 0#32 ∧ ¬ ok s x) (fun s x => s.trapped x x.illegalOperand)

include hx hidle hbad hok

theorem coll_starts : collStarts i r ok mode := by
  refine ⟨?_, ?_, ?_, fun t vas => ?_, fun vas => ?_, ?_⟩
  · exact doesIf_of (r := fun s _ => .go s) hx hidle
  · exact doesIf_of (r := fun s x => .go (s.startColl x (s.issuer x) r (mode s x))) hx
      (fun s x ⟨hact, h, hpass, hroom⟩ => (hok s x hact h).trans ((collIssue_passes hpass).trans (if_neg (Nat.not_le.2 hroom))))
  · refine doesIf_of (r := fun s x => .held ((collAll r mode s x).map (fun a => a.2)) false) hx ?_
    exact (fun s x ⟨hact, h, hpass, hfull⟩ => (hok s x hact h).trans ((collIssue_passes hpass).trans (if_pos hfull)))
  · exact doesIf_of (r := fun _ _ => .trapLooked vas t) hx
      (fun s x ⟨hact, h, hstop⟩ => (hok s x hact h).trans (collIssue_stops hstop))
  · exact doesIf_of (r := fun _ _ => .held vas false) hx
      (fun s x ⟨hact, h, hstop⟩ => (hok s x hact h).trans (collIssue_stops hstop))
  · exact doesIf_of (r := fun _ x => .trap x.illegalOperand) hx (fun s x ⟨hact, h⟩ => hbad s x hact h)

end

theorem collPut_starts (r : RWord) (ntf : Bool) : collStarts (.collPut r ntf) r
    (fun s x => ntf = true → s.usrc x r.c < (s.lrOf (s.issuer x)).events)
    (fun s x => .put (if ntf then some (s.usrc x r.c) else none)) :=
  coll_starts (fun _ => rfl) (fun _ _ hact => if_pos hact)
    (fun s x hact h => (if_neg hact).trans (if_pos (by
      obtain ⟨hntf, hle⟩ := Classical.not_imp.1 h
      rw [hntf, Bool.true_and]
      exact decide_eq_true (Nat.not_lt.1 hle))))
    (fun s x hact h => (if_neg hact).trans (if_neg (by
      simp only [Bool.and_eq_true, decide_eq_true_eq, not_and]
      exact fun hntf => Nat.not_le.2 (h hntf))))

theorem collGet_starts (r : RWord) : collStarts (.collGet r) r (fun _ _ => True) (fun _ _ => .get) :=
  coll_starts (fun _ => rfl) (fun _ _ hact => if_pos hact) (fun _ _ _ h => absurd trivial h) (fun _ _ hact _ => if_neg hact)

/-- The group that a COLL.ar names. -/
abbrev collGroup (r : RWord) (s : State) (x : Ctx) : Option Group := s.groupOf (s.ctxOf (s.issuer x)) (s.usrc x r.b)

/-- The group is one of this package. -/
abbrev collMember (r : RWord) (s : State) (x : Ctx) : Prop :=
  s.usrc x r.b ≤ 255 ∧ ∃ g, collGroup r s x = some g ∧ s.chip ∈ g.members

/-- What COLL.ar comes to. -/
def collArRes (r : RWord) (ty : CollType) (op : CollOp) (s : State) (x : Ctx) : Res :=
  if x.act = 0#32 then .go s
  else if 255 < s.usrc x r.b then .trap x.illegalOperand
  else
    match collGroup r s x with
    | none => .trap x.illegalOperand
    | some gr =>
      if !gr.members.contains s.chip then .trap x.illegalOperand
      else s.collIssue x r (.ar ty op (s.usrc x r.b) gr.joined)

theorem exec_collAr (r : RWord) (ty : CollType) (op : CollOp) (s : State) :
    exec (.collAr r ty op) s = s.issue (.collAr r ty op) r.head (collArRes r ty op s) := rfl

theorem collArRes_bad {r : RWord} {ty : CollType} {op : CollOp} {s : State} {x : Ctx} (hact : x.act ≠ 0#32)
    (h : ¬ collMember r s x) : collArRes r ty op s x = .trap x.illegalOperand := by
  rw [collArRes, if_neg hact]
  by_cases hg : 255 < s.usrc x r.b
  · rw [if_pos hg]
  · rw [if_neg hg]
    cases hgr : collGroup r s x with
    | none => rfl
    | some gr =>
      refine if_pos ?_
      have hmem : s.chip ∉ gr.members := fun hm => h ⟨Nat.not_lt.1 hg, gr, hgr, hm⟩
      simpa using hmem

theorem collArRes_ok {r : RWord} {ty : CollType} {op : CollOp} {s : State} {x : Ctx} (hact : x.act ≠ 0#32)
    (h : collMember r s x) : collArRes r ty op s x =
      s.collIssue x r (.ar ty op (s.usrc x r.b) (((collGroup r s x).map (fun g => g.joined)).getD 0)) := by
  obtain ⟨hg, gr, hgr, hmem⟩ := h
  rw [collArRes, if_neg hact, if_neg (Nat.not_lt.2 hg), hgr]
  exact if_neg (by simpa using hmem)

theorem collAr_starts (r : RWord) (ty : CollType) (op : CollOp) : collStarts (.collAr r ty op) r (collMember r)
    (fun s x => .ar ty op (s.usrc x r.b) (((collGroup r s x).map (fun g => g.joined)).getD 0)) :=
  coll_starts (exec_collAr r ty op) (fun _ _ hact => if_pos hact) (fun _ _ => collArRes_bad) (fun _ _ => collArRes_ok)

/-! ## CSIG (R395) -/

/-- What CSIG comes to. -/
def csigRes (r : RWord) (s : State) (x : Ctx) : Res :=
  if x.act = 0#32 then .go s
  else if 255 < s.usrc x r.a then .trap x.illegalOperand
  else s.deliverU x r.d.toNat 2 (((s.groupOf (s.ctxOf (s.issuer x)) (s.usrc x r.a)).map Group.signature).getD 0)

theorem exec_csig (r : RWord) (s : State) : exec (.csig r) s = s.issue (.csig r) r.head (csigRes r s) := rfl

theorem csig_traps (r : RWord) : DoesIf (.csig r) r.head (fun s x => x.act ≠ 0#32 ∧ 255 < s.usrc x r.a)
    (fun s x => s.trapped x x.illegalOperand) :=
  doesIf_of (r := fun _ x => .trap x.illegalOperand) (exec_csig r) (fun _ _ ⟨hact, hg⟩ => (if_neg hact).trans (if_pos hg))

theorem csig_delivers (r : RWord) : LateDoes (.csig r) r.head .other (fun s x => s.usrc x r.a ≤ 255) (fun s _ => s) true r.d 2
    (fun _ _ => 0#32)
    (fun s x _ => ((s.groupOf (s.ctxOf (s.issuer x)) (s.usrc x r.a)).map Group.signature).getD 0) (fun _ _ => 0#32) :=
  deliversWide_of (exec_csig r) (fun _ _ hact => if_pos hact)
    (fun _ _ hact hg => (if_neg hact).trans (if_neg (Nat.not_lt.2 hg)))

/-- Settles O37, word by word and check by check. -/
theorem collectiveWords : Obligations.CollectiveWords :=
  ⟨collPut_starts, collGet_starts, collAr_starts, csig_delivers, csig_traps, collLaneChecks⟩

end Sys2Proof.Machine

namespace Sys2Proof.Machine
/-! # The work of the collective die (R392, R398, R400–R402) -/

/-! ## The step of a lane -/

section
variable {s : State} {id L : Nat} {k : Coll} {l : CollLane} {inp : CollInput}

/-- No page of a COLL is being moved. -/
def Coll.settledIn (k : Coll) (s : State) : Prop :=
  ∀ m ∈ k.lanes, s.walkWaits k.ctx m.localVa = false ∧ (m.peer.chip = s.chip → s.walkWaits k.ctx m.remoteVa = false)

/-- Lane l of a COLL in flight is still to be done, and nothing holds it. -/
def State.collLaneOpen (s : State) (id L : Nat) (k : Coll) (l : CollLane) : Prop :=
  Tab.find s.colls id = some k ∧ k.cause = 0 ∧ k.lanes.find? (fun y => y.lane == L) = some l ∧ l.done = false ∧ l.cause = 0 ∧
    k.settledIn s

/-- Nothing arrives from another package. -/
def quietInput (inp : CollInput) : Prop := inp.arrived = none ∧ inp.asked = none ∧ inp.cause = 0

theorem State.collLaneOpen.lane_eq (h : s.collLaneOpen id L k l) : l.lane = L := by
  obtain ⟨-, -, hl, -⟩ := h
  simpa using List.find?_some hl

theorem Coll.settledIn.none_waits (h : k.settledIn s) : k.lanes.any (fun m =>
    s.walkWaits k.ctx m.localVa || (m.peer.chip == s.chip && s.walkWaits k.ctx m.remoteVa)) = false := by
  refine List.any_eq_false.2 fun m hm => ?_
  obtain ⟨hlocal, hremote⟩ := h m hm
  by_cases hc : m.peer.chip = s.chip <;> simp [hlocal, hremote, hc]

/-- A lane that nothing holds does the work of its mode. -/
theorem exec_collWork_open (h : s.collLaneOpen id L k l) (ha : inp.arrived = none) (hq : inp.asked = none) :
    exec (.collWork id L inp) s = match k.mode with
      | .put ntf => .next (s.putWork id k l ntf inp)
      | .get => .next (s.getWork id k l inp)
      | .ar ty op g _ => .next (s.arWork id k l ty op g inp) := by
  obtain ⟨hk, hc, hl, hd, hlc, hsettled⟩ := h
  show execCollWork id L inp s = _
  simp only [execCollWork, ha, hq, hk, hl]
  exact if_neg (by simp [hc, hd, hlc, hsettled.none_waits])

theorem exec_collWork_put {ntf : Option Nat} (h : s.collLaneOpen id L k l) (hq : quietInput inp) (hm : k.mode = .put ntf) :
    exec (.collWork id L inp) s = .next (s.putWork id k l ntf inp) := by
  rw [exec_collWork_open h hq.1 hq.2.1, hm]

theorem exec_collWork_get (h : s.collLaneOpen id L k l) (hq : quietInput inp) (hm : k.mode = .get) :
    exec (.collWork id L inp) s = .next (s.getWork id k l inp) := by
  rw [exec_collWork_open h hq.1 hq.2.1, hm]

theorem exec_collWork_ar {ty : CollType} {op : CollOp} {g seq : Nat} (h : s.collLaneOpen id L k l) (ha : inp.arrived = none)
    (hq : inp.asked = none) (hm : k.mode = .ar ty op g seq) :
    exec (.collWork id L inp) s = .next (s.arWork id k l ty op g inp) := by
  rw [exec_collWork_open h ha hq, hm]

theorem causeFrom_quiet (hq : quietInput inp) : k.causeFrom inp = 0 := by
  obtain ⟨-, -, hc⟩ := hq
  rw [Coll.causeFrom]
  split <;> simp [hc]

theorem takeAt_memory {ctx n : Nat} {h : Dest × Nat} (hh : h.1.host = false) :
    s.takeAt ctx h n inp = some (s, s.bytesAt h.2 n) := by
  rw [State.takeAt, hh]
  rfl

/-! ## COLL.put (R400) -/

/-- A lane that is done. -/
abbrev State.collDone (s : State) (id L : Nat) : State := s.onCollLane id L (fun m => { m with done := true })

/-- The write of a lane of .put. -/
abbrev putPacket (s : State) (k : Coll) (l : CollLane) (h : Dest × Nat) (n : Option Nat) : CollPut :=
  { chip := s.chip, ctag := (s.context k.ctx).tag, dest := l.peer, va := l.remoteVa, pa := l.remotePa,
    bytes := (s.bytesAt h.2 l.len).1, poison := (s.bytesAt h.2 l.len).2, ntf := n }

/-- A lane of .put whose bytes are read: it delivers them on this package, or sends them. -/
theorem putWork_reads {ntf : Option Nat} {h : Dest × Nat} (hr : l.result = none) (hown : s.ownPlace k.ctx l.localVa true = .ok h)
    (hh : h.1.host = false) (hreach : s.reaches s.chip l.peer.chip = true) (hlast : ntf = none ∨ k.lastFor l = true) :
    s.putWork id k l ntf inp =
      if l.peer.chip = s.chip then
        (if (s.deliverPut (putPacket s k l h ntf)).2 ≠ 0 then
          (s.deliverPut (putPacket s k l h ntf)).1.onCollLane id l.lane
            (fun m => { m with cause := (s.deliverPut (putPacket s k l h ntf)).2 })
        else (s.deliverPut (putPacket s k l h ntf)).1.collDone id l.lane)
      else { s.onCollLane id l.lane (fun m => { m with result := some ((putPacket s k l h ntf).bytes, (putPacket s k l h ntf).poison) })
        with net := s.net ++ [.put (putPacket s k l h ntf)] } := by
  have hwait : (ntf.isSome && k.waitsFor l) = false := by
    obtain rfl | hl := hlast
    · rfl
    · rw [Coll.waitsFor, hl]
      simp
  have hntf : (if k.lastFor l then ntf else none) = ntf := by
    obtain rfl | hl := hlast
    · exact ite_self _
    · exact if_pos hl
  rw [State.putWork]
  simp only [hr, hreach, hwait, hown, takeAt_memory hh, hntf]
  rfl

theorem putWork_delivers {ntf : Option Nat} {h : Dest × Nat} (ho : s.collLaneOpen id L k l) (hr : l.result = none)
    (hown : s.ownPlace k.ctx l.localVa true = .ok h) (hh : h.1.host = false) (hpeer : l.peer.chip = s.chip)
    (hlast : ntf = none ∨ k.lastFor l = true) (hput : (s.deliverPut (putPacket s k l h ntf)).2 = 0) :
    s.putWork id k l ntf inp = (s.deliverPut (putPacket s k l h ntf)).1.collDone id L := by
  rw [putWork_reads hr hown hh (by simp [State.reaches, hpeer]) hlast, if_pos hpeer, if_neg (not_not_intro hput), ho.lane_eq]

theorem putWork_sends {ntf : Option Nat} {h : Dest × Nat} (ho : s.collLaneOpen id L k l) (hr : l.result = none)
    (hown : s.ownPlace k.ctx l.localVa true = .ok h) (hh : h.1.host = false) (hpeer : l.peer.chip ≠ s.chip)
    (hreach : s.reaches s.chip l.peer.chip = true) (hlast : ntf = none ∨ k.lastFor l = true) :
    s.putWork id k l ntf inp = (let w := putPacket s k l h ntf
      let t := s.onCollLane id L (fun m => { m with result := some (w.bytes, w.poison) })
      { t with net := s.net ++ [.put w] }) := by
  rw [putWork_reads hr hown hh hreach hlast, if_neg hpeer, ho.lane_eq]

theorem putWork_acked {ntf : Option Nat} {x : List Byte × List Nat} (ho : s.collLaneOpen id L k l) (hq : quietInput inp)
    (hr : l.result = some x) (hack : inp.acked = true) : s.putWork id k l ntf inp = s.collDone id L := by
  rw [State.putWork, ← ho.lane_eq]
  simp only [hr, causeFrom_quiet hq, hack]
  rfl

/-! ## COLL.get (R400) -/

theorem getWork_here {h g : Dest × Nat} (ho : s.collLaneOpen id L k l) (hpeer : l.peer.chip = s.chip)
    (hfrom : s.ownPlace k.ctx l.remoteVa true = .ok h) (hh : h.1.host = false) (hto : s.ownPlace k.ctx l.localVa false = .ok g) :
    s.getWork id k l inp = (s.putAt k.ctx g (s.bytesAt h.2 l.len)).collDone id L := by
  rw [State.getWork, ← ho.lane_eq]
  simp only [hpeer, hfrom, takeAt_memory hh, Option.elim, hto, if_true]

/-! ## COLL.ar (R392, R398) -/

theorem arWork_writes {ty : CollType} {op : CollOp} {g : Nat} {x : List Byte × List Nat} {h : Dest × Nat}
    (ho : s.collLaneOpen id L k l) (hq : quietInput inp) (hr : l.result = some x) (hto : s.ownPlace k.ctx l.localVa false = .ok h) :
    s.arWork id k l ty op g inp = (s.putAt k.ctx h x).collDone id L := by
  obtain ⟨-, -, hc⟩ := hq
  rw [State.arWork, ← ho.lane_eq]
  simp only [hr, hc, hto]
  rfl

theorem arWork_ended {ty : CollType} {op : CollOp} {g : Nat} {x : List Byte × List Nat} (hr : l.result = some x)
    (hc : inp.cause = 1 ∨ inp.cause = 4) : s.arWork id k l ty op g inp = s.collFail id inp.cause := by
  rw [State.arWork]
  simp only [hr]
  exact if_pos (by simpa using hc)

/-- The chunk of a member as the tree takes it: the package's own, or the one that the member sent. -/
abbrev chunkOf (inp : CollInput) (me : Nat) (own : List (Nat × List Byte × List Nat)) (key r : Nat) : List Byte × List Nat :=
  if r = me then Tab.get ([], []) own key
  else ((inp.chunks.find? (fun c => c.rank == r && c.key == key)).map (fun c => (c.bytes, c.poison))).getD ([], [])

/-- The other ranks of a group. -/
abbrev otherRanks (gr : Group) (me : Nat) : List Nat := (List.range gr.members.length).filter (fun r => r != me)

theorem arWork_combines {t : State} {ty : CollType} {op : CollOp} {g : Nat} {gr : Group} {own : List (Nat × List Byte × List Nat)}
    (hq : quietInput inp) (hr : l.result = none) (hg : s.groupOf k.ctx g = some gr) (hwhole : s.groupWhole gr = true)
    (hall : ∀ r ∈ otherRanks gr (gr.rankOf s.chip), ∃ c ∈ inp.chunks, c.rank = r)
    (hagree : chunksAgree k (otherRanks gr (gr.rankOf s.chip)) ty op (inp.chunks.filter (fun c => c.rank != gr.rankOf s.chip)) = true)
    (hown : s.ownChunks k (gr.rankOf s.chip) inp = .ok (some (t, own))) :
    s.arWork id k l ty op g inp = { t with colls := Tab.put t.colls id { k with lanes := k.lanes.map (fun m =>
      { m with result := some (combine gr ty op m.len (chunkOf inp (gr.rankOf s.chip) own m.key)) }) } } := by
  have hranks : (otherRanks gr (gr.rankOf s.chip)).all (fun r => inp.chunks.any (fun c => c.rank == r)) = true := by
    refine List.all_eq_true.2 fun r hr => List.any_eq_true.2 ?_
    obtain ⟨c, hc, he⟩ := hall r hr
    exact ⟨c, hc, beq_iff_eq.2 he⟩
  rw [State.arWork]
  simp only [hr, hg, causeFrom_quiet hq, hwhole, hranks, hagree, hown]
  rfl

end

/-! ## What arrives from another package -/

section
variable {s : State} {id L : Nat} {inp : CollInput} {w : CollPut}

theorem exec_collWork_arrived (ha : inp.arrived = some w) (hd : w.dest.chip = s.chip) (hh : w.dest.host = false)
    (hc : w.chip ≠ s.chip) (hw : s.tagWaits w.ctag w.va = false) : exec (.collWork id L inp) s =
      .next { (s.deliverPut w).1 with net := (s.deliverPut w).1.net ++ [.putDone w (s.deliverPut w).2] } := by
  show execCollWork id L inp s = _
  simp only [execCollWork, ha]
  exact if_neg (by simp [hd, hh, hc, hw])

theorem deliverPut_applies (s : State) (w : CollPut)
    (hv : s.verdict (enginePacket w.chip w.ctag w.dest w.va w.pa w.bytes false w.ntf) = .apply) (hn : w.ntf = none) :
    s.deliverPut w = ((s.noteTail w.pa w.bytes.length).memWrite w.pa w.bytes (w.poison.map (fun o => w.pa + o)), 0) := by
  rw [State.deliverPut]
  simp only [hv]
  rw [notify_none _ _ (show (enginePacket w.chip w.ctag w.dest w.va w.pa w.bytes false w.ntf).ntf = none from hn)]

theorem memRead_putAt (s : State) (ctx : Nat) (h : Dest × Nat) (x : List Byte × List Nat) (a : Nat) (hh : h.1.host = false) :
    (s.putAt ctx h x).memRead a 1 =
      if h.2 ≤ a ∧ a < h.2 + x.1.length then [x.1.getD (a - h.2) 0#8] else s.memRead a 1 := by
  rw [State.putAt, hh]
  exact memRead_memWrite ..

end

/-! ## The status and the timeout (R401, R402) -/

/-- Two values land in uniform registers. -/
theorem landUnif_two {s : State} {crs pid d v w : Nat} {sup : Bool} (h : (s.course crs).pendDest pid = some (d, sup))
    (hv : v < 2 ^ 32) : s.landUnif crs pid 2 (v + w * 2 ^ 32) = s.landPend crs pid [.unif sup d (wd v), .unif sup (d + 1) (wd w)] 0#32 := by
  have hlow : regPart (v + w * 2 ^ 32) 0 = wd v := by
    apply BitVec.eq_of_toNat_eq
    simp [regPart, wd]
  have hhigh : regPart (v + w * 2 ^ 32) 1 = wd w := by
    rw [regPart, show (v + w * 2 ^ 32) / 2 ^ (32 * 1) = w by omega]
  rw [State.landUnif, h, ← hlow, ← hhigh]
  rfl

/-- The cause of a COLL: its own, or that of the lowest lane that has one. -/
abbrev Coll.finalCause (k : Coll) : Nat :=
  if k.cause ≠ 0 then k.cause else (((k.lanes.map (fun l => l.cause)).find? (fun c => c != 0)).getD 0)

theorem exec_collComplete {s : State} {id d : Nat} {k : Coll} {sup : Bool} (hk : Tab.find s.colls id = some k)
    (hend : k.cause ≠ 0 ∨ ∀ l ∈ k.lanes, l.done = true ∨ l.cause ≠ 0) (hdest : (s.course k.crs).pendDest k.pend = some (d, sup)) :
    exec (.collComplete id) s = .next
      (let t := s.landPend k.crs k.pend [.unif sup d (maskOfLanes ((k.lanes.filter (fun l => l.done)).map (fun l => l.lane))),
          .unif sup (d + 1) (wd (k.finalCause + b2n k.rebuilt * 2 ^ 8))] 0#32
       { t.onCourse k.crs (fun c => c.opDone .coll k.count) with colls := Tab.del t.colls id }) := by
  have hgo : ¬ ((k.cause = 0 && !k.lanes.all (fun l => l.done || l.cause ≠ 0)) = true) := by
    obtain hc | hl := hend
    · simp [hc]
    · have hall : k.lanes.all (fun l => l.done || decide (l.cause ≠ 0)) = true := by simpa using hl
      rw [hall]
      simp
  have hland := landUnif_two (w := k.finalCause + b2n k.rebuilt * 2 ^ 8) hdest
    (maskOfLanes ((k.lanes.filter (fun l => l.done)).map (fun l => l.lane))).isLt
  rw [wd, BitVec.ofNat_toNat, BitVec.setWidth_eq] at hland
  rw [← hland]
  show execCollComplete id s = _
  simp only [execCollComplete, hk]
  exact if_neg hgo

theorem exec_collTimeout {s : State} {id g seq : Nat} {k : Coll} {ty : CollType} {op : CollOp} {gr : Group}
    (hk : Tab.find s.colls id = some k) (hm : k.mode = .ar ty op g seq) (hg : s.groupOf k.ctx g = some gr) (hc : k.cause = 0)
    (hlate : k.since + gr.timeout ≤ s.clock) (htwo : 2 ≤ gr.members.length) (hnone : ∀ l ∈ k.lanes, l.result = none) :
    exec (.collTimeout id) s = .next (s.collFail id (if s.groupWhole gr then 2 else 6)) := by
  have hres : k.lanes.any (fun l => l.result.isSome) = false := List.any_eq_false.2 fun l hl => by simp [hnone l hl]
  show execCollTimeout id s = _
  simp only [execCollTimeout, hk, hm, hg]
  exact if_neg (by simp [hc, hlate, hres, Nat.not_lt.2 htwo])

/-- Settles O38, mode by mode. -/
theorem collectiveWork : Obligations.CollectiveWork := by
  refine ⟨?_, ?_, ?_, ?_, ?_, ?_, memRead_putAt, ?_, fun _ _ _ _ _ => exec_collWork_arrived, deliverPut_applies,
    fun _ _ _ _ _ => exec_collComplete, fun _ _ _ _ _ _ _ _ => exec_collTimeout⟩
  · exact fun s id L k l inp ntf h ho hq hm hr hown hh hpeer hlast hput =>
      (exec_collWork_put ho hq hm).trans (congrArg _ (putWork_delivers ho hr hown hh hpeer hlast hput))
  · exact fun s id L k l inp ntf h ho hq hm hr hown hh hpeer hreach hlast =>
      (exec_collWork_put ho hq hm).trans (congrArg _ (putWork_sends ho hr hown hh hpeer hreach hlast))
  · exact fun s id L k l inp ntf x ho hq hm hr hack =>
      (exec_collWork_put ho hq hm).trans (congrArg _ (putWork_acked ho hq hr hack))
  · exact fun s id L k l inp h g ho hq hm hpeer hfrom hh hto =>
      (exec_collWork_get ho hq hm).trans (congrArg _ (getWork_here ho hpeer hfrom hh hto))
  · exact fun s id L k l inp ty op g seq x h ho hq hm hr hto =>
      (exec_collWork_ar ho hq.1 hq.2.1 hm).trans (congrArg _ (arWork_writes ho hq hr hto))
  · exact fun s id L k l inp ty op g seq x hk hkc hl hd hlc hsettled ha hq hm hr hc =>
      (exec_collWork_ar ⟨hk, hkc, hl, hd, hlc, hsettled⟩ ha hq hm).trans (congrArg _ (arWork_ended hr hc))
  · exact fun s t id L k l inp ty op g seq gr own ho hq hm hr hg hwhole hall hagree hown =>
      (exec_collWork_ar ho hq.1 hq.2.1 hm).trans (congrArg _ (arWork_combines hq hr hg hwhole hall hagree hown))
end Sys2Proof.Machine

namespace Sys2Proof.Machine
/-! # Requests about objects, groups, domain barriers and host-shared pages (R391–R394, R411, R434, R457–R464, R479, R480) -/

/-! ## Code objects (R457–R461) -/

section
variable {s t : State} {m : HostMsg} {b : List Byte} {ask l f : List Nat} {c : Nat}

theorem exec_loadObject {b : Bytes2} (hs : s.canServe m 0x0040)
    (hm : m.shaped (24 + 8 * m.field 0x10 4) [(0, 8), (8, 8), (16, 4), (24, 8 * m.field 0x10 4)] = true)
    (hctx : Tab.has s.contexts m.ctx = true) (hin : m.field 0 8 + m.field 8 8 ≤ 2 ^ 52)
    (hw : s.rangeWaits m.ctx (m.field 0 8) (m.field 8 8) = false)
    (hr : s.rangeRead m.ctx (m.field 0 8) (m.field 8 8) = some b) (hb : Bytes2.bad b = false) :
    exec (.loadObject m) s =
      (let r := (s.rangeAsks m.ctx (m.field 0 8) (m.field 8 8)).loadBytes m.ctx (b.map (fun y => y.1))
          ((List.range (m.field 0x10 4)).map (fun i => m.field (0x18 + 8 * i) 8))
       .next (r.1.respond m r.2.1 r.2.2)) := by
  have hin' : ¬ Config.addrLimit < m.field 0 8 + m.field 8 8 := Nat.not_lt.2 hin
  show execLoadObject m s = _
  rw [execLoadObject]
  refine serve_does hs hm (fun _ => hctx) ?_
  rw [if_neg hin', if_neg (ne_true_of_eq_false hw), hr]
  exact if_neg (ne_true_of_eq_false hb)

theorem loadBytes_malformed (s : State) (c : Nat) (b : List Byte) (ask : List Nat) (h : objectOk b = false) :
    s.loadBytes c b ask = (s, 1, []) := by
  rw [State.loadBytes, if_pos (by simp [h])]

/-- The form of an object is right, and each of its sections is asked to stand somewhere. -/
theorem loadBytes_formed (h : objectOk b = true) (hask : ask.length = (objCounts b).1) :
    ¬ ((!objectOk b || ask.length ≠ (objCounts b).1) = true) := by simp [h, hask]

theorem loadBytes_unsigned (h : objectOk b = true) (hask : ask.length = (objCounts b).1) (hsig : s.objectSigned b = false) :
    s.loadBytes c b ask = (s, 2, []) := by
  rw [State.loadBytes, if_neg (loadBytes_formed h hask), if_pos (by simp [hsig])]

theorem loadBytes_old (h : objectOk b = true) (hask : ask.length = (objCounts b).1) (hsig : s.objectSigned b = true)
    (hold : field b 6 2 < s.fuse) : s.loadBytes c b ask = (s, 3, []) := by
  rw [State.loadBytes, if_neg (loadBytes_formed h hask), if_neg (by simp [hsig]), if_pos hold]

theorem loadBytes_loads (h : objectOk b = true) (hask : ask.length = (objCounts b).1) (hsig : s.objectSigned b = true)
    (hnew : s.fuse ≤ field b 6 2) (hfive : field b 5 1 = 2) (hfour : field b 4 1 = 0)
    (hplace : s.placeSections c ask 0 (objSections b) [] = some l) (hrel : relocsOk b = true)
    (hfew : (s.context c).objects.length < 2 ^ 32) (hmap : s.mapSections c b l = some (t, f)) :
    ∃ h, s.loadBytes c b ask = (t.recordObject c h b l f, 0, le 4 h ++ le 4 0 ++ l.flatMap (bytesOf 8)) ∧
      ∀ o ∈ (s.context c).objects, o.handle ≠ h := by
  refine ⟨s.pickNumber (2 ^ 57) ((s.context c).objects.map (fun o => o.handle)), ?_, fun o ho heq => ?_⟩
  · rw [State.loadBytes, if_neg (loadBytes_formed h hask), if_neg (by simp [hsig]), if_neg (Nat.not_lt.2 hnew),
      if_neg (by simp [hfive, hfour])]
    simp only [hplace, hmap, hrel]
    rfl
  · exact pickNumber_fresh s _ (by rwa [List.length_map]) (List.mem_map.2 ⟨o, ho, heq⟩)

theorem inCode_recordObject (s : State) (c h : Nat) (b : List Byte) (l f : List Nat) (a : Nat) :
    (s.recordObject c h b l f).inCode c a =
      (s.inCode c a || ((objSections b).zip l).any (fun p => p.1.kind == 1 && p.2 ≤ a && a < p.2 + Section.span p.1 p.2)) := by
  have hobjs : ((s.recordObject c h b l f).context c).objects = (s.context c).objects ++
      [{ handle := h, message := objectMessage b,
         code := (((objSections b).zip l).filter (fun p => p.1.kind == 1)).map (fun p => (p.2, Section.span p.1 p.2)),
         frames := f, pages := ((objSections b).zip l).flatMap (fun p => Section.pages p.1 p.2) }] :=
    congrArg Context.objects (context_onContext_same s c (fun c => { c with objects := c.objects ++ [_] }))
  rw [State.inCode, hobjs, List.any_append, State.inCode]
  simp only [List.any_cons, List.any_nil, Bool.or_false, List.any_map, List.any_filter, Bool.and_assoc]
  rfl

theorem exec_unload {o : Obj} (hs : s.canServe m 0x0041) (hm : m.shaped 8 [(0, 4)] = true)
    (hctx : Tab.has s.contexts m.ctx = true) (hlive : s.gridsLive m.ctx = false)
    (ho : (s.context m.ctx).objects.find? (fun o => o.handle == m.field 0 4) = some o)
    (hw : o.pages.any (s.walkWaits m.ctx) = false) :
    exec (.unload m) s = .next (((o.pages.foldl (fun s p => s.unmapPage m.ctx p) s).onContext m.ctx (fun c =>
      { c with objects := c.objects.filter (fun y => y.handle != m.field 0 4) })).respond m 0 []) := by
  show execUnload m s = _
  refine serve_does hs hm (fun _ => hctx) ?_
  simp only [hlive, ho, hw, Bool.false_eq_true, if_false]

theorem exec_unload_live (hs : s.canServe m 0x0041) (hm : m.shaped 8 [(0, 4)] = true)
    (hctx : Tab.has s.contexts m.ctx = true) (hlive : s.gridsLive m.ctx = true) :
    exec (.unload m) s = .next (s.respond m 1 []) := by
  show execUnload m s = _
  exact serve_does hs hm (fun _ => hctx) (if_pos hlive)

end

/-! ## Group entries (R391–R394) -/

section
variable {s : State} {m : HostMsg}

theorem confirm_unasked {c n e : Nat} (h : (s.context c).duty.testBit 5 = false) : s.confirm c n e = (s, some true) := by
  rw [State.confirm, if_pos (by simp [h])]

/-- A group entry whose members have accepted is set. -/
theorem setGroupHere_sets {reply : GroupReply} {l : List Nat} (he : entryOk (m.field 8 16) = true)
    (hl : s.memberList m.ctx (m.field 8 16) = some l) (hok : s.membersOk l = true)
    (hreply : (∀ k ∈ l, k = s.chip) ∨ (reply ≠ .refused ∧ reply ≠ .silent)) (hduty : (s.context m.ctx).duty.testBit 5 = false) :
    s.setGroupHere m reply = (s.setGroup m.ctx (m.field 0 2) (m.field 8 16) l).respond m 0 [] := by
  have hnone : ∀ r : GroupReply, ((∀ k ∈ l, k = s.chip) ∨ reply ≠ r) → (l.any (fun c => c != s.chip) && reply == r) = false := by
    rintro r (hall | hne)
    · have : l.any (fun c => c != s.chip) = false := List.any_eq_false.2 fun k hk => by simp [hall k hk]
      rw [this, Bool.false_and]
    · rw [beq_eq_false_iff_ne.2 hne, Bool.and_false]
  rw [State.setGroupHere, he, if_pos rfl, hl]
  simp only [hok, hnone .refused (hreply.imp id And.left), hnone .silent (hreply.imp id And.right), confirm_unasked hduty]
  rfl

theorem exec_setGroupEntry {reply : GroupReply} {l : List Nat} (hs : s.canServe m 0x0050)
    (hm : m.shaped 24 [(0, 2), (8, 16)] = true) (hn : m.field 0 2 ≤ 255) (hctx : Tab.has s.contexts m.ctx = true)
    (hw : (m.field 8 16).testBit 0 = true → s.rangeWaits m.ctx (m.field 16 8) (2 * bitsOf (m.field 8 16) 19 9) = false)
    (he : entryOk (m.field 8 16) = true) (hl : s.memberList m.ctx (m.field 8 16) = some l) (hok : s.membersOk l = true)
    (hreply : (∀ k ∈ l, k = s.chip) ∨ (reply ≠ .refused ∧ reply ≠ .silent)) (hduty : (s.context m.ctx).duty.testBit 5 = false) :
    exec (.setGroupEntry m (.host reply)) s = .next ((s.setGroup m.ctx (m.field 0 2) (m.field 8 16) l).respond m 0 []) := by
  refine (if_neg (canServe_not_busy hs)).trans (serve_does hs (by simp [hm, hn]) (fun _ => hctx) ?_)
  have hgo : ¬ (((m.field 8 16).testBit 0 && s.rangeWaits m.ctx (m.field 16 8) (2 * bitsOf (m.field 8 16) 19 9)) = true) := by
    rw [Bool.and_eq_true]
    exact fun h => ne_true_of_eq_false (hw h.1) h.2
  rw [if_neg hgo, setGroupHere_sets he hl hok hreply hduty]

theorem groupOf_setGroup (s : State) (c n e : Nat) (l : List Nat) (he : e.testBit 0 = true) :
    (s.setGroup c n e l).groupOf c n = some
      { entry := e, members := l, parents := treeParents l (bitsOf e 21 20) (bitsOf e 31 22) s.linksDown,
        lost := ({ entry := e, members := l, parents := [] } : Group).lostLinks s.linksDown s.linksDown.length [] } := by
  rw [State.groupOf, State.setGroup, context_onContext_same, he]
  exact Tab.find_put_same ..

/-! ## Domain barriers (R411) -/

theorem dropArrivals_nil {c b : Nat} (h : s.dbarArrs = []) : s.dropArrivals c b = s := by
  rw [State.dropArrivals, h]
  rfl

theorem exec_bindDomainBarrier (hs : s.canServe m 0x0051) (hm : m.shaped 8 [(0, 1), (2, 2)] = true) (hb : m.field 0 1 ≤ 63)
    (hg : m.field 2 2 ≤ 255) (hctx : Tab.has s.contexts m.ctx = true) (hset : (s.groupOf m.ctx (m.field 2 2)).isSome = true)
    (hw : s.waitsOn m.ctx (m.field 0 1) = false) (ha : s.dbarArrs = []) :
    exec (.bindDomainBarrier m) s = .next ((s.setDbar m.ctx (m.field 0 1) { group := m.field 2 2 }).respond m 0 []) := by
  have hne : m.field 2 2 ≠ 0xFFFF := by omega
  have hgo : ¬ (m.field 2 2 ≠ 0xFFFF && (s.groupOf m.ctx (m.field 2 2)).isNone) = true := by
    rw [Option.isNone_eq_false_iff.2 hset, Bool.and_false]
    decide
  show execBindDomainBarrier m s = _
  rw [execBindDomainBarrier]
  refine serve_does hs ?_ (fun _ => hctx) ?_
  · simp [hm, hb, hg]
  simp only [if_neg hgo, if_neg (ne_true_of_eq_false hw), dropArrivals_nil ha, if_neg hne]
  rfl

theorem exec_bindDomainBarrier_groupless (hs : s.canServe m 0x0051) (hm : m.shaped 8 [(0, 1), (2, 2)] = true)
    (hb : m.field 0 1 ≤ 63) (hg : m.field 2 2 ≤ 255) (hctx : Tab.has s.contexts m.ctx = true)
    (hnone : s.groupOf m.ctx (m.field 2 2) = none) : exec (.bindDomainBarrier m) s = .next (s.respond m 1 []) := by
  have hne : m.field 2 2 ≠ 0xFFFF := by omega
  show execBindDomainBarrier m s = _
  rw [execBindDomainBarrier]
  refine serve_does hs ?_ (fun _ => hctx) (if_pos ?_)
  · simp [hm, hb, hg]
  · simp [hne, hnone]

end

/-! ## Host-shared pages (R426, R434, R480) -/

section
variable {s t : State} {m : HostMsg} {e : Nat}

/-- A host-shared request of an action can be performed. -/
def State.sharedRequest (s : State) (m : HostMsg) (a : Nat) : Prop :=
  s.canServe m 0x0060 ∧ hsShaped m = true ∧ Tab.has s.contexts m.ctx = true ∧ m.field 0 4 = a

theorem hsRequest_does {a : Nat} {mine : Bool} {f : State → Option State} (h : s.sharedRequest m a) (hmine : mine = true)
    (hf : f s = some t) : s.hsRequest m mine f = .next t := by
  obtain ⟨hs, hm, hctx, -⟩ := h
  rw [State.hsRequest, if_pos hmine]
  exact serve_does hs hm (fun _ => hctx) hf

theorem exec_hsQuery (h : s.sharedRequest m 0) (hva : m.field 8 8 % 2 ^ 16 = 0) (hlim : m.field 8 8 < 2 ^ 52)
    (hperm : m.field 4 4 = 0) (hlen : m.field 16 8 = 0) (harg : m.field 24 8 = 0) (hwalk : s.walk m.ctx (m.field 8 8) = .leaf e) :
    exec (.hsQuery m) s = .next (s.respond m 0 (bytesOf 8 e)) := by
  have ha : m.field 0 4 = 0 := h.2.2.2
  have hlim' : ¬ Config.addrLimit ≤ m.field 8 8 := Nat.not_le.2 hlim
  refine hsRequest_does h (by simp [ha]) ?_
  rw [if_neg (by simp only [ha, hva, hlim', hperm, hlen, harg]; decide), hwalk]

/-- A range of one page. -/
theorem rangePages_one (va : Nat) : rangePages va (2 ^ 16) = [va] := by simp [rangePages]

theorem exec_hsPermissions (h : s.sharedRequest m 1) (hlim : hsLimits m = true) (hlen : m.field 16 8 = 2 ^ 16)
    (hwalk : s.walk m.ctx (m.field 8 8) = .leaf e) (hhs : leafHs e = true)
    (hset : s.setPerm m.ctx (m.field 8 8) (m.field 4 4) = some t) : exec (.hsPermissions m) s = .next (t.respond m 0 []) := by
  refine hsRequest_does h (decide_eq_true h.2.2.2) ?_
  have hps : rangePages (m.field 8 8) (m.field 16 8) = [m.field 8 8] := by rw [hlen, rangePages_one]
  simp [hlim, hps, hwalk, hhs, hset]

theorem exec_hsPermissions_unshared (h : s.sharedRequest m 1) (hlim : hsLimits m = true) (hlen : m.field 16 8 = 2 ^ 16)
    (hwalk : s.walk m.ctx (m.field 8 8) = .leaf e) (hhs : leafHs e = false) :
    exec (.hsPermissions m) s = .next (s.respond m 3 []) := by
  refine hsRequest_does h (decide_eq_true h.2.2.2) ?_
  have hps : rangePages (m.field 8 8) (m.field 16 8) = [m.field 8 8] := by rw [hlen, rangePages_one]
  simp [hlim, hps, hwalk, hhs]

theorem exec_hsMap {l : Nat} (h : s.sharedRequest m 2) (hlim : hsLimits m = true) (hlen : m.field 16 8 = 2 ^ 16)
    (harg : m.field 24 8 < 2 ^ 63) (hplace : placementOk (m.field 24 8) = true)
    (hwalk : s.walk m.ctx (m.field 8 8) = .fault 1 l)
    (hmap : s.mapShared m.ctx (m.field 8 8) (m.field 4 4) (m.field 24 8) = some t) :
    exec (.hsMap m) s = .next (t.respond m 0 []) := by
  refine hsRequest_does h (decide_eq_true h.2.2.2) ?_
  have hps : rangePages (m.field 8 8) (m.field 16 8) = [m.field 8 8] := by rw [hlen, rangePages_one]
  simp [hlim, Nat.testBit_lt_two_pow harg, hplace, hps, hwalk, hmap]

theorem exec_hsHostRegion (h : s.sharedRequest m 3) (hperm : m.field 4 4 = 0) (hva : m.field 8 8 % 2 ^ 16 = 0)
    (hlen : m.field 16 8 % 2 ^ 16 = 0) (harg : m.field 24 8 < 2 ^ 56)
    (hfree : ∀ e ∈ s.mapped m.ctx, ¬ (leafHost e.2.1 = true ∧ leafChip e.2.1 = s.chip)) :
    let r : HostRegion := ⟨m.field 8 8, m.field 16 8, m.field 24 8 % 2 ^ 32, m.field 24 8 / 2 ^ 32⟩
    exec (.hsHostRegion m) s = .next ((s.onContext m.ctx (fun c => { c with region := some r })).respond m 0 []) := by
  have hhosted : (s.mapped m.ctx).any (fun p => leafHost p.2.1 && leafChip p.2.1 == s.chip) = false :=
    List.any_eq_false.2 fun p hp => by simpa using hfree p hp
  refine hsRequest_does h (decide_eq_true h.2.2.2) ?_
  rw [if_neg (by simp only [hperm, hva, hlen, Nat.not_le.2 harg]; decide), if_neg (ne_true_of_eq_false hhosted)]

end

/-- Settles O49, request by request. -/
theorem objectsAndGroups : Obligations.ObjectsAndGroups :=
  ⟨fun _ _ _ => exec_loadObject, loadBytes_malformed, fun _ _ _ _ => loadBytes_unsigned, fun _ _ _ _ => loadBytes_old,
    fun _ _ _ _ _ _ _ => loadBytes_loads, inCode_recordObject, fun _ _ _ => exec_unload, fun _ _ => exec_unload_live,
    fun _ _ _ _ => exec_setGroupEntry, groupOf_setGroup, fun _ _ => exec_bindDomainBarrier,
    fun _ _ => exec_bindDomainBarrier_groupless, fun _ _ _ => exec_hsQuery, fun _ _ _ _ => exec_hsPermissions,
    fun _ _ _ => exec_hsPermissions_unshared, fun _ _ _ _ => exec_hsMap, fun _ _ => exec_hsHostRegion⟩
end Sys2Proof.Machine

namespace Sys2Proof.Machine
/-! # RDMA and the form of management requests (R471–R475) -/

/-! ## RDMA (R471, R472) -/

section
variable {s t : State} {key va n : Nat} {x : List Byte} {w : Exported} {b : Bytes2}

/-- The host port carries RDMA: it is up, and the package has passed its check. -/
def State.portUp (s : State) : Prop := s.up = true ∧ s.bootFailed = false

theorem State.portUp.goes (h : s.portUp) : ¬ ((!s.up || s.bootFailed) = true) := by
  obtain ⟨hup, hboot⟩ := h
  simp [hup, hboot]

theorem exec_rdmaWrite_done (h : s.portUp) (hw : s.rdmaWindow key va x.length true = some w)
    (hwait : s.rangeWaits w.ctx va x.length = false) (ht : s.rangeWrite w.ctx va x = some t) :
    exec (.rdmaWrite key va x) s = .next (t.out .rdmaDone) := by
  show execRdmaWrite key va x s = _
  rw [execRdmaWrite, if_neg h.goes]
  simp only [hw, hwait, ht]
  rfl

theorem exec_rdmaWrite_windowless (h : s.portUp) (hw : s.rdmaWindow key va x.length true = none) :
    exec (.rdmaWrite key va x) s = .next (s.out .rdmaAccessError) := by
  show execRdmaWrite key va x s = _
  rw [execRdmaWrite, if_neg h.goes]
  simp only [hw]

theorem exec_rdmaWrite_fault (h : s.portUp) (hw : s.rdmaWindow key va x.length true = some w)
    (hwait : s.rangeWaits w.ctx va x.length = false) (ht : s.rangeWrite w.ctx va x = none) :
    exec (.rdmaWrite key va x) s = .next (s.out .rdmaAccessError) := by
  show execRdmaWrite key va x s = _
  rw [execRdmaWrite, if_neg h.goes]
  simp only [hw, hwait, ht]
  rfl

/-- An RDMA READ whose bytes are there answers them, unless one is poisoned. -/
theorem exec_rdmaRead (h : s.portUp) (hw : s.rdmaWindow key va n false = some w) (hwait : s.rangeWaits w.ctx va n = false)
    (hb : s.rangeRead w.ctx va n = some b) : exec (.rdmaRead key va n) s =
      match b.findIdx? (fun y => y.2) with
      | none => .next ((s.rangeAsks w.ctx va n).out (.rdmaData (b.map (fun y => y.1))))
      | some i => .next (((s.rangeAsks w.ctx va n).count 1 ((s.rangeAsks w.ctx va n).home w.ctx (va + i)).1.die 1 1).out
          .rdmaOperationalError) := by
  show execRdmaRead key va n s = _
  rw [execRdmaRead, if_neg h.goes]
  simp only [hw, hwait, hb]
  rfl

theorem exec_rdmaRead_data (h : s.portUp) (hw : s.rdmaWindow key va n false = some w)
    (hwait : s.rangeWaits w.ctx va n = false) (hb : s.rangeRead w.ctx va n = some b) (hclean : ∀ y ∈ b, y.2 = false) :
    exec (.rdmaRead key va n) s = .next ((s.rangeAsks w.ctx va n).out (.rdmaData (b.map (fun y => y.1)))) := by
  rw [exec_rdmaRead h hw hwait hb, List.findIdx?_eq_none_iff.2 hclean]

theorem exec_rdmaRead_poisoned {i : Nat} (h : s.portUp) (hw : s.rdmaWindow key va n false = some w)
    (hwait : s.rangeWaits w.ctx va n = false) (hb : s.rangeRead w.ctx va n = some b)
    (hi : b.findIdx? (fun y => y.2) = some i) :
    let t := s.rangeAsks w.ctx va n
    exec (.rdmaRead key va n) s = .next ((t.count 1 (t.home w.ctx (va + i)).1.die 1 1).out .rdmaOperationalError) := by
  rw [exec_rdmaRead h hw hwait hb, hi]

theorem exec_rdmaRead_windowless (h : s.portUp) (hw : s.rdmaWindow key va n false = none) :
    exec (.rdmaRead key va n) s = .next (s.out .rdmaAccessError) := by
  show execRdmaRead key va n s = _
  rw [execRdmaRead, if_neg h.goes]
  simp only [hw]

/-- A read of a range asks the host for none of its pages where none lies in the host region. -/
theorem rangeAsks_none (s : State) (c va n : Nat) (h : ∀ p ∈ segments va n, (s.home c p.1).1.host = false) :
    s.rangeAsks c va n = s := by
  rw [State.rangeAsks]
  generalize segments va n = l at h
  induction l with
  | nil => rfl
  | cons p l ih =>
    have hp : s.frontAsks c p.1 p.2.2 = s := by
      rw [State.frontAsks]
      exact if_neg (by simp [h p List.mem_cons_self])
    rw [List.foldl_cons, hp]
    exact ih fun q hq => h q (List.mem_cons_of_mem _ hq)

theorem rdmaWindow_inside {write : Bool} (h : s.rdmaWindow key va n write = some w) :
    Tab.find s.exported key = some w ∧ w.base ≤ va ∧ va + n ≤ w.base + w.len ∧ (write = true → w.write = true) ∧
      (s.context w.ctx).stopped = false := by
  obtain ⟨y, hy, hw⟩ := Option.bind_eq_some_iff.1 h
  split at hw
  · contradiction
  · next hno =>
    cases hw
    simp only [Bool.or_eq_true, decide_eq_true_eq, Bool.and_eq_true, Bool.not_eq_true', not_or, not_lt, not_and,
      Bool.not_eq_true, Bool.not_eq_false] at hno
    obtain ⟨⟨⟨⟨-, hstop⟩, hlo⟩, hhi⟩, hwrite⟩ := hno
    exact ⟨hy, hlo, hhi, hwrite, hstop⟩

theorem exec_unsupportedRdmaRequest (k : RdmaKind) (h : s.portUp) :
    exec (.unsupportedRdmaRequest k) s = .next (s.out .rdmaInvalidRequest) := by
  obtain ⟨hup, hboot⟩ := h
  exact if_pos (by simp [hup, hboot])

end

/-! ## The form of requests (R467, R474) -/

section
variable {s : State} {m : HostMsg} {op : Nat} {ok needsCtx : Bool} {f : State → Option State}

/-- A request that the port takes from its queue: its form, its context and the life-cycle state decide what becomes of it. -/
theorem serve_taken (hup : s.up = true) (hopen : s.mgmtOpen = true) (hbusy : s.busy = none) (hboot : s.bootFailed = false)
    (hop : m.op = op) : s.serve m op ok needsCtx f =
      if m.rsv ≠ 0 || m.status ≠ 0 || 255 < m.ctx || 65536 < m.body.length || !ok then .next (s.respond m 0xFFFF [])
      else if needsCtx && !Tab.has s.contexts m.ctx then .next (s.respond m 0xFFFE [])
      else if !LifeCycle.serves s.lifeCycle op then .next (s.respond m (1 + Config.freeNat s.stamp (2 ^ 59) % 0xFFFF) [])
      else .next ((f s).getD s) :=
  if_neg (by simp [hup, hopen, hbusy, hboot, hop])

theorem serve_malformed (h : s.takesRequest m op) (hok : ok = false) :
    s.serve m op ok needsCtx f = .next (s.respond m 0xFFFF []) := by
  obtain ⟨hup, hopen, hbusy, hboot, hop, -⟩ := h
  rw [serve_taken hup hopen hbusy hboot hop, if_pos (by simp [hok])]

/-- A request whose form is right. -/
theorem serve_formed (h : s.takesRequest m op) (hok : ok = true) : s.serve m op ok needsCtx f =
    if needsCtx && !Tab.has s.contexts m.ctx then .next (s.respond m 0xFFFE [])
    else if !LifeCycle.serves s.lifeCycle op then .next (s.respond m (1 + Config.freeNat s.stamp (2 ^ 59) % 0xFFFF) [])
    else .next ((f s).getD s) := by
  obtain ⟨hup, hopen, hbusy, hboot, hop, hrsv, hst, hc, hlen⟩ := h
  rw [serve_taken hup hopen hbusy hboot hop, if_neg (by simp [hrsv, hst, Nat.not_lt.2 hc, Nat.not_lt.2 hlen, hok])]

theorem serve_contextless (h : s.takesRequest m op) (hok : ok = true) (hctx : Tab.has s.contexts m.ctx = false) :
    s.serve m op ok true f = .next (s.respond m 0xFFFE []) := by
  rw [serve_formed h hok, if_pos (by simp [hctx])]

theorem serve_barred (h : s.takesRequest m op) (hok : ok = true) (hbar : LifeCycle.serves s.lifeCycle op = false) :
    s.serve m op ok false f = .next (s.respond m (1 + Config.freeNat s.stamp (2 ^ 59) % 0xFFFF) []) := by
  rw [serve_formed h hok, Bool.false_and, if_neg Bool.false_ne_true, if_pos (by simp [hbar])]

theorem exec_undefinedOpRequest (h : s.takesRequest m m.op) (hop : definedOps.contains m.op = false) :
    exec (.undefinedOpRequest m) s = .next (s.respond m 0xFFFF []) := by
  show execUndefinedOpRequest m s = _
  rw [execUndefinedOpRequest, if_neg (ne_true_of_eq_false hop)]
  exact serve_malformed h rfl

theorem exec_defineContext_malformed (h : s.takesRequest m 0x0001) (hm : m.shaped 16 [(0, 8), (8, 2), (12, 4)] = false) :
    exec (.defineContext m) s = .next (s.respond m 0xFFFF []) := by
  show execDefineContext m s = _
  exact serve_malformed h hm

theorem exec_keySlotRevocation_long (hup : s.up = true) (hopen : s.mgmtOpen = true) (hbusy : s.busy = none)
    (hboot : s.bootFailed = false) (hop : m.op = 0x0080) (hlen : 65536 < m.body.length) :
    exec (.keySlotRevocation m) s = (if m.field 0 4 = 1 then .next (s.respond m 0xFFFF []) else .next s) := by
  show execKeySlotRevocation m s = _
  rw [execKeySlotRevocation, State.command]
  by_cases ha : m.field 0 4 = 1
  · rw [if_neg (by simp [ha]), if_pos ha]
    exact (serve_taken hup hopen hbusy hboot hop).trans (if_pos (by simp [hlen]))
  · rw [if_pos (by simp [ha]), if_neg ha]

/-- The requests that telemetry bears are barred in every state but DEPLOYED. -/
theorem serves_telemetry (l : LifeCycle) (h : l ≠ .deployed) : LifeCycle.serves l 0x0090 = false := by
  cases l with
  | deployed => contradiction
  | manufacture => rfl
  | provisioned => rfl
  | decommissioned => rfl

theorem exec_readTelemetry_barred (h : s.takesRequest m 0x0090) (hm : m.shaped 8 [(0, 4)] = true) (hd : m.field 0 4 < 512)
    (hlife : s.lifeCycle ≠ .deployed) : ∃ n, n ≠ 0 ∧ exec (.readTelemetry m) s = .next (s.respond m n []) := by
  refine ⟨1 + Config.freeNat s.stamp (2 ^ 59) % 0xFFFF, by omega, ?_⟩
  show execReadTelemetry m s = _
  exact serve_barred h (by simp [hm, hd]) (serves_telemetry _ hlife)

theorem exec_contextless (i : Instr) (h : s.takesRequest m m.op) (hctx : Tab.has s.contexts m.ctx = false)
    (hi : (i = .createQueue m ∧ m.op = 0x0010 ∧ m.shaped 32 [(0, 1), (1, 1), (2, 1), (4, 4), (8, 8), (16, 8), (24, 8)] = true) ∨
     (i = .destroyQueue m ∧ m.op = 0x0011 ∧ m.shaped 8 [(0, 4)] = true) ∨
     (i = .unload m ∧ m.op = 0x0041 ∧ m.shaped 8 [(0, 4)] = true) ∨
     (i = .withdrawWindow m ∧ m.op = 0x0031 ∧ m.shaped 8 [(0, 4)] = true)) :
    exec i s = .next (s.respond m 0xFFFE []) := by
  obtain ⟨rfl, hop, hm⟩ | ⟨rfl, hop, hm⟩ | ⟨rfl, hop, hm⟩ | ⟨rfl, hop, hm⟩ := hi
  · show execCreateQueue m s = _
    exact serve_contextless (hop ▸ h) hm hctx
  · show execDestroyQueue m s = _
    exact serve_contextless (hop ▸ h) hm hctx
  · show execUnload m s = _
    exact serve_contextless (hop ▸ h) hm hctx
  · show execWithdrawWindow m s = _
    exact serve_contextless (hop ▸ h) hm hctx

end

/-! ## The management queue pair (R473, R475) -/

section
variable {s : State}

theorem exec_managementQueuePairOpen (h : s.up = true) :
    exec .managementQueuePairOpen s = .next { s with mgmtOpen := true } := if_pos h

theorem exec_receiveBufferPosted (n : Nat) (hopen : s.mgmtOpen = true) :
    exec (.receiveBufferPosted n) s = .next ({ s with rxBuffers := s.rxBuffers + n } : State).deliverHeld := if_pos hopen

theorem deliverHeld_nothing (h : s.held = []) : s.deliverHeld = s := by
  cases s with
  | mk =>
    cases h
    simp [State.deliverHeld]

theorem exec_receiveBufferPosted_delivers {x : HostMsg} (hopen : s.mgmtOpen = true) (hheld : s.held = [x])
    (hrx : s.rxBuffers = 0) : exec (.receiveBufferPosted 1) s =
      .next { s with held := [], hostOut := s.hostOut ++ [.message x] } := by
  rw [exec_receiveBufferPosted 1 hopen]
  cases s with
  | mk =>
    cases hheld
    cases hrx
    rfl

end

/-- Settles O47, request by request. -/
theorem hostPort : Obligations.HostPort :=
  ⟨fun _ _ _ _ _ _ => exec_rdmaWrite_done, fun _ _ _ _ => exec_rdmaWrite_windowless, fun _ _ _ _ _ => exec_rdmaWrite_fault,
    fun _ _ _ _ _ _ => exec_rdmaRead_data, rangeAsks_none, fun _ _ _ _ _ _ _ => exec_rdmaRead_poisoned,
    fun _ _ _ _ => exec_rdmaRead_windowless, fun _ _ _ _ _ _ => rdmaWindow_inside, fun _ => exec_unsupportedRdmaRequest,
    fun _ _ => exec_undefinedOpRequest, fun _ _ => exec_defineContext_malformed, fun _ _ => exec_keySlotRevocation_long,
    fun _ _ => exec_readTelemetry_barred, fun _ _ => exec_contextless, fun _ _ _ _ => ⟨rfl, rfl, rfl⟩,
    fun _ => exec_managementQueuePairOpen, fun _ n hopen hheld => (exec_receiveBufferPosted n hopen).trans
      (congrArg Host.Outcome.next (deliverHeld_nothing hheld)),
    fun _ _ => exec_receiveBufferPosted_delivers⟩
end Sys2Proof.Machine

namespace Sys2Proof.Machine
/-! # Walks, translations and the checks of pages (R415–R423, R501) -/

/-! ## Entries (R416–R418) -/

theorem tableOk_iff (e : Nat) : tableOk e = true ↔ bitsOf e 1 0 = 1 ∧ bitsOf e 63 45 = 0 ∧ bitsOf e 14 2 = 0 ∧
    (bitsOf e 40 15 + 1) * 2 ^ 15 ≤ tierBytes (leafTier e) := by
  simp only [tableOk, entryType, Bool.and_eq_true, beq_iff_eq, decide_eq_true_eq, and_assoc]

theorem entryType_of_tableOk {e : Nat} (h : tableOk e = true) : entryType e = 1 := ((tableOk_iff e).1 h).1

theorem entryAt_none (s : State) (a : Nat) : s.entryAt a = none ↔ poisonedIn s.poison a 8 = true := by
  rw [State.entryAt]
  split <;> simp_all

theorem entryAt_some (s : State) (a e : Nat) (h : s.entryAt a = some e) : e = s.memWord a := by
  rw [State.entryAt] at h
  split at h
  · contradiction
  · exact (Option.some.inj h).symm

/-- A leaf or block is well formed (R418). -/
theorem leafOk_iff (s : State) (c e n : Nat) : s.leafOk c e n = true ↔
    e.testBit 63 = false ∧ bitsOf e 57 56 = 0 ∧ bitsOf e 19 6 = 0 ∧ e.testBit 2 = false ∧
      (leafHost e = true → leafHs e = true ∧ leafDie e = 0 ∧ leafTier e = 0) ∧
      (leafHost e = false → (leafFrame e + n) * 2 ^ 16 ≤ tierBytes (leafTier e)) ∧ leafFrame e % n = 0 ∧
      (e.testBit 4 = true → leafChip e = s.chip ∧ leafHost e = false →
        ∀ k ∈ s.codeFrames, ¬ (leafFrameNo e ≤ k ∧ k < leafFrameNo e + n)) ∧
      (e.testBit 5 = true → (leafChip e = s.chip ∧ leafHost e = false) ∧ ∀ i < n, leafFrameNo e + i ∈ s.ownCode c) := by
  have hhost : (if leafHost e then leafHs e && leafDie e == 0 && leafTier e == 0
      else decide ((leafFrame e + n) * 2 ^ 16 ≤ tierBytes (leafTier e))) = true ↔
        (leafHost e = true → leafHs e = true ∧ leafDie e = 0 ∧ leafTier e = 0) ∧
        (leafHost e = false → (leafFrame e + n) * 2 ^ 16 ≤ tierBytes (leafTier e)) := by
    cases leafHost e <;> simp [and_assoc]
  have hwrite : (!(e.testBit 4 && s.codeFrames.any (fun k =>
      (leafChip e == s.chip && !leafHost e) && decide (leafFrameNo e ≤ k) && decide (k < leafFrameNo e + n)))) = true ↔
        (e.testBit 4 = true → leafChip e = s.chip ∧ leafHost e = false →
          ∀ k ∈ s.codeFrames, ¬ (leafFrameNo e ≤ k ∧ k < leafFrameNo e + n)) := by
    cases e.testBit 4
    · simp
    · simp only [Bool.true_and, Bool.not_eq_true', List.any_eq_false, Bool.and_eq_true, beq_iff_eq, Bool.not_eq_true',
        decide_eq_true_eq, true_implies]
      exact ⟨fun h hh k hk hin => h k hk ⟨⟨hh, hin.1⟩, hin.2⟩, fun h k hk hin => h hin.1.1 k hk ⟨hin.1.2, hin.2⟩⟩
  have hexec : (!e.testBit 5 || ((leafChip e == s.chip && !leafHost e) &&
      (List.range n).all (fun i => (s.ownCode c).contains (leafFrameNo e + i)))) = true ↔
        (e.testBit 5 = true → (leafChip e = s.chip ∧ leafHost e = false) ∧ ∀ i < n, leafFrameNo e + i ∈ s.ownCode c) := by
    cases e.testBit 5 <;> simp
  rw [State.leafOk]
  simp only [Bool.and_eq_true (_ && _), Bool.and_eq_true (!_) _, hhost, hwrite, hexec, Bool.not_eq_true', beq_iff_eq, and_assoc]

/-! ## Walks (R415) -/

section
variable {s : State} {c va e e1 e2 : Nat}

/-- Where the entry of an address lies in the table that e names. -/
abbrev entryPlace (e va lvl : Nat) : Nat := tableAddr e + entryOfs va lvl

/-- The root entry of a context. -/
abbrev rootOf (s : State) (c : Nat) : Nat := (s.context c).root

/-- A walk finds a level-2 table, which e1 names. -/
def walksSecond (s : State) (c va e1 : Nat) : Prop :=
  tableOk (rootOf s c) = true ∧ s.entryAt (entryPlace (rootOf s c) va 1) = some e1 ∧ tableOk e1 = true

/-- A walk finds a level-3 table, which e2 names. -/
def walksThird (s : State) (c va e1 e2 : Nat) : Prop :=
  walksSecond s c va e1 ∧ s.entryAt (entryPlace e1 va 2) = some e2 ∧ tableOk e2 = true

theorem walk_rootless (h : tableOk (rootOf s c) = false) : s.walk c va = .fault 3 0 := if_neg (ne_true_of_eq_false h)

theorem walk_first (h : tableOk (rootOf s c) = true) : s.walk c va = s.walk1 c va (s.entryAt (entryPlace (rootOf s c) va 1)) :=
  if_pos h

theorem walk1_table (h : tableOk e = true) : s.walk1 c va (some e) = s.walk2 c va (s.entryAt (entryPlace e va 2)) := by
  have htype := entryType_of_tableOk h
  rw [State.walk1]
  generalize entryType e = k at htype
  subst htype
  exact if_pos h

theorem walk2_table (h : tableOk e = true) : s.walk2 c va (some e) = s.walk3 c (s.entryAt (entryPlace e va 3)) := by
  have htype := entryType_of_tableOk h
  rw [State.walk2]
  generalize entryType e = k at htype
  subst htype
  exact if_pos h

theorem walk_second (h : walksSecond s c va e1) : s.walk c va = s.walk2 c va (s.entryAt (entryPlace e1 va 2)) := by
  obtain ⟨hroot, he, hok⟩ := h
  rw [walk_first hroot, he, walk1_table hok]

theorem walk_third (h : walksThird s c va e1 e2) : s.walk c va = s.walk3 c (s.entryAt (entryPlace e2 va 3)) := by
  obtain ⟨hsecond, he, hok⟩ := h
  rw [walk_second hsecond, he, walk2_table hok]

/-- The types of entries: two bits. -/
theorem entryType_lt (e : Nat) : entryType e < 4 := Nat.mod_lt _ (by decide)

theorem walk1_no_table (h : tableOk e = false) :
    s.walk1 c va (some e) = if entryType e = 0 then .fault 1 1 else .fault 3 1 := by
  rw [State.walk1]
  have hlt := entryType_lt e
  generalize entryType e = k at hlt
  match k, hlt with
  | 0, _ => rfl
  | 1, _ => exact if_neg (ne_true_of_eq_false h)
  | 2, _ => rfl
  | 3, _ => rfl

theorem walk2_no_table (h : tableOk e = false) : s.walk2 c va (some e) =
    if entryType e = 0 then .fault 1 2
    else if entryType e ≠ 2 ∨ s.leafOk c e 4096 = false then .fault 3 2
    else if leafMig e = true then .wait else .leaf (e + va / 2 ^ 16 % 4096 * 2 ^ 20) := by
  rw [State.walk2]
  have hlt := entryType_lt e
  generalize entryType e = k at hlt
  match k, hlt with
  | 0, _ => rfl
  | 1, _ => exact if_neg (ne_true_of_eq_false h)
  | 2, _ => cases s.leafOk c e 4096 <;> rfl
  | 3, _ => rfl

theorem walk3_some : s.walk3 c (some e) =
    if entryType e = 0 then (if e.testBit 2 = false then .fault 1 3 else if e / 64 = 0 then .fault 2 3 else .fault 3 3)
    else if entryType e ≠ 2 ∨ s.leafOk c e 1 = false then .fault 3 3
    else if leafMig e = true then .wait else .leaf e := by
  rw [State.walk3]
  have hlt := entryType_lt e
  generalize entryType e = k at hlt
  match k, hlt with
  | 0, _ => cases e.testBit 2 <;> rfl
  | 1, _ => rfl
  | 2, _ => cases s.leafOk c e 1 <;> rfl
  | 3, _ => rfl

end

theorem walks : walksHold := by
  unfold walksHold
  refine ⟨tableOk_iff, fun _ _ => rfl, fun _ _ => rfl, fun _ _ => rfl, entryAt_none, entryAt_some, fun _ _ _ => walk_rootless,
    fun s c va hroot hnone => ?_, fun s c va e hroot he hbad => ?_, fun s c va e1 h hnone => ?_, fun s c va e1 e h he hbad => ?_,
    fun s c va e1 e2 h hnone => ?_, fun s c va e1 e2 e h he => ?_, leafOk_iff⟩
  · rw [walk_first hroot, hnone]
    rfl
  · rw [walk_first hroot, he, walk1_no_table hbad]
  · rw [walk_second h, hnone]
    rfl
  · rw [walk_second h, he, walk2_no_table hbad]
  · rw [walk_third h, hnone]
    rfl
  · rw [walk_third h, he, walk3_some]

/-! ## The translation that an access uses (R419, R422) -/

section
variable (s : State) (c va : Nat)

theorem translate_alone (h : s.otherLeaves c va = []) : s.translate c va = s.walk c va := by
  rw [State.translate, h]
  rfl

theorem translate_cases : s.translate c va = s.walk c va ∨ ∃ e ∈ s.otherLeaves c va, s.translate c va = .leaf e := by
  rw [State.translate]
  cases h : (s.otherLeaves c va)[Config.freeNat s.stamp (2 ^ 42 + va / 2 ^ 16) % ((s.otherLeaves c va).length + 1)]? with
  | none => exact .inl rfl
  | some e => exact .inr ⟨e, List.mem_of_getElem? h, rfl⟩

theorem mem_otherLeaves (e : Nat) : e ∈ s.otherLeaves c va ↔
    (∃ t ∈ s.tlb, t.ctx = c ∧ t.page / t.pages = va / 2 ^ 16 / t.pages ∧ s.displacedLeaf c (va / 2 ^ 16) t.page t.leaf = some e) ∨
    (∃ h ∈ s.hintedLeaves c va, s.displacedLeaf c (va / 2 ^ 16) (va / 2 ^ 22 * 64 + h.1) h.2 = some e) := by
  have hrange : va / 2 ^ 16 / 64 = va / 2 ^ 22 := by omega
  simp only [State.otherLeaves, hrange, List.mem_append, List.mem_filterMap, List.mem_filter, TlbEntry.covers, Bool.and_eq_true,
    beq_iff_eq, and_assoc]

end

/-! ## The checks of one page (R501) -/

section
variable {s : State} {c : Nat} {base : TrapRec} {byLane : Bool} {a : PageAcc} {r : List PageAcc}

/-- What the accesses of a page need of it. -/
abbrev needOf (as : List PageAcc) : Nat := as.foldl (fun n b => n ||| b.need) 0

/-- The record of a failed check of a page names its first access. -/
abbrev pageRecord (base : TrapRec) (byLane : Bool) (a : PageAcc) (n : Nat) : TrapRec :=
  { base with lane := if byLane then some a.lane else none, addr := a.va, info := n - 1 }

theorem checkPage_fault {sub lvl : Nat}
    (h : (2 ^ 52 ≤ a.va ∧ sub = 1) ∨ (a.va < 2 ^ 52 ∧ s.translate c a.va = .fault sub lvl)) :
    s.checkPage c base byLane (a :: r) = .trap { pageRecord base byLane a (needOf (a :: r)) with
      code := 0x06, sub := sub, addr := a.va / 2 ^ 16 * 2 ^ 16,
      mask := if byLane then maskOfLanes ((a :: r).map (fun b => b.lane)) else base.mask } := by
  rw [State.checkPage]
  obtain ⟨hout, rfl⟩ | ⟨hin, ht⟩ := h
  · have hlim : Config.addrLimit ≤ (List.headD (a :: r) ⟨0, 0, 1, .any⟩).va := hout
    dsimp only
    rw [if_pos hlim]
    rfl
  · simp only [List.headD_cons, if_neg (show ¬ Config.addrLimit ≤ a.va from Nat.not_le.2 hin), ht]

theorem checkPage_wait (hin : a.va < 2 ^ 52) (ht : s.translate c a.va = .wait) : s.checkPage c base byLane (a :: r) = .wait := by
  rw [State.checkPage]
  simp only [List.headD_cons, if_neg (show ¬ Config.addrLimit ≤ a.va from Nat.not_le.2 hin), ht]

theorem checkPage_leaf {e : Nat} (hin : a.va < 2 ^ 52) (ht : s.translate c a.va = .leaf e) :
    s.checkPage c base byLane (a :: r) =
      if leafPerm e &&& needOf (a :: r) ≠ needOf (a :: r) then
        .trap { pageRecord base byLane a (needOf (a :: r)) with code := 0x07, sub := 1 }
      else if (leafChip e ≠ s.chip ∧ leafDw e = false) ∨ (∃ b ∈ a :: r, b.rule.ok s.chip e = false) then
        .trap { pageRecord base byLane a (needOf (a :: r)) with code := 0x07, sub := 3 }
      else if leafLost e = true then .trap { pageRecord base byLane a (needOf (a :: r)) with code := 0x13, info := 0 }
      else .ok := by
  have hrule : ((leafChip e ≠ s.chip ∧ (!leafDw e) = true) ∨ (!(a :: r).all (fun b => b.rule.ok s.chip e)) = true) ↔
      ((leafChip e ≠ s.chip ∧ leafDw e = false) ∨ ∃ b ∈ a :: r, b.rule.ok s.chip e = false) := by
    rw [Bool.not_eq_true', Bool.not_eq_true', List.all_eq_false]
    simp only [Bool.not_eq_true]
  rw [State.checkPage]
  simp only [List.headD_cons, if_neg (show ¬ Config.addrLimit ≤ a.va from Nat.not_le.2 hin), ht]
  refine if_congr Iff.rfl rfl (if_congr hrule rfl rfl)

end

/-! ## The pages of a word, in order (R501) -/

/-- The page of an access. -/
abbrev PageAcc.page (a : PageAcc) : Nat := a.va / 2 ^ 16

/-- The pages of a list of accesses that l does not hold, after l, in the order of their first access. -/
abbrev pagesAfter (l : List Nat) (as : List PageAcc) : List Nat :=
  as.foldl (fun l a => if l.contains a.page then l else l ++ [a.page]) l

theorem pagesAfter_cons (p : Nat) (as : List PageAcc) : ∀ l : List Nat,
    pagesAfter (p :: l) as = p :: pagesAfter l (as.filter (fun b => b.page != p)) := by
  induction as with
  | nil => exact fun _ => rfl
  | cons a as ih =>
    intro l
    by_cases hp : a.page = p
    · rw [List.filter_cons_of_neg (by simpa using hp), ← ih]
      simp only [pagesAfter, List.foldl_cons]
      rw [if_pos (by simp [hp])]
    · rw [List.filter_cons_of_pos (by simpa using hp)]
      simp only [pagesAfter, List.foldl_cons]
      by_cases hl : l.contains a.page
      · rw [if_pos hl, if_pos (by simp_all), ← ih]
      · rw [if_neg hl, if_neg (by simp_all)]
        exact ih _

theorem mem_pagesAfter {q : Nat} (as : List PageAcc) : ∀ l : List Nat, q ∈ pagesAfter l as → q ∈ l ∨ ∃ a ∈ as, a.page = q := by
  induction as with
  | nil => exact fun _ h => .inl h
  | cons a as ih =>
    intro l h
    obtain hin | ⟨b, hb, hq⟩ := ih _ h
    · dsimp only at hin
      split at hin
      · exact .inl hin
      · obtain hin | hin := List.mem_append.1 hin
        · exact .inl hin
        · exact .inr ⟨a, List.mem_cons_self, (List.mem_singleton.1 hin).symm⟩
    · exact .inr ⟨b, List.mem_cons_of_mem _ hb, hq⟩

theorem groupPages_cons (a : PageAcc) (r : List PageAcc) :
    groupPages (a :: r) = (a :: r).filter (fun b => b.page == a.page) :: groupPages (r.filter (fun b => b.page != a.page)) := by
  show (pagesAfter [a.page] r).map (fun p => (a :: r).filter (fun b => b.page == p)) = _
  rw [pagesAfter_cons, List.map_cons]
  refine congrArg _ (List.map_congr_left fun q hq => ?_)
  have hne : q ≠ a.page := by
    obtain h | ⟨b, hb, rfl⟩ := mem_pagesAfter _ _ hq
    · exact absurd h List.not_mem_nil
    · simpa using (List.mem_filter.1 hb).2
  rw [List.filter_cons_of_neg (by simpa using Ne.symm hne), List.filter_filter]
  refine List.filter_congr fun b _ => Bool.eq_iff_iff.2 ?_
  rw [Bool.and_eq_true, beq_iff_eq, bne_iff_ne]
  exact ⟨fun h => ⟨h, h ▸ hne⟩, And.left⟩

section
variable {s : State} {c : Nat} {base : TrapRec} {byLane : Bool} {as : List PageAcc}

theorem checkPages_ok (h : ∀ p ∈ groupPages as, s.checkPage c base byLane p = .ok) : s.checkPages c base byLane as = .ok := by
  rw [State.checkPages, State.lookPages, each_ok h]

theorem checkPages_fails {p : List PageAcc} {l r : List (List PageAcc)} (hsplit : groupPages as = l ++ p :: r)
    (hl : ∀ q ∈ l, s.checkPage c base byLane q = .ok) (hp : s.checkPage c base byLane p ≠ .ok) :
    s.checkPages c base byLane as = s.checkPage c base byLane p := by
  rw [State.checkPages, State.lookPages, hsplit, each_fails hl hp]

end

theorem pageChecks : pageChecksHold :=
  ⟨translate_alone, translate_cases, mem_otherLeaves, fun _ _ _ _ _ _ _ _ => checkPage_fault, fun _ _ _ _ _ _ => checkPage_wait,
    fun _ _ _ _ _ _ _ => checkPage_leaf, rfl, groupPages_cons, fun _ _ _ _ _ => checkPages_ok,
    fun _ _ _ _ _ _ _ _ => checkPages_fails⟩
end Sys2Proof.Machine

namespace Sys2Proof.Machine
/-! # The paging words and page migration (R424–R431, R478) -/

/-! ## The words -/

section
variable (r : RWord)

/-- The word's context. -/
abbrev ctxFor (s : State) (x : Ctx) : Nat := s.ctxOf (s.issuer x)
/-- The address in a, and the page that it lies in. -/
abbrev namedPair (s : State) (x : Ctx) : Nat := s.src x r.a 2 0
abbrev namedPage (s : State) (x : Ctx) : Nat := namedPair r s x / 2 ^ 16 * 2 ^ 16

/-- What PGMAP comes to. -/
def pgmapRes (s : State) (x : Ctx) : Res :=
  if x.act = 0#32 then .go s
  else if !placementOk (s.usrc x r.b) then .trap x.illegalOperand
  else if Config.addrLimit ≤ namedPage r s x then
    .trap { x.trap 0x07 with sub := 2, addr := namedPair r s x, info := Config.freeNat s.stamp (2 ^ 21) % 3 }
  else if s.walkWaits (ctxFor s x) (namedPage r s x) then .block false
  else
    let y := s.mapPage (ctxFor s x) (namedPage r s x) (s.usrc x r.b) (dieOf (s.issuer x).core)
    y.1.deliverU x r.d.toNat 1 y.2

/-- What PGPROT comes to. -/
def pgprotRes (s : State) (x : Ctx) : Res :=
  if x.act = 0#32 then .go s
  else if s.protWaits (ctxFor s x) (namedPage r s x) then .block false
  else if Config.freeBit s.stamp (2 ^ 43) then
    .go (s.addPend x .other (.perm (namedPage r s x) (s.usrc x r.b) r.d.toNat x.sup) (x.fills true r.d.toNat 1) 0#32 0#32)
  else
    let y := s.protPage (ctxFor s x) (namedPage r s x) (s.usrc x r.b)
    y.1.deliverU x r.d.toNat 1 y.2

/-- What CINV comes to. -/
def cinvRes (s : State) (x : Ctx) : Res :=
  if x.act = 0#32 then .go s
  else if s.usrc x r.b = 0 || 127 < s.usrc x r.b then .trap x.illegalOperand
  else .go (s.dropLines (ctxFor s x) (fun k => namedPair r s x / 128 ≤ k && k < namedPair r s x / 128 + s.usrc x r.b))

theorem exec_pgmap (s : State) : exec (.pgmap r) s = s.issue (.pgmap r) r.head (pgmapRes r s) := rfl
theorem exec_pgprot (s : State) : exec (.pgprot r) s = s.issue (.pgprot r) r.head (pgprotRes r s) := rfl
theorem exec_cinv (s : State) : exec (.cinv r) s = s.issue (.cinv r) r.head (cinvRes r s) := rfl

theorem exec_tlbinvPg (s : State) : exec (.tlbinvPg r) s = s.issue (.tlbinvPg r) r.head (fun x =>
    if x.act = 0#32 then .go s else .go (s.invalidate (ctxFor s x) (some (namedPair r s x / 2 ^ 16)))) := rfl

theorem exec_tlbinvCtx (h : Head) (s : State) : exec (.tlbinvCtx h) s = s.issue (.tlbinvCtx h) h (fun x =>
    if x.act = 0#32 then .go s else .go (s.invalidate (ctxFor s x) none)) := rfl

theorem exec_cinvCtx (h : Head) (s : State) : exec (.cinvCtx h) s = s.issue (.cinvCtx h) h (fun x =>
    if x.act = 0#32 then .go s else .go (s.dropLines (ctxFor s x) (fun _ => true))) := rfl

theorem walkWaits_iff (s : State) (c va : Nat) : s.walkWaits c va = true ↔ s.walk c va = .wait := beq_iff_eq

theorem protWaits_iff (s : State) (c va : Nat) : s.protWaits c va = true ↔ va < 2 ^ 52 ∧ s.walk c va = .wait := by
  rw [State.protWaits, Bool.and_eq_true, walkWaits_iff, decide_eq_true_eq]
  exact Iff.rfl

theorem pgmap_idle : DoesIf (.pgmap r) r.head (fun _ x => x.act = 0#32) (fun s x => s.went x) :=
  doesIf_of (r := fun s _ => .go s) (exec_pgmap r) (fun _ _ hact => if_pos hact)

theorem pgprot_idle : DoesIf (.pgprot r) r.head (fun _ x => x.act = 0#32) (fun s x => s.went x) :=
  doesIf_of (r := fun s _ => .go s) (exec_pgprot r) (fun _ _ hact => if_pos hact)

theorem tlbinvPg_idle : DoesIf (.tlbinvPg r) r.head (fun _ x => x.act = 0#32) (fun s x => s.went x) :=
  doesIf_of (r := fun s _ => .go s) (exec_tlbinvPg r) (fun _ _ hact => if_pos hact)

theorem cinv_idle : DoesIf (.cinv r) r.head (fun _ x => x.act = 0#32) (fun s x => s.went x) :=
  doesIf_of (r := fun s _ => .go s) (exec_cinv r) (fun _ _ hact => if_pos hact)

theorem tlbinvCtx_idle (h : Head) : DoesIf (.tlbinvCtx h) h (fun _ x => x.act = 0#32) (fun s x => s.went x) :=
  doesIf_of (r := fun s _ => .go s) (exec_tlbinvCtx h) (fun _ _ hact => if_pos hact)

theorem cinvCtx_idle (h : Head) : DoesIf (.cinvCtx h) h (fun _ x => x.act = 0#32) (fun s x => s.went x) :=
  doesIf_of (r := fun s _ => .go s) (exec_cinvCtx h) (fun _ _ hact => if_pos hact)

/-- PGMAP goes on with the status of the mapping (R425). -/
theorem pgmap_maps : DoesIf (.pgmap r) r.head (fun s x => x.act ≠ 0#32 ∧ placementOk (s.usrc x r.b) = true ∧
      namedPage r s x < 2 ^ 52 ∧ s.walk (ctxFor s x) (namedPage r s x) ≠ .wait)
    (fun s x =>
      let y := s.mapPage (ctxFor s x) (namedPage r s x) (s.usrc x r.b) (dieOf (s.issuer x).core)
      tells r x y.1 y.2) := by
  rintro s hp ⟨hact, hplace, hin, hwalk⟩
  rw [exec_of_passes (exec_pgmap r s) hp, pgmapRes, if_neg hact, if_neg (by simp [hplace]),
    if_neg (show ¬ Config.addrLimit ≤ _ from Nat.not_le.2 hin), if_neg (fun h => hwalk ((walkWaits_iff _ _ _).1 h))]
  exact settle_deliverU r hact _ _

theorem pgmap_traps : DoesIf (.pgmap r) r.head (fun s x => x.act ≠ 0#32 ∧ placementOk (s.usrc x r.b) = false)
    (fun s x => s.trapped x x.illegalOperand) :=
  doesIf_of (r := fun _ x => .trap x.illegalOperand) (exec_pgmap r)
    (fun _ _ ⟨hact, hplace⟩ => (if_neg hact).trans (if_pos (by simp [hplace])))

/-- PGPROT acts at its issue, or leaves its work to the landing of its status. -/
theorem pgprot_protects : DoesIf (.pgprot r) r.head
    (fun s x => x.act ≠ 0#32 ∧ (namedPage r s x < 2 ^ 52 → s.walk (ctxFor s x) (namedPage r s x) ≠ .wait))
    (fun s x =>
      let y := s.protPage (ctxFor s x) (namedPage r s x) (s.usrc x r.b)
      if Config.freeBit s.stamp (2 ^ 43) then
        (s.addPend x .other (.perm (namedPage r s x) (s.usrc x r.b) r.d.toNat x.sup) (lateFills x true r.d.toNat 1) 0#32 0#32).went x
      else tells r x y.1 y.2) := by
  rintro s hp ⟨hact, hwalk⟩
  have hgoes : ¬ s.protWaits (ctxFor s (s.wordCtx r.head)) (namedPage r s (s.wordCtx r.head)) = true :=
    fun h => hwalk ((protWaits_iff _ _ _).1 h).1 ((protWaits_iff _ _ _).1 h).2
  rw [exec_of_passes (exec_pgprot r s) hp, pgprotRes, if_neg hact, if_neg hgoes]
  by_cases hlate : Config.freeBit s.stamp (2 ^ 43) = true
  · simp only [if_pos hlate, fills_eq _ _ _ hact]
    rfl
  · simp only [if_neg hlate]
    exact settle_deliverU r hact _ _

theorem pgprot_waits : DoesIf (.pgprot r) r.head
    (fun s x => x.act ≠ 0#32 ∧ namedPage r s x < 2 ^ 52 ∧ s.walk (ctxFor s x) (namedPage r s x) = .wait)
    (fun s x => s.blocked x false) :=
  doesIf_of (r := fun _ _ => .block false) (exec_pgprot r)
    (fun _ _ ⟨hact, hwaits⟩ => (if_neg hact).trans (if_pos ((protWaits_iff _ _ _).2 hwaits)))

theorem tlbinvPg_drops : DoesIf (.tlbinvPg r) r.head (fun _ x => x.act ≠ 0#32)
    (fun s x => (s.invalidate (ctxFor s x) (some (namedPair r s x / 2 ^ 16))).went x) :=
  doesIf_of (r := fun _ _ => .go _) (exec_tlbinvPg r) (fun _ _ hact => if_neg hact)

theorem tlbinvCtx_drops (h : Head) : DoesIf (.tlbinvCtx h) h (fun _ x => x.act ≠ 0#32)
    (fun s x => (s.invalidate (ctxFor s x) none).went x) :=
  doesIf_of (r := fun _ _ => .go _) (exec_tlbinvCtx h) (fun _ _ hact => if_neg hact)

theorem cinv_drops : DoesIf (.cinv r) r.head (fun s x => x.act ≠ 0#32 ∧ 1 ≤ s.usrc x r.b ∧ s.usrc x r.b ≤ 127)
    (fun s x => (s.dropLines (ctxFor s x)
      (fun k => namedPair r s x / 128 ≤ k && k < namedPair r s x / 128 + s.usrc x r.b)).went x) :=
  doesIf_of (r := fun _ _ => .go _) (exec_cinv r)
    (fun _ _ ⟨hact, hlo, hhi⟩ => (if_neg hact).trans (if_neg (by simp; omega)))

theorem cinv_traps : DoesIf (.cinv r) r.head (fun s x => x.act ≠ 0#32 ∧ (s.usrc x r.b = 0 ∨ 127 < s.usrc x r.b))
    (fun s x => s.trapped x x.illegalOperand) :=
  doesIf_of (r := fun _ x => .trap x.illegalOperand) (exec_cinv r)
    (fun _ _ ⟨hact, hn⟩ => (if_neg hact).trans (if_pos (by simpa using hn)))

theorem cinvCtx_drops (h : Head) : DoesIf (.cinvCtx h) h (fun _ x => x.act ≠ 0#32)
    (fun s x => (s.dropLines (ctxFor s x) (fun _ => true)).went x) :=
  doesIf_of (r := fun _ _ => .go _) (exec_cinvCtx h) (fun _ _ hact => if_neg hact)

end

/-! ## Mapping, and what an invalidation leaves (R424, R425) -/

section
variable (s : State) (c va p here : Nat)

theorem mapPage_mapped {e : Nat} (hwalk : s.walk c va = .leaf e) : s.mapPage c va p here = (s, 1) := by
  rw [State.mapPage, hwalk]

theorem mapPage_full {l : Nat} (hwalk : s.walk c va = .fault 2 l) (hframe : s.frameAt c p here = none) :
    s.mapPage c va p here = (s, 2) := by
  rw [State.mapPage, hwalk]
  simp only [hframe]

theorem mapPage_unmapped {l : Nat} (hwalk : s.walk c va = .fault 1 l) : s.mapPage c va p here = (s, 3) := by
  rw [State.mapPage, hwalk]
  rfl

end

theorem invalidate_drops (s : State) (c page va : Nat) : (∀ t ∈ (s.invalidate c (some page)).tlb, t.covers c page = false) ∧
    (va / 2 ^ 16 = page → ∀ f ∈ (s.invalidate c (some page)).farLines, ¬ (f.ctx = c ∧ f.va = va)) := by
  constructor
  · intro t ht
    have hkept := (List.mem_filter.1 ht).2
    rw [TlbEntry.covers]
    by_cases hc : t.ctx = c <;> simp_all [TlbEntry.covers]
  · rintro rfl f hf ⟨rfl, rfl⟩
    have hkept := (List.mem_filter.1 hf).2
    simp at hkept

/-! ## Moving a page and a table (R427–R431) -/

/-- What a page migration needs of its context (R427). -/
def mayMove (s : State) (c p : Nat) : Prop :=
  Tab.has s.contexts c = true ∧ (s.context c).duty.testBit 2 = false ∧ placementOk p = true

theorem mayMove.allowed {s : State} {c p : Nat} (h : mayMove s c p) :
    (Tab.has s.contexts c && !(s.context c).duty.testBit 2 && placementOk p) = true := by
  obtain ⟨hhas, hduty, hplace⟩ := h
  simp [hhas, hduty, hplace]

section
variable {s : State} {c va p lvl : Nat}

theorem exec_movePage_begins (hmove : s.moveOf c (va / 2 ^ 16 * 2 ^ 16) = none) (hmay : mayMove s c p) (hin : va < 2 ^ 52)
    (hwait : s.moveWaits c (va / 2 ^ 16 * 2 ^ 16) = false) :
    exec (.pageMigration c (.page va) p) s = .next (s.migrate c (va / 2 ^ 16 * 2 ^ 16) p false).1 := by
  show execPageMigration c (.page va) p s = _
  have hgoes : ¬ ((!(Tab.has s.contexts c && !(s.context c).duty.testBit 2 && placementOk p) ||
      decide (Config.addrLimit ≤ va) || s.moveWaits c (va / 2 ^ 16 * 2 ^ 16)) = true) := by
    rw [hmay.allowed, hwait, decide_eq_false (show ¬ Config.addrLimit ≤ va from Nat.not_le.2 hin)]
    decide
  simp only [execPageMigration, hmove]
  rw [if_neg hgoes]

theorem exec_movePage_moving {m : PageMove} (hmove : s.moveOf c (va / 2 ^ 16 * 2 ^ 16) = some m) :
    exec (.pageMigration c (.page va) p) s = .next (if s.partIn (leafFrameNo m.leaf) then s else s.endMove m) := by
  show execPageMigration c (.page va) p s = _
  simp only [execPageMigration, hmove]

theorem exec_moveTable_moves {n : Option Nat × Nat} {f : Frame} (hlo : 1 ≤ lvl) (hhi : lvl ≤ 3) (hmay : mayMove s c p)
    (hin : va < 2 ^ 52) (hname : s.tableName c va lvl = some n) (hpart : s.partIn (tableAddr n.2 / 2 ^ 16) = false)
    (hframe : s.frameAt c p (leafDie n.2) = some f) :
    exec (.pageMigration c (.table va lvl) p) s = .next (s.moveTable c va lvl f) := by
  show execPageMigration c (.table va lvl) p s = _
  have hgoes : ¬ ((!(Tab.has s.contexts c && !(s.context c).duty.testBit 2 && placementOk p) ||
      decide (Config.addrLimit ≤ va) || decide (lvl = 0) || decide (3 < lvl)) = true) := by
    rw [hmay.allowed, decide_eq_false (show ¬ Config.addrLimit ≤ va from Nat.not_le.2 hin),
      decide_eq_false (show ¬ lvl = 0 by omega), decide_eq_false (show ¬ 3 < lvl by omega)]
    decide
  simp only [execPageMigration]
  rw [if_neg hgoes, hname]
  simp only [hpart, hframe]
  rfl

theorem exec_moveTable_waits {n : Option Nat × Nat} (hname : s.tableName c va lvl = some n)
    (hpart : s.partIn (tableAddr n.2 / 2 ^ 16) = true) : exec (.pageMigration c (.table va lvl) p) s = .next s := by
  show execPageMigration c (.table va lvl) p s = _
  simp only [execPageMigration]
  split
  · rfl
  · rw [hname]
    simp only [hpart, if_true]

end

@[simp] theorem moved_setLeaf (s : State) (c va e : Nat) : (s.setLeaf c va e).moved = s.moved := by
  rw [State.setLeaf]; split <;> rfl
@[simp] theorem moves_setLeaf (s : State) (c va e : Nat) : (s.setLeaf c va e).moves = s.moves := by
  rw [State.setLeaf]; split <;> rfl

theorem beginMove_notes (s : State) (c va e : Nat) (f : Frame) :
    (s.beginMove c va e f).moved = (c, va / 2 ^ 16, leafFrameNo e) :: s.moved ∧
      (s.beginMove c va e f).moves = s.moves ++ [⟨c, va, e, f⟩] :=
  ⟨congrArg (List.cons _) (moved_setLeaf (s.setUse c (Frame.no f) .page) c va _),
    congrArg (· ++ _) (moves_setLeaf (s.setUse c (Frame.no f) .page) c va _)⟩

theorem dropBlock_farLines (s : State) (c va : Nat) :
    ∀ l ∈ (s.dropBlock c va).farLines, ¬ (l.ctx = c ∧ l.va / 2 ^ 28 = va / 2 ^ 28) := by
  intro l hl
  have hkept := (List.mem_filter.1 hl).2
  simpa [or_iff_not_imp_left] using hkept

/-- A block that is split leaves no far line of it (R429). -/
theorem splinter_dropBlock {s t : State} {c va die tier a e : Nat} {any : Bool}
    (hlevel : s.level2 c va = some (die, tier, a, e)) (htype : entryType e = 2) (h : s.splinter c va any = some t) :
    ∃ u : State, t = u.dropBlock c va := by
  rw [State.splinter, hlevel] at h
  simp only [if_neg (not_not_intro htype)] at h
  split at h
  · contradiction
  · exact ⟨_, (Option.some.inj h).symm⟩

theorem migrate_refused {s : State} {c va p e : Nat} (asked : Bool) (hwalk : s.walk c va = .leaf e)
    (he : leafHs e = true ∨ leafLost e = true ∨ leafChip e ≠ s.chip) : s.migrate c va p asked = (s, 1) := by
  have hstays : (decide (leafChip e ≠ s.chip) || leafHs e || leafLost e || s.inWindow c va || (asked && s.pageInCode c va))
      = true := by
    simp only [Bool.or_eq_true, decide_eq_true_eq]
    tauto
  rw [State.migrate, hwalk]
  exact if_pos hstays

/-! ## The bytes that a move carries (R430) -/

/-- Cells carried from a to b, onto a byte of b that holds zero: what they list there. -/
theorem cellAt_carried {a b i : Nat} {m : List Host.Cell} (hzero : cellAt m (b + i) = 0#8) :
    ∀ l : List Host.Cell, (∀ k ∈ l, a ≤ k.1) →
      cellAt (l.foldr (fun k m => cellPut m (k.1 - a + b) k.2) m) (b + i) = cellAt l (a + i)
  | [], _ => hzero
  | k :: l, hl => by
    obtain ⟨hk, hl⟩ := List.forall_mem_cons.1 hl
    have hsame : k.1 - a + b = b + i ↔ k.1 = a + i := by omega
    rw [List.foldr_cons, cellAt_cellPut, cellAt_carried hzero l hl, cellAt]
    simp only [hsame]

theorem cellAt_carried_outside {a b j : Nat} {m : List Host.Cell} :
    ∀ l : List Host.Cell, (∀ k ∈ l, k.1 - a + b ≠ j) →
      cellAt (l.foldr (fun k m => cellPut m (k.1 - a + b) k.2) m) j = cellAt m j
  | [], _ => rfl
  | k :: l, hl => by
    obtain ⟨hk, hl⟩ := List.forall_mem_cons.1 hl
    rw [List.foldr_cons, cellAt_cellPut, if_neg hk, cellAt_carried_outside l hl]

section
variable (s : State) (a b n : Nat)

/-- The cells of main memory in the n bytes at a. -/
def State.cellsIn : List Host.Cell := s.mem.filter (fun k => decide (a ≤ k.1) && decide (k.1 < a + n))

theorem mem_cellsIn {k : Host.Cell} (h : k ∈ s.cellsIn a n) : a ≤ k.1 ∧ k.1 < a + n := by
  simpa using (List.mem_filter.1 h).2

theorem copyRange_mem : (s.copyRange a b n).mem =
    (s.cellsIn a n).foldr (fun k m => cellPut m (k.1 - a + b) k.2) (s.zeroRange b n).mem := rfl

/-- A copied range holds at its new place what it held at its old one. -/
theorem memRead_copyRange_inside {i : Nat} (hi : i < n) : (s.copyRange a b n).memRead (b + i) 1 = s.memRead (a + i) 1 := by
  have hzero : cellAt (s.zeroRange b n).mem (b + i) = 0#8 := by
    have h := memRead_zeroRange s b n (b + i)
    rw [memRead_one, if_pos (by omega)] at h
    exact List.singleton_inj.1 h
  have hold : cellAt (s.cellsIn a n) (a + i) = cellAt s.mem (a + i) := by
    rw [State.cellsIn, cellAt_filter s.mem (fun k => decide (a ≤ k) && decide (k < a + n)), if_pos (by simp; omega)]
  rw [memRead_one, memRead_one, copyRange_mem, cellAt_carried hzero _ (fun k hk => (mem_cellsIn s a n hk).1), hold]

theorem memRead_copyRange_outside {k : Nat} (hk : k < b ∨ b + n ≤ k) : (s.copyRange a b n).memRead k 1 = s.memRead k 1 := by
  have hkept : cellAt (s.zeroRange b n).mem k = cellAt s.mem k := by
    have h := memRead_zeroRange s b n k
    rw [memRead_one, memRead_one, if_neg (by omega)] at h
    exact List.singleton_inj.1 h
  rw [memRead_one, memRead_one, copyRange_mem, cellAt_carried_outside _ (fun c hc => ?_), hkept]
  have hin := mem_cellsIn s a n hc
  omega

end

/-- Settles O45. -/
theorem paging : Obligations.Paging :=
  ⟨walks, pageChecks,
    fun r => ⟨pgmap_idle r, pgprot_idle r, tlbinvPg_idle r, cinv_idle r⟩,
    fun h => ⟨tlbinvCtx_idle h, cinvCtx_idle h⟩,
    pgmap_maps, pgmap_traps, pgprot_protects, pgprot_waits, tlbinvPg_drops, tlbinvCtx_drops, cinv_drops, cinv_traps,
    cinvCtx_drops,
    fun s c va p here _ hwalk => mapPage_mapped s c va p here hwalk,
    fun s c va p here _ hwalk hframe => mapPage_full s c va p here hwalk hframe,
    fun s c va p here _ hwalk => mapPage_unmapped s c va p here hwalk,
    invalidate_drops,
    fun _ _ _ _ hmove hhas hduty hplace hin hwait => exec_movePage_begins hmove ⟨hhas, hduty, hplace⟩ hin hwait,
    fun _ _ _ _ _ hmove hpart => (exec_movePage_moving hmove).trans (by rw [if_neg (ne_true_of_eq_false hpart)]),
    fun _ _ _ _ _ hmove hpart => (exec_movePage_moving hmove).trans (by rw [if_pos hpart]),
    fun _ _ _ _ _ at_ e _ hlo hhi hhas hduty hplace hin hname hpart hframe =>
      exec_moveTable_moves (n := (at_, e)) hlo hhi ⟨hhas, hduty, hplace⟩ hin hname hpart hframe,
    fun _ _ _ _ _ at_ e hname hpart => exec_moveTable_waits (n := (at_, e)) hname hpart,
    beginMove_notes,
    fun _ _ c va _ _ _ _ _ hlevel htype h => by
      obtain ⟨u, rfl⟩ := splinter_dropBlock hlevel htype h
      exact dropBlock_farLines u c va,
    fun _ _ _ _ asked _ hwalk he => migrate_refused asked hwalk he,
    fun s a b n _ hi => memRead_copyRange_inside s a b n hi,
    fun s a b n _ hk => memRead_copyRange_outside s a b n hk,
    memRead_zeroRange⟩

end Sys2Proof.Machine

namespace Sys2Proof.Machine
/-! # The device key signs what it is shown to verify (R462, R465, R466): LM-OTS, LMS and HSS in the form of RFC 8554 -/

/-! ## Byte strings -/

@[simp] theorem length_be (n v : Nat) : (be n v).length = n := by rw [be, List.length_reverse, length_bytesOf]

theorem ofBytes_bytesOf : ∀ {n v : Nat}, v < 256 ^ n → ofBytes (bytesOf n v) = v
  | 0, v, h => by rw [Nat.lt_one_iff.1 h]; rfl
  | n + 1, v, h => by
    have hdiv : v / 256 < 256 ^ n := Nat.div_lt_of_lt_mul (by rwa [Nat.pow_succ, Nat.mul_comm] at h)
    rw [bytesOf, ofBytes, ofBytes_bytesOf hdiv, BitVec.toNat_ofNat]
    exact Nat.mod_add_div v 256

theorem ofBe_be {n v : Nat} (h : v < 256 ^ n) : ofBe (be n v) = v := by
  rw [ofBe, be, List.reverse_reverse, ofBytes_bytesOf h]

/-- What a string holds behind n bytes. -/
theorem slice_eq {l a b c : List Byte} {n k : Nat} (h : l = a ++ (b ++ c)) (ha : a.length = n) (hb : b.length = k) :
    (l.drop n).take k = b := by
  rw [h, List.drop_left' ha, List.take_left' hb]

section
variable {f : Nat → List Byte} {w : Nat} (hw : ∀ i, (f i).length = w)
include hw

theorem length_flatMap_range (n : Nat) : ((List.range n).flatMap f).length = w * n := by
  induction n with
  | zero => simp
  | succ n ih =>
    rw [List.range_succ, List.flatMap_append, List.length_append, ih, List.flatMap_singleton, hw, Nat.mul_succ]

/-- Piece i of a string of pieces of one length. -/
theorem piece_flatMap_range {n i : Nat} (hi : i < n) : (((List.range n).flatMap f).drop (w * i)).take w = f i := by
  obtain ⟨k, rfl⟩ : ∃ k, n = i + (k + 1) := ⟨n - i - 1, by omega⟩
  refine slice_eq (c := ((List.range k).map Nat.succ).flatMap (fun j => f (i + j))) ?_ (length_flatMap_range hw i) (hw i)
  rw [List.range_add, List.flatMap_append, List.range_succ_eq_map, List.map_cons, List.flatMap_cons, List.flatMap_map]
  rfl

end

@[simp] theorem Sha.length_bytes (s : Sha) : s.bytes.length = 32 := by simp [Sha.bytes]

@[simp] theorem length_shaBytes (m : List Byte) : (shaBytes m).length = 32 := Sha.length_bytes _

/-! ## Chains (RFC 8554, 4.3) -/

section
variable (pre : List Byte) (i : Nat)

theorem chain_zero (a : Nat) (x : List Byte) : chain pre i a 0 x = x := rfl

theorem chain_succ (a n : Nat) (x : List Byte) :
    chain pre i a (n + 1) x = shaBytes (pre ++ be 2 i ++ be 1 (a + n) ++ chain pre i a n x) := by
  rw [chain, List.range_succ, List.foldl_append]
  rfl

theorem length_chain (a n : Nat) {x : List Byte} (hx : x.length = 32) : (chain pre i a n x).length = 32 := by
  cases n with
  | zero => exact hx
  | succ n => rw [chain_succ, length_shaBytes]

/-- A chain that goes on where another stopped. -/
theorem chain_chain (a n : Nat) (x : List Byte) : chain pre i a n (chain pre i 0 a x) = chain pre i 0 (a + n) x := by
  induction n with
  | zero => rw [chain_zero, Nat.add_zero]
  | succ n ih => rw [chain_succ, ih, ← Nat.add_assoc, chain_succ, Nat.zero_add]

end

/-- A digit of eight bits. -/
theorem coef_le (b : List Byte) (i : Nat) : coef b i 8 ≤ 255 := Nat.le_of_lt_succ (Nat.mod_lt _ (by decide))

/-- The one-time key that a signature gives: that of the chains' ends. -/
theorem otsKey_of_chains {pre c m : List Byte} {x : Nat → List Byte} (hx : ∀ i, (x i).length = 32) :
    let h := shaBytes (pre ++ be 2 0x8181 ++ c ++ m)
    let digits := h ++ be 2 (checksum h 8 0)
    otsKey pre (8, 34, 0) c ((List.range 34).flatMap (fun i => chain pre i 0 (coef digits i 8) (x i))) m =
      shaBytes (pre ++ be 2 0x8080 ++ (List.range 34).flatMap (fun i => chain pre i 0 255 (x i))) := by
  intro h digits
  have hends : ∀ i ∈ List.range 34, chain pre i (coef digits i 8) (2 ^ 8 - 1 - coef digits i 8)
      ((((List.range 34).flatMap (fun i => chain pre i 0 (coef digits i 8) (x i))).drop (32 * i)).take 32) =
        chain pre i 0 255 (x i) := by
    intro i hi
    have hle := coef_le digits i
    rw [piece_flatMap_range (f := fun i => chain pre i 0 (coef digits i 8) (x i))
      (fun i => length_chain pre i 0 _ (hx i)) (List.mem_range.1 hi), chain_chain]
    congr 1
    omega
  rw [otsKey]
  exact congrArg (fun z => shaBytes (pre ++ be 2 0x8080 ++ z)) (flatMap_congr_of hends)

/-! ## The path to the root (RFC 8554, 5.4) -/

section
variable {ident : List Byte} {N : Nat → Nat → List Byte}
  (hN : ∀ h r, N (h + 1) r = shaBytes (ident ++ be 4 r ++ be 2 0x8383 ++ N h (2 * r) ++ N h (2 * r + 1)))
include hN

/-- A node and its sibling give the node above them. -/
theorem node_above (h r : Nat) : shaBytes (ident ++ be 4 (r / 2) ++ be 2 0x8383 ++
    (if r % 2 = 1 then N h (r ^^^ 1) ++ N h r else N h r ++ N h (r ^^^ 1))) = N (h + 1) (r / 2) := by
  rw [hN]
  obtain hr | hr := Nat.mod_two_eq_zero_or_one r
  · have hself : 2 * (r / 2) = r := by omega
    rw [if_neg (by omega), Nat.xor_one_of_even (Nat.even_iff.2 hr), hself, List.append_assoc _ (N h r)]
  · have hself : 2 * (r / 2) = r - 1 := by omega
    have hsucc : r - 1 + 1 = r := by omega
    rw [if_pos hr, Nat.xor_one_of_odd (Nat.odd_iff.2 hr), hself, hsucc, List.append_assoc _ (N h (r - 1))]

/-- The siblings of a node's path lead from it to the node h levels above. -/
theorem lmsRoot_path (h : Nat) : ∀ d r : Nat,
    lmsRoot ident r (N d r) ((List.range h).map (fun e => N (d + e) ((r / 2 ^ e) ^^^ 1))) = N (d + h) (r / 2 ^ h) := by
  induction h with
  | zero => intro d r; simp [lmsRoot]
  | succ h ih =>
    intro d r
    have hrest : (List.range h).map (fun e => N (d + (e + 1)) ((r / 2 ^ (e + 1)) ^^^ 1)) =
        (List.range h).map (fun e => N (d + 1 + e) ((r / 2 / 2 ^ e) ^^^ 1)) :=
      List.map_congr_left (fun e _ => by rw [Nat.add_comm e 1, ← Nat.add_assoc, Nat.pow_add, Nat.pow_one, Nat.div_div_eq_div_mul])
    rw [List.range_succ_eq_map, List.map_cons, List.map_map, lmsRoot, Nat.pow_zero, Nat.div_one, Nat.add_zero,
      node_above hN]
    show lmsRoot ident (r / 2) (N (d + 1) (r / 2)) ((List.range h).map (fun e => N (d + (e + 1)) ((r / 2 ^ (e + 1)) ^^^ 1))) = _
    rw [hrest, ih, Nat.div_div_eq_div_mul, Nat.add_assoc, Nat.add_comm 1 h, Nat.pow_succ, Nat.mul_comm 2]

end

/-! ## LMS: one tree of height 20 with digits of eight bits -/

/-- The bytes of a public key. -/
def lmsKey (ident root : List Byte) : List Byte := be 4 8 ++ be 4 4 ++ ident ++ root
/-- The bytes of a signature. -/
def lmsSig (q : Nat) (c y path : List Byte) : List Byte := be 4 q ++ be 4 4 ++ c ++ y ++ be 4 8 ++ path

section
variable {q : Nat} {ident root c y path rest m : List Byte}

theorem length_lmsKey (hid : ident.length = 16) (hroot : root.length = 32) : (lmsKey ident root).length = 56 := by
  simp [lmsKey, hid, hroot]

theorem length_lmsSig (hc : c.length = 32) (hy : y.length = 1088) (hp : path.length = 640) :
    (lmsSig q c y path).length = 1772 := by
  simp [lmsSig, hc, hy, hp]

theorem lmsKey_fields (hid : ident.length = 16) :
    (lmsKey ident root).take 4 = be 4 8 ∧ ((lmsKey ident root).drop 4).take 4 = be 4 4 ∧
      ((lmsKey ident root).drop 8).take 16 = ident ∧ (lmsKey ident root).drop 24 = root := by
  refine ⟨?_, slice_eq (a := be 4 8) (c := ident ++ root) ?_ (length_be ..) (length_be ..),
    slice_eq (a := be 4 8 ++ be 4 4) (c := root) ?_ ?_ hid, ?_⟩
  · rw [lmsKey, List.append_assoc, List.append_assoc, List.take_left' (length_be ..)]
  · simp only [lmsKey, List.append_assoc]
  · simp only [lmsKey, List.append_assoc]
  · simp
  · exact List.drop_left' (by simp [hid])

theorem lmsSig_fields (hc : c.length = 32) (hy : y.length = 1088) (hp : path.length = 640) :
    (lmsSig q c y path ++ rest).take 4 = be 4 q ∧ ((lmsSig q c y path ++ rest).drop 4).take 4 = be 4 4 ∧
      ((lmsSig q c y path ++ rest).drop 8).take 32 = c ∧ ((lmsSig q c y path ++ rest).drop 40).take 1088 = y ∧
      ((lmsSig q c y path ++ rest).drop 1128).take 4 = be 4 8 ∧ ((lmsSig q c y path ++ rest).drop 1132).take 640 = path ∧
      (lmsSig q c y path ++ rest).drop 1772 = rest := by
  refine ⟨slice_eq (a := []) (n := 0) (c := be 4 4 ++ c ++ y ++ be 4 8 ++ path ++ rest) ?_ rfl (length_be ..),
    slice_eq (a := be 4 q) (c := c ++ y ++ be 4 8 ++ path ++ rest) ?_ (length_be ..) (length_be ..),
    slice_eq (a := be 4 q ++ be 4 4) (c := y ++ be 4 8 ++ path ++ rest) ?_ ?_ hc,
    slice_eq (a := be 4 q ++ be 4 4 ++ c) (c := be 4 8 ++ path ++ rest) ?_ ?_ hy,
    slice_eq (a := be 4 q ++ be 4 4 ++ c ++ y) (c := path ++ rest) ?_ ?_ (length_be ..),
    slice_eq (a := be 4 q ++ be 4 4 ++ c ++ y ++ be 4 8) (c := rest) ?_ ?_ hp, List.drop_left' (length_lmsSig hc hy hp)⟩
  all_goals simp [lmsSig, hc, hy]

/-- A signature verifies where its path leads from its leaf to the root. -/
theorem lmsVerify_lmsSig (hid : ident.length = 16) (hroot : root.length = 32) (hq : q < 2 ^ 20) (hc : c.length = 32)
    (hy : y.length = 1088) (hp : path.length = 640)
    (hleads : lmsRoot ident (2 ^ 20 + q)
      (shaBytes (ident ++ be 4 (2 ^ 20 + q) ++ be 2 0x8282 ++ otsKey (ident ++ be 4 q) (8, 34, 0) c y m))
      ((List.range 20).map (fun i => (path.drop (32 * i)).take 32)) = root) :
    lmsVerify (lmsKey ident root) (lmsSig q c y path ++ rest) m = some rest := by
  obtain ⟨ktype, kots, kident, kroot⟩ := lmsKey_fields (root := root) hid
  obtain ⟨sq, sots, sc, sy, stype, spath, srest⟩ := lmsSig_fields (q := q) (rest := rest) hc hy hp
  have hq4 : ofBe (be 4 q) = q := ofBe_be (by omega)
  have hheight : lmsHeight (ofBe (be 4 8)) = some 20 := by rw [ofBe_be (by decide)]; rfl
  have hots : otsParams (ofBe (be 4 4)) = some (8, 34, 0) := by rw [ofBe_be (by decide)]; rfl
  have hlen : (lmsKey ident root).length = 56 := length_lmsKey hid hroot
  have hsig : (lmsSig q c y path).length = 1772 := length_lmsSig hc hy hp
  have hleaf : ¬ 2 ^ 20 ≤ q := Nat.not_le.2 hq
  rw [lmsVerify]
  simp only [ktype, kots, kident, kroot, hheight, hots, sq, hq4]
  rw [if_neg (by simpa [hlen, lmsKeyBytes, hsig, sots, stype] using hleaf), sc, sy, spath, srest]
  exact if_pos hleads

end

/-! ## The trees of the device key -/

section
variable (tree : Nat)

/-- The identifier of a tree, and the secret and the randomizer of a leaf, as bytes. -/
def identOf : List Byte := beBits (Config.deviceIdent tree)
def secretOf (q i : Nat) : List Byte := beBits (Config.deviceSecret tree q i)
def randomOf (q : Nat) : List Byte := beBits (Config.deviceRandom tree q)

@[simp] theorem length_identOf : (identOf tree).length = 16 := length_be ..
@[simp] theorem length_secretOf (q i : Nat) : (secretOf tree q i).length = 32 := length_be ..
@[simp] theorem length_randomOf (q : Nat) : (randomOf tree q).length = 32 := length_be ..

theorem deviceNode_leaf (r : Nat) : deviceNode tree 0 r =
    shaBytes (identOf tree ++ be 4 r ++ be 2 0x8282 ++ deviceOtsKey tree (r - 2 ^ deviceHeight)) := rfl

theorem deviceNode_above (h r : Nat) : deviceNode tree (h + 1) r =
    shaBytes (identOf tree ++ be 4 r ++ be 2 0x8383 ++ deviceNode tree h (2 * r) ++ deviceNode tree h (2 * r + 1)) := rfl

@[simp] theorem length_deviceNode (h r : Nat) : (deviceNode tree h r).length = 32 := by
  cases h with
  | zero => rw [deviceNode_leaf, length_shaBytes]
  | succ h => rw [deviceNode_above, length_shaBytes]

/-- The chains of a signature, up to the digits of what it signs. -/
def chainsOf (q : Nat) (m : List Byte) : List Byte :=
  let pre := identOf tree ++ be 4 q
  let h := shaBytes (pre ++ be 2 0x8181 ++ randomOf tree q ++ m)
  (List.range 34).flatMap (fun i => chain pre i 0 (coef (h ++ be 2 (checksum h 8 0)) i 8) (secretOf tree q i))

/-- The siblings of the nodes between a leaf and the root. -/
def pathOf (q : Nat) : List Byte :=
  (List.range deviceHeight).flatMap (fun d => deviceNode tree d (((2 ^ deviceHeight + q) / 2 ^ d) ^^^ 1))

theorem devicePublic_eq : devicePublic tree = lmsKey (identOf tree) (deviceNode tree deviceHeight 1) := rfl

theorem deviceLms_eq (q : Nat) (m : List Byte) :
    deviceLms tree q m = lmsSig q (randomOf tree q) (chainsOf tree q m) (pathOf tree q) := rfl

theorem length_chainsOf (q : Nat) (m : List Byte) : (chainsOf tree q m).length = 1088 :=
  length_flatMap_range (fun i => length_chain _ i 0 _ (length_secretOf tree q i)) 34

theorem length_pathOf (q : Nat) : (pathOf tree q).length = 640 := length_flatMap_range (fun _ => length_deviceNode tree _ _) 20

theorem otsKey_chainsOf (q : Nat) (m : List Byte) :
    otsKey (identOf tree ++ be 4 q) (8, 34, 0) (randomOf tree q) (chainsOf tree q m) m = deviceOtsKey tree q :=
  otsKey_of_chains (length_secretOf tree q)

theorem pieces_pathOf (q : Nat) : (List.range deviceHeight).map (fun i => ((pathOf tree q).drop (32 * i)).take 32) =
    (List.range deviceHeight).map (fun i => deviceNode tree (0 + i) (((2 ^ deviceHeight + q) / 2 ^ i) ^^^ 1)) :=
  List.map_congr_left (fun i hi => by
    rw [pathOf, piece_flatMap_range (fun _ => length_deviceNode tree _ _) (List.mem_range.1 hi), Nat.zero_add])

/-- The path of a leaf leads to the root. -/
theorem lmsRoot_pathOf {q : Nat} (hq : q < 2 ^ deviceHeight) :
    lmsRoot (identOf tree) (2 ^ deviceHeight + q) (deviceNode tree 0 (2 ^ deviceHeight + q))
      ((List.range deviceHeight).map (fun i => ((pathOf tree q).drop (32 * i)).take 32)) = deviceNode tree deviceHeight 1 := by
  have htop : (2 ^ deviceHeight + q) / 2 ^ deviceHeight = 1 := by
    rw [Nat.add_div_left _ (Nat.two_pow_pos _), Nat.div_eq_of_lt hq]
  rw [pieces_pathOf, lmsRoot_path (deviceNode_above tree) deviceHeight 0, htop, Nat.zero_add]

/-- A tree's signature verifies under its public key. -/
theorem lmsVerify_deviceLms {q : Nat} (hq : q < 2 ^ 20) (m rest : List Byte) :
    lmsVerify (devicePublic tree) (deviceLms tree q m ++ rest) m = some rest := by
  have hleaf : 2 ^ deviceHeight + q - 2 ^ deviceHeight = q := Nat.add_sub_cancel_left ..
  have hleads := lmsRoot_pathOf tree (q := q) hq
  rw [deviceNode_leaf, hleaf, ← otsKey_chainsOf tree q m] at hleads
  rw [devicePublic_eq, deviceLms_eq]
  exact lmsVerify_lmsSig (length_identOf tree) (length_deviceNode tree _ _) hq (length_randomOf tree q) (length_chainsOf tree q m)
    (length_pathOf tree q) hleads

theorem length_devicePublic : (devicePublic tree).length = 56 :=
  length_lmsKey (length_identOf tree) (length_deviceNode tree _ _)

theorem length_deviceLms (q : Nat) (m : List Byte) : (deviceLms tree q m).length = 1772 :=
  length_lmsSig (length_randomOf tree q) (length_chainsOf tree q m) (length_pathOf tree q)

theorem devicePublic_types : (devicePublic tree).take 4 = be 4 8 ∧ ((devicePublic tree).drop 4).take 4 = be 4 4 := by
  obtain ⟨htype, hots, _⟩ := lmsKey_fields (root := deviceNode tree deviceHeight 1) (length_identOf tree)
  exact ⟨htype, hots⟩

end

/-! ## The two levels of the device key (RFC 8554, 6) -/

/-- Two signatures, the first of them of the second one's key, make one of two levels. -/
theorem hssVerify_two {top next a b m : List Byte} (htype : top.take 4 = be 4 8) (hots : (top.drop 4).take 4 = be 4 4)
    (ha : a.length = 1772) (hnext : next.length = 56) (htop : ∀ rest, lmsVerify top (a ++ rest) next = some rest)
    (hlow : lmsVerify next b m = some []) : hssVerify (be 4 2 ++ top) (be 4 1 ++ (a ++ (next ++ b))) m = true := by
  have hone : ofBe (be 4 1) = 1 := ofBe_be (by decide)
  have htwo : ofBe (be 4 2) = 2 := ofBe_be (by decide)
  have hheight : lmsHeight (ofBe (be 4 8)) = some 20 := by rw [ofBe_be (by decide)]; rfl
  have hchains : otsParams (ofBe (be 4 4)) = some (8, 34, 0) := by rw [ofBe_be (by decide)]; rfl
  have hkey : ((a ++ (next ++ b)).drop 1772).take 56 = next := slice_eq rfl ha hnext
  have hrest : (next ++ b).drop 56 = b := List.drop_left' hnext
  rw [hssVerify]
  simp only [List.take_left' (length_be 4 _), List.drop_left' (length_be 4 _), hone, htwo, htype, hots, hheight, hchains]
  rw [if_neg (by simp), if_neg (by decide), if_pos trivial]
  simp only [Option.map_some, Option.getD_some, lmsKeyBytes, Nat.reduceMul, Nat.reduceAdd, hkey, htop, hrest, hlow]
  rfl

/-- A signature of the device verifies under the device key. -/
theorem hssVerify_deviceSign {index : Nat} (h : BitVec 256) (hindex : index < 2 ^ 40) :
    hssVerify (be 4 2 ++ devicePublic 0) (deviceSign index h) (be 32 h.toNat) = true := by
  have hj : index / 2 ^ deviceHeight < 2 ^ 20 := Nat.div_lt_of_lt_mul (by rw [← Nat.pow_add]; exact hindex)
  have hq : index % 2 ^ deviceHeight < 2 ^ 20 := Nat.mod_lt _ (Nat.two_pow_pos _)
  obtain ⟨htype, hots⟩ := devicePublic_types 0
  have hlow := lmsVerify_deviceLms (1 + index / 2 ^ deviceHeight) hq (be 32 h.toNat) []
  rw [List.append_nil] at hlow
  rw [deviceSign, List.append_assoc, List.append_assoc]
  exact hssVerify_two htype hots (length_deviceLms ..) (length_devicePublic _) (lmsVerify_deviceLms 0 hj _) hlow

end Sys2Proof.Machine

namespace Sys2Proof.Machine
/-! # Management of the package (R455, R456, R462–R470, R481–R488) -/

/-! ## Attestation (R465, R466, R481) -/

section
variable {s : State} {m : HostMsg}

theorem exec_attestationReport_signs (hs : s.canServe m 0x0070) (hm : m.shaped 40 [(0, 32), (0x20, 4)] = true)
    (hindex : s.hssIndex < 2 ^ 40) (hctx : m.field 0x20 4 = 0xFFFFFFFF ∨ Tab.has s.contexts (m.field 0x20 4) = true) :
    exec (.attestationReport m) s =
      (let b := s.report (m.field 0x20 4) (m.body.take 32)
       let sig := deviceSign s.hssIndex (sha256 b)
       .next (({ s with hssIndex := s.hssIndex + 1 } : State).respond m 0 (b ++ bytesOf 4 sig.length ++ sig))) := by
  show execAttestationReport m s = _
  have hknown : ¬ ((decide (m.field 0x20 4 ≠ 0xFFFFFFFF) && !Tab.has s.contexts (m.field 0x20 4)) = true) := by
    rintro h
    obtain hall | hhas := hctx <;> simp_all
  exact serve_does hs hm (fun h => nomatch h)
    ((if_neg (show ¬ Config.hssIndices ≤ s.hssIndex from Nat.not_le.2 hindex)).trans (if_neg hknown))

theorem exec_attestationReport_spent (hs : s.canServe m 0x0070) (hm : m.shaped 40 [(0, 32), (0x20, 4)] = true)
    (hindex : 2 ^ 40 ≤ s.hssIndex) : exec (.attestationReport m) s = .next (s.respond m 1 []) := by
  show execAttestationReport m s = _
  exact serve_does hs hm (fun h => nomatch h) (if_pos (show Config.hssIndices ≤ s.hssIndex from hindex))

end

theorem length_hashBytes (h : BitVec 256) : (hashBytes h).length = 32 := by rw [hashBytes, List.length_reverse, length_bytesOf]

/-- A report begins with the hash of the device key. -/
theorem take_report (s : State) (c : Nat) (nonce : List Byte) :
    (s.report c nonce).take 32 = hashBytes (sha256 (be 4 2 ++ devicePublic 0)) := by
  simp only [State.report, State.identity, List.append_assoc, deviceKeyHash]
  exact List.take_left' (length_hashBytes _)

/-! ## Signed commands (R462–R468, R481) -/

section
variable {s t : State} {m : HostMsg}

/-- The request is a signed command, by its form. -/
def signedForm (s : State) (m : HostMsg) : Prop := s.canServe m 0x0080 ∧
  m.shaped (16 + m.field 8 4) [(0, 4), (4, 4), (8, 4), (16, m.field 8 4)] = true ∧ m.field 0 4 ≤ 2

/-- Its signature verifies. -/
def signatureOk (s : State) (m : HostMsg) : Bool := s.codeSigned (sha256 (m.body.take 8 ++ s.identity)) (m.body.drop 16)

section
variable {lo hi : Nat} {f : State → Nat → Option State} (h : signedForm s m) (hlo : lo ≤ m.field 4 4) (hhi : m.field 4 4 ≤ hi)
include h hlo hhi

theorem command_does (ht : (if !signatureOk s m then some (s.respond m 1 [])
    else if s.lifeCycle == .decommissioned then some (s.respond m 2 []) else f s (m.field 4 4)) = some t) :
    s.command m true lo hi f = .next t := by
  obtain ⟨hs, hm, hop⟩ := h
  rw [State.command, if_neg (by decide)]
  exact serve_does hs (by simp [hm, hop, hlo, hhi]) (fun h => nomatch h) ht

theorem command_unsigned (hsig : signatureOk s m = false) : s.command m true lo hi f = .next (s.respond m 1 []) :=
  command_does h hlo hhi (if_pos (by rw [hsig]; rfl))

theorem command_decommissioned (hsig : signatureOk s m = true) (hlife : s.lifeCycle = .decommissioned) :
    s.command m true lo hi f = .next (s.respond m 2 []) :=
  command_does h hlo hhi ((if_neg (by rw [hsig]; decide)).trans (if_pos (beq_iff_eq.2 hlife)))

theorem command_performed (hsig : signatureOk s m = true) (hlife : s.lifeCycle ≠ .decommissioned)
    (hf : f s (m.field 4 4) = some t) : s.command m true lo hi f = .next t :=
  command_does h hlo hhi ((if_neg (by rw [hsig]; decide)).trans ((if_neg (fun he => hlife (beq_iff_eq.1 he))).trans hf))

end

/-- What FUSE_COUNTER_ADVANCE does with a value. -/
def fuseAdvanced (m : HostMsg) (s : State) (v : Nat) : Option State :=
  if v ≤ s.fuse then some (s.respond m 2 [])
  else if Config.freeBit s.stamp (2 ^ 53) then some (s.respond m 3 [])
  else some ({ s with fuse := v }.respond m 0 [])

/-- What KEY_SLOT_REVOCATION does with a slot. -/
def slotRevoked (m : HostMsg) (s : State) (v : Nat) : Option State :=
  some ({ s with revoked := s.revoked ||| 2 ^ v }.respond m 0 [])

/-- What LIFE_CYCLE_CHANGE does with a state that it names, at first. -/
def lifeChanging (m : HostMsg) (s : State) (v : Nat) : Option State :=
  if !LifeCycle.moves s.lifeCycle (lifeOf v) then some (s.respond m 2 [])
  else some { (s.contexts.keys (fun _ _ => true)).foldl (fun s c => s.stopCtx c 0x0007) s with busy := some m }

theorem exec_fuseCounterAdvance (hop : m.field 0 4 = 0) :
    exec (.fuseCounterAdvance m) s = s.command m true 1 64 (fuseAdvanced m) := by
  show execFuseCounterAdvance m s = _
  rw [execFuseCounterAdvance, hop]
  rfl

theorem exec_keySlotRevocation (hop : m.field 0 4 = 1) :
    exec (.keySlotRevocation m) s = s.command m true 0 3 (slotRevoked m) := by
  show execKeySlotRevocation m s = _
  rw [execKeySlotRevocation, hop]
  rfl

theorem exec_lifeCycleChange (hop : m.field 0 4 = 2) (hbusy : s.busy ≠ some m) :
    exec (.lifeCycleChange m) s = s.command m true 0 3 (lifeChanging m) := by
  show execLifeCycleChange m s = _
  rw [execLifeCycleChange, if_neg (not_not_intro hop), if_neg hbusy]
  rfl

/-- One of the three signed commands, with a value in its range. -/
def isCommand (m : HostMsg) (i : Instr) : Prop :=
  (i = .fuseCounterAdvance m ∧ m.field 0 4 = 0 ∧ 1 ≤ m.field 4 4 ∧ m.field 4 4 ≤ 64) ∨
  (i = .keySlotRevocation m ∧ m.field 0 4 = 1 ∧ m.field 4 4 ≤ 3) ∨ (i = .lifeCycleChange m ∧ m.field 0 4 = 2 ∧ m.field 4 4 ≤ 3)

/-- Each of the three comes to its action, for a value in its range. -/
theorem exec_command {i : Instr} (hs : s.canServe m 0x0080) (hi : isCommand m i) : ∃ lo hi' f,
    lo ≤ m.field 4 4 ∧ m.field 4 4 ≤ hi' ∧ m.field 0 4 ≤ 2 ∧ exec i s = s.command m true lo hi' f := by
  obtain ⟨rfl, hop, hlo, hhi⟩ | ⟨rfl, hop, hhi⟩ | ⟨rfl, hop, hhi⟩ := hi
  · exact ⟨1, 64, _, hlo, hhi, by omega, exec_fuseCounterAdvance hop⟩
  · exact ⟨0, 3, _, Nat.zero_le _, hhi, by omega, exec_keySlotRevocation hop⟩
  · exact ⟨0, 3, _, Nat.zero_le _, hhi, by omega, exec_lifeCycleChange hop (canServe_not_busy hs)⟩

/-- A signed command whose signature verifies, outside DECOMMISSIONED. -/
def signedOk (s : State) (m : HostMsg) : Prop := s.canServe m 0x0080 ∧
  m.shaped (16 + m.field 8 4) [(0, 4), (4, 4), (8, 4), (16, m.field 8 4)] = true ∧ signatureOk s m = true ∧
  s.lifeCycle ≠ .decommissioned

theorem command_signed {lo hi : Nat} {f : State → Nat → Option State} (h : signedOk s m) (hop : m.field 0 4 ≤ 2)
    (hlo : lo ≤ m.field 4 4) (hhi : m.field 4 4 ≤ hi) (hf : f s (m.field 4 4) = some t) :
    s.command m true lo hi f = .next t := by
  obtain ⟨hs, hm, hsig, hlife⟩ := h
  exact command_performed ⟨hs, hm, hop⟩ hlo hhi hsig hlife hf

theorem exec_fuseCounterAdvance_spent (h : signedOk s m) (hop : m.field 0 4 = 0) (hlo : 1 ≤ m.field 4 4) (hhi : m.field 4 4 ≤ 64)
    (hspent : m.field 4 4 ≤ s.fuse) : exec (.fuseCounterAdvance m) s = .next (s.respond m 2 []) :=
  (exec_fuseCounterAdvance hop).trans (command_signed h (by omega) hlo hhi (if_pos hspent))

theorem exec_fuseCounterAdvance_blows (h : signedOk s m) (hop : m.field 0 4 = 0) (hlo : 1 ≤ m.field 4 4) (hhi : m.field 4 4 ≤ 64)
    (hmore : s.fuse < m.field 4 4) :
    exec (.fuseCounterAdvance m) s = .next (({ s with fuse := m.field 4 4 } : State).respond m 0 []) ∨
      exec (.fuseCounterAdvance m) s = .next (s.respond m 3 []) := by
  have hnot : ¬ m.field 4 4 ≤ s.fuse := Nat.not_le.2 hmore
  rw [exec_fuseCounterAdvance hop]
  by_cases hfails : Config.freeBit s.stamp (2 ^ 53) = true
  · exact .inr (command_signed h (by omega) hlo hhi ((if_neg hnot).trans (if_pos hfails)))
  · exact .inl (command_signed h (by omega) hlo hhi ((if_neg hnot).trans (if_neg hfails)))

theorem exec_keySlotRevocation_revokes (h : signedOk s m) (hop : m.field 0 4 = 1) (hhi : m.field 4 4 ≤ 3) :
    exec (.keySlotRevocation m) s = .next (({ s with revoked := s.revoked ||| 2 ^ m.field 4 4 } : State).respond m 0 []) :=
  (exec_keySlotRevocation hop).trans (command_signed h (by omega) (Nat.zero_le _) hhi rfl)

theorem exec_lifeCycleChange_barred (h : signedOk s m) (hop : m.field 0 4 = 2) (hhi : m.field 4 4 ≤ 3)
    (hmoves : LifeCycle.moves s.lifeCycle (lifeOf (m.field 4 4)) = false) :
    exec (.lifeCycleChange m) s = .next (s.respond m 2 []) :=
  (exec_lifeCycleChange hop (canServe_not_busy h.1)).trans
    (command_signed h (by omega) (Nat.zero_le _) hhi (if_pos (by rw [hmoves]; rfl)))

end

section
variable {s : State} {m : HostMsg}

theorem ctxDrained_of_done (hgrids : ∀ g ∈ s.grids, g.2.done = true) (hqueues : ∀ q ∈ s.queues, q.2.unrefused = false)
    (c : Nat) : s.ctxDrained c = true := by
  have hg : s.grids.any (fun _ g => g.ctx == c && !g.done) = false := by
    rw [Tab.any_eq_list_any]
    exact List.any_eq_false.2 (fun g hmem => by simp [hgrids g hmem])
  have hq : s.queues.any (fun _ q => q.ctx == c && q.unrefused) = false := by
    rw [Tab.any_eq_list_any]
    exact List.any_eq_false.2 (fun q hmem => by simp [hqueues q hmem])
  rw [State.ctxDrained, hg, hq]
  rfl

/-- A change of the life cycle is made once the last grid has retired. -/
theorem exec_lifeCycleChange_ends (hbusy : s.busy = some m) (hop : m.field 0 4 = 2)
    (hgrids : ∀ g ∈ s.grids, g.2.done = true) (hqueues : ∀ q ∈ s.queues, q.2.unrefused = false) :
    exec (.lifeCycleChange m) s =
      .next (({ s with lifeCycle := lifeOf (m.field 4 4) } : State).wiped.respond m 0 []) := by
  have hdrained : (s.contexts.keys (fun _ _ => true)).all s.ctxDrained = true :=
    List.all_eq_true.2 (fun c _ => ctxDrained_of_done hgrids hqueues c)
  show execLifeCycleChange m s = _
  rw [execLifeCycleChange, if_neg (not_not_intro hop), if_pos hbusy, hdrained]
  rfl

end

/-! ## Telemetry (R482, R486, R487) -/

section
variable (s : State) (f t : Telemetry) (l : List Telemetry)

theorem exec_readTelemetry {m : HostMsg} (hs : s.canServe m 0x0090) (hm : m.shaped 8 [(0, 4)] = true) (hmask : m.field 0 4 < 512) :
    exec (.readTelemetry m) s = .next (s.respond m 0 (((List.range 9).filter (fun d =>
      (m.field 0 4).testBit d)).flatMap (fun d => telemetryBytes (s.dieTelemetry d)))) := by
  show execReadTelemetry m s = _
  exact serve_does hs (by simpa [hm] using hmask) (fun h => nomatch h) rfl

/-- A value that an item takes where the die draws it. -/
theorem getD_zipIdx_kept (l : List Nat) (keep : Nat → Bool) (i : Nat) (h : keep i = false) :
    (l.zipIdx.map (fun p => if keep p.2 then p.1 else 0)).getD i 0 = 0 := by
  rw [List.getD_eq_getElem?_getD, List.getElem?_map, List.getElem?_zipIdx]
  cases l[i]? <;> simp [h]

/-- The rails that a die draws from: not the core rail of the other kind. -/
def draws (i : Nat) : Bool := if t.die = Config.dies then i != 0 else i != 1

theorem refreshed_rails (h : t.die = 8) : (s.refreshed f t).rails.getD 0 0 = 0 ∧ (s.refreshed f t).currents.getD 0 0 = 0 :=
  ⟨getD_zipIdx_kept t.rails (draws t) 0 (if_pos h), getD_zipIdx_kept t.currents (draws t) 0 (if_pos h)⟩

theorem refreshed_rails_compute (h : t.die ≠ 8) :
    (s.refreshed f t).rails.getD 1 0 = 0 ∧ (s.refreshed f t).currents.getD 1 0 = 0 :=
  ⟨getD_zipIdx_kept t.rails (draws t) 1 (if_neg h), getD_zipIdx_kept t.currents (draws t) 1 (if_neg h)⟩

/-- The sensors' record of a die in a refresh. -/
def sensedIn (d : Nat) : Telemetry := (l.find? (fun x => x.die == d)).getD (s.sensed d)

theorem die_sensedIn (d : Nat) : (sensedIn s l d).die = d := by
  rw [sensedIn]
  cases h : l.find? (fun x => x.die == d) with
  | none => rfl
  | some x => exact beq_iff_eq.1 (List.find?_some (p := fun x : Telemetry => x.die == d) h)

theorem refresh_eq : s.refresh l = (List.range 9).map (fun d => s.refreshed (l.headD (s.sensed 0)) (sensedIn s l d)) := rfl

theorem refresh_dies : (s.refresh l).map (fun t => t.die) = List.range 9 := by
  rw [refresh_eq, List.map_map]
  exact (List.map_congr_left (fun d _ => die_sensedIn s l d)).trans (List.map_id _)

theorem refresh_shared : ∀ a ∈ s.refresh l, ∀ b ∈ s.refresh l,
    a.powerMs = b.powerMs ∧ a.powerS = b.powerS ∧ a.inlet = b.inlet ∧ a.flow = b.flow := by
  intro a ha b hb
  rw [refresh_eq, List.mem_map] at ha hb
  obtain ⟨_, _, rfl⟩ := ha
  obtain ⟨_, _, rfl⟩ := hb
  exact ⟨rfl, rfl, rfl, rfl⟩

theorem mem_refresh {x : Telemetry} (hx : x ∈ f :: l) (hdie : x.die < 9) (hone : ∀ y ∈ f :: l, y.die = x.die → y = x) :
    s.refreshed f x ∈ s.refresh (f :: l) := by
  have hfind : (f :: l).find? (fun y => y.die == x.die) = some x := by
    cases h : (f :: l).find? (fun y => y.die == x.die) with
    | none => exact absurd (beq_self_eq_true x.die) (by simpa using List.find?_eq_none.1 h x hx)
    | some y =>
      have hy := List.find?_some (p := fun y : Telemetry => y.die == x.die) h
      rw [hone y (List.mem_of_find?_eq_some h) (beq_iff_eq.1 hy)]
  rw [refresh_eq, List.mem_map]
  exact ⟨x.die, List.mem_range.2 hdie, by rw [sensedIn, hfind]; rfl⟩

end

/-! ## Counters and the error log (R484, R488) -/

section
variable {s : State} {m : HostMsg}

theorem exec_readCounters (hs : s.canServe m 0x0091) (hm : m.shaped 8 [(0, 2), (4, 4)] = true)
    (hindex : m.field 4 4 < (scopeSize (m.field 0 2)).1) :
    exec (.readCounters m) s =
      (let t := if m.field 0 2 = 2 then s.countLinks else s
       .next (t.respond m 0 ((List.range (scopeSize (m.field 0 2)).2).flatMap (fun i =>
         bytesOf 8 (t.counter (m.field 0 2) (m.field 4 4) i))))) := by
  show execReadCounters m s = _
  rw [execReadCounters]
  exact serve_does hs (by simpa [hm] using hindex) (fun h => nomatch h) rfl

/-- A counter that a step of countLinks raises stays below 2^64, and no other counter of the links changes. -/
theorem counter_count (s : State) (i k n : Nat) :
    (s.count 2 0 k n).counter 2 0 i = if k = i then s.counter 2 0 i + n else s.counter 2 0 i := by
  have hkey : perfKey 2 0 k = perfKey 2 0 i ↔ k = i := by rw [perfKey, perfKey]; omega
  rw [State.counter, State.count, Tab.get_put]
  simp only [hkey]
  split
  · next h => subst h; rfl
  · rfl

theorem counter_countLinks (s : State) (i : Nat) (h : s.counter 2 0 i < 2 ^ 64) :
    s.counter 2 0 i ≤ s.countLinks.counter 2 0 i ∧ s.countLinks.counter 2 0 i < 2 ^ 64 := by
  rw [State.countLinks]
  refine List.foldlRecOn (motive := fun t : State => s.counter 2 0 i ≤ t.counter 2 0 i ∧ t.counter 2 0 i < 2 ^ 64)
    (List.range 65) _ ⟨Nat.le_refl _, h⟩ (fun t ht k _ => ?_)
  obtain ⟨hle, hlt⟩ := ht
  rw [counter_count]
  split
  · next hk =>
    subst hk
    have hroom := Nat.mod_lt (Config.freeNat t.stamp (2 ^ 60 + k)) (Nat.sub_pos_of_lt hlt)
    omega
  · exact ⟨hle, hlt⟩

theorem exec_readErrorLog (hs : s.canServe m 0x0092) (hm : m.shaped 8 [(0, 4), (4, 4)] = true)
    (hctx : Tab.has s.contexts m.ctx = true) (hlo : 1 ≤ m.field 4 4) (hhi : m.field 4 4 ≤ 64) :
    exec (.readErrorLog m) s = .next (s.respond m 0 ((List.range (m.field 4 4)).flatMap (fun i =>
      (s.context m.ctx).logBytes (m.field 0 4 + i)))) := by
  show execReadErrorLog m s = _
  exact serve_does hs (by simp [hm, hlo, hhi]) (fun _ => hctx) rfl

end

/-! ## Answers of the host agent (R469, R482) -/

section
variable {s : State} {m : HostMsg} {a : Ask}

/-- An answer to a question of the package that is open. -/
def askedOf (s : State) (m : HostMsg) (a : Ask) : Prop := s.canServe m 0x00A0 ∧ m.shaped 16 [(0, 4), (4, 4)] = true ∧
  Tab.find s.asks (m.field 0 4) = some a ∧ a.answer = none

theorem confirmsBusy_idle (hbusy : s.busy = none) : s.confirmsBusy m = false := by
  rw [State.confirmsBusy, hbusy]

theorem exec_agentAnswer (hs : s.canServe m 0x00A0) (hm : m.shaped 16 [(0, 4), (4, 4)] = true) (hn : m.field 4 4 ≤ 3) {r : State × Nat}
    (hr : (match Tab.find s.asks (m.field 0 4) with
      | some a => if a.answer.isSome then (s, 1) else s.answered (m.field 0 4) a (m.field 4 4)
      | none => (s, 1)) = r) : exec (.agentAnswer m) s = .next (r.1.respond m r.2 []) := by
  have hidle : s.confirmsBusy m = false := confirmsBusy_idle hs.1.2.2.1
  show execAgentAnswer m s = _
  rw [execAgentAnswer, hidle]
  exact (if_neg (by simp)).trans (serve_does hs (by simp [hm, hn]) (fun h => nomatch h) (hr ▸ rfl))

theorem exec_agentAnswer_answers (h : askedOf s m a) (hn : m.field 4 4 ≤ 3) {r : State × Nat}
    (hr : s.answered (m.field 0 4) a (m.field 4 4) = r) : exec (.agentAnswer m) s = .next (r.1.respond m r.2 []) := by
  obtain ⟨hs, hm, hfind, hopen⟩ := h
  refine exec_agentAnswer hs hm hn ?_
  rw [hfind]
  simp only [hopen]
  exact hr

theorem exec_agentAnswer_unasked (hs : s.canServe m 0x00A0) (hm : m.shaped 16 [(0, 4), (4, 4)] = true) (hn : m.field 4 4 ≤ 3)
    (hfind : Tab.find s.asks (m.field 0 4) = none) : exec (.agentAnswer m) s = .next (s.respond m 1 []) :=
  exec_agentAnswer (r := (s, 1)) hs hm hn (by rw [hfind])

/-- The state once the question of an answer is no longer open. -/
def State.unasked (s : State) (m : HostMsg) : State := { s with asks := Tab.del s.asks (m.field 0 4) }

theorem answered_firstTouch {crs j : Nat} (hwhat : a.what = .firstTouch crs j) (hn : m.field 4 4 < 2) :
    s.answered (m.field 0 4) a (m.field 4 4) = ((s.unasked m).escalationAnswered crs j (m.field 4 4 == 0), 0) := by
  rw [State.answered, hwhat]
  exact if_pos hn

theorem answered_admission {q : Nat} (hwhat : a.what = .admission q) (hn : m.field 4 4 < 2) :
    s.answered (m.field 0 4) a (m.field 4 4) = ((s.unasked m).consentAnswer (m.field 0 4) (m.field 4 4 == 0), 0) := by
  rw [State.answered, hwhat]
  exact if_pos hn

theorem answered_abort {g c : Nat} {t : Option TrapRec} (hwhat : a.what = .recovery g c t) (hn : m.field 4 4 = 2) :
    s.answered (m.field 0 4) a (m.field 4 4) = ((s.unasked m).abortNow g c t, 0) := by
  rw [State.answered, hwhat]
  exact if_pos hn

theorem answered_stop {g c : Nat} {t : Option TrapRec} (hwhat : a.what = .recovery g c t) (hn : m.field 4 4 = 3) :
    s.answered (m.field 0 4) a (m.field 4 4) = ((s.unasked m).stopCtx (s.grid g).ctx 0x0006, 0) := by
  rw [State.answered, hwhat]
  exact (if_neg (by omega)).trans (if_pos hn)

end

/-! ## Reset, wiping and limits (R468, R485, R486) -/

section
variable {s : State}

/-- The state once its wipe is complete. -/
def State.wipeDone (s : State) : State := { s with wiping := false, up := true }

theorem exec_wipeComplete_again (hwipe : s.wiping = true) (hup : s.up = true) :
    exec .wipeComplete s = .next s.wipeDone := by
  show execWipeComplete s = _
  rw [execWipeComplete, hwipe, if_neg (by decide), hup, if_pos rfl]
  rfl

theorem exec_wipeComplete (hwipe : s.wiping = true) (hboot : s.bootFailed = false) (hdown : s.up = false) :
    exec .wipeComplete s =
      .next (s.fenced.foldl (fun t u => t.mgmt 0 3 (le 4 (UnitKind.code u.1) ++ le 4 u.2)) s.wipeDone) := by
  show execWipeComplete s = _
  exact (if_neg (by rw [hwipe]; decide)).trans ((if_neg (by rw [hdown]; decide)).trans
    (congrArg Host.Outcome.next (if_neg (by rw [hboot]; decide))))

theorem exec_railLimitEvent {k : Nat} {v : Int} (h : beyondLimit k v false = true) :
    exec (.railLimitEvent k v) s = .next (s.mgmt 0 4 (le 4 k ++ le 4 (intBits v 32))) := if_pos h

theorem exec_tripLimit {k : Nat} {v : Int} (h : beyondLimit k v true = true) : exec (.tripLimit k v) s = .next s.restart := if_pos h

/-- The cycles inserted into each die, once one more is inserted. -/
def idleAfter (s : State) (die : Nat) : List Nat := (List.range 8).map (fun d => s.idle.getD d 0 + b2n (d == die))

theorem getD_idleAfter {die d : Nat} (hd : d < 8) : (idleAfter s die).getD d 0 = s.idle.getD d 0 + b2n (d == die) := by
  rw [idleAfter, List.getD_eq_getElem?_getD, List.getElem?_map, List.getElem?_range hd]
  rfl

theorem exec_idleInsertion {die : Nat} (h : die < 8) : exec (.idleInsertion die) s = .next { s with idle := idleAfter s die } := by
  show execIdleInsertion die s = _
  rw [execIdleInsertion, if_pos (show die < Config.dies from h)]
  rfl

end

/-! ## Errors of the memory (R455, R456) -/

theorem mem_insertNat (k n : Nat) (l : List Nat) : k ∈ insertNat l n ↔ k = n ∨ k ∈ l := by
  induction l with
  | nil => simp [insertNat]
  | cons a t ih =>
    rw [insertNat]
    split
    · next h => subst h; simp
    · split
      · simp
      · simp only [List.mem_cons, ih]; tauto

theorem mem_foldl_insertNat (k : Nat) (l p : List Nat) : k ∈ l.foldl insertNat p ↔ k ∈ l ∨ k ∈ p := by
  induction l generalizing p with
  | nil => simp
  | cons a t ih => rw [List.foldl_cons, ih, mem_insertNat, List.mem_cons]; tauto

/-- A 4-byte word is poisoned where the list has it. -/
theorem poisonedIn_word (p : List Nat) (x : Nat) : poisonedIn p (4 * x) 4 = p.contains (4 * x) := by
  have hone : (4 * x + 4 - 1) / 4 - 4 * x / 4 + 1 = 1 := by omega
  have hself : 4 * x / 4 * 4 = 4 * x := by omega
  rw [poisonedIn, wordsOf, if_neg (by decide), hone, List.range_one]
  simp only [List.map_cons, List.map_nil, Nat.add_zero, hself, List.any_cons, List.any_nil, Bool.or_false]

/-- A 4-byte word is poisoned after a store of poison where it was, or the words stored hold it. -/
theorem poisonedIn_foldl_insertNat (l p : List Nat) (x : Nat) :
    poisonedIn (l.foldl insertNat p) (4 * x) 4 = (l.contains (4 * x) || poisonedIn p (4 * x) 4) := by
  rw [poisonedIn_word, poisonedIn_word, Bool.eq_iff_iff]
  simp only [List.contains_iff_mem, Bool.or_eq_true, mem_foldl_insertNat]

theorem contains_codeword8 (ofs x : Nat) : (codeword8 ofs).contains (4 * x) = decide (4 * x / 8 = ofs / 8) := by
  rw [Bool.eq_iff_iff]
  simp only [codeword8, List.contains_iff_mem, List.mem_cons, List.not_mem_nil, or_false, decide_eq_true_eq]
  omega

theorem contains_wordsOf_codeword (a w : Nat) : (wordsOf (a / 64 * 64) 64).contains (4 * (a / 64 * 16 + w)) = decide (w < 16) := by
  have hn : (a / 64 * 64 + 64 - 1) / 4 - a / 64 * 64 / 4 + 1 = 16 := by omega
  rw [Bool.eq_iff_iff, wordsOf, if_neg (by decide), hn]
  simp only [List.contains_iff_mem, List.mem_map, List.mem_range, decide_eq_true_eq]
  constructor
  · rintro ⟨i, hi, h⟩
    omega
  · exact fun h => ⟨w, h, by omega⟩

section
variable (s : State)

theorem exec_scrub_nowhere {p : ErrorPlace} (c : Bool) (h : s.placeExists p = false) : exec (.scrub p c) s = .next s :=
  if_pos (by rw [h]; rfl)

theorem exec_scrub_corrected {p : ErrorPlace} (h : s.placeExists p = true) :
    exec (.scrub p true) s = .next (s.count 1 (s.placeDie p) 0 1) :=
  (if_neg (by rw [h]; decide)).trans (if_pos rfl)

theorem exec_scrub_uncorrectable {p : ErrorPlace} (h : s.placeExists p = true) :
    exec (.scrub p false) s = .next ((s.poisonPlace p).count 1 (s.placeDie p) 1 1) :=
  (if_neg (by rw [h]; decide)).trans (if_neg Bool.false_ne_true)

/-- A register after lane n of it and its neighbour are poisoned. -/
theorem laneCell_poisonPlace (crs n : Nat) {L k : Nat} (hk : k / 2 = L / 2) :
    ((s.poisonPlace (.lane crs n L)).course crs).laneCell false n k =
      { (s.course crs).laneCell false n k with poison := true } := by
  have hpair : k = L / 2 * 2 ∨ k = L / 2 * 2 + 1 := by omega
  have hne : cellKey n (L / 2 * 2 + 1) ≠ cellKey n (L / 2 * 2) := by rw [cellKey, cellKey]; omega
  simp only [State.poisonPlace, course_onCourse_same, List.foldl_cons, List.foldl_nil, Course.laneCell, Course.laneFile]
  obtain rfl | rfl := hpair
  · simp [Tab.get_put, hne]
  · simp [Tab.get_put, hne.symm]

theorem poisonedIn_poisonPlace_shared (h ofs w : Nat) (hclean : (s.spaceBlock (.shared h)).poison = []) :
    poisonedIn ((s.poisonPlace (.shared h ofs)).spaceBlock (.shared h)).poison (4 * w) 4 = decide (4 * w / 8 = ofs / 8) := by
  have hblock : ((s.poisonPlace (.shared h ofs)).spaceBlock (.shared h)).poison =
      (codeword8 ofs).foldl insertNat (s.spaceBlock (.shared h)).poison := by
    simp only [State.poisonPlace, spaceBlock_setSpace_shared]
  rw [hblock, hclean, poisonedIn_foldl_insertNat, contains_codeword8, poisonedIn_word]
  simp

theorem poisonedIn_poisonPlace_homeLine (die a w : Nat) : poisonedIn (s.poisonPlace (.homeLine die a)).poison (a / 8 * 8 + 4 * w) 4 =
    (decide (w < 2) || poisonedIn s.poison (a / 8 * 8 + 4 * w) 4) := by
  have hword : a / 8 * 8 + 4 * w = 4 * (a / 8 * 2 + w) := by omega
  have hlow : (4 * (a / 8 * 2 + w) / 8 = a / 8) = (w < 2) := propext (by omega)
  rw [hword, State.poisonPlace, poisonedIn_foldl_insertNat, contains_codeword8]
  simp only [hlow]

theorem poisonedIn_poisonPlace_dram (a w : Nat) : poisonedIn (s.poisonPlace (.dram a)).poison (a / 64 * 64 + 4 * w) 4 =
    (decide (w < 16) || poisonedIn s.poison (a / 64 * 64 + 4 * w) 4) := by
  have hword : a / 64 * 64 + 4 * w = 4 * (a / 64 * 16 + w) := by omega
  rw [hword, State.poisonPlace, poisonedIn_foldl_insertNat, contains_wordsOf_codeword]

theorem exec_uncorrectableStateError {g : Nat} (die part : Nat) (h : (s.grid g).done = false) :
    exec (.uncorrectableStateError g die part) s = .next (((s.abortGrid g 0x0112 none).count 1 die 1 1).mgmt (s.grid g).ctx 10
      (le 4 die ++ le 4 part)) :=
  if_neg (ne_true_of_eq_false h)

end

/-- Settles O50. -/
theorem management : Obligations.Management := by
  refine ⟨fun _ _ hs hm hindex hctx => exec_attestationReport_signs hs hm hindex hctx,
    fun _ _ hs hm hindex => exec_attestationReport_spent hs hm hindex, fun _ h hindex => hssVerify_deviceSign h hindex, take_report,
    fun s m i ⟨hs, hm, hi⟩ hsig => ?_, fun s m i ⟨hs, hm, hi⟩ hsig hlife => ?_,
    fun _ _ h hop hlo hhi hspent => exec_fuseCounterAdvance_spent h hop hlo hhi hspent,
    fun _ _ h hop hlo hhi hmore => exec_fuseCounterAdvance_blows h hop hlo hhi hmore,
    fun _ _ h hop hhi => exec_keySlotRevocation_revokes h hop hhi,
    fun _ _ h hop hhi hmoves => exec_lifeCycleChange_barred h hop hhi hmoves,
    fun _ _ hbusy hop hgrids hqueues => exec_lifeCycleChange_ends hbusy hop hgrids hqueues,
    fun _ => ⟨rfl, rfl, rfl, rfl, rfl, rfl, rfl, rfl, rfl⟩,
    fun s _ hs hm hmask => exec_readTelemetry s hs hm hmask, fun _ _ => rfl,
    fun s l => ⟨refresh_dies s l, refresh_shared s l⟩, fun s f l _ hx hdie hone => mem_refresh s f l hx hdie hone,
    fun s f t => ⟨rfl, rfl, rfl, rfl, rfl, rfl, refreshed_rails s f t, refreshed_rails_compute s f t⟩,
    fun _ _ hs hm hindex => exec_readCounters hs hm hindex, fun _ _ _ _ => rfl, counter_countLinks,
    fun _ _ hs hm hctx hlo hhi => exec_readErrorLog hs hm hctx hlo hhi,
    fun _ _ _ _ _ h hwhat hn => exec_agentAnswer_answers h (by omega) (answered_firstTouch hwhat hn),
    fun _ _ _ _ h hwhat hn => exec_agentAnswer_answers h (by omega) (answered_admission hwhat hn),
    fun _ _ _ _ _ _ h hwhat hn => exec_agentAnswer_answers h (by omega) (answered_abort hwhat hn),
    fun _ _ _ _ _ _ h hwhat hn => exec_agentAnswer_answers h (by omega) (answered_stop hwhat hn),
    fun _ _ hs hm hn hfind => exec_agentAnswer_unasked hs hm hn hfind,
    fun _ => rfl, fun _ => ⟨rfl, rfl, rfl, rfl, rfl, rfl, rfl⟩, fun _ => rfl, fun s hwipe hboot hready => ?_,
    fun s k n hwipe hboot hdown hfenced => ?_, fun _ _ _ h => exec_railLimitEvent h, fun _ _ _ h => exec_tripLimit h,
    fun s die hdie => ⟨_, exec_idleInsertion hdie, rfl, ?_, fun d hd hne => ?_⟩,
    fun s _ h => ⟨exec_scrub_nowhere s true h, exec_scrub_nowhere s false h⟩,
    fun s _ h => ⟨exec_scrub_corrected s h, exec_scrub_uncorrectable s h⟩, fun _ _ => ⟨rfl, rfl⟩,
    fun s crs n _ _ _ hk => laneCell_poisonPlace s crs n hk, poisonedIn_poisonPlace_shared, fun _ _ => rfl,
    poisonedIn_poisonPlace_homeLine,
    fun s a h => ⟨_, exec_scrub_uncorrectable s h, rfl, poisonedIn_poisonPlace_dram s a⟩,
    fun s _ die part h => exec_uncorrectableStateError s die part h⟩
  · obtain ⟨lo, hi', f, hlo, hhi, hop, hexec⟩ := exec_command hs hi
    exact hexec.trans (command_unsigned ⟨hs, hm, hop⟩ hlo hhi hsig)
  · obtain ⟨lo, hi', f, hlo, hhi, hop, hexec⟩ := exec_command hs hi
    exact hexec.trans (command_decommissioned ⟨hs, hm, hop⟩ hlo hhi hsig hlife)
  · cases hup : s.up with
    | true => exact exec_wipeComplete_again hwipe hup
    | false =>
      have hfenced : s.fenced = [] := hready.resolve_left (by rw [hup]; decide)
      exact (exec_wipeComplete hwipe hboot hup).trans (congrArg Host.Outcome.next (congrArg (List.foldl _ _) hfenced))
  · exact (exec_wipeComplete hwipe hboot hdown).trans (congrArg Host.Outcome.next (congrArg (List.foldl _ _) hfenced))
  · exact (getD_idleAfter hdie).trans (by rw [beq_self_eq_true]; rfl)
  · exact (getD_idleAfter hd).trans (by rw [beq_eq_false_iff_ne.2 hne]; rfl)

end Sys2Proof.Machine

namespace Sys2Proof

/-! ## Words and their fields (R67, R70) -/

/-- Two vectors side by side, as a number. -/
theorem toNat_append_add {n m : Nat} (a : BitVec n) (b : BitVec m) : (a ++ b).toNat = a.toNat * 2 ^ m + b.toNat := by
  rw [BitVec.toNat_append, ← Nat.shiftLeft_add_eq_or_of_lt b.isLt, Nat.shiftLeft_eq]

/-- A field of a vector, as a number. -/
theorem toNat_extract {n : Nat} (x : BitVec n) (s k : Nat) : (x.extractLsb' s k).toNat = x.toNat / 2 ^ s % 2 ^ k := by
  rw [BitVec.extractLsb'_toNat, Nat.shiftRight_eq_div_pow]

/-- A bit of a vector, as a number. -/
theorem toNat_bitAt {n : Nat} (x : BitVec n) (i : Nat) : (bitAt x i).toNat = x.toNat / 2 ^ i % 2 := by
  rw [bitAt, BitVec.getLsbD, Nat.toNat_testBit]

theorem extract_eq_iff {n : Nat} {x : BitVec n} {s k : Nat} {y : BitVec k} :
    x.extractLsb' s k = y ↔ x.toNat / 2 ^ s % 2 ^ k = y.toNat := by
  rw [← BitVec.toNat_inj, toNat_extract]

theorem bitAt_eq_iff {n : Nat} {x : BitVec n} {i : Nat} {b : Bool} : bitAt x i = b ↔ x.toNat / 2 ^ i % 2 = b.toNat := by
  rw [← toNat_bitAt]; cases bitAt x i <;> cases b <;> decide

theorem Raw.toNat_toWord (r : Raw) : r.toWord.toNat = r.head.p.toNat * 2 ^ 63 + r.head.gap.toNat * 2 ^ 60 +
    r.head.y.toNat * 2 ^ 59 + r.head.e.toNat * 2 ^ 58 + r.opcode.toNat * 2 ^ 50 + r.head.mask.toNat * 2 ^ 47 +
    r.head.mneg.toNat * 2 ^ 46 + r.body.toNat := by
  unfold Raw.toWord
  change BitVec.toNat (w := 1 + 3 + 1 + 1 + 8 + 3 + 1 + 46) _ = _
  simp only [toNat_append_add, BitVec.toNat_ofBool]
  omega

/-- Cutting the word of its fields gives them back. -/
theorem Raw.ofWord_toWord (r : Raw) : Raw.ofWord r.toWord = r := by
  have hw := r.toNat_toWord
  obtain ⟨⟨p, gap, y, e, mask, mneg⟩, op, body⟩ := r
  have := p.toNat_lt; have := y.toNat_lt; have := e.toNat_lt; have := mneg.toNat_lt
  simp only [Raw.ofWord, Raw.mk.injEq, Head.mk.injEq, bitAt_eq_iff, extract_eq_iff, hw]
  refine ⟨⟨?_, ?_, ?_, ?_, ?_, ?_⟩, ?_, ?_⟩ <;> omega

/-- A word is the word of its fields: R67 leaves no bit out. -/
theorem Raw.toWord_ofWord (w : BitVec 64) : (Raw.ofWord w).toWord = w := by
  apply BitVec.eq_of_toNat_eq
  rw [toNat_toWord]
  simp only [Raw.ofWord, toNat_extract, toNat_bitAt]
  omega

theorem Kind.ofCode_code (k : Kind) : Kind.ofCode k.code = k := by cases k <;> rfl

theorem Kind.code_lt (k : Kind) : k.code < 4 := by cases k <;> decide

theorem Kind.code_ofCode (n : Nat) : (Kind.ofCode (n % 2 ^ 2)).code = n % 2 ^ 2 := by
  have h : ∀ k < 2 ^ 2, (Kind.ofCode k).code = k := by decide
  exact h _ (Nat.mod_lt _ (by decide))

theorem Kind.ofCode_eq_iff {n : Nat} {k : Kind} : Kind.ofCode (n % 2 ^ 2) = k ↔ n % 2 ^ 2 = k.code :=
  ⟨fun e => by rw [← e, Kind.code_ofCode], fun e => by rw [e, k.ofCode_code]⟩

theorem Size.ofCode_code (z : Size) : Size.ofCode z.code = z := by cases z <;> rfl

theorem Size.code_lt (z : Size) : z.code < 5 := by cases z <;> decide

theorem Size.code_ofCode {n : Nat} (h : n < 5) : (Size.ofCode n).code = n := by decide +revert

theorem RBody.toNat_toBody (r : RBody) : r.toBody.toNat = r.word.d.toNat * 2 ^ 38 + r.word.a.field.toNat * 2 ^ 30 +
    r.word.b.field.toNat * 2 ^ 22 + r.word.c.field.toNat * 2 ^ 14 + r.word.a.kind.code * 2 ^ 12 + r.word.b.kind.code * 2 ^ 10 +
    r.word.c.kind.code * 2 ^ 8 + r.word.u.toNat * 2 ^ 7 + r.fn.toNat := by
  have := r.word.a.kind.code_lt; have := r.word.b.kind.code_lt; have := r.word.c.kind.code_lt
  unfold RBody.toBody
  change BitVec.toNat (w := 8 + 8 + 8 + 8 + 2 + 2 + 2 + 1 + 7) _ = _
  simp only [toNat_append_add, BitVec.toNat_ofBool, BitVec.toNat_ofNat]
  omega

theorem RBody.ofBody_toBody (r : RBody) : RBody.ofBody r.word.head r.toBody = r := by
  have hw := r.toNat_toBody
  obtain ⟨⟨h, d, ⟨ka, a⟩, ⟨kb, b⟩, ⟨kc, c⟩, u⟩, fn⟩ := r
  dsimp only at hw
  have := u.toNat_lt; have := ka.code_lt; have := kb.code_lt; have := kc.code_lt
  simp only [RBody.ofBody, RBody.mk.injEq, RWord.mk.injEq, Operand.mk.injEq, bitAt_eq_iff, extract_eq_iff, toNat_extract, hw,
    Kind.ofCode_eq_iff, true_and]
  refine ⟨⟨?_, ⟨?_, ?_⟩, ⟨?_, ?_⟩, ⟨?_, ?_⟩, ?_⟩, ?_⟩ <;> omega

theorem RBody.toBody_ofBody (h : Head) (b : BitVec 46) : (RBody.ofBody h b).toBody = b := by
  apply BitVec.eq_of_toNat_eq
  rw [toNat_toBody]
  simp only [RBody.ofBody, toNat_extract, toNat_bitAt, Kind.code_ofCode]
  omega

theorem MBody.toNat_toBody (m : MBody) : m.toBody.toNat = m.ds.toNat * 2 ^ 38 + m.base.toNat * 2 ^ 30 + m.ch.toNat * 2 ^ 26 +
    m.size.toNat * 2 ^ 23 + m.bk.toNat * 2 ^ 22 + m.op.toNat * 2 ^ 16 + m.ofs.toNat := by
  unfold MBody.toBody
  change BitVec.toNat (w := 8 + 8 + 4 + 3 + 1 + 6 + 16) _ = _
  simp only [toNat_append_add, BitVec.toNat_ofBool]
  omega

theorem MBody.ofBody_toBody (m : MBody) : MBody.ofBody m.toBody = m := by
  have hw := m.toNat_toBody
  obtain ⟨ds, base, ch, size, bk, op, ofs⟩ := m
  have := bk.toNat_lt
  simp only [MBody.ofBody, MBody.mk.injEq, bitAt_eq_iff, extract_eq_iff, hw]
  refine ⟨?_, ?_, ?_, ?_, ?_, ?_, ?_⟩ <;> omega

theorem MBody.toBody_ofBody (b : BitVec 46) : (MBody.ofBody b).toBody = b := by
  apply BitVec.eq_of_toNat_eq
  rw [toNat_toBody]
  simp only [MBody.ofBody, toNat_extract, toNat_bitAt]
  omega

theorem IBody.toNat_toBody (k : IBody) : k.toBody.toNat = k.d.toNat * 2 ^ 38 + k.a.toNat * 2 ^ 30 + k.u.toNat * 2 ^ 29 +
    k.op.toNat * 2 ^ 24 + k.imm.toNat := by
  unfold IBody.toBody
  change BitVec.toNat (w := 8 + 8 + 1 + 5 + 24) _ = _
  simp only [toNat_append_add, BitVec.toNat_ofBool]
  omega

theorem IBody.ofBody_toBody (k : IBody) : IBody.ofBody k.toBody = k := by
  have hw := k.toNat_toBody
  obtain ⟨d, a, u, op, imm⟩ := k
  have := u.toNat_lt
  simp only [IBody.ofBody, IBody.mk.injEq, bitAt_eq_iff, extract_eq_iff, hw]
  refine ⟨?_, ?_, ?_, ?_, ?_⟩ <;> omega

theorem IBody.toBody_ofBody (b : BitVec 46) : (IBody.ofBody b).toBody = b := by
  apply BitVec.eq_of_toNat_eq
  rw [toNat_toBody]
  simp only [IBody.ofBody, toNat_extract, toNat_bitAt]
  omega

theorem KBody.toNat_toBody (k : KBody) : k.toBody.toNat = k.d.toNat * 2 ^ 38 + k.u.toNat * 2 ^ 37 + k.op.toNat * 2 ^ 32 +
    k.imm.toNat := by
  unfold KBody.toBody
  change BitVec.toNat (w := 8 + 1 + 5 + 32) _ = _
  simp only [toNat_append_add, BitVec.toNat_ofBool]
  omega

theorem KBody.ofBody_toBody (k : KBody) : KBody.ofBody k.toBody = k := by
  have hw := k.toNat_toBody
  obtain ⟨d, u, op, imm⟩ := k
  have := u.toNat_lt
  simp only [KBody.ofBody, KBody.mk.injEq, bitAt_eq_iff, extract_eq_iff, hw]
  refine ⟨?_, ?_, ?_, ?_⟩ <;> omega

theorem KBody.toBody_ofBody (b : BitVec 46) : (KBody.ofBody b).toBody = b := by
  apply BitVec.eq_of_toNat_eq
  rw [toNat_toBody]
  simp only [KBody.ofBody, toNat_extract, toNat_bitAt]
  omega

theorem BBody.toNat_toBody (b : BBody) : b.toBody.toNat = b.a.toNat * 2 ^ 38 + b.cond.toNat * 2 ^ 34 + b.kind.toNat * 2 ^ 32 +
    b.ofs.toNat := by
  unfold BBody.toBody
  change BitVec.toNat (w := 8 + 4 + 2 + 32) _ = _
  simp only [toNat_append_add]
  omega

theorem BBody.ofBody_toBody (b : BBody) : BBody.ofBody b.toBody = b := by
  have hw := b.toNat_toBody
  obtain ⟨a, cond, kind, ofs⟩ := b
  simp only [BBody.ofBody, BBody.mk.injEq, extract_eq_iff, hw]
  refine ⟨?_, ?_, ?_, ?_⟩ <;> omega

theorem BBody.toBody_ofBody (b : BitVec 46) : (BBody.ofBody b).toBody = b := by
  apply BitVec.eq_of_toNat_eq
  rw [toNat_toBody]
  simp only [BBody.ofBody, toNat_extract]
  omega

/-! ## Instructions of format R and of format M -/

/-- The format-R word by which an instruction is encoded: its own operand word, or the bare word of one that carries a head
alone. -/
def Instr.rform? (i : Instr) : Option RWord :=
  match i with
  | .ill .. | .bra .. | .call .. | .jmark .. | .ipf .. | .movi .. | .iaddi .. => none
  | _ =>
    match i.mword? with
    | some _ => none
    | none => i.rword? <|> i.head?.map (fun h => ⟨h, 0#8, Operand.zero, Operand.zero, Operand.zero, i.headU⟩)

/-- Does the opcode take format R? -/
def takesR (op : Nat) : Bool := op != 0 && assigned op && !isFmtB op && !isFmtM op && op != 0x38 && op != 0x3E

/-- The opcode of a format-R instruction takes format R. -/
theorem takesR_opcode {i : Instr} {r : RWord} (h : i.rform? = some r) : takesR i.opcode = true := by
  cases i <;> first | rfl | cases h

theorem head_of_rform {i : Instr} {r : RWord} (h : i.rform? = some r) : i.head? = some r.head := by
  cases i <;> cases h <;> rfl

theorem body_of_rform {i : Instr} {r : RWord} (h : i.rform? = some r) : i.body = RBody.toBody ⟨r, BitVec.ofNat 7 i.fn⟩ := by
  cases i <;> cases h <;> rfl

/-- The fields of QSCALE's FN (R219). -/
theorem qscale_fields (m : QscaleOut) : ∀ n : BitVec 3, QscaleOut.ofCode ((m.code + 16 * n.toNat) / 1 % 4) = m ∧
    BitVec.ofNat 3 ((m.code + 16 * n.toNat) / 16) = n ∧ m.code + 16 * n.toNat < 128 := by
  cases m <;> decide

/-- The fields of QNT's FN (R220). -/
theorem qnt_fields (m : Rnd) (b : Bool) : ∀ n : BitVec 3, Rnd.ofCode ((m.code + 8 * b.toNat + 16 * n.toNat) / 1 % 8) = m ∧
    (m.code + 8 * b.toNat + 16 * n.toNat).testBit 3 = b ∧ BitVec.ofNat 3 ((m.code + 8 * b.toNat + 16 * n.toNat) / 16) = n ∧
    m.code + 8 * b.toNat + 16 * n.toNat < 128 := by
  cases m <;> cases b <;> decide

/-- The fields of DEQ's FN (R221). -/
theorem deq_fields (m : Rnd4) : ∀ n : BitVec 3, Rnd4.ofCode ((m.code + 16 * n.toNat) / 1 % 8) = m ∧
    BitVec.ofNat 3 ((m.code + 16 * n.toNat) / 16) = n ∧ m.code + 16 * n.toNat < 128 := by
  cases m <;> decide

/-- The opcode and FN of a format-R instruction name it, and FN fits its field (R79, R88). -/
theorem candR_fn {i : Instr} {r : RWord} (h : i.rform? = some r) : candR i.opcode i.fn r = some i ∧ i.fn < 128 := by
  delta Instr.opcode Instr.fn
  cases i with dsimp only
  | arrive r b | idiv r b | irem r b | imin r b | imax r b | iabs r b | andOp r b | orOp r b | xorOp r b | shl r b | shr r b
  | sar r b | rot r b | bfe r b | lea r b | fmin r b | fmax r b | dmk r b | dget r b | dqtl r b | dcdf r b | collPut r b =>
    cases h; cases b <;> exact ⟨rfl, by decide⟩
  | iadd r a b | isub r a b | imad r a b => cases h; cases a <;> cases b <;> exact ⟨rfl, by decide⟩
  | waitc r m | fcmp r m | fdiv r m | fsqrt r m | frnd r m | vote r m | pack r m | redeem r m | dmap r m | dmom r m =>
    cases h; cases m <;> exact ⟨rfl, by decide⟩
  | imul r a m | iadd64 r a m => cases h; cases a <;> cases m <;> exact ⟨rfl, by decide⟩
  | icmp r m a | fadd r m a | fsub r m a | fmul r m a | ffma r m a | cvt r m a | fscl r m a | unpack r m a | cdrain r m a =>
    cases h; cases m <;> cases a <;> exact ⟨rfl, by decide⟩
  | shfl r m n | hdm r m n | qmax r m n | collAr r m n => cases h; cases m <;> cases n <;> exact ⟨rfl, by decide⟩
  | hadd2 r m a b n | hmul2 r m a b n | hfma2 r m a b n =>
    cases h; cases m <;> cases a <;> cases b <;> cases n <;> exact ⟨rfl, by decide⟩
  | hmnx2 r a b c m => cases h; cases a <;> cases b <;> cases c <;> cases m <;> exact ⟨rfl, by decide⟩
  | redux r m a n | scan r m a n => cases h; cases m <;> cases a <;> cases n <;> exact ⟨rfl, by decide⟩
  | mma r m n a | mmas r m n a | cpy r m n a => cases h; cases m <;> cases n <;> cases a <;> exact ⟨rfl, by decide⟩
  | tcpy r a m b c d => cases h; cases a <;> cases m <;> cases b <;> cases c <;> cases d <;> exact ⟨rfl, by decide⟩
  | qscale r m n =>
    obtain ⟨hm, hn, hlt⟩ := qscale_fields m n
    cases h
    exact ⟨congrArg some (congrArg₂ (Instr.qscale r) hm hn), hlt⟩
  | qnt r m b n =>
    obtain ⟨hm, hb, hn, hlt⟩ := qnt_fields m b n
    cases h
    refine ⟨?_, hlt⟩
    change some (Instr.qnt r _ _ _) = _
    rw [hm, hb, hn]
  | deq r m n =>
    obtain ⟨hm, hn, hlt⟩ := deq_fields m n
    cases h
    exact ⟨congrArg some (congrArg₂ (Instr.deq r) hm hn), hlt⟩
  | _ => cases h <;> exact ⟨rfl, by decide⟩

/-- The opcode and OP of a format-M instruction name it, and OP fits its field (R79, R88). -/
theorem candM_fn {i : Instr} {m : MWord} (h : i.mword? = some m) : candM i.opcode i.fn m = some i ∧ i.fn < 64 := by
  delta Instr.opcode Instr.fn
  cases i with dsimp only
  | lds m a | sts m a | ldsf m a | tld m a => cases h; cases a <;> exact ⟨rfl, by decide⟩
  | stg m a b => cases h; cases a <;> cases b <;> exact ⟨rfl, by decide⟩
  | atoms m op a => cases h; cases op <;> cases a <;> exact ⟨rfl, by decide⟩
  | atomx m op | redgSh m op => cases h; cases op <;> exact ⟨rfl, by decide⟩
  | atomg m op a b | redg m op a b => cases h; cases op <;> cases a <;> cases b <;> exact ⟨rfl, by decide⟩
  | _ => cases h <;> exact ⟨rfl, by decide⟩

/-- Does the opcode take format M? -/
def takesM (op : Nat) : Bool := op != 0 && assigned op && !isFmtB op && isFmtM op

/-- The opcode of a format-M instruction takes format M. -/
theorem takesM_opcode {i : Instr} {m : MWord} (h : i.mword? = some m) : takesM i.opcode = true := by
  cases i <;> cases h <;> rfl

theorem head_of_mword {i : Instr} {m : MWord} (h : i.mword? = some m) : i.head? = some m.head := by
  cases i <;> cases h <;> rfl

theorem body_of_mword {i : Instr} {m : MWord} (h : i.mword? = some m) :
    i.body = MBody.toBody ⟨m.ds, m.base, m.ch, BitVec.ofNat 3 m.size.code, m.bk, BitVec.ofNat 6 i.fn, m.ofs⟩ := by
  cases i <;> cases h <;> rfl

/-- A bare word leaves its unused fields zero; any other format-R instruction has an operand word. -/
theorem rword_or_ok_of_rform {i : Instr} {r : RWord} (h : i.rform? = some r) : i.rword? = some r ∨ r.ok i.uses = true := by
  cases i <;> cases h <;> first | exact .inl rfl | exact .inr rfl

/-- What a well-formed word other than ILL has passed (R68, R76). -/
theorem parts_of_wf {i : Instr} (hne : ∀ h b, i ≠ .ill h b) (hwf : i.wf = true) :
    (∀ h, i.head? = some h → h.ok = true) ∧ (∀ r, i.rword? = some r → r.ok i.uses = true) := by
  unfold Instr.wf at hwf
  split at hwf
  · exact absurd rfl (hne _ _)
  simp only [Bool.and_eq_true] at hwf
  obtain ⟨⟨⟨hh, hr⟩, _⟩, _⟩ := hwf
  exact ⟨fun h e => by simpa [e] using hh, fun r e => by simpa [e] using hr⟩

/-- Only ILL has opcode 0x00 among the instruction words (R89). -/
theorem ne_ill_of_opcode {i : Instr} (h0 : i.opcode ≠ 0) (h : Head) (b : BitVec 46) : i ≠ .ill h b := by
  rintro rfl
  exact h0 rfl

/-- The last checks let through a well-formed word whose FN is its own. -/
theorem accept_fn {i : Instr} (h0 : i.opcode ≠ 0) (hwf : i.wf = true) : accept i.fn i = .ok i := by
  obtain ⟨hh, -⟩ := parts_of_wf (ne_ill_of_opcode h0) hwf
  unfold accept
  rw [if_neg (fun h => h rfl), if_neg, if_pos hwf]
  cases e : i.head? with
  | none => decide
  | some h => simp [hh h e]

/-- What the last checks let through. -/
theorem of_accept {fn : Nat} {i j : Instr} (h : accept fn i = .ok j) : i = j ∧ i.fn = fn ∧ i.wf = true := by
  unfold accept at h
  split at h
  · cases h
  split at h
  · cases h
  split at h
  · next hfn _ hwf => exact ⟨Except.ok.inj h, not_not.1 hfn, hwf⟩
  · cases h

/-! ## Format B (R125, R127, R137) -/

/-- The format-B body by which an instruction is encoded. -/
def Instr.bform? : Instr → Option BBody
  | .bra _ t ofs => some (t.toFields ofs)
  | .call _ u a ofs => some ⟨a, 0#4, if u then 1#2 else 0#2, ofs⟩
  | .jmark _ ofs => some ⟨0#8, 0#4, 0#2, ofs⟩
  | .ipf _ base n ofs => some ⟨base.getD 0#8, BitVec.ofNat 4 n.val, if base.isSome then 1#2 else 0#2, ofs⟩
  | _ => none

theorem BraTest.ofFields_toFields (t : BraTest) (ofs : BitVec 32) : BraTest.ofFields (t.toFields ofs) = some t := by
  cases t with
  | always => rfl
  | lane r cc | unif r cc => cases cc <;> rfl
  | mask m cc => cases cc <;> rfl

theorem SignCond.code_ofCode {n : Nat} (h : 1 ≤ n ∧ n ≤ 6) : (SignCond.ofCode n).code = n := by
  obtain ⟨h1, h6⟩ := h
  interval_cases n <;> rfl

theorem MaskCond.code_ofCode {n : Nat} (h : 1 ≤ n ∧ n ≤ 5) : (MaskCond.ofCode n).code = n := by
  obtain ⟨h1, h5⟩ := h
  interval_cases n <;> rfl

theorem BraTest.toFields_of_ofFields {b : BBody} {t : BraTest} (h : BraTest.ofFields b = some t) : t.toFields b.ofs = b := by
  obtain ⟨a, cond, kind, ofs⟩ := b
  unfold BraTest.ofFields at h
  split at h <;> split at h <;> cases h
  · next hk hz =>
    simp only [Bool.and_eq_true, beq_iff_eq] at hz
    simp only [toFields, BBody.mk.injEq]
    exact ⟨hz.1.symm, hz.2.symm, (BitVec.eq_of_toNat_eq hk).symm, trivial⟩
  · next hk hc =>
    have hk : kind = 1#2 := BitVec.eq_of_toNat_eq hk
    simp only [toFields, SignCond.code_ofCode hc, BitVec.ofNat_toNat, BitVec.setWidth_eq, hk]
  · next hk hc =>
    have hk : kind = 2#2 := BitVec.eq_of_toNat_eq hk
    simp only [toFields, SignCond.code_ofCode hc, BitVec.ofNat_toNat, BitVec.setWidth_eq, hk]
  · next h0 h1 h2 hc =>
    have h0 : kind.toNat ≠ 0 := h0
    have h1 : kind.toNat ≠ 1 := h1
    have h2 : kind.toNat ≠ 2 := h2
    have hk : kind = 3#2 := BitVec.eq_of_toNat_eq (by change _ = 3; omega)
    simp only [toFields, MaskCond.code_ofCode hc, BitVec.ofNat_toNat, BitVec.setWidth_eq, hk]

/-- The opcode and the fields of a format-B instruction name it. -/
theorem candB_bform {i : Instr} {h : Head} {b : BBody} (hh : i.head? = some h) (hb : i.bform? = some b) :
    candB i.opcode h b = some i := by
  cases i with
  | bra h t ofs =>
    cases hh; cases hb
    change (BraTest.ofFields (t.toFields ofs)).map (fun u => Instr.bra h u (t.toFields ofs).ofs) = _
    rw [t.ofFields_toFields]
    cases t <;> rfl
  | call h u a ofs => cases hh; cases hb; cases u <;> rfl
  | jmark h ofs => cases hh; cases hb; rfl
  | ipf h base n ofs =>
    cases hh; cases hb
    have hn : (⟨(BitVec.ofNat 4 n.val).toNat, (BitVec.ofNat 4 n.val).isLt⟩ : Fin 16) = n := Fin.ext (by simp)
    cases base <;> exact congrArg (fun k => some (Instr.ipf h _ k ofs)) hn
  | _ => cases hb

/-- The opcode, the body and the subcode of a format-B instruction. -/
theorem fmtB_of_bform {i : Instr} {b : BBody} (hb : i.bform? = some b) :
    isFmtB i.opcode = true ∧ i.body = b.toBody ∧ i.fn = 0 := by
  cases i <;> cases hb <;> exact ⟨rfl, rfl, rfl⟩

/-- What a format-B opcode and its fields name is encoded by them. -/
theorem bform_of_candB {op : Nat} {h : Head} {b : BBody} {i : Instr} (hi : candB op h b = some i) :
    i.opcode = op ∧ i.head? = some h ∧ i.bform? = some b := by
  unfold candB at hi
  split at hi
  · obtain ⟨t, ht, rfl⟩ := Option.map_eq_some_iff.1 hi
    exact ⟨rfl, rfl, congrArg some (BraTest.toFields_of_ofFields ht)⟩
  · obtain ⟨a, cond, kind, ofs⟩ := b
    simp only [Bool.and_eq_true, beq_iff_eq] at hi
    split at hi
    · next hz => obtain ⟨rfl, rfl⟩ := hz; cases hi; exact ⟨rfl, rfl, rfl⟩
    split at hi
    · next hz => obtain ⟨rfl, rfl⟩ := hz; cases hi; exact ⟨rfl, rfl, rfl⟩
    · cases hi
  · obtain ⟨a, cond, kind, ofs⟩ := b
    simp only [Bool.and_eq_true, beq_iff_eq] at hi
    split at hi
    · next hz => obtain ⟨⟨rfl, rfl⟩, rfl⟩ := hz; cases hi; exact ⟨rfl, rfl, rfl⟩
    · cases hi
  · obtain ⟨a, cond, kind, ofs⟩ := b
    simp only [Bool.and_eq_true, beq_iff_eq] at hi
    split at hi
    · next hz => 
      obtain ⟨rfl, rfl⟩ := hz; cases hi; refine ⟨rfl, rfl, ?_⟩; simp [Instr.bform?]
    split at hi
    · next hz => subst hz; cases hi; refine ⟨rfl, rfl, ?_⟩; simp [Instr.bform?]
    · cases hi
  · cases hi

/-! ## Format R -/

/-- A word all of whose operand fields are unused is bare. -/
theorem eq_bare_of_ok_unif {r : RWord} (h : r.ok (.none .unif) = true) : r = ⟨r.head, 0#8, .zero, .zero, .zero, true⟩ := by
  obtain ⟨hd, d, a, b, c, u⟩ := r
  simp_all [RWord.ok, Uses.none]

/-- The same for a word with U = 0. -/
theorem eq_bare_of_ok_lane {r : RWord} (h : r.ok (.none .lane) = true) : r = ⟨r.head, 0#8, .zero, .zero, .zero, false⟩ := by
  obtain ⟨hd, d, a, b, c, u⟩ := r
  simp_all [RWord.ok, Uses.none]

/-- What an opcode and FN of format R name is encoded by them, where the unused fields are zero. -/
theorem rform_of_candR {op fn : Nat} {r : RWord} {i : Instr} (hi : candR op fn r = some i) (hok : r.ok i.uses = true) :
    i.opcode = op ∧ i.rform? = some r := by
  unfold candR at hi
  split at hi
  all_goals first | cases hi | delta candR0 candR1 candR2 candR3 candR4 candR5 candR6 candR7 at hi
  all_goals split at hi
  all_goals try split at hi
  all_goals cases hi
  all_goals first
    | exact ⟨rfl, rfl⟩
    | exact ⟨rfl, congrArg some (eq_bare_of_ok_lane hok).symm⟩
    | exact ⟨rfl, congrArg some (eq_bare_of_ok_unif hok).symm⟩

/-! ## Format M -/

/-- What an opcode and OP of format M name is encoded by them. -/
theorem mword_of_candM {op fn : Nat} {m : MWord} {i : Instr} (hi : candM op fn m = some i) :
    i.opcode = op ∧ i.mword? = some m := by
  unfold candM at hi
  split at hi
  all_goals try split at hi
  all_goals cases hi
  all_goals exact ⟨rfl, rfl⟩

/-! ## The decoder, one equivalence for each format -/

theorem decodeWord_ill {w : BitVec 64} (h : (Raw.ofWord w).opcode.toNat = 0) :
    decodeWord w = .ok (.ill (Raw.ofWord w).head (Raw.ofWord w).body) := by
  simp only [decodeWord, h, if_true]

theorem decodeWord_B {w : BitVec 64} {i : Instr} (h : isFmtB (Raw.ofWord w).opcode.toNat = true) : decodeWord w = .ok i ↔
    ∃ j, candB (Raw.ofWord w).opcode.toNat (Raw.ofWord w).head (BBody.ofBody (Raw.ofWord w).body) = some j ∧
      accept 0 j = .ok i := by
  have h0 : (Raw.ofWord w).opcode.toNat ≠ 0 := fun e => by rw [e] at h; cases h
  have ha : assigned (Raw.ofWord w).opcode.toNat = true := by
    simp only [isFmtB, Bool.or_eq_true, beq_iff_eq] at h
    rcases h with ((e | e) | e) | e <;> rw [e] <;> rfl
  simp only [decodeWord, if_neg h0, ha, h, Bool.not_true, Bool.false_eq_true, if_false, if_true]
  split <;> simp [*]

/-- The fields of a word's format-M body, with SIZE read. -/
def mFields (w : BitVec 64) : MWord :=
  let m := MBody.ofBody (Raw.ofWord w).body
  ⟨(Raw.ofWord w).head, m.ds, m.base, m.ch, Size.ofCode m.size.toNat, m.bk, m.ofs⟩

theorem decodeWord_M {w : BitVec 64} {i : Instr} (h : takesM (Raw.ofWord w).opcode.toNat = true) : decodeWord w = .ok i ↔
    (MBody.ofBody (Raw.ofWord w).body).size.toNat < 5 ∧ ∃ j,
      candM (Raw.ofWord w).opcode.toNat (MBody.ofBody (Raw.ofWord w).body).op.toNat (mFields w) = some j ∧
      accept (MBody.ofBody (Raw.ofWord w).body).op.toNat j = .ok i := by
  simp only [takesM, Bool.and_eq_true, bne_iff_ne, Bool.not_eq_true'] at h
  obtain ⟨⟨⟨h0, ha⟩, hb⟩, hm⟩ := h
  simp only [decodeWord, if_neg h0, ha, hb, hm, Bool.not_true, Bool.false_eq_true, if_false, if_true]
  split
  · simp; omega
  · change (match candM _ _ (mFields w) with | none => _ | some i => _) = _ ↔ _
    split <;> simp [*]; omega

theorem decodeWord_K {w : BitVec 64} {i : Instr} (h : (Raw.ofWord w).opcode.toNat = 0x38) : decodeWord w = .ok i ↔
    let k := KBody.ofBody (Raw.ofWord w).body
    accept k.op.toNat (.movi ⟨(Raw.ofWord w).head, k.d, k.u, k.imm⟩ (MoviExt.ofCode k.op.toNat)) = .ok i := by
  simp only [decodeWord, h]
  exact Iff.rfl

theorem decodeWord_I {w : BitVec 64} {i : Instr} (h : (Raw.ofWord w).opcode.toNat = 0x3E) : decodeWord w = .ok i ↔
    let k := IBody.ofBody (Raw.ofWord w).body
    accept k.op.toNat (.iaddi ⟨(Raw.ofWord w).head, k.d, k.a, k.u, k.imm⟩ (k.op.toNat.testBit 0)) = .ok i := by
  simp only [decodeWord, h]
  exact Iff.rfl

theorem decodeWord_R {w : BitVec 64} {i : Instr} (h : takesR (Raw.ofWord w).opcode.toNat = true) : decodeWord w = .ok i ↔
    let b := RBody.ofBody (Raw.ofWord w).head (Raw.ofWord w).body
    ∃ j, candR (Raw.ofWord w).opcode.toNat b.fn.toNat b.word = some j ∧ b.word.ok j.uses = true ∧
      accept b.fn.toNat j = .ok i := by
  simp only [takesR, Bool.and_eq_true, bne_iff_ne, Bool.not_eq_true'] at h
  obtain ⟨⟨⟨⟨⟨h0, ha⟩, hb⟩, hm⟩, hk⟩, hi⟩ := h
  simp only [decodeWord, if_neg h0, if_neg hk, if_neg hi, ha, hb, hm, Bool.not_true, Bool.false_eq_true, if_false]
  split
  · simp [*]
  · split <;> simp [*]

/-- The format of a word that decodes (R70, R88). -/
theorem format_of_decodes {w : BitVec 64} {i : Instr} {op : Nat} (hop : (Raw.ofWord w).opcode.toNat = op)
    (h : decodeWord w = .ok i) :
    op = 0 ∨ isFmtB op = true ∨ takesM op = true ∨ op = 0x38 ∨ op = 0x3E ∨ takesR op = true := by
  by_cases h0 : op = 0
  · exact .inl h0
  cases ha : assigned op with
  | false => simp [decodeWord, hop, if_neg h0, ha] at h
  | true =>
    simp only [takesM, takesR, Bool.and_eq_true, bne_iff_ne, Bool.not_eq_true', ha]
    cases isFmtB op <;> cases isFmtM op <;> simp <;> omega

/-! ## Encoding what was decoded -/

/-- The encoding of an instruction by its head, its opcode and its body (R67). -/
theorem encode_eq {w : BitVec 64} {i : Instr} (hh : i.head? = some (Raw.ofWord w).head)
    (hop : i.opcode = (Raw.ofWord w).opcode.toNat) (hb : i.body = (Raw.ofWord w).body) : encode i = some w := by
  rw [encode, hh, hop, hb, BitVec.ofNat_toNat, BitVec.setWidth_eq]
  exact congrArg some (Raw.toWord_ofWord w)

theorem encode_of_decodes_B {w : BitVec 64} {i : Instr} (hf : isFmtB (Raw.ofWord w).opcode.toNat = true)
    (h : decodeWord w = .ok i) : i.wf = true ∧ encode i = some w := by
  obtain ⟨j, hj, hacc⟩ := (decodeWord_B hf).1 h
  obtain ⟨rfl, -, hwf⟩ := of_accept hacc
  obtain ⟨hop, hh, hb⟩ := bform_of_candB hj
  obtain ⟨-, hbody, -⟩ := fmtB_of_bform hb
  exact ⟨hwf, encode_eq hh hop (by rw [hbody, BBody.toBody_ofBody])⟩

theorem encode_of_decodes_M {w : BitVec 64} {i : Instr} (hf : takesM (Raw.ofWord w).opcode.toNat = true)
    (h : decodeWord w = .ok i) : i.wf = true ∧ encode i = some w := by
  obtain ⟨hsize, j, hj, hacc⟩ := (decodeWord_M hf).1 h
  obtain ⟨rfl, hfn, hwf⟩ := of_accept hacc
  obtain ⟨hop, hm⟩ := mword_of_candM hj
  refine ⟨hwf, encode_eq (head_of_mword hm) hop ?_⟩
  rw [body_of_mword hm, hfn]
  simp only [mFields, Size.code_ofCode hsize, BitVec.ofNat_toNat, BitVec.setWidth_eq]
  exact MBody.toBody_ofBody _

theorem encode_of_decodes_R {w : BitVec 64} {i : Instr} (hf : takesR (Raw.ofWord w).opcode.toNat = true)
    (h : decodeWord w = .ok i) : i.wf = true ∧ encode i = some w := by
  obtain ⟨j, hj, hok, hacc⟩ := (decodeWord_R hf).1 h
  obtain ⟨rfl, hfn, hwf⟩ := of_accept hacc
  obtain ⟨hop, hr⟩ := rform_of_candR hj hok
  refine ⟨hwf, encode_eq (head_of_rform hr) hop ?_⟩
  rw [body_of_rform hr, hfn, BitVec.ofNat_toNat, BitVec.setWidth_eq]
  exact RBody.toBody_ofBody (Raw.ofWord w).head _

theorem encode_of_decodes_K {w : BitVec 64} {i : Instr} (hf : (Raw.ofWord w).opcode.toNat = 0x38) (h : decodeWord w = .ok i) :
    i.wf = true ∧ encode i = some w := by
  obtain ⟨rfl, hfn, hwf⟩ := of_accept ((decodeWord_K hf).1 h)
  refine ⟨hwf, encode_eq rfl hf.symm ?_⟩
  change KBody.toBody ⟨_, _, BitVec.ofNat 5 (MoviExt.code _), _⟩ = _
  rw [show MoviExt.code _ = _ from hfn, BitVec.ofNat_toNat, BitVec.setWidth_eq]
  exact KBody.toBody_ofBody _

theorem encode_of_decodes_I {w : BitVec 64} {i : Instr} (hf : (Raw.ofWord w).opcode.toNat = 0x3E) (h : decodeWord w = .ok i) :
    i.wf = true ∧ encode i = some w := by
  obtain ⟨rfl, hfn, hwf⟩ := of_accept ((decodeWord_I hf).1 h)
  refine ⟨hwf, encode_eq rfl hf.symm ?_⟩
  change IBody.toBody ⟨_, _, _, BitVec.ofNat 5 (Bool.toNat _), _⟩ = _
  rw [show Bool.toNat _ = _ from hfn, BitVec.ofNat_toNat, BitVec.setWidth_eq]
  exact IBody.toBody_ofBody _

/-- Settles O52. -/
theorem encodeDecode : Obligations.EncodeDecode := by
  intro w i h
  rcases format_of_decodes rfl h with hf | hf | hf | hf | hf | hf
  · cases (decodeWord_ill hf).symm.trans h
    exact ⟨rfl, encode_eq rfl hf.symm rfl⟩
  · exact encode_of_decodes_B hf h
  · exact encode_of_decodes_M hf h
  · exact encode_of_decodes_K hf h
  · exact encode_of_decodes_I hf h
  · exact encode_of_decodes_R hf h

/-! ## Decoding what was encoded -/

/-- The fields of an encoded word (R67). -/
theorem fields_of_encode {w : BitVec 64} {i : Instr} (h : encode i = some w) :
    i.head? = some (Raw.ofWord w).head ∧ (Raw.ofWord w).opcode = BitVec.ofNat 8 i.opcode ∧ (Raw.ofWord w).body = i.body := by
  obtain ⟨hd, hh, rfl⟩ := Option.map_eq_some_iff.1 h
  rw [Raw.ofWord_toWord]
  exact ⟨hh, rfl, rfl⟩

theorem opcode_lt (i : Instr) : i.opcode < 256 :=
  have h : decide (i.opcode < 256) = true := by cases i <;> rfl
  of_decide_eq_true h

theorem opcode_of_encode {w : BitVec 64} {i : Instr} (h : encode i = some w) : (Raw.ofWord w).opcode.toNat = i.opcode := by
  obtain ⟨-, hop, -⟩ := fields_of_encode h
  rw [hop, BitVec.toNat_ofNat, Nat.mod_eq_of_lt (opcode_lt i)]

theorem ne_zero_of_takesR {op : Nat} (h : takesR op = true) : op ≠ 0 := by rintro rfl; cases h

theorem ne_zero_of_takesM {op : Nat} (h : takesM op = true) : op ≠ 0 := by rintro rfl; cases h

theorem ne_zero_of_isFmtB {op : Nat} (h : isFmtB op = true) : op ≠ 0 := by rintro rfl; cases h

theorem decodes_of_rform {w : BitVec 64} {i : Instr} {r : RWord} (hr : i.rform? = some r) (hwf : i.wf = true)
    (h : encode i = some w) : decodeWord w = .ok i := by
  obtain ⟨hh, -, hbody⟩ := fields_of_encode h
  have hop := opcode_of_encode h
  have hf := takesR_opcode hr
  obtain ⟨hcand, hfn⟩ := candR_fn hr
  have hok : r.ok i.uses = true :=
    (rword_or_ok_of_rform hr).elim ((parts_of_wf (ne_ill_of_opcode (ne_zero_of_takesR hf)) hwf).2 r) id
  have hb : RBody.ofBody (Raw.ofWord w).head (Raw.ofWord w).body = ⟨r, BitVec.ofNat 7 i.fn⟩ := by
    rw [hbody, body_of_rform hr, Option.some.inj (hh.symm.trans (head_of_rform hr))]
    exact RBody.ofBody_toBody ⟨r, _⟩
  have hfn' : (BitVec.ofNat 7 i.fn).toNat = i.fn := Nat.mod_eq_of_lt hfn
  refine (decodeWord_R (by rw [hop]; exact hf)).2 ⟨i, ?_⟩
  rw [hop, hb, hfn']
  exact ⟨hcand, hok, accept_fn (ne_zero_of_takesR hf) hwf⟩

theorem decodes_of_mword {w : BitVec 64} {i : Instr} {m : MWord} (hm : i.mword? = some m) (hwf : i.wf = true)
    (h : encode i = some w) : decodeWord w = .ok i := by
  obtain ⟨hh, -, hbody⟩ := fields_of_encode h
  have hop := opcode_of_encode h
  have hf := takesM_opcode hm
  obtain ⟨hcand, hfn⟩ := candM_fn hm
  have hb : MBody.ofBody (Raw.ofWord w).body =
      ⟨m.ds, m.base, m.ch, BitVec.ofNat 3 m.size.code, m.bk, BitVec.ofNat 6 i.fn, m.ofs⟩ := by
    rw [hbody, body_of_mword hm, MBody.ofBody_toBody]
  have hfn' : (BitVec.ofNat 6 i.fn).toNat = i.fn := Nat.mod_eq_of_lt hfn
  have hsize : (BitVec.ofNat 3 m.size.code).toNat = m.size.code := Nat.mod_eq_of_lt (by have := m.size.code_lt; omega)
  have hfields : mFields w = m := by
    simp only [mFields, hb, hsize, m.size.ofCode_code, Option.some.inj (hh.symm.trans (head_of_mword hm))]
  refine (decodeWord_M (by rw [hop]; exact hf)).2 ⟨?_, i, ?_⟩
  · rw [hb]; exact hsize.trans_lt m.size.code_lt
  rw [hop, hb, hfields, hfn']
  exact ⟨hcand, accept_fn (ne_zero_of_takesM hf) hwf⟩

theorem decodes_of_bform {w : BitVec 64} {i : Instr} {b : BBody} (hb : i.bform? = some b) (hwf : i.wf = true)
    (h : encode i = some w) : decodeWord w = .ok i := by
  obtain ⟨hh, -, hbody⟩ := fields_of_encode h
  have hop := opcode_of_encode h
  obtain ⟨hf, hbody', hfn⟩ := fmtB_of_bform hb
  refine (decodeWord_B (by rw [hop]; exact hf)).2 ⟨i, ?_, hfn ▸ accept_fn (ne_zero_of_isFmtB hf) hwf⟩
  rw [hop, hbody, hbody', BBody.ofBody_toBody]
  exact candB_bform hh hb

theorem MoviExt.ofCode_code (e : MoviExt) : MoviExt.ofCode e.code = e := by cases e <;> rfl

theorem decodes_of_movi {w : BitVec 64} {k : KWord} {e : MoviExt} (hwf : (Instr.movi k e).wf = true)
    (h : encode (.movi k e) = some w) : decodeWord w = .ok (.movi k e) := by
  obtain ⟨hh, -, hbody⟩ := fields_of_encode h
  have hb : KBody.ofBody (Raw.ofWord w).body = ⟨k.d, k.u, BitVec.ofNat 5 e.code, k.imm⟩ := by
    rw [hbody]; exact KBody.ofBody_toBody _
  have he : (BitVec.ofNat 5 e.code).toNat = e.code := by cases e <;> rfl
  refine (decodeWord_K (opcode_of_encode h)).2 ?_
  simp only [hb, he, e.ofCode_code, ← Option.some.inj hh]
  exact accept_fn (fun e => by cases e) hwf

theorem decodes_of_iaddi {w : BitVec 64} {k : IWord} {b : Bool} (hwf : (Instr.iaddi k b).wf = true)
    (h : encode (.iaddi k b) = some w) : decodeWord w = .ok (.iaddi k b) := by
  obtain ⟨hh, -, hbody⟩ := fields_of_encode h
  have hb : IBody.ofBody (Raw.ofWord w).body = ⟨k.d, k.a, k.u, BitVec.ofNat 5 b.toNat, k.imm⟩ := by
    rw [hbody]; exact IBody.ofBody_toBody _
  have hw : (BitVec.ofNat 5 b.toNat).toNat = b.toNat ∧ b.toNat.testBit 0 = b := by cases b <;> exact ⟨rfl, rfl⟩
  refine (decodeWord_I (opcode_of_encode h)).2 ?_
  simp only [hb, hw.1, hw.2, ← Option.some.inj hh]
  exact accept_fn (fun e => by cases e) hwf

/-- Every instruction word has one of the forms of R70. -/
theorem form_cases (i : Instr) : (∃ h b, i = .ill h b) ∨ i.head? = none ∨ i.rform?.isSome = true ∨
    i.mword?.isSome = true ∨ i.bform?.isSome = true ∨ (∃ k e, i = .movi k e) ∨ ∃ k b, i = .iaddi k b := by
  cases i with
  | ill h b => exact .inl ⟨h, b, rfl⟩
  | movi k e => exact .inr (.inr (.inr (.inr (.inr (.inl ⟨k, e, rfl⟩)))))
  | iaddi k b => exact .inr (.inr (.inr (.inr (.inr (.inr ⟨k, b, rfl⟩)))))
  | bra | call | jmark | ipf => exact .inr (.inr (.inr (.inr (.inl rfl))))
  | lds | sts | atoms | ldsf | ldx | stx | atomx | ldk | stk | tld | stg | atomg | redg | redgSh | accld | accst =>
    exact .inr (.inr (.inr (.inl rfl)))
  | _ => first | exact .inr (.inl rfl) | exact .inr (.inr (.inl rfl))

/-- Settles O51. -/
theorem decodeEncode : Obligations.DecodeEncode := by
  intro i w hwf h
  rcases form_cases i with ⟨hd, b, rfl⟩ | hn | hr | hm | hb | ⟨k, e, rfl⟩ | ⟨k, b, rfl⟩
  · obtain ⟨hh, -, hbody⟩ := fields_of_encode h
    rw [decodeWord_ill (opcode_of_encode h), hbody, ← Option.some.inj hh]
    rfl
  · rw [encode, hn] at h
    cases h
  · exact decodes_of_rform (Option.get_mem hr) hwf h
  · exact decodes_of_mword (Option.get_mem hm) hwf h
  · exact decodes_of_bform (Option.get_mem hb) hwf h
  · exact decodes_of_movi hwf h
  · exact decodes_of_iaddi hwf h

/-- Settles O53. -/
theorem decodeWords : Obligations.DecodeWords := by
  refine ⟨rfl, rfl, rfl, rfl, rfl, rfl, rfl, rfl, rfl, rfl, rfl, rfl, rfl, rfl, rfl, rfl, rfl⟩

end Sys2Proof

namespace Sys2Proof.Machine

/-! ## A slot's turn (R106, R134, R137, R437) -/

/-- A step in which nothing is due and a bay picks a slot is that slot's turn. -/
theorem step_of_nextSlot {s u : State} {crs j : Nat} (h : s.nextSlot u crs j) : step s = bump (u.slotTurn crs j) := by
  obtain ⟨hdue, ⟨core, bay, rest, hagenda, rfl, hpick⟩ | ⟨hagenda, rfl, h, c, t, hcourses, hpick⟩⟩ := h
  · simp only [step, State.advanceOne, hdue, hagenda, State.turn, State.bayTurn, hpick, Option.map_some, Option.getD_some]
  · simp only [step, State.advanceOne, hdue, hagenda, State.ownTurn, State.anyBay, hcourses, List.findSome?_cons, State.bayTurn,
      hpick, Option.map_some]

section
variable {u : State} {crs j : Nat} {v : State} (hv : v = { u with cur := ⟨crs, j, false⟩ })
include hv

theorem slotTurn_refusal {t : TrapRec} (h : (v.course crs).nextRefusal j = some t) :
    u.slotTurn crs j = .next (v.takeRefusal crs j t) := by
  subst hv
  simp only [State.slotTurn, h]

variable {l : ILine} (hno : (v.course crs).nextRefusal j = none)
  (hl : v.lineOf (v.course crs) ((v.course crs).slotN j).pc = some l)
include hno hl

theorem slotTurn_badLine (hbad : l.bad ≠ []) : u.slotTurn crs j = .next (v.badLine crs j l) := by
  subst hv
  simp only [State.slotTurn, hno, hl, ILine.isBad, List.isEmpty_eq_false_iff.2 hbad, Bool.not_false, if_true]

theorem slotTurn_error {e : DecodeError} (hok : l.bad = []) (hd : decodeWord (l.word ((v.course crs).slotN j).pc) = .error e) :
    u.slotTurn crs j = .next ((v.touchLine (v.course crs).core l).undecoded (l.word ((v.course crs).slotN j).pc)) := by
  subst hv
  simp [State.slotTurn, hno, hl, ILine.isBad, hok, hd]

theorem slotTurn_word {i : Instr} (hok : l.bad = []) (hd : decodeWord (l.word ((v.course crs).slotN j).pc) = .ok i) :
    u.slotTurn crs j = (v.touchLine (v.course crs).core l).issueWord i := by
  subst hv
  simp [State.slotTurn, hno, hl, ILine.isBad, hok, hd]

end

/-- A word that asks for a pair and finds no partner issues alone, and the event is counted (R118). -/
theorem issuePair_alone {t y : State} {i : Instr} (he : exec i t = .next y) (hy : y.hasIssued = true) (hp : t.partner i = none) :
    t.issuePair i = .next y.fallback := by
  simp only [State.issuePair, he, hy, hp, Bool.not_true, Bool.false_eq_true, if_false]

/-- Settles O54: a step is the turn of the slot that is picked, and a case for each outcome of that turn. -/
theorem stepRunsWord : Obligations.StepRunsWord := by
  intro s u crs j h
  rw [step_of_nextSlot h]
  refine ⟨fun t ht => congrArg bump (slotTurn_refusal rfl ht),
    fun l hno hl hbad => congrArg bump (slotTurn_badLine rfl hno hl hbad), fun l hno hl hok => ⟨fun e hd => ?_, fun i hd hp => ?_,
      fun i hd hp => ?_, fun i y hd hp he _ hy hpart => ?_⟩⟩
  · exact congrArg bump (slotTurn_error rfl hno hl hok hd)
  all_goals rw [slotTurn_word rfl hno hl hok hd, State.issueWord, hp]
  · rfl
  · rfl
  · exact congrArg bump (issuePair_alone he hy hpart)

end Sys2Proof.Machine

namespace Sys2Proof.Machine

/-! ## Words issue (R86) -/

theorem span_empty {x : Ctx} (u : Bool) (h : x.act = 0#32) : x.span u = [] := by
  rw [span_eq, computing, h]; cases u <;> rfl

theorem deliverU_empty (s : State) {x : Ctx} (d w v : Nat) (h : x.act = 0#32) : s.deliverU x d w v = .go s := if_pos h

/-- Every word issues through the checks of R86, and a channel word with no active lane leaves the state (R300, R324). -/
theorem issues_of_head {i : Instr} {h : Head} (hi : i.head? = some h) : ∃ b : State → Ctx → Res,
    (∀ s, exec i s = s.issue i h (b s)) ∧ ∀ s x, idles i x = true → b s x = .go s := by
  cases i with
  | stg | atomg | redg | redgSh =>
    cases hi
    exact ⟨_, fun _ => rfl, fun s x hx => writeChecks_idle (by simpa [idles] using hx)⟩
  | cjoin | cdrain | creset | evwait | evwaitRd | evadd =>
    cases hi
    exact ⟨_, fun _ => rfl, fun s x hx => if_pos (by simpa [idles] using hx)⟩
  | cstat | cstatAddr | cstatWhere =>
    cases hi
    exact ⟨_, fun _ => rfl, fun s x hx => deliverU_empty s _ _ _ (by simpa [idles] using hx)⟩
  | locq r =>
    cases hi
    refine ⟨_, fun _ => rfl, fun s x hx => ?_⟩
    have hact : x.act = 0#32 := by simpa [idles] using hx
    simp [span_empty r.u hact, State.lateWord, hact, State.tlbFill]
  | _ => cases hi <;> exact ⟨_, fun _ => rfl, fun s x hx => by simp [idles] at hx⟩

theorem act_of_idles {i : Instr} {x : Ctx} (h : idles i x = true) : x.act = 0#32 := by
  simp only [idles, Bool.and_eq_true, beq_iff_eq] at h
  exact h.1

/-- The words of the channel opcodes idle with an empty Active(). -/
theorem idles_of_opcode {i : Instr} {x : Ctx} (h : x.act = 0#32) (hlo : 0xA0 ≤ i.opcode) (hhi : i.opcode ≤ 0xA9) :
    idles i x = true := by
  obtain ⟨crs, j, hd, sup, act, pc, ftz⟩ := x
  cases h
  have key : (!decide (0xA0 ≤ i.opcode ∧ i.opcode ≤ 0xA9) || idles i ⟨crs, j, hd, sup, 0#32, pc, ftz⟩) = true := by
    cases i <;> rfl
  simpa [hlo, hhi] using key

/-- No source is poisoned in an empty Active(). -/
theorem poisoned_empty (s : State) (c : Course) {x : Ctx} (fs : List Field) (h : x.act = 0#32) : s.poisoned c x fs = none := by
  have hl : lanesOf x.act = [] := by rw [h]; rfl
  have hf : ∀ f, s.fieldPoison c x f = none := fun f => by
    cases f <;> simp [State.fieldPoison, hl, Field.laneReads]
  simp [State.poisoned, hf]

theorem not_unprivileged {i : Instr} {x : Ctx} (hp : privileged i = true → x.sup = true) : ¬ (privileged i && !x.sup) = true := by
  intro e
  simp only [Bool.and_eq_true, Bool.not_eq_true'] at e
  simp [hp e.1] at e

section
variable {s : State} {i : Instr} {h : Head} (hi : i.head? = some h)
include hi

theorem exec_not_atIssue (hat : s.atIssue = false) : exec i s = .next s := by
  obtain ⟨b, hx, -⟩ := issues_of_head hi
  rw [hx, State.issue, hat]; rfl

variable (hat : s.atIssue = true)
include hat

/-- What a word at issue answers. -/
theorem exec_atIssue : ∃ b : Ctx → Res, exec i s = .next (s.settle (s.wordCtx h) (s.checkWord i (s.wordCtx h) b)) ∧
    (idles i (s.wordCtx h) = true → b (s.wordCtx h) = .go s) := by
  obtain ⟨b, hx, hidle⟩ := issues_of_head hi
  exact ⟨b s, by rw [hx, State.issue, if_pos hat], hidle s _⟩

theorem exec_privileged (hp : privileged i = true) (hs : (s.wordCtx h).sup = false) :
    exec i s = s.trapped (s.wordCtx h) ((s.wordCtx h).trap 0x03) := by
  obtain ⟨b, hx, -⟩ := exec_atIssue hi hat
  rw [hx, State.checkWord, if_pos (by rw [hp, hs]; rfl)]
  rfl

variable (hp : privileged i = true → (s.wordCtx h).sup = true)
include hp

theorem exec_illegalOperand (hf : i.fields.all (fun f => f.ok (s.limits (s.issuer (s.wordCtx h)) (s.wordCtx h).sup)) = false) :
    exec i s = s.trapped (s.wordCtx h) (s.wordCtx h).illegalOperand := by
  obtain ⟨b, hx, -⟩ := exec_atIssue hi hat
  rw [hx, State.checkWord, if_neg (not_unprivileged hp), if_pos (by rw [hf]; rfl)]
  rfl

variable (hf : i.fields.all (fun f => f.ok (s.limits (s.issuer (s.wordCtx h)) (s.wordCtx h).sup)) = true)
include hf

/-- A word whose operands are legal: what comes after order 4 of R86. -/
theorem exec_legal : ∃ b : Ctx → Res, (idles i (s.wordCtx h) = true → b (s.wordCtx h) = .go s) ∧
    exec i s = .next (s.settle (s.wordCtx h)
      (if idles i (s.wordCtx h) then b (s.wordCtx h)
      else if (s.issuer (s.wordCtx h)).destEmpty (s.wordCtx h) i.fields then .block true
      else if (s.issuer (s.wordCtx h)).sourceEmpty (s.wordCtx h) i.fields then
        (if h.e then .trap ((s.wordCtx h).trap 0x09) else .block true)
      else if i.ownPoison then b (s.wordCtx h)
      else (s.poisoned (s.issuer (s.wordCtx h)) (s.wordCtx h) i.fields).elim (b (s.wordCtx h))
        (fun p => .trap ((s.wordCtx h).dataError p)))) := by
  obtain ⟨b, hx, hidle⟩ := exec_atIssue hi hat
  refine ⟨b, hidle, hx.trans (congrArg (fun r => Host.Outcome.next (s.settle (s.wordCtx h) r)) ?_)⟩
  rw [State.checkWord, if_neg (not_unprivileged hp), if_neg (by rw [hf]; decide)]
  cases s.poisoned (s.issuer (s.wordCtx h)) (s.wordCtx h) i.fields <;> rfl

theorem exec_destEmpty (hn : idles i (s.wordCtx h) = false)
    (hd : (s.issuer (s.wordCtx h)).destEmpty (s.wordCtx h) i.fields = true) : exec i s = s.blocked (s.wordCtx h) true := by
  obtain ⟨b, -, hx⟩ := exec_legal hi hat hp hf
  rw [hx, hn, hd]
  rfl

theorem exec_sourceEmpty (hn : idles i (s.wordCtx h) = false)
    (hd : (s.issuer (s.wordCtx h)).destEmpty (s.wordCtx h) i.fields = false)
    (hs : (s.issuer (s.wordCtx h)).sourceEmpty (s.wordCtx h) i.fields = true) :
    exec i s = if h.e then s.trapped (s.wordCtx h) ((s.wordCtx h).trap 0x09) else s.blocked (s.wordCtx h) true := by
  obtain ⟨b, -, hx⟩ := exec_legal hi hat hp hf
  rw [hx, hn, hd, hs]
  cases h.e <;> rfl

theorem exec_idles (hn : idles i (s.wordCtx h) = true) : exec i s = s.went (s.wordCtx h) := by
  obtain ⟨b, hidle, hx⟩ := exec_legal hi hat hp hf
  rw [hx, if_pos hn, hidle hn]
  rfl

theorem exec_poisoned {p : Nat × Nat} (hd : (s.issuer (s.wordCtx h)).destEmpty (s.wordCtx h) i.fields = false)
    (hs : (s.issuer (s.wordCtx h)).sourceEmpty (s.wordCtx h) i.fields = false) (ho : i.ownPoison = false)
    (hpo : s.poisoned (s.issuer (s.wordCtx h)) (s.wordCtx h) i.fields = some p) :
    exec i s = s.trapped (s.wordCtx h) ((s.wordCtx h).dataError p) := by
  have hn : idles i (s.wordCtx h) = false := by
    by_contra hn
    rw [poisoned_empty _ _ _ (act_of_idles (eq_true_of_ne_false hn))] at hpo
    cases hpo
  obtain ⟨b, -, hx⟩ := exec_legal hi hat hp hf
  rw [hx, hn, hd, hs, ho, hpo]
  rfl

end

/-! ## The account of an issue (R106, R109, R140) -/

theorem Core.bay_setBay (c : Core) {n : Nat} (h : n < 4) (b : Bay) : (c.setBay n b).bay n = b := by
  match n, h with
  | 0, _ | 1, _ | 2, _ | 3, _ => rfl

theorem course_account (s : State) (x : Ctx) : (s.account x).course x.crs =
    ({ s.course x.crs with nextIssue := max (s.course x.crs).nextIssue (s.clock + x.h.gap.toNat + 1) } : Course).onSlot x.j (fun y =>
      { y with lastIssue := some s.clock, urgent := false, eligibleSince := none, stalled := false, wantsEntry := false,
               yieldUntil := if x.h.y then s.clock + 17 else y.yieldUntil }) :=
  Tab.get_put_same Course.dead s.courses x.crs _

theorem course_account_other (s : State) (x : Ctx) {h : Nat} (hne : h ≠ x.crs) : (s.account x).course h = s.course h :=
  Tab.get_put_other _ _ _ hne

theorem counter_count_same (s : State) (a k i n : Nat) : (s.count a k i n).counter a k i = s.counter a k i + n :=
  Tab.get_put_same 0 s.perf (perfKey a k i) _

theorem advance_on (s : State) (crs j : Nat) (act : LaneMask) (h : ((s.course crs).slotN j).pc + 8 ≠ 2 ^ 52) :
    s.advance crs j act = s.onCourse crs (fun c => c.onSlot j (fun y => { y with pc := y.pc + 8, wait := .none })) :=
  if_neg h

theorem advance_past (s : State) (crs j : Nat) (act : LaneMask) (h : ((s.course crs).slotN j).pc + 8 = 2 ^ 52) :
    s.advance crs j act = s.raise crs j (overflowTrap act ((s.course crs).supIn j)) :=
  if_pos h

/-- Settles O55: every word issues through State.issue, whose checks are walked in their order; then the fields of the account. -/
theorem wordIssue : Obligations.WordIssue := by
  refine ⟨fun i h s hi => ⟨exec_not_atIssue hi, exec_privileged hi, exec_illegalOperand hi,
      fun hat ⟨hp, hf⟩ => exec_destEmpty hi hat hp hf, fun hat ⟨hp, hf⟩ => exec_sourceEmpty hi hat hp hf,
      fun hat ⟨hp, hf⟩ => exec_idles hi hat hp hf, act_of_idles, idles_of_opcode,
      fun p hat ⟨hp, hf⟩ => exec_poisoned hi hat hp hf⟩,
    fun s x => ?_, fun s x => ⟨fun _ => rfl, rfl, rfl, rfl, fun hb => ?_, ?_⟩, advance_on, advance_past⟩
  · intro t
    rw [course_account]
    refine ⟨by simp, ?_, ?_, ?_, ?_, rfl, fun h hne => course_account_other s x hne⟩
    all_goals rw [Course.slotN_onSlot_same]
    all_goals rfl
  · exact (congrArg (fun k => (Core.bay k _).issued) (core_onCore_same s (s.course x.crs).core
      (fun k => k.setBay (s.course x.crs).bay { k.bay (s.course x.crs).bay with issued := some s.clock }))).trans
        (congrArg Bay.issued (Core.bay_setBay _ hb _))
  · exact counter_count_same (s.onBay (s.course x.crs).core (s.course x.crs).bay _) 0 (s.course x.crs).core 0 _

end Sys2Proof.Machine

namespace Sys2Proof.Machine

/-! ## Which lanes a BRA takes (R125) -/

theorem getLsbD_foldl_or (l : List Nat) (m : LaneMask) {L : Nat} (hL : L < 32) :
    (l.foldl (fun m L => m ||| BitVec.ofNat 32 (2 ^ L)) m).getLsbD L = (m.getLsbD L || decide (L ∈ l)) := by
  induction l generalizing m with
  | nil => simp
  | cons k t ih =>
    rw [List.foldl_cons, ih, BitVec.getLsbD_or, BitVec.getLsbD_ofNat, Nat.testBit_two_pow]
    simp [hL, eq_comm (a := L), Bool.or_assoc]

theorem getLsbD_maskOfLanes (l : List Nat) {L : Nat} (hL : L < 32) : (maskOfLanes l).getLsbD L = decide (L ∈ l) := by
  rw [maskOfLanes, getLsbD_foldl_or l _ hL, BitVec.getLsbD_zero, Bool.false_or]

/-- A mask that is kept whole or dropped. -/
theorem getLsbD_ite (b : Bool) (m : LaneMask) (L : Nat) : (if b then m else 0#32).getLsbD L = (m.getLsbD L && b) := by
  cases b <;> simp

theorem branchConditions : branchConditionsHold := by
  intro s x L hL
  refine ⟨rfl, fun r cc => ?_, fun r cc => getLsbD_ite .., fun m => ?_, fun m => ?_, fun m => ?_, fun m => ?_, fun m => ?_⟩
  · rw [State.taken, getLsbD_maskOfLanes _ hL]
    cases ha : x.act.getLsbD L <;> simp [mem_lanesOf, ha]
  · simp [State.taken, Bool.and_comm]
  · simp only [State.taken, BitVec.getLsbD_and, BitVec.getLsbD_not]
    cases x.act.getLsbD L <;> simp [hL]
  all_goals refine (getLsbD_ite ..).trans ?_
  · rw [bne, beq_eq_decide, decide_not]
  · rw [beq_eq_decide]
  · rw [beq_eq_decide]

/-! ## The shared effect of BRA and CALL -/

section
variable (s : State) (x : Ctx)

/-- A slot of the word's course is sent to an address with some lanes. -/
def sendTo (j pc : Nat) (taken : Bool) (m : LaneMask) : State :=
  s.onCourse x.crs (fun c => c.onSlot j (fun y => y.goto s.clock pc taken m))

/-- The lanes of the word's slot that do not take the branch. -/
def stayers (T : LaneMask) : LaneMask := ((s.issuer x).slotN x.j).mask &&& ~~~T

/-- The target lies outside the address space. -/
def farTarget (X : Int) : Prop := X < 0 ∨ 2 ^ 52 ≤ X

variable {s x}

theorem offSpace_iff {X : Int} : offSpace X = true ↔ farTarget X := by
  rw [offSpace, Bool.or_eq_true, decide_eq_true_iff, decide_eq_true_iff]
  rfl

theorem otherTaken_setCourse (h : Nat) (c d : Course) (j : Nat) : (s.setCourse h d).otherTaken c j = s.otherTaken c j := rfl

variable {X : Int} {T : LaneMask} {link : Course → Course}

theorem branch_none (hT : T = 0#32) : s.branch x X T link = .go (s.onCourse x.crs link) := by
  simp [State.branch, hT, State.onCourse, State.issuer]

theorem branch_far (hT : T ≠ 0#32) (hX : farTarget X) : s.branch x X T link = .trap (x.targetTrap X) := by
  simp [State.branch, hT, offSpace_iff.2 hX]

variable (hT : T ≠ 0#32) (hX : ¬ farTarget X)
include hT hX

theorem branch_all (hN : stayers s x T = 0#32) :
    s.branch x X T link = .jump (sendTo (s.onCourse x.crs link) x x.j X.toNat true T) := by
  have hoff : offSpace X = false := eq_false_of_ne_true (fun h => hX (offSpace_iff.1 h))
  unfold stayers at hN
  simp only [State.branch, hoff, hN, if_neg hT, bne_self_eq_false, Bool.and_false, Bool.false_and, Bool.false_eq_true, if_false, if_true]
  rfl

variable (hN : stayers s x T ≠ 0#32)
include hN

theorem branch_noRoom (ho : s.otherTaken (s.issuer x) x.j = true) (hfits : s.regionFits (s.issuer x) 1 = false) :
    s.branch x X T link = .trap (x.trap 0x0B) := by
  have hoff : offSpace X = false := eq_false_of_ne_true (fun h => hX (offSpace_iff.1 h))
  unfold stayers at hN
  simp [State.branch, hoff, hT, hN, ho, hfits]

theorem branch_pushes (ho : s.otherTaken (s.issuer x) x.j = true) (hfits : s.regionFits (s.issuer x) 1 = true) :
    s.branch x X T link = .jump ((sendTo (s.onCourse x.crs link) x x.j X.toNat true T).pushPaths x.crs x.act
      [(x.pc + 8, stayers s x T)]) := by
  have hoff : offSpace X = false := eq_false_of_ne_true (fun h => hX (offSpace_iff.1 h))
  unfold stayers at hN
  simp only [State.branch, hoff, if_neg hT, if_neg hN, otherTaken_setCourse, ho, hfits, Bool.and_false, Bool.false_eq_true,
    if_false, if_true, Bool.not_true]
  rfl

theorem branch_parts (ho : s.otherTaken (s.issuer x) x.j = false) : s.branch x X T link =
    .jump (sendTo (sendTo (s.onCourse x.crs link) x x.j X.toNat true T) x (1 - x.j) (x.pc + 8) false (stayers s x T) |>.begins
      x.crs (1 - x.j) x.act) := by
  have hoff : offSpace X = false := eq_false_of_ne_true (fun h => hX (offSpace_iff.1 h))
  unfold stayers at hN
  simp only [State.branch, hoff, if_neg hT, if_neg hN, otherTaken_setCourse, ho, Bool.and_false, Bool.false_and, Bool.false_eq_true,
    if_false]
  rfl

end

/-- A slot that has just been sent on begins there, or overflows past the last word (R140). -/
theorem begins_sendTo (s : State) (x : Ctx) (j pc : Nat) (taken : Bool) (m : LaneMask) :
    (sendTo s x j pc taken m).begins x.crs j x.act =
      if pc = 2 ^ 52 then (sendTo s x j pc taken m).raise x.crs j
        (overflowTrap x.act (((sendTo s x j pc taken m).course x.crs).supIn j))
      else sendTo s x j pc taken m := by
  have hpc : (((sendTo s x j pc taken m).course x.crs).slotN j).pc = pc := by
    rw [sendTo, course_onCourse_same, Course.slotN_onSlot_same]
    rfl
  rw [State.begins, hpc]
  rfl

/-- What a word of the form of BRA does, by the lanes that take the branch and by what the other slot holds. -/
def branchesHold (i : Instr) (h : Head) (X : Ctx → Int) (T : State → Ctx → LaneMask) (link : Ctx → Course → Course) : Prop :=
  DoesIf i h (fun s x => T s x = 0#32) (fun s x => (s.onCourse x.crs (link x)).went x) ∧
  DoesIf i h (fun s x => T s x ≠ 0#32 ∧ farTarget (X x)) (fun s x => s.trapped x (x.targetTrap (X x))) ∧
  DoesIf i h (fun s x => T s x ≠ 0#32 ∧ ¬ farTarget (X x) ∧ stayers s x (T s x) = 0#32) (fun s x =>
    (sendTo (s.onCourse x.crs (link x)) x x.j (X x).toNat true (T s x)).jumped x) ∧
  DoesIf i h (fun s x => T s x ≠ 0#32 ∧ ¬ farTarget (X x) ∧ stayers s x (T s x) ≠ 0#32 ∧ s.otherTaken (s.issuer x) x.j = true ∧
      s.regionFits (s.issuer x) 1 = false)
    (fun s x => s.trapped x (x.trap 0x0B)) ∧
  DoesIf i h (fun s x => T s x ≠ 0#32 ∧ ¬ farTarget (X x) ∧ stayers s x (T s x) ≠ 0#32 ∧
      s.otherTaken (s.issuer x) x.j = true ∧ s.regionFits (s.issuer x) 1 = true)
    (fun s x => ((sendTo (s.onCourse x.crs (link x)) x x.j (X x).toNat true (T s x)).pushPaths x.crs x.act
      [(x.pc + 8, stayers s x (T s x))]).jumped x) ∧
  DoesIf i h (fun s x => T s x ≠ 0#32 ∧ ¬ farTarget (X x) ∧ stayers s x (T s x) ≠ 0#32 ∧ s.otherTaken (s.issuer x) x.j = false)
    (fun s x =>
      let u := sendTo (sendTo (s.onCourse x.crs (link x)) x x.j (X x).toNat true (T s x)) x (1 - x.j) (x.pc + 8) false
        (stayers s x (T s x))
      if x.pc + 8 = 2 ^ 52 then (u.raise x.crs (1 - x.j) (overflowTrap x.act ((u.course x.crs).supIn (1 - x.j)))).jumped x
      else u.jumped x)

theorem branches_of {i : Instr} {h : Head} {X : Ctx → Int} {T : State → Ctx → LaneMask} {link : Ctx → Course → Course}
    (hx : ∀ s, exec i s = s.issue i h (fun x => s.branch x (X x) (T s x) (link x))) : branchesHold i h X T link := by
  refine ⟨fun s hp hT => ?_, fun s hp ⟨hT, hX⟩ => ?_, fun s hp ⟨hT, hX, hN⟩ => ?_, fun s hp ⟨hT, hX, hN, ho, hfits⟩ => ?_,
    fun s hp ⟨hT, hX, hN, ho, hfits⟩ => ?_, fun s hp ⟨hT, hX, hN, ho⟩ => ?_⟩ <;> rw [exec_of_passes (hx s) hp]
  · rw [branch_none hT]; rfl
  · rw [branch_far hT hX]; rfl
  · rw [branch_all hT hX hN]; rfl
  · rw [branch_noRoom hT hX hN ho hfits]; rfl
  · rw [branch_pushes hT hX hN ho hfits]; rfl
  · rw [branch_parts hT hX hN ho, begins_sendTo]
    dsimp only
    split <;> rfl

theorem ill_traps (h : Head) (body : BitVec 46) : Does (.ill h body) h (fun s x => s.trapped x (x.trap 0x01)) := by
  intro s hp
  have hx : exec (.ill h body) s = s.issue (.ill h body) h _ := rfl
  rw [exec_of_passes hx hp]
  rfl

theorem nop_goes (h : Head) : Does (.nop h) h (fun s x => s.went x) := by
  intro s hp
  have hx : exec (.nop h) s = s.issue (.nop h) h _ := rfl
  rw [exec_of_passes hx hp]
  rfl

/-- Settles O13: BRA and CALL share their effect, State.branch. -/
theorem branches : Obligations.Branches :=
  ⟨ill_traps, nop_goes,
    fun _ _ _ => branches_of (fun _ => rfl), fun _ _ _ _ => branches_of (fun _ => rfl), branchConditions⟩

end Sys2Proof.Machine

namespace Sys2Proof.Machine

/-! # Registers that a word changes besides its destinations (O58)

CDRAIN.pkg merges the team's shadow copies as it issues (R310). A copy with an uncorrectable error breaks its channel (R456),
and the unsent operations of a channel that breaks are refused (R312): a refused ATOMG lands zero, poisoned, in its
registers (R302). So a CDRAIN, which has no destination, changes a lane register at issue. -/

namespace PoisonedMerge

/-- The home of the shadowed line, and of the element that the ATOMG names. -/
def home : Dest := ⟨0, 0, false⟩

/-- An ATOMG of course 0 that has not been sent: lane 0 waits for the old value in v5. -/
def unsent : OutPacket :=
  { pkt := { key := ⟨0, 0, 0, home⟩, ctag := 0, die := 0, core := 0, gen := 0, seq := 0, rehome := false, ntf := none,
             body := .atom .add 4 5 [⟨0, 0, 0, 1, 0⟩] }
    op := 0, atomg := some (0, 0, 5) }

/-- What v5 waits for. -/
def pending : Pend :=
  { id := 0, unit := .other, kind := .remote, fills := [(⟨false, true, 5⟩, 1#32)], flags := 0#32, may := 0#32, pc := 0, slot := 0,
    act := 1#32, sup := false }

/-- The course: its slot is ready to issue, and v5 is empty in lane 0. -/
def course : Course :=
  { team := 0, idx := 0, core := 0, bay := 0, place := 0, slot0 := { pc := 8, mask := 1#32 }, slot1 := {}, live := 1#32,
    v := [(cellKey 5 0, { empty := true })], pend := [pending], nextPend := 1 }

/-- The team: the ATOMG waits in channel 0, and a copy with an uncorrectable error holds a contribution of that channel. -/
def team : Team :=
  { grid := 0, number := 0, core := 0, offset := 0, courses := [0], chans := [(0, { streams := [{ dest := home, pkts := [unsent] }] })],
    opSeq := 1,
    shadows := [{ dest := home, line := 0, slice := 0, die := 0, elems := [⟨0, 4, .add, 1, 0, 0⟩], touched := 0, poisoned := true }] }

/-- The package. -/
def state : State := { State.reset with courses := [(0, course)], teams := [(0, team)] }

/-- CDRAIN.pkg of no channel. -/
def drain : RWord := ⟨⟨false, 0#3, false, false, 0#3, false⟩, 0#8, ⟨.imm, 0#8⟩, ⟨.lane, 0#8⟩, ⟨.lane, 0#8⟩, false⟩

theorem empty_before : ((state.course state.cur.crs).laneCell false 5 0).empty = true := by decide

/-- CDRAIN issues, and v5 of lane 0 is full. -/
theorem full_after : ∃ t, exec (.cdrain drain .pkg false) state = .next t ∧
    ((t.course state.cur.crs).laneCell false 5 0).empty = false := ⟨_, rfl, by decide⟩

/-- CDRAIN has no destination. -/
theorem notDest_drain : notDest (.cdrain drain .pkg false) (state.course state.cur.crs).sup.isSome false true 5 := by
  rintro _ f hf r hr
  have hfields : (Instr.cdrain drain .pkg false).fields = [.src drain.a 1 [.unif, .imm]] := rfl
  rw [hfields, List.mem_singleton] at hf
  subst hf
  cases hr

end PoisonedMerge

/-- Refutes O58: CDRAIN.pkg merges a shadow copy with an uncorrectable error, which breaks a channel and lands the refused
value of an unsent ATOMG, so that a register that is no destination of the CDRAIN changes. -/
theorem not_wordFrame : ¬ Obligations.WordFrame := by
  intro h
  obtain ⟨t, hexec, hfull⟩ := PoisonedMerge.full_after
  obtain ⟨⟨hlane, -⟩, -⟩ := h.1 (.cdrain PoisonedMerge.drain .pkg false) PoisonedMerge.state t (by decide) (by decide) (by decide) hexec
  rw [hlane false 5 0 (by decide) PoisonedMerge.notDest_drain, PoisonedMerge.empty_before] at hfull
  cases hfull

end Sys2Proof.Machine
